-- ==== Sys2Proof/Word.lean ====
section
/-! DEFINITION. The word types of the package and the sparse table type that holds every indexed
piece of state (R5: bit 0 is the least significant bit of its word). -/

namespace Sys2Proof

/-- A byte of memory or of a message. -/
abbrev Byte := BitVec 8
/-- A 32-bit register word (R402). -/
abbrev Word := BitVec 32
/-- A 64-bit value, as a mailbox returns one (R409). -/
abbrev DWord := BitVec 64

/-- A sparse table: pairs of a key and a value. Its canonical form (keys strictly rising, no entry
equal to what an unlisted key reads as) is kept by the operations of Machine/Tbl.lean. -/
structure Tbl (α : Type) where
  cells : List (Nat × α)
  deriving DecidableEq, Repr

/-- The table that lists nothing. -/
def Tbl.empty {α : Type} : Tbl α := ⟨[]⟩

end Sys2Proof
end

