-- ==== Sys2Proof/Syntax.lean ====
section
/-! DEFINITION. The commands of the NQ-T5 package: one constructor for each row of
spec/opcode_table.json, in the table's order, with the operands that the row's rule names. Operands
that only the surroundings of the package can supply (a measured temperature, an error position, the
bytes of a message, the samples of a decoded picture) are operands of the command. -/

namespace Sys2Proof

/-- Compute die CD0–CD3 (R2). -/
abbrev Die := Fin 4
/-- Engine E00–E35 of a die (R3). -/
abbrev Eng := Fin 36
/-- Proofer PF0–PF7 (R2). -/
abbrev Prf := Fin 8
/-- Reed index 64 × column + row (R155). -/
abbrev Reed := Fin 6144
/-- Power domain PD00–PD71 (R15). -/
abbrev Pd := Fin 72
/-- Port code of a Diviwin sub-port, 4 × port + sub-port (R316). -/
abbrev PortCode := Fin 96
/-- Stream port SP000–SP127 of a die (R143). -/
abbrev Sp := Fin 128
/-- Chanter port CP00–CP15 of a die (R144). -/
abbrev Cp := Fin 16
/-- Decode engine DEC00–DEC15 (R294). -/
abbrev Dec := Fin 16
/-- Command tag (R370). -/
abbrev Tag := Word

/-- Array A or B of an engine (R46). -/
inductive Arr where
  | A | B
  deriving DecidableEq, Repr

/-- The part of an array that works on one problem: the whole array, or one half of a split array
(R64); arrays A and B of shape T2 are each `whole` (R49). -/
inductive Half where
  | whole | low | high
  deriving DecidableEq, Repr

/-- A half whose feeder or load path reads the operand buffer, and the single-bit errors that were corrected on the way (R66). -/
structure HalfRead where
  half      : Half
  corrected : Nat
  deriving DecidableEq, Repr

/-- An engine, or an array of one, whose sequencer or epilogue reads the operand buffer, and the single-bit errors that were corrected on the
way (R66). -/
structure EngRead where
  eng       : Eng
  corrected : Nat
  deriving DecidableEq, Repr

structure ArrRead where
  arr       : Arr
  corrected : Nat
  deriving DecidableEq, Repr

/-- The kind of check that failed (R66, R80). -/
inductive CheckKind where
  | parity | residue
  deriving DecidableEq, Repr

/-- Which program of a step program the Chanter runs (R174). -/
inductive Phase where
  | start | forward | backward
  deriving DecidableEq, Repr

/-- The errors that a read met in the code words of the granule or word it read (R285): wrong bits of an SRAM word; wrong symbols in each of
the two codewords of a crust granule, or of a Trough granule in all as their sum; and the DRAM dies that a Trough granule's wrong symbols
lie on. -/
structure Ecc where
  bits    : Nat
  symbols : Nat × Nat
  dies    : Nat
  deriving DecidableEq, Repr

/-- A read that meets no error. -/
def Ecc.clean : Ecc := { bits := 0, symbols := (0, 0), dies := 0 }

/-- The privilege modes of a hart (R303). -/
inductive Priv where
  | m | s | u
  deriving DecidableEq, Repr

/-- One PMP entry of a hart: its configuration byte and its address register (R303). -/
structure PmpEntry where
  cfg  : Nat
  addr : Nat
  deriving DecidableEq, Repr

/-- What a hart's own registers make of its accesses (R284, R303): the privilege mode that the access runs in, satp, the SUM and MXR bits of
its status, and its PMP entries. The software of a host core sets them; they are no state of the package's commands. -/
structure Hart where
  priv : Priv
  satp : DWord
  sum  : Bool
  mxr  : Bool
  pmp  : List PmpEntry
  deriving DecidableEq, Repr

/-- A hart in M mode with nothing set up. -/
def Hart.bare : Hart := { priv := .m, satp := 0, sum := false, mxr := false, pmp := [] }

/-- The receiver of a control token: a reed, a stream port or the Chanter at one of its ports (R149). -/
inductive TokenTarget where
  | reed (r : Reed)
  | port (p : Sp)
  | chanter (p : Cp)
  deriving DecidableEq, Repr

/-- The units of R283, as requesters of a memory access. -/
inductive MemUnit where
  | tileFetcher (d : Die) (e : Eng)
  | streamPort (d : Die) (p : Sp)
  | kvUnit (d : Die)
  | proofer (p : Prf)
  | collectives (edge : Fin 2)
  | decoder (k : Dec)
  | hostCore (edge : Fin 2) (core : Fin 16)
  | chanter (d : Die)
  deriving DecidableEq, Repr

/-- Who makes a memory access: a unit and, where it is a host core, what its hart's registers make of the access (R284, R303). -/
structure Requester where
  unit : MemUnit
  hart : Hart
  deriving DecidableEq, Repr

/-- A memory access: a read, a write with its bytes, or the instruction fetch of a hart (R280, R303, R312). -/
inductive MemOp where
  | read (len : Nat)
  | write (bytes : List Byte)
  | fetch (len : Nat)
  deriving DecidableEq, Repr

/-- The kind of an access, as permissions are given for it (R303, R312). -/
inductive Access where
  | load | store | fetch
  deriving DecidableEq, Repr

/-- The kind of an access, its length, and whether it writes. -/
def MemOp.access : MemOp → Access
  | .read _ => .load
  | .write _ => .store
  | .fetch _ => .fetch
def MemOp.len : MemOp → Nat
  | .read n => n
  | .write bs => bs.length
  | .fetch n => n
def MemOp.writes : MemOp → Bool
  | .write _ => true
  | _ => false

/-- The `n` bytes of an access from its byte `i` on. -/
def MemOp.part (op : MemOp) (i n : Nat) : MemOp :=
  match op with
  | .read _ => .read n
  | .write bs => .write ((bs.drop i).take n)
  | .fetch _ => .fetch n

/-- A memory die that has its own temperature sensor: a crust die or a DRAM die of a stack (R288). -/
inductive MemDie where
  | crust (n : Fin 16)
  | trough (s : Fin 16) (die : Fin 16)
  deriving DecidableEq, Repr

/-- What a patrol scrub pass covers: one Trough stack or one crust die (R287). -/
inductive ScrubUnit where
  | stack (s : Fin 16)
  | crust (n : Fin 16)
  deriving DecidableEq, Repr

/-- What a scrub pass met at one granule: the granule's address, the DRAM die that its correction is
charged to, and the errors found (R285, R287). -/
structure ScrubFind where
  addr : Nat
  die  : Fin 16
  err  : Ecc
  deriving DecidableEq, Repr

/-- A temperature sensor: one for each domain's junction, one for each memory die (R426). -/
inductive Sensor where
  | junction (p : Pd)
  | memory (m : MemDie)
  deriving DecidableEq, Repr

/-- The two references of the cadence unit (R347). -/
inductive Reference where
  | pulse | ptp
  deriving DecidableEq, Repr

/-- The trim that a domain's critical-path monitors ask for at a tick (R361). -/
inductive Trim where
  | up | keep | down
  deriving DecidableEq, Repr

/-- How the full training of a sub-port ended (R318, R325): up, with the credits of VC1 to VC5 that the peer's receiver grants;
failed; or a one-way latency above 100 ns. -/
inductive TrainResult where
  | up (peer : Vector (BitVec 11) 5)
  | failed
  | tooFar
  deriving DecidableEq, Repr

/-- The outcome of the array self-test for one array: the rows and columns that failed (R73). -/
structure SelfTest where
  array : Fin 288
  rows  : List (Fin 128)
  cols  : List (Fin 128)
  deriving DecidableEq, Repr

/-- What the surroundings bring to one boot sequence (R382): the bytes of the two flash copies, the
outcome of each port's training, and whether every sensor reads below 90 °C (R429). -/
structure BootInput where
  primary   : List Byte
  alternate : List Byte
  trained   : List (PortCode × TrainResult)
  cool      : Bool
  deriving DecidableEq, Repr

/-- One Ethernet frame at a Ramtor port: what the port looks at (R367) and the segment it carries
(R368). -/
structure Frame where
  port      : Fin 2
  toUs      : Bool
  vlan      : Bool
  etherType : BitVec 16
  fcsOk     : Bool
  hdr       : List Word
  payload   : List Byte
  deriving DecidableEq, Repr

/-- An Announce message (R345): the data set that the best master clock algorithm compares. -/
structure AnnounceMsg where
  domain       : BitVec 8
  priority1    : BitVec 8
  clockClass   : BitVec 8
  accuracy     : BitVec 8
  variance     : BitVec 16
  priority2    : BitVec 8
  gmIdentity   : DWord
  stepsRemoved : BitVec 16
  sender       : DWord
  /-- The base 2 logarithm of the seconds between Announce messages. -/
  logInterval  : Int
  deriving DecidableEq, Repr

/-- The shape of a tensor range for a checkpoint stream (R271, R379). -/
structure CkptArgs where
  tensorLo    : BitVec 20
  tensorHi    : BitVec 20
  incremental : Bool
  baseUpd     : DWord
  conduit     : Option (Fin 32)
  deriving DecidableEq, Repr

/-- What a job overrides for one span (R298, R314): RS_CTRL, OFFSET_Y, OFFSET_C, GAIN_Y and GAIN_C. -/
structure JobSet where
  rsCtrl  : Word
  offsetY : Word
  offsetC : Word
  gainY   : Word
  gainC   : Word
  deriving DecidableEq, Repr

/-- One span of a manifest (R306): source, first presentation time, output frames, crop rectangle, target grid in patches, variant
tag, fragment identifier, and the job's overrides. -/
structure Span where
  source   : DWord
  track    : Nat
  startPts : DWord
  frames   : Nat
  cropX    : Nat
  cropY    : Nat
  cropW    : Nat
  cropH    : Nat
  gridH    : Nat
  gridW    : Nat
  variant  : BitVec 12
  fragId   : DWord
  job      : Option JobSet
  deriving DecidableEq, Repr

/-- The video standards of R295. -/
inductive VideoStd where
  | mpeg2 | h264 | hevc | av1 | other
  deriving DecidableEq, Repr

/-- Chroma formats of R295. -/
inductive Chroma where
  | c420 | c422 | c444
  deriving DecidableEq, Repr

/-- What a stream declares about itself (R295): standard, profile number in the order of the table's row, level, chroma, bit depth,
interlaced or not, coded picture size. The level is ten times its number; for MPEG-2 it is 1 Low, 2 Main, 3 High 1440, 4 High. -/
structure EssenceInfo where
  std        : VideoStd
  profileIx  : Nat
  level10    : Nat
  chroma     : Chroma
  depth      : Nat
  interlaced : Bool
  width      : Nat
  height     : Nat
  deriving DecidableEq, Repr

/-- A container as the firmware finds it, with the features that R305 names: the bytes of a transport packet and whether packets are
scrambled; common encryption and external data references; operational pattern, wrapping and encryption. -/
inductive MxfPattern where
  | op1a | opAtom | other
  deriving DecidableEq, Repr
inductive MxfWrapping where
  | frame | clip | other
  deriving DecidableEq, Repr
inductive ContainerInfo where
  | transport (packet : Nat) (scrambled : Bool)
  | isoMedia (encrypted external : Bool)
  | mxf (pattern : MxfPattern) (wrapping : MxfWrapping) (encrypted : Bool)
  | other
  deriving DecidableEq, Repr

/-- A video track of a container: its number, its essence, where in HOST memory the bytes of the span's access units lie, in order, as
(address, length), and the continuity and length errors met there (R299, R305). -/
structure FoundTrack where
  track    : Nat
  essence  : EssenceInfo
  pieces   : List (Nat × Nat)
  ccErrors : Nat
  deriving DecidableEq, Repr

/-- What demultiplexing one span of a container found: the container and its video tracks, or a structure error that prevents locating the
span's access units (R305). -/
inductive DemuxResult where
  | found (c : ContainerInfo) (tracks : List FoundTrack)
  | broken
  deriving DecidableEq, Repr

/-- One plane of decoded samples, rows of samples at the coded depth (R301). -/
structure Plane where
  width   : Nat
  height  : Nat
  samples : List Nat
  deriving DecidableEq, Repr

/-- What a decoded picture holds (R295, R297): a progressive picture, one field, or a frame of two fields. -/
inductive PicKind where
  | progressive
  | topField
  | bottomField
  | frame (topFirst : Bool)
  deriving DecidableEq, Repr

/-- A rectangle of a picture in luma samples. -/
structure Area where
  x : Nat
  y : Nat
  w : Nat
  h : Nat
  deriving DecidableEq, Repr

/-- One picture as the standards of R295 decode it, before concealment (R299): its planes at the coded depth, whether its presentation time
lies in the span (R298), and the errors met: the areas that slice, tile or macroblock errors damaged, the host core's mark on its access unit,
a missing reference picture (mid-grey already stands in for it in the planes), and a picture or sequence header error. `nearest` is the buffer
of its context that holds the nearest reference picture, and `buf` the one that takes this picture. -/
structure DecodedPicture where
  kind        : PicKind
  luma        : Plane
  cb          : Plane
  cr          : Plane
  shown       : Bool
  areas       : List Area
  marked      : Bool
  missingRef  : Bool
  headerError : Bool
  nearest     : Option Nat
  buf         : Nat
  filmGrain   : Bool
  deriving DecidableEq, Repr

/-- A picture with an error is damaged (R299). -/
def DecodedPicture.damaged (p : DecodedPicture) : Bool := !p.areas.isEmpty || p.marked || p.missingRef || p.headerError

/-- The header word that opens every command (R370, R379): the tag and the reserved bits 31:16 of the
first payload word. -/
structure Hdr where
  tag  : Tag
  resv : BitVec 16
  deriving DecidableEq, Repr

/-- A codeword of RS(544,514) that carries bits of a flit (R320): the symbols that were received in error, and whether it ends with this
flit, which then counts it. -/
structure CodeWord where
  errs : List (Fin 544)
  ends : Bool
  deriving DecidableEq, Repr

/-- What every flit carries besides its own fields (R320, R321): ACK and the credit return, its CRC, and the codewords that carried it. -/
structure FlitHdr where
  ack   : BitVec 11
  crdVc : BitVec 3
  crd   : BitVec 7
  crc   : BitVec 32
  words : List CodeWord
  deriving DecidableEq, Repr

/-- A DATA flit as the receiver sees it (R321). -/
structure Flit where
  hdr     : FlitHdr
  vc      : BitVec 3
  som     : Bool
  eom     : Bool
  seq     : BitVec 11
  payload : List Byte
  deriving DecidableEq, Repr

/-- One chunk of a shard that is fetched from the reference (R269): the bytes of its header, of its records and of its working
copy. -/
structure ShardChunk where
  chunk   : Nat
  header  : List Byte
  records : List Byte
  copy    : List Byte
  deriving DecidableEq, Repr

/-- What a COL_TIMEOUT ends (R337): the operations of a group, or a conduit. -/
inductive ColTarget where
  | group (g : Fin 8)
  | conduit (c : Fin 32)
  deriving DecidableEq, Repr

/-- A Leaven report (R39): the counts SAT, UNF and INV, the elements and the largest finite magnitude. -/
structure LevCounts where
  sat     : Nat
  unf     : Nat
  inv     : Nat
  elem    : Nat
  stepMax : Nat
  deriving DecidableEq, Repr

/-- A frame of a checkpoint stream into the package, and the byte of the stream that it begins at (R270, R371). -/
structure CkFrame where
  off   : Nat
  bytes : List Byte
  deriving DecidableEq, Repr

/-- What a member of the replica group sends at a seal (R268): its position, its package summary, its commit flag and, for each
shard, Proofer, table entry and digest; and the Leaven reports of the step of each weight tensor, by die and entry. -/
structure SealMsg where
  member  : Nat
  summary : Nat
  commit  : Bool
  shards  : List (Fin 8 × Fin 1024 × Nat)
  reports : List (Fin 4 × Fin 4096 × LevCounts)
  deriving DecidableEq, Repr

/-- The commands, one constructor for each row of the table, in the table's order. -/
inductive Instr where
  | attest (h : Hdr) (nonce : List Byte)
  | readReg (h : Hdr) (addr : Word) (count : Nat)
  | writeReg (h : Hdr) (addr : Word) (vals : List Word)
  | loadFw (h : Hdr) (comp : Nat) (off : Nat) (bytes : List Byte)
  | fwComplete (h : Hdr)
  | fwCompleteDone
  | loadImage (h : Hdr) (dies : Word) (off : Nat) (bytes : List Byte) (final : Bool)
  | activate (h : Hdr) (dies : Word)
  | swapRequest (h : Hdr) (dies : Word)
  | commitConfig (h : Hdr)
  | reactivate (h : Hdr) (dies : Word)
  | run (h : Hdr)
  | hold (h : Hdr)
  | resume (h : Hdr)
  | stop (h : Hdr)
  | arrayRepair (h : Hdr) (arrays : List Nat)
  | arrayRepairDone (results : List SelfTest)
  | fabricFlush (h : Hdr) (dies : Word)
  | portRetrain (h : Hdr) (codes : List Nat)
  | cadReacquire (h : Hdr)
  | ckptExport (h : Hdr) (args : CkptArgs)
  | ckptImport (h : Hdr) (conduit : Option (Fin 32))
  | ckptStop (h : Hdr)
  | ledgerAck (h : Hdr) (step : DWord)
  | cap (h : Hdr) (watts : Word) (tick : DWord)
  | supplyHold (h : Hdr) (ticks : Word) (tick : DWord)
  | shed (h : Hdr) (tick : DWord)
  | freqDev (h : Hdr) (mHz : Word) (action : Word) (tick : DWord)
  | supplyMsgTick
  | holdExpiry
  | cipEnable (h : Hdr)
  | cipDisable (h : Hdr)
  | maintEnter (h : Hdr)
  | maintExit (h : Hdr)
  | debugUnlock (h : Hdr)
  | keysetRotate (h : Hdr) (digest : List Byte) (sigRsa sigSlh : List Byte)
  | zeroise (h : Hdr) (arg : Word)
  | zeroiseDone
  | tamperClear (h : Hdr)
  | floorRaise (h : Hdr) (floor : Word)
  | reset (h : Hdr) (b : BootInput)
  | recoverLoad (h : Hdr) (off : Word) (bytes : List Byte) (word3 : Word)
  | recoverVerifyDone (trained : List (PortCode × TrainResult))
  | commandReservedOpcode (h : Hdr) (opcode : BitVec 16)
  | segment (f : Frame)
  | credit (word0 : Word) (offset : DWord) (word3 : Word)
  | nak (word0 : Word) (offset : DWord) (word3 : Word)
  | ingest (off : Nat) (bytes : List Byte) (dest : Nat) (consumed : Nat)
  | ctlRamtorFailover
  | ledgerSend
  | eventAdmit (first : BitVec 16)
  | eventChannelSend (n : Nat)
  | eventHostCopy
  | resetNDeassert (b : BootInput)
  | resetNAssert
  | pwrGoodLoss
  | supplyAlert
  | pllSwitch
  | supplyAlertRelease
  | presenceNChange (level : Bool)
  | presence
  | secTamper
  | pwrBrownout (rail : Fin 9)
  | brownoutRecovery (b : BootInput)
  | tempWarn (sensor : Sensor) (c : Nat)
  | tempLimit (pd : Pd) (c : Nat)
  | hltThermtrip (sensor : Sensor) (c : Nat)
  | memRefreshBand (die : MemDie) (c : Nat)
  | droop (pd : Pd)
  | droopEnd (pd : Pd) (ac : Nat)
  | tick (trims : List (Pd × Trim)) (margins : List (Fin 24 × Fin 32 × Nat))
  | stepSeal
  | sync (domain : Nat) (sender : Nat) (seq : Nat) (twoStep : Bool) (rxHalf : Int)
  | followUp (domain : Nat) (sender : Nat) (seq : Nat) (originNs corrNs : Int)
  | announce (m : AnnounceMsg)
  | delayResp (domain : Nat) (sender : Nat) (reqHalf rxNs : Int)
  | syncTimeout
  | cadenceEdge (offHalf : Int)
  | pulseInconsistent
  | pulseConsistent
  | pulseLoss
  | locked
  | cadLost (named : Option Nat)
  | relock (ref : Reference) (named : Nat) (offNs : Int)
  | bellowsLoop (rails : List (Fin 9 × Nat × Nat))
  | pwrRampRelaxed
  | mode (v : Word)
  | rotation (images : List (Die × List Byte))
  | reqOn (pd : Pd) (on : Bool)
  | domainRampDone (pd : Pd)
  | hourlyTrend
  | ringOscSample (samples : List (Pd × Fin 4 × Nat))
  | retentionCanary (crust : Fin 16) (windowMs : Nat)
  | patrolScrub (unit : ScrubUnit) (finds : List ScrubFind)
  | memoryAccess (unit : Requester) (addr : Nat) (op : MemOp) (ecc : Ecc) (die : Fin 16) (mb : Nat)
  | registerWrite (addr : Word) (v : Word)
  | mbxSel (page : BitVec 16) (item : Word)
  | mailboxSnapshot (page : BitVec 16)
  | quiesceReq (page : BitVec 16) (v : Bool)
  | enable (page : BitVec 16) (v : Bool)
  | leavenW0Write (d : Die) (v : Word)
  | drop (d : Die)
  | abandon (d : Die)
  | holdLimitExpiry (d : Die)
  | mpdAccept (d : Die) (e : EngRead)
  | descriptorRecord (d : Die) (e : Eng)
  | tileFetch (d : Die) (e : Eng) (a : Arr) (h : Half)
  | preload (d : Die) (e : Eng) (a : Arr) (h : HalfRead)
  | shadowLoadDone (d : Die) (e : Eng) (a : Arr) (h : HalfRead)
  | passStart (d : Die) (e : Eng) (a : Arr) (h : HalfRead)
  | passAccept (d : Die) (e : Eng) (a : Arr) (h : Half)
  | checkFailure (d : Die) (e : Eng) (a : Arr) (h : Half) (kind : CheckKind) (index : BitVec 16)
  | overflow (d : Die) (e : Eng) (a : Arr) (h : Half)
  | rung3Move (d : Die) (e : Eng) (a : Arr) (h : Half)
  | engOperandUncorrectable (d : Die) (e : Eng) (a : Arr) (h : Half) (shared : Bool)
  | drain (d : Die) (e : Eng) (a : Arr)
  | epilogueRow (d : Die) (e : Eng) (a : ArrRead)
  | mpdComplete (d : Die) (e : Eng) (a : Arr)
  | emptyMpd (d : Die) (e : Eng) (a : Arr)
  | ballastPass (d : Die) (e : Eng) (a : Arr)
  | multicastUnit (d : Die) (e : Eng) (lst : Fin 64)
  | seqMcastStall (d : Die) (e : Eng) (lst : Fin 64)
  | reedFiring (d : Die) (r : Reed)
  | counterWrap (d : Die) (r : Reed) (c : Fin 4)
  | goToken (d : Die) (t : TokenTarget)
  | sel (d : Die) (t : TokenTarget)
  | br (d : Die) (t : TokenTarget)
  | endToken (d : Die) (t : TokenTarget)
  | phaseToken (d : Die) (t : TokenTarget)
  | doneToken (d : Die) (t : TokenTarget)
  | streamRun (d : Die) (p : Sp)
  | streamRunEnd (d : Die) (p : Sp)
  | fabStarve (d : Die) (r : Reed)
  | creditAudit (d : Die)
  | swap (d : Die)
  | reactivation (d : Die)
  | stepStart (d : Die)
  | forwardPhase (d : Die)
  | backwardPhase (d : Die)
  | issue (d : Die) (p : Phase)
  | extent (d : Die) (p : Phase)
  | go (d : Die) (p : Phase)
  | word (d : Die) (p : Phase)
  | wait (d : Die) (p : Phase)
  | arm (d : Die) (p : Phase)
  | send (d : Die) (p : Phase)
  | recv (d : Die) (p : Phase)
  | doneLayer (d : Die) (p : Phase)
  | endProgram (d : Die) (p : Phase)
  | nextComplete (d : Die)
  | revert (d : Die)
  | partialRow (p : Prf)
  | contributionComplete (p : Prf)
  | delivery (p : Prf)
  | statePrefetch (p : Prf)
  | chunkApply (p : Prf)
  | nextCompleteSend (p : Prf)
  | segmentNotice (p : Prf)
  | poison (p : Prf)
  | release (p : Prf)
  | abandonNotice (p : Prf)
  | sealExchange (m : SealMsg)
  | divergenceRecovery (p : Prf) (entry : Fin 1024) (chunks : List ShardChunk) (rep : LevCounts)
  | exportFrame
  | importFrame (f : CkFrame)
  | dataFlit (code : PortCode) (f : Flit)
  | nakFlit (code : PortCode) (h : FlitHdr)
  | ackTimeout (code : PortCode)
  | lnkLaneRetired (code : PortCode) (uncorr : List (Fin 32 × Nat))
  | laneMarginLimit (code : PortCode) (lane : Fin 32)
  | lockLoss (code : PortCode)
  | fastRetrainEnd (code : PortCode) (ok : Bool)
  | trainingEnd (code : PortCode) (r : TrainResult)
  | heartbeat (code : PortCode)
  | lnkPartition (code : PortCode)
  | collectiveData (code : PortCode)
  | windowCredit (num : Fin 4096) (gather alongY : Bool) (n : Nat)
  | collectiveAbort (code : PortCode)
  | colTimeout (t : ColTarget)
  | conduitNotice (code : PortCode)
  | conduitData (code : PortCode) (dest : BitVec 46)
  | bulkReadRequest (code : PortCode) (addr : BitVec 46) (len : Nat)
  | bulkData (code : PortCode) (addr : BitVec 46)
  | kvOpen (d : Die)
  | kvFork (d : Die)
  | kvAppend (d : Die)
  | kvFree (d : Die)
  | kvAdvance (d : Die)
  | readerClose (d : Die) (p : Sp)
  | manifest (gen passes : Nat) (spans : List Span)
  | containerDemux (gen span : Nat) (r : DemuxResult) (place : Nat)
  | streamContextOpen (dec : Dec) (gen span : Nat) (buffers : List Nat)
  | pictureDecode (dec : Dec) (gen span : Nat) (pic : DecodedPicture)
  | fragment (gen span : Nat) (ended : Bool) (p : Prf) (slot : Nat)
  | generationPublish (gen : Nat)
  | generationRetire (gen : Nat)
  | ingestQueueEntry
  | ingestRun (d : Die) (p : Sp)
  | spanSubmit (edge : Fin 2) (x : Span) (r : DemuxResult)
  | ingCipViolation (edge : Fin 2) (addr : Nat) (op : MemOp)
  | sealLoopChange (closed : Bool)
  | src (v : Word)
  | idleFlit (code : PortCode) (h : FlitHdr)
  deriving DecidableEq, Repr

end Sys2Proof
end

