-- ==== Sys2Proof/Decode.lean ====
section
/-! DEFINITION. The command that a word spells by the bits of spec/opcode_table.json. -/

namespace Sys2Proof

/-- No row of the table gives bits: the commands of this block are messages, register writes and events, which carry their operands
as they stand. So no word spells a command (log entry 77). -/
def decodeTableWord (_nbits _w : Nat) : Option Instr := none

end Sys2Proof
end

