-- ==== Sys2Proof/Config.lean ====
section
/-! DEFINITION. What an implementation fixes and what the manual leaves open: opaque constants, whose
value no proof can see. -/

namespace Sys2Proof

/-- A free value of `w` bits: the `n`-th value that the manual leaves open (log entry 2). -/
opaque Config.free (w : Nat) (n : Nat) : BitVec w

/-- A free choice below a bound, as the `n`-th choice that the manual leaves open (log entry 2). The
caller reduces it modulo the number of allowed results. -/
opaque Config.freeNat (n : Nat) : Nat

/-- Sign and payload of a NaN that operation `op` forms from operand codes (log entry 3): IEEE 754 leaves them
open. -/
opaque Config.nanBits (op : Nat) (args : List Nat) : Nat

/-- Bits that operation `op` on operand codes leaves open: the choice within the error of the function unit, and a result that the manual
does not state (log entries 2 and 34). Equal operands give equal bits. -/
opaque Config.openBits (op : Nat) (args : List Nat) : Nat

/-- The 64-bit run seed (R34): the manual names no register that holds it (log entry 24). -/
opaque Config.runSeed : BitVec 64

/-- The salt and the purposes of the derivation of the identity keys (R394; log entry 4): seeds 0 to 2 of the SLH-DSA key pair, and 3 the seed
of the generator of the RSA key pair. -/
opaque Config.hkdfSalt : List Byte
opaque Config.hkdfInfo (i : Nat) : List Byte

/-- The RSA modulus and private exponent that are found with an HMAC-DRBG of a state (K, V) (R394; log entry 4). -/
opaque Config.rsaKeyPair : List Byte → List Byte → Nat × Nat

/-- The randomness of a signature over a message: 0 the salt of RSASSA-PSS, 1 the randomness of SLH-DSA (R383; log entry 4). -/
opaque Config.signRand (i : Nat) (m : List Byte) : Nat

/-- The fused table that corrects a ring-oscillator reading for voltage and temperature (R426):
domain, oscillator, millivolts, degrees, raw shift (log entry 5). -/
opaque Config.ringCorrect : Nat → Nat → Nat → Nat → Nat → Nat

/-- Tap `t` (−3 to 3, given as 0 to 6) of phase `p` of the resampler's coefficient table, which loads with the ingest firmware (R301;
log entry 62). The last tap is what the sum 16,384 leaves. -/
opaque Config.resampleTap (p t : Nat) : BitVec 16

/-- Under Relaxed reduction, whether the engines sum a chunk of an operation along Y before X (R334): operation and chunk. -/
opaque Config.colFirstY (num chunk : Nat) : Bool

/-- Where source size ÷ output size is no 16.16 number, whether step_16_16 is the next one above it (R301; log entry 62). -/
opaque Config.stepUp (source out : Nat) : Bool

/-- The bits of a state register whose layout no rule gives (PORT_STATE, SP_STATE): register address, subpage selection, occasion
(log entry 65). -/
opaque Config.openReg (addr sel n : Nat) : BitVec 32

end Sys2Proof
end

