-- ==== Sys2Proof/Machine/Bits.lean ====
section
/-! DEFINITION. Bit fields, byte order and checksums. Bit ranges are written high, low as in R5; a
multi-byte field of a record lies low byte first, as the R380 to R416 tables number their bytes. -/

namespace Sys2Proof

/-- Bits `hi:lo` of a number (R5). -/
def bitsOf (n hi lo : Nat) : Nat := (n >>> lo) % 2 ^ (hi - lo + 1)

/-- One bit of a number. -/
def bitOf (n i : Nat) : Bool := n.testBit i

/-- `n` with bits `hi:lo` replaced by the low bits of `v`. -/
def putBits (n hi lo v : Nat) : Nat :=
  n - (bitsOf n hi lo) * 2 ^ lo + (v % 2 ^ (hi - lo + 1)) * 2 ^ lo

/-- Bits `hi:lo` of a register word (R5). -/
def fld (w : Word) (hi lo : Nat) : Nat := bitsOf w.toNat hi lo

/-- A register word from fields given as (low bit, value). -/
def mkWord (fs : List (Nat × Nat)) : Word :=
  BitVec.ofNat 32 (fs.foldl (fun a f => a + f.2 * 2 ^ f.1) 0)

/-- A truth value as a bit. -/
def b2n (b : Bool) : Nat := if b then 1 else 0

/-- The `n` bytes of a number, low byte first. -/
def leBytes : Nat → Nat → List Byte
  | 0, _ => []
  | n + 1, v => BitVec.ofNat 8 v :: leBytes n (v / 256)

/-- The number that bytes spell, low byte first. -/
def leNat : List Byte → Nat
  | [] => 0
  | b :: bs => b.toNat + 256 * leNat bs

/-- The `n` bytes of a number, high byte first. -/
def beBytes (n v : Nat) : List Byte := (leBytes n v).reverse

/-- The number that bytes spell, high byte first. -/
def beNat (bs : List Byte) : Nat := leNat bs.reverse

/-- Bytes `[off, off + n)` of a list, as a number, low byte first; bytes beyond the list are zero. -/
def leAt (bs : List Byte) (off n : Nat) : Nat := leNat ((bs.drop off).take n)

/-- The list with `ys` written over it from position `off`; the list is extended with zeros as needed. -/
def overwrite (bs : List Byte) (off : Nat) (ys : List Byte) : List Byte :=
  let base := bs ++ List.replicate (off - bs.length) 0
  base.take off ++ ys ++ base.drop (off + ys.length)

/-- A record of `n` bytes from fields given as (first byte, byte count, value), low byte first. -/
def record (n : Nat) (fs : List (Nat × Nat × Nat)) : List Byte :=
  fs.foldl (fun a f => overwrite a f.1 (leBytes f.2.1 f.2.2)) (List.replicate n 0)

/-- The two's complement value of an `n`-bit number. -/
def signedOf (n v : Nat) : Int :=
  if v % 2 ^ n < 2 ^ (n - 1) then Int.ofNat (v % 2 ^ n) else Int.ofNat (v % 2 ^ n) - Int.ofNat (2 ^ n)

/-- The `n`-bit two's complement form of an integer. -/
def ofSigned (n : Nat) (i : Int) : Nat := (i % Int.ofNat (2 ^ n)).toNat

/-- Cut a list into pieces of `n`, given at most `fuel` pieces. -/
def chunks {α : Type} (n : Nat) : Nat → List α → List (List α)
  | 0, _ => []
  | fuel + 1, l => if l.isEmpty then [] else l.take n :: chunks n fuel (l.drop n)

/-- One bit of a reflected CRC register with polynomial `poly`. -/
def crcBit (poly c : Nat) : Nat := if c % 2 = 1 then (c / 2) ^^^ poly else c / 2

/-- One byte of a reflected CRC. -/
def crcByte (poly c : Nat) (b : Byte) : Nat :=
  (List.range 8).foldl (fun a _ => crcBit poly a) (c ^^^ b.toNat)

/-- A reflected CRC of `w` bits, all ones before and complemented after. -/
def crcRefl (w poly : Nat) (bs : List Byte) : Nat :=
  (bs.foldl (crcByte poly) (2 ^ w - 1)) ^^^ (2 ^ w - 1)

/-- One bit step of the unreflected CRC-64 of ECMA-182 (R267). -/
def crc64Bit (c : Nat) : Nat :=
  if c.testBit 63 then ((c * 2) % 2 ^ 64) ^^^ 0x42F0E1EBA9EA3693 else (c * 2) % 2 ^ 64

/-- CRC-64 of ECMA-182: initial value 0, no reflection, final XOR 0 (R267). -/
def crc64 (bs : List Byte) : Nat :=
  bs.foldl (fun c b => (List.range 8).foldl (fun a _ => crc64Bit a) (c ^^^ (b.toNat * 2 ^ 56))) 0

/-- CRC-32C in its customary reflected form (R156; log entry 6). -/
def crc32c (bs : List Byte) : Nat := crcRefl 32 0x82F63B78 bs

/-- Least `n` with `p n` below a bound. -/
def firstBelow (bound : Nat) (p : Nat → Bool) : Option Nat := (List.range bound).find? p

/-- The greatest element, 0 for the empty list. -/
def maxNat (l : List Nat) : Nat := l.foldl max 0

/-- Remove the first element that satisfies a test. -/
def eraseFirst {α : Type} (p : α → Bool) : List α → List α
  | [] => []
  | a :: l => if p a then l else a :: eraseFirst p l

/-- Round up to the next integer. -/
def ceilDiv (a b : Nat) : Nat := (a + b - 1) / b

end Sys2Proof
end

