-- ==== Sys2Proof/Machine/Codes.lean ====
section
/-! DEFINITION. The fault and event codes and the page map (R406, R425). -/

namespace Sys2Proof.Machine

/-- ARRAY_SPLIT_FAULT (R425). -/
abbrev Code.arraySplitFault : Nat := 0x0101
/-- ARRAY_FAULT (R425). -/
abbrev Code.arrayFault : Nat := 0x0102
/-- ARRAY_REPLAYED (R425). -/
abbrev Code.arrayReplayed : Nat := 0x0103
/-- ENG_MPD_REFUSED (R425). -/
abbrev Code.engMpdRefused : Nat := 0x0104
/-- ARRAY_SPARE_ENGAGED (R425). -/
abbrev Code.arraySpareEngaged : Nat := 0x0105
/-- ARRAY_RETIRED (R425). -/
abbrev Code.arrayRetired : Nat := 0x0106
/-- ENG_OPERAND_UNCORRECTABLE (R425). -/
abbrev Code.engOperandUncorrectable : Nat := 0x0107
/-- ACC_OVF_REPLAYED (R425). -/
abbrev Code.accOvfReplayed : Nat := 0x0201
/-- ACC_NONFINITE (R425). -/
abbrev Code.accNonfinite : Nat := 0x0202
/-- ACC_PLAN_OVER (R425). -/
abbrev Code.accPlanOver : Nat := 0x0203
/-- SEQ_EXTENT_OVER (R425). -/
abbrev Code.seqExtentOver : Nat := 0x0301
/-- SEQ_BUCKET_MISS (R425). -/
abbrev Code.seqBucketMiss : Nat := 0x0302
/-- SEQ_MPD_INVALID (R425). -/
abbrev Code.seqMpdInvalid : Nat := 0x0303
/-- SEQ_MCAST_STALL (R425). -/
abbrev Code.seqMcastStall : Nat := 0x0304
/-- SEQ_MCAST_MISMATCH (R425). -/
abbrev Code.seqMcastMismatch : Nat := 0x0305
/-- FAB_AUDIT_FAIL (R425). -/
abbrev Code.fabAuditFail : Nat := 0x0401
/-- FAB_STARVE (R425). -/
abbrev Code.fabStarve : Nat := 0x0402
/-- FAB_IMAGE_INVALID (R425). -/
abbrev Code.fabImageInvalid : Nat := 0x0403
/-- FAB_SWAP_DEFERRED (R425). -/
abbrev Code.fabSwapDeferred : Nat := 0x0404
/-- FAB_TOKEN_INVALID (R425). -/
abbrev Code.fabTokenInvalid : Nat := 0x0405
/-- FAB_LIMIT_OVER (R425). -/
abbrev Code.fabLimitOver : Nat := 0x0406
/-- FAB_LS_UNCORRECTABLE (R425). -/
abbrev Code.fabLsUncorrectable : Nat := 0x0407
/-- PRF_NONFINITE_CHUNK (R425). -/
abbrev Code.prfNonfiniteChunk : Nat := 0x0501
/-- PRF_DIGEST_MISMATCH (R425). -/
abbrev Code.prfDigestMismatch : Nat := 0x0502
/-- PRF_ARRIVAL_FULL (R425). -/
abbrev Code.prfArrivalFull : Nat := 0x0503
/-- PRF_STEP_DISCARDED (R425). -/
abbrev Code.prfStepDiscarded : Nat := 0x0504
/-- PRF_COUNT_MISMATCH (R425). -/
abbrev Code.prfCountMismatch : Nat := 0x0505
/-- PRF_SOURCE_CONFLICT (R425). -/
abbrev Code.prfSourceConflict : Nat := 0x0506
/-- PRF_PROGRAM_INVALID (R425). -/
abbrev Code.prfProgramInvalid : Nat := 0x0507
/-- PRF_TABLE_INVALID (R425). -/
abbrev Code.prfTableInvalid : Nat := 0x0508
/-- PRF_STATE_UNCORRECTABLE (R425). -/
abbrev Code.prfStateUncorrectable : Nat := 0x0509
/-- PRF_IMPORT_CRC (R425). -/
abbrev Code.prfImportCrc : Nat := 0x050A
/-- PRF_EXPORT_DELAY (R425). -/
abbrev Code.prfExportDelay : Nat := 0x050B
/-- LNK_LANE_RETIRED (R425). -/
abbrev Code.lnkLaneRetired : Nat := 0x0601
/-- LNK_PARTITION (R425). -/
abbrev Code.lnkPartition : Nat := 0x0602
/-- COL_TIMEOUT (R425). -/
abbrev Code.colTimeout : Nat := 0x0603
/-- LNK_PORT_DOWN (R425). -/
abbrev Code.lnkPortDown : Nat := 0x0604
/-- COL_CONFIG_INVALID (R425). -/
abbrev Code.colConfigInvalid : Nat := 0x0605
/-- CAD_SLIP (R425). -/
abbrev Code.cadSlip : Nat := 0x0701
/-- PWR_SHED (R425). -/
abbrev Code.pwrShed : Nat := 0x0702
/-- CAD_HOLDOVER (R425). -/
abbrev Code.cadHoldover : Nat := 0x0703
/-- CAD_LOST (R425). -/
abbrev Code.cadLost : Nat := 0x0704
/-- CAD_REF_CHANGE (R425). -/
abbrev Code.cadRefChange : Nat := 0x0705
/-- PWR_BROWNOUT (R425). -/
abbrev Code.pwrBrownout : Nat := 0x0706
/-- PWR_RAMP_RELAXED (R425). -/
abbrev Code.pwrRampRelaxed : Nat := 0x0707
/-- PWR_DOMAIN_REFUSED (R425). -/
abbrev Code.pwrDomainRefused : Nat := 0x0708
/-- PWR_SUPPLY_MSG (R425). -/
abbrev Code.pwrSupplyMsg : Nat := 0x0709
/-- STATE_REFUSED (R425). -/
abbrev Code.stateRefused : Nat := 0x0801
/-- SIG_FAIL (R425). -/
abbrev Code.sigFail : Nat := 0x0802
/-- PRESENCE_ABSENT (R425). -/
abbrev Code.presenceAbsent : Nat := 0x0803
/-- CTL_CMD_INVALID (R425). -/
abbrev Code.ctlCmdInvalid : Nat := 0x0804
/-- CTL_RAMTOR_FAILOVER (R425). -/
abbrev Code.ctlRamtorFailover : Nat := 0x0805
/-- SEC_TAMPER (R425). -/
abbrev Code.secTamper : Nat := 0x0806
/-- CTL_LEDGER_OVERRUN (R425). -/
abbrev Code.ctlLedgerOverrun : Nat := 0x0807
/-- CTL_CMD_DONE (R425). -/
abbrev Code.ctlCmdDone : Nat := 0x0808
/-- CTL_STATE_CHANGE (R425). -/
abbrev Code.ctlStateChange : Nat := 0x0809
/-- SEC_DEBUG_UNLOCKED (R425). -/
abbrev Code.secDebugUnlocked : Nat := 0x080A
/-- MEM_UNMAPPED (R425). -/
abbrev Code.memUnmapped : Nat := 0x0901
/-- MEM_UNCORRECTABLE (R425). -/
abbrev Code.memUncorrectable : Nat := 0x0902
/-- MEM_POISON_CONSUMED (R425). -/
abbrev Code.memPoisonConsumed : Nat := 0x0903
/-- MEM_DIE_DEGRADED (R425). -/
abbrev Code.memDieDegraded : Nat := 0x0904
/-- MEM_REFRESH_BAND (R425). -/
abbrev Code.memRefreshBand : Nat := 0x0905
/-- MEM_PART_INVALID (R425). -/
abbrev Code.memPartInvalid : Nat := 0x0906
/-- ING_CLIP_DAMAGED (R425). -/
abbrev Code.ingClipDamaged : Nat := 0x0A01
/-- ING_CLIP_DROPPED (R425). -/
abbrev Code.ingClipDropped : Nat := 0x0A02
/-- ING_SOURCE_UNSUPPORTED (R425). -/
abbrev Code.ingSourceUnsupported : Nat := 0x0A03
/-- ING_CONTAINER_ERROR (R425). -/
abbrev Code.ingContainerError : Nat := 0x0A04
/-- ING_STARVED (R425). -/
abbrev Code.ingStarved : Nat := 0x0A05
/-- ING_ORDER (R425). -/
abbrev Code.ingOrder : Nat := 0x0A06
/-- ING_CIP_VIOLATION (R425). -/
abbrev Code.ingCipViolation : Nat := 0x0A07
/-- KV_PAGE_EXHAUSTED (R425). -/
abbrev Code.kvPageExhausted : Nat := 0x0B01
/-- KV_CMD_INVALID (R425). -/
abbrev Code.kvCmdInvalid : Nat := 0x0B02
/-- KV_REF_OVERFLOW (R425). -/
abbrev Code.kvRefOverflow : Nat := 0x0B03
/-- KV_EPOCH_DEFER (R425). -/
abbrev Code.kvEpochDefer : Nat := 0x0B04
/-- KV_CONFIG_KEPT (R425). -/
abbrev Code.kvConfigKept : Nat := 0x0B05
/-- HLT_LIFE_LOW (R425). -/
abbrev Code.hltLifeLow : Nat := 0x0C01
/-- HLT_TEMP_HIGH (R425). -/
abbrev Code.hltTempHigh : Nat := 0x0C02
/-- HLT_THERMTRIP (R425). -/
abbrev Code.hltThermtrip : Nat := 0x0C03
/-- HLT_TREND (R425). -/
abbrev Code.hltTrend : Nat := 0x0C04
/-- HLT_SOFT_MAP (R425). -/
abbrev Code.hltSoftMap : Nat := 0x0C05
/-- PIPE_SEGMENTED (R425). -/
abbrev Code.pipeSegmented : Nat := 0x0D01
/-- PIPE_MB_HELD (R425). -/
abbrev Code.pipeMbHeld : Nat := 0x0D02
/-- PIPE_MB_DROPPED (R425). -/
abbrev Code.pipeMbDropped : Nat := 0x0D03
/-- PIPE_MB_DAMAGED (R425). -/
abbrev Code.pipeMbDamaged : Nat := 0x0D04
/-- PIPE_PROGRAM_FAULT (R425). -/
abbrev Code.pipeProgramFault : Nat := 0x0D05
/-- PIPE_STEP_ABANDONED (R425). -/
abbrev Code.pipeStepAbandoned : Nat := 0x0D06
/-- PIPE_LONG_MB (R425). -/
abbrev Code.pipeLongMb : Nat := 0x0D07
/-- PIPE_SEG_OVER (R425). -/
abbrev Code.pipeSegOver : Nat := 0x0D08
/-- PIPE_PROGRAM_INVALID (R425). -/
abbrev Code.pipeProgramInvalid : Nat := 0x0D09

/-- The codes of kind Event; every other code of R425 is a fault. -/
def Code.events : List Nat :=
  [0x0103, 0x0105, 0x0201, 0x0404, 0x0503, 0x0504, 0x0506, 0x050B, 0x0601, 0x0701, 0x0702, 0x0703, 0x0705, 0x0707,
   0x0709, 0x0801, 0x0803, 0x0805, 0x0807, 0x0808, 0x0809, 0x080A, 0x0904, 0x0905, 0x0A01, 0x0A02, 0x0A05,
   0x0B04, 0x0B05, 0x0C01, 0x0C02, 0x0C04, 0x0C05, 0x0D01, 0x0D03, 0x0D07]

/-- A code of kind Fault (R425). -/
def Code.isFault (c : Nat) : Bool := !(Code.events.contains c)

/-- The mask bit of an event code (R419, R425); MEM_REFRESH_BAND has bit 1 on a stack page and bit 0 on a
compute-die page. -/
def Code.maskBit (page c : Nat) : Option Nat :=
  if c = Code.memRefreshBand then (if page < 0x0310 then some 0 else some 1)
  else (maskBits.find? fun x => x.1 = c).map Prod.snd
where
  maskBits : List (Nat × Nat) :=
    [(0x0103, 0), (0x0105, 1), (0x0201, 2), (0x0404, 0), (0x0503, 0), (0x0504, 1), (0x0506, 2),
     (0x050B, 3), (0x0601, 0), (0x0701, 0), (0x0702, 0), (0x0703, 1), (0x0705, 2), (0x0707, 1),
     (0x0709, 2), (0x0904, 0), (0x0A01, 0), (0x0A02, 1), (0x0A05, 0), (0x0B04, 0), (0x0B05, 1),
     (0x0C01, 0), (0x0C02, 1), (0x0C04, 2), (0x0C05, 3), (0x0D01, 1), (0x0D03, 2), (0x0D07, 3)]

/-- The number of maskable event codes of a page: the writable bits of EVT_MASK (R419). -/
def Code.maskable (page : Nat) : Nat :=
  if page = 0x0001 ∨ page = 0x0002 then 3
  else if 0x0010 ≤ page ∧ page ≤ 0x0013 then 4
  else if 0x0100 ≤ page ∧ page ≤ 0x018F then 3
  else if 0x0200 ≤ page ∧ page ≤ 0x0203 then 1
  else if 0x0300 ≤ page ∧ page ≤ 0x0307 then 4
  else if 0x0310 ≤ page ∧ page ≤ 0x031F then 2
  else if 0x0400 ≤ page ∧ page ≤ 0x0417 then 1
  else if 0x0500 ≤ page ∧ page ≤ 0x050F then 2
  else if page = 0x0510 then 1
  else if page = 0x0610 then 2
  else if page = 0x0700 then 4
  else 0

/-- KIND of a page of the map, 0 for a page that the map does not hold (R406). -/
def Page.kind (p : Nat) : Nat :=
  if p ≤ 4 then p + 1
  else if 0x0010 ≤ p ∧ p ≤ 0x0013 then 0x06
  else if 0x0100 ≤ p ∧ p ≤ 0x018F then 0x07
  else if 0x0200 ≤ p ∧ p ≤ 0x0203 then 0x08
  else if 0x0300 ≤ p ∧ p ≤ 0x0307 then 0x09
  else if 0x0310 ≤ p ∧ p ≤ 0x031F then 0x0A
  else if 0x0400 ≤ p ∧ p ≤ 0x0417 then 0x0B
  else if p = 0x0420 then 0x0C
  else if 0x0500 ≤ p ∧ p ≤ 0x050F then 0x0D
  else if p = 0x0510 then 0x0E
  else if p = 0x0600 then 0x0F
  else if p = 0x0610 then 0x10
  else if p = 0x0700 then 0x11
  else if 0x0710 ≤ p ∧ p ≤ 0x0757 then 0x12
  else 0

/-- INSTANCE of a page of the map (R406). -/
def Page.inst (p : Nat) : Nat :=
  match Page.kind p with
  | 0x06 => p - 0x0010 | 0x07 => p - 0x0100 | 0x08 => p - 0x0200 | 0x09 => p - 0x0300
  | 0x0A => p - 0x0310 | 0x0B => p - 0x0400 | 0x0D => p - 0x0500 | 0x12 => p - 0x0710
  | _ => 0

/-- The counter words from 0x0040 of a page (R406). -/
def Page.counterWords (p : Nat) : Nat :=
  match Page.kind p with
  | 0x01 => 8 | 0x02 => 8 | 0x03 => 7 | 0x04 => 4 | 0x05 => 4 | 0x06 => 12 | 0x07 => 16 | 0x08 => 8
  | 0x09 => 14 | 0x0A => 4 | 0x0B => 10 | 0x0C => 5 | 0x0D => 8 | 0x0E => 7 | 0x0F => 8 | 0x11 => 5
  | 0x12 => 4 | _ => 0

/-- The page of a compute die (R406). -/
def Page.die (d : Nat) : Nat := 0x0010 + d
/-- The page of an engine (R406). -/
def Page.eng (d e : Nat) : Nat := 0x0100 + 36 * d + e
/-- The page of a fabric (R406). -/
def Page.fab (d : Nat) : Nat := 0x0200 + d
/-- The page of a Proofer (R406). -/
def Page.prf (p : Nat) : Nat := 0x0300 + p
/-- The page of a Trough stack (R406). -/
def Page.stack (s : Nat) : Nat := 0x0310 + s
/-- The page of a Diviwin port (R406). -/
def Page.port (n : Nat) : Nat := 0x0400 + n
/-- The page of a decoder (R406). -/
def Page.dec (k : Nat) : Nat := 0x0500 + k
/-- The page of a power domain (R406). -/
def Page.dom (n : Nat) : Nat := 0x0710 + n
/-- The global, cadence, Bellows, security, event, collectives, host, Leaven, KV and health pages. -/
abbrev Page.global : Nat := 0x0000
abbrev Page.cadence : Nat := 0x0001
abbrev Page.bellows : Nat := 0x0002
abbrev Page.security : Nat := 0x0003
abbrev Page.event : Nat := 0x0004
abbrev Page.coll : Nat := 0x0420
abbrev Page.host : Nat := 0x0510
abbrev Page.leaven : Nat := 0x0600
abbrev Page.kv : Nat := 0x0610
abbrev Page.health : Nat := 0x0700

/-- The address of a register: page in bits 31:16, offset in bits 15:0 (R402). -/
def regAddr (page off : Nat) : Nat := page * 65536 + off

end Sys2Proof.Machine
end

