-- ==== Sys2Proof/Machine/RegMap.lean ====
section
/-! DEFINITION. The register map: for every word of a page kind that holds RW or SH fields, which bits
are RW, which are SH, and the reset value (R407 and the register tables of the chapters). Words that
are only live or read-only do not stand here. -/

namespace Sys2Proof.Machine

/-- One word of the map. `kind` is the page kind of R406. -/
structure RegSpec where
  kind  : Nat
  off   : Nat
  rwm   : Nat
  shm   : Nat
  reset : Nat
  deriving DecidableEq, Repr

/-- The cadence page (chapter 13). -/
def RegMap.cadence : List RegSpec :=
  [⟨0x02, 0x0100, 0x1FF, 0, 0⟩, ⟨0x02, 0x0104, 0, 0xFFF, 1000⟩, ⟨0x02, 0x0108, 0, 0xFFF, 0⟩,
   ⟨0x02, 0x0110, 0, 0xFFFFFFFF, 0⟩, ⟨0x02, 0x0114, 0, 0xFFFF, 0⟩, ⟨0x02, 0x0118, 0, 0x3FFFFFFF, 0⟩,
   ⟨0x02, 0x011C, 0, 0xFFFFFFFF, 0⟩, ⟨0x02, 0x0120, 0xFFFFFFFF, 0, 1000 + 1000 * 65536⟩,
   ⟨0x02, 0x0124, 0, 0xFFFFFFFF, 0⟩]

/-- The Bellows page (chapter 13); the reset value of BALLAST_NJ is log entry 8. -/
def RegMap.bellows : List RegSpec :=
  [⟨0x03, 0x0100, 0x7, 0, 5⟩, ⟨0x03, 0x0104, 0, 0x7FFFF, 10⟩, ⟨0x03, 0x0108, 0, 0xFFFFFFFF, 20000⟩,
   ⟨0x03, 0x010C, 0x1FFF, 0, 0⟩, ⟨0x03, 0x0118, 0xFFFFFF, 0, 0xFFFFFF⟩, ⟨0x03, 0x011C, 0xFFFF, 0, 0⟩,
   ⟨0x03, 0x0120, 0xFFFFF, 0, 1 + 1000 * 16⟩]

/-- The event page (R422), the health page (chapter 16) and the domain pages (chapter 13). -/
def RegMap.services : List RegSpec :=
  [⟨0x05, 0x0100, 0x3, 0, 1⟩, ⟨0x05, 0x010C, 0xFFFFFFFF, 0, 0⟩, ⟨0x05, 0x0110, 0xFF, 0, 0⟩,
   ⟨0x11, 0x0100, 0xFFFFFF, 0, 90 + 8760 * 256⟩, ⟨0x11, 0x010C, 0x3FFFFFFF, 0, 720 + 64 * 16384⟩,
   ⟨0x12, 0x0104, 0x1, 0, 1⟩, ⟨0x12, 0x010C, 0xFF, 0, 30⟩]

/-- Compute-die and fabric pages (chapters 7, 11 and 6). -/
def RegMap.dies : List RegSpec :=
  [⟨0x06, 0x0104, 0x3, 0, 0⟩, ⟨0x06, 0x0108, 0x3F, 0, 0⟩, ⟨0x06, 0x010C, 0xFFFF, 0, 0⟩,
   ⟨0x06, 0x0190, 0, 0xFFFFFFFF, 0⟩, ⟨0x06, 0x0194, 0, 0x1FFFF, 0x800⟩, ⟨0x06, 0x0198, 0, 0xF, 0⟩,
   ⟨0x08, 0x0104, 0x3, 0, 3⟩, ⟨0x08, 0x010C, 0x1FF, 0, 32⟩, ⟨0x08, 0x0110, 0xFFFFFFFF, 0, 0x10000⟩,
   ⟨0x08, 0x0114, 0xFF, 0, 0⟩, ⟨0x08, 0x0120, 0x7FFF, 0, 0⟩]

/-- Engine pages (chapters 3 and 5). -/
def RegMap.engines : List RegSpec :=
  [⟨0x07, 0x0104, 0x3, 0, 3⟩, ⟨0x07, 0x0208, 0xFFFFFFFF, 0, 0x10000⟩]

/-- Proofer and stack pages (chapters 9 and 10). -/
def RegMap.proofers : List RegSpec :=
  [⟨0x09, 0x0104, 0, 0x7, 0⟩, ⟨0x09, 0x0108, 0, 0xFFFFFF, 1⟩, ⟨0x09, 0x010C, 0, 0xFFF, 0⟩,
   ⟨0x09, 0x0114, 0, 0xFFFFFFFF, 0⟩, ⟨0x09, 0x0118, 0x3FF, 0, 0⟩, ⟨0x09, 0x011C, 0x3FF, 0, 0⟩,
   ⟨0x09, 0x0124, 0xFFF, 0, 0⟩, ⟨0x09, 0x012C, 0, 0xFFFFFFFF, 0⟩, ⟨0x09, 0x0130, 0, 0xFFFFFFFF, 0⟩,
   ⟨0x09, 0x0180, 0, 0xFFFFFFFF, 24 * 65536 + 8 * 16777216⟩, ⟨0x09, 0x0184, 0, 0xFFFFFF, 2 + 2 * 256 + 65536⟩,
   ⟨0x0A, 0x0108, 0xFFFFFF, 0, 24 + 256 * 256⟩]

/-- The credit registers of sub-port `k` (R325). -/
def RegMap.credits (k : Nat) : List RegSpec :=
  [512, 256, 320, 256, 160].zipIdx.map fun p => ⟨0x0B, 0x0120 + 0x40 * k + 4 * p.2, 0x7FF, 0, p.1⟩

/-- Port and collectives pages (chapter 12). -/
def RegMap.links : List RegSpec :=
  [⟨0x0B, 0x0104, 0x7FF, 0, 1 + 32 * 8⟩, ⟨0x0B, 0x0108, 0xFFFFFFFF, 0, 40 + 20 * 256 + 20 * 65536 + 15 * 16777216⟩] ++
  RegMap.credits 0 ++ RegMap.credits 1 ++ RegMap.credits 2 ++ RegMap.credits 3 ++
  [⟨0x0C, 0x0100, 0, 0x3FFFF, 8⟩, ⟨0x0C, 0x0104, 0, 0x7F, 16⟩, ⟨0x0C, 0x0108, 0x7, 0, 0⟩, ⟨0x0C, 0x010C, 0x1F, 0, 0⟩]

/-- Decoder and host-core pages (chapter 11). -/
def RegMap.ingest : List RegSpec :=
  [⟨0x0D, 0x0104, 0x3FF, 0, 16⟩, ⟨0x0D, 0x010C, 0, 0xFFFF, 24 * 4 + 2 * 4096⟩, ⟨0x0D, 0x0110, 0, 0xFFFFFFFF, 0⟩,
   ⟨0x0D, 0x0114, 0, 0xFFFFFFFF, 0⟩, ⟨0x0D, 0x0118, 0, 0xFFFFFFFF, 0⟩, ⟨0x0D, 0x011C, 0, 0xFFFFFFFF, 0⟩,
   ⟨0x0E, 0x0104, 0, 0x3FFE, 0⟩, ⟨0x0E, 0x0108, 0x1, 0xFFE, 256 * 2⟩, ⟨0x0E, 0x0110, 0, 0xFFFFFFFF, 0⟩,
   ⟨0x0E, 0x0114, 0, 0xFFFFFFFF, 0⟩, ⟨0x0E, 0x0118, 0, 0xFFFF, 8192⟩]

/-- The Leaven and KV sections of die `d` (R423, chapter 8). -/
def RegMap.sections (d : Nat) : List RegSpec :=
  let b := 0x100 + 0x100 * d
  [⟨0x0F, b, 0x3FFFF, 0, 0⟩, ⟨0x10, b, 0, 0xFFFFFFFF, 0⟩, ⟨0x10, b + 4, 0, 0xFFFFFFF, 0⟩, ⟨0x10, b + 8, 0, 0xFFFFFFFF, 0⟩,
   ⟨0x10, b + 0xC, 0, 0xFF, 0⟩, ⟨0x10, b + 0x10, 0, 0xFFFF, 0⟩]

/-- Every word of the map. -/
def RegMap.all : List RegSpec :=
  RegMap.cadence ++ RegMap.bellows ++ RegMap.services ++ RegMap.dies ++ RegMap.engines ++ RegMap.proofers ++
    RegMap.links ++ RegMap.ingest ++ RegMap.sections 0 ++ RegMap.sections 1 ++ RegMap.sections 2 ++ RegMap.sections 3

/-- The map's row of an address, if it has one. -/
def RegMap.find (addr : Nat) : Option RegSpec :=
  RegMap.all.find? fun r => r.kind = Page.kind (addr / 65536) && r.off = addr % 65536

/-- Keys, above the register space, of the words behind a window: tensor table (Proofer, entry, word), rule programs
(Proofer, slot, word), constant sets (Proofer, set, word), collective groups and conduits (entry, word). -/
def winTable (p i w : Nat) : Nat := 2 ^ 40 + (p * 1024 + i) * 16 + w
def winProg (p i w : Nat) : Nat := 2 ^ 41 + (p * 8 + i) * 128 + w
def winConst (p i w : Nat) : Nat := 2 ^ 42 + (p * 256 + i) * 16 + w
def winGroup (g w : Nat) : Nat := 2 ^ 43 + g * 8 + w
def winConduit (c w : Nat) : Nat := 2 ^ 44 + c * 8 + w

/-- The reset value of a word behind a window: RX and RY of a group are 1, its ports none (R331). -/
def winReset (k : Nat) : Word :=
  if 2 ^ 43 ≤ k ∧ k < 2 ^ 43 + 64 then
    (if k % 8 = 0 then 0x4004 else if 2 ≤ k % 8 ∧ k % 8 ≤ 5 then 0xFFFFFFFF else 0)
  else 0

/-- The reset value of a register address: the header's PAGE_CTRL resets to ENABLE = 1 (R409). -/
def regReset (addr : Nat) : Word :=
  if 2 ^ 32 ≤ addr then winReset addr
  else if addr % 65536 = 0x0008 then 1
  else match RegMap.find addr with
    | some r => BitVec.ofNat 32 r.reset
    | none => 0

end Sys2Proof.Machine
end

