-- ==== Sys2Proof/Machine/Float.lean ====
section
/-! DEFINITION. Binary floating point on codes: IEEE 754 binary32 and binary64 rounded to nearest even, with
subnormals, NaN and infinities (R23). A code is a number below 2^(1 + ebits + fbits). -/

namespace Sys2Proof

/-- The value of a code: not a number, an infinity, or ± m × 2^e. -/
inductive Num where
  | nan
  | inf (neg : Bool)
  | fin (neg : Bool) (m : Nat) (e : Int)
  deriving DecidableEq, Repr

/-- A binary format: exponent bits and fraction bits. -/
structure FpFmt where
  eb : Nat
  fb : Nat
  deriving DecidableEq, Repr

/-- FP32, binary64 and BF16. -/
def ff32 : FpFmt := ⟨8, 23⟩
def ff64 : FpFmt := ⟨11, 52⟩
def ffBf16 : FpFmt := ⟨8, 7⟩

namespace FpFmt

/-- The exponent bias. -/
def bias (f : FpFmt) : Nat := 2 ^ (f.eb - 1) - 1
/-- The code of +Inf. -/
def infCode (f : FpFmt) : Nat := (2 ^ f.eb - 1) * 2 ^ f.fb
/-- The weight of the sign bit. -/
def signBit (f : FpFmt) : Nat := 2 ^ (f.eb + f.fb)
/-- The exponent of the least quantum. -/
def qmin (f : FpFmt) : Int := 1 - (f.bias : Int) - (f.fb : Int)

/-- The value of a code. -/
def decode (f : FpFmt) (c : Nat) : Num :=
  let neg := c.testBit (f.eb + f.fb)
  let e := (c / 2 ^ f.fb) % 2 ^ f.eb
  let m := c % 2 ^ f.fb
  if e = 2 ^ f.eb - 1 then (if m = 0 then .inf neg else .nan)
  else if e = 0 then .fin neg m f.qmin
  else .fin neg (m + 2 ^ f.fb) (f.qmin + (e : Int) - 1)

/-- A quiet NaN whose sign and payload are free. -/
def nanCode (f : FpFmt) (op : Nat) (args : List Nat) : Nat :=
  let p := Config.nanBits op args
  (p % 2) * f.signBit + f.infCode + 2 ^ (f.fb - 1) + (p / 2) % 2 ^ (f.fb - 1)

/-- Sign and magnitude code together. -/
def withSign (f : FpFmt) (neg : Bool) (mag : Nat) : Nat := b2n neg * f.signBit + mag

end FpFmt

/-- floor(log2(num / den)) for nonzero num and den. -/
def ratLog2 (num den : Nat) : Int :=
  let l : Int := (num.log2 : Int) - (den.log2 : Int)
  let ge := if 0 ≤ l then decide (den * 2 ^ l.toNat ≤ num) else decide (den ≤ num * 2 ^ (-l).toNat)
  if ge then l else l - 1

/-- A magnitude num / den × 2^e on the grid whose least quantum is 2^qmin with `fb` fraction bits: the code of the
grid value at or below it, and the remainder and the quantum in a common unit, rem / unit being the fraction
of a quantum left over. -/
def gridBelow (fb : Nat) (qmin : Int) (num den : Nat) (e : Int) : Nat × Nat × Nat :=
  if num = 0 then (0, 0, 1)
  else
    let q := max (ratLog2 num den + e - (fb : Int)) qmin
    let sh := e - q
    let n := if 0 ≤ sh then num * 2 ^ sh.toNat else num
    let d := if 0 ≤ sh then den else den * 2 ^ (-sh).toNat
    ((q - qmin).toNat * 2 ^ fb + n / d, n % d, d)

/-- Round to nearest, ties to the even code (R32). -/
def roundNearest (fb : Nat) (qmin : Int) (num den : Nat) (e : Int) : Nat :=
  let g := gridBelow fb qmin num den e
  if 2 * g.2.1 < g.2.2 then g.1
  else if g.2.2 < 2 * g.2.1 then g.1 + 1
  else if g.1 % 2 = 0 then g.1 else g.1 + 1

namespace FpFmt

/-- The code of ± num / den × 2^e rounded to nearest even; a magnitude beyond the largest finite value gives
an infinity. -/
def roundTo (f : FpFmt) (neg : Bool) (num den : Nat) (e : Int) : Nat :=
  f.withSign neg (min f.infCode (roundNearest f.fb f.qmin num den e))

/-- The exact sum of two finite values as ± m × 2^e; an exact zero is positive unless both are negative. -/
def addFin (n1 : Bool) (m1 : Nat) (e1 : Int) (n2 : Bool) (m2 : Nat) (e2 : Int) : Bool × Nat × Int :=
  let e := min e1 e2
  let a : Int := (m1 * 2 ^ (e1 - e).toNat : Nat)
  let b : Int := (m2 * 2 ^ (e2 - e).toNat : Nat)
  let s := (if n1 then -a else a) + (if n2 then -b else b)
  (if s = 0 then n1 && n2 else decide (s < 0), s.natAbs, e)

/-- Sum of two codes. -/
def add (f : FpFmt) (a b : Nat) : Nat :=
  match f.decode a, f.decode b with
  | .nan, _ => f.nanCode 1 [a, b]
  | _, .nan => f.nanCode 1 [a, b]
  | .inf x, .inf y => if x = y then f.withSign x f.infCode else f.nanCode 1 [a, b]
  | .inf x, _ => f.withSign x f.infCode
  | _, .inf y => f.withSign y f.infCode
  | .fin n1 m1 e1, .fin n2 m2 e2 =>
    let s := addFin n1 m1 e1 n2 m2 e2
    f.roundTo s.1 s.2.1 1 s.2.2

/-- The code with its sign reversed. -/
def neg (f : FpFmt) (a : Nat) : Nat := if a.testBit (f.eb + f.fb) then a - f.signBit else a + f.signBit

/-- The code with its sign cleared. -/
def abs (f : FpFmt) (a : Nat) : Nat := a % f.signBit

/-- Difference of two codes. -/
def sub (f : FpFmt) (a b : Nat) : Nat := f.add a (f.neg b)

/-- Product of two codes. -/
def mul (f : FpFmt) (a b : Nat) : Nat :=
  match f.decode a, f.decode b with
  | .nan, _ => f.nanCode 2 [a, b]
  | _, .nan => f.nanCode 2 [a, b]
  | .inf x, .inf y => f.withSign (x != y) f.infCode
  | .inf x, .fin y m _ => if m = 0 then f.nanCode 2 [a, b] else f.withSign (x != y) f.infCode
  | .fin x m _, .inf y => if m = 0 then f.nanCode 2 [a, b] else f.withSign (x != y) f.infCode
  | .fin n1 m1 e1, .fin n2 m2 e2 => f.roundTo (n1 != n2) (m1 * m2) 1 (e1 + e2)

/-- a × b + c with one rounding (R23). -/
def fma (f : FpFmt) (a b c : Nat) : Nat :=
  match f.decode a, f.decode b, f.decode c with
  | .nan, _, _ => f.nanCode 3 [a, b, c]
  | _, .nan, _ => f.nanCode 3 [a, b, c]
  | _, _, .nan => f.nanCode 3 [a, b, c]
  | .inf x, .inf y, z => infPlus f (x != y) z
  | .inf x, .fin y m _, z => if m = 0 then f.nanCode 3 [a, b, c] else infPlus f (x != y) z
  | .fin x m _, .inf y, z => if m = 0 then f.nanCode 3 [a, b, c] else infPlus f (x != y) z
  | .fin _ _ _, .fin _ _ _, .inf z => f.withSign z f.infCode
  | .fin n1 m1 e1, .fin n2 m2 e2, .fin n3 m3 e3 =>
    let s := addFin (n1 != n2) (m1 * m2) (e1 + e2) n3 m3 e3
    f.roundTo s.1 s.2.1 1 s.2.2
where
  /-- An infinite product plus an addend. -/
  infPlus (f : FpFmt) (neg : Bool) : Num → Nat
    | .inf z => if neg = z then f.withSign neg f.infCode else f.nanCode 3 []
    | _ => f.withSign neg f.infCode

/-- Quotient of two codes. -/
def div (f : FpFmt) (a b : Nat) : Nat :=
  match f.decode a, f.decode b with
  | .nan, _ => f.nanCode 4 [a, b]
  | _, .nan => f.nanCode 4 [a, b]
  | .inf _, .inf _ => f.nanCode 4 [a, b]
  | .inf x, .fin y _ _ => f.withSign (x != y) f.infCode
  | .fin x _ _, .inf y => f.withSign (x != y) 0
  | .fin n1 m1 e1, .fin n2 m2 e2 =>
    if m2 = 0 then (if m1 = 0 then f.nanCode 4 [a, b] else f.withSign (n1 != n2) f.infCode)
    else f.roundTo (n1 != n2) m1 m2 (e1 - e2)

/-- Square root of a code: the integer root of the significand scaled by 4^k has more bits than the format
keeps, and a remainder is carried as one more low bit, so that the rounding is exact. -/
def sqrt (f : FpFmt) (a : Nat) : Nat :=
  match f.decode a with
  | .nan => f.nanCode 5 [a]
  | .inf neg => if neg then f.nanCode 5 [a] else a
  | .fin neg m e =>
    if m = 0 then a
    else if neg then f.nanCode 5 [a]
    else
      let odd := e % 2 ≠ 0
      let m1 := if odd then 2 * m else m
      let e1 := if odd then e - 1 else e
      let n := m1 * 4 ^ (f.fb + 3)
      let r := isqrt n
      f.roundTo false (2 * r + (if r * r = n then 0 else 1)) 1 (e1 / 2 - (f.fb : Int) - 4)
where
  /-- Integer square root by bits, from the top. -/
  isqrt (n : Nat) : Nat :=
    (List.range (n.log2 / 2 + 1)).foldr (fun i r => if (r + 2 ^ i) * (r + 2 ^ i) ≤ n then r + 2 ^ i else r) 0

/-- Tests on codes. -/
def isNan (f : FpFmt) (a : Nat) : Bool := decide (f.infCode < f.abs a)
def isInf (f : FpFmt) (a : Nat) : Bool := decide (f.abs a = f.infCode)
def isFinite (f : FpFmt) (a : Nat) : Bool := decide (f.abs a < f.infCode)
def isZero (f : FpFmt) (a : Nat) : Bool := decide (f.abs a = 0)

/-- The order of two codes that are not NaN: a < b. -/
def lt (f : FpFmt) (a b : Nat) : Bool :=
  !f.isNan a && !f.isNan b && !(f.isZero a && f.isZero b) &&
    (match a.testBit (f.eb + f.fb), b.testBit (f.eb + f.fb) with
     | false, false => decide (f.abs a < f.abs b)
     | true, true => decide (f.abs b < f.abs a)
     | true, false => true
     | false, true => false)

/-- Equality of values, zeros being equal and NaN unequal to everything. -/
def eq (f : FpFmt) (a b : Nat) : Bool :=
  !f.isNan a && !f.isNan b && ((f.isZero a && f.isZero b) || decide (a = b))

/-- The greater of two codes that are not NaN. -/
def max (f : FpFmt) (a b : Nat) : Nat := if f.lt a b then b else a

/-- The code of a finite rational value. -/
def ofRat (f : FpFmt) (r : Rat) : Nat := f.roundTo (decide (r < 0)) r.num.natAbs r.den 0

/-- The code of a natural number. -/
def ofNat (f : FpFmt) (n : Nat) : Nat := f.roundTo false n 1 0

/-- A code scaled by 2^h, exactly where the result is finite (ldexp of R41). -/
def ldexp (f : FpFmt) (a : Nat) (h : Int) : Nat :=
  match f.decode a with
  | .fin neg m e => f.roundTo neg m 1 (e + h)
  | _ => a

/-- A code converted to another format, rounded to nearest even. -/
def convertTo (f g : FpFmt) (a : Nat) : Nat :=
  match f.decode a with
  | .nan => g.nanCode 6 [a]
  | .inf neg => g.withSign neg g.infCode
  | .fin neg m e => g.roundTo neg m 1 e

end FpFmt

end Sys2Proof
end

