-- ==== Sys2Proof/Machine/Formats.lean ====
section
/-! DEFINITION. Element formats, conversion, block scales, rounding and the random stream (R18 to R36). -/

namespace Sys2Proof

/-- The element formats of R18. -/
inductive Format where
  | e4m3 | e5m2 | e2m3 | e3m2 | e2m1 | g4 | t2 | bf16 | fp32 | int8
  deriving DecidableEq, Repr

namespace Format

/-- The format code of R18. -/
def code : Format → Nat
  | e4m3 => 0 | e5m2 => 1 | e2m3 => 2 | e3m2 => 3 | e2m1 => 4 | g4 => 5 | t2 => 6 | bf16 => 7 | fp32 => 8
  | int8 => 9

/-- The format that a code names; 0xA to 0xF are reserved. -/
def ofCode? (n : Nat) : Option Format :=
  [e4m3, e5m2, e2m3, e3m2, e2m1, g4, t2, bf16, fp32, int8][n]?

/-- Bits of an element. -/
def bits : Format → Nat
  | e4m3 => 8 | e5m2 => 8 | e2m3 => 6 | e3m2 => 6 | e2m1 => 4 | g4 => 4 | t2 => 2 | bf16 => 16 | fp32 => 32
  | int8 => 8

/-- Fraction bits of the magnitude code. -/
def fbits : Format → Nat
  | e4m3 => 3 | e5m2 => 2 | e2m3 => 3 | e3m2 => 2 | e2m1 => 1 | g4 => 0 | t2 => 0 | bf16 => 7 | fp32 => 23
  | int8 => 7

/-- The exponent of the least quantum: 2^(1 − bias − fraction bits). -/
def qmin : Format → Int
  | e4m3 => -9 | e5m2 => -16 | e2m3 => -3 | e3m2 => -4 | e2m1 => -1 | g4 => -3 | t2 => 0 | bf16 => -133
  | fp32 => -149 | int8 => -6

/-- The magnitude code of the largest finite value. -/
def topCode : Format → Nat
  | e4m3 => 0x7E | e5m2 => 0x7B | e2m3 => 0x1F | e3m2 => 0x1F | e2m1 => 0x7 | g4 => 0x7 | t2 => 1
  | bf16 => 0x7F7F | fp32 => 0x7F7FFFFF | int8 => 0x7F

/-- The value of a finite magnitude code as m × 2^e. INT8 is a grid of multiples of 2^−6; G4 and T2 have no
fraction and no subnormals. -/
def magValue (f : Format) (c : Nat) : Nat × Int :=
  match f with
  | int8 => (c, -6)
  | g4 => if c = 0 then (0, 0) else (1, (c : Int) - 4)
  | t2 => (c, 0)
  | _ =>
    let e := c / 2 ^ f.fbits
    let m := c % 2 ^ f.fbits
    if e = 0 then (m, f.qmin) else (m + 2 ^ f.fbits, f.qmin + (e : Int) - 1)

/-- The largest finite value as m × 2^e (fmt_max). -/
def top (f : Format) : Nat × Int := f.magValue f.topCode

/-- Sign and magnitude code as an element code; INT8 is two's complement, and a zero is always +0 (R22). -/
def element (f : Format) (neg : Bool) (mag : Nat) : Nat :=
  if mag = 0 then 0
  else match f with
    | int8 => if neg then 256 - mag else mag
    | _ => b2n neg * 2 ^ (f.bits - 1) + mag

end Format

/-- a.1 × 2^a.2 is greater than num / den × 2^e, compared exactly. -/
def dyadicLt (num den : Nat) (e : Int) (a : Nat × Int) : Bool :=
  let m := min e a.2
  decide (num * 2 ^ (e - m).toNat < a.1 * den * 2 ^ (a.2 - m).toNat)

/-- Rounding modes: to nearest even, or stochastic with the element's 12 random bits (R32, R33). -/
inductive Rounding where
  | nearest
  | stochastic (r : Nat)
  deriving DecidableEq, Repr

/-- Round a magnitude to the grid of a format: the magnitude code (R32, R33). -/
def roundMag (f : Format) (mode : Rounding) (num den : Nat) (e : Int) : Nat :=
  let fb := f.fbits
  match mode with
  | .nearest => roundNearest fb f.qmin num den e
  | .stochastic r =>
    let g := gridBelow fb f.qmin num den e
    if g.2.1 = 0 then g.1
    else if r < 4096 * g.2.1 / g.2.2 then g.1 + 1 else g.1

/-- What a conversion counts (R22). -/
structure RangeCount where
  sat : Nat
  unf : Nat
  inv : Nat
  deriving DecidableEq, Repr

/-- Nothing counted. -/
def RangeCount.zero : RangeCount := ⟨0, 0, 0⟩
/-- Sum of two counts. -/
def RangeCount.add (a b : RangeCount) : RangeCount := ⟨a.sat + b.sat, a.unf + b.unf, a.inv + b.inv⟩

/-- The code that an overflow writes (R22): the largest finite value, or NaN or Inf of the FP8 formats under
conversion mode OCP, with the sign of y (log entry 16). -/
def overflowCode (f : Format) (ocp neg : Bool) : Nat :=
  match f, ocp with
  | .e4m3, true => b2n neg * 128 + 0x7F
  | .e5m2, true => b2n neg * 128 + 0x7C
  | f, _ => f.element neg f.topCode

/-- Convert a scaled FP32 value, given by its code, to an element (R22). FP32 targets keep the value. Of the NaN codes of FP8 E5M2 an OCP
conversion writes 0x7F (log entry 158). -/
def convert (f : Format) (ocp : Bool) (mode : Rounding) (y : Nat) : Nat × RangeCount :=
  match f with
  | .fp32 => (y, .zero)
  | .bf16 =>
    match ff32.decode y with
    | .nan => (0x7FC0, ⟨0, 0, 1⟩)
    | .inf neg => (b2n neg * 32768 + 0x7F80, ⟨1, 0, 0⟩)
    | .fin neg m e =>
      let past := match mode with | .nearest => false | .stochastic _ => dyadicLt 255 1 120 (m, e)
      let c := if past then 0x7F80 else min 0x7F80 (roundMag .bf16 mode m 1 e)
      (if c = 0 then 0 else b2n neg * 32768 + c,
       ⟨b2n (c = 0x7F80), b2n (decide (m ≠ 0) && decide (c = 0)), 0⟩)
  | f =>
    match ff32.decode y with
    | .nan =>
      (match f, ocp with | .e4m3, true => 0x7F | .e5m2, true => 0x7F | _, _ => 0, ⟨0, 0, 1⟩)
    | .inf neg => (overflowCode f ocp neg, ⟨1, 0, 0⟩)
    | .fin neg m e =>
      if dyadicLt f.top.1 1 f.top.2 (m, e) then (overflowCode f ocp neg, ⟨1, 0, 0⟩)
      else
        let c := roundMag f mode m 1 e
        (f.element neg c, ⟨0, b2n (decide (m ≠ 0) && decide (c = 0)), 0⟩)
/-- An operand element as an array reads it (R21): its value, and whether it counts as INV. The value is exact
as ± m × 2^e; BF16 infinities and NaN pass on. -/
def readElement (f : Format) (c : Nat) : Num × Bool :=
  match f with
  | .bf16 =>
    (match ffBf16.decode c with
     | .fin neg m e => if (c / 128) % 256 = 0 then .fin false 0 0 else .fin neg m e
     | v => v, false)
  | .fp32 => (ff32.decode c, false)
  | .int8 => (.fin (decide (128 ≤ c)) (if 128 ≤ c then 256 - c else c) (-6), false)
  | .t2 => if c = 2 then (.fin false 0 0, true) else (.fin (decide (c = 3)) (c % 2) 0, false)
  | f =>
    let neg := c.testBit (f.bits - 1)
    let mag := c % 2 ^ (f.bits - 1)
    let bad := (f = .e4m3 && mag = 0x7F) || (f = .e5m2 && decide (0x7C ≤ mag))
    let v := f.magValue (if bad then f.topCode else mag)
    (.fin (neg && decide (v.1 ≠ 0)) v.1 v.2, bad)

/-- The value of an NQ32 block scale code as m × 2^e, or none for a zero block and reserved codes (R29). -/
def ue6m2 (c : Nat) : Option (Nat × Int) :=
  if c = 0 ∨ 0xFC < c then none else some (4 + c % 4, ((c / 4 : Nat) : Int) - 65)

/-- The kinds of block scale (R37, R38). -/
inductive ScaleKind where
  | none | nq32 | mx
  deriving DecidableEq, Repr

/-- The kind that SCALE_KIND names; 3 is reserved. -/
def ScaleKind.ofCode : Nat → ScaleKind
  | 1 => .nq32 | 2 => .mx | _ => .none

/-- A block scale as an array reads it (R21, R29): the scale as m × 2^e, none for a block read as 32 zeros, and
the INV count of the block. An unscaled block has scale 1. -/
def readScale (k : ScaleKind) (c : Nat) : Option (Nat × Int) × Nat :=
  match k with
  | .none => (some (1, 0), 0)
  | .nq32 => if c = 0 then (none, 0) else if 0xFC < c then (none, 32) else (ue6m2 c, 0)
  | .mx => if c = 0xFF then (none, 32) else (some (1, (c : Int) - 127), 0)

/-- What a producer reports of a block (R39): counts, elements, and the largest finite |x| as an FP32 code. -/
structure RangeReport where
  cnt  : RangeCount
  elem : Nat
  amax : Nat
  deriving DecidableEq, Repr

/-- An empty report. -/
def RangeReport.zero : RangeReport := ⟨.zero, 0, 0⟩
/-- Two reports of one tensor together. -/
def RangeReport.add (a b : RangeReport) : RangeReport := ⟨a.cnt.add b.cnt, a.elem + b.elem, max a.amax b.amax⟩

/-- The largest finite magnitude among FP32 codes. -/
def finiteMax (xs : List Nat) : Nat :=
  xs.foldl (fun a x => if ff32.isFinite x then max a (ff32.abs x) else a) 0

/-- Encode one NQ32 block (R30): the scale code, the element codes and the counts. `mode i` gives the rounding
of element `i`. -/
def encodeNq32 (f : Format) (ocp : Bool) (eT : Nat) (mode : Nat → Rounding) (xs : List Nat) :
    Nat × List Nat × RangeCount :=
  let ys := xs.map fun x => ff32.mul x eT
  let mb := (xs.zip ys).foldl (fun a p => if ff32.isFinite p.1 then max a (ff32.abs p.2) else a) 0
  if mb = 0 then
    let cnt := xs.foldl (fun c x =>
      c.add (if ff32.isNan x then ⟨0, 0, 1⟩ else if ff32.isInf x then ⟨1, 0, 0⟩
        else if ff32.isZero x then .zero else ⟨0, 1, 0⟩)) RangeCount.zero
    (0, xs.map fun _ => 0, cnt)
  else
    let fits := fun c : Nat =>
      match ue6m2 c, ff32.decode mb with
      | some b, .fin _ m e => !dyadicLt (b.1 * f.top.1) 1 (b.2 + f.top.2) (m, e)
      | _, _ => false
    let sc := ((List.range 0xFC).map (· + 1)).find? fits |>.getD 0xFC
    let b := (ue6m2 sc).getD (1, 0)
    let bc := ff32.roundTo false b.1 1 b.2
    let qs := ys.zipIdx.map fun p => convert f ocp (mode p.2) (ff32.div p.1 bc)
    (sc, qs.map Prod.fst, qs.foldl (fun c q => c.add q.2) .zero)

/-- emax of the MX conversion (R28). -/
def mxEmax : Format → Int
  | .e4m3 => 8 | .e5m2 => 15 | .e2m3 => 2 | .e3m2 => 4 | .e2m1 => 2 | _ => 0

/-- x ÷ 2^k (R28), the quotient being exact: one that FP32 cannot hold stays above zero (log entry 68). -/
def mxQuotient (x : Nat) (k : Int) : Nat :=
  let y := ff32.ldexp x (-k)
  if ff32.isZero y && !ff32.isZero x then y + 1 else y

/-- Encode one MX block (R28): the E8M0 scale code, the element codes and the counts. -/
def encodeMx (f : Format) (ocp : Bool) (mode : Nat → Rounding) (xs : List Nat) : Nat × List Nat × RangeCount :=
  let am := finiteMax xs
  let sc : Nat :=
    match ff32.decode am with
    | .fin _ m e => if m = 0 then 0 else (min 254 (max 0 ((m.log2 : Int) + e - mxEmax f + 127))).toNat
    | _ => 0
  let qs := xs.zipIdx.map fun p =>
    convert f ocp (mode p.2) (mxQuotient p.1 ((sc : Int) - 127))
  (sc, qs.map Prod.fst, qs.foldl (fun c q => c.add q.2) .zero)

/-- One round of Philox-4x32 on a counter with a key (R34). -/
def philoxRound (k : Nat × Nat) (c : Nat × Nat × Nat × Nat) : Nat × Nat × Nat × Nat :=
  let p0 := 0xD2511F53 * c.1
  let p1 := 0xCD9E8D57 * c.2.2.1
  ((p1 / 2 ^ 32) ^^^ c.2.1 ^^^ k.1, p1 % 2 ^ 32, (p0 / 2 ^ 32) ^^^ c.2.2.2 ^^^ k.2, p0 % 2 ^ 32)

/-- Philox-4x32-10 with a 64-bit key (R34). -/
def philox (seed : Nat) (c : Nat × Nat × Nat × Nat) : Nat × Nat × Nat × Nat :=
  let k0 := seed % 2 ^ 32
  let k1 := seed / 2 ^ 32 % 2 ^ 32
  ((List.range 10).foldl (fun (s : (Nat × Nat) × (Nat × Nat × Nat × Nat)) i =>
    let k := if i = 0 then s.1 else ((s.1.1 + 0x9E3779B9) % 2 ^ 32, (s.1.2 + 0xBB67AE85) % 2 ^ 32)
    (k, philoxRound k s.2)) ((k0, k1), c)).2

/-- The four output words of a Philox call, by index. -/
def philoxWord (c : Nat × Nat × Nat × Nat) (i : Nat) : Nat :=
  match i with | 0 => c.1 | 1 => c.2.1 | 2 => c.2.2.1 | _ => c.2.2.2

/-- The 12 random bits of element `n` of a tensor (R34). -/
def randomBits (seed step rsi n : Nat) : Nat :=
  let g := n / 8
  let w := philoxWord (philox seed (g % 2 ^ 32, g / 2 ^ 32 % 2 ^ 29, step % 2 ^ 32, rsi % 2 ^ 32)) (n / 2 % 4)
  if n % 2 = 0 then w % 4096 else w / 65536 % 4096

/-- Elements packed into bytes, low element first (R27). -/
def packElements (width : Nat) (cs : List Nat) : List Byte :=
  leBytes ((cs.length * width + 7) / 8) ((cs.foldr (fun c a => c % 2 ^ width + 2 ^ width * a) 0))

/-- Elements unpacked from bytes (R27). -/
def unpackElements (width n : Nat) (bs : List Byte) : List Nat :=
  let v := leNat bs
  (List.range n).map fun i => v / 2 ^ (width * i) % 2 ^ width

/-- The pairs that the arrays multiply (R24), and their MACs per PE per ac in quarters. -/
def pairRate (a b : Format) : Option Nat :=
  let fp8 := fun f : Format => f = .e4m3 || f = .e5m2
  let fp6 := fun f : Format => f = .e2m3 || f = .e3m2
  let one := fun (x y : Format) =>
    if fp8 x && fp8 y then some 4
    else if fp6 x && fp6 y then some 8
    else if x = .e2m1 && y = .e2m1 then some 8
    else if x = .g4 && y = .e2m1 then some 8
    else if x = .g4 && fp6 y then some 8
    else if fp8 x && y = .g4 then some 4
    else if fp8 x && y = .e2m1 then some 4
    else if x = .t2 && fp8 y then some 16
    else if x = .bf16 && y = .bf16 then some 1
    else none
  (one a b).or (one b a)

/-- One widening step (R25). -/
def widen1 : Format → Format
  | .t2 => .e2m1 | .e2m1 => .e2m3 | .e2m3 => .e4m3 | .g4 => .e3m2 | .e3m2 => .e5m2 | .e4m3 => .bf16
  | .e5m2 => .bf16 | f => f

/-- The pair that the feeders widen two operand formats to (R25); with equal codes the second operand is
widened (log entry 17). -/
def widenPair : Nat → Format → Format → Format × Format
  | 0, a, b => (a, b)
  | n + 1, a, b =>
    if (pairRate a b).isSome then (a, b)
    else if a.bits < b.bits then widenPair n (widen1 a) b
    else if b.bits < a.bits then widenPair n a (widen1 b)
    else if b.code < a.code then widenPair n (widen1 a) b
    else widenPair n a (widen1 b)

/-- The format above on the ladder of R42, and the headroom of that rung. -/
def nextWider : Format → Option (Format × Nat)
  | .e2m1 => some (.e2m3, 1) | .e2m3 => some (.e4m3, 4) | .e4m3 => some (.bf16, 8)
  | .g4 => some (.e3m2, 2) | .e3m2 => some (.e5m2, 6) | .e5m2 => some (.bf16, 8)
  | _ => none

/-- A format that stands on a ladder of R42. -/
def onLadder (f : Format) : Bool := (nextWider f).isSome || f = .bf16

/-- The rungs of a ladder from a format upwards, with each rung's headroom. -/
def ladderFrom : Nat → Format → List (Format × Nat)
  | 0, _ => []
  | n + 1, f => match nextWider f with | some (g, h) => (g, h) :: ladderFrom n g | none => []

/-- `g` is `f` or stands above it on the ladder of `f`. -/
def atOrAbove (f g : Format) : Bool := f = g || (ladderFrom 4 f).any fun r => r.1 = g

/-- headroom(FMT_BASE, FMT_CUR): the sum over the rungs above the base up to the present format (R42). -/
def headroom (base cur : Format) : Nat :=
  if base = cur then 0
  else (((ladderFrom 4 base).takeWhile fun r => r.1 ≠ cur).map Prod.snd).sum
    + (((ladderFrom 4 base).find? fun r => r.1 = cur).map Prod.snd).getD 0

/-- The format below `cur` on the ladder of `base` (R41). -/
def nextNarrower (base cur : Format) : Format :=
  (((ladderFrom 4 base).takeWhile fun r => r.1 ≠ cur).getLast?.map Prod.fst).getD base

end Sys2Proof
end

