-- ==== Sys2Proof/Machine/BlocksEngine.lean ====
section
/-! DEFINITION. The state of the Leavens and the matrix engines (chapters 2 to 5). -/

namespace Sys2Proof.Machine

/-- The Leavens of the four dies (R37). Words are keyed by 16 × (4,096 d + entry) + word, history slots by
64 × (4,096 d + entry) + slot. -/
structure LeavenTbl where
  act    : Tbl Word
  /-- Words that a register write has left in the shadow set, and words that an image load has (R412, R413, R423). -/
  shNew  : Tbl (Option Word)
  imgNew : Tbl (Option Word)
  hist   : Tbl Word
  /-- LEAVEN_COUNT of the active set, per die (R423). -/
  count  : Tbl Nat
  deriving DecidableEq, Repr

/-- The Leavens before any image. -/
def LeavenTbl.reset : LeavenTbl := { act := .empty, shNew := .empty, imgNew := .empty, hist := .empty, count := .empty }

/-- An accepted MPD with the copies that accept takes (R60, R111, R125): its 32 words, its sequence number, the
eight descriptor slots as they stood, the live extents of levels B, H, N, M and K before and after the
bucket, and the masks. -/
structure Mpd where
  words   : List Nat
  seq     : Nat
  tds     : List (List Nat)
  raw     : List Nat
  live    : List Nat
  rowMask : List Byte
  blkMask : List Byte
  deriving DecidableEq, Repr

/-- A stationary tile as the load path holds it: its place (D3, D2, N tile, K tile), its first byte address, the stored
width of its elements, its (element code, scale code) pairs by contraction index, then output column, the INV counts of
its elements and blocks (R21), and why it is unusable: 0 usable, 3 uncorrectable, 4 a format that is no array operand
(R71). -/
structure STile where
  key   : List Nat
  addr  : Nat
  bits  : Nat
  elems : List (List (Nat × Nat))
  inv   : Nat
  bad   : Nat
  deriving DecidableEq, Repr

/-- A tile in the stationary ring (R121): the MPD and the lane that it is for, its entry in the ring of each array that
holds a part of it, as (array, entry), and the tile. Element codes lie in the entry's bytes; scale codes ride with the
tile (log entry 143). -/
structure RingTile where
  seq   : Nat
  lane  : Nat
  slots : List (Nat × Nat)
  tile  : STile
  deriving DecidableEq, Repr

/-- A multicast unit (R123): the sequence number of the member's MPD that it is for, once a member has received it, the address of its first
tile, the TILE code of its MPD, the ring entry that holds it in a member, and the tiles that are still to be loaded, by their place in the
MPD's list of lanes. -/
structure McUnit where
  seq   : Nat
  addr  : Nat
  shape : Nat
  slot  : Nat
  tiles : List (Nat × STile)
  deriving DecidableEq, Repr

/-- The progress of an MPD on one lane: an array, or one half of a split array. -/
structure LaneProg where
  lane    : Nat
  /-- The next pass, in visit order (R118). -/
  pos     : Nat
  started : Bool
  rung    : Nat
  /-- The pass has made its check replay (R68): the array, the kind of check and the index of the failure. -/
  chk     : Option (Nat × Nat × Nat)
  /-- The active tile is to be loaded again before the pass is presented (R68). -/
  reload  : Bool
  /-- BAB of the epilogue, formed once for the MPD (R97). -/
  bab     : Option Nat
  /-- The code of the fault that ended the MPD on this lane; 0 while it runs. -/
  stop    : Nat
  /-- Passes up to which stationary tiles have been fetched and loaded, with the places of the last ones. -/
  fetched : Nat
  fkey    : List Nat
  loaded  : Nat
  lkey    : List Nat
  shadow  : Option STile
  active  : Option STile
  /-- What the presentation of the pass met: sums folded into the working copy, the last overflowing element, the
  first non-finite operand, invalid inputs, why an operand is unusable. -/
  work    : List (List Nat)
  past    : Option (Nat × Nat)
  nonfin  : Option (Nat × Nat)
  /-- The element that the last overflow or non-finite operand of the pass named (R90, R104). -/
  named   : Nat × Nat
  inv     : Nat
  bad     : Nat
  /-- The unusable operand came with the streamed row (R71). -/
  badRow  : Bool
  deriving DecidableEq, Repr

/-- An MPD in the queue with its progress (R49). -/
structure Job where
  mpd     : Mpd
  lanes   : List LaneProg
  /-- Lanes whose output header has been written (R99). -/
  header  : List Nat
  /-- The effects of an empty MPD have been made (R128). -/
  begun   : Bool
  /-- Multicast units that have been received for the MPD (R123). -/
  units   : Nat
  /-- Lanes of which a tile raised ACC_NONFINITE (R100, R200). -/
  nonfin  : List Nat
  deriving DecidableEq, Repr

/-- An open output tile in the accumulator store (R86, R91, R94): its place, its FP32 rows, its compensated pairs once
it has spilled, and what it holds. -/
structure AccTile where
  b      : Nat
  h      : Nat
  n      : Nat
  m      : Nat
  rows   : List (List Nat)
  pairs  : List (List (Nat × Nat))
  spilt  : Bool
  /-- The next pass writes its sum without adding: a first pass, or the first after a spill. -/
  fresh  : Bool
  passes : Nat
  set    : Nat
  slots  : Nat
  wide   : Nat
  rung   : Nat
  pass   : Nat
  deriving DecidableEq, Repr

/-- A tile that has been handed to the drain (R95): the MPD that drains it, its lane, its BAB, whether its drain has
begun, the next row, and whether it has raised ACC_NONFINITE. -/
structure DrainTile where
  mpd     : Mpd
  lane    : Nat
  tile    : AccTile
  bab     : Nat
  begun   : Bool
  next    : Nat
  flagged : Bool
  deriving DecidableEq, Repr

/-- One array (R66 to R74). -/
structure Arr4 where
  lowFailed  : Bool
  highFailed : Bool
  failed     : Bool
  retired    : Bool
  spareRows  : Nat
  spareCols  : Nat
  repair     : Nat
  ballast    : Bool
  deriving DecidableEq, Repr

/-- An array with no spare engaged. -/
def Arr4.fresh : Arr4 :=
  { lowFailed := false, highFailed := false, failed := false, retired := false
    spareRows := 0, spareCols := 0, repair := 0xFFFFFFFF, ballast := false }

/-- What an MPD that leaves its tiles open holds on a lane (R101): tiles, rows, row elements, accumulator and wide
slots. -/
structure Plan where
  tiles : Nat
  rows  : Nat
  cols  : Nat
  acc   : Nat
  wide  : Nat
  deriving DecidableEq, Repr

/-- No tile is open. -/
def Plan.none : Plan := { tiles := 0, rows := 0, cols := 0, acc := 0, wide := 0 }

/-- A matrix engine. Lanes are numbered 3 × array + half, with half 0 the whole array, 1 low, 2 high. -/
structure Engine where
  nextSeq  : Nat
  /-- The 128-byte record that the Chanter offers, as 32 words (R178). -/
  offer    : List Nat
  queue    : List Job
  tds      : Tbl (List Nat)
  lx       : Tbl Nat
  arrays   : Tbl Arr4
  /-- Open tiles by lane; plans of the tiles that the last accepted MPD leaves open on a lane. -/
  tiles    : Tbl (List AccTile)
  plans    : Tbl Plan
  drains   : Tbl (List DrainTile)
  /-- The set that fills, per array (R94). -/
  fillSet  : Tbl Nat
  /-- The tiles in the stationary rings of the two arrays, in the order of their fetches (R121). -/
  ring     : List RingTile
  /-- The shadow loads that wait for the load path of an array, by lane, in the order of their requests (R65). -/
  loads    : Tbl (List Nat)
  /-- Multicast units by list: under way to this member, held in its ring, and received in all (R123). -/
  mcIn     : Tbl (List McUnit)
  mcRing   : Tbl (List McUnit)
  mcCount  : Tbl Nat
  lastRefusal : Nat
  lastPlan    : Nat
  lastInvalid : Nat
  /-- The last status reported to the Chanter: sequence number and status (R49). -/
  report   : Option (Nat × Nat)
  /-- Output rows that have left each epilogue and wait for the out-ports, by array: (element bytes, scale bytes). -/
  out      : Tbl (List (List Byte × List Byte))
  deriving DecidableEq, Repr

/-- An engine after reset. -/
def Engine.reset : Engine :=
  { nextSeq := 0, offer := [], queue := [], tds := .empty, lx := .empty, arrays := .empty, tiles := .empty
    plans := .empty, drains := .empty, fillSet := .empty, ring := [], loads := .empty, mcIn := .empty, mcRing := .empty
    mcCount := .empty, lastRefusal := 0, lastPlan := 0, lastInvalid := 0, report := none, out := .empty }

end Sys2Proof.Machine
end

