-- ==== Sys2Proof/Machine/Tbl.lean ====
section
/-! DEFINITION. The operations of the sparse table: look-up, write and the canonical form. -/

namespace Sys2Proof

/-- Look up key `k` in a list sorted by key; `d` is what an unlisted key reads as. -/
def Tbl.lookup {α : Type} (d : α) (k : Nat) : List (Nat × α) → α
  | [] => d
  | (a, v) :: rest => if a < k then Tbl.lookup d k rest else if a = k then v else d

/-- The value at key `k`; `d` is what an unlisted key reads as. -/
def Tbl.get {α : Type} (d : α) (t : Tbl α) (k : Nat) : α :=
  Tbl.lookup d k t.cells

/-- Write `v` at key `k` in a list sorted by key; the value `d` of unlisted keys removes the entry. -/
def Tbl.insert {α : Type} [DecidableEq α] (d : α) (k : Nat) (v : α) : List (Nat × α) → List (Nat × α)
  | [] => if v = d then [] else [(k, v)]
  | (a, u) :: rest =>
    if a < k then (a, u) :: Tbl.insert d k v rest
    else if a = k then (if v = d then rest else (k, v) :: rest)
    else (if v = d then (a, u) :: rest else (k, v) :: (a, u) :: rest)

/-- The table with `v` at key `k`. -/
def Tbl.set {α : Type} [DecidableEq α] (d : α) (t : Tbl α) (k : Nat) (v : α) : Tbl α :=
  ⟨Tbl.insert d k v t.cells⟩

/-- The table with `f` applied to the value at key `k`. -/
def Tbl.upd {α : Type} [DecidableEq α] (d : α) (t : Tbl α) (k : Nat) (f : α → α) : Tbl α :=
  t.set d k (f (t.get d k))

/-- The table with the entries whose key satisfies `p` removed. -/
def Tbl.drop {α : Type} (t : Tbl α) (p : Nat → Bool) : Tbl α :=
  ⟨t.cells.filter fun c => !p c.1⟩

/-- Keys rise strictly and every key is above `lo`, when a bound is given. -/
def Tbl.sorted {α : Type} : Option Nat → List (Nat × α) → Bool
  | _, [] => true
  | none, (a, _) :: rest => Tbl.sorted (some a) rest
  | some lo, (a, _) :: rest => decide (lo < a) && Tbl.sorted (some a) rest

/-- A table lists its keys in strictly rising order: every key is held at most once. -/
abbrev Tbl.ordered {α : Type} (t : Tbl α) : Prop := Tbl.sorted none t.cells = true

/-- The canonical form: keys strictly rising, no entry equal to what an unlisted key reads as. -/
def Tbl.wf {α : Type} [DecidableEq α] (d : α) (t : Tbl α) : Bool :=
  Tbl.sorted none t.cells && t.cells.all fun c => decide (c.2 ≠ d)

end Sys2Proof
end

