-- ==== Sys2Proof/Machine/BlocksFabric.lean ====
section
/-! DEFINITION. The state of the reed fabrics and of the Chanters (chapters 6 and 7). -/

namespace Sys2Proof.Machine

/-- An entry of a network (R138): 512 bits, 32 bits or an 8-bit token, with the sideband of the vector network. -/
structure Entry where
  bits  : Nat
  plane : Bool
  last  : Bool
  deriving DecidableEq, Repr

/-- A queue that consumers take from: its entries, oldest first, and the consumers that have taken the entry at its
head (R139). -/
structure Queue where
  items : List Entry
  taken : List Nat
  deriving DecidableEq, Repr

/-- An empty queue. -/
def Queue.empty : Queue := { items := [], taken := [] }

/-- A loop counter of a reed (R150): its count, the limit popped from SI1 for the present count, and whether it has
reached its limit and not yet wrapped. -/
structure Counter where
  count : Nat
  limit : Option Nat
  due   : Bool
  deriving DecidableEq, Repr

/-- A counter at 0. -/
def Counter.zero : Counter := { count := 0, limit := none, due := false }

/-- What a reed holds while a configuration runs (R137, R145): registers, counters, whether GO has armed it, the
position in a MERGE or BRANCH run, and whether a limit above the plan or an uncorrectable local store stopped it. -/
structure ReedRun where
  armed   : Bool
  vregs   : Tbl Nat
  sregs   : Tbl Nat
  cnts    : Tbl Counter
  runPos  : Nat
  firings : Nat
  /-- Firings and issues before which the reed may have counted stalls (R162; log entry 67). -/
  waits   : Nat
  stopped : Bool
  deriving DecidableEq, Repr

/-- A reed at rest. (Log entry 208.) -/
def ReedRun.rest : ReedRun :=
  { armed := false, vregs := .empty, sregs := .empty, cnts := .empty, runPos := 0, firings := 0, waits := 0, stopped := false }

/-- A stream port (R143): a GO accepted and not yet run, a run in progress, its position in entries and its size, the
live L2 count and micro-batch index, the run address index, and the runs made. The last fields serve bound ports: a run
of the KV unit has its stream, its first position and whether it was found invalid (R227); a run of the ingest queue its
fragment's address, its token count and whether it delivers zeros (R311). -/
structure SpRun where
  go     : Bool
  active : Bool
  pos    : Nat
  spos   : Nat
  live   : Nat
  mb     : Nat
  index  : Nat
  runs   : Nat
  stream : Nat
  first  : Nat
  addr   : Nat
  tokens : Nat
  zero   : Bool
  deriving DecidableEq, Repr

/-- A stream port at rest. -/
def SpRun.rest : SpRun :=
  { go := false, active := false, pos := 0, spos := 0, live := 0, mb := 0, index := 0, runs := 0, stream := 0
    first := 0, addr := 0, tokens := 0, zero := false }

/-- One plane of an in-port's ring (R142): the slots that hold an entry, the place of the next entry, and how many of the oldest held slots
have been read by MPDs that have completed. -/
structure RingPlane where
  held : Nat
  next : Nat
  read : Nat
  deriving DecidableEq, Repr

/-- An empty plane. -/
def RingPlane.empty : RingPlane := { held := 0, next := 0, read := 0 }

/-- An in-port's ring: its element plane and its scale plane (R142). -/
structure Ring where
  elems  : RingPlane
  scales : RingPlane
  deriving DecidableEq, Repr

/-- An empty ring. -/
def Ring.empty : Ring := { elems := .empty, scales := .empty }

/-- The fabric of one die. Queues are keyed by 32 × reed + source code, port queues from 32 × 6,144. -/
structure FabDie where
  activeSet : Nat
  /-- SHADOW_STATE: 0 EMPTY, 1 LOADING, 2 AUDITING, 3 READY, 4 REJECTED (R165). -/
  shadow    : Nat
  /-- An image has been swapped into the active set. -/
  placed    : Bool
  swap      : Bool
  defers    : Nat
  /-- The swap (1) or reactivation (2) that was sampled as possible and runs now; 0 none (R167). -/
  due       : Nat
  /-- STARVE log (R164) and HALTED. -/
  halted    : Bool
  log       : List (List Byte)
  disabled  : List Nat
  /-- Multicast faults whose list is disabled: engine, list, code (R124). -/
  mcFaults  : List (Nat × Nat × Nat)
  /-- FAB_LS_UNCORRECTABLE has halted the die; why the shadow set is REJECTED: 1 the image, 2 the audit, 0 the step program. -/
  lsFault   : Bool
  rejectedBy : Nat
  auditReason : Nat
  auditDecl   : Nat
  imageReason : Nat
  reeds     : Tbl ReedRun
  ports     : Tbl SpRun
  queues    : Tbl Queue
  /-- The slot that the next entry of each balance buffer takes, by reed; the entries stand in the reeds' local stores (R160). -/
  bbNext    : Tbl Nat
  /-- In-port rings, by 4 × engine + port (R142). -/
  rings     : Tbl Ring
  /-- Entries that each engine port has moved, by 8 × engine + port, out-ports from 4 (ENTRIES). -/
  moved     : Tbl Nat
  /-- Entries that wait in the out-ports, by 4 × engine + port. -/
  outq      : Tbl (List Entry)
  /-- PHASE and DONE tokens that the Chanter has received: (port, token), oldest first (R144). -/
  tokens    : List (Nat × Nat)
  deriving DecidableEq, Repr

/-- A fabric after reset. -/
def FabDie.reset : FabDie :=
  { activeSet := 0, shadow := 0, placed := false, swap := false, defers := 0, due := 0, halted := false, log := []
    disabled := [], mcFaults := [], lsFault := false, rejectedBy := 0, auditReason := 0, auditDecl := 0, imageReason := 0, reeds := .empty, ports := .empty
    queues := .empty, bbNext := .empty, rings := .empty, moved := .empty, outq := .empty, tokens := [] }

/-- The fabric flush discards run state; the counts of firings and of runs stay (R162, R170). -/
def FabDie.restReeds (f : FabDie) : Tbl ReedRun :=
  f.reeds.cells.foldl (fun t c => t.set ReedRun.rest c.1 { ReedRun.rest with firings := c.2.firings, waits := c.2.waits }) .empty
def FabDie.restPorts (f : FabDie) : Tbl SpRun :=
  f.ports.cells.foldl (fun t c => t.set SpRun.rest c.1 { SpRun.rest with runs := c.2.runs }) .empty

/-- A unit that a Chanter has in flight (R177): its record as sixteen words, whether its forward and its
backward phase have finished on the die, and the forward and backward boundary entries it came in. -/
structure PUnit where
  info : List Nat
  fwd  : Bool
  bwd  : Bool
  finB : Nat
  binB : Nat
  deriving DecidableEq, Repr

/-- A phase program in progress (R178): its unit's ordinal, the byte offset of the operation it stands at in the step
program, the watchdog groups it armed, whether its ISSUE has been offered and waits for the engine's answer, and the live extent slots that
it filled from its unit, as (engine, slot). -/
structure PhaseRun where
  unit    : Nat
  pc      : Nat
  armed   : Nat
  waiting : Bool
  slots   : List (Nat × Nat)
  deriving DecidableEq, Repr

/-- An MPD that this Chanter offered and that has not completed: engine, sequence number, unit, whether a backward
phase offered it, and the layer whose current slot it reads (R186, R187). -/
structure Offer where
  eng   : Nat
  seq   : Nat
  unit  : Nat
  back  : Bool
  layer : Option Nat
  deriving DecidableEq, Repr

/-- A micro-batch held (R198): its index, the code of the cause, whether a backward phase was held, the tick at which the
hold began, and the record of one that could not be split into units (R199). -/
structure Hold where
  mb    : Nat
  cause : Nat
  back  : Bool
  since : Nat
  past  : Option (List Nat)
  deriving DecidableEq, Repr

/-- The Chanter of one die (R174 to R203). -/
structure ChDie where
  inStep    : Bool
  started   : Bool
  stopped   : Bool
  /-- PIPE_PROGRAM_FAULT has been raised in this step. -/
  progFault : Bool
  abandoned : Bool
  stageOff  : Nat
  stepTick  : Nat
  units     : Tbl PUnit
  /-- Records of units that have been formed on stage 0 and wait for their forward phase, in order. -/
  formed    : List (List Nat)
  nextOrd   : Nat
  /-- Micro-batches that have entered the stage in this step. -/
  taken     : Nat
  fwdNext   : Nat
  bwdNext   : Nat
  /-- Micro-batches whose SEGMENT notice has been sent in this step (R241). -/
  segSent   : List Nat
  /-- The next expected sequence number of the ingest queue (R310). -/
  ingSeq    : Nat
  start     : Option PhaseRun
  fwd       : Option PhaseRun
  bwd       : Option PhaseRun
  offers    : List Offer
  holds     : List Hold
  dropped   : List Nat
  /-- done, released, swapped and the Proofers that have sent next-complete, per layer (R187); CUR outlives the step. -/
  done      : Tbl Nat
  released  : Tbl Bool
  swapped   : Tbl Bool
  nextFrom  : Tbl Nat
  cur       : Tbl Nat
  /-- Boundary entries announced to this die, oldest first: backward ring or not, entry index, unit record. -/
  inbox     : List (Bool × Nat × List Nat)
  /-- Entries in use and the next entry to fill, of the forward (0) and backward (1) boundary rings. -/
  ringUsed  : Tbl Nat
  ringNext  : Tbl Nat
  deriving DecidableEq, Repr

/-- A Chanter after reset. -/
def ChDie.reset : ChDie :=
  { inStep := false, started := false, stopped := false, progFault := false, abandoned := false, stageOff := 0, stepTick := 0
    units := .empty, formed := [], nextOrd := 0, taken := 0, fwdNext := 0, bwdNext := 0, segSent := [], ingSeq := 0
    start := none, fwd := none, bwd := none, offers := [], holds := [], dropped := [], done := .empty
    released := .empty, swapped := .empty, nextFrom := .empty, cur := .empty, inbox := [], ringUsed := .empty
    ringNext := .empty }

end Sys2Proof.Machine
end

