-- ==== Sys2Proof/Machine/BlocksIngest.lean ====
section
/-! DEFINITION. The state of ingest: spans, decode contexts, generations and the draw (chapter 11). -/

namespace Sys2Proof.Machine

/-- How far a span has come (R305, R306): not yet demultiplexed, in the ES area, in decoding, a fragment, or dropped. -/
inductive SpanState where
  | waiting | demuxed | decoding | done | dropped
  deriving DecidableEq, Repr

/-- A picture or field that the decode engine has decoded for a span, in display order, as 10-bit samples (R297, R301). -/
structure RawPic where
  interlaced : Bool
  bottom     : Bool
  luma       : Plane
  cb         : Plane
  cr         : Plane
  shown      : Bool
  damaged    : Bool
  deriving DecidableEq, Repr

/-- A span in work: what the manifest says, its essence, the decode engine that holds its context, what has been decoded, and the
reservoir slot of its fragment: Proofer and slot number. -/
structure SpanJob where
  span    : Span
  state   : SpanState
  essence : Option EssenceInfo
  engine  : Option Nat
  pics    : List RawPic
  slot    : Option (Nat × Nat)
  deriving DecidableEq, Repr

/-- A span that nothing has been done for. -/
def SpanJob.new (x : Span) : SpanJob := { span := x, state := .waiting, essence := none, engine := none, pics := [], slot := none }

/-- A generation (R306, R307): its number, passes, spans, whether it is published, and its first draw position. -/
structure Generation where
  num       : Nat
  passes    : Nat
  jobs      : List SpanJob
  published : Bool
  start     : Nat
  deriving DecidableEq, Repr

/-- The slot list of a generation, in manifest order (R306). -/
def Generation.slots (g : Generation) : List (Nat × Nat) := g.jobs.filterMap fun j => j.slot

/-- The first draw position after a generation (R307). -/
def Generation.endPos (g : Generation) : Nat := g.start + g.passes * g.slots.length

/-- A stream context of a decode engine (R296): generation, span, the bytes of a picture buffer, and where its buffers lie in REFPIC. -/
structure DecContext where
  gen     : Nat
  span    : Nat
  size    : Nat
  buffers : List Nat
  deriving DecidableEq, Repr

/-- A decode engine (R294 to R301): its contexts in the order in which it serves them next, the spans whose contexts wait for REFPIC space,
and the coded luma samples decoded. -/
structure Decoder where
  contexts : List DecContext
  waiting  : List (Nat × Nat)
  samples  : Nat
  deriving DecidableEq, Repr

/-- A decode engine after reset. -/
def Decoder.reset : Decoder := { contexts := [], waiting := [], samples := 0 }

/-- Ingest as the firmware keeps it. -/
structure Ingest where
  gens      : List Generation
  /-- The number of the last manifest taken, and the first draw position of the next generation to be published. -/
  lastGen   : Option Nat
  nextStart : Nat
  decoders  : Tbl Decoder
  /-- The draw cursor (next draw position), its value when the step began, the micro-batches of the step that have drawn, and the
  generation being drawn. -/
  cursor    : Nat
  sealCursor : Nat
  mb        : Nat
  drawGen   : Nat
  /-- start_g of the generation being drawn. -/
  drawBase  : Nat
  /-- ING_STARVED has been raised in this step; the firmware waits for a generation now. -/
  starved   : Bool
  starving  : Bool
  /-- Next queue sequence to write, per die; the next sequence each bound port reads, by 128 d + p. -/
  head      : Tbl Nat
  portSeq   : Tbl Nat
  /-- Generation plus 1 of the fragment that a bound port's run reads, by 128 d + p, and of each queue entry, by 2^32 d + sequence. -/
  reading   : Tbl Nat
  entryGen  : Tbl Nat
  /-- Spans that customer code submitted, with what the firmware's check found (R313). -/
  submitted : List (Nat × Span × Bool)
  /-- The customer ingest partition is enabled (CIP_EN). -/
  cipEn     : Bool
  deriving DecidableEq, Repr

/-- Ingest after reset. -/
def Ingest.reset : Ingest :=
  { gens := [], lastGen := none, nextStart := 0, decoders := .empty, cursor := 0, sealCursor := 0, mb := 0, drawGen := 0, drawBase := 0
    starved := false, starving := false, head := .empty, portSeq := .empty, reading := .empty, entryGen := .empty
    submitted := [], cipEn := false }

/-- An import restores the draw (R270, R308): it goes on in generation `g`, which begins at `start` and whose manifest the control node sends
again, so the firmware lets go of the generations that it holds and of their contexts (log entry 215). -/
def Ingest.restart (i : Ingest) (g start cursor : Nat) : Ingest :=
  { i with
    gens := [], lastGen := if g = 0 then none else some (g - 1), nextStart := start
    decoders := ⟨i.decoders.cells.map fun c => (c.1, { c.2 with contexts := [], waiting := [] })⟩
    cursor := cursor, sealCursor := cursor, mb := 0, drawGen := g, drawBase := start, starving := false
    reading := .empty, entryGen := .empty }

end Sys2Proof.Machine
end

