-- ==== Sys2Proof/Machine/BlocksLinks.lean ====
section
/-! DEFINITION. The state of the Diviwin sub-ports and of the collectives engines (chapter 12). -/

namespace Sys2Proof.Machine

/-- The states of a sub-port (R317). -/
inductive LinkState where
  | disabled | training | up | degraded | retraining | down
  deriving DecidableEq, Repr

/-- STATE of SUB_STATUS. -/
def LinkState.code : LinkState → Nat
  | .disabled => 0 | .training => 1 | .up => 2 | .degraded => 3 | .retraining => 4 | .down => 5

/-- A DATA flit in the replay buffer (R321, R322). -/
structure TxFlit where
  seq     : Nat
  vc      : Nat
  som     : Bool
  eom     : Bool
  payload : List Byte
  deriving DecidableEq, Repr

/-- A flit that has left (R321). -/
structure OutFlit where
  typ     : Nat
  vc      : Nat
  som     : Bool
  eom     : Bool
  seq     : Nat
  ack     : Nat
  crdVc   : Nat
  crd     : Nat
  payload : List Byte
  deriving DecidableEq, Repr

/-- A sub-port (R316 to R326, R336). Lanes are numbered within the port. -/
structure SubPort where
  state       : LinkState
  /-- Lane bits: configured, active, retired since the last full training. -/
  lanes       : Nat
  active      : Nat
  retired     : Nat
  downCause   : Nat
  peerLost    : Bool
  peerId      : Nat
  credDefault : Bool
  /-- The tick of the last heartbeat received (L of R336), and whether the sub-port has come up since it was trained. -/
  lastHb      : Nat
  live        : Bool
  /-- Next sequence to send, and the replay buffer, oldest first. -/
  nextSeq     : Nat
  replay      : List TxFlit
  /-- Time of the last advance of ACK, and resends of the oldest unacknowledged sequence since it last advanced. -/
  ackUs       : Nat
  retries     : Nat
  /-- Next sequence expected; a NAK has been sent since the last flit taken in. -/
  expect      : Nat
  nak         : Bool
  /-- Credits held for sending, and credits to be returned to the peer, per channel; the arbiter's account of each channel and that of the
  flit sent last (log entry 59). -/
  credits     : Tbl Nat
  returned    : Tbl Nat
  sent        : Tbl Nat
  turn        : Nat
  /-- Every flit that has left, oldest first. -/
  out         : List OutFlit
  /-- Per channel the payloads of the message in assembly; messages received and not yet consumed: channel, bytes. -/
  part        : Tbl (List Byte)
  rx          : List (Nat × List Byte)
  /-- Per channel the flits that wait to be sent: first, last, payload. -/
  waiting     : Tbl (List (Bool × Bool × List Byte))
  /-- Per lane the consecutive ticks below the margin limit. -/
  low         : Tbl Nat
  /-- When the fast retrain began. -/
  retrainUs   : Nat
  deriving DecidableEq, Repr

/-- A sub-port after reset. -/
def SubPort.reset : SubPort :=
  { state := .disabled, lanes := 0, active := 0, retired := 0, downCause := 0, peerLost := false, peerId := 0
    credDefault := false, lastHb := 0, live := false, nextSeq := 0, replay := [], ackUs := 0, retries := 0, expect := 0
    nak := false, credits := .empty, returned := .empty, sent := .empty, turn := 0, out := [], part := .empty, rx := [], waiting := .empty
    low := .empty, retrainUs := 0 }

/-- A port: the bifurcation in force, lane margins and corrected symbols by lane (R316, R319, R340). -/
structure LinkPort where
  bifur  : Nat
  margin : Tbl Nat
  corr   : Tbl Nat
  deriving DecidableEq, Repr

/-- A port after reset. -/
def LinkPort.reset : LinkPort := { bifur := 0, margin := .empty, corr := .empty }

/-- A value on its way through a collective operation: FP32 elements or bytes, with its ABSENT and POISON marks (R328, R333). -/
structure ColVal where
  data   : List Nat
  absent : Bool
  poison : Bool
  deriving DecidableEq, Repr

/-- The progress of one chunk of a collective operation at this member (R333, R334): its own sum, the partials received along the dimension
summed first (X) and along the second (Y), the sum along the first, and whether its own part is over. -/
structure ColChunk where
  own     : Option ColVal
  inX     : Option ColVal
  inY     : Option ColVal
  row     : Option ColVal
  sentX   : Bool
  sentY   : Bool
  done    : Bool
  deriving DecidableEq, Repr

/-- A chunk of which nothing is known. -/
def ColChunk.none : ColChunk :=
  { own := Option.none, inX := Option.none, inY := Option.none, row := Option.none, sentX := false, sentY := false, done := false }

/-- A message that a collective operation waits to send: along Y or X, chunk, value. -/
structure ColSend where
  alongY : Bool
  chunk  : Nat
  val    : ColVal
  deriving DecidableEq, Repr

/-- The operations of R332 that the package can start by itself; nothing starts the fourth, all-to-all (log entry 188). -/
inductive ColKind where
  | allReduce | reduceScatter | allGather
  deriving DecidableEq, Repr

/-- A collective operation (R332): its number, which is 1,024 × die + table entry (log entry 58), its group, window credits held
along X and Y, what waits to be sent, the chunks in progress, the tick of its last progress. -/
structure ColOp where
  num      : Nat
  kind     : ColKind
  group    : Nat
  winX     : Nat
  winY     : Nat
  waiting  : List ColSend
  chunks   : Tbl ColChunk
  progress : Nat
  deriving DecidableEq, Repr

/-- A conduit at work (R330): destination entries announced as free, entries handed over and not yet sent with their bytes, the next
entry to hand over, the tick since which it waits for a free entry, and bytes received per entry. -/
structure Conduit where
  free    : List Nat
  handed  : List Nat
  next    : Nat
  waitFrom : Option Nat
  got     : Tbl Nat
  deriving DecidableEq, Repr

/-- A conduit that has done nothing. -/
def Conduit.none : Conduit := { free := [], handed := [], next := 0, waitFrom := Option.none, got := .empty }

/-- A VC0 notice of the collectives engine that has been sent (R330, R332, R337): a window credit (operation, Y direction, chunks),
a free entry (conduit, entry), or an abort (group). -/
inductive ColNotice where
  | credit (op : Nat) (alongY : Bool) (n : Nat)
  | free (conduit entry : Nat)
  | abort (group : Nat)
  deriving DecidableEq, Repr

/-- The collectives engines (R331 to R338). -/
structure Coll where
  ops      : List ColOp
  conduits : Tbl Conduit
  timedOut : Bool
  /-- Groups for which an abort has been sent in the present step; operations that have ended in it (number, gather or not); conduits that a
  timeout has ended in it. -/
  aborted  : List Nat
  ended    : List (Nat × Bool)
  shut     : List Nat
  notices  : List ColNotice
  /-- Boundary entries received over a conduit and not yet freed: die, backward ring or not, entry, conduit. -/
  held     : List (Nat × Bool × Nat × Nat)
  deriving DecidableEq, Repr

/-- The collectives engines after reset. -/
def Coll.reset : Coll :=
  { ops := [], conduits := .empty, timedOut := false, aborted := [], ended := [], shut := [], notices := [], held := [] }

end Sys2Proof.Machine
end

