-- ==== Sys2Proof/Machine/Crypto.lean ====
section
/-! DEFINITION. The functions that R383, R384 and R394 name: SHA-384, RSASSA-PSS, SLH-DSA-SHA2-192s, HKDF and HMAC-DRBG. PRESUMED: they are
those of FIPS 180-4, RFC 8017, FIPS 205, RFC 5869 and NIST SP 800-90A (log entry 4). -/

namespace Sys2Proof.Machine

/-- A big-endian number, and a number as `n` big-endian bytes. -/
def beNat (bs : List Byte) : Nat := bs.foldl (fun a b => 256 * a + b.toNat) 0
def beBytes (n v : Nat) : List Byte := (List.range n).map fun i => BitVec.ofNat 8 (v / 256 ^ (n - 1 - i))

/-- The same bytes in every position of a block. -/
def filled (n : Nat) (b : Byte) : List Byte := List.replicate n b

/-- The round constants of the SHA-2 functions of 64-bit words; those of 32-bit words are their upper halves. -/
def shaK : List Nat :=
  [0x428A2F98D728AE22, 0x7137449123EF65CD, 0xB5C0FBCFEC4D3B2F, 0xE9B5DBA58189DBBC, 0x3956C25BF348B538, 0x59F111F1B605D019] ++
  [0x923F82A4AF194F9B, 0xAB1C5ED5DA6D8118, 0xD807AA98A3030242, 0x12835B0145706FBE, 0x243185BE4EE4B28C, 0x550C7DC3D5FFB4E2] ++
  [0x72BE5D74F27B896F, 0x80DEB1FE3B1696B1, 0x9BDC06A725C71235, 0xC19BF174CF692694, 0xE49B69C19EF14AD2, 0xEFBE4786384F25E3] ++
  [0xFC19DC68B8CD5B5, 0x240CA1CC77AC9C65, 0x2DE92C6F592B0275, 0x4A7484AA6EA6E483, 0x5CB0A9DCBD41FBD4, 0x76F988DA831153B5] ++
  [0x983E5152EE66DFAB, 0xA831C66D2DB43210, 0xB00327C898FB213F, 0xBF597FC7BEEF0EE4, 0xC6E00BF33DA88FC2, 0xD5A79147930AA725] ++
  [0x6CA6351E003826F, 0x142929670A0E6E70, 0x27B70A8546D22FFC, 0x2E1B21385C26C926, 0x4D2C6DFC5AC42AED, 0x53380D139D95B3DF] ++
  [0x650A73548BAF63DE, 0x766A0ABB3C77B2A8, 0x81C2C92E47EDAEE6, 0x92722C851482353B, 0xA2BFE8A14CF10364, 0xA81A664BBC423001] ++
  [0xC24B8B70D0F89791, 0xC76C51A30654BE30, 0xD192E819D6EF5218, 0xD69906245565A910, 0xF40E35855771202A, 0x106AA07032BBD1B8] ++
  [0x19A4C116B8D2D0C8, 0x1E376C085141AB53, 0x2748774CDF8EEB99, 0x34B0BCB5E19B48A8, 0x391C0CB3C5C95A63, 0x4ED8AA4AE3418ACB] ++
  [0x5B9CCA4F7763E373, 0x682E6FF3D6B2B8A3, 0x748F82EE5DEFB2FC, 0x78A5636F43172F60, 0x84C87814A1F0AB72, 0x8CC702081A6439EC] ++
  [0x90BEFFFA23631E28, 0xA4506CEBDE82BDE9, 0xBEF9A3F7B2C67915, 0xC67178F2E372532B, 0xCA273ECEEA26619C, 0xD186B8C721C0C207] ++
  [0xEADA7DD6CDE0EB1E, 0xF57D4F7FEE6ED178, 0x6F067AA72176FBA, 0xA637DC5A2C898A6, 0x113F9804BEF90DAE, 0x1B710B35131C471B] ++
  [0x28DB77F523047D84, 0x32CAAB7B40C72493, 0x3C9EBE0A15C9BEBC, 0x431D67C49C100D4C, 0x4CC5D4BECB3E42B6, 0x597F299CFC657E2A] ++
  [0x5FCB6FAB3AD6FAEC, 0x6C44198C4A475817]

/-- The initial value of SHA-512; that of SHA-256 is its upper halves. -/
def shaIv512 : List Nat :=
  [0x6A09E667F3BCC908, 0xBB67AE8584CAA73B, 0x3C6EF372FE94F82B, 0xA54FF53A5F1D36F1, 0x510E527FADE682D1, 0x9B05688C2B3E6C1F] ++
  [0x1F83D9ABFB41BD6B, 0x5BE0CD19137E2179]

/-- The initial value of SHA-384. -/
def shaIv384 : List Nat :=
  [0xCBBB9D5DC1059ED8, 0x629A292A367CD507, 0x9159015A3070DD17, 0x152FECD8F70E5939, 0x67332667FFC00B31, 0x8EB44A8768581511] ++
  [0xDB0C2E0D64F98FA7, 0x47B5481DBEFA4FA4]

/-- A family of SHA-2 functions: the word width, the round constants, the rotations of the two large and the two small sigma functions, where
the last of a small one is a shift. -/
structure ShaKind where
  w  : Nat
  k  : List Nat
  s0 : Nat × Nat × Nat
  s1 : Nat × Nat × Nat
  t0 : Nat × Nat × Nat
  t1 : Nat × Nat × Nat

/-- The functions of 64-bit words and of 32-bit words. -/
def sha64 : ShaKind := { w := 64, k := shaK, s0 := (28, 34, 39), s1 := (14, 18, 41), t0 := (1, 8, 7), t1 := (19, 61, 6) }
def sha32 : ShaKind :=
  { w := 32, k := (shaK.take 64).map (· / 2 ^ 32), s0 := (2, 13, 22), s1 := (6, 11, 25), t0 := (7, 18, 3), t1 := (17, 19, 10) }

/-- The sigma functions. -/
def shaBig {w : Nat} (r : Nat × Nat × Nat) (x : BitVec w) : BitVec w := x.rotateRight r.1 ^^^ x.rotateRight r.2.1 ^^^ x.rotateRight r.2.2
def shaSmall {w : Nat} (r : Nat × Nat × Nat) (x : BitVec w) : BitVec w := x.rotateRight r.1 ^^^ x.rotateRight r.2.1 ^^^ x >>> r.2.2

/-- A message padded to whole blocks of 16 words. -/
def shaPad (f : ShaKind) (m : List Byte) : List Byte :=
  let block := 2 * f.w
  let tail := f.w / 4
  m ++ 0x80#8 :: filled ((2 * block - 1 - tail - m.length % block) % block) 0 ++ beBytes tail (8 * m.length)

/-- The message schedule of a block, newest word first. -/
def shaSchedule (f : ShaKind) (ws : List (BitVec f.w)) : List (BitVec f.w) :=
  (List.range (f.k.length - 16)).foldl (fun r _ =>
    (shaSmall f.t1 (r.getD 1 0) + r.getD 6 0 + shaSmall f.t0 (r.getD 14 0) + r.getD 15 0) :: r) ws.reverse

/-- One round on the eight working variables. -/
def shaRound (f : ShaKind) (v : List (BitVec f.w)) (wk : BitVec f.w × Nat) : List (BitVec f.w) :=
  match v with
  | [a, b, c, d, e, g, h, i] =>
    let t1 := i + shaBig f.s1 e + ((e &&& g) ^^^ (~~~e &&& h)) + BitVec.ofNat f.w wk.2 + wk.1
    let t2 := shaBig f.s0 a + ((a &&& b) ^^^ (a &&& c) ^^^ (b &&& c))
    [t1 + t2, a, b, c, d + t1, e, g, h]
  | _ => v

/-- The hash value after one block. -/
def shaBlock (f : ShaKind) (hv : List (BitVec f.w)) (block : List Byte) : List (BitVec f.w) :=
  let n := f.w / 8
  let ws := (List.range 16).map fun i => BitVec.ofNat f.w (beNat ((block.drop (n * i)).take n))
  List.zipWith (· + ·) hv (((shaSchedule f ws).reverse.zip f.k).foldl (shaRound f) hv)

/-- A SHA-2 function with an initial value, cut to `len` bytes. -/
def sha2 (f : ShaKind) (iv : List Nat) (len : Nat) (m : List Byte) : List Byte :=
  let p := shaPad f m
  let hv := (List.range (p.length / (2 * f.w))).foldl (fun h i => shaBlock f h ((p.drop (2 * f.w * i)).take (2 * f.w)))
    (iv.map (BitVec.ofNat f.w))
  (hv.flatMap fun x => beBytes (f.w / 8) x.toNat).take len

/-- SHA-384, SHA-512 and SHA-256. -/
def sha384 (m : List Byte) : List Byte := sha2 sha64 shaIv384 48 m
def sha512 (m : List Byte) : List Byte := sha2 sha64 shaIv512 64 m
def sha256 (m : List Byte) : List Byte := sha2 sha32 (shaIv512.map (· / 2 ^ 32)) 32 m

/-- HMAC with a hash function of 128-byte blocks. -/
def hmac (hash : List Byte → List Byte) (key m : List Byte) : List Byte :=
  let k := if 128 < key.length then hash key else key
  let kp := k ++ filled (128 - k.length) 0
  hash (kp.map (· ^^^ 0x5C) ++ hash (kp.map (· ^^^ 0x36) ++ m))

/-- HKDF-SHA-384: `n` bytes, at most 48, from a secret, for a purpose. -/
def hkdf (salt secret info : List Byte) (n : Nat) : List Byte :=
  (hmac sha384 (hmac sha384 salt secret) (info ++ [0x01])).take n

/-- The state (K, V) of an HMAC-DRBG with SHA-384 that a seed instantiates. -/
def drbgSeed (seed : List Byte) : List Byte × List Byte :=
  let k1 := hmac sha384 (filled 48 0) (filled 48 1 ++ [0] ++ seed)
  let v1 := hmac sha384 k1 (filled 48 1)
  let k2 := hmac sha384 k1 (v1 ++ [1] ++ seed)
  (k2, hmac sha384 k2 v1)

/-- The mask generation function MGF1. -/
def mgf1 (hash : List Byte → List Byte) (seed : List Byte) (n : Nat) : List Byte :=
  ((List.range (n / 32 + 1)).flatMap fun i => hash (seed ++ beBytes 4 i)).take n

/-- b ^ e mod m, for an exponent of at most `n` bits. -/
def powMod (m b e n : Nat) : Nat :=
  (List.range n).reverse.foldl (fun a i => let q := a * a % m; if e.testBit i then q * b % m else q) (1 % m)

def xorBytes (a b : List Byte) : List Byte := List.zipWith (· ^^^ ·) a b

/-- RSASSA-PSS with SHA-384, MGF1-SHA-384 and a 48-byte salt, under a 3,072-bit modulus and the exponent 65,537 (R383): modulus, message,
signature. -/
def rsaVerify (modulus m sig : List Byte) : Bool :=
  let n := beNat modulus
  let em := beBytes 384 (powMod n (beNat sig) 65537 17)
  let mdb := em.take 335
  let h := (em.drop 335).take 48
  let db := match xorBytes mdb (mgf1 sha384 h 335) with
    | x :: xs => (x &&& 0x7F) :: xs
    | [] => []
  sig.length == 384 && decide (beNat sig < n) && em.getD 383 0 == 0xBC && !(em.getD 0 0).getLsbD 7 &&
    db.take 287 == filled 286 0 ++ [1] && sha384 (filled 8 0 ++ sha384 m ++ db.drop 287) == h

/-- The RSASSA-PSS signature over a message with a salt of 48 bytes, under a modulus and a private exponent (R383, R395). -/
def rsaSign (n d : Nat) (salt m : List Byte) : List Byte :=
  let h := sha384 (filled 8 0 ++ sha384 m ++ salt)
  let mdb := match xorBytes (filled 286 0 ++ [1] ++ salt) (mgf1 sha384 h 335) with
    | x :: xs => (x &&& 0x7F) :: xs
    | [] => []
  beBytes 384 (powMod n (beNat (mdb ++ h ++ [0xBC])) d 3072)

/-- An address of SLH-DSA in its compressed form: the layer, the tree, the type, the key pair, and the two words that the type gives a
meaning (chain or height, hash or index). -/
structure SlhAdrs where
  layer : Nat
  tree  : Nat
  kind  : Nat
  pair  : Nat
  x     : Nat
  y     : Nat

def slhAdrsBytes (a : SlhAdrs) : List Byte :=
  beBytes 1 a.layer ++ beBytes 8 a.tree ++ beBytes 1 a.kind ++ beBytes 4 a.pair ++ beBytes 4 a.x ++ beBytes 4 a.y

/-- The functions F (and PRF) and H (and T) of the parameter set 192s, under a public seed. -/
def slhF (seed : List Byte) (a : SlhAdrs) (m : List Byte) : List Byte :=
  (sha256 (seed ++ filled 40 0 ++ slhAdrsBytes a ++ m)).take 24
def slhH (seed : List Byte) (a : SlhAdrs) (m : List Byte) : List Byte :=
  (sha512 (seed ++ filled 104 0 ++ slhAdrsBytes a ++ m)).take 24

/-- The digest of a message (H_msg) of 39 bytes: what FORS signs, and the tree and leaf that sign it. -/
def slhDigest (r seed root m : List Byte) : List Byte :=
  mgf1 sha512 (r ++ seed ++ sha512 (r ++ seed ++ root ++ m)) 39

/-- `count` numbers of `b` bits, the first from the most significant bits. -/
def slhBase (b count : Nat) (m : List Byte) : List Nat :=
  (List.range count).map fun i => beNat m / 2 ^ (8 * m.length - b * (i + 1)) % 2 ^ b

/-- The `i`-th string of 24 bytes. -/
def slhPart (bs : List Byte) (i : Nat) : List Byte := (bs.drop (24 * i)).take 24

/-- `n` applications of the chain function from the `i`-th on. -/
def slhChain (seed : List Byte) (a : SlhAdrs) (m : List Byte) (i n : Nat) : List Byte :=
  (List.range n).foldl (fun t j => slhF seed { a with kind := 0, y := i + j } t) m

/-- The 51 digits that a one-time signature over 24 bytes signs. -/
def slhDigits (m : List Byte) : List Nat :=
  let d := slhBase 4 48 m
  d ++ slhBase 4 3 (beBytes 2 (16 * (d.map (15 - ·)).sum))

/-- The public key of a one-time key pair from the ends of its chains. -/
def slhWotsPk (seed : List Byte) (a : SlhAdrs) (ends : List (List Byte)) : List Byte :=
  slhH seed { a with kind := 1, x := 0, y := 0 } ends.flatten

/-- The public key that a one-time signature stands for. -/
def slhWotsFromSig (seed : List Byte) (a : SlhAdrs) (sig m : List Byte) : List Byte :=
  slhWotsPk seed a ((slhDigits m).zipIdx.map fun p => slhChain seed { a with x := p.2 } (slhPart sig p.2) p.1 (15 - p.1))

/-- The root that an authentication path leads to from a node at height 0 and an index. -/
def slhClimb (seed : List Byte) (a : SlhAdrs) (index : Nat) (node auth : List Byte) (height : Nat) : List Byte :=
  (List.range height).foldl (fun t k =>
    let sib := slhPart auth k
    slhH seed { a with x := k + 1, y := index / 2 ^ (k + 1) } (if index / 2 ^ k % 2 = 0 then t ++ sib else sib ++ t)) node

/-- The root of an XMSS tree of height 9 that a signature stands for. -/
def slhXmssFromSig (seed : List Byte) (a : SlhAdrs) (index : Nat) (sig m : List Byte) : List Byte :=
  let leaf := slhWotsFromSig seed { a with kind := 0, pair := index, x := 0, y := 0 } (sig.take 1224) m
  slhClimb seed { a with kind := 2, pair := 0 } index leaf (sig.drop 1224) 9

/-- The FORS public key that a signature of 17 trees of height 14 stands for. -/
def slhForsFromSig (seed : List Byte) (a : SlhAdrs) (sig md : List Byte) : List Byte :=
  let b := { a with kind := 3 }
  let root := fun (p : Nat × Nat) =>
    let part := (sig.drop (360 * p.2)).take 360
    let index := p.2 * 2 ^ 14 + p.1
    slhClimb seed b index (slhF seed { b with x := 0, y := index } (part.take 24)) (part.drop 24) 14
  slhH seed { a with kind := 4, x := 0, y := 0 } (((slhBase 14 17 md).zipIdx.map root).flatten)

/-- What a digest selects: the tree and the leaf of the lowest layer. -/
def slhPlace (digest : List Byte) : Nat × Nat := (beNat ((digest.drop 30).take 7) % 2 ^ 54, beNat ((digest.drop 37).take 2) % 2 ^ 9)

/-- The tree and the leaf that sign on a layer. -/
def slhLayer (place : Nat × Nat) (j : Nat) : Nat × Nat :=
  if j = 0 then place else (place.1 / 2 ^ (9 * j), place.1 / 2 ^ (9 * (j - 1)) % 2 ^ 9)

/-- The start of an address on a layer. -/
def slhAt (layer tree : Nat) : SlhAdrs := { layer := layer, tree := tree, kind := 0, pair := 0, x := 0, y := 0 }

/-- A message in pure mode with an empty context. -/
def slhPure (m : List Byte) : List Byte := [0, 0] ++ m

/-- SLH-DSA-SHA2-192s verification in pure mode with an empty context (R383): public key, message, signature. -/
def slhVerify (pk m sig : List Byte) : Bool :=
  let seed := pk.take 24
  let root := (pk.drop 24).take 24
  let digest := slhDigest (sig.take 24) seed root (slhPure m)
  let place := slhPlace digest
  let fors := slhForsFromSig seed { slhAt 0 place.1 with pair := place.2 } ((sig.drop 24).take 6120) (digest.take 30)
  let top := (List.range 7).foldl (fun t j =>
    let q := slhLayer place j
    slhXmssFromSig seed (slhAt j q.1) q.2 ((sig.drop (6144 + 1440 * j)).take 1440) t) fors
  pk.length == 48 && sig.length == 16224 && top == root

/-- The three seeds of an SLH-DSA key pair: the secret seed, the seed of the message randomiser and the public seed. -/
structure SlhSeeds where
  sk  : List Byte
  prf : List Byte
  pub : List Byte
  deriving DecidableEq, Repr

/-- The secret of chain `i` of a one-time key pair, and its public key. -/
def slhWotsSk (k : SlhSeeds) (a : SlhAdrs) (i : Nat) : List Byte := slhF k.pub { a with kind := 5, x := i, y := 0 } k.sk
def slhWotsGen (k : SlhSeeds) (a : SlhAdrs) : List Byte :=
  slhWotsPk k.pub a ((List.range 51).map fun i => slhChain k.pub { a with x := i } (slhWotsSk k a i) 0 15)

/-- A node of an XMSS tree and of a FORS tree, by its height and its index. -/
def slhXmssNode (k : SlhSeeds) (a : SlhAdrs) : Nat → Nat → List Byte
  | 0, i => slhWotsGen k { a with kind := 0, pair := i, x := 0, y := 0 }
  | z + 1, i => slhH k.pub { a with kind := 2, pair := 0, x := z + 1, y := i } (slhXmssNode k a z (2 * i) ++ slhXmssNode k a z (2 * i + 1))
def slhForsSk (k : SlhSeeds) (a : SlhAdrs) (i : Nat) : List Byte := slhF k.pub { a with kind := 6, x := 0, y := i } k.sk
def slhForsNode (k : SlhSeeds) (a : SlhAdrs) : Nat → Nat → List Byte
  | 0, i => slhF k.pub { a with kind := 3, x := 0, y := i } (slhForsSk k a i)
  | z + 1, i => slhH k.pub { a with kind := 3, x := z + 1, y := i } (slhForsNode k a z (2 * i) ++ slhForsNode k a z (2 * i + 1))

/-- The public root of a key pair. -/
def slhRoot (k : SlhSeeds) : List Byte := slhXmssNode k (slhAt 6 0) 9 0

/-- The sibling of a node's ancestor at a height. -/
def slhSibling (i j : Nat) : Nat := let q := i / 2 ^ j; if q % 2 = 0 then q + 1 else q - 1

/-- The XMSS signature of a leaf over 24 bytes. -/
def slhXmssSign (k : SlhSeeds) (a : SlhAdrs) (i : Nat) (m : List Byte) : List Byte :=
  let b := { a with kind := 0, pair := i, x := 0, y := 0 }
  ((slhDigits m).zipIdx.flatMap fun p => slhChain k.pub { b with x := p.2 } (slhWotsSk k b p.2) 0 p.1) ++
    (List.range 9).flatMap fun j => slhXmssNode k a j (slhSibling i j)

/-- The SLH-DSA-SHA2-192s signature over a message, with the randomness that goes into its randomiser (R383, R395). -/
def slhSign (k : SlhSeeds) (rand m : List Byte) : List Byte :=
  let r := (hmac sha512 k.prf (rand ++ slhPure m)).take 24
  let digest := slhDigest r k.pub (slhRoot k) (slhPure m)
  let place := slhPlace digest
  let a := { slhAt 0 place.1 with pair := place.2 }
  let fors := (slhBase 14 17 (digest.take 30)).zipIdx.flatMap fun p =>
    let i := p.2 * 2 ^ 14 + p.1
    slhForsSk k a i ++ (List.range 14).flatMap fun j => slhForsNode k a j (slhSibling i j)
  let first := slhForsFromSig k.pub a fors (digest.take 30)
  r ++ fors ++ ((List.range 7).foldl (fun (t : List Byte × List Byte) j =>
    let q := slhLayer place j
    let sig := slhXmssSign k (slhAt j q.1) q.2 t.2
    (t.1 ++ sig, slhXmssFromSig k.pub (slhAt j q.1) q.2 sig t.2)) ([], first)).1

/-- The device identity keys (R394): the RSA modulus and private exponent, and the seeds of the SLH-DSA key pair. -/
structure Identity where
  rsaN : Nat
  rsaD : Nat
  slh  : SlhSeeds
  deriving DecidableEq, Repr

/-- No key has been derived. -/
def Identity.none : Identity := { rsaN := 0, rsaD := 0, slh := { sk := [], prf := [], pub := [] } }

/-- The identity keys that BOOT derives from the 256-bit unique device secret (R394). The salt and the purposes of the derivation, and how an
RSA key pair is found with the generator, are free values (log entry 4). -/
def deriveIdentity (secret : BitVec 256) : Identity :=
  let part := fun (i n : Nat) => hkdf (Config.hkdfSalt) (beBytes 32 secret.toNat) (Config.hkdfInfo i) n
  let g := drbgSeed (part 3 48)
  let rsa := Config.rsaKeyPair g.1 g.2
  { rsaN := rsa.1, rsaD := rsa.2, slh := { sk := part 0 24, prf := part 1 24, pub := part 2 24 } }

/-- Both signatures of a device identity over a message (R394, R395); the salt of one and the randomness of the other are free values (log
entry 4). -/
def identitySign (k : Identity) (m : List Byte) : List Byte :=
  rsaSign k.rsaN k.rsaD (beBytes 48 (Config.signRand 0 m)) m ++ slhSign k.slh (beBytes 24 (Config.signRand 1 m)) m

end Sys2Proof.Machine
end

