-- ==== Sys2Proof/Machine/BlocksControl.lean ====
section
/-! DEFINITION. The state of the control side: device state, Ramtor port, security, fuses, events, cadence,
Bellows, power domains, health and pins (chapters 13 to 16). -/

namespace Sys2Proof.Machine

/-- The device states of R375. -/
inductive DevState where
  | off | boot | staged | ready | running | held | safe | maint
  deriving DecidableEq, Repr

/-- The code that DEV_STATE.STATE reads (R375). -/
def DevState.code : DevState → Nat
  | .off => 0 | .boot => 1 | .staged => 2 | .ready => 3 | .running => 4 | .held => 5 | .safe => 6
  | .maint => 7

/-- The envelope modes of R352. -/
inductive Envelope where
  | quiet | sustain | sprint
  deriving DecidableEq, Repr

/-- The code that MODE and MODE_ACT hold. -/
def Envelope.code : Envelope → Nat
  | .quiet => 0 | .sustain => 1 | .sprint => 2

/-- An event record (R416). -/
structure EvRec where
  source     : Nat
  code       : Nat
  seq        : Nat
  time       : Nat
  lostBefore : Bool
  fault      : Bool
  payload    : List Byte
  deriving DecidableEq, Repr

/-- The event block and the source queues (R416 to R422). -/
structure EvtBlock where
  /-- Records raised and not yet admitted, per source page, oldest first (R420). -/
  queues    : Tbl (List EvRec)
  /-- EVT_SEQ per page (R417). -/
  seqs      : Tbl Nat
  /-- A record of the page was lost since its last record was raised (R420). -/
  lost      : Tbl Bool
  /-- The ring, oldest first, at most 4,096 records (R421). -/
  ring      : List EvRec
  /-- How many records from the ring's front each consumer has taken. -/
  portTaken : Nat
  hostTaken : Nat
  lostLast  : Nat
  hostWp    : Nat
  hostWraps : Nat
  /-- Messages sent on the event channel, oldest first. -/
  sent      : List (List EvRec)
  deriving DecidableEq, Repr

/-- A response (R381). -/
structure Resp where
  tag    : Nat
  opcode : Nat
  status : Nat
  cause  : Nat
  data   : List Byte
  deriving DecidableEq, Repr

/-- Messages that leave on channels 0 and 1 (R369, R371). -/
inductive OutMsg where
  | resp (r : Resp)
  | credit (ch : Nat) (limit : Nat)
  | nak (ch : Nat) (missing : Nat)
  /-- Stream bytes that are sent again after a NAK: channel, offset, bytes (R371). -/
  | stream (ch off : Nat) (bytes : List Byte)
  deriving DecidableEq, Repr

/-- A segment that has left: the six words of its header, and its payload (R368). -/
structure TxSegment where
  hdr     : List Nat
  payload : List Byte
  deriving DecidableEq, Repr

/-- A message in assembly on one channel (R368). -/
structure RxPart where
  active : Bool
  next   : Nat
  seq    : Nat
  tag    : Nat
  off    : Nat
  bytes  : List Byte
  deriving DecidableEq, Repr

/-- A complete message that awaits execution (R368, R370). -/
structure RxMsg where
  ch    : Nat
  tag   : Nat
  off   : Nat
  bytes : List Byte
  deriving DecidableEq, Repr

/-- A long command that runs (R381), with the argument its end needs. -/
structure LongCmd where
  opcode : Nat
  tag    : Nat
  arg    : List Nat
  deriving DecidableEq, Repr

/-- A firmware component that runs: number, security version, header digest (R383, R395). -/
structure FwComp where
  number : Nat
  svn    : Nat
  digest : List Byte
  deriving DecidableEq, Repr

/-- Device state, commands in flight and firmware (chapter 14). -/
structure Ctl where
  state       : DevState
  maintFrom   : DevState
  holdPending : Bool
  heldCause   : Nat
  /-- The step of R382 that has been completed; 6 once STAGED has been entered. -/
  bootStep    : Nat
  ramActive   : Bool
  standbyLock : Bool
  debugSeen   : Bool
  /-- The device identity keys that the root of trust has derived (R394). -/
  identity    : Identity
  /-- The step in progress or next to begin, the step of the last seal, and its package summary
  (R268, R395). -/
  stepNo      : Nat
  /-- The next step begins on the next tick: 1 after RESUME, 2 after RUN (R376). -/
  stepDue     : Nat
  sealStep    : Nat
  sealSummary : Nat
  /-- A ZEROISE ran since MAINT was entered (R392). -/
  zeroised    : Bool
  long        : List LongCmd
  /-- Responses to the most recent distinct tags, newest first (R370). -/
  stored      : List Resp
  /-- Traffic sent on channels 1 and 0, and stream bytes sent again, oldest first; every segment that has left, on any channel. -/
  out         : List OutMsg
  wire        : List TxSegment
  rx          : Tbl RxPart
  msgs        : List RxMsg
  /-- The next message sequence number of each outgoing channel (R368). -/
  txSeq       : Tbl Nat
  /-- Firmware: first stage, other components, bytes loaded by LOAD_FW per component (R382 to R384). -/
  firstStage  : Option FwComp
  /-- SHA-384 of the accepted first stage (R395), its RSA_N and SLH_PK, and the key-set slot in force since BOOT. -/
  stageDigest : List Byte
  keyRsa      : List Byte
  keySlh      : List Byte
  keySlot     : Nat
  comps       : List FwComp
  loadBuf     : Tbl (List Byte)
  recovery    : List Byte
  /-- ACTIVATE and REACTIVATE masks that wait for the next tick (R379). -/
  activate    : Nat
  reactivate  : Nat
  /-- Stream limits and positions of channels 3 and 4 (R371): bytes received without a gap, limit
  granted; bytes sent, limit received. -/
  ingGot      : Nat
  ingLimit    : Nat
  ckInGot     : Nat
  ckInLimit   : Nat
  ckOutSent   : Nat
  ckOutLimit  : Nat
  /-- Ledger records on channel 5 (R397): step acknowledged plus 1, records not yet sent, records sent. -/
  ledgerAck   : Nat
  ledgerDue   : List (Nat × List Byte)
  ledgerOut   : List (List Byte)
  deriving DecidableEq, Repr

/-- Fuse-backed values (R73, R386, R387, R391, R392, R428, R430). -/
structure Fuses where
  deviceId     : Nat
  /-- The unique device secret (R394). -/
  secret       : BitVec 256
  floor        : Nat
  keySlots     : List (List Byte)
  tamper       : Bool
  tamperClears : Nat
  zeroPending  : Bool
  softMaps     : Tbl Nat
  factoryMaps  : Tbl Nat
  thermtrips   : Nat
  /-- Hours of operation since manufacture (R430). -/
  hours        : Nat
  deriving DecidableEq, Repr

/-- Levels of the named signals and the timers of the security domain (R388 to R391, R436). -/
structure Pins where
  resetN       : Bool
  pwrGood      : Bool
  presenceN    : Bool
  sealClosed   : Bool
  alertN       : Bool
  thermtripN   : Bool
  /-- Time of the falling edge from which the present low interval of PRESENCE_N counts. -/
  presLowSince  : Option Nat
  /-- Time at which PRESENCE_N last rose. -/
  presHighSince : Option Nat
  /-- Time since which SEAL_LOOP is continuous, or since which it is open. -/
  sealSince     : Nat
  /-- Presence holds (R389). -/
  presence      : Bool
  deriving DecidableEq, Repr

/-- The states of the cadence unit (R347). -/
inductive CadState where
  | free | acquiring | locked | holdover | lost
  deriving DecidableEq, Repr

/-- The code of CAD STATE. -/
def CadState.code : CadState → Nat
  | .free => 0 | .acquiring => 1 | .locked => 2 | .holdover => 3 | .lost => 4

/-- The active reference (SRC_ACTIVE). -/
inductive CadRef where
  | none | pulse | ptp | osc
  deriving DecidableEq, Repr

/-- The code of SRC_ACTIVE. -/
def CadRef.code : CadRef → Nat
  | .none => 0 | .pulse => 1 | .ptp => 2 | .osc => 3

/-- A two-step Sync that waits for its Follow_Up (R345). -/
structure PtpSync where
  sender : Nat
  seq    : Nat
  rxHalf : Int
  deriving DecidableEq, Repr

/-- The cadence unit (chapter 13). Reception times are in units of 0.5 ns (R345, R346). -/
structure Cad where
  state     : CadState
  active    : CadRef
  holdLeft  : Nat
  tickNo    : Nat
  /-- Replica counters: compute dies 0–3, Proofers 4–11, Bellows 12 (R343). -/
  replicas  : Tbl Nat
  /-- Values in force of the fields that take effect at entry to RUNNING (R342). -/
  tickLen   : Nat
  epochNs   : Nat
  asymNs    : Int
  phase     : Nat
  /-- TICK_LEN of the tick in progress, which an entry to RUNNING leaves as it is (R342). -/
  runLen    : Nat
  /-- Lengthening of the tick in progress and an omission that waits (R350). -/
  extraUs   : Nat
  omitNext  : Bool
  /-- The new grid waits for the edge that is already due; then its first number waits for its own
  boundary (R342, R347). -/
  newGrid   : Bool
  numNext   : Option Nat
  /-- Time of day on the PTP timescale minus the model's clock, ns. -/
  todNs     : Int
  offsetNs  : Int
  /-- The offset that the slew has still to remove; what it adds to the tick in progress, µs, and ns that do not make up one yet (R349). -/
  slewNs    : Int
  slewUs    : Int
  slewSub   : Int
  gm        : Nat
  /-- The best master's data set, and when its last Announce came. -/
  best      : Option AnnounceMsg
  annUs     : Nat
  sync      : Option PtpSync
  delayNs   : Int
  /-- Master-to-slave difference of the last Sync and Follow_Up pair. -/
  msNs      : Int
  lastSync  : Option Nat
  ptpOk     : Bool
  pulseOk   : Bool
  incons    : Bool
  goodSync  : Nat
  goodEdge  : Nat
  badEdge   : Nat
  lastEdge  : Option Nat
  deriving DecidableEq, Repr

/-- A supply message that waits for its tick (R359). -/
inductive SupplyMsg where
  | cap (w : Nat)
  | hold (n : Nat)
  | shed
  | freqDev (mHz action : Nat)
  deriving DecidableEq, Repr

/-- A change of envelope that is under way (R353, R358). -/
inductive ModeMove where
  | idle
  /-- Clock stretched, VCD falling; the PLL switches once it has settled, and a PWR_SHED record is then
  raised for each cause listed. -/
  | falling (dest_ : Envelope) (causes : List Nat)
  /-- VCD rising; the PLL switches once it has settled. -/
  | rising (dest_ : Envelope)
  deriving DecidableEq, Repr

/-- The Bellows and the supply (chapter 13). Powers are in mW, energies in nJ. -/
structure Bellows where
  modeAct    : Envelope
  move       : ModeMove
  /-- A narrowing that waits for the next tick, a widening that waits for the next seal (R353). -/
  narrow     : Option Envelope
  widen      : Option Envelope
  stretched  : Bool
  lim        : Nat
  draw       : Nat
  throttle   : Nat
  ballast    : Nat
  hold       : Bool
  holdLeft   : Nat
  relaxed    : Bool
  thrUs      : Nat
  rails      : Tbl Nat
  energy     : Nat
  ballastE   : Nat
  /-- Ballast rows presented in the present µs (R354). -/
  rows       : Nat
  msgs       : List (Nat × SupplyMsg)
  /-- A brown-out is in progress; one of VCRUST, VTROUGH and VAUX tripped in it (R360). -/
  brown      : Bool
  brownLost  : Bool
  wasRunning : Bool
  /-- Memories in self-refresh, clocks of every domain but the always-on ones stopped. -/
  stopped    : Bool
  /-- Rotation: the image in force and the seals since the last rotation (R362). -/
  rotIndex   : Nat
  rotSeals   : Nat
  deriving DecidableEq, Repr

/-- A power domain (R363, R364): STATE (0 OFF, 1 RAMPING, 2 ON), set point, a droop stretch in
progress. REQ_ON and DROOP_MV stand among the RW words. -/
structure Domain where
  state    : Nat
  setMv    : Nat
  droop    : Bool
  deriving DecidableEq, Repr

/-- A power domain that is off. -/
def Domain.off : Domain := { state := 0, setMv := 0, droop := false }

/-- One trended monitor (R426, R427): hourly values and the normalised running sums, newest first, and the
sum and number of the samples of the present hour. -/
structure Monitor where
  values : List Rat
  norm   : List Rat
  sum    : Rat
  n      : Nat
  deriving DecidableEq, Repr

/-- A monitor that has seen nothing. -/
def Monitor.none : Monitor := { values := [], norm := [], sum := 0, n := 0 }

/-- The health block (chapter 16). -/
structure Health where
  temps      : Tbl Nat
  warnArmed  : Bool
  limitArmed : Bool
  /-- HLT_THERMTRIP may be raised: every sensor has been 3 °C below its threshold since the last (R429). -/
  tripArmed : Bool
  monitors   : Tbl Monitor
  lifeValid  : Bool
  lifeKind   : Nat
  lifeIndex  : Nat
  life       : Nat
  lives      : Tbl Nat
  slopes     : Tbl Rat
  /-- CHECK_REPLAY of each array at the start of the hour (R428). -/
  replayBase : Tbl Nat
  lifeLow    : Bool
  /-- Time in µs that the present hour spent in each mode (R427). -/
  quietUs    : Nat
  sustainUs  : Nat
  sprintUs   : Nat
  deriving DecidableEq, Repr

/-- The event block after BOOT (R417, R421, R422). -/
def EvtBlock.reset : EvtBlock :=
  { queues := .empty, seqs := .empty, lost := .empty, ring := [], portTaken := 0, hostTaken := 0, lostLast := 0, hostWp := 0
    hostWraps := 0, sent := [] }

/-- The control port and the device state on entry to BOOT (R375, R382). The first step has number 1 (log entry 55); the stream limits
are those of R371. -/
def Ctl.reset : Ctl :=
  { state := .boot, maintFrom := .off, holdPending := false, heldCause := 0, bootStep := 0, ramActive := false
    standbyLock := false, debugSeen := false, identity := Identity.none, stepNo := 1, stepDue := 0, sealStep := 0, sealSummary := 0, zeroised := false
    long := [], stored := [], out := [], wire := [], rx := .empty, msgs := [], txSeq := .empty, firstStage := none, stageDigest := [], keyRsa := []
    keySlh := [], keySlot := 0, comps := [], loadBuf := .empty, recovery := [], activate := 0, reactivate := 0, ingGot := 0
    ingLimit := 67108864, ckInGot := 0, ckInLimit := 16777216, ckOutSent := 0, ckOutLimit := 16777216, ledgerAck := 0
    ledgerDue := [], ledgerOut := [] }

/-- The fuses of a part as the model takes them (log entry 70): no fuse of the floor or of TAMPER is blown, one key-set slot is
programmed, and no repair map names a row or column. -/
def Fuses.reset : Fuses :=
  { deviceId := 0, secret := 0, floor := 0, keySlots := [List.replicate 48 0], tamper := false, tamperClears := 0, zeroPending := false
    softMaps := .empty, factoryMaps := .empty, thermtrips := 0, hours := 0 }

/-- The signals as PIN_STATUS resets (R430). -/
def Pins.reset : Pins :=
  { resetN := false, pwrGood := false, presenceN := true, sealClosed := false, alertN := true, thermtripN := true
    presLowSince := none, presHighSince := none, sealSince := 0, presence := false }

/-- The cadence unit after BOOT (R342, R347). -/
def Cad.reset : Cad :=
  { state := .free, active := .none, holdLeft := 64, tickNo := 0, replicas := .empty, tickLen := 1000, runLen := 1000, epochNs := 0, asymNs := 0
    phase := 0, extraUs := 0, omitNext := false, newGrid := false, numNext := none, todNs := 0, offsetNs := 0, slewNs := 0, slewUs := 0, slewSub := 0, gm := 0
    best := none, annUs := 0, sync := none, delayNs := 0, msNs := 0, lastSync := none, ptpOk := false, pulseOk := false, incons := false
    goodSync := 0, goodEdge := 0, badEdge := 0, lastEdge := none }

/-- The Bellows after BOOT: Sustain is in force (R352, chapter 13). -/
def Bellows.reset : Bellows :=
  { modeAct := .sustain, move := .idle, narrow := none, widen := none, stretched := false, lim := 0, draw := 0, throttle := 0
    ballast := 0, hold := false, holdLeft := 0, relaxed := false, thrUs := 0, rails := .empty, energy := 0, ballastE := 0, rows := 0
    msgs := [], brown := false, brownLost := false, wasRunning := false, stopped := false, rotIndex := 0, rotSeals := 0 }

/-- The health block of a part that has seen nothing (R427). -/
def Health.reset : Health :=
  { temps := .empty, warnArmed := true, limitArmed := true, tripArmed := true, monitors := .empty, lifeValid := false, lifeKind := 0, lifeIndex := 0
    life := 0xFFFFFFFF, lives := .empty, slopes := .empty, replayBase := .empty, lifeLow := false, quietUs := 0, sustainUs := 0
    sprintUs := 0 }

end Sys2Proof.Machine
end

