-- ==== Sys2Proof/Machine/BlocksMemory.lean ====
section
/-! DEFINITION. The state of the memory tiers beside the bytes themselves (chapter 10). -/

namespace Sys2Proof.Machine

/-- The trap that an access gives its hart (R284, R286, R402): none, an access fault, or a page fault of the translation. -/
inductive MemTrap where
  | none | access | page
  deriving DecidableEq, Repr

/-- What the last access of a unit got back (R280, R402): the data, whether poison travelled with it, and
the trap that the hart took. The model's own record of the answer. -/
structure MemAnswer where
  data   : List Byte
  poison : Bool
  trap   : MemTrap
  deriving DecidableEq, Repr

/-- No access has been answered. -/
def MemAnswer.none : MemAnswer := { data := [], poison := false, trap := .none }

/-- Refresh, correction and scrub state. Memory dies are keyed: crust die CTnn by nn, DRAM die k of TSs
by 16 + 16 s + k. -/
structure MemTier where
  /-- The band that the die's temperature calls for, and by how many bands the health block has raised the die (R288, R426). -/
  tempBand : Tbl Nat
  raised   : Tbl Nat
  /-- Corrections charged to a die in the present and in the last scrub period, and since BOOT (R287). -/
  ceNow    : Tbl Nat
  ceLast   : Tbl Nat
  ceAll    : Tbl Nat
  /-- A DRAM die has been reported as degraded in the present scrub period (R287). -/
  told     : Tbl Bool
  /-- DEGRADED_DIE of a stack (R287). -/
  degraded : Tbl Nat
  /-- Longest window that a crust die's canary rows hold, ms (R426). -/
  canary   : Tbl Nat
  /-- A scrub pass of a stack (0–15) or crust die (16–31) is in progress. -/
  scrub    : Tbl Bool
  /-- The registers of each hart as its software has set them: hart of core c of edge die e by 16 e + c (R303). -/
  harts    : Tbl Hart
  answer   : MemAnswer
  deriving DecidableEq, Repr

/-- The memory tiers after BOOT. -/
def MemTier.reset : MemTier :=
  { tempBand := .empty, raised := .empty, ceNow := .empty, ceLast := .empty, ceAll := .empty, told := .empty
    degraded := .empty, canary := .empty, scrub := .empty, harts := .empty, answer := MemAnswer.none }

end Sys2Proof.Machine
end

