-- ==== Sys2Proof/Machine/BlocksProofer.lean ====
section
/-! DEFINITION. The state of the Proofers, of the spine notices and of the KV units (chapters 8 and 9). -/

namespace Sys2Proof.Machine

/-- A write that a stream port sends to a Proofer's arrival window (R239, R282): the Proofer, the port as 128 d + p, the package
address, the bytes, and whether it is a marked header write. -/
structure Arrival where
  prf   : Nat
  port  : Nat
  addr  : Nat
  bytes : List Byte
  hdr   : Bool
  deriving DecidableEq, Repr

/-- The notices of R246. -/
inductive NoticeKind where
  | segment | poison | release | abandon | nextComplete | revert
  deriving DecidableEq, Repr

/-- A notice under way (R246): its kind, the Proofer it goes to or, for NEXT_COMPLETE and REVERT, the die; the Proofer
that sent it; two values of content; and how many writes to the same arrival window stand before it on the spine. -/
structure Notice where
  kind   : NoticeKind
  dest_     : Nat
  sender : Nat
  a      : Nat
  b      : Nat
  behind : Nat
  deriving DecidableEq, Repr

/-- The header of a chunk's fold (R240): STEP, COUNT, SRC, CONT_MB, CONT_LEFT and POISON. -/
structure Fold where
  step     : Nat
  count    : Nat
  src      : Nat
  contMb   : Option Nat
  contLeft : Nat
  poison   : Bool
  deriving DecidableEq, Repr

/-- A fold that no step has used. -/
def Fold.none : Fold := { step := 2 ^ 32, count := 0, src := 0, contMb := Option.none, contLeft := 0, poison := false }

/-- No element has arrived at a place of a contribution. -/
abbrev noElem : Nat := 2 ^ 32

/-- A contribution (R239), or a delivery that is being written (R281): table entry, chunk, MB_INDEX, STEP, source, and the codes of the
elements that have arrived, by their place in the window. -/
structure Contribution where
  entry : Nat
  chunk : Nat
  mb    : Nat
  step  : Nat
  src   : Nat
  parts : Tbl Nat
  deriving DecidableEq, Repr

/-- A gradient that is ready to be applied (R243, R247, R257): table entry, chunk, FP32 elements, made non-finite, and a
delivery that was ABSENT from every replica. -/
structure Grad where
  entry  : Nat
  chunk  : Nat
  g      : List Nat
  bad    : Bool
  absent : Bool
  deriving DecidableEq, Repr

/-- A reduced chunk on its way to a Proofer (R243, R335). -/
structure Delivery where
  prf    : Nat
  entry  : Nat
  chunk  : Nat
  g      : List Nat
  absent : Bool
  poison : Bool
  deriving DecidableEq, Repr

/-- What a Proofer has done with a chunk in the present step: handed its sum on, made it non-finite, applied or skipped
it, and written its working copy (R243, R247, R260); the micro-batches whose contributions its fold holds (R200). -/
structure ChunkRun where
  handed : Bool
  bad    : Bool
  done   : Bool
  copied : Bool
  mbs    : List Nat
  deriving DecidableEq, Repr

/-- A chunk at the start of a step. -/
def ChunkRun.none : ChunkRun := { handed := false, bad := false, done := false, copied := false, mbs := [] }

/-- The ledger marks of a tensor in the present step (R242, R247, R263, R269): CONFLICT, COUNT_ERR, ADOPTED, chunks
skipped, the first of them, chunks uncorrectable. -/
structure TensorRun where
  conflict : Bool
  countErr : Bool
  adopted  : Bool
  skipped  : Nat
  first    : Nat
  lost     : List Nat
  deriving DecidableEq, Repr

/-- A tensor at the start of a step. -/
def TensorRun.none : TensorRun :=
  { conflict := false, countErr := false, adopted := false, skipped := 0, first := 0, lost := [] }

/-- A checkpoint stream of the package (R270 to R272): the tensors it covers, its incremental base (none for a full
export), whether it has delayed a seal, whether the run frame has gone, and how many places of the package's list of chunks it has
passed. -/
structure Export where
  lo      : Nat
  hi      : Nat
  base    : Option Nat
  late    : Bool
  begun   : Bool
  next    : Nat
  conduit : Option Nat
  deriving DecidableEq, Repr

/-- A Proofer (R231 to R275). Chunks are keyed 32,768 × table entry + chunk. -/
structure Proofer where
  /-- The update count t. -/
  count   : Nat
  /-- The table that took effect was invalid: idle for the step; table and program faults that stand (R238, R253). -/
  idle    : Bool
  badTab  : Bool
  badProg : List Nat
  /-- The bank pointer of each tensor (R264). -/
  bank    : Tbl Nat
  folds   : Tbl Fold
  /-- Contributions in the park and in sum slots, oldest first. -/
  park    : List Contribution
  /-- Deliveries that are being written into the arrival window (R281). -/
  incoming : List Contribution
  /-- MB_INDEX and STEP from each stream port's last header (R282). -/
  hdrs    : Tbl (Nat × Nat)
  segs    : List (Nat × Nat)
  poisons : List (Nat × Nat)
  released : List Nat
  chunks  : Tbl ChunkRun
  tensors : Tbl TensorRun
  ready   : List Grad
  /-- Deliveries that wait in the park for a sum slot, oldest first (R244). -/
  held    : List Grad
  cached  : List Nat
  /-- The bytes of the arrival that found the park full, 0 for none (R244). -/
  full    : Nat
  fullSeen : Bool
  abandoned : Bool
  notified : List Nat
  /-- Shard digests by table entry, and the step of the ledger's next record (R267, R262). -/
  digests : Tbl Nat
  ring    : Nat
  /-- Last ‖W‖², ‖g‖² and ‖ΔW‖² by table entry (R273), and the step of the record in each ring slot, plus 1 (R398). -/
  norms     : Tbl (Nat × Nat × Nat)
  ringSteps : Tbl Nat
  deriving DecidableEq, Repr

/-- A Proofer after reset. -/
def Proofer.reset : Proofer :=
  { count := 1, idle := false, badTab := false, badProg := [], bank := .empty, folds := .empty, park := [], incoming := [], hdrs := .empty
    segs := [], poisons := [], released := [], chunks := .empty, tensors := .empty, ready := [], held := [], cached := [], full := 0
    fullSeen := false, abandoned := false, notified := [], digests := .empty, ring := 0, norms := .empty, ringSteps := .empty }

/-- Sum slots, and the bytes of the park (R233, R244). -/
abbrev sumSlots : Nat := 192
abbrev parkBytes : Nat := 4194304

/-- Sums that hold a slot until they are applied; a chunk made non-finite without a sum holds none (R244, R247). -/
def Proofer.readySlots (x : Proofer) : Nat := (x.ready.filter fun g => !g.g.isEmpty).length
/-- Contributions that hold a sum slot, the oldest; the others wait in the park, ahead of deliveries (R244; log entry
216). -/
def Proofer.slotted (x : Proofer) : List Contribution := x.park.take (sumSlots - x.readySlots)
def Proofer.parked (x : Proofer) : List Contribution := x.park.drop (sumSlots - x.readySlots)
/-- Bytes held in the park: rows of two bytes an element, and deliveries of four. -/
def Proofer.parkUsed (x : Proofer) : Nat :=
  (x.parked.map fun k => 2 * k.parts.cells.length).sum + (x.held.map fun g => 4 * g.g.length).sum
/-- Every sum slot is taken. -/
def Proofer.slotsFull (x : Proofer) : Bool := decide (sumSlots ≤ x.park.length + x.readySlots)
/-- No slot is free, and the park has no room for `n` bytes more. -/
def Proofer.noRoom (x : Proofer) (n : Nat) : Bool :=
  x.slotsFull && decide (parkBytes < x.parkUsed + n)
/-- Credit is withheld (R244): what came last found no room, and has none yet. -/
def Proofer.withholds (x : Proofer) : Bool := decide (x.full ≠ 0) && x.noRoom x.full
/-- SLOTS: sum slots in use. -/
def Proofer.slots (x : Proofer) : Nat := min sumSlots (x.park.length + x.readySlots)

/-- The state that the eight Proofers share: notices and writes on the spine, reduced chunks on their way, the seal
exchange, divergence recovery in progress, and the checkpoint streams. -/
structure Spine where
  arrivals   : List Arrival
  notices    : List Notice
  deliveries : List Delivery
  sealIn     : List SealMsg
  /-- The package has sent its own summary and commit flag for the present seal. -/
  sealSent   : Option SealMsg
  /-- The dies that were not ready at the budget tick of the step; the seal falls on the present tick (R202). -/
  late       : Option Nat
  sealDue    : Bool
  /-- Seal processing is under way; the reference has been compared; the outcome that waits for REVERT to be taken: the code of the
  cause of HELD, or 0x10000 to go on (R268). -/
  sealing    : Bool
  compared   : Bool
  decided    : Option Nat
  /-- Shards that await adoption: (Proofer, table entry). -/
  adopting   : List (Nat × Nat)
  exporting  : Option Export
  /-- An import runs, with the run frame it met, the frames that failed and have not come again, the update count of the last frame,
  its conduit, and what has come over that conduit and has not been taken as a frame (R270). -/
  importing  : Bool
  runFrame   : Option (List Byte)
  impFailed  : List (Nat × Nat)
  impUpd     : Option Nat
  impConduit : Option Nat
  impBytes   : List Byte
  /-- Frames of the running export that have been sent, oldest first. -/
  frames     : List (List Byte)
  deriving DecidableEq, Repr

/-- The spine after reset. -/
def Spine.reset : Spine :=
  { arrivals := [], notices := [], deliveries := [], sealIn := [], sealSent := none, late := none
    sealDue := false, sealing := false, compared := false, decided := none, adopting := []
    exporting := none, importing := false, runFrame := none, impFailed := [], impUpd := none, impConduit := none, impBytes := [], frames := [] }

/-- A command that waits in a KV unit (R220): from the registers (0) or from port p (p + 1), and its four words. -/
structure KvCmd where
  src   : Nat
  words : List Nat
  deriving DecidableEq, Repr

/-- A directory entry (R219). -/
structure KvSeq where
  isOpen  : Bool
  streams : Nat
  jmax    : Nat
  len     : Nat
  base    : Nat
  deriving DecidableEq, Repr

/-- A sequence that is not open. -/
def KvSeq.closed : KvSeq := { isOpen := false, streams := 0, jmax := 0, len := 0, base := 0 }

/-- A reader (R224): its port, the epoch it opened in, and whether its run has ended. -/
structure KvReader where
  port  : Nat
  epoch : Nat
  ended : Bool
  deriving DecidableEq, Repr

/-- The KV unit of a die (R218 to R228). Page state is REF + 2^16 STATE + 2^18 TAG. The free list is the pages from
`fresh` up that were never taken, in ascending order, followed by `freed`. -/
structure KvDie where
  pages   : Tbl Nat
  fresh   : Nat
  freed   : List Nat
  retire  : List Nat
  epoch   : Nat
  readers : List KvReader
  seqs    : Tbl KvSeq
  cmds    : List KvCmd
  words   : Tbl Nat
  resp    : Nat
  deriving DecidableEq, Repr

/-- A KV unit after reset. -/
def KvDie.reset : KvDie :=
  { pages := .empty, fresh := 0, freed := [], retire := [], epoch := 0, readers := [], seqs := .empty, cmds := []
    words := .empty, resp := 0 }

end Sys2Proof.Machine
end

