-- ==== Sys2Proof/Machine/State.lean ====
section
/-! DEFINITION. The state of the package, its reset value and the reasons a step can stop. -/

namespace Sys2Proof.Machine

/-- A mailbox (R414). -/
structure Mailbox where
  item    : Nat
  valid   : Bool
  noItem  : Bool
  snapNo  : Nat
  data    : List Nat
  /-- A snapshot has been started and not yet taken. -/
  pending : Bool
  deriving DecidableEq, Repr

/-- The mailbox after BOOT (R409). -/
def Mailbox.reset : Mailbox :=
  { item := 0, valid := false, noItem := false, snapNo := 0, data := [], pending := false }

/-- The package. -/
structure State where
  /-- The commands that wait, first in, first out: the model's own queue. -/
  pending : List Instr
  ctl     : Ctl
  fuse    : Fuses
  pins    : Pins
  evt     : EvtBlock
  cad     : Cad
  bel     : Bellows
  dom     : Tbl Domain
  hlt     : Health
  /-- RW register words by register address; an unlisted word holds its reset value (R407). -/
  rw      : Tbl Word
  /-- Active values of SH words, and the shadow values written since the last effect point (R412). -/
  shAct   : Tbl Word
  shNew   : Tbl (Option Word)
  /-- Counters by register address, counted without wrap; a register shows the low 32 bits. -/
  cnt     : Tbl Nat
  mbx     : Tbl Mailbox
  /-- Bytes of the package address map (R278), and the poison marks of its granules (R286). -/
  mem     : Tbl Byte
  poison  : Tbl Bool
  mt      : MemTier
  leaven  : LeavenTbl
  /-- Engines by 36 d + e. -/
  eng     : Tbl Engine
  /-- Configuration images: byte `off` of set `k` of die `d` at (2 d + k) × 2^25 + off (R155, R165). -/
  img     : Tbl Byte
  /-- Fabrics and Chanters by die. -/
  fab     : Tbl FabDie
  ch      : Tbl ChDie
  /-- The Proofers and what they share; KV units by die. -/
  prf     : Tbl Proofer
  spine   : Spine
  kv      : Tbl KvDie
  /-- Sub-ports by port code, ports by number, and the collectives engines. -/
  subs    : Tbl SubPort
  ports   : Tbl LinkPort
  col     : Coll
  ing     : Ingest
  /-- The model's clock: µs since the package first started, and µs since the last tick edge. -/
  nowUs   : Nat
  inTick  : Nat
  /-- The next free value (log entry 2): the model's own field, not the spec's. -/
  freeCtr : Nat
  deriving DecidableEq, Repr

/-- The package right after reset: DEV_STATE reads BOOT and the boot sequence has not begun (R375, R382, R409, R438). Memory
lists nothing (log entry 9). -/
def State.reset : State :=
  { pending := [], ctl := Ctl.reset, fuse := Fuses.reset, pins := Pins.reset, evt := EvtBlock.reset, cad := Cad.reset
    bel := Bellows.reset, dom := .empty, hlt := Health.reset, rw := .empty, shAct := .empty, shNew := .empty, cnt := .empty
    mbx := .empty, mem := .empty, poison := .empty, mt := MemTier.reset, leaven := LeavenTbl.reset, eng := .empty, img := .empty
    fab := .empty, ch := .empty, prf := .empty, spine := Spine.reset, kv := .empty, subs := .empty, ports := .empty
    col := Coll.reset, ing := Ingest.reset, nowUs := 0, inTick := 0, freeCtr := 0 }

/-- The faults of a step. A command that the package itself reports as a fault or refuses is a next
state; no command of this model stops a step, so the type has no constructor in use beyond `stopped`,
which is raised by nobody (safe). -/
inductive Fault where
  /-- Raised by no command. Safe: a run never ends in it. -/
  | stopped
  deriving DecidableEq, Repr

/-- The refusals of a step. -/
inductive Refusal where
  /-- A command whose meaning has not been written: answered by the arms of Dispatch.lean only. Safe. -/
  | notModelled (mnemonic : String)
  deriving DecidableEq, Repr

end Sys2Proof.Machine
end

