-- ==== Sys2Proof/Machine/Ops.lean ====
section
/-! DEFINITION. The named operations that every family uses: registers, counters, free values, time
stamps, events, changes of device state. -/

namespace Sys2Proof.Machine

/-- The RW word at a register address. -/
def State.rwAt (s : State) (a : Nat) : Word := s.rw.get (regReset a) a

/-- Write the RW word at a register address. -/
def State.setRw (s : State) (a : Nat) (w : Word) : State := { s with rw := s.rw.set (regReset a) a w }

/-- The active value of the SH word at a register address (R412). -/
def State.shAt (s : State) (a : Nat) : Word := s.shAct.get (regReset a) a

/-- The shadow value of the SH word at a register address: the value written since the last effect
point, else the active value (R412). -/
def State.shadowAt (s : State) (a : Nat) : Word := (s.shNew.get none a).getD (s.shAt a)

/-- Write the shadow value of the SH word at a register address (R412). -/
def State.setShadow (s : State) (a : Nat) (w : Word) : State :=
  { s with shNew := s.shNew.set none a (some w) }

/-- Every SH word whose address satisfies `p` takes its shadow value (R412). -/
def State.applyShadow (s : State) (p : Nat → Bool) : State :=
  { s with
    shAct := s.shNew.cells.foldl
      (fun t c => if p c.1 then (match c.2 with | some w => t.set (regReset c.1) c.1 w | none => t) else t) s.shAct
    shNew := s.shNew.drop p }

/-- Every SH word of a page takes its shadow value (R412). -/
def State.applyPage (s : State) (page : Nat) : State := s.applyShadow fun a => a / 65536 = page

/-- Add to a counter. -/
def State.count (s : State) (a n : Nat) : State := { s with cnt := s.cnt.upd 0 a (· + n) }

/-- Something waits, and a counter of waiting time goes up by a time that the model does not follow: the count holds the number of such waits
(log entry 67). -/
def State.waited (s : State) (a : Nat) : State := s.count a 1

/-- The value of a counter. -/
def State.cntAt (s : State) (a : Nat) : Nat := s.cnt.get 0 a

/-- The next free value of `w` bits (log entry 2). -/
def State.fresh (s : State) (w : Nat) : BitVec w := Config.free w s.freeCtr

/-- A free choice among `n` possibilities (log entry 2). -/
def State.choose (s : State) (n : Nat) : Nat := if n = 0 then 0 else Config.freeNat s.freeCtr % n

/-- The state after a free value has been taken. -/
def State.used (s : State) (n : Nat := 1) : State := { s with freeCtr := s.freeCtr + n }

/-- In a brown-out the clocks of every domain stop but those of the always-on domains: the engines, the fabric, the KV units, the Proofers, the
memories' scrub, the links, the collectives engine and the host cores stand still, and what would be an act of theirs changes nothing
(R360; log entry 126). -/
def State.still (s : State) : Bool := s.bel.stopped

/-- The sub-tick: 1/1,024 of a tick from the local tick edge (R344). -/
def State.subTick (s : State) : Nat := min 1023 (s.inTick * 1024 / max 1 s.cad.runLen)

/-- The 48-bit timestamp of R344. -/
def State.stamp (s : State) : Nat := (s.cad.tickNo % 2 ^ 38) * 1024 + s.subTick

/-- A 16-byte payload from fields (first byte, byte count, value). -/
def payload (fs : List (Nat × Nat × Nat)) : List Byte := record 16 fs

/-- The most records a source holds that have not been admitted (R420). -/
abbrev queueDepth : Nat := 16

/-- A masked code is not raised (R419). -/
def State.masked (s : State) (page code : Nat) : Bool :=
  !Code.isFault code &&
    (match Code.maskBit page code with
     | some b => (s.rwAt (regAddr page 0x18)).getLsbD b
     | none => false)

/-- The event block after page `page` raised a record (R416, R417, R420). -/
def EvtBlock.push (e : EvtBlock) (page code time : Nat) (pl : List Byte) : EvtBlock :=
  let seq := (e.seqs.get 0 page + 1) % 2 ^ 32
  let q := e.queues.get [] page
  let full := decide (queueDepth ≤ q.length)
  let r : EvRec :=
    { source := page, code := code, seq := seq, time := time, lostBefore := e.lost.get false page
      fault := Code.isFault code, payload := pl }
  { e with
    seqs := e.seqs.set 0 page seq
    queues := if full then e.queues else e.queues.set [] page (q ++ [r])
    lost := e.lost.set false page full
    lostLast := if full then page else e.lostLast }

/-- Page `page` raises `code` with a payload: masked events count in MASKED, records that find the
source's queue full count in LOST (R416 to R420). -/
def State.raise (s : State) (page code : Nat) (pl : List Byte) : State :=
  let m := s.masked page code
  let full := decide (queueDepth ≤ (s.evt.queues.get [] page).length)
  { s with
    evt := if m then s.evt else s.evt.push page code s.stamp pl
    cnt := if m then s.cnt.upd 0 (regAddr Page.event 0x48) (· + 1)
           else if full then s.cnt.upd 0 (regAddr Page.event 0x44) (· + 1)
           else s.cnt }

/-- The payload of a control or security record (R400). -/
def ctlPayload (opcode tag old new mask n last : Nat) : List Byte :=
  payload [(0, 2, opcode), (2, 4, tag), (6, 1, old), (7, 1, new), (8, 2, mask), (10, 4, n), (14, 2, last)]

/-- Enter a device state and raise CTL_STATE_CHANGE with the code of the cause (R376). -/
def State.enter (s : State) (st : DevState) (cause : Nat) (opcode : Nat := 0xFFFF) (tag : Nat := 0) : State :=
  let s1 := { s with ctl := { s.ctl with state := st, heldCause := if st = DevState.held then cause else s.ctl.heldCause } }
  s1.raise Page.global Code.ctlStateChange (ctlPayload opcode tag s.ctl.state.code st.code cause 0 0)

/-- A register of a Proofer's page. -/
def prfReg (p off : Nat) : Nat := regAddr (Page.prf p) off
/-- A counter of a Proofer's page (R273). -/
def State.prfCount (s : State) (p off n : Nat) : State := s.count (prfReg p off) n

/-- COMMIT, REPLICA and DET of a Proofer; REPLICAS, REPLICA_ID and REF_ID. -/
def State.sealedCommit (s : State) (p : Nat) : Bool := (s.shAt (prfReg p 0x104)).getLsbD 0
/-- The package runs under sealed commit (R263, R379). -/
def State.isSealed (s : State) : Bool := [0, 1, 2, 3, 4, 5, 6, 7].all s.sealedCommit
def State.ownerMode (s : State) (p : Nat) : Bool := (s.shAt (prfReg p 0x104)).getLsbD 1
def State.relaxed (s : State) (p : Nat) : Bool := (s.shAt (prfReg p 0x104)).getLsbD 2
def State.replicas (s : State) (p : Nat) : Nat := fld (s.shAt (prfReg p 0x108)) 11 0
def State.replicaId (s : State) (p : Nat) : Nat := fld (s.shAt (prfReg p 0x108)) 23 12
def State.refId (s : State) (p : Nat) : Nat := fld (s.shAt (prfReg p 0x10C)) 11 0

/-- The payload of a segment holds at most this many bytes, and a message this many segments (R368). -/
abbrev segMaxLen : Nat := 8960
abbrev segMax : Nat := 64

/-- A message leaves on a channel, cut into consecutive segments, under the channel's next sequence number; on a stream channel each segment
names the offset of its payload (R368). -/
def Ctl.sendMessage (c : Ctl) (ch tag off : Nat) (bs : List Byte) : Ctl :=
  let n := max 1 (ceilDiv bs.length segMaxLen)
  let seq := c.txSeq.get 0 ch
  let seg := fun (i : Nat) =>
    let p := (bs.drop (segMaxLen * i)).take segMaxLen
    let at_ := if ch = 3 ∨ ch = 4 then off + segMaxLen * i else 0
    TxSegment.mk [ch + 16 + 2 ^ 8 * i + 2 ^ 14 * b2n (i + 1 = n) + 2 ^ 16 * p.length, seq, tag, at_ % 2 ^ 32, at_ / 2 ^ 32 % 2 ^ 32, 0] p
  { c with txSeq := c.txSeq.set 0 ch ((seq + 1) % 2 ^ 32), wire := c.wire ++ (List.range n).map seg }

/-- Bytes leave as as many messages as they need (R368). -/
def Ctl.sendBytes (c : Ctl) (ch off : Nat) (bs : List Byte) : Ctl :=
  let m := segMaxLen * segMax
  (List.range (max 1 (ceilDiv bs.length m))).foldl (fun d i => d.sendMessage ch 0 (off + m * i) ((bs.drop (m * i)).take m)) c

/-- The payload of a response (R381), and of a stream-control message (R372). -/
def Resp.payload (r : Resp) : List Byte := leBytes 2 r.opcode ++ leBytes 2 r.status ++ leBytes 4 r.cause ++ r.data
def streamControl (opcode ch off : Nat) : List Byte := record 16 [(0, 2, opcode), (2, 2, ch), (4, 8, off)]

/-- A response, a stream-control message or stream bytes leave on their channel (R369, R371, R372, R381). -/
def Ctl.put (c : Ctl) (m : OutMsg) : Ctl :=
  let d := { c with out := c.out ++ [m] }
  match m with
  | .resp r => d.sendMessage 1 r.tag 0 r.payload
  | .credit ch n => d.sendMessage 1 0 0 (streamControl 0xF001 ch n)
  | .nak ch n => d.sendMessage 1 0 0 (streamControl 0xF002 ch n)
  | .stream ch off bs => d.sendBytes ch off bs

end Sys2Proof.Machine
end

