-- ==== Sys2Proof/Machine/Cadence.lean ====
section
/-! DEFINITION. The cadence unit: ticks, PTP, the pulse, holdover and relock (R342 to R350). -/

namespace Sys2Proof.Machine

/-- The payload of a cadence or power record (R365). -/
def cadPayload (s : State) (cause where_ value last : Nat) : List Byte :=
  payload [(0, 1, cause), (1, 1, s.bel.modeAct.code), (2, 2, where_), (4, 4, value),
           (8, 4, s.ctl.stepNo), (12, 4, last)]

/-- SRC, the selected references (R347). -/
def State.src (s : State) : Nat := fld (s.rwAt (regAddr Page.cadence 0x100)) 1 0

/-- SYNC_TIMEOUT in µs and PULSE_WIN in ns. -/
def State.syncTimeoutUs (s : State) : Nat := fld (s.rwAt (regAddr Page.cadence 0x120)) 15 0 * 1000
def State.pulseWin (s : State) : Nat := fld (s.rwAt (regAddr Page.cadence 0x120)) 31 16

/-- SRC selects the pulse. -/
def selPulse (src : Nat) : Bool := src = 0 || src = 2
/-- SRC selects PTP. -/
def selPtp (src : Nat) : Bool := src = 0 || src = 1

/-- The reference that sets the tick edges when the unit is locked (R346, R347): the pulse where it is
selected, present and consistent, else PTP where it is selected and present, else the oscillator under
SRC = 3, else none. -/
def Cad.best? (c : Cad) (src : Nat) : CadRef :=
  if src = 3 then .osc
  else if selPulse src && c.pulseOk then .pulse
  else if selPtp src && c.ptpOk then .ptp
  else .none

/-- Raise CAD_REF_CHANGE with a cause and the offset, and count it (R346, R349). -/
def State.refChange (s : State) (cause : Nat) (offNs : Int) : State :=
  (s.count (regAddr Page.cadence 0x5C) 1).raise Page.cadence Code.cadRefChange
    (cadPayload s cause 0xFFFF 0 (ofSigned 32 offNs))

/-- A LOCKED unit keeps lock on the references that are left, or enters HOLDOVER (R347). -/
def State.keepLock (s : State) : State :=
  let next := s.cad.best? s.src
  if s.cad.state ≠ .locked then s
  else if next = .none then
    State.count { s with cad := { s.cad with state := .holdover, active := .osc, holdLeft := 64, goodSync := 0, goodEdge := 0 } }
      (regAddr Page.cadence 0x48) 1
  else { s with cad := { s.cad with active := next } }

/-- A selected reference is lost: with none left the unit enters HOLDOVER and raises CAD_HOLDOVER; the loss of one of two raises
CAD_REF_CHANGE with `cause` (R347). -/
def State.cadLoss (s : State) (cause : Nat) : State :=
  let next := s.cad.best? s.src
  if s.cad.state ≠ .locked then s
  else if next = .none then s.keepLock.raise Page.cadence Code.cadHoldover (cadPayload s 0 0xFFFF 0 0)
  else if next = s.cad.active && s.src ≠ 0 then s
  else s.keepLock.refChange cause s.cad.offsetNs

/-- The first valid input of a selected reference takes the unit from FREE to ACQUIRING (R347). -/
def Cad.firstInput (c : Cad) : Cad :=
  if c.state = .free then { c with state := .acquiring, goodSync := 0, goodEdge := 0 } else c

/-- The interval from the last tick edge to the next, in µs (R342, R349, R350). -/
def Cad.interval (c : Cad) : Nat := ((c.runLen + c.extraUs : Nat) + c.slewUs).toNat

/-- The slew that one tick removes, ns: at most TICK_LEN ÷ 1,000 (R349). A unit that is ahead lengthens its ticks. -/
def Cad.slewStep (c : Cad) : Int :=
  let lim : Int := c.tickLen
  if c.slewNs > lim then lim else if c.slewNs < -lim then -lim else c.slewNs

/-- Boundary `n` of the new grid that lies at least TICK_LEN after the edge at time-of-day `tod` ns, and
how long after that edge it falls, in µs (R342). -/
def Cad.gridNext (c : Cad) (tod : Int) : Int × Int :=
  let len : Int := c.tickLen * 1000
  let ph : Int := c.phase * 1000
  let n := -((-(tod + len - ph - c.epochNs)) / len)
  (n, (c.epochNs + n * len + ph - tod) / 1000)

/-- The cadence unit at a tick edge at model time `nowUs` (R342, R344, R349, R350): the counter takes the
next number, or skips one, or takes the first number of a new grid; a new grid fixes its first boundary. -/
def Cad.tick (c : Cad) (src load nowUs : Nat) : Cad :=
  let no := match c.numNext with
    | some n => n % 2 ^ 48
    | none => (c.tickNo + (if c.omitNext then 2 else 1)) % 2 ^ 48
  let tod : Int := nowUs * 1000 + c.todNs
  let g := c.gridNext tod
  { c with
    tickNo := no
    omitNext := false
    numNext := if c.newGrid then some (if src = 2 then load else ofSigned 48 g.1) else none
    extraUs := if c.newGrid then (g.2 - c.tickLen).toNat else 0
    newGrid := false
    holdLeft := if c.state = .holdover then c.holdLeft - 1 else c.holdLeft
    runLen := c.tickLen
    slewNs := c.slewNs - c.slewStep
    slewUs := (c.slewSub + c.slewStep) / 1000
    slewSub := (c.slewSub + c.slewStep) % 1000
    replicas := (List.range 13).foldl (fun t k => t.set 0 k no) c.replicas }

/-- PTP_DOMAIN (R345). -/
def State.ptpDomain (s : State) : Nat := fld (s.rwAt (regAddr Page.cadence 0x100)) 8 2

/-- How long a master may be silent, µs: three of its announce intervals (R345; log entry 193). -/
def announceUs (m : AnnounceMsg) : Nat :=
  if 0 ≤ m.logInterval then 3000000 * 2 ^ m.logInterval.toNat else 3000000 / 2 ^ (-m.logInterval).toNat

/-- The best master of the selected domain, unless its Announce messages have ceased (R345; log entry 193). -/
def State.master (s : State) : Option AnnounceMsg :=
  s.cad.best.filter fun m => decide (m.domain.toNat = s.ptpDomain ∧ s.nowUs ≤ s.cad.annUs + announceUs m)

/-- A message comes from the best master. -/
def State.fromMaster (s : State) (sender : Nat) : Bool := (s.master.map fun m => m.sender.toNat) = some sender

/-- SYNC (R345): a Sync of the selected domain from the best master is timestamped, in units of 0.5 ns; a one-step Sync is
discarded and counted. -/
def execSync (domain sender seq : Nat) (twoStep : Bool) (rxHalf : Int) (s : State) :
    Host.Outcome State Fault Refusal :=
  if domain ≠ s.ptpDomain then .next s
  else if !twoStep then .next (s.count (regAddr Page.cadence 0x54) 1)
  else
    let s1 := s.count (regAddr Page.cadence 0x50) 1
    if s.fromMaster sender then
      .next { s1 with cad := { s.cad with sync := some ⟨sender, seq, rxHalf⟩, lastSync := some s.nowUs } }
    else .next s1

/-- FOLLOW_UP (R345, R347): completes the two-step Sync with the same sequence number. The offset is the
master-to-slave difference less the mean path delay and DELAY_ASYM; the first one leaves FREE, and
consecutive offsets within ±1 µs count towards acquisition. Where PTP returns, the edges before are no comparison with its prediction
(R346). -/
def execFollowUp (domain sender seq : Nat) (originNs corrNs : Int) (s : State) :
    Host.Outcome State Fault Refusal :=
  match s.cad.sync with
  | none => .next s
  | some y =>
    if domain ≠ s.ptpDomain || y.sender ≠ sender || y.seq ≠ seq then .next s
    else
      let ms := (y.rxHalf - 2 * (originNs + corrNs)) / 2
      let off := ms - s.cad.delayNs - s.cad.asymNs
      let c := if selPtp s.src then s.cad.firstInput else s.cad
      let good := decide (-1000 ≤ off ∧ off ≤ 1000)
      .next { s with cad := { c with
        sync := none, msNs := ms, offsetNs := off, ptpOk := true, todNs := c.todNs - off
        goodEdge := if c.ptpOk || !c.incons then c.goodEdge else 0
        goodSync := if good then c.goodSync + 1 else 0 } }

/-- The order of the best master clock algorithm (R345; log entry 193): data sets of two grandmasters are compared field by field, those
of one grandmaster by the path only, and the lower value is the better. -/
def annKey (m : AnnounceMsg) : List Nat :=
  [m.priority1.toNat, m.clockClass.toNat, m.accuracy.toNat, m.variance.toNat, m.priority2.toNat,
   m.gmIdentity.toNat, m.stepsRemoved.toNat, m.sender.toNat]

/-- The first data set is better than the second. -/
def annBetter (a b : AnnounceMsg) : Bool :=
  if a.gmIdentity = b.gmIdentity then lexLt ((annKey a).drop 6) ((annKey b).drop 6) else lexLt (annKey a) (annKey b)
where
  lexLt : List Nat → List Nat → Bool
    | x :: xs, y :: ys => x < y || (x = y && lexLt xs ys)
    | _, _ => false

/-- ANNOUNCE (R345): an Announce of the selected domain feeds the slave-only best master clock algorithm; a
better master, or news of the present one, takes its place. -/
def execAnnounce (m : AnnounceMsg) (s : State) : Host.Outcome State Fault Refusal :=
  if m.domain.toNat ≠ s.ptpDomain then .next s
  else
    let take := match s.master with
      | none => true
      | some b => b.sender = m.sender || annBetter m b
    if take then .next { s with cad := { s.cad with best := some m, annUs := s.nowUs, gm := m.gmIdentity.toNat } } else .next s

/-- DELAY_RESP (R345): the reception time that the master answers completes an end-to-end measurement; the
mean path delay is half the sum of both differences. -/
def execDelayResp (domain sender : Nat) (reqHalf rxNs : Int) (s : State) : Host.Outcome State Fault Refusal :=
  if domain ≠ s.ptpDomain || !s.fromMaster sender then .next s
  else .next { s with cad := { s.cad with delayNs := (2 * (s.cad.msNs + rxNs) - reqHalf) / 4 } }

/-- SYNC_TIMEOUT (R347): no valid Sync for SYNC_TIMEOUT, and PTP counts as lost. -/
def execSyncTimeout (s : State) : Host.Outcome State Fault Refusal :=
  match s.cad.lastSync with
  | none => .next s
  | some t =>
    if s.cad.ptpOk && decide (t + s.syncTimeoutUs ≤ s.nowUs) then
      .next (State.cadLoss { s with cad := { s.cad with ptpOk := false, goodSync := 0 } } 1)
    else .next s

/-- The prediction window applies to an edge (R346, R349): under SRC = 0 while PTP is present, and in
HOLDOVER where the pulse alone can relock the unit. -/
def State.edgeWindowed (s : State) : Bool :=
  (s.src = 0 && s.cad.ptpOk) || (s.cad.state = .holdover && selPulse s.src && !(s.src = 0 && s.cad.ptpOk))

/-- CADENCE_EDGE (R346, R347, R349): a rising edge `offHalf` times 0.5 ns from the boundary predicted for it. Outside the
window it is rejected and counted; inside it counts towards acquisition, consistency or relock. -/
def execCadenceEdge (offHalf : Int) (s : State) : Host.Outcome State Fault Refusal :=
  let seen := { s.cad with lastEdge := some s.nowUs }
  if !selPulse s.src then .next { s with cad := seen }
  else
    let dev := offHalf.natAbs
    if s.edgeWindowed && decide (2 * s.pulseWin < dev) then
      let bad := if s.src = 0 && s.cad.ptpOk then seen.badEdge + 1 else seen.badEdge
      .next (({ s with cad := { seen with badEdge := bad, goodEdge := 0 } }).count (regAddr Page.cadence 0x4C) 1)
    else
      let c := seen.firstInput
      let near := if s.cad.state = .holdover && !(s.src = 0 && s.cad.ptpOk) then true else decide (dev ≤ 200)
      let c1 : Cad := { c with
        badEdge := 0
        pulseOk := if c.incons || decide (s.cad.state = CadState.holdover) then c.pulseOk else true
        goodEdge := if near then c.goodEdge + 1 else 0 }
      .next { s with cad := { c1 with active := if s.cad.state = .locked then c1.best? s.src else c1.active } }

/-- PULSE_INCONSISTENT (R346): after four consecutive rejected edges under SRC = 0, PTP becomes the active
reference, where it is present; else the last reference is lost. -/
def execPulseInconsistent (s : State) : Host.Outcome State Fault Refusal :=
  if s.src = 0 && !s.cad.incons && decide (4 ≤ s.cad.badEdge) then
    let s1 := { s with cad := { s.cad with incons := true, pulseOk := false, goodEdge := 0 } }
    if s1.cad.best? s.src = .ptp then
      .next (State.refChange { s1 with cad := { s1.cad with active := .ptp } } 2 s.cad.offsetNs)
    else .next (s1.cadLoss 2)
  else .next s

/-- PULSE_CONSISTENT (R346): after 16 consecutive edges within ±100 ns of the prediction of PTP, which must be present, the pulse is active
again. -/
def execPulseConsistent (s : State) : Host.Outcome State Fault Refusal :=
  if s.cad.incons && s.cad.ptpOk && decide (16 ≤ s.cad.goodEdge) then
    let s1 := { s with cad := { s.cad with incons := false, pulseOk := true, badEdge := 0 } }
    .next (State.refChange { s1 with cad := { s1.cad with active := s1.cad.best? s.src } } 4 s.cad.offsetNs)
  else .next s

/-- PULSE_LOSS (R347): two consecutive tick intervals pass with no edge at all. -/
def execPulseLoss (s : State) : Host.Outcome State Fault Refusal :=
  match s.cad.lastEdge with
  | none => .next s
  | some t =>
    if s.cad.pulseOk && decide (t + 2 * s.cad.tickLen ≤ s.nowUs) then
      .next (State.cadLoss { s with cad := { s.cad with pulseOk := false, goodEdge := 0 } } 1)
    else .next s

/-- RELOCK (R349): a reference that returns in HOLDOVER with the counter's tick number relocks the unit; the
accumulated offset is left to the slew. A pulse relocks after 16 consecutive edges in its window, under
SRC = 2 or while PTP is still lost under SRC = 0. -/
def execRelock (ref : Reference) (named : Nat) (offNs : Int) (s : State) : Host.Outcome State Fault Refusal :=
  let fit := match ref with
    | .ptp => selPtp s.src && s.cad.ptpOk && decide (named = s.cad.tickNo)
    | .pulse => selPulse s.src && !(s.src = 0 && s.cad.ptpOk) && decide (16 ≤ s.cad.goodEdge)
  if s.cad.state = .holdover && fit then
    let c := { s.cad with
      state := .locked, slewNs := offNs, holdLeft := 64
      active := (match ref with | .ptp => CadRef.ptp | .pulse => CadRef.pulse)
      pulseOk := s.cad.pulseOk || decide (ref = .pulse) }
    .next (State.refChange { s with cad := c } 3 offNs)
  else .next s

/-- CAD_LOST (R347 to R349): 64 holdover ticks have passed (cause 1), or a returning PTP names another tick
number (cause 2); the unit enters LOST and the package is held at its next seal. -/
def execCadLost (named : Option Nat) (s : State) : Host.Outcome State Fault Refusal :=
  let cause := match named with
    | some n => if selPtp s.src && s.cad.ptpOk && decide (n ≠ s.cad.tickNo) then 2 else 0
    | none => if s.cad.holdLeft = 0 then 1 else 0
  if s.cad.state = .holdover && decide (cause ≠ 0) then
    .next (State.raise { s with cad := { s.cad with state := .lost } } Page.cadence Code.cadLost
      (cadPayload s cause 0xFFFF 0 (ofSigned 32 s.cad.offsetNs)))
  else .next s

end Sys2Proof.Machine
end

