-- ==== Sys2Proof/Machine/Control.lean ====
section
/-! DEFINITION. How a command is admitted and answered (R370, R377 to R381, R389), presence and the seal
loop (R388 to R391). -/

namespace Sys2Proof.Machine

/-- How a command stands in a state (R379): not legal, legal, legal only under presence, legal only under
sealed commit. -/
inductive Legal where
  | no | yes | presence | sealed
  deriving DecidableEq, Repr

/-- The legality table of R379: opcode and its marks in BOOT, STAGED, READY, RUNNING, HELD, SAFE, MAINT. -/
def legalTable : List (Nat × List Legal) :=
  let n := Legal.no; let y := Legal.yes; let p := Legal.presence; let s := Legal.sealed
  [(0x0001, [y, y, y, y, y, y, y]), (0x0002, [y, y, y, y, y, y, y]), (0x0003, [n, y, y, y, y, n, y]),
   (0x0010, [y, n, n, n, n, n, n]), (0x0011, [y, n, n, n, n, n, n]), (0x0012, [n, y, y, y, y, n, n]),
   (0x0013, [n, y, y, n, y, n, n]), (0x0014, [n, n, n, y, n, n, n]), (0x0015, [n, y, n, n, n, n, n]),
   (0x0016, [n, y, y, n, y, n, y]), (0x0020, [n, n, y, n, n, n, n]), (0x0021, [n, n, n, y, n, n, n]),
   (0x0022, [n, n, n, n, y, n, n]), (0x0023, [n, n, n, n, y, n, n]), (0x0030, [n, n, n, n, y, n, y]),
   (0x0031, [n, n, n, n, y, n, y]), (0x0032, [n, n, n, n, y, n, y]), (0x0033, [n, n, n, n, y, n, n]),
   (0x0040, [n, n, y, s, y, n, n]), (0x0041, [n, n, y, n, y, n, n]), (0x0042, [n, n, y, y, y, n, n]),
   (0x0043, [n, n, y, y, y, n, y]), (0x0050, [n, y, y, y, y, n, y]), (0x0060, [n, n, p, n, p, n, n]),
   (0x0061, [n, n, y, n, y, n, n]), (0x0070, [n, p, n, n, p, n, n]), (0x0071, [n, n, n, n, n, n, y]),
   (0x0072, [n, n, n, n, n, n, p]), (0x0073, [n, n, n, n, n, n, p]), (0x0074, [n, n, n, n, n, n, p]),
   (0x0075, [n, n, n, n, n, n, p]), (0x0076, [n, y, y, n, y, n, y]), (0x0080, [n, y, y, y, y, y, y]),
   (0x0090, [n, n, n, n, n, y, n])]

/-- An opcode of the table; every other one is reserved (R379). -/
def knownOpcode (op : Nat) : Bool := legalTable.any fun r => r.1 = op

/-- The mark of an opcode in a state (R379). -/
def legalIn (op : Nat) (st : DevState) : Legal :=
  match legalTable.find? fun r => r.1 = op with
  | some r => if st.code = 0 then .no else r.2.getD (st.code - 1) .no
  | none => .no

/-- The mask of states in which an opcode is legal, bit i for state code i (R400). -/
def legalMask (op : Nat) : Nat :=
  match legalTable.find? fun r => r.1 = op with
  | some r => ((List.range 7).map fun i => if r.2.getD i .no = .no then 0 else 2 ^ (i + 1)).sum
  | none => 0

/-- The statuses of R381. -/
abbrev stOk : Nat := 0x0000
abbrev stStarted : Nat := 0x0001
abbrev stRefused : Nat := 0x0801
abbrev stSigFail : Nat := 0x0802
abbrev stPresence : Nat := 0x0803
abbrev stInvalid : Nat := 0x0804

/-- How many responses are stored (R370). -/
abbrev storeDepth : Nat := 64

/-- Send a response and store it (R370, R381). -/
def State.answer (s : State) (h : Hdr) (op status cause : Nat) (data : List Byte := []) : State :=
  let r : Resp := { tag := h.tag.toNat, opcode := op, status := status, cause := cause, data := data }
  { s with ctl := { s.ctl.put (.resp r) with stored := (r :: s.ctl.stored).take storeDepth } }

/-- The package takes commands: from boot step 5 on, in SAFE from the ROM's port, never in OFF (R382, R385). -/
def State.takesCommands (s : State) : Bool :=
  match s.ctl.state with
  | .off => false
  | .boot => decide (5 ≤ s.ctl.bootStep)
  | _ => true

/-- Answer CMD_INVALID with a cause, count it and raise CTL_CMD_INVALID (R381, R401). -/
def State.invalid (s : State) (h : Hdr) (op cause : Nat) (n : Nat := 0) : State :=
  let st := s.ctl.state.code
  ((s.count (regAddr Page.global 0x48) 1).raise Page.global Code.ctlCmdInvalid
    (ctlPayload op h.tag.toNat st cause 0 n 0)).answer h op stInvalid cause

/-- Answer STATE_REFUSED, count it and record the event (R378). -/
def State.refuse (s : State) (h : Hdr) (op : Nat) : State :=
  ((s.count (regAddr Page.global 0x44) 1).raise Page.global Code.stateRefused
    (ctlPayload op h.tag.toNat s.ctl.state.code 0 (legalMask op) 0 0)).answer h op stRefused 0

/-- A high interval of PRESENCE_N at least this long restarts the timer, in µs (R389). -/
abbrev bounceUs : Nat := 10000
/-- How long presence needs PRESENCE_N low and the loop continuous, in µs (R389). -/
abbrev presenceUs : Nat := 30000000

/-- Presence holds now (R389): it was reached, the loop is continuous, and PRESENCE_N is low or has been
high for less than 10 ms. -/
def State.presenceHolds (s : State) : Bool :=
  s.pins.presence && s.pins.sealClosed &&
    (!s.pins.presenceN ||
      (match s.pins.presHighSince with | some t => decide (s.nowUs < t + bounceUs) | none => false))

/-- Whole seconds of the present low interval, saturating at 63 (PRES_SEC). -/
def State.presSec (s : State) : Nat :=
  match s.pins.presLowSince with
  | some t => if s.pins.presenceN then 0 else min 63 ((s.nowUs - t) / 1000000)
  | none => 0

/-- Why presence does not admit an opcode: 2 while TAMPER is set, except for MAINT_ENTER and TAMPER_CLEAR;
1 when presence does not hold; 0 when it admits (R389, R391). -/
def State.presenceCause (s : State) (op : Nat) : Nat :=
  if s.fuse.tamper && op ≠ 0x0070 && op ≠ 0x0075 then 2
  else if s.presenceHolds then 0 else 1

/-- Answer PRESENCE_ABSENT, count it and raise the event (R389). -/
def State.denyPresence (s : State) (h : Hdr) (op cause : Nat) : State :=
  ((s.count (regAddr Page.security 0x44) 1).raise Page.security Code.presenceAbsent
    (ctlPayload op h.tag.toNat s.ctl.state.code cause 0 s.presSec 0)).answer h op stPresence cause

/-- A long command of an opcode runs (R381). -/
def State.longRuns (s : State) (op : Nat) : Bool := s.ctl.long.any fun l => l.opcode = op

/-- The commands that are answered busy while any long command runs; a sealed-commit export does not
count (R381). -/
def busyCommands : List Nat := [0x0020, 0x0022, 0x0023, 0x0071, 0x0015, 0x0013]

/-- The long commands of R379. -/
def longCommands : List Nat := [0x0011, 0x0030, 0x0032, 0x0033, 0x0040, 0x0041, 0x0074, 0x0090]

/-- A command finds the package busy (R381). A RECOVER_LOAD is long only for the chunk with FINAL set, so
its caller judges it. -/
def State.busy (s : State) (op : Nat) (isSealed : Bool) : Bool :=
  (longCommands.contains op && op ≠ 0x0090 && s.longRuns op) ||
    (busyCommands.contains op && s.ctl.long.any fun l => !(isSealed && l.opcode = 0x0040))

/-- The message of a command or of a stream leaves the queue of messages that await execution (R370). -/
def State.takeRx (s : State) (ch tag : Nat) : State :=
  { s with ctl := { s.ctl with msgs := eraseFirst (fun m => m.ch = ch && m.tag = tag) s.ctl.msgs } }

/-- The common course of a command: a tag of 0 is no command and is discarded as a malformed
stream-control message (R372); a stored tag is answered from the store (R370); then reserved bits, the
state (R378) with `fit`, which says whether it meets what R380 asks besides, presence (R389) and busy long
commands (R381) are judged, in that order, and `act` executes what is left. CMDS counts the commands that are
executed (log entry 11). -/
def State.command (s : State) (h : Hdr) (op : Nat) (isSealed : Bool) (act : State → State) (fit : Bool := true) : State :=
  let s0 := s.takeRx 0 h.tag.toNat
  let s1 := s0.count (regAddr Page.global 0x40) 1
  if !s.takesCommands then s
  else if h.tag = 0 then s0.count (regAddr Page.global 0x54) 1
  else match s.ctl.stored.find? fun r => r.tag = h.tag.toNat with
  | some r =>
    let s2 := s0.count (regAddr Page.global 0x4C) 1
    { s2 with ctl := s2.ctl.put (.resp r) }
  | none =>
    if h.resv ≠ 0 || !knownOpcode op then s0.invalid h op 1
    else
      match legalIn op s.ctl.state with
      | .no => s0.refuse h op
      | .sealed => if !isSealed then s0.refuse h op else if s.busy op isSealed then s0.invalid h op 3 else act s1
      | .presence =>
        let c := s.presenceCause op
        if c ≠ 0 then s0.denyPresence h op c else if s.busy op isSealed then s0.invalid h op 3 else act s1
      | .yes => if !fit then s0.refuse h op else if s.busy op isSealed then s0.invalid h op 3 else act s1

/-- A long command starts (R381). -/
def State.startLong (s : State) (h : Hdr) (op : Nat) (arg : List Nat := []) : State :=
  let s1 := s.answer h op stStarted 0
  { s1 with ctl := { s1.ctl with long := s1.ctl.long ++ [{ opcode := op, tag := h.tag.toNat, arg := arg }] } }

/-- A long command ends: CTL_CMD_DONE with its tag and its final status, which replaces the stored
response (R381). -/
def State.endLong (s : State) (op status cause : Nat) : State :=
  match s.ctl.long.find? fun l => l.opcode = op with
  | none => s
  | some l =>
    let c := { s.ctl with
      long := s.ctl.long.filter fun x => x.opcode ≠ op
      stored := s.ctl.stored.map fun r => if r.tag = l.tag then { r with status := status, cause := cause } else r }
    State.raise { s with ctl := c } Page.global Code.ctlCmdDone
      (ctlPayload op l.tag s.ctl.state.code cause status 0 0)

/-- COMMAND_RESERVED_OPCODE (R379): a reserved opcode is answered CMD_INVALID, cause 1, in every state that
takes commands. -/
def execCommandReservedOpcode (h : Hdr) (opcode : BitVec 16) (s : State) : Host.Outcome State Fault Refusal :=
  if knownOpcode opcode.toNat then .next s
  else .next (s.command h opcode.toNat false fun x => x)

/-- HOLD (R376, R379): makes HELD pending at the next seal; a repeated HOLD does nothing more. -/
def execHold (h : Hdr) (s : State) : Host.Outcome State Fault Refusal :=
  .next (s.command h 0x0021 false fun x =>
    State.answer { x with ctl := { x.ctl with holdPending := true } } h 0x0021 stOk 0)

/-- STOP (R376): from HELD to READY. -/
def execStop (h : Hdr) (s : State) : Host.Outcome State Fault Refusal :=
  .next (s.command h 0x0023 s.isSealed fun x =>
    (x.enter .ready 0 0x0023 h.tag.toNat).answer h 0x0023 stOk 0)

/-- MAINT_ENTER (R376, R390): from STAGED or HELD, under presence. -/
def execMaintEnter (h : Hdr) (s : State) : Host.Outcome State Fault Refusal :=
  .next (s.command h 0x0070 false fun x =>
    (State.enter { x with ctl := { x.ctl with maintFrom := x.ctl.state, zeroised := false } }
      .maint 0 0x0070 h.tag.toNat).answer h 0x0070 stOk 0)

/-- DEBUG_UNLOCK (R393): opens the debug ports until the next BOOT, sets DEBUG_SEEN and raises
SEC_DEBUG_UNLOCKED. -/
def execDebugUnlock (h : Hdr) (s : State) : Host.Outcome State Fault Refusal :=
  .next (s.command h 0x0072 false fun x =>
    (State.raise { x with ctl := { x.ctl with debugSeen := true } } Page.security Code.secDebugUnlocked
      (ctlPayload 0x0072 h.tag.toNat x.ctl.state.code 0 0 0 0)).answer h 0x0072 stOk 0)

/-- An instruction of the IEEE 1149.1 TAP, as far as the manual tells them apart (R433). -/
inductive TapInstr where
  | idcode | bypass | other
  deriving DecidableEq, Repr

/-- The TAP answers only IDCODE and BYPASS until DEBUG_UNLOCK (R393, R433). What it answers is not stated. -/
def State.tapAnswers (s : State) (i : TapInstr) : Bool :=
  match i with
  | .other => s.ctl.debugSeen
  | _ => true

/-- The key-set digest in force (R386). -/
def State.keySet (s : State) : List Byte := s.fuse.keySlots.getD s.ctl.keySlot []

/-- What a key-set rotation signs: the new digest, the device identifier and the slot number (R386; log
entry 13). -/
def rotateMessage (digest : List Byte) (deviceId slot : Nat) : List Byte :=
  digest ++ leBytes 8 deviceId ++ leBytes 1 slot

/-- Raise SIG_FAIL with a cause and what bytes 13:10 of the record say of the component, and count it (R384 to R386, R400). -/
def State.sigFail (s : State) (op tag cause comp : Nat) : State :=
  (s.count (regAddr Page.security 0x40) 1).raise Page.security Code.sigFail
    (ctlPayload op tag s.ctl.state.code cause 0 comp 0)

/-- KEYSET_ROTATE (R386): programs the next slot when both signatures over the new digest, the device
identifier and the slot number verify; cause 6 when no slot is free; the new set is in force from the next
BOOT. A digest that is not 48 bytes is an argument out of range. -/
def execKeysetRotate (h : Hdr) (digest sigRsa sigSlh : List Byte) (s : State) : Host.Outcome State Fault Refusal :=
  .next (s.command h 0x0073 false fun x =>
    if 4 ≤ x.fuse.keySlots.length then x.invalid h 0x0073 6
    else if digest.length ≠ 48 then x.invalid h 0x0073 2
    else
      let m := rotateMessage digest x.fuse.deviceId x.fuse.keySlots.length
      if rsaVerify x.ctl.keyRsa m sigRsa && slhVerify x.ctl.keySlh m sigSlh then
        State.answer { x with fuse := { x.fuse with keySlots := x.fuse.keySlots ++ [digest] } } h 0x0073 stOk 0
      else (x.sigFail 0x0073 h.tag.toNat 3 0).answer h 0x0073 stSigFail 3)

/-- TAMPER_CLEAR (R391): clears TAMPER and adds 1 to TAMPER_CLEARS. -/
def execTamperClear (h : Hdr) (s : State) : Host.Outcome State Fault Refusal :=
  .next (s.command h 0x0075 false fun x =>
    State.answer { x with fuse := { x.fuse with tamper := false, tamperClears := x.fuse.tamperClears + 1 } }
      h 0x0075 stOk 0)

/-- The components that run, the first stage included (R387, R395). -/
def Ctl.running (c : Ctl) : List FwComp := c.firstStage.toList ++ c.comps

/-- The lowest SVN among running components, 0 when none runs. -/
def Ctl.lowSvn (c : Ctl) : Nat :=
  match c.running with
  | [] => 0
  | x :: xs => xs.foldl (fun a y => min a y.svn) x.svn

/-- FLOOR_RAISE (R387): blows fuses up to a floor that exceeds the present one and no running SVN; any other
floor is answered CMD_INVALID, cause 5, and nothing is blown. -/
def execFloorRaise (h : Hdr) (floor : Word) (s : State) : Host.Outcome State Fault Refusal :=
  .next (s.command h 0x0076 false fun x =>
    let f := floor.toNat
    if x.fuse.floor < f ∧ f ≤ 64 ∧ x.ctl.running.all (fun c => decide (f ≤ c.svn)) then
      State.answer { x with fuse := { x.fuse with floor := f } } h 0x0076 stOk 0
    else x.invalid h 0x0076 5 f)

/-- CAD_REACQUIRE (R347, R379): from HELD, the cadence unit to ACQUIRING; ends when it is LOCKED. -/
def execCadReacquire (h : Hdr) (s : State) : Host.Outcome State Fault Refusal :=
  .next (s.command h 0x0033 false fun x =>
    State.startLong { x with cad := { x.cad with state := .acquiring, goodSync := 0, goodEdge := 0, badEdge := 0 } }
      h 0x0033)

/-- LOCKED (R347): 16 consecutive good offsets or edges complete acquisition; a CAD_REACQUIRE that runs ends. -/
def execLocked (s : State) : Host.Outcome State Fault Refusal :=
  if s.cad.state = .acquiring &&
      ((selPtp s.src && decide (16 ≤ s.cad.goodSync)) || (selPulse s.src && decide (16 ≤ s.cad.goodEdge))) then
    let s1 := { s with cad := { s.cad with
      state := .locked, holdLeft := 64, active := s.cad.best? s.src } }
    .next (s1.endLong 0x0033 stOk 0)
  else .next s

/-- A write of SRC (R347, R404): SRC = 3 takes a FREE unit to LOCKED on the oscillator; a LOCKED unit whose selected references have changed
keeps lock on what is left, or enters HOLDOVER. No register access but a refused REQ_ON raises an event, so none is raised (log entry
224). -/
def State.writeSrc (s : State) (v : Word) : State :=
  let s1 := s.setRw (regAddr Page.cadence 0x100) (v &&& 0x1FF)
  if s1.src = 3 && s1.cad.state = .free then
    { s1 with cad := { s1.cad with state := .locked, active := .osc, holdLeft := 64 } }
  else s1.keepLock

/-- SRC (R347): a write of the word that holds SRC and PTP_DOMAIN. -/
def execSrc (v : Word) (s : State) : Host.Outcome State Fault Refusal := .next (s.writeSrc v)

/-- LEDGER_ACK (R397): frees ledger records up to a step. -/
def execLedgerAck (h : Hdr) (step : DWord) (s : State) : Host.Outcome State Fault Refusal :=
  .next (s.command h 0x0043 false fun x =>
    State.answer { x with ctl := { x.ctl with ledgerAck := max x.ctl.ledgerAck (step.toNat + 1) } } h 0x0043 stOk 0)

/-- PRESENCE_N_CHANGE (R389): a fall after a high interval of 10 ms or more, or the first fall, starts the
30 s anew; a shorter high interval leaves the timer running. -/
def execPresenceNChange (level : Bool) (s : State) : Host.Outcome State Fault Refusal :=
  if level = s.pins.presenceN then .next s
  else if level then .next { s with pins := { s.pins with presenceN := true, presHighSince := some s.nowUs } }
  else
    let brief := match s.pins.presHighSince with | some t => decide (s.nowUs < t + bounceUs) | none => false
    let keep := brief && s.pins.presLowSince.isSome
    .next { s with pins := { s.pins with
      presenceN := false
      presLowSince := if keep then s.pins.presLowSince else some s.nowUs
      presence := s.pins.presence && keep } }

/-- PRESENCE (R389): PRESENCE_N low for 30 s with SEAL_LOOP continuous for the same time. -/
def execPresence (s : State) : Host.Outcome State Fault Refusal :=
  match s.pins.presLowSince with
  | none => .next s
  | some t =>
    if !s.pins.presenceN && s.pins.sealClosed && decide (t + presenceUs ≤ s.nowUs) &&
        decide (s.pins.sealSince + presenceUs ≤ s.nowUs) then
      .next { s with pins := { s.pins with presence := true } }
    else .next s

/-- SEAL_LOOP_CHANGE (R389): the loop opens or closes; presence is lost when it opens, and its continuity
counts from the moment it closes. -/
def execSealLoopChange (closed : Bool) (s : State) : Host.Outcome State Fault Refusal :=
  if closed = s.pins.sealClosed then .next s
  else .next { s with pins := { s.pins with
    sealClosed := closed, sealSince := s.nowUs, presence := s.pins.presence && closed } }

/-- SEC_TAMPER (R391): the loop has been open for 1 ms; TAMPER is latched in fuse and training goes on. -/
def execSecTamper (s : State) : Host.Outcome State Fault Refusal :=
  if !s.pins.sealClosed && decide (s.pins.sealSince + 1000 ≤ s.nowUs) && !s.fuse.tamper then
    let s1 := { s with fuse := { s.fuse with tamper := true } }
    .next ((s1.count (regAddr Page.security 0x48) 1).raise Page.security Code.secTamper
      (ctlPayload 0xFFFF 0 s.ctl.state.code 0 0 0 0))
  else .next s

end Sys2Proof.Machine
end

