-- ==== Sys2Proof/Machine/Memory.lean ====
section
/-! DEFINITION. The package address map, byte access, poison, correction, scrub and refresh (chapter 10). -/

namespace Sys2Proof.Machine

/-- A region of the map with the offset into it (R278). -/
inductive Region where
  | trough (p off : Nat)
  | crust (d off : Nat)
  | operand (eng off : Nat)
  | localStore (d reed off : Nat)
  | table (d off : Nat)
  | coll (edge off : Nat)
  | register (a : Nat)
  | arrival (p off : Nat)
  | unmapped
  deriving DecidableEq, Repr

/-- One GiB and one MiB. -/
abbrev gib : Nat := 1073741824
abbrev mib : Nat := 1048576

/-- The region that a package address lies in (R278); a part of a region beyond its populated size is
unmapped, and so are bytes 0x8000 to 0xFFFF of a partial-row chunk of an arrival window (R281). -/
def regionOf (a : Nat) : Region :=
  if a < 0x020000000000 then
    let p := a / 0x004000000000
    let o := a % 0x004000000000
    if p < 8 ∧ o < 192 * gib then .trough p o else .unmapped
  else if a < 0x030000000000 then
    let d := (a - 0x020000000000) / 0x000400000000
    let o := (a - 0x020000000000) % 0x000400000000
    if d < 4 ∧ o < 12 * gib then .crust d o else .unmapped
  else if a < 0x031000000000 then
    let e := (a - 0x030000000000) / 0x00800000
    let o := (a - 0x030000000000) % 0x00800000
    if e < 144 ∧ o < 6 * mib then .operand e o else .unmapped
  else if a < 0x032000000000 then
    let d := (a - 0x031000000000) / 0x08000000
    let o := (a - 0x031000000000) % 0x08000000
    if d < 4 ∧ o / 0x4000 < 6144 then .localStore d (o / 0x4000) (o % 0x4000) else .unmapped
  else if a < 0x033000000000 then
    let d := (a - 0x032000000000) / 0x04000000
    if d < 4 then .table d ((a - 0x032000000000) % 0x04000000) else .unmapped
  else if a < 0x03F000000000 then
    let e := (a - 0x033000000000) / 0x02000000
    if e < 2 then .coll e ((a - 0x033000000000) % 0x02000000) else .unmapped
  else if a < 0x03F100000000 then .register (a - 0x03F000000000)
  else if 0x200000000000 ≤ a ∧ a < 0x400000000000 then
    let p := (a - 0x200000000000) / 0x040000000000
    let o := (a - 0x200000000000) % 0x040000000000
    if p < 8 ∧ ¬ (bitOf o 41 = false ∧ 0x8000 ≤ o % 0x10000) then .arrival p o else .unmapped
  else .unmapped

/-- Base addresses of R278. -/
def troughBase (p : Nat) : Nat := p * 0x004000000000
def crustBase (d : Nat) : Nat := 0x020000000000 + d * 0x000400000000
def operandBase (eng : Nat) : Nat := 0x030000000000 + eng * 0x00800000
def localBase (d reed : Nat) : Nat := 0x031000000000 + d * 0x08000000 + 0x4000 * reed
def tableBase (d : Nat) : Nat := 0x032000000000 + d * 0x04000000
def collBase (e : Nat) : Nat := 0x033000000000 + e * 0x02000000

/-- The stack of a Trough offset of PFp (R279). -/
def stackOf (p off : Nat) : Nat := 2 * p + (off / 4096) % 2
/-- The crust die of a crust offset of CDd (R279). -/
def crustDieOf (d off : Nat) : Nat := 4 * d + (off / 256) % 4

/-- The seven partition sizes in force for PFp, in GiB: STATE, FOLD, RESERVOIR, CKPT, REFPIC, HOST, LEDGER
(R289). -/
def State.partSizes (s : State) (p : Nat) : List Nat :=
  let w0 := s.shAt (regAddr (Page.prf p) 0x180)
  let w1 := s.shAt (regAddr (Page.prf p) 0x184)
  [fld w0 7 0, fld w0 15 8, fld w0 23 16, fld w0 31 24, fld w1 7 0, fld w1 15 8, fld w1 23 16]

/-- The bounds of region `i` of PFp's Trough, as offsets (R289). -/
def State.partBounds (s : State) (p i : Nat) : Nat × Nat :=
  let l := s.partSizes p
  let lo := (l.take i).sum * gib
  (lo, lo + l.getD i 0 * gib)

/-- A Trough offset lies in region `i` of PFp. -/
def State.inPart (s : State) (p i off : Nat) : Bool :=
  let b := s.partBounds p i
  decide (b.1 ≤ off ∧ off < b.2)

/-- Region numbers in the order of R289. -/
abbrev partState : Nat := 0
abbrev partFold : Nat := 1
abbrev partReservoir : Nat := 2
abbrev partCkpt : Nat := 3
abbrev partRefpic : Nat := 4
abbrev partHost : Nat := 5
abbrev partLedger : Nat := 6

/-- The byte at a package address; a byte that nothing has written reads 0 (log entry 9). -/
def State.byteAt (s : State) (a : Nat) : Byte := s.mem.get 0 a

/-- The bytes from a package address. -/
def State.bytesAt (s : State) (a n : Nat) : List Byte := (List.range n).map fun i => s.byteAt (a + i)

/-- The number that bytes at a package address spell, low byte first. -/
def State.natAt (s : State) (a n : Nat) : Nat := leNat (s.bytesAt a n)

/-- Write bytes into a table of bytes. -/
def memWrite (t : Tbl Byte) (a : Nat) : List Byte → Tbl Byte
  | [] => t
  | b :: bs => memWrite (t.set 0 a b) (a + 1) bs

/-- The bytes of a granule of the memory at an address: 16 in a reed's local store, 64 elsewhere (R276). -/
def granSize (a : Nat) : Nat :=
  match regionOf a with
  | .localStore _ _ _ => 16
  | _ => 64

/-- The first address of the granule that holds an address: the key of its poison mark. -/
def granule (a : Nat) : Nat := a / granSize a * granSize a

/-- The granules that `n` bytes from `a` cover whole. -/
def wholeGranules (a n : Nat) : List Nat :=
  let g := granSize a
  let first := ceilDiv a g
  (List.range ((a + n) / g - first)).map fun i => g * (first + i)

/-- The granules that `n` bytes from `a` touch. -/
def touchedGranules (a n : Nat) : List Nat :=
  let g := granSize a
  (List.range ((a + n + g - 1) / g - a / g)).map fun i => g * (a / g + i)

/-- Write bytes at a package address: a granule written whole loses its poison, one written in part keeps
it (R286). -/
def State.store (s : State) (a : Nat) (bs : List Byte) : State :=
  { s with
    mem := memWrite s.mem a bs
    poison := (wholeGranules a bs.length).foldl (fun t g => t.set false g false) s.poison }

/-- Write a number of `n` bytes at a package address, low byte first. -/
def State.storeNat (s : State) (a n v : Nat) : State := s.store a (leBytes n v)

/-- A granule of `n` bytes from `a` is poisoned (R286). -/
def State.poisonedAt (s : State) (a n : Nat) : Bool := (touchedGranules a n).any fun g => s.poison.get false g

/-- Mark a granule poisoned (R286). -/
def State.setPoison (s : State) (a : Nat) : State := { s with poison := s.poison.set false (granule a) true }

/-- Mark every granule of `n` bytes from `a` poisoned. -/
def State.setPoisons (s : State) (a n : Nat) : State :=
  { s with poison := (touchedGranules a n).foldl (fun t g => t.set false g true) s.poison }

/-- The memory die key of an address: the stack's or the crust die's; none outside both (R279). -/
def memKeyOf (addr : Nat) : Option Nat :=
  match regionOf addr with
  | .trough p o => some (16 + 16 * stackOf p o)
  | .crust d o => some (crustDieOf d o)
  | _ => none

/-- The page that reports for a memory die, its source number and its die number (R292). -/
def memDiePage (key : Nat) : Nat := if key < 16 then Page.die (key / 4) else Page.stack ((key - 16) / 16)
def memDieSource (key : Nat) : Nat := if key < 16 then 0x100 + key else (key - 16) / 16
def memDieNumber (key : Nat) : Nat := if key < 16 then 0xFF else (key - 16) % 16

/-- The counter of a memory die's page: CE, UE, POISON_READS, SCRUB_PASSES by index (R291). -/
def memCounter (key i : Nat) : Nat :=
  if key < 16 then regAddr (Page.die (key / 4)) (0x60 + 4 * i) else regAddr (Page.stack ((key - 16) / 16)) (0x40 + 4 * i)

/-- Read granules that carry poison: each one of crust or Trough adds 1 to POISON_READS of its page (R286, R291). -/
def State.countPoison (s : State) (grans : List Nat) : State :=
  grans.foldl (fun t g => match memKeyOf g with
    | some k => if s.poison.get false g then t.count (memCounter k 2) 1 else t
    | none => t) s

/-- The payload of a memory record (R292). -/
def memPayload (src addr die cause band n mb : Nat) : List Byte :=
  payload [(0, 2, src), (2, 5, addr / 64), (7, 1, die), (8, 1, cause), (9, 1, band), (10, 4, n), (14, 2, mb)]

/-- A register of a die's section of the KV page. -/
def kvReg (d off : Nat) : Nat := regAddr Page.kv (0x100 + 0x100 * d + off)

/-- Pool base, pool pages and scale base of a die's KV unit (R218). -/
def State.kvPool (s : State) (d : Nat) : Nat :=
  ((s.shAt (kvReg d 0)).toNat + 2 ^ 32 * fld (s.shAt (kvReg d 4)) 7 0) * 64
def State.kvPages (s : State) (d : Nat) : Nat := min 393216 (fld (s.shAt (kvReg d 4)) 27 8)
def State.kvScales (s : State) (d : Nat) : Nat :=
  ((s.shAt (kvReg d 8)).toNat + 2 ^ 32 * fld (s.shAt (kvReg d 0xC)) 7 0) * 64

/-- A package address lies in the KV pool or the scale region of a die (R218). -/
def State.inKvPool (s : State) (d a : Nat) : Bool :=
  decide (s.kvPool d ≤ a ∧ a < s.kvPool d + 32768 * s.kvPages d) ||
    decide (s.kvScales d ≤ a ∧ a < s.kvScales d + 1024 * s.kvPages d)

/-- A Trough offset lies in one of the seven regions: the space after the last is for host cores alone (R289). -/
def State.assigned (s : State) (p off : Nat) : Bool := decide (off < (s.partSizes p).sum * gib)

/-- A unit reaches a region (R283, R289). A table SRAM is read only, an arrival window write only (R278). -/
def State.reaches (s : State) (u : MemUnit) (r : Region) (write : Bool) : Bool :=
  match u, r with
  | .tileFetcher _ _, .crust _ _ => !write
  | .tileFetcher _ _, .trough q o => !write && s.assigned q o
  | .tileFetcher _ _, .operand _ _ => !write
  | .streamPort _ _, .crust _ _ => true
  | .streamPort _ _, .trough q o => s.assigned q o
  | .streamPort _ _, .operand _ _ => true
  | .streamPort _ _, .localStore _ _ _ => true
  | .streamPort _ _, .coll _ _ => true
  | .streamPort d _, .arrival p _ => write && decide (p / 2 = d.val)
  | .kvUnit d, .crust c o => decide (c = d.val) && s.inKvPool c (crustBase c + o)
  | .proofer p, .trough q o => decide (q = p.val) && s.assigned q o
  | .proofer p, .crust c _ => decide (c = p.val / 2)
  | .proofer _, .coll _ _ => true
  | .collectives _, .trough q o => s.assigned q o
  | .collectives _, .crust _ _ => true
  | .collectives e, .coll f _ => decide (f = e.val)
  | .collectives _, .arrival _ _ => write
  | .decoder _, .trough q o => s.inPart q partReservoir o || s.inPart q partRefpic o
  | .hostCore _ _, .table _ _ => !write
  | .hostCore _ _, .arrival _ _ => write
  | .hostCore _ _, _ => true
  | .chanter d, .table c _ => !write && decide (c = d.val)
  | .chanter d, .crust c _ => decide (c = d.val)
  | _, _ => false

/-- The page that reports an access of a unit (R425): its compute die, its Proofer, or the host cores. Links, collectives
and decoders sit on the edge dies with the host cores (log entry 35). -/
def unitPage : MemUnit → Nat
  | .tileFetcher d _ => Page.die d.val
  | .streamPort d _ => Page.die d.val
  | .kvUnit d => Page.die d.val
  | .chanter d => Page.die d.val
  | .proofer p => Page.prf p.val
  | _ => Page.host

/-- A write to STATE, FOLD or LEDGER while RUNNING by a unit that may not write there (R280). -/
def State.protectedFrom (s : State) (u : MemUnit) (r : Region) : Bool :=
  match r with
  | .trough p o =>
    s.ctl.state = .running && (s.inPart p partState o || s.inPart p partFold o || s.inPart p partLedger o) &&
      (match u with
       | .proofer q => decide (q.val ≠ p)
       | .collectives _ => s.spine.adopting.isEmpty && !s.spine.importing
       | _ => true)
  | _ => false

/-- Raise MEM_UNMAPPED for a unit (R280, R283). The number that the record gives a unit is not stated: a free value (log
entry 35). -/
def State.unmapped (s : State) (u : MemUnit) (addr cause mb : Nat) : State :=
  (s.raise (unitPage u) Code.memUnmapped (memPayload (s.fresh 16).toNat addr 0xFF cause 0 0 mb)).used

/-- Why an access of a unit is turned away: none if it is carried out; cause 0 unmapped, 1 outside the view, 2 a protected
region (R280, R283, R292). -/
def State.accessFault (s : State) (u : MemUnit) (addr : Nat) (write : Bool) : Option Nat :=
  let r := regionOf addr
  match r with
  | .unmapped => some 0
  | _ =>
    if !s.reaches u r write then some 1
    else if write && s.protectedFrom u r then some 2
    else none

/-- Why an access of `n` bytes is turned away, by its first and its last byte (R280, R283). -/
def State.spanFault (s : State) (u : MemUnit) (addr n : Nat) (write : Bool) : Option Nat :=
  match s.accessFault u addr write with
  | some c => some c
  | none => s.accessFault u (addr + (n - 1)) write

/-- A unit reads `n` bytes: zeros and MEM_UNMAPPED where the access is turned away (R280). -/
def State.loadFor (s : State) (u : MemUnit) (addr n mb : Nat) : List Byte × State :=
  match s.spanFault u addr n false with
  | some c => (List.replicate n 0, s.unmapped u addr c mb)
  | none => (s.bytesAt addr n, s)

/-- A unit reads `n` bytes and acts on their poison itself (R280, R286): the bytes, zeros in place of poisoned ones, whether they were
poisoned, and the state in which the poisoned granules are counted. -/
def State.consume (s : State) (u : MemUnit) (addr n mb : Nat) : List Byte × Bool × State :=
  match s.spanFault u addr n false with
  | some c => (List.replicate n 0, false, s.unmapped u addr c mb)
  | none =>
    let bad := s.poisonedAt addr n
    (if bad then List.replicate n 0 else s.bytesAt addr n, bad, s.countPoison (touchedGranules addr n))

/-- The number under which the sender of a write to an arrival window is known: stream ports by die and port, then host cores and
collectives engines. -/
def arrivalSender : MemUnit → Nat
  | .streamPort d p => 128 * d.val + p.val
  | .hostCore e c => 512 + 16 * e.val + c.val
  | .collectives e => 544 + e.val
  | _ => 546

/-- A write that is carried out: an arrival window takes it to its Proofer and holds no memory (R281). -/
def State.putAt (s : State) (u : MemUnit) (addr : Nat) (bs : List Byte) : State :=
  match regionOf addr with
  | .arrival p _ => { s with spine := { s.spine with arrivals := s.spine.arrivals ++ [⟨p, arrivalSender u, addr, bs, false⟩] } }
  | _ => s.store addr bs

/-- A unit writes bytes: discarded with MEM_UNMAPPED where the access is turned away (R280). -/
def State.storeFor (s : State) (u : MemUnit) (addr : Nat) (bs : List Byte) (mb : Nat) : State :=
  match s.spanFault u addr bs.length true with
  | some c => s.unmapped u addr c mb
  | none => s.putAt u addr bs

/-- Poison that comes with data stands where the data is written (R286): nowhere, where the write is discarded or goes to an arrival
window. -/
def State.poisonFor (s : State) (u : MemUnit) (addr n : Nat) : State :=
  match s.spanFault u addr n true, regionOf addr with
  | some _, _ => s
  | none, .arrival _ _ => s
  | none, _ => s.setPoisons addr n

/-- The refresh window of a band, ms (R288). -/
def refreshMs (band : Nat) : Nat :=
  match band with | 0 => 64 | 1 => 32 | 2 => 16 | _ => 8

/-- The band of a temperature (R288). -/
def bandOf (c : Nat) : Nat := if c < 45 then 0 else if c < 85 then 1 else if c ≤ 95 then 2 else 3

/-- The lower limit of a band's temperature (R288). -/
def bandLow (band : Nat) : Nat := match band with | 0 => 0 | 1 => 45 | 2 => 85 | _ => 95

/-- The band after a temperature reading: up at once, down one band at a time where the reading lies 3 °C
below the lower limit of the band left (R288). -/
def bandStep (old c : Nat) : Nat :=
  let b := bandOf c
  if old ≤ b then b
  else if c + 3 ≤ bandLow old then max b (bandDown 3 old c) else old
where
  /-- Lower the band while the reading lies 3 °C below its lower limit. -/
  bandDown : Nat → Nat → Nat → Nat
    | 0, b, _ => b
    | f + 1, b, c => if 0 < b ∧ c + 3 ≤ bandLow b then bandDown f (b - 1) c else b

/-- The key of a memory die. -/
def memDieKey : MemDie → Nat
  | .crust n => n.val
  | .trough s k => 16 + 16 * s.val + k.val

/-- The band in force of a memory die: the temperature's band, higher by the bands that the health block raised the die (R288, R426). -/
def MemTier.band (m : MemTier) (key : Nat) : Nat :=
  min 3 (m.tempBand.get 0 key + m.raised.get 0 key)

/-- Raise MEM_REFRESH_BAND where the band of a die differs from `old` (R288). -/
def State.bandEvent (s : State) (key old : Nat) : State :=
  if s.mt.band key = old then s
  else s.raise (memDiePage key) Code.memRefreshBand
    (memPayload (memDieSource key) 0 (memDieNumber key) 0 (s.mt.band key) 0 0xFFFF)

/-- DIE_CE_LIMIT of the stack, or of TS(4d) for a crust die of CDd. -/
def State.ceLimit (s : State) (stack : Nat) : Nat := fld (s.rwAt (regAddr (Page.stack stack) 0x108)) 23 8

/-- What a code makes of the errors of a read (R285); `beyond` what the table gives it no name for. -/
inductive EccResult where
  | clean | corrected | uncorrectable | beyond
  deriving DecidableEq, Repr

/-- An error count against what a code corrects and what it detects. -/
def eccStep (n corrects detects : Nat) : EccResult :=
  if n = 0 then .clean else if n ≤ corrects then .corrected else if n ≤ detects then .uncorrectable else .beyond

/-- The table of R285: single and double bits of an SRAM word; two and four symbols of a crust codeword; in the Trough what one DRAM die
holds or four symbols, and what two dies hold. -/
def eccResult (addr : Nat) (e : Ecc) : EccResult :=
  match regionOf addr with
  | .crust _ _ => eccStep (max e.symbols.1 e.symbols.2) 2 4
  | .trough _ _ =>
    let n := e.symbols.1 + e.symbols.2
    if n = 0 then .clean else if e.dies ≤ 1 ∨ n ≤ 4 then .corrected else if e.dies ≤ 2 then .uncorrectable else .beyond
  | _ => eccStep e.bits 1 2

/-- What a read takes its errors for. Beyond what a code detects the outcome is open: a free one of the three (log entry 180). -/
def State.eccOf (s : State) (addr : Nat) (e : Ecc) : EccResult :=
  match eccResult addr e with
  | .beyond => (match s.choose 3 with | 0 => .clean | 1 => .corrected | _ => .uncorrectable)
  | r => r

/-- A correction is charged to a memory die: counted, and reported as MEM_DIE_DEGRADED once in a scrub period in which the corrections of a
DRAM die have passed DIE_CE_LIMIT (R285, R287; log entry 173). -/
def State.corrected (s : State) (key addr : Nat) : State :=
  let n := s.mt.ceNow.get 0 key + 1
  let s1 := State.count { s with mt := { s.mt with
      ceNow := s.mt.ceNow.set 0 key n, ceAll := s.mt.ceAll.upd 0 key (· + 1) } } (memCounter key 0) 1
  let stack := (key - 16) / 16
  if 16 ≤ key ∧ s.ceLimit stack < n ∧ s.mt.told.get false key = false then
    State.raise { s1 with mt := { s1.mt with
        told := s1.mt.told.set false key true, degraded := s1.mt.degraded.set 0x1F stack ((key - 16) % 16) } }
      (Page.stack stack) Code.memDieDegraded (memPayload stack addr ((key - 16) % 16) 0 0 n 0xFFFF)
  else s1

/-- A granule is found uncorrectable by a read (cause 0) or a scrub (cause 1): counted, poisoned and reported
(R286, R287). -/
def State.uncorrectable (s : State) (key addr cause mb : Nat) : State :=
  ((s.count (memCounter key 1) 1).setPoison addr).raise (memDiePage key) Code.memUncorrectable
    (memPayload (memDieSource key) addr (memDieNumber key) cause 0 0 mb)

/-- The key of a scrub unit: stacks 0 to 15, crust dies 16 to 31. -/
def scrubKey : ScrubUnit → Nat
  | .stack s => s.val
  | .crust n => 16 + n.val

/-- The memory die that a scrub finding is charged to. -/
def scrubDie (u : ScrubUnit) (f : ScrubFind) : Nat :=
  match u with
  | .stack s => 16 + 16 * s.val + f.die.val
  | .crust n => n.val

/-- The stack page that holds a scrub unit's QUIESCE_REQ (R410); a crust die's scrub has none. -/
def State.scrubPaused (s : State) : ScrubUnit → Bool
  | .stack k => (s.rwAt (regAddr (Page.stack k.val) 0x08)).getLsbD 1
  | .crust _ => false

/-- What a scrub makes of one granule (R285, R287). -/
def State.scrubbed (s : State) (u : ScrubUnit) (f : ScrubFind) : State :=
  let s0 := if eccResult f.addr f.err = .beyond then s.used else s
  match s.eccOf f.addr f.err with
  | .corrected => s0.corrected (scrubDie u f) f.addr
  | .clean => s0
  | _ => s0.uncorrectable (scrubDie u f) f.addr 1 0xFFFF

/-- PATROL_SCRUB (R287): a pass of a stack or crust die met the findings and ends its scrub period:
corrections are charged, bad granules poisoned, the pass counted, and the period's corrections handed to
the health block. A pass that QUIESCE_REQ pauses does nothing (R410). -/
def execPatrolScrub (u : ScrubUnit) (finds : List ScrubFind) (s : State) : Host.Outcome State Fault Refusal :=
  if s.still then .next s else
  if s.scrubPaused u then .next s
  else
    let s1 := finds.foldl (fun t f => t.scrubbed u f) s
    let dies := match u with
      | .stack k => (List.range 16).map fun i => 16 + 16 * k.val + i
      | .crust n => [n.val]
    let m := s1.mt
    let s2 := { s1 with mt := { m with
      ceLast := dies.foldl (fun t k => t.set 0 k (m.ceNow.get 0 k)) m.ceLast
      ceNow := dies.foldl (fun t k => t.set 0 k 0) m.ceNow
      told := dies.foldl (fun t k => t.set false k false) m.told
      degraded := match u with | .stack k => m.degraded.set 0x1F k.val 0x1F | .crust _ => m.degraded } }
    .next (s2.count (memCounter (dies.headD 0) 3) 1)

end Sys2Proof.Machine
end

