-- ==== Sys2Proof/Machine/Hart.lean ====
section
/-! DEFINITION. Virtual addresses and physical memory protection of the host cores (R284, R303). The manual names the RISC-V privileged
architecture, Sv48 and PMP; the rules themselves are taken from that architecture (log entry 181). -/

namespace Sys2Proof.Machine

/-- What becomes of a hart's address: a package address, the parts of an access whose pages do not follow one another (virtual offset and
package address), the fault that the access takes, or a page-table read that the firewall refuses. -/
inductive HartAddr where
  | at (pa : Nat)
  | split (parts : List (Nat × Nat × Nat))
  | trap (t : MemTrap)
  | barred (a : Nat)
  deriving DecidableEq, Repr

/-- The bytes that a PMP entry covers, from its address and that of the entry before it: first and past the last. -/
def pmpSpan (e : PmpEntry) (before : Nat) : Nat × Nat :=
  match bitsOf e.cfg 4 3 with
  | 1 => (4 * before, 4 * e.addr)
  | 2 => (4 * e.addr, 4 * e.addr + 4)
  | 3 =>
    let ones := ((List.range 54).takeWhile fun i => bitOf e.addr i).length
    let size := 2 ^ (ones + 3)
    (4 * e.addr / size * size, 4 * e.addr / size * size + size)
  | _ => (0, 0)

/-- The permission bit of a PMP entry for an access: R, W, X. -/
def pmpBit : Access → Nat
  | .load => 0 | .store => 1 | .fetch => 2

/-- PMP permits an access of `n` bytes: by the first entry that covers a byte of it, which must cover all; M mode is bound by locked entries
alone, and without an entry M mode alone may go on, unless no entry exists. -/
def pmpPermits (h : Hart) (priv : Priv) (pa n : Nat) (k : Access) : Bool :=
  let spans := h.pmp.zipIdx.map fun e => (e.1, pmpSpan e.1 (if e.2 = 0 then 0 else (h.pmp.getD (e.2 - 1) ⟨0, 0⟩).addr))
  match spans.find? fun x => decide (x.2.1 < pa + n ∧ pa < x.2.2) with
  | some x =>
    decide (x.2.1 ≤ pa ∧ pa + n ≤ x.2.2) &&
      ((priv = .m && !bitOf x.1.cfg 7) || bitOf x.1.cfg (pmpBit k))
  | none => priv = .m || h.pmp.isEmpty

/-- Bits of a page-table entry: valid, readable, writable, executable, user, accessed, dirty. -/
def pteV (w : Nat) : Bool := bitOf w 0
def pteR (w : Nat) : Bool := bitOf w 1
def pteW (w : Nat) : Bool := bitOf w 2
def pteX (w : Nat) : Bool := bitOf w 3
def pteU (w : Nat) : Bool := bitOf w 4
def pteA (w : Nat) : Bool := bitOf w 6
def pteD (w : Nat) : Bool := bitOf w 7
def ptePpn (w : Nat) : Nat := bitsOf w 53 10

/-- A leaf entry allows an access of a hart; SUM lets S mode load and store in user pages, never fetch there. -/
def leafOk (h : Hart) (w : Nat) (k : Access) : Bool :=
  (if pteU w then h.priv = .u || (h.sum && k ≠ .fetch) else h.priv = .s) &&
    (match k with
     | .load => pteR w || (h.mxr && pteX w)
     | .store => pteW w
     | .fetch => pteX w) && pteA w && (k ≠ .store || pteD w)

/-- The walk of Sv48 from a table at `base`, `level` further levels below it (3 at the root), with the addresses of the entries that it
reads; `bars` tells what the firewall refuses (R312). -/
def State.walk (s : State) (bars : Nat → Bool) (h : Hart) (va : Nat) (k : Access) : Nat → Nat → HartAddr × List Nat
  | level, base =>
    let a := base + 8 * (va / 2 ^ (12 + 9 * level) % 512)
    if bars a then (.barred a, [])
    else if regionOf a = .unmapped ∨ pmpPermits h .s a 8 .load = false then (.trap .access, [])
    else if s.poisonedAt a 8 = true then (.trap .access, [a])
    else
      let w := s.natAt a 8
      if !pteV w || (!pteR w && pteW w) || decide (bitsOf w 63 54 ≠ 0) then (.trap .page, [a])
      else if pteR w || pteX w then
        if !leafOk h w k || decide (ptePpn w % 2 ^ (9 * level) ≠ 0) then (.trap .page, [a])
        else (.at (ptePpn w * 4096 + va % 2 ^ (12 + 9 * level)), [a])
      else if pteU w || pteA w || pteD w then (.trap .page, [a])
      else match level with
        | 0 => (.trap .page, [a])
        | l + 1 =>
          let r := s.walk bars h va k l (ptePpn w * 4096)
          (r.1, a :: r.2)

/-- A virtual address is one of Sv48: bits 63 to 47 are equal. -/
def sv48Ok (va : Nat) : Bool := bitsOf va 63 47 = 0 || bitsOf va 63 47 = 2 ^ 17 - 1

/-- The physical address of a hart's access (R284): translated under Sv48 outside M mode. -/
def State.hartAddr (s : State) (bars : Nat → Bool) (h : Hart) (va : Nat) (k : Access) : HartAddr × List Nat :=
  if h.priv = .m ∨ bitsOf h.satp.toNat 63 60 ≠ 9 then (.at (va % 2 ^ 56), [])
  else if !sv48Ok va then (.trap .page, [])
  else s.walk bars h va k 3 (bitsOf h.satp.toNat 43 0 * 4096)

/-- The pages that `n` bytes from `va` lie in: offset in the access and bytes. -/
def pagesOf (va n : Nat) : List (Nat × Nat) :=
  (List.range (max 1 (ceilDiv (va % 4096 + n) 4096))).map fun i =>
    let lo := max va (va / 4096 * 4096 + 4096 * i)
    (lo - va, min (va + n) (va / 4096 * 4096 + 4096 * (i + 1)) - lo)

/-- A part of a hart's access that lies in one page: translated, and passed by PMP. -/
def State.hartPage (s : State) (bars : Nat → Bool) (h : Hart) (va n : Nat) (k : Access) : HartAddr × List Nat :=
  let r := s.hartAddr bars h va k
  match r.1 with
  | .at pa => if pmpPermits h h.priv pa n k then r else (.trap .access, r.2)
  | _ => r

/-- Each page of a hart's access is translated by its own entry (R284): one access where the pages follow one another, else its parts. The
first page that is turned away decides what becomes of the whole. -/
def State.hartAccess (s : State) (bars : Nat → Bool) (h : Hart) (va n : Nat) (k : Access) : HartAddr × List Nat :=
  let l := (pagesOf va n).map fun q => (q, s.hartPage bars h (va + q.1) q.2 k)
  let reads := l.flatMap fun q => q.2.2
  match l.find? fun q => match q.2.1 with | .at _ => false | _ => true with
  | some q => (q.2.1, reads)
  | none =>
    let parts := l.map fun q => (q.1.1, q.1.2, match q.2.1 with | .at pa => pa | _ => 0)
    match parts with
    | [] => (.trap .access, reads)
    | p :: _ => (if parts.all fun q => q.2.2 = p.2.2 + q.1 then .at p.2.2 else .split parts, reads)

end Sys2Proof.Machine
end

