-- ==== Sys2Proof/Machine/Events.lean ====
section
/-! DEFINITION. The event block: admission, the event channel and the host copy (R418 to R422). -/

namespace Sys2Proof.Machine

/-- The ring holds this many records (R421). -/
abbrev ringDepth : Nat := 4096

/-- PORT_EN and HOST_EN (R422). -/
def State.portEn (s : State) : Bool := (s.rwAt (regAddr Page.event 0x100)).getLsbD 0
def State.hostEn (s : State) : Bool := (s.rwAt (regAddr Page.event 0x100)).getLsbD 1

/-- The 32 bytes of a record (R416). -/
def EvRec.bytes (r : EvRec) : List Byte :=
  leBytes 2 r.source ++ leBytes 2 r.code ++ leBytes 4 r.seq ++ leBytes 6 r.time ++
    leBytes 2 (b2n r.lostBefore + 2 * b2n r.fault) ++ r.payload

/-- Admit the oldest record of one source, unless the ring is full (R421). -/
def EvtBlock.takeIn (e : EvtBlock) (page : Nat) : EvtBlock :=
  match e.queues.get [] page with
  | [] => e
  | r :: rest =>
    if ringDepth ≤ e.ring.length then e
    else { e with queues := e.queues.set [] page rest, ring := e.ring ++ [r] }

/-- EVENT_ADMIT (R421): one round admits one record of each source that holds one, beginning with the first
source at or above `first`; where the round begins is open (R418; log entry 10). -/
def execEventAdmit (first : BitVec 16) (s : State) : Host.Outcome State Fault Refusal :=
  let pages := s.evt.queues.cells.map Prod.fst
  let order := pages.filter (fun p => first.toNat ≤ p) ++ pages.filter (fun p => p < first.toNat)
  .next { s with evt := order.foldl EvtBlock.takeIn s.evt }

/-- How many records every enabled consumer has taken (R421); none while no consumer is enabled. -/
def State.releasable (s : State) : Nat :=
  match s.portEn, s.hostEn with
  | true, true => min s.evt.portTaken s.evt.hostTaken
  | true, false => s.evt.portTaken
  | false, true => s.evt.hostTaken
  | false, false => 0

/-- Release what every enabled consumer has taken (R421). -/
def State.release (s : State) : State :=
  let n := s.releasable
  { s with
    evt := { s.evt with
      ring := s.evt.ring.drop n, portTaken := s.evt.portTaken - n, hostTaken := s.evt.hostTaken - n }
    cnt := s.cnt.upd 0 (regAddr Page.event 0x40) (· + n) }

/-- The Ramtor port is up: from boot step 5 on (R396). -/
def State.portUp (s : State) : Bool := s.takesCommands

/-- Records wait for the event channel, which goes before the channels 5 and 4 (R369). -/
def State.eventsWait (s : State) : Bool := s.portEn && decide (s.evt.portTaken < s.evt.ring.length)

/-- EVENT_CHANNEL_SEND (R369, R421): up to 64 records leave in one message, in ring order. -/
def execEventChannelSend (n : Nat) (s : State) : Host.Outcome State Fault Refusal :=
  let recs := (s.evt.ring.drop s.evt.portTaken).take (min n 64)
  if s.portEn && s.portUp && !recs.isEmpty then
    .next (State.release { s with
      ctl := s.ctl.sendMessage 2 0 0 (recs.flatMap EvRec.bytes)
      evt := { s.evt with portTaken := s.evt.portTaken + recs.length, sent := s.evt.sent ++ [recs] } })
  else .next s

/-- HOST_BASE as a package address (R422). -/
def State.hostBase (s : State) : Nat :=
  ((s.rwAt (regAddr Page.event 0x10C)).toNat + fld (s.rwAt (regAddr Page.event 0x110)) 7 0 * 2 ^ 32) * 64

/-- EVENT_HOST_COPY (R421): the next record is written into the host ring of 4,096 records and HOST_WP
advances. The write obeys R280; where it is turned away the record is reported as those of the host cores are (log entry 35). -/
def execEventHostCopy (s : State) : Host.Outcome State Fault Refusal :=
  if s.still then .next s else
  match s.evt.ring.drop s.evt.hostTaken with
  | [] => .next s
  | r :: _ =>
    if s.hostEn then
      let s1 := s.storeFor (.hostCore 0 0) (s.hostBase + 32 * s.evt.hostWp) r.bytes 0xFFFF
      let last := decide (s.evt.hostWp = ringDepth - 1)
      .next (State.release { s1 with evt := { s1.evt with
        hostTaken := s1.evt.hostTaken + 1
        hostWp := if last then 0 else s1.evt.hostWp + 1
        hostWraps := if last then (s1.evt.hostWraps + 1) % 2 ^ 20 else s1.evt.hostWraps } })
    else .next s

end Sys2Proof.Machine
end

