-- ==== Sys2Proof/Machine/Leaven.lean ====
section
/-! DEFINITION. The Leaven: entries, reports and seal processing (R37 to R44, R423). -/

namespace Sys2Proof.Machine

/-- The key of word `w` of entry `t` of die `d`. -/
def levKey (d t w : Nat) : Nat := 16 * (4096 * d + t) + w
/-- The key of history slot `i` of entry `t` of die `d`. -/
def levHistKey (d t i : Nat) : Nat := 64 * (4096 * d + t) + i

/-- The SH bits of each word of an entry (R37). -/
def levShMask (w : Nat) : Nat :=
  match w with
  | 0 => 0xFFFFFFF0 | 1 => 0xFFFFF | 4 => 0xFFFFFFFF | 5 => 0x7FF | _ => 0

/-- The active word of an entry. -/
def State.lev (s : State) (d t w : Nat) : Nat := (s.leaven.act.get 0 (levKey d t w)).toNat

/-- The word of an entry that a reactivation puts in force: what a register write left in the shadow set, else the active word (R170,
R423). -/
def State.levWritten (s : State) (d t w : Nat) : Nat :=
  match s.leaven.shNew.get none (levKey d t w) with
  | some v => v.toNat
  | none => s.lev d t w

/-- The shadow word of an entry: the register write or the image load that came last since the last effect point, else the active word
(R412, R413). -/
def State.levShadow (s : State) (d t w : Nat) : Nat :=
  match s.leaven.shNew.get none (levKey d t w), s.leaven.imgNew.get none (levKey d t w) with
  | none, some v => v.toNat
  | _, _ => s.levWritten d t w

/-- Set the active word of an entry. -/
def State.setLev (s : State) (d t w v : Nat) : State :=
  { s with leaven := { s.leaven with act := s.leaven.act.set 0 (levKey d t w) (BitVec.ofNat 32 v) } }

/-- The fields of an entry that a producer uses (R38). -/
structure LevView where
  fmt    : Format
  scale  : ScaleKind
  conv   : Bool
  sr     : Bool
  tensor : Nat
  eT     : Nat
  bT     : Nat
  deriving DecidableEq, Repr

/-- The view of an entry: format, scale kind, conversion mode, rounding, tensor number, E_T and B_T. A reserved
code never stands in an active table (R157); FP32 stands in for it here. -/
def State.levView (s : State) (d t : Nat) : LevView :=
  let w0 := s.lev d t 0
  { fmt := (Format.ofCode? (bitsOf w0 3 0)).getD .fp32
    scale := ScaleKind.ofCode (bitsOf w0 31 30)
    conv := bitOf w0 29
    sr := bitOf w0 28
    tensor := bitsOf (s.lev d t 1) 19 0
    eT := s.lev d t 2
    bT := s.lev d t 3 }

/-- A saturating 32-bit sum. -/
def satAdd (w a b : Nat) : Nat := min (2 ^ w - 1) (a + b)

/-- A producer's report reaches the entry (R39): counts, elements, and the largest finite |x|. (Log entry 201.) -/
def State.levReport (s : State) (d t : Nat) (r : RangeReport) : State :=
  let el := (s.lev d t 9 + 2 ^ 32 * bitsOf (s.lev d t 10) 15 0 + r.elem) % 2 ^ 48
  (((((s.setLev d t 6 (satAdd 32 (s.lev d t 6) r.cnt.sat)).setLev d t 7 (satAdd 32 (s.lev d t 7) r.cnt.unf)).setLev
    d t 8 (satAdd 32 (s.lev d t 8) r.cnt.inv)).setLev d t 9 (el % 2 ^ 32)).setLev d t 10 (el / 2 ^ 32)).setLev
    d t 11 (max (s.lev d t 11) r.amax)

/-- fmt_max of a format as an FP32 code. -/
def fmtMax (f : Format) : Nat := ff32.roundTo false f.top.1 1 f.top.2

/-- The largest finite FP32 code. -/
abbrev fp32Max : Nat := 0x7F7FFFFF
/-- FP32 1.0. -/
abbrev fp32One : Nat := 0x3F800000

/-- An entry as seal processing sees it: its sixteen words and its history, newest last by slot. -/
structure LevEntry where
  w    : List Nat
  hist : List Nat
  deriving DecidableEq, Repr

/-- The newest `n` history values, given the pointer to the next slot. -/
def LevEntry.newest (e : LevEntry) (ptr n : Nat) : List Nat :=
  (List.range n).map fun i => e.hist.getD ((ptr + 63 - i) % 64) 0

/-- What seal processing decides about the format: the new format, rungs, clean count, and whether it promoted
or demoted (R41, R42). -/
def sealFormat (base cur ceil : Format) (enabled isMx : Bool) (satExp sat elem cleanLen cleanCnt level : Nat) :
    Format × Nat × Nat × Bool × Bool :=
  let ok := enabled && onLadder base && !isMx
  if ok && decide (elem < sat * 2 ^ (satExp + 4)) then
    if cur ≠ ceil ∧ atOrAbove cur ceil then
      match nextWider cur with
      | some (g, _) => (g, level + 1, 0, true, false)
      | none => (cur, level, 0, false, false)
    else (cur, level, 0, false, false)
  else if sat = 0 then
    let c := min (cleanCnt + 1) 2047
    if ok && decide (cleanLen ≠ 0) && decide (cleanLen ≤ c) && decide (cur ≠ base) then
      (nextNarrower base cur, level - 1, 0, false, true)
    else (cur, level, c, false, false)
  else (cur, level, 0, false, false)

/-- E_T and B_T from the maximum H of the window, or none where H is not positive and finite (R41). -/
def sealScale (base cur : Format) (margin hMax : Nat) : Option (Nat × Nat) :=
  if ff32.isFinite hMax && decide (0 < ff32.abs hMax) && !hMax.testBit 31 then
    let d := min (ff32.ldexp hMax ((margin + headroom base cur : Nat) : Int)) fp32Max
    some (ff32.div (fmtMax cur) d, ff32.div d (fmtMax cur))
  else none

/-- Seal processing of one entry for step `step` (R41): the entry after it, and whether it was promoted or
demoted. An entry whose ELEM is 0 stays as it is. -/
def LevEntry.seal (e : LevEntry) (step : Nat) : LevEntry × Bool × Bool :=
  let g := fun i => e.w.getD i 0
  let elem := g 9 + 2 ^ 32 * bitsOf (g 10) 15 0
  if elem = 0 then (e, false, false)
  else
    let f := fun c => (Format.ofCode? c).getD .fp32
    let base := f (bitsOf (g 0) 7 4)
    let ptr := bitsOf (g 12) 5 0
    let hist := e.hist.set ptr (g 11)
    let ptr1 := (ptr + 1) % 64
    let valid := min (bitsOf (g 12) 12 6 + 1) 64
    let r := sealFormat base (f (bitsOf (g 0) 3 0)) (f (bitsOf (g 0) 11 8)) (bitOf (g 0) 15)
      (bitsOf (g 0) 31 30 = 2) (bitsOf (g 0) 25 22) (g 6) elem (bitsOf (g 5) 10 0) (bitsOf (g 5) 21 11)
      (bitsOf (g 5) 24 22)
    let e1 : LevEntry := { e with hist := hist }
    let win := min (bitsOf (g 0) 21 16 + 1) valid
    let hMax := (e1.newest ptr1 win).foldl max 0
    let sc := if bitsOf (g 0) 31 30 = 1 then (sealScale base r.1 (bitsOf (g 0) 14 12) hMax).getD (g 2, g 3)
      else (fp32One, fp32One)
    let w := [putBits (g 0) 3 0 r.1.code, g 1, sc.1, sc.2, g 4,
      putBits (putBits (g 5) 21 11 r.2.2.1) 24 22 r.2.1, 0, 0, 0, 0, 0, 0,
      ptr1 + valid * 64, step % 2 ^ 32, g 14, g 15]
    ({ w := w, hist := hist }, r.2.2.2.1, r.2.2.2.2)

/-- The entry `t` of die `d` as a record. -/
def State.levEntry (s : State) (d t : Nat) : LevEntry :=
  { w := (List.range 16).map fun i => s.lev d t i
    hist := (List.range 64).map fun i => (s.leaven.hist.get 0 (levHistKey d t i)).toNat }

/-- Put an entry back. -/
def State.putLevEntry (s : State) (d t : Nat) (e : LevEntry) : State :=
  { s with leaven := { s.leaven with
    act := e.w.zipIdx.foldl (fun a p => a.set 0 (levKey d t p.2) (BitVec.ofNat 32 p.1)) s.leaven.act
    hist := e.hist.zipIdx.foldl (fun a p => a.set 0 (levHistKey d t p.2) (BitVec.ofNat 32 p.1)) s.leaven.hist } }

/-- Seal processing of every entry of a die (R41), with the promotion and demotion counters of R423. -/
def State.levSeal (s : State) (d step : Nat) : State :=
  (List.range (s.leaven.count.get 0 d)).foldl (fun t i =>
    let r := (t.levEntry d i).seal step
    let t1 := t.putLevEntry d i r.1
    let t2 := if r.2.1 then t1.count (regAddr Page.leaven (0x40 + 8 * d)) 1 else t1
    if r.2.2 then t2.count (regAddr Page.leaven (0x44 + 8 * d)) 1 else t2) s

/-- A W0 value that an image may hold (R157, R423): formats not reserved, SCALE_KIND not 3, MARGIN at most 4, and
with PROMOTE_EN a ceiling that is the base or stands above it on the base's ladder. (Log entry 200.) -/
def levW0Ok (w0 : Nat) : Bool :=
  match Format.ofCode? (bitsOf w0 7 4), Format.ofCode? (bitsOf w0 11 8) with
  | some base, some ceil =>
    decide (bitsOf w0 31 30 ≠ 3) && decide (bitsOf w0 14 12 ≤ 4) &&
      (!bitOf w0 15 || atOrAbove base ceil)
  | _, _ => false

/-- A write to a word of an entry through the page section (R423): SH bits go to the shadow set; a W0 that an
image could not hold is ignored whole; entries at or above COUNT ignore writes. -/
def State.writeLev (s : State) (d t w : Nat) (v : Word) : State :=
  let m := levShMask w
  if s.leaven.count.get 0 d ≤ t ∨ m = 0 then s
  else if w = 0 ∧ levW0Ok v.toNat = false then s
  else
    let old := BitVec.ofNat 32 (s.levShadow d t w)
    let mw := BitVec.ofNat 32 m
    { s with leaven := { s.leaven with
      shNew := s.leaven.shNew.set none (levKey d t w) (some ((old &&& ~~~mw) ||| (v &&& mw))) } }

/-- ENTRY and HSLOT of a die's section (R423). -/
def State.levSel (s : State) (d : Nat) : Nat × Nat :=
  let w := s.rwAt (regAddr Page.leaven (0x100 + 0x100 * d))
  (fld w 11 0, fld w 17 12)

/-- LEAVEN_W0_WRITE (R423): a write to W0 of the entry selected in a die's section. -/
def execLeavenW0Write (d : Die) (v : Word) (s : State) : Host.Outcome State Fault Refusal :=
  .next (s.writeLev d.val (s.levSel d.val).1 0 v)

end Sys2Proof.Machine
end

