-- ==== Sys2Proof/Machine/Links.lean ====
section
/-! DEFINITION. The Diviwin link layer: states, training, flits, replay, credits, lane retirement and heartbeats (R316 to R328, R336,
R340, R341). -/

namespace Sys2Proof.Machine

/-- A sub-port by port code, and the port of a code. -/
def State.subP (s : State) (code : Nat) : SubPort := s.subs.get SubPort.reset code
def State.setSub (s : State) (code : Nat) (x : SubPort) : State := { s with subs := s.subs.set SubPort.reset code x }
def State.updSub (s : State) (code : Nat) (g : SubPort → SubPort) : State := s.setSub code (g (s.subP code))
def portOf (code : Nat) : Nat := code / 4
def State.portP (s : State) (n : Nat) : LinkPort := s.ports.get LinkPort.reset n

/-- A register and a counter of a port page; a register of a sub-port (R340). -/
def portReg (n off : Nat) : Nat := regAddr (Page.port n) off
def State.portCount (s : State) (code off n : Nat) : State := s.count (portReg (portOf code) off) n
def subReg (code off : Nat) : Nat := portReg (portOf code) (0x100 + 0x40 * (code % 4) + off)

/-- EN, BIFUR as it is read, and LANE_MARGIN_MIN of a port; a BIFUR of 3 reads as 0 (R316). -/
def State.lnkEn (s : State) (n : Nat) : Bool := (s.rwAt (portReg n 0x104)).getLsbD 0
def State.bifurReg (s : State) (n : Nat) : Nat := fld (s.rwAt (portReg n 0x104)) 2 1 % 3
def State.marginMin (s : State) (n : Nat) : Nat := fld (s.rwAt (portReg n 0x104)) 10 3

/-- Sub-ports of a bifurcation, and the lane bits of sub-port `k` (R316). -/
def subCount (bifur : Nat) : Nat := 2 ^ bifur
def laneBits (bifur k : Nat) : Nat :=
  let w := 32 / 2 ^ bifur
  (2 ^ w - 1) * 2 ^ (w * k)

/-- The number of lanes in a lane mask. -/
def laneCount (m : Nat) : Nat := ((List.range 32).filter fun i => bitOf m i).length

/-- A sub-port carries flits (R317). -/
def SubPort.carries (x : SubPort) : Bool := x.state = .up || x.state = .degraded

/-- The payload of a link or collective record (R341). -/
def State.linkPayload (s : State) (code lane cause group tick active : Nat) : List Byte :=
  payload [(0, 2, code), (2, 1, lane), (3, 1, cause), (4, 2, group), (6, 4, tick), (10, 2, active), (12, 4, s.ctl.stepNo)]

/-- The payload of a collective record that names a port: its last heartbeat and its active lanes go with it (R341). -/
def State.portPayload (s : State) (code cause group : Nat) : List Byte :=
  s.linkPayload code 0xFF cause group (s.subP code).lastHb (laneCount (s.subP code).active)

/-- A message that cannot be taken is discarded, counted and reported (R328, R341). -/
def State.badMessage (s : State) (code group : Nat) : State :=
  (s.portCount code 0x64 1).raise Page.coll Code.colConfigInvalid (s.portPayload code 4 group)

/-- Raise a record of a sub-port. -/
def State.linkRaise (s : State) (code ev lane cause : Nat) : State :=
  let x := s.subP code
  s.raise (Page.port (portOf code)) ev (s.linkPayload code lane cause 0xFFFF x.lastHb (laneCount x.active))

/-- Default credits of VC1 to VC5, and the least value of each (R325). -/
def defaultCredits : List Nat := [512, 256, 320, 256, 160]
abbrev minCredits : Nat := 16
abbrev maxCreditSum : Nat := 1504
abbrev vc0Credits : Nat := 32
/-- The replay buffer in flits, and the payload of a flit in bytes (R321, R322). -/
abbrev replayFlits : Nat := 512
abbrev flitBytes : Nat := 247

/-- The credits that the registers of a sub-port hold, and whether they pass the check of R325. -/
def State.credRegs (s : State) (code : Nat) : List Nat := (List.range 5).map fun v => fld (s.rwAt (subReg code (0x20 + 4 * v))) 10 0
def credOk (l : List Nat) : Bool := l.all (fun c => decide (minCredits ≤ c)) && decide (l.sum ≤ maxCreditSum)

/-- LNK_PORT_DOWN: the sub-port goes DOWN with a cause (R317, R318, R324). -/
def State.portDown (s : State) (code cause : Nat) : State :=
  (s.updSub code fun x => { x with state := .down, downCause := cause }).linkRaise code Code.lnkPortDown 0xFF cause

/-- A sub-port leaves its state for TRAINING (R317, R336): PEER_LOST clears. -/
def SubPort.train (x : SubPort) (lanes : Nat) : SubPort := { x with state := .training, lanes := lanes, peerLost := false, live := false }

/-- Full training of a sub-port ends (R317, R318, R325): UP with every lane, with the peer's credits and fresh sequence numbers, or
DOWN. The count of R336 starts at this tick. -/
def State.trained (s : State) (code : Nat) (r : TrainResult) : State :=
  let x := s.subP code
  match r with
  | .failed => s.portDown code 1
  | .tooFar => s.portDown code 3
  | .up peer =>
    let cr := (vc0Credits :: peer.toList.map BitVec.toNat).zipIdx.foldl (fun (t : Tbl Nat) p => t.set 0 p.2 p.1) .empty
    s.setSub code { SubPort.reset with
      state := .up, lanes := x.lanes, active := x.lanes, lastHb := s.cad.tickNo, live := true, credits := cr
      credDefault := !credOk (s.credRegs code), ackUs := s.nowUs }

/-- Port `n` starts training under its BIFUR (R316): every new sub-port enters TRAINING. -/
def State.formPort (s : State) (n : Nat) : State :=
  let b := s.bifurReg n
  let s1 := [0, 1, 2, 3].foldl (fun t k => t.setSub (4 * n + k) SubPort.reset) s
  let s2 := { s1 with ports := s1.ports.set LinkPort.reset n { s1.portP n with bifur := b } }
  (List.range (subCount b)).foldl (fun t k => t.updSub (4 * n + k) fun x => x.train (laneBits b k)) s2

/-- TRAINING_END (R318): the training of a sub-port ends; a port retrain command ends with its last sub-port (R379). -/
def execTrainingEnd (code : PortCode) (r : TrainResult) (s : State) : Host.Outcome State Fault Refusal :=
  if s.still then .next s else
  if (s.subP code.val).state ≠ .training then .next s
  else
    let s1 := s.trained code.val r
    if (List.range 96).any fun c => (s1.subP c).state = .training then .next s1
    else .next (s1.endLong 0x0032 stOk 0)

/-- VC_WEIGHT of a channel in percent; VC5 takes the rest (R325). -/
def State.vcWeight (s : State) (n vc : Nat) : Nat :=
  let w := fun i => fld (s.rwAt (portReg n 0x108)) (8 * i + 7) (8 * i)
  if vc = 5 then 100 - (w 0 + w 1 + w 2 + w 3) else w (vc - 1)

/-- QUIESCE_REQ of a port (R410). -/
def State.portQuiesce (s : State) (n : Nat) : Bool := (s.rwAt (portReg n 8)).getLsbD 1

/-- A channel may send its next flit (R325, R410): it has traffic waiting and credit, and starts no new message on VC1 to VC5 under
QUIESCE_REQ. -/
def State.vcMay (s : State) (code v : Nat) : Bool :=
  let x := s.subP code
  match x.waiting.get [] v with
  | [] => false
  | q :: _ => decide (0 < x.credits.get 0 v) && !(v ≠ 0 && q.1 && s.portQuiesce (portOf code))

/-- The channel whose flit goes next (R325): VC0 before all others; among VC1 to VC5 the one whose account is least, the lower number first
(log entry 59). -/
def State.nextVc (s : State) (code : Nat) : Option Nat :=
  if s.vcMay code 0 then some 0
  else
    let cost := fun v => (s.subP code).sent.get 0 v
    ([1, 2, 3, 4, 5].filter (s.vcMay code)).foldl (fun a v => match a with
      | none => some v
      | some b => if cost v < cost b then some v else some b) none

/-- What a flit of a channel adds to its account: the less, the higher its weight (R325; log entry 59). -/
def State.flitCost (s : State) (code v : Nat) : Nat := 100000 / max 1 (s.vcWeight (portOf code) v)

/-- The header of a flit as a number of 40 bits (R321). -/
def flitHead (typ vc : Nat) (som eom : Bool) (seq ack crdVc crd : Nat) : Nat :=
  typ % 8 + 2 ^ 3 * (vc % 8) + 2 ^ 6 * b2n som + 2 ^ 7 * b2n eom + 2 ^ 8 * (seq % 2048) + 2 ^ 19 * (ack % 2048) + 2 ^ 30 * (crdVc % 8) +
    2 ^ 33 * (crd % 128)

/-- Header and payload of a flit in bytes; what a message leaves of the payload is 0 (R321; log entry 220). -/
def flitBody (head : Nat) (payload : List Byte) : List Byte :=
  leBytes 5 head ++ (payload ++ List.replicate flitBytes 0).take flitBytes

/-- The 256 bytes of a flit that has left: header, payload, CRC-32C of both (R321). -/
def OutFlit.bytes (f : OutFlit) : List Byte :=
  let b := flitBody (flitHead f.typ f.vc f.som f.eom f.seq f.ack f.crdVc f.crd) f.payload
  b ++ leBytes 4 (crc32c b)

/-- A flit leaves (R321, R326): it carries the ACK of the last flit taken in, and returns the credits of the lowest channel that has some. -/
def SubPort.put (x : SubPort) (typ vc : Nat) (som eom : Bool) (seq : Nat) (payload : List Byte) : SubPort :=
  let v := ((List.range 6).find? fun v => decide (0 < x.returned.get 0 v)).getD 0
  let n := min 127 (x.returned.get 0 v)
  let f : OutFlit :=
    { typ := typ, vc := vc, som := som, eom := eom, seq := seq, ack := (x.expect + 2047) % 2048, crdVc := v, crd := n, payload := payload }
  { x with out := x.out ++ [f], returned := x.returned.set 0 v (x.returned.get 0 v - n) }

/-- A flit without sequence number leaves: 0 IDLE, 2 NAK (R321). -/
def State.putPlain (s : State) (code typ : Nat) : State :=
  (s.updSub code fun x => x.put typ 0 false false 0 []).portCount code 0x40 1

/-- Flits of the replay buffer leave again (R322). -/
def State.putReplay (s : State) (code : Nat) : State :=
  let x := s.subP code
  (s.setSub code (x.replay.foldl (fun y f => y.put 1 f.vc f.som f.eom f.seq f.payload) x)).portCount code 0x40 x.replay.length

/-- One flit of channel `v` leaves and is kept in the replay buffer (R322, R326). -/
def State.sendFlit (s : State) (code v : Nat) : State :=
  let x := s.subP code
  match x.waiting.get [] v with
  | [] => s
  | f :: rest =>
    let t : TxFlit := { seq := x.nextSeq, vc := v, som := f.1, eom := f.2.1, payload := f.2.2 }
    (s.setSub code { x.put 1 v f.1 f.2.1 x.nextSeq f.2.2 with
      nextSeq := (x.nextSeq + 1) % 2048
      replay := x.replay ++ [t]
      ackUs := if x.replay.isEmpty then s.nowUs else x.ackUs
      credits := x.credits.set 0 v (x.credits.get 0 v - 1)
      sent := if v = 0 then x.sent else x.sent.set 0 v (x.sent.get 0 v + s.flitCost code v)
      turn := if v = 0 then x.turn else x.sent.get 0 v
      waiting := x.waiting.set [] v rest }).portCount code 0x40 1

/-- Flits leave while the sub-port carries them, credit and the replay buffer admit them (R322, R326). -/
def State.pump (s : State) (code : Nat) : State :=
  (List.range replayFlits).foldl (fun t _ =>
    let x := t.subP code
    if !x.carries || decide (replayFlits ≤ x.replay.length) then t
    else match t.nextVc code with
      | none => t
      | some v => t.sendFlit code v) s

/-- The header of a message (R328). -/
def msgHeader (kind id src flags off len tick : Nat) : List Byte :=
  record 16 [(0, 4, kind + 16 * id + 65536 * src + 2 ^ 28 * flags), (4, 4, off), (8, 4, len), (12, 4, tick)]

/-- Flits join a channel's queue; a channel that had none waiting has no claim on the time before (R325; log entry 59). -/
def SubPort.queue (x : SubPort) (vc : Nat) (fl : List (Bool × Bool × List Byte)) : SubPort :=
  { x with
    waiting := x.waiting.set [] vc (x.waiting.get [] vc ++ fl)
    sent := if (x.waiting.get [] vc).isEmpty then x.sent.set 0 vc (max (x.sent.get 0 vc) x.turn) else x.sent }

/-- A message is cut into flits and joins its channel's queue (R326, R328). -/
def State.sendMsg (s : State) (code vc kind id src flags off : Nat) (data : List Byte) : State :=
  let bs := msgHeader kind id src flags off data.length s.cad.tickNo ++ data
  let cut := chunks flitBytes (bs.length / flitBytes + 1) bs
  let fl := cut.zipIdx.map fun p => (decide (p.2 = 0), decide (p.2 + 1 = cut.length), p.1)
  (s.updSub code fun x => x.queue vc fl).pump code

/-- The heartbeat of a tick (R336): tick number in the header, device state, step number and REPLICA_ID; its data layout is log entry
60. -/
def State.heartbeat (s : State) (code : Nat) : State :=
  if (s.subP code).carries then
    s.sendMsg code 0 0 0 (s.replicaId 0) 0 0 (record 8 [(0, 1, s.ctl.state.code), (4, 4, s.ctl.stepNo)])
  else s

/-- What every intact flit brings (R321, R322): its ACK frees replay-buffer entries, its credit return adds credits. An ACK that covers
nothing of the replay buffer changes nothing. -/
def State.takeAck (s : State) (code : Nat) (h : FlitHdr) : State :=
  let x := s.subP code
  let n := match x.replay.findIdx? fun f => f.seq = h.ack.toNat with
    | some i => i + 1
    | none => 0
  let v := h.crdVc.toNat
  let x1 := { x with credits := if v ≤ 5 then x.credits.set 0 v (x.credits.get 0 v + h.crd.toNat) else x.credits }
  let x2 := if n = 0 then x1 else { x1 with replay := x1.replay.drop n, ackUs := s.nowUs, retries := 0 }
  s.setSub code x2

/-- The code corrects up to 15 symbols of a codeword (R320). -/
def wordFixable (w : CodeWord) : Bool := decide (w.errs.length ≤ 15)

/-- The lane of symbol `i` of a codeword: the active lanes take the symbols round robin, in ascending order (R320). -/
def symbolLane (active i : Nat) : Nat :=
  let l := (List.range 32).filter fun n => bitOf active n
  l.getD (i % max 1 l.length) 0

/-- What the FEC decoder counts of the codewords that end with a flit (R320, R340). -/
def State.fec (s : State) (code : Nat) (h : FlitHdr) : State :=
  let n := portOf code
  let p := s.portP n
  let act := (s.subP code).active
  let done := h.words.filter CodeWord.ends
  let fixed := done.filter fun w => wordFixable w && !w.errs.isEmpty
  let p1 := { p with corr := (fixed.flatMap CodeWord.errs).foldl (fun t i => t.upd 0 (symbolLane act i.val) (· + 1)) p.corr }
  let s1 := { s with ports := s.ports.set LinkPort.reset n p1 }
  (s1.portCount code 0x50 fixed.length).portCount code 0x54 (done.filter fun w => !wordFixable w).length

/-- The CRC of a flit holds (R321): `typ` and what follows are its own fields. -/
def flitCrcHolds (h : FlitHdr) (typ : Nat) (vc : Nat) (som eom : Bool) (seq : Nat) (payload : List Byte) : Bool :=
  decide (h.crc.toNat = crc32c (flitBody (flitHead typ vc som eom seq h.ack.toNat h.crdVc.toNat h.crd.toNat) payload))

/-- Every codeword that carried the flit could be corrected (R320). -/
def flitDecoded (h : FlitHdr) : Bool := h.words.all wordFixable

/-- A DATA flit, and an IDLE or NAK flit, is received intact (R320 to R322). -/
def dataCrcOk (f : Flit) : Bool := flitCrcHolds f.hdr 1 f.vc.toNat f.som f.eom f.seq.toNat f.payload
def dataGood (f : Flit) : Bool := flitDecoded f.hdr && dataCrcOk f
def plainCrcOk (h : FlitHdr) (typ : Nat) : Bool := flitCrcHolds h typ 0 false false 0 []
def plainGood (h : FlitHdr) (typ : Nat) : Bool := flitDecoded h && plainCrcOk h typ

/-- A resend from ACK + 1: one retry (R322, R323). At the ninth the lane retirement is due. -/
def State.resend (s : State) (code : Nat) : State :=
  let x := s.subP code
  if x.replay.isEmpty then s
  else
    let s1 := s.setSub code { x with retries := min 9 (x.retries + 1), ackUs := s.nowUs }
    if 8 ≤ x.retries then s1 else (s1.portCount code 0x4C 1).putReplay code

/-- A NAK leaves, once for a gap: its ACK is the last good sequence (R322). -/
def State.sendNak (s : State) (code : Nat) : State :=
  if (s.subP code).nak then s else (s.updSub code fun x => { x with nak := true }).putPlain code 2

/-- What is new for the peer leaves (R321, R326): flits that wait, or, where none can, an IDLE flit with the ACK and the credit. -/
def State.tellPeer (s : State) (code : Nat) : State :=
  let t := s.pump code
  if (t.subP code).out.length = (s.subP code).out.length then t.putPlain code 0 else t

/-- The greatest length of a message's data (R328). -/
abbrev maxMsg : Nat := 65600

/-- A whole message has been received (R328): a reserved KIND, or a length that is not that of its data or is out of range, discards it
and raises COL_CONFIG_INVALID with cause 4. -/
def State.receive (s : State) (code vc : Nat) (bs : List Byte) : State :=
  let kind := bitsOf (leAt bs 0 4) 3 0
  let len := leAt bs 8 4
  if 7 < kind ∨ bs.length < 16 ∨ maxMsg < len ∨ bs.length - 16 < len then
    s.badMessage code 0xFFFF
  else s.updSub code fun x => { x with rx := x.rx ++ [(vc, bs.take (16 + len))] }

/-- The flit has arrived: the codewords and the flit are counted, and so is a CRC that fails (R320, R321, R340). -/
def State.countFlit (s : State) (code : Nat) (h : FlitHdr) (crcOk : Bool) : State :=
  let s1 := (s.fec code h).portCount code 0x44 1
  if crcOk then s1 else s1.portCount code 0x48 1

/-- DATA_FLIT (R320 to R322, R326): in sequence and intact, its ACK is taken, its credit returns, with its last flit a message is received, and
the next flit out acknowledges it. A failed flit, and one out of sequence, is discarded with a NAK; a repeated one is discarded. -/
def execDataFlit (code : PortCode) (f : Flit) (s : State) : Host.Outcome State Fault Refusal :=
  if s.still then .next s else
  let c := code.val
  if !(s.subP c).carries then .next s
  else
    let s1 := s.countFlit c f.hdr (dataCrcOk f)
    if !dataGood f then .next (s1.sendNak c)
    else
      let s2 := s1.takeAck c f.hdr
      let x := s2.subP c
      let v := f.vc.toNat
      if f.seq.toNat ≠ x.expect then
        let ahead := decide ((f.seq.toNat + 2048 - x.expect) % 2048 < 1024)
        .next ((if ahead then s2.sendNak c else s2).tellPeer c)
      else
        let bs := (if f.som then [] else x.part.get [] v) ++ f.payload
        let s3 := s2.setSub c { x with
          expect := (x.expect + 1) % 2048, nak := false, returned := x.returned.set 0 v (x.returned.get 0 v + 1)
          part := x.part.set [] v (if f.eom then [] else bs) }
        .next ((if f.eom then s3.receive c v bs else s3).tellPeer c)

/-- NAK_FLIT (R322): the transmitter sends again from ACK + 1, then what waits. -/
def execNakFlit (code : PortCode) (h : FlitHdr) (s : State) : Host.Outcome State Fault Refusal :=
  if s.still then .next s else
  if !(s.subP code.val).carries then .next s
  else
    let s1 := s.countFlit code.val h (plainCrcOk h 2)
    if plainGood h 2 then .next (((s1.takeAck code.val h).resend code.val).pump code.val) else .next s1

/-- IDLE_FLIT (R321, R322): its ACK and credit return are taken, and what waits leaves. -/
def execIdleFlit (code : PortCode) (h : FlitHdr) (s : State) : Host.Outcome State Fault Refusal :=
  if s.still then .next s else
  if !(s.subP code.val).carries then .next s
  else
    let s1 := s.countFlit code.val h (plainCrcOk h 0)
    if plainGood h 0 then .next ((s1.takeAck code.val h).pump code.val) else .next s1

/-- ACK_TIMEOUT (R322): no ACK has advanced for 2 µs while flits are unacknowledged. -/
def execAckTimeout (code : PortCode) (s : State) : Host.Outcome State Fault Refusal :=
  if s.still then .next s else
  let x := s.subP code.val
  if x.carries && !x.replay.isEmpty && decide (x.ackUs + 2 ≤ s.nowUs) then .next (s.resend code.val) else .next s

/-- A lane is retired (R323, R324): LNK_LANE_RETIRED; then a fast retrain on what is left, or DOWN with cause 2 when fewer than a
quarter of the lanes remain. -/
def State.retireLane (s : State) (code lane cause : Nat) : State :=
  let x := s.subP code
  if !bitOf x.active lane then s
  else
    let act := x.active - 2 ^ lane
    let s1 := (s.setSub code { x with active := act, retired := x.retired ||| 2 ^ lane, retries := min 8 x.retries, low := x.low.set 0 lane 0 }).portCount
      code 0x58 1
    let s2 := s1.linkRaise code Code.lnkLaneRetired lane cause
    if 4 * laneCount act < laneCount x.lanes then s2.portDown code 2
    else (s2.updSub code fun y => { y with state := .retraining, retrainUs := s.nowUs }).portCount code 0x5C 1

/-- The active lane with the most uncorrectable symbols, the lower one on a tie (R323). -/
def worstLane (active : Nat) (uncorr : List (Fin 32 × Nat)) : Option Nat :=
  let n := fun l => (uncorr.filterMap fun p => if p.1.val = l then some p.2 else none).sum
  ((List.range 32).filter fun l => bitOf active l).foldl (fun a l => match a with
    | none => some l
    | some b => if n b < n l then some l else some b) none

/-- LNK_LANE_RETIRED (R323): the retry count would reach 9 while codeword lock holds; the operand gives the uncorrectable symbols of
each lane since the first of the retries. -/
def execLnkLaneRetired (code : PortCode) (uncorr : List (Fin 32 × Nat)) (s : State) : Host.Outcome State Fault Refusal :=
  if s.still then .next s else
  let x := s.subP code.val
  if x.carries && decide (9 ≤ x.retries) then
    match worstLane x.active uncorr with
    | some l => .next (s.retireLane code.val l 1)
    | none => .next s
  else .next s

/-- LANE_MARGIN_LIMIT (R319): a lane's margin has been below LANE_MARGIN_MIN for 16 consecutive ticks. -/
def execLaneMarginLimit (code : PortCode) (lane : Fin 32) (s : State) : Host.Outcome State Fault Refusal :=
  if s.still then .next s else
  let x := s.subP code.val
  if x.carries && decide (16 ≤ x.low.get 0 lane.val) then .next (s.retireLane code.val lane.val 2) else .next s

/-- The margins of a tick (R319): each lane's report, and its run of ticks below the limit. -/
def State.takeMargin (s : State) (n lane m : Nat) : State :=
  let p := s.portP n
  let s1 := { s with ports := s.ports.set LinkPort.reset n { p with margin := p.margin.set 0 lane m } }
  [0, 1, 2, 3].foldl (fun t k =>
    let x := t.subP (4 * n + k)
    if x.carries && bitOf x.active lane then
      t.setSub (4 * n + k) { x with low := x.low.set 0 lane (if m < s.marginMin n then x.low.get 0 lane + 1 else 0) }
    else t) s1

/-- LOCK_LOSS (R323): loss of signal or codeword lock starts a fast retrain and retires no lane. -/
def execLockLoss (code : PortCode) (s : State) : Host.Outcome State Fault Refusal :=
  if s.still then .next s else
  let x := s.subP code.val
  if x.carries then
    .next ((s.setSub code.val { x with state := .retraining, retrainUs := s.nowUs }).portCount code.val 0x5C 1)
  else .next s

/-- The longest fast retrain, in µs (R324). -/
abbrev retrainMax : Nat := 250

/-- FAST_RETRAIN_END (R317, R323, R324): success within 250 µs leaves UP with every lane, else DEGRADED, and traffic resumes with the first
unacknowledged flit; otherwise the sub-port goes DOWN with cause 1. -/
def execFastRetrainEnd (code : PortCode) (ok : Bool) (s : State) : Host.Outcome State Fault Refusal :=
  if s.still then .next s else
  let x := s.subP code.val
  if x.state ≠ .retraining then .next s
  else if ok && decide (s.nowUs ≤ x.retrainUs + retrainMax) then
    let st := if laneCount x.active = laneCount x.lanes then LinkState.up else .degraded
    .next (((s.setSub code.val { x with state := st, ackUs := s.nowUs }).putReplay code.val).pump code.val)
  else .next (s.portDown code.val 1)

/-- The first message of a KIND that a sub-port has received, and the state without it; a window credit, which has the KIND of collective data
on VC0, is none (log entry 221). -/
def State.takeMsg (s : State) (code kind : Nat) : Option (List Byte × State) :=
  let x := s.subP code
  let is := fun (m : Nat × List Byte) => bitsOf (leAt m.2 0 4) 3 0 = kind && !(kind = 3 && m.1 = 0)
  match x.rx.find? is with
  | none => none
  | some m => some (m.2, s.setSub code { x with rx := eraseFirst is x.rx })

/-- ID, SRC, FLAGS and OFFSET of a message, and its data (R328). -/
def msgId (m : List Byte) : Nat := bitsOf (leAt m 0 4) 15 4
def msgSrc (m : List Byte) : Nat := bitsOf (leAt m 0 4) 27 16
def msgFlags (m : List Byte) : Nat := bitsOf (leAt m 0 4) 31 28
def msgOffset (m : List Byte) : Nat := leAt m 4 4
def msgData (m : List Byte) : List Byte := m.drop 16

/-- HEARTBEAT (R336): L becomes the present tick and PEER_ID the sender's REPLICA_ID; one that comes after the peer was declared lost is
counted and ignored. -/
def execHeartbeat (code : PortCode) (s : State) : Host.Outcome State Fault Refusal :=
  if s.still then .next s else
  match s.takeMsg code.val 0 with
  | none => .next s
  | some (m, s1) =>
    if (s1.subP code.val).peerLost then .next (s1.portCount code.val 0x60 1)
    else .next (s1.updSub code.val fun x => { x with lastHb := s.cad.tickNo, peerId := msgSrc m })

/-- LNK_PARTITION (R336): at tick L + 4 the peer is lost. -/
def execLnkPartition (code : PortCode) (s : State) : Host.Outcome State Fault Refusal :=
  if s.still then .next s else
  let x := s.subP code.val
  if x.live && !x.peerLost && decide (x.lastHb + 4 ≤ s.cad.tickNo) then
    .next ((s.setSub code.val { x with peerLost := true }).linkRaise code.val Code.lnkPartition 0xFF 0)
  else .next s

/-- The most data bytes that the package puts into one message of an entry or of bulk data (log entry 61). -/
abbrev pieceBytes : Nat := 65536

/-- The collectives engine on the edge die of a port code (R331). -/
def colUnitOf (code : Nat) : MemUnit := .collectives (Fin.ofNat 2 (code / 48))

/-- A word of a conduit entry in force (R329). -/
def State.conduitWord (s : State) (c w : Nat) : Nat := (s.shAt (winConduit c w)).toNat
/-- PORT, PEER, ENTRIES, ENTRY_BYTES and the send area of a conduit (R329). -/
def State.cndValid (s : State) (k : Nat) : Bool := bitOf (s.conduitWord k 0) 0
def State.cndVc (s : State) (k : Nat) : Nat := bitsOf (s.conduitWord k 0) 3 1
def State.cndPort (s : State) (k : Nat) : Nat := bitsOf (s.conduitWord k 0) 10 4
def State.cndPeer (s : State) (k : Nat) : Nat := bitsOf (s.conduitWord k 0) 15 11
def State.cndEntries (s : State) (k : Nat) : Nat := bitsOf (s.conduitWord k 0) 21 16 + 1
def State.cndBytes (s : State) (k : Nat) : Nat := s.conduitWord k 3
def State.cndSend (s : State) (k : Nat) : Nat := (s.conduitWord k 4 + 2 ^ 32 * bitsOf (s.conduitWord k 5) 7 0) * 64

/-- The state of a conduit. -/
def State.cnd (s : State) (k : Nat) : Conduit := s.col.conduits.get Conduit.none k
def State.setCnd (s : State) (k : Nat) (c : Conduit) : State :=
  { s with col := { s.col with conduits := s.col.conduits.set Conduit.none k c } }

/-- Bytes of the member `src` go out in messages of at most 65,536 data bytes, the offset rising (R328), with POISON where the bytes
carry it (R286); the last of them is marked as the last of the transfer (log entry 222). -/
def State.sendFrom (s : State) (code vc kind id src off : Nat) (bs : List Byte) (poison : Bool) : State :=
  let l := chunks pieceBytes (bs.length / pieceBytes + 1) bs
  l.zipIdx.foldl (fun t p =>
    t.sendMsg code vc kind id src (2 * b2n poison + 4 * b2n (p.2 + 1 = l.length)) (off + pieceBytes * p.2) p.1) s

/-- Bytes of this package go out. -/
def State.sendBytes (s : State) (code vc kind id off : Nat) (bs : List Byte) (poison : Bool) : State :=
  s.sendFrom code vc kind id (s.replicaId 0) off bs poison

/-- The first entry handed over goes out, if the receiver has announced it as free (R330). -/
def State.cndStep (s : State) (k : Nat) : State :=
  let c := s.cnd k
  match c.handed with
  | [] => s
  | i :: rest =>
    if !c.free.contains i then s
    else
      let a := s.cndSend k + i * s.cndBytes k
      let r := s.loadFor (colUnitOf (s.cndPort k)) a (s.cndBytes k) 0xFFFF
      let wait := match rest with
        | [] => none
        | j :: _ => if c.free.contains j then none else some s.cad.tickNo
      ((r.2.countPoison (touchedGranules a (s.cndBytes k))).setCnd k { c with handed := rest, free := eraseFirst (· = i) c.free, waitFrom := wait }).sendBytes
        (s.cndPort k) (s.cndVc k) 1 (s.cndPeer k) (i * s.cndBytes k) r.1 (s.poisonedAt a (s.cndBytes k))

/-- Every entry that can go out does. -/
def State.cndPump (s : State) (k : Nat) : State := (List.range 64).foldl (fun t _ => t.cndStep k) s

/-- The next entry of the send area is handed to a conduit (R330). -/
def State.handToConduit (s : State) (k : Nat) : State :=
  let c := s.cnd k
  let wait := if c.free.contains c.next then c.waitFrom else c.waitFrom.orElse fun _ => some s.cad.tickNo
  (s.setCnd k { c with handed := c.handed ++ [c.next], next := (c.next + 1) % s.cndEntries k, waitFrom := wait }).cndPump k

/-- A destination entry is announced as free by a conduit notice on VC0 (R330); it names the entry by its offset (log entry 61). -/
def State.announceFree (s : State) (k i : Nat) : State :=
  State.sendMsg { s with col := { s.col with notices := s.col.notices ++ [.free k i] } } (s.cndPort k) 0 2 (s.cndPeer k)
    (s.replicaId 0) 0 (i * s.cndBytes k) [0]

end Sys2Proof.Machine
end

