-- ==== Sys2Proof/Machine/Image.lean ====
section
/-! DEFINITION. The configuration image of a compute die: where its parts lie, the checks at load, and the records
that the hardware reads from it (R122, R142, R143, R154 to R157, R175 to R179). -/

namespace Sys2Proof.Machine

/-- The key of a byte of image set `set` of die `d`. -/
def imgKey (d set off : Nat) : Nat := (2 * d + set) * 2 ^ 25 + off

/-- The fabric of a die. -/
def State.fabD (s : State) (d : Nat) : FabDie := s.fab.get FabDie.reset d
/-- Put the fabric of a die back. -/
def State.setFab (s : State) (d : Nat) (f : FabDie) : State := { s with fab := s.fab.set FabDie.reset d f }
/-- Change the fabric of a die. -/
def State.updFab (s : State) (d : Nat) (g : FabDie → FabDie) : State := s.setFab d (g (s.fabD d))

/-- The active and the shadow set of a die. -/
def State.activeOf (s : State) (d : Nat) : Nat := (s.fabD d).activeSet
def State.shadowOf (s : State) (d : Nat) : Nat := 1 - (s.fabD d).activeSet

/-- The 32-bit word at a byte offset of an image set. -/
def State.imgWord (s : State) (d set off : Nat) : Nat :=
  leNat ((List.range 4).map fun i => s.img.get 0 (imgKey d set (off + i)))

/-- `n` words from a byte offset of an image set. -/
def State.imgWords (s : State) (d set off n : Nat) : List Nat :=
  (List.range n).map fun i => s.imgWord d set (off + 4 * i)

/-- The nine sections of the directory (R155): reed records, engine ports, stream ports, multicast lists, Leaven
entries, credit table, local-store preload, step program; section 0 is the header itself. -/
abbrev secReeds : Nat := 1
abbrev secEngPorts : Nat := 2
abbrev secStreams : Nat := 3
abbrev secMcast : Nat := 4
abbrev secLeaven : Nat := 5
abbrev secCredit : Nat := 6
abbrev secPreload : Nat := 7
abbrev secProgram : Nat := 8

/-- Offset and length of a section (R156). -/
def State.imgSec (s : State) (d set k : Nat) : Nat × Nat :=
  (s.imgWord d set (64 + 8 * k), s.imgWord d set (68 + 8 * k))

/-- BUILD_ID of an image set (R156). -/
def State.buildId (s : State) (d set : Nat) : Nat := s.imgWord d set 16 + 2 ^ 32 * s.imgWord d set 20

/-- LEAVEN_COUNT and DECL_COUNT (R156). -/
def State.imgLeavenCount (s : State) (d set : Nat) : Nat := bitsOf (s.imgWord d set 24) 16 4
def State.imgDeclCount (s : State) (d set : Nat) : Nat := bitsOf (s.imgWord d set 28) 14 0

/-- The record of a reed as 64 words (R154); a record beyond the section's length is OFF. -/
def State.reedRec (s : State) (d set r : Nat) : List Nat :=
  let sec := s.imgSec d set secReeds
  if 256 * r + 256 ≤ sec.2 then s.imgWords d set (sec.1 + 256 * r) 64 else List.replicate 64 0

/-- The record of an engine port (R142): 8 × engine + port. -/
def State.engPortRec (s : State) (d set i : Nat) : List Nat :=
  let sec := s.imgSec d set secEngPorts
  if 16 * i + 16 ≤ sec.2 then s.imgWords d set (sec.1 + 16 * i) 4 else List.replicate 4 0

/-- The record of a stream port (R143). -/
def State.spRec (s : State) (d set p : Nat) : List Nat :=
  let sec := s.imgSec d set secStreams
  if 64 * p + 64 ≤ sec.2 then s.imgWords d set (sec.1 + 64 * p) 16 else List.replicate 16 0

/-- A multicast list entry (R122). -/
def State.mcastRec (s : State) (d set l : Nat) : List Nat :=
  let sec := s.imgSec d set secMcast
  if 16 * l + 16 ≤ sec.2 then s.imgWords d set (sec.1 + 16 * l) 4 else List.replicate 4 0

/-- Fields of a multicast list entry (R122). -/
def mcMember (r : List Nat) (e : Nat) : Bool := ((r.getD 0 0) + 2 ^ 32 * bitsOf (r.getD 1 0) 3 0).testBit e
def mcLeader (r : List Nat) : Nat := bitsOf (r.getD 1 0) 9 4
def mcRegion (r : List Nat) : Nat := bitsOf (r.getD 1 0) 26 10 * 64
def mcDepth (r : List Nat) : Nat := bitsOf (r.getD 1 0) 29 27 + 1
def mcValid (r : List Nat) : Bool := bitOf (r.getD 1 0) 31

/-- The words of Leaven entry `t` of an image set (R37). -/
def State.imgLeaven (s : State) (d set t : Nat) : List Nat :=
  s.imgWords d set ((s.imgSec d set secLeaven).1 + 64 * t) 16

/-- Fields of a reed record (R154). -/
def rrKind (r : List Nat) : Nat := bitsOf (r.getD 0 0) 3 0
def rrMainStart (r : List Nat) : Nat := bitsOf (r.getD 0 0) 7 4
def rrMainLen (r : List Nat) : Nat := bitsOf (r.getD 0 0) 11 8 + 1
def rrWrapStart (r : List Nat) : Nat := bitsOf (r.getD 0 0) 15 12
def rrWrapLen (r : List Nat) : Nat := bitsOf (r.getD 0 0) 19 16
def rrWrapCnt (r : List Nat) : Nat := bitsOf (r.getD 0 0) 21 20
def rrFireVi (r : List Nat) : Nat := bitsOf (r.getD 0 0) 25 22
def rrFireSi (r : List Nat) : Nat := bitsOf (r.getD 0 0) 27 26
def rrGoReq (r : List Nat) : Bool := bitOf (r.getD 0 0) 28
def rrGroup (r : List Nat) : Nat := bitsOf (r.getD 0 0) 31 29
def rrGoTag (r : List Nat) : Nat := bitsOf (r.getD 1 0) 3 0
def rrDoneTag (r : List Nat) : Nat := bitsOf (r.getD 1 0) 7 4
def rrDoneEn (r : List Nat) : Bool := bitOf (r.getD 1 0) 8
def rrRun (r : List Nat) : Nat := bitsOf (r.getD 1 0) 16 9 + 1
def rrInitCnt (r : List Nat) : Nat := bitsOf (r.getD 1 0) 18 17
def rrInitPort (r : List Nat) : Nat := bitsOf (r.getD 1 0) 19 19
/-- Source of the vector outgoing link of direction i (N, E, S, W), of the engine link out, of VIi. -/
def rrVOut (r : List Nat) (i : Nat) : Nat := bitsOf (r.getD 2 0) (4 * i + 3) (4 * i)
def rrVOutEng (r : List Nat) : Nat := bitsOf (r.getD 2 0) 19 16
def rrVi (r : List Nat) (i : Nat) : Nat := bitsOf (r.getD 3 0) (3 * i + 2) (3 * i)
/-- Sources of the scalar outgoing links and inputs, and of the token links and input. -/
def rrSOut (r : List Nat) (i : Nat) : Nat := bitsOf (r.getD 4 0) (3 * i + 2) (3 * i)
def rrSi (r : List Nat) (i : Nat) : Nat := bitsOf (r.getD 4 0) (3 * i + 14) (3 * i + 12)
def rrTOut (r : List Nat) (i : Nat) : Nat := bitsOf (r.getD 5 0) (3 * i + 2) (3 * i)
def rrTi (r : List Nat) : Nat := bitsOf (r.getD 5 0) 14 12
/-- Counter i: LIMIT, STEP_ON, LIMIT_FROM_SI, END_TAG, EMIT_END. -/
def rrLimit (r : List Nat) (i : Nat) : Nat := bitsOf (r.getD (6 + i) 0) 19 0
def rrStepOn (r : List Nat) (i : Nat) : Nat := bitsOf (r.getD (6 + i) 0) 21 20
def rrFromSi (r : List Nat) (i : Nat) : Bool := bitOf (r.getD (6 + i) 0) 22
def rrEndTag (r : List Nat) (i : Nat) : Nat := bitsOf (r.getD (6 + i) 0) 26 23
def rrEmitEnd (r : List Nat) (i : Nat) : Bool := bitOf (r.getD (6 + i) 0) 27
def rrBbDepth (r : List Nat) : Nat := bitsOf (r.getD 10 0) 7 0 + 1
def rrBbNet (r : List Nat) : Nat := bitsOf (r.getD 10 0) 8 8
def rrBbSrc (r : List Nat) : Nat := bitsOf (r.getD 10 0) 11 9
def rrBbBase (r : List Nat) : Nat := bitsOf (r.getD 10 0) 21 12
def rrLsStart (r : List Nat) : Nat := bitsOf (r.getD 11 0) 9 0
def rrLsLen (r : List Nat) : Nat := bitsOf (r.getD 11 0) 20 10
def rrLag (r : List Nat) : Nat := r.getD 12 0
def rrK (r : List Nat) (i : Nat) : Nat := r.getD (16 + i) 0

/-- An instruction of a body (R147). -/
structure RInstr where
  op  : Nat
  dst : Nat
  sa  : Nat
  sb  : Nat
  sc  : Nat
  ty  : Nat
  imm : Nat
  deriving DecidableEq, Repr

/-- The instruction in slot `k` of a record (R147, R154). -/
def rrInstr (r : List Nat) (k : Nat) : RInstr :=
  let lo := r.getD (32 + 2 * k) 0
  let hi := r.getD (33 + 2 * k) 0
  { op := bitsOf lo 7 0, dst := bitsOf lo 15 8, sa := bitsOf lo 23 16, sb := bitsOf lo 31 24
    sc := bitsOf hi 7 0, ty := bitsOf hi 10 8, imm := bitsOf hi 31 16 }

/-- The main and the wrap body of a record. -/
def rrMain (r : List Nat) : List RInstr := (List.range (rrMainLen r)).map fun i => rrInstr r (rrMainStart r + i)
def rrWrap (r : List Nat) : List RInstr := (List.range (rrWrapLen r)).map fun i => rrInstr r (rrWrapStart r + i)

/-- The opcodes of R148 with their latencies. -/
def reedOps : List (Nat × Nat) :=
  [(0x00, 1), (0x01, 1), (0x02, 4), (0x03, 4), (0x04, 4), (0x05, 4), (0x06, 2), (0x07, 2), (0x08, 1), (0x09, 1),
   (0x0A, 2), (0x10, 2), (0x11, 2), (0x12, 2), (0x13, 2), (0x14, 2), (0x18, 6), (0x19, 6), (0x1A, 1), (0x20, 8),
   (0x21, 8), (0x22, 8), (0x23, 8), (0x24, 8), (0x28, 4), (0x29, 6), (0x2A, 4), (0x30, 3), (0x31, 1), (0x38, 1)]

/-- An operand code that is not reserved (R147). -/
def operandOk (c : Nat) : Bool :=
  decide (c ≤ 0x49) || (decide (0x50 ≤ c) && decide (c ≤ 0x5C)) || (decide (0x60 ≤ c) && decide (c ≤ 0x73)) ||
    (decide (0x80 ≤ c) && decide (c ≤ 0x87)) || c = 0xFF

/-- The instruction holds no reserved code or bit (R157, reason 3). -/
def RInstr.ok (i : RInstr) : Bool :=
  reedOps.any (fun o => o.1 = i.op) && decide (i.ty < 4) && operandOk i.dst && operandOk i.sa && operandOk i.sb &&
    operandOk i.sc && (i.op ≠ 0x38 || (decide (1 ≤ i.imm / 16 % 16) && decide (i.imm / 16 % 16 ≤ 6)))

/-- Every bit of a word outside a mask is clear. -/
def onlyBits (w mask : Nat) : Bool := decide (w &&& mask = w)

/-- The reserved bits of a record are clear (R154, reason 3). -/
def rrReservedOk (r : List Nat) : Bool :=
  onlyBits (r.getD 1 0) 0xFFFFF && onlyBits (r.getD 2 0) 0xFFFFF && onlyBits (r.getD 3 0) 0xFFF &&
    onlyBits (r.getD 4 0) 0x3FFFF && onlyBits (r.getD 5 0) 0x7FFF &&
    (List.range 4).all (fun i => onlyBits (r.getD (6 + i) 0) 0xFFFFFFF) && onlyBits (r.getD 10 0) 0x3FFFFF &&
    onlyBits (r.getD 11 0) 0x1FFFFF && [13, 14, 15].all (fun i => r.getD i 0 = 0) &&
    (List.range 16).all (fun k => onlyBits (r.getD (33 + 2 * k) 0) 0xFFFF07FF)

/-- The route codes of a record are not reserved (R154, reason 3). -/
def rrRoutesOk (r : List Nat) : Bool :=
  (List.range 4).all (fun i => decide (rrVOut r i ≤ 8) && decide (rrVi r i ≤ 5) && decide (rrSOut r i ≤ 6) &&
      decide (rrTOut r i ≤ 5)) &&
    decide (rrVOutEng r ≤ 8) && (List.range 2).all (fun i => decide (rrSi r i ≤ 4)) && decide (rrTi r ≤ 4) &&
    decide (rrBbSrc r ≤ 4)

/-- Reason 3 of R157 for one reed record. -/
def rrBad3 (r : List Nat) : Bool :=
  if rrKind r = 0 then r.any (· ≠ 0)
  else decide (6 < rrKind r) || !rrReservedOk r || !rrRoutesOk r ||
    decide (16 < rrMainStart r + rrMainLen r) || decide (16 < rrWrapStart r + rrWrapLen r) ||
    (List.range 16).any fun k => !(rrInstr r k).ok

/-- Column and row of a reed (R155). -/
def reedCol (r : Nat) : Nat := r / 64
def reedRow (r : Nat) : Nat := r % 64

/-- The neighbour of a reed in direction N, E, S, W. -/
def reedNext (r dir : Nat) : Option Nat :=
  match dir with
  | 0 => if reedRow r = 0 then none else some (r - 1)
  | 1 => if reedCol r = 95 then none else some (r + 64)
  | 2 => if reedRow r = 63 then none else some (r + 1)
  | _ => if reedCol r = 0 then none else some (r - 64)

/-- What stands at the edge link of a reed in a direction (R140, R143, R144). -/
inductive EdgePort where
  | stream (p : Nat)
  | chanter (p : Nat)
  deriving DecidableEq, Repr

/-- The port at an edge link; the Chanter ports have control and scalar links only. -/
def edgePort (r net dir : Nat) : Option EdgePort :=
  if dir = 3 ∧ reedCol r = 0 then some (.stream (reedRow r))
  else if dir = 1 ∧ reedCol r = 95 then some (.stream (64 + reedRow r))
  else if dir = 0 ∧ reedRow r = 0 ∧ net ≠ 0 ∧ reedCol r % 6 = 3 then some (.chanter (reedCol r / 6))
  else none

/-- The engine in-port that a reed's engine link serves, as (engine, port) (R141). -/
def attachIn (r : Nat) : Option (Nat × Nat) :=
  let c := reedCol r % 16
  if reedRow r % 10 = 5 ∧ reedRow r < 60 ∧ 4 ≤ c ∧ c % 2 = 0 ∧ c ≤ 10 then
    some (6 * (reedRow r / 10) + reedCol r / 16, (c - 4) / 2) else none

/-- The engine out-port that a reed's engine link serves (R141). -/
def attachOut (r : Nat) : Option (Nat × Nat) :=
  let c := reedCol r % 16
  if reedRow r % 10 = 5 ∧ reedRow r < 60 ∧ 5 ≤ c ∧ c % 2 = 1 ∧ c ≤ 11 then
    some (6 * (reedRow r / 10) + reedCol r / 16, (c - 5) / 2) else none

/-- The attach reed of in-port i and of out-port i of an engine (R141). -/
def attachInReed (e i : Nat) : Nat := 64 * (16 * (e % 6) + 2 * i + 4) + (10 * (e / 6) + 5)
def attachOutReed (e i : Nat) : Nat := 64 * (16 * (e % 6) + 2 * i + 5) + (10 * (e / 6) + 5)

/-- A link in a direction of a network has something at its far end. -/
def linkThere (r net dir : Nat) : Bool := (reedNext r dir).isSome || (edgePort r net dir).isSome

/-- A route code 1–4 names an incoming link that exists. -/
def incomingOk (r net code : Nat) : Bool := code = 0 || 4 < code || linkThere r net (code - 1)

/-- A reed is an attach reed (R141). -/
def isAttach (r : Nat) : Bool := (attachIn r).isSome || (attachOut r).isSome

/-- Reason 4 of R157 for one reed record. The engine link of an attach reed may be named in either direction; the direction that its engine
port does not serve carries nothing (log entry 159). -/
def rrBad4 (idx : Nat) (r : List Nat) : Bool :=
  decide (rrKind r ≠ 0) &&
    ((List.range 4).any (fun i =>
        (decide (rrVOut r i ≠ 0) && !linkThere idx 0 i) || (decide (rrSOut r i ≠ 0) && !linkThere idx 1 i) ||
        (decide (rrTOut r i ≠ 0) && !linkThere idx 2 i) || !incomingOk idx 0 (rrVOut r i) ||
        !incomingOk idx 1 (rrSOut r i) || !incomingOk idx 2 (rrTOut r i) || !incomingOk idx 0 (rrVi r i) ||
        (rrVOut r i = 5 && !isAttach idx) || (rrVi r i = 5 && !isAttach idx)) ||
      (List.range 2).any (fun i => !incomingOk idx 1 (rrSi r i)) || !incomingOk idx 2 (rrTi r) ||
      !incomingOk idx (rrBbNet r) (rrBbSrc r) || !incomingOk idx 0 (rrVOutEng r) ||
      (decide (rrVOutEng r ≠ 0) && !isAttach idx))

/-- Reason 5 of R157 for one reed record: a reserved format in UNPK. -/
def rrBad5 (r : List Nat) : Bool :=
  decide (rrKind r ≠ 0) && (List.range 16).any fun k =>
    (rrInstr r k).op = 0x2A && decide (10 ≤ (rrInstr r k).imm % 16)

/-- A local-store preload segment (R155): reed, unit offset, unit count, and the offset of its data. -/
structure Preload where
  reed  : Nat
  unit  : Nat
  count : Nat
  data  : Nat
  deriving DecidableEq, Repr

/-- The preload segments of an image set: a head of 16, 10 and 11 bits in one 64-bit unit, then the data (log entry
21). -/
def State.preloads (s : State) (d set : Nat) : List Preload :=
  let sec := s.imgSec d set secPreload
  go s d set (sec.1 + sec.2) (sec.2 / 8) sec.1
where
  /-- Segments from an offset. -/
  go (s : State) (d set stop : Nat) : Nat → Nat → List Preload
    | 0, _ => []
    | n + 1, off =>
      if stop < off + 8 then []
      else
        let w := s.imgWord d set off + 2 ^ 32 * s.imgWord d set (off + 4)
        let p : Preload := { reed := bitsOf w 15 0, unit := bitsOf w 25 16, count := bitsOf w 36 26, data := off + 8 }
        p :: go s d set stop n (off + 8 + 16 * p.count)

/-- The limit of each section in bytes (R155). -/
def secLimit : List Nat :=
  [4096, 1572864, 4608, 8192, 1024, 262144, 32 * 2 ^ 20, 6144 * 16384, 16777216]

/-- Two ranges share a byte. -/
def overlaps (a b : Nat × Nat) : Bool :=
  decide (0 < a.2 ∧ 0 < b.2 ∧ a.1 < b.1 + b.2 ∧ b.1 < a.1 + a.2)

/-- Some two ranges of a list share a byte. -/
def anyOverlap : List (Nat × Nat) → Bool
  | [] => false
  | r :: rs => rs.any (overlaps r) || anyOverlap rs

/-- The engines that a step program uses: the targets of its ISSUE operations (R178). -/
def opOf (w : List Nat) : Nat := bitsOf (w.getD 0 0) 3 0
def opTarget (w : List Nat) : Nat := bitsOf (w.getD 0 0) 9 4
def opSel (w : List Nat) : Nat := bitsOf (w.getD 0 0) 13 10
def opLayer (w : List Nat) : Nat := bitsOf (w.getD 0 0) 19 14
def opFix (w : List Nat) : Nat := bitsOf (w.getD 0 0) 23 20
def opDescMask (w : List Nat) : Nat := bitsOf (w.getD 0 0) 26 24
def opOrgLvl (w : List Nat) : Nat := bitsOf (w.getD 0 0) 28 27
def opArg (w : List Nat) : Nat := w.getD 1 0
def opArg2 (w : List Nat) : Nat := w.getD 2 0

/-- The step program of an image set: its offset and length. -/
def State.prog (s : State) (d set : Nat) : Nat × Nat := s.imgSec d set secProgram
/-- A word of the step program. -/
def State.progWord (s : State) (d set off : Nat) : Nat := s.imgWord d set ((s.prog d set).1 + off)
/-- The operation at a byte offset of the step program. -/
def State.opAt (s : State) (d set off : Nat) : List Nat := s.imgWords d set ((s.prog d set).1 + off) 4

/-- Header fields of the step program (R175). -/
def State.mbPlan (s : State) (d set : Nat) : Nat := bitsOf (s.progWord d set 12) 11 0
def State.inFlight (s : State) (d set : Nat) : Nat := bitsOf (s.progWord d set 12) 15 12
def State.stagesOf (s : State) (d set : Nat) : Nat := bitsOf (s.progWord d set 12) 21 16
def State.bndDepth (s : State) (d set : Nat) : Nat := bitsOf (s.progWord d set 12) 25 22
def State.segEn (s : State) (d set : Nat) : Bool := bitOf (s.progWord d set 12) 26
def State.segMax (s : State) (d set : Nat) : Nat := bitsOf (s.progWord d set 12) 30 27
def State.stageMap (s : State) (d set i : Nat) : Nat := bitsOf (s.progWord d set 16) (6 * i + 5) (6 * i)
def State.layerCount (s : State) (d set : Nat) : Nat := bitsOf (s.progWord d set 16) 29 24
def State.tokenBudget (s : State) (d set : Nat) : Nat := bitsOf (s.progWord d set 20) 19 0
def State.segAlign (s : State) (d set : Nat) : Nat := bitsOf (s.progWord d set 24) 15 0
def State.budgetTicks (s : State) (d set : Nat) : Nat := bitsOf (s.progWord d set 24) 31 16
def State.layerOff (s : State) (d set : Nat) : Nat := s.progWord d set 28
/-- Where the step-start, forward and backward programs begin. -/
def State.phaseOff (s : State) (d set : Nat) : Phase → Nat
  | .start => s.progWord d set 32
  | .forward => s.progWord d set 36
  | .backward => s.progWord d set 40
def State.bndBase (s : State) (d set : Nat) : Nat := (s.progWord d set 44 + 2 ^ 32 * bitsOf (s.progWord d set 48) 7 0) * 64
def State.bndStride (s : State) (d set : Nat) : Nat := s.progWord d set 52

/-- A word of layer table entry `l` (R176). -/
def State.layerWord (s : State) (d set l i : Nat) : Nat := s.progWord d set (s.layerOff d set + 32 * l + 4 * i)
def State.layerFrozen (s : State) (d set l : Nat) : Bool := bitOf (s.layerWord d set l 0) 0
def State.layerProofers (s : State) (d set l : Nat) : Nat := bitsOf (s.layerWord d set l 0) 16 13
/-- Base of slot 0 or 1 of a layer, in bytes. -/
def State.layerSlot (s : State) (d set l i : Nat) : Nat :=
  (s.layerWord d set l (1 + 2 * i) + 2 ^ 32 * bitsOf (s.layerWord d set l (2 + 2 * i)) 7 0) * 64
def State.layerBytes (s : State) (d set l : Nat) : Nat := s.layerWord d set l 5
def State.varStride (s : State) (d set l : Nat) : Nat := s.layerWord d set l 6

/-- The operations of a program from an offset up to its END, at most `n` of them; none where END is missing. -/
def State.opsFrom (s : State) (d set : Nat) : Nat → Nat → Option (List (List Nat))
  | 0, _ => none
  | n + 1, off =>
    if (s.prog d set).2 < off + 16 then none
    else
      let w := s.opAt d set off
      if opOf w = 0xF then some [w]
      else (s.opsFrom d set n (off + 16)).map (w :: ·)

/-- All operations of the three programs that end with END. -/
def State.allOps (s : State) (d set : Nat) : List (List Nat) :=
  [Phase.start, .forward, .backward].flatMap fun p =>
    ((s.opsFrom d set (2 ^ 20) (s.phaseOff d set p)).getD [])

/-- An engine in use: the target of an ISSUE operation. -/
def State.engUsed (s : State) (d set e : Nat) : Bool :=
  (s.allOps d set).any fun w => opOf w = 1 && opTarget w = e

/-- The engine of a die. -/
def State.engD (s : State) (d e : Nat) : Engine := s.eng.get Engine.reset (36 * d + e)
/-- Put an engine back. -/
def State.setEng (s : State) (d e : Nat) (x : Engine) : State := { s with eng := s.eng.set Engine.reset (36 * d + e) x }
/-- An array of an engine: 0 A, 1 B. -/
def Engine.arr (x : Engine) (a : Nat) : Arr4 := x.arrays.get Arr4.fresh a
/-- The engine with an array changed. -/
def Engine.setArr (x : Engine) (a : Nat) (v : Arr4) : Engine := { x with arrays := x.arrays.set Arr4.fresh a v }

/-- The power domain of an engine and of a reed of a die (R15). -/
def pdOfEngine (d e : Nat) : Nat := 14 * d + e / 6
def pdOfReed (d r : Nat) : Nat := 14 * d + 6 + b2n (decide (48 ≤ reedCol r)) + 2 * b2n (decide (32 ≤ reedRow r))

/-- A power domain is on. -/
def State.domOn (s : State) (pd : Nat) : Bool := (s.dom.get Domain.off pd).state = 2

/-- The record that an ISSUE operation names: 32 words of the step program (R178). -/
def State.issueRec (s : State) (d set : Nat) (w : List Nat) : List Nat :=
  s.imgWords d set ((s.prog d set).1 + opArg w) 32

/-- The arrays that a tile shape uses: 0 A, 1 B (R106). -/
def shapeArrays (w : List Nat) : List Nat :=
  let t := bitsOf (w.getD 0 0) 6 4
  if t = 1 ∨ t = 2 then [0, 1] else [bitsOf (w.getD 0 0) 11 11]

/-- Work is placed on a retired array (R157, reason 7). -/
def State.onRetired (s : State) (d set : Nat) : Bool :=
  (s.allOps d set).any fun w =>
    opOf w = 1 && (let r := s.issueRec d set w
      bitsOf (r.getD 0 0) 3 0 = 1 && (shapeArrays r).any fun a => ((s.engD d (opTarget w)).arr a).retired)

/-- The reed records of an image set that are not OFF, by index. -/
def State.reedsUsed (s : State) (d set : Nat) : List (Nat × List Nat) :=
  ((List.range 6144).map fun i => (i, s.reedRec d set i)).filter fun p => rrKind p.2 ≠ 0

/-- A local-store range of a reed in 16-byte units lies within its LS range (R157, reason 9). -/
def lsWithin (r : List Nat) (lo n : Nat) : Bool :=
  decide (rrLsStart r ≤ lo ∧ lo + n ≤ rrLsStart r + rrLsLen r)

/-- The units that a balance buffer takes: 64 B for a vector entry, 4 B for a scalar (R154). -/
def bbUnits (r : List Nat) : Nat := if rrBbNet r = 0 then 4 * rrBbDepth r else (rrBbDepth r + 3) / 4

/-- Reason 9 of R157. -/
def State.lsBad (s : State) (d set act : Nat) : Bool :=
  (s.reedsUsed d set).any (fun p => rrKind p.2 = 5 && !lsWithin p.2 (rrBbBase p.2) (bbUnits p.2)) ||
    (s.preloads d set).any (fun p =>
      decide (6144 ≤ p.reed) || !lsWithin (s.reedRec d set p.reed) p.unit p.count ||
        (let a := s.reedRec d act p.reed
         decide (rrKind a ≠ 0) && overlaps (p.unit, p.count) (rrLsStart a, rrLsLen a)))

/-- A Leaven entry of an image holds bits outside its SH fields: RO fields are zero, and reserved bits too (R37, R155, R157; log entry
160). -/
def levBad3 (w : List Nat) : Bool :=
  bitsOf (w.getD 0 0) 31 30 = 3 || (List.range 16).any fun k => !onlyBits (w.getD k 0) (levShMask k)

/-- The first words of the elements of a credit table's declarations (R160). -/
def State.declWords (s : State) (d set : Nat) : List Nat := go s d set (s.imgDeclCount d set) (s.imgSec d set secCredit).1
where
  /-- Those of `n` declarations from an offset. -/
  go (s : State) (d set : Nat) : Nat → Nat → List Nat
    | 0, _ => []
    | n + 1, off =>
      let k := s.imgWord d set (off + 4) + s.imgWord d set (off + 8)
      ((List.range k).map fun i => s.imgWord d set (off + 16 + 8 * i)) ++ go s d set n (off + 16 + 8 * k)

/-- An element of a declaration holds a reserved ELEM or a reserved bit (R160, R157 reason 3). -/
def elemBad3 (w : Nat) : Bool := decide (3 < bitsOf w 15 13) || !onlyBits w 0x1FFFFF

/-- A Leaven entry of an image that fails reason 5, and one that fails reason 6 (R157). -/
def levBad5 (w : List Nat) : Bool :=
  decide (10 ≤ bitsOf (w.getD 0 0) 7 4) || decide (10 ≤ bitsOf (w.getD 0 0) 11 8)
def levBad6 (w : List Nat) : Bool :=
  decide (4 < bitsOf (w.getD 0 0) 14 12) || (decide (bitsOf (w.getD 0 0) 31 30 ≠ 3) && !levBad5 w && !levW0Ok (w.getD 0 0))

/-- CRC-32C of `len` bytes of an image set with header word 3 as zero (R156). -/
def State.imgCrc (s : State) (d set len : Nat) : Nat :=
  crc32c ((List.range len).map fun i => if 12 ≤ i ∧ i < 16 then 0 else s.img.get 0 (imgKey d set i))

/-- The header's reserved bits and the words that must be zero (R156). -/
def State.imgHeaderOk (s : State) (d set : Nat) : Bool :=
  onlyBits (s.imgWord d set 4) 0xFFFF && onlyBits (s.imgWord d set 24) 0x1FFFF && onlyBits (s.imgWord d set 28) 0x7FFF &&
    ((List.range 8).all fun i => s.imgWord d set (32 + 4 * i) = 0) &&
    ((List.range 990).all fun i => s.imgWord d set (136 + 4 * i) = 0)

/-- The first failing reason of R157 from 1 to 9 for the image in a shadow set of `len` bytes, or 0. -/
def State.imageReason (s : State) (d len : Nat) : Nat :=
  let set := s.shadowOf d
  let act := s.activeOf d
  let secs := (List.range 9).map fun k => s.imgSec d set k
  let reeds := s.reedsUsed d set
  let nLev := s.imgLeavenCount d set
  let levs := (List.range nLev).map fun t => s.imgLeaven d set t
  if s.imgWord d set 0 ≠ 0x4746514E ∨ bitsOf (s.imgWord d set 4) 15 0 ≠ 1 ∨ s.imgWord d set 8 ≠ len ∨
      s.imgWord d set 12 ≠ s.imgCrc d set len ∨ (bitsOf (s.imgWord d set 24) 3 0).testBit d = false then 1
  else if anyOverlap secs || (secs.zip secLimit).any (fun p => decide (p.2 < p.1.2)) ||
      secs.any (fun p => decide (len < p.1 + p.2)) || decide (2 ^ 25 < len) || decide (16384 < s.imgDeclCount d set) then 2
  else if !s.imgHeaderOk d set || ((List.range 6144).any fun i => rrBad3 (s.reedRec d set i)) ||
      ((List.range 288).any fun i => (let r := s.engPortRec d set i
        !onlyBits (r.getD 1 0) 0x1FFFF || r.getD 2 0 ≠ 0 || r.getD 3 0 ≠ 0)) ||
      ((List.range 128).any fun i => (let r := s.spRec d set i
        bitsOf (r.getD 0 0) 1 0 = 3 || !onlyBits (r.getD 0 0) 0x1FFF || !onlyBits (r.getD 2 0) 0xFFFFF ||
          !onlyBits (r.getD 10 0) 0xFFFFFF || ([11, 12, 13, 14, 15].any fun k => r.getD k 0 ≠ 0))) ||
      ((List.range 64).any fun i => (let r := s.mcastRec d set i
        bitOf (r.getD 1 0) 30 || r.getD 2 0 ≠ 0 || r.getD 3 0 ≠ 0)) ||
      levs.any levBad3 || (s.declWords d set).any elemBad3 then 3
  else if reeds.any fun p => rrBad4 p.1 p.2 then 4
  else if levs.any levBad5 || reeds.any (fun p => rrBad5 p.2) then 5
  else if decide (4096 < nLev) || levs.any levBad6 then 6
  else if s.onRetired d set || ((List.range 64).any fun i => (let r := s.mcastRec d set i
      mcValid r && !mcMember r (mcLeader r))) then 7
  else if reeds.any (fun p => !s.domOn (pdOfReed d p.1)) ||
      ((List.range 36).any fun e => s.engUsed d set e && !s.domOn (pdOfEngine d e)) then 8
  else if s.lsBad d set act then 9
  else 0

/-- The step-program operation holds no reserved code or bit (R179, reason 4). -/
def opReservedOk (w : List Nat) : Bool :=
  [1, 2, 3, 4, 5, 6, 7, 8, 9, 15].contains (opOf w) && decide (w.getD 0 0 < 2 ^ 29) && w.getD 3 0 = 0

/-- An operation names an engine, port or layer that does not exist (R179, reason 5). -/
def opNamesBad (layers : Nat) (w : List Nat) : Bool :=
  match opOf w with
  | 1 => decide (36 ≤ opTarget w) || (decide (opFix w % 4 ≠ 0) && decide (layers ≤ opLayer w))
  | 2 => decide (36 ≤ opTarget w)
  | 3 => decide (16 ≤ opTarget w)
  | 4 => decide (16 ≤ opTarget w)
  | 5 => if opArg w = 0 then decide (16 ≤ opTarget w) else decide (36 ≤ opTarget w)
  | 9 => decide (layers ≤ opLayer w)
  | _ => false

/-- Some slot of a layer overlaps the layer's other slot or a slot of another layer (R179, reason 6); a FROZEN layer
has one slot. -/
def State.slotsOverlap (s : State) (d set : Nat) : Bool :=
  anyOverlap ((List.range (s.layerCount d set)).flatMap fun l =>
    let n := s.layerBytes d set l
    if s.layerFrozen d set l then [(s.layerSlot d set l 0, n)]
    else [(s.layerSlot d set l 0, n), (s.layerSlot d set l 1, n)])

/-- The first failing reason of R179 for the step program of an image set, or 0. -/
def State.programReason (s : State) (d set : Nat) : Nat :=
  let len := (s.prog d set).2
  let w := fun i => s.progWord d set (4 * i)
  let ops := [Phase.start, .forward, .backward].map fun p => s.opsFrom d set (2 ^ 20) (s.phaseOff d set p)
  let all := s.allOps d set
  let layers := s.layerCount d set
  let stages := (List.range 4).map fun i => s.stageMap d set i
  if w 0 ≠ 0x5053514E ∨ bitsOf (w 1) 15 0 ≠ 1 ∨ w 2 ≠ len then 1
  else if decide (len < s.layerOff d set + 32 * layers) || [Phase.start, .forward, .backward].any
      (fun p => decide (len < s.phaseOff d set p + 16)) ||
      all.any (fun o => opOf o = 1 && decide (len < opArg o + 128)) then 2
  else if s.mbPlan d set = 0 ∨ s.inFlight d set = 0 ∨ 8 < s.inFlight d set ∨ s.stagesOf d set = 0 ∨
      s.bndDepth d set = 0 ∨ 8 < s.bndDepth d set ∨ s.segMax d set = 0 ∨ 8 < s.segMax d set ∨
      s.inFlight d set < s.segMax d set ∨ layers = 0 ∨ s.segAlign d set = 0 ∨ s.budgetTicks d set = 0 ∨
      (stages.any fun x => decide (s.stagesOf d set ≤ x)) ∨ ¬ stages.Nodup then 3
  else if all.any (fun o => !opReservedOk o) || ops.any Option.isNone || !onlyBits (w 1) 0xFFFF ||
      !onlyBits (w 3) 0x7FFFFFFF || !onlyBits (w 4) 0x3FFFFFFF || !onlyBits (w 5) 0xFFFFF || !onlyBits (w 12) 0xFF ||
      ((List.range 18).any fun i => w (14 + i) ≠ 0) ||
      ((List.range layers).any fun l => !onlyBits (s.layerWord d set l 0) 0x1FFFF || !onlyBits (s.layerWord d set l 2) 0xFF ||
        !onlyBits (s.layerWord d set l 4) 0xFF || s.layerWord d set l 7 ≠ 0 ||
        (s.layerProofers d set l) / 4 ≠ 0) then 4
  else if all.any (opNamesBad layers) then 5
  else if s.slotsOverlap d set then 6
  else 0

end Sys2Proof.Machine
end

