-- ==== Sys2Proof/Machine/ChanterBase.lean ====
section
/-! DEFINITION. What a Chanter does on a refusal, a fault, a hold or a drop (R197 to R201), and how it takes an engine's
answer to an ISSUE (R178). -/

namespace Sys2Proof.Machine

/-- The Chanter of a die. -/
def State.chD (s : State) (d : Nat) : ChDie := s.ch.get ChDie.reset d
/-- Put the Chanter of a die back. -/
def State.setCh (s : State) (d : Nat) (c : ChDie) : State := { s with ch := s.ch.set ChDie.reset d c }
/-- Change the Chanter of a die. -/
def State.updCh (s : State) (d : Nat) (g : ChDie → ChDie) : State := s.setCh d (g (s.chD d))

/-- A unit by ordinal. -/
def PUnit.none : PUnit := { info := [], fwd := false, bwd := false, finB := 0, binB := 0 }
def ChDie.unit (c : ChDie) (o : Nat) : PUnit := c.units.get PUnit.none o
def ChDie.setUnit (c : ChDie) (o : Nat) (u : PUnit) : ChDie := { c with units := c.units.set PUnit.none o u }

/-- No unit: the ordinal that the step-start program runs under. -/
abbrev noUnit : Nat := 2 ^ 16

/-- Fields of a unit record (R177). -/
def urMb (u : List Nat) : Nat := bitsOf (u.getD 0 0) 11 0
def urSeg (u : List Nat) : Nat := bitsOf (u.getD 0 0) 15 12
def urSegCount (u : List Nat) : Nat := bitsOf (u.getD 0 0) 19 16
def urDropped (u : List Nat) : Bool := bitOf (u.getD 0 0) 20
def urVariant (u : List Nat) : Nat := bitsOf (u.getD 1 0) 11 0
def urSegOrg (u : List Nat) : Nat := bitsOf (u.getD 2 0) 19 0
def urOrdinal (u : List Nat) : Nat := bitsOf (u.getD 3 0) 15 0
def urExtent (u : List Nat) (i : Nat) : Nat := bitsOf (u.getD (4 + i) 0) 19 0

/-- The unit record with the given fields (R177). -/
def unitRecord (mb seg segCount variant segOrg ord : Nat) (ext : List Nat) : List Nat :=
  [mb % 4096 + seg * 4096 + segCount * 65536, variant % 4096, segOrg % 2 ^ 20, ord % 65536]
    ++ (List.range 12).map fun i => ext.getD i 0 % 2 ^ 20

/-- The zero record of a unit record (R197): extents 0 and DROPPED set. -/
def zeroRecord (u : List Nat) : List Nat :=
  [putBits (u.getD 0 0) 20 20 1, u.getD 1 0, u.getD 2 0, u.getD 3 0] ++ List.replicate 12 0

/-- The stage of a die (R180). -/
def State.stage (s : State) (d : Nat) : Nat := (s.chD d).stageOff + s.stageMap d (s.activeOf d) d

/-- The micro-batch index that a record of the pipeline carries for no unit. -/
abbrev noMb : Nat := 0xFFFF

/-- The payload of a pipeline record (R204). -/
def State.pipePayload (s : State) (d : Nat) (u : Option (List Nat)) (layer cause extra : Nat) : List Byte :=
  match u with
  | some r => payload [(0, 2, urMb r), (2, 2, urOrdinal r), (4, 1, urSeg r), (5, 1, urSegCount r), (6, 1, s.stage d),
      (7, 1, layer), (8, 2, cause), (10, 4, extra)]
  | none => payload [(0, 2, noMb), (2, 2, 0xFFFF), (6, 1, s.stage d), (7, 1, layer), (8, 2, cause), (10, 4, extra)]

/-- Raise a pipeline record of a die. -/
def State.pipeRaise (s : State) (d code : Nat) (u : Option (List Nat)) (layer cause extra : Nat) : State :=
  s.raise (Page.die d) code (s.pipePayload d u layer cause extra)

/-- A notice leaves over the spine, behind every write to the same arrival window (R246). -/
def State.notify (s : State) (kind : NoticeKind) (dest_ sender a b : Nat) : State :=
  let behind := match kind with
    | .nextComplete => 0
    | .revert => 0
    | _ => (s.spine.arrivals.filter fun x => x.prf = dest_).length
  { s with spine := { s.spine with notices := s.spine.notices ++ [⟨kind, dest_, sender, a, b, behind⟩] } }

/-- A notice to both Proofers of a die. -/
def State.notifyBoth (s : State) (kind : NoticeKind) (d a b : Nat) : State :=
  (s.notify kind (2 * d) d a b).notify kind (2 * d + 1) d a b

/-- The step is abandoned (R201, R202): no die issues further, every die tells its Proofers (R246); the die that abandons
it is stopped and reports it (log entry 36). -/
def State.abandonStep (s : State) (d cause : Nat) (stop : Bool) : State :=
  if (s.chD d).stopped then s
  else
    let s1 := [0, 1, 2, 3].foldl (fun t k =>
      if (t.chD k).abandoned then t
      else (t.updCh k fun c => { c with abandoned := true }).notifyBoth .abandon k (t.ctl.stepNo % 2 ^ 32) 0) s
    let s2 := s1.updCh d fun c => { c with stopped := stop || c.stopped }
    s2.pipeRaise d Code.pipeStepAbandoned none 0xFF cause 0

/-- PIPE_PROGRAM_FAULT (R201): the die stops and the step is abandoned. -/
def State.programFault (s : State) (d cause : Nat) (u : Option (List Nat)) (layer : Nat) : State :=
  if (s.chD d).stopped then s
  else ((s.updCh d fun c => { c with progFault := true }).pipeRaise d Code.pipeProgramFault u layer cause 0).abandonStep d cause true

/-- A micro-batch of a die is held. -/
def ChDie.isHeld (c : ChDie) (mb : Nat) : Bool := c.holds.any fun h => h.mb = mb

/-- A record of micro-batch `mb` becomes its zero record; any other is unchanged. -/
def zeroIf (mb : Nat) (r : List Nat) : List Nat := if urMb r = mb then zeroRecord r else r

/-- Every record of a micro-batch that has not finished backward becomes its zero record (R199). -/
def ChDie.zeroUnits (c : ChDie) (mb : Nat) : ChDie :=
  { c with
    units := ⟨c.units.cells.map fun x =>
      if x.2.bwd then x else (x.1, { x.2 with info := zeroIf mb x.2.info })⟩
    formed := c.formed.map (zeroIf mb)
    dropped := if c.dropped.contains mb then c.dropped else c.dropped ++ [mb] }

/-- A phase that stands at a refused or held ISSUE goes back to it (R199). -/
def PhaseRun.again (p : PhaseRun) : PhaseRun := { p with waiting := false }

/-- The live extent slots that the phases of a micro-batch filled take the extents of its zero record: the phase that goes on at its refused
ISSUE offers empty MPDs (R197, R199; log entry 213). -/
def State.zeroSlots (s : State) (d mb : Nat) : State :=
  let c := s.chD d
  let of := fun (p : Option PhaseRun) => match p with
    | some r => if urMb (c.unit r.unit).info = mb && r.unit ≠ noUnit then r.slots else []
    | none => []
  { s with eng := (of c.fwd ++ of c.bwd).foldl (fun t q =>
      t.upd Engine.reset (36 * d + q.1) fun x => { x with lx := x.lx.set 0 q.2 0 }) s.eng }

/-- DROP of a micro-batch (R199, R200): zero records, PIPE_MB_DROPPED, DROPPED + 1; a hold of it ends. A micro-batch
that could not be split becomes one unit with a zero record of its own VARIANT (R197). -/
def State.dropMb (s : State) (d mb cause : Nat) : State :=
  let c := s.chD d
  let past := (c.holds.find? fun h => h.mb = mb && h.past.isSome).bind Hold.past
  let c1 := c.zeroUnits mb
  let whole := fun r : List Nat => zeroRecord (unitRecord mb 0 1 (urVariant r) 0 c1.nextOrd [])
  let c2 := { c1 with
    holds := c1.holds.filter fun h => h.mb ≠ mb
    formed := match past with | some r => c1.formed ++ [whole r] | none => c1.formed
    nextOrd := if past.isSome then c1.nextOrd + 1 else c1.nextOrd }
  let rec0 := (c.units.cells.find? fun x => urMb x.2.info = mb && !x.2.bwd).map fun x => x.2.info
  let u := (past.map whole).getD (rec0.getD (unitRecord mb 0 1 0 0 0xFFFF []))
  (((s.zeroSlots d mb).setCh d c2).count (regAddr (Page.die d) 0x54) 1).pipeRaise d Code.pipeMbDropped (some u) 0xFF cause 0

/-- HOLD_POLICY of a die. -/
def State.holdPolicy (s : State) (d : Nat) : Bool := (s.rwAt (regAddr (Page.die d) 0x104)).getLsbD 0
/-- SEG_OFF of a die. -/
def State.segOff (s : State) (d : Nat) : Bool := (s.rwAt (regAddr (Page.die d) 0x104)).getLsbD 1

/-- The groups that a phase armed are disarmed in WD_ARM (R198). -/
def State.disarm (s : State) (d groups : Nat) : State :=
  let a := regAddr (Page.fab d) 0x114
  s.setRw a (BitVec.ofNat 32 ((s.rwAt a).toNat - ((s.rwAt a).toNat &&& groups)))

/-- A micro-batch is held (R198): PIPE_MB_HELD, HOLD_INFO, the held phase's watchdog groups disarmed; with
HOLD_POLICY = 1 it is dropped at once (R199). `past` says that it could not be split into units, `layer` names the layer of the operation
that was refused, where it has one (R204). -/
def State.holdMb (s : State) (d : Nat) (u : List Nat) (cause : Nat) (back past : Bool) (layer : Nat) : State :=
  let c := s.chD d
  let mb := urMb u
  if c.isHeld mb then s
  else
    let h : Hold := { mb := mb, cause := cause, back := back, since := s.cad.tickNo, past := if past then some u else none }
    let ph := if back then c.bwd else c.fwd
    let groups := match ph with | some p => if urMb (c.unit p.unit).info = mb then p.armed else 0 | none => 0
    let s1 := (s.setCh d { c with holds := c.holds ++ [h] }).disarm d groups
    let s2 := (s1.count (regAddr (Page.die d) 0x50) 1).pipeRaise d Code.pipeMbHeld (some u) layer cause 0
    if s2.holdPolicy d then s2.dropMb d mb cause else s2

/-- A damaged MPD of the step-start program, which has no micro-batch to drop (R200, R204; log entry 192). -/
def State.damageStart (s : State) (d eng seq cause layer : Nat) : State :=
  (s.count (regAddr (Page.die d) 0x58) 1).pipeRaise d Code.pipeMbDamaged none layer cause (eng % 64 + seq * 64)

/-- A damaged MPD (R200): PIPE_MB_DAMAGED; the micro-batch is dropped unless what was damaged, in a backward phase, is a weight-gradient
partial of each of the given tensors: that goes on, and POISON notices mark it (R246). -/
def State.damageMb (s : State) (d : Nat) (u : List Nat) (back : Bool) (tensors : List Nat) (eng seq cause layer : Nat) : State :=
  let s1 := (s.count (regAddr (Page.die d) 0x58) 1).pipeRaise d Code.pipeMbDamaged (some u) layer cause
    (eng % 64 + seq * 64)
  if back && !tensors.isEmpty then tensors.foldl (fun t x => t.notifyBoth .poison d x (urMb u)) s1
  else s1.dropMb d (urMb u) cause

/-- The phase of a die that waits for the answer of engine `e`, with whether it is the backward phase; the step-start
program counts as neither. -/
def State.waitingPhase (s : State) (d e : Nat) : Option (Phase × PhaseRun) :=
  let c := s.chD d
  let here := fun (p : Option PhaseRun) => match p with
    | some r => r.waiting && opTarget (s.opAt d (s.activeOf d) r.pc) = e
    | none => false
  if here c.start then c.start.map fun r => (Phase.start, r)
  else if here c.fwd then c.fwd.map fun r => (Phase.forward, r)
  else if here c.bwd then c.bwd.map fun r => (Phase.backward, r)
  else none

/-- Put a phase run back. -/
def ChDie.setPhase (c : ChDie) (p : Phase) (r : Option PhaseRun) : ChDie :=
  match p with
  | .start => { c with start := r }
  | .forward => { c with fwd := r }
  | .backward => { c with bwd := r }

/-- The phase run of a kind. -/
def ChDie.phase (c : ChDie) (p : Phase) : Option PhaseRun :=
  match p with
  | .start => c.start
  | .forward => c.fwd
  | .backward => c.bwd

/-- The layer that an operation names: LAYER counts where FIX uses it (R178, R204). -/
def opLayerByte (w : List Nat) : Nat := if opFix w % 4 ≠ 0 then opLayer w else 0xFF

/-- The engine's answer to an ISSUE (R178, R198, R201): accepted (code 0) moves the phase past the operation; an extent
over its plan holds the micro-batch; any other refusal means that the program is wrong. The step-start program has no micro-batch to hold:
it goes on past the operation (log entry 192). `seq` is given for an MPD that was accepted. -/
def State.issueAnswer (s : State) (d e code : Nat) (seq : Option Nat) : State :=
  match s.waitingPhase d e with
  | none => s
  | some (k, r) =>
    let c := s.chD d
    let u := (c.unit r.unit).info
    let op := s.opAt d (s.activeOf d) r.pc
    let wide := code = Code.seqExtentOver ∨ code = Code.seqBucketMiss
    if code = 0 then
      let o := match seq with
        | some n => [({ eng := e, seq := n, unit := r.unit, back := k = .backward
                        layer := if (opFix op).testBit 0 then some (opLayer op) else none } : Offer)]
        | none => []
      s.setCh d ({ c with offers := c.offers ++ o }.setPhase k (some { r with pc := r.pc + 16, waiting := false }))
    else if k = .start ∧ wide then s.setCh d (c.setPhase k (some { r with pc := r.pc + 16, waiting := false }))
    else
      let s1 := s.setCh d (c.setPhase k (some { r with waiting := false }))
      if wide then s1.holdMb d u code (k = .backward) false (opLayerByte op)
      else s1.programFault d code (if k = .start then none else some u) (opLayerByte op)

end Sys2Proof.Machine
end

