-- ==== Sys2Proof/Machine/Audit.lean ====
section
/-! DEFINITION. The schedule and the lag of a reed (R145, R146), the route graph and the credit audit (R158 to R161). -/

namespace Sys2Proof.Machine

/-- The latency of an opcode (R148). -/
def opLatency (op : Nat) : Nat := ((reedOps.find? fun o => o.1 = op).map Prod.snd).getD 1

/-- What an instruction reads or writes that is carried between instructions: vector and scalar registers by operand
code, local-store places by operand code and immediate. -/
def regKey (code imm : Nat) : Option (Nat × Nat) :=
  if code < 0x40 then some (code, 0)
  else if 0x50 ≤ code ∧ code ≤ 0x57 then some (code, 0)
  else if 0x80 ≤ code ∧ code ≤ 0x87 then some (code, imm)
  else none

/-- The operand codes that an instruction reads, with those of SC marked (R148). SELC reads its DST; CVT and CVTNQ read a
pair of scalars; a local-store operand reads its address register (log entry 27). -/
def RInstr.readCodes (i : RInstr) : List (Nat × Bool) :=
  let a := [(i.sa, false)]
  let ab := [(i.sa, false), (i.sb, false)]
  let base := match i.op with
    | 0x00 => [] | 0x38 => []
    | 0x02 => ab | 0x03 => ab | 0x06 => ab | 0x07 => ab
    | 0x04 => ab ++ [(i.sc, true)] | 0x05 => ab ++ [(i.sc, true)]
    | 0x0A => ab ++ [(i.sc, false), (i.dst, false)]
    | 0x10 => ab | 0x11 => ab | 0x12 => ab | 0x13 => ab | 0x14 => ab
    | 0x28 => a ++ [(i.sb, false), (i.sb + 1, false)]
    | 0x29 => ab ++ [(i.sc, false), (i.sc + 1, false)]
    | _ => a
  let ls := fun c : Nat => if 0x80 ≤ c ∧ c ≤ 0x87 then [(0x50 + (c - 0x80), false)] else []
  base ++ (base.flatMap fun c => ls c.1) ++ ls i.dst

/-- The destination that an instruction writes. -/
def RInstr.writes (i : RInstr) : Option (Nat × Nat) :=
  if i.op = 0x00 ∨ i.op = 0x38 then none else regKey i.dst i.imm

/-- An FMA or DOT2 whose SC names its own DST accumulates in place (R146). -/
def RInstr.accumulates (i : RInstr) : Bool := (i.op = 0x04 || i.op = 0x05) && i.sc = i.dst && (regKey i.dst i.imm).isSome

/-- An instruction pushes to an output (R146). -/
def RInstr.pushes (i : RInstr) : Bool := i.op = 0x38 || (i.op ≠ 0x00 && (i.dst = 0x48 || i.dst = 0x49 || i.dst = 0x5C))

/-- One row of a schedule: the instruction and its offset. -/
structure SchedRow where
  ins : RInstr
  at_ : Nat
  deriving DecidableEq, Repr

/-- When every source of an instruction that was written earlier is ready (R146). -/
def readyAt (w : List ((Nat × Nat) × Nat × Nat)) (i : RInstr) : Nat :=
  (i.readCodes.map fun c =>
    match regKey c.1 i.imm with
    | none => 0
    | some k => match w.find? fun x => x.1 = k with
      | none => 0
      | some x => if i.accumulates && c.2 then x.2.1 + 1 else x.2.1 + x.2.2).foldl max 0

/-- The schedule of a body from an offset, given what has been written (R146). -/
def schedule : List RInstr → Nat → List ((Nat × Nat) × Nat × Nat) → List SchedRow × List ((Nat × Nat) × Nat × Nat)
  | [], _, w => ([], w)
  | i :: is, t, w =>
    let o := max t (readyAt w i)
    let w1 := match i.writes with
      | some k => (k, o, opLatency i.op) :: w
      | none => w
    let r := schedule is (o + 1) w1
    ({ ins := i, at_ := o } :: r.1, r.2)

/-- An instruction reads a register other than through the accumulate path. -/
def RInstr.readsPlain (i : RInstr) (k : Nat × Nat) : Bool :=
  i.readCodes.any fun c => regKey c.1 i.imm = some k && !(i.accumulates && c.2)

/-- The recurrence bound of a main schedule (R146). -/
def recurrence (rows : List SchedRow) : Nat :=
  (rows.zipIdx.flatMap fun ri => (rows.drop ri.2).map fun rj =>
    match rj.ins.writes with
    | some k => if ri.1.ins.readsPlain k then rj.at_ - ri.1.at_ + opLatency rj.ins.op else 0
    | none => 0).foldl max 0

/-- The last push of a schedule, from the start of the firing; none where it pushes nothing. -/
def lastPush (rows : List SchedRow) : Option Nat :=
  match (rows.filter fun r => r.ins.pushes).map fun r => r.at_ + opLatency r.ins.op with
  | [] => none
  | x :: xs => some (xs.foldl max x)

/-- The initiation interval of a main body (R146). -/
def initInterval (rows : List SchedRow) : Nat :=
  max (match rows.getLast? with | some r => r.at_ + 1 | none => 1) (recurrence rows)

/-- The lag of a reed (R146). -/
def reedLag (r : List Nat) : Nat :=
  match rrKind r with
  | 1 =>
    let m := schedule (rrMain r) 0 []
    let w := schedule (rrWrap r) (match m.1.getLast? with | some x => x.at_ + 1 | none => 0) m.2
    let lag := (lastPush m.1).getD 0
    match lastPush w.1 with
    | some t => max lag ((rrLimit r (rrWrapCnt r) - 1) * initInterval m.1 + t)
    | none => lag
  | 2 => 2 | 3 => 2 | 4 => 2 | 5 => 3 | _ => 0

/-- A node of the route graph (R158): a link that leaves a reed (direction 4 is the engine link), a reed, one of its
outputs (VO0, VO1, SO, TO), a balance buffer, an engine; a port at the edge stops tracing. -/
inductive Node where
  | link (r net dir : Nat)
  | reed (r : Nat)
  | out (r o : Nat)
  | bb (r : Nat)
  | eng (e : Nat)
  | port (r net dir : Nat)
  deriving DecidableEq, Repr

/-- The link that arrives at a reed from a direction. -/
def arriving (r net dir : Nat) : Node :=
  match reedNext r dir with
  | some q => .link q net ((dir + 2) % 4)
  | none => .port r net dir

/-- The source that a route code of a network names at a reed (R154). -/
def sourceNode (r net code : Nat) : Node :=
  if 1 ≤ code ∧ code ≤ 4 then arriving r net (code - 1)
  else match net, code with
    | 0, 5 => if (attachOut r).isSome then .link r 0 4 else .port r 0 4
    | 0, 6 => .out r 0
    | 0, 7 => .out r 1
    | 0, _ => .bb r
    | 1, 5 => .out r 2
    | 1, _ => .bb r
    | _, _ => .out r 3

/-- The inputs of a reed that have sources: (port code as in R172, source). -/
def reedInputs (idx : Nat) (r : List Nat) : List (Nat × Node) :=
  if rrKind r = 5 ∨ rrKind r = 6 ∨ rrKind r = 0 then []
  else
    ((List.range 4).filter fun i => rrVi r i ≠ 0).map (fun i => (i, sourceNode idx 0 (rrVi r i))) ++
    ((List.range 2).filter fun i => rrSi r i ≠ 0).map (fun i => (4 + i, sourceNode idx 1 (rrSi r i))) ++
    (if rrTi r = 0 then [] else [(6, sourceNode idx 2 (rrTi r))])

/-- Pushes of a body per output (ports 7 to 10 of R172). -/
def bodyPushes (b : List RInstr) (p : Nat) : Nat :=
  (b.filter fun i => match p with
    | 7 => i.op ≠ 0 && i.op ≠ 0x38 && i.dst = 0x48
    | 8 => i.op ≠ 0 && i.op ≠ 0x38 && i.dst = 0x49
    | 9 => i.op ≠ 0 && i.op ≠ 0x38 && i.dst = 0x5C
    | _ => i.op = 0x38).length

/-- The outputs of a reed by its kind and its bodies, VO0, VO1, SO and TO as 0 to 3: those that its bodies push to, VO0 of a SELECT or
MERGE reed, both vector outputs of a BRANCH reed. No path leaves a COMPUTE reed whose bodies push nothing (R146, R152). The END and DONE
tokens of a counter come on TO (R145, R150). -/
def reedOutputs (r : List Nat) : List Nat :=
  let tok := ((List.range 4).any fun i => rrEmitEnd r i) || (rrGoReq r && rrDoneEn r)
  let toks := if tok then [3] else []
  match rrKind r with
  | 1 =>
    let body := (List.range 4).filter fun o => decide (0 < bodyPushes (rrMain r) (7 + o) + bodyPushes (rrWrap r) (7 + o))
    if body.isEmpty then [] else if tok && !body.contains 3 then body ++ toks else body
  | 2 => 0 :: toks
  | 3 => 0 :: toks
  | 4 => 0 :: 1 :: toks
  | _ => []

/-- The edges of one reed's record, from source to consumer. -/
def reedEdges (idx : Nat) (r : List Nat) : List (Node × Node) :=
  if rrKind r = 0 then []
  else
    ((List.range 4).flatMap fun i =>
      (if rrVOut r i = 0 then [] else [(sourceNode idx 0 (rrVOut r i), Node.link idx 0 i)]) ++
      (if rrSOut r i = 0 then [] else [(sourceNode idx 1 (rrSOut r i), Node.link idx 1 i)]) ++
      (if rrTOut r i = 0 then [] else [(sourceNode idx 2 (rrTOut r i), Node.link idx 2 i)])) ++
    (if rrVOutEng r = 0 ∨ attachIn idx = none then [] else [(sourceNode idx 0 (rrVOutEng r), Node.link idx 0 4)]) ++
    (if rrKind r = 5 ∧ rrBbSrc r ≠ 0 then [(sourceNode idx (rrBbNet r) (rrBbSrc r), Node.bb idx)] else []) ++
    (reedInputs idx r).map (fun p => (p.2, Node.reed idx)) ++
    (reedOutputs r).map fun o => (Node.reed idx, Node.out idx o)

/-- The edges through engines: every in-port to every out-port (R158). -/
def engineEdges : List (Node × Node) :=
  (List.range 36).flatMap fun e => (List.range 4).flatMap fun i =>
    [(Node.link (attachInReed e i) 0 4, Node.eng e), (Node.eng e, Node.link (attachOutReed e i) 0 4)]

/-- The route graph of an image set. -/
def State.routeGraph (s : State) (d set : Nat) : List (Node × Node) :=
  ((s.reedsUsed d set).flatMap fun p => reedEdges p.1 p.2) ++ engineEdges

/-- A source that several consumers name is a fork (R139, R158); a reed is none by itself, its outputs are. -/
def isFork (g : List (Node × Node)) (n : Node) : Bool :=
  match n with
  | .reed _ => false
  | .eng _ => false
  | n => decide (1 < (g.filter fun e => e.1 = n).length)

/-- A node that is an element of a path (R158). -/
def Node.isElement : Node → Bool
  | .out _ _ => false
  | .port _ _ _ => false
  | _ => true

/-- Simple paths upstream of a node that end just after a fork: (fork, elements from the fork to the node). `path` is what
has been traced so far, upstream end first. -/
def upPaths (g : List (Node × Node)) : Nat → Node → List Node → List (Node × List Node)
  | 0, _, _ => []
  | f + 1, n, path =>
    (g.filter fun e => e.2 = n).flatMap fun e =>
      if path.contains e.1 then []
      else
        let here := if isFork g e.1 then [(e.1, path.filter Node.isElement)] else []
        match e.1 with
        | .port _ _ _ => here
        | p => here ++ upPaths g f p (p :: path)

/-- The inputs of the joins of an image set: (index, is an engine, input sources) (R158). -/
def State.joins (s : State) (d set : Nat) : List (Nat × Bool × List Node) :=
  ((s.reedsUsed d set).filterMap fun p =>
    let ins := reedInputs p.1 p.2
    match rrKind p.2 with
    | 1 =>
      let fire := ins.filter fun q => (decide (q.1 < 4) && (rrFireVi p.2).testBit q.1) ||
        (decide (4 ≤ q.1 ∧ q.1 < 6) && (rrFireSi p.2).testBit (q.1 - 4))
      if 2 ≤ fire.length then some (p.1, false, fire.map Prod.snd) else none
    | 2 => let v := ins.filter fun q => decide (q.1 < 4)
      if 2 ≤ v.length then some (p.1, false, v.map Prod.snd) else none
    | 3 => let v := ins.filter fun q => decide (q.1 < 4)
      if 2 ≤ v.length then some (p.1, false, v.map Prod.snd) else none
    | _ => none) ++
  (List.range 36).filterMap fun e =>
    let ins := (List.range 4).filter fun i => bitOf ((s.engPortRec d set (8 * e + i)).getD 0 0) 31
    if 2 ≤ ins.length then some (e, true, ins.map fun i => Node.link (attachInReed e i) 0 4) else none

/-- Every fork–join pair that tracing finds: the join and its two paths (R158). A simple path has no more nodes than the graph has edges.
Two inputs that name one source give two equal paths, which are a pair too. -/
def State.forkJoins (s : State) (d set : Nat) : List (Nat × List Node × List Node) :=
  let g := s.routeGraph d set
  (s.joins d set).flatMap fun j =>
    let ups := j.2.2.map fun n =>
      (if isFork g n then [(n, ([] : List Node))] else []) ++ upPaths g (g.length + 1) n [n]
    ups.zipIdx.flatMap fun a => (ups.drop (a.2 + 1)).flatMap fun b =>
      a.1.flatMap fun p => (b.filter fun q => q.1 = p.1).map fun q => (j.1, p.2, q.2)

/-- Simple cycles through a node whose other nodes come later in `order` (R159). -/
def cyclesFrom (g : List (Node × Node)) (start : Node) (allowed : List Node) : Nat → Node → List Node → List (List Node)
  | 0, _, _ => []
  | f + 1, n, path =>
    (g.filter fun e => e.1 = n).flatMap fun e =>
      if e.2 = start then [path.reverse.filter Node.isElement]
      else if path.contains e.2 || !allowed.contains e.2 then []
      else cyclesFrom g start allowed f e.2 (e.2 :: path)

/-- Every directed cycle of routes (R159). -/
def routeCycles (g : List (Node × Node)) : List (List Node) :=
  let nodes := (g.map Prod.fst).foldl (fun a n => if a.contains n then a else a ++ [n]) []
  nodes.zipIdx.flatMap fun p => cyclesFrom g p.1 (nodes.drop (p.2 + 1)) (nodes.length + 1) p.1 [p.1]

/-- A declared element (R160): the node and the declared lag of an engine. -/
structure DeclElem where
  node : Option Node
  lag  : Nat
  deriving DecidableEq, Repr

/-- A declaration (R160). -/
structure Decl where
  cycle : Bool
  p1    : List DeclElem
  p2    : List DeclElem
  init  : Nat
  deriving DecidableEq, Repr

/-- An element from its two words. -/
def declElem (w0 w1 : Nat) : DeclElem :=
  let ix := bitsOf w0 12 0
  { node := match bitsOf w0 15 13 with
      | 0 => some (.link ix (bitsOf w0 17 16) (bitsOf w0 20 18))
      | 1 => some (.reed ix)
      | 2 => some (.bb ix)
      | 3 => some (.eng ix)
      | _ => none
    lag := w1 }

/-- The declarations of an image set (R160): a head of four words, KIND, the element counts of P1 and P2, INIT (log entry
26), then the elements. -/
def State.decls (s : State) (d set : Nat) : List Decl :=
  go s d set (s.imgDeclCount d set) (s.imgSec d set secCredit).1
where
  /-- `n` declarations from an offset. -/
  go (s : State) (d set : Nat) : Nat → Nat → List Decl
    | 0, _ => []
    | n + 1, off =>
      let w := s.imgWords d set off 4
      let n1 := w.getD 1 0
      let n2 := w.getD 2 0
      let el := fun i => declElem (s.imgWord d set (off + 16 + 8 * i)) (s.imgWord d set (off + 20 + 8 * i))
      { cycle := w.getD 0 0 = 1, p1 := (List.range n1).map el, p2 := (List.range n2).map fun i => el (n1 + i)
        init := w.getD 3 0 } :: go s d set n (off + 16 + 8 * (n1 + n2))

/-- Two elements follow one another by a route, directly or through a reed's output. -/
def adjacent (g : List (Node × Node)) (a b : Node) : Bool :=
  g.any fun e => e.1 = a && (e.2 = b || (!e.2.isElement && g.any fun f => f.1 = e.2 && f.2 = b))

/-- A declared path is connected by the routes (R161). -/
def pathOk (g : List (Node × Node)) (cyc : Bool) (p : List DeclElem) : Bool :=
  let ns := p.filterMap DeclElem.node
  decide (ns.length = p.length) && (!cyc || !p.isEmpty) && decide (p.length ≤ 64) &&
    ns.all (fun n => g.any fun e => e.1 = n || e.2 = n) &&
    ((ns.zip (ns.drop 1)).all fun q => adjacent g q.1 q.2) &&
    (!cyc || (match ns.getLast?, ns.head? with | some a, some b => adjacent g a b | _, _ => false))

/-- Lag and depth of a declared element (R158). -/
def State.elemCost (s : State) (d set : Nat) (e : DeclElem) : Nat × Nat :=
  match e.node with
  | some (.link _ net dir) => if dir = 4 then (7, 8) else (2, match net with | 0 => 4 | 1 => 8 | _ => 16)
  | some (.reed r) => (reedLag (s.reedRec d set r), 0)
  | some (.bb r) => (3, rrBbDepth (s.reedRec d set r))
  | some (.eng _) => (e.lag, 0)
  | _ => (0, 0)

/-- Λ and Q of a declared path (R158). -/
def State.pathCost (s : State) (d set : Nat) (p : List DeclElem) : Nat × Nat :=
  ((p.map fun e => (s.elemCost d set e).1).sum, (p.map fun e => (s.elemCost d set e).2).sum)

/-- The outcome of an audit: reason (0 passed), index, required and declared depth. -/
structure AuditOut where
  reason : Nat
  index  : Nat
  req    : Nat
  got    : Nat
  deriving DecidableEq, Repr

/-- The checks of one path of a declaration (R161): 5 it is not connected or too long, 6 an engine's lag lies below the floor; none. -/
def pathReason (g : List (Node × Node)) (cyc : Bool) (p : List DeclElem) : Option Nat :=
  if !pathOk g cyc p then some 5
  else if p.any fun e => (match e.node with | some (.eng _) => decide (e.lag < 287) | _ => false) then some 6
  else none

/-- The audit of one declaration (R161): path after path, then the balance of the pair or of the cycle. -/
def State.auditDecl (s : State) (d set : Nat) (g : List (Node × Node)) (i : Nat) (x : Decl) : Option AuditOut :=
  let paths := if x.cycle then [x.p1] else [x.p1, x.p2]
  match paths.findSome? (pathReason g x.cycle) with
  | some r => some ⟨r, i, 0, 0⟩
  | none =>
  if x.cycle then
    let inits := (x.p1.map fun e => match e.node with | some (.reed r) => rrInitCnt (s.reedRec d set r) | _ => 0).sum
    let q := (s.pathCost d set x.p1).2
    if x.init < 1 ∨ x.init ≠ inits ∨ q < x.init + 1 then some ⟨2, i, x.init + 1, q⟩ else none
  else
    let a := s.pathCost d set x.p1
    let b := s.pathCost d set x.p2
    let sl := if a.1 ≤ b.1 then (a, b) else (b, a)
    if sl.1.2 < sl.2.1 - sl.1.1 + 2 then some ⟨1, i, sl.2.1 - sl.1.1 + 2, sl.1.2⟩ else none

/-- The nodes of a declared path. -/
def pathNodes (p : List DeclElem) : List Node := p.filterMap DeclElem.node

/-- Two cycles hold the same elements. -/
def sameCycle (a b : List Node) : Bool := decide (a.length = b.length) && a.all fun n => b.contains n

/-- The credit audit of an image set (R161). -/
def State.creditAudit (s : State) (d set : Nat) : AuditOut :=
  let reeds := s.reedsUsed d set
  match reeds.find? fun p => reedLag p.2 ≠ rrLag p.2 with
  | some p => ⟨3, p.1, 0, 0⟩
  | none =>
    let g := s.routeGraph d set
    let ds := s.decls d set
    match ds.zipIdx.findSome? fun x => s.auditDecl d set g x.2 x.1 with
    | some o => o
    | none =>
      let pairs := ds.filter fun x => !x.cycle
      match (s.forkJoins d set).find? fun f => !pairs.any fun x =>
          (pathNodes x.p1 = f.2.1 && pathNodes x.p2 = f.2.2) || (pathNodes x.p1 = f.2.2 && pathNodes x.p2 = f.2.1) with
      | some f => ⟨4, f.1, 0, 0⟩
      | none =>
        match (routeCycles g).find? fun c => !(ds.filter fun x => x.cycle).any fun x => sameCycle (pathNodes x.p1) c with
        | some _ => ⟨2, 0, 0, 0⟩
        | none => ⟨0, 0, 0, 0⟩

/-- The payload of a fabric record (R172). -/
def fabPayload (reed port queue cause occ v6 v10 mb : Nat) : List Byte :=
  payload [(0, 2, reed), (2, 1, port), (3, 1, queue), (4, 1, cause), (5, 1, occ), (6, 4, v6), (10, 4, v10), (14, 2, mb)]

/-- CREDIT_AUDIT (R161): the audit of the loaded shadow set ends: READY, or REJECTED with FAB_AUDIT_FAIL; a pending swap of
a rejected set is cancelled. A cycle that is not declared has no number of its own: the index is a free value (log entry 79). -/
def execCreditAudit (d : Die) (s : State) : Host.Outcome State Fault Refusal :=
  if s.still then .next s else
  if (s.fabD d).shadow ≠ 2 then .next s
  else
    let o := s.creditAudit d (s.shadowOf d)
    let page := Page.fab d
    let s1 := s.count (regAddr page 0x48) 1
    if o.reason = 0 then .next (s1.updFab d fun f => { f with shadow := 3 })
    else
      let lone := decide (o.reason = 2 ∧ o.req = 0)
      let index := if lone then (s.fresh 14).toNat else o.index
      let s2 := ((s1.updFab d fun f => { f with
        shadow := 4, rejectedBy := 2, swap := false, defers := 0, auditReason := o.reason, auditDecl := index % 16384 }).count
        (regAddr page 0x4C) 1).used (b2n lone)
      let reed := if o.reason = 3 ∨ o.reason = 4 then o.index else 0xFFFF
      let decl := if o.reason = 1 ∨ (o.reason = 2 ∧ o.req ≠ 0) then o.got else index
      .next (s2.raise page Code.fabAuditFail (fabPayload reed 0xFF 0xFF o.reason 0 o.req decl 0xFFFF))

end Sys2Proof.Machine
end

