-- ==== Sys2Proof/Machine/Health.lean ====
section
/-! DEFINITION. The health block: monitors, normalised trends and the forecast of remaining life (R426 to
R428). -/

namespace Sys2Proof.Machine

/-- A monitor's key: its kind (1 ring oscillator, 2 lane margin, 3 crust retention, 4 Trough errors) and its
index in the form of LIMIT_INDEX. -/
def monKey (kind index : Nat) : Nat := kind * 4096 + index

/-- Every monitor of R426. -/
def monAll : List (Nat × Nat) :=
  ((List.range 72).map fun i => (1, i)) ++ ((List.range 768).map fun i => (2, i)) ++
    ((List.range 16).map fun i => (3, i)) ++ ((List.range 256).map fun i => (4, i))

/-- The mode factor f of R426 for a kind of monitor. -/
def monFactor (kind : Nat) (e : Envelope) : Rat :=
  if kind = 1 then (match e with | .quiet => 45 / 100 | .sustain => 1 | .sprint => 190 / 100) else 1

/-- The limit of a monitor (R426). -/
def State.monLimit (s : State) (kind index : Nat) : Rat :=
  match kind with
  | 1 => 40000
  | 2 => (fld (s.rwAt (regAddr (Page.port (index / 32)) 0x104)) 10 3 : Nat)
  | 3 => (2 * refreshMs (s.mt.band index) : Nat)
  | _ => (s.ceLimit (index / 16) : Nat)

/-- A monitor of this kind wears upwards. -/
def monUp (kind : Nat) : Bool := kind = 1 || kind = 4

/-- Distance from a value to the limit in the direction of wear, negative beyond it (R427). -/
def State.monRoom (s : State) (kind index : Nat) (v : Rat) : Rat :=
  if monUp kind then s.monLimit kind index - v else v - s.monLimit kind index

/-- Least-squares slope per hour of a series given newest first (R427). -/
def slopeOf (l : List Rat) : Rat :=
  let ys := l.reverse
  let n : Rat := (ys.length : Nat)
  let sx : Rat := ((List.range ys.length).sum : Nat)
  let sxx : Rat := (((List.range ys.length).map fun i => i * i).sum : Nat)
  let sy : Rat := ys.foldl (· + ·) 0
  let sxy : Rat := ((ys.zipIdx.map fun p => p.1 * ((p.2 : Nat) : Rat)).foldl (· + ·) 0)
  let den := n * sxx - sx * sx
  if den = 0 then 0 else (n * sxy - sx * sy) / den

/-- No measurable wear (R427, R430). -/
abbrev lifeMax : Nat := 0xFFFFFFFF

/-- TREND_H and REPLAY_LIMIT, LIFE_WARN and TEMP_WARN of the health page. -/
def State.trendH (s : State) : Nat := fld (s.rwAt (regAddr Page.health 0x10C)) 13 0
def State.replayLimit (s : State) : Nat := fld (s.rwAt (regAddr Page.health 0x10C)) 29 14
def State.lifeWarn (s : State) : Nat := fld (s.rwAt (regAddr Page.health 0x100)) 23 8
def State.tempWarn (s : State) : Nat := fld (s.rwAt (regAddr Page.health 0x100)) 7 0

/-- The slope and the remaining life of one monitor with at least 24 hourly values (R427). -/
def State.monLife (s : State) (kind index : Nat) (m : Monitor) : Rat × Nat :=
  let sl := slopeOf (m.norm.take s.trendH)
  let room := s.monRoom kind index (m.values.headD 0)
  let w := (if monUp kind then sl else -sl) * monFactor kind s.bel.modeAct
  let life := if room ≤ 0 then 0 else if 0 < w then (room / w).floor.toNat else lifeMax
  (sl, min life lifeMax)

/-- The payload of a health record (R431). -/
def hltPayload (s : State) (cause kind index value life : Nat) : List Byte :=
  payload [(0, 1, cause), (1, 1, kind), (2, 2, index), (4, 4, value), (8, 4, life), (12, 4, s.ctl.stepNo)]

/-- The latest hourly value of a monitor as a record carries it, rounded down (R431). -/
def State.monValue (s : State) (kind index : Nat) : Nat :=
  ((s.hlt.monitors.get Monitor.none (monKey kind index)).values.headD 0).floor.toNat

/-- Recompute the remaining life (R427): every monitor with at least 24 hourly values, the least life and
what limits it; HLT_LIFE_LOW where it falls below LIFE_WARN. -/
def State.recomputeLife (s : State) : State :=
  let ms := monAll.filterMap fun k =>
    let m := s.hlt.monitors.get Monitor.none (monKey k.1 k.2)
    if 24 ≤ m.norm.length then some (k, s.monLife k.1 k.2 m) else none
  let best := ms.foldl (fun (a : Nat × Nat × Nat) x =>
    if a.1 = 0 ∨ x.2.2 < a.2.2 then (x.1.1, x.1.2, x.2.2) else a) (0, 0, lifeMax)
  let low := decide (ms ≠ [] ∧ best.2.2 < s.lifeWarn)
  let s1 := { s with hlt := { s.hlt with
    lifeValid := decide (ms ≠ [])
    lifeKind := if best.2.2 = lifeMax then 0 else best.1
    lifeIndex := if best.2.2 = lifeMax then 0 else best.2.1
    life := best.2.2
    lives := ms.foldl (fun t x => t.set 0 (monKey x.1.1 x.1.2) (x.2.2 + 1)) Tbl.empty
    slopes := ms.foldl (fun t x => t.set 0 (monKey x.1.1 x.1.2) x.2.1) Tbl.empty
    lifeLow := low } }
  if low && !s.hlt.lifeLow then
    s1.raise Page.health Code.hltLifeLow (hltPayload s 0 best.1 best.2.1 (s.monValue best.1 best.2.1) best.2.2)
  else s1

/-- Add a sample to a monitor's present hour (R426). -/
def State.monSample (s : State) (kind index : Nat) (v : Rat) : State :=
  { s with hlt := { s.hlt with
    monitors := s.hlt.monitors.upd Monitor.none (monKey kind index) fun m => { m with sum := m.sum + v, n := m.n + 1 } } }

/-- RING_OSC_SAMPLE (R426): readings of the oscillators, corrected by the fused table for the domain's voltage
and temperature. -/
def execRingOscSample (samples : List (Pd × Fin 4 × Nat)) (s : State) : Host.Outcome State Fault Refusal :=
  .next (samples.foldl (fun t x =>
    t.monSample 1 x.1.val ((Config.ringCorrect x.1.val x.2.1.val
      (t.dom.get Domain.off x.1.val).setMv (t.hlt.temps.get 0 x.1.val) x.2.2 : Nat) : Rat)) s)

/-- RETENTION_CANARY (R426, R428): the longest window that a crust die's canary rows hold; below twice the
refresh window of its band the health block raises the die one band, as far as there is a higher one, and raises HLT_TREND, cause 1. -/
def execRetentionCanary (crust : Fin 16) (windowMs : Nat) (s : State) : Host.Outcome State Fault Refusal :=
  let k := crust.val
  let s1 := { s with mt := { s.mt with canary := s.mt.canary.set 0 k windowMs } }
  if windowMs < 2 * refreshMs (s.mt.band k) then
    let s2 := State.bandEvent { s1 with mt := { s1.mt with
      raised := if s.mt.band k < 3 then s1.mt.raised.upd 0 k (· + 1) else s1.mt.raised } } k (s.mt.band k)
    .next ((s2.count (regAddr Page.health 0x50) 1).raise Page.health Code.hltTrend
      (hltPayload s 1 3 k windowMs (2 * refreshMs (s.mt.band k))))
  else .next s1

/-- The weighted mode factor of the hour that ends (R427). -/
def Health.factor (h : Health) (kind : Nat) (e : Envelope) : Rat :=
  let t := h.quietUs + h.sustainUs + h.sprintUs
  if t = 0 then monFactor kind e
  else (monFactor kind .quiet * (h.quietUs : Nat) + monFactor kind .sustain * (h.sustainUs : Nat)
    + monFactor kind .sprint * (h.sprintUs : Nat)) / (t : Nat)

/-- The hourly value of a monitor, if the hour has one (R426). -/
def State.hourValue (s : State) (kind index : Nat) (m : Monitor) : Option Rat :=
  match kind with
  | 3 => if s.mt.canary.get 0 index = 0 then none else some ((s.mt.canary.get 0 index : Nat) : Rat)
  | 4 => some ((s.mt.ceLast.get 0 (16 + index) : Nat) : Rat)
  | _ => if m.n = 0 then none else some (m.sum / (m.n : Nat))

/-- A monitor takes its hourly value: the change, divided by the hour's factor, joins the running sum
(R427). -/
def Monitor.hour (m : Monitor) (v f : Rat) : Monitor :=
  let nrm := match m.values, m.norm with
    | old :: _, acc :: _ => acc + (v - old) / f
    | _, _ => 0
  { values := v :: m.values, norm := nrm :: m.norm, sum := 0, n := 0 }

/-- The counter A_CHECK_REPLAY or B_CHECK_REPLAY of array 2 × (36 d + e) + a (R79). -/
def checkReplayAddr (array : Nat) : Nat :=
  regAddr (0x0100 + array / 2) (if array % 2 = 0 then 0x50 else 0x6C)

/-- HOURLY_TREND (R427, R428): every monitor takes its hourly value, one that passes its limit and every array
whose check replays rose by more than REPLAY_LIMIT raise HLT_TREND, and the remaining life is recomputed. -/
def execHourlyTrend (s : State) : Host.Outcome State Fault Refusal :=
  let step := fun (t : State) (k : Nat × Nat) =>
    let m := t.hlt.monitors.get Monitor.none (monKey k.1 k.2)
    match t.hourValue k.1 k.2 m with
    | none => t
    | some v =>
      let m1 := m.hour v (t.hlt.factor k.1 t.bel.modeAct)
      let t1 := { t with hlt := { t.hlt with
        monitors := t.hlt.monitors.set Monitor.none (monKey k.1 k.2) m1 } }
      let was := match m.values with | [] => false | old :: _ => decide (t.monRoom k.1 k.2 old < 0)
      if decide (t.monRoom k.1 k.2 v < 0) && !was then
        (t1.count (regAddr Page.health 0x50) 1).raise Page.health Code.hltTrend
          (hltPayload t 3 k.1 k.2 v.floor.toNat 0)
      else t1
  let s1 := monAll.foldl step s
  let s2 := (List.range 288).foldl (fun t a =>
    let n := t.cntAt (checkReplayAddr a)
    let t1 := { t with hlt := { t.hlt with replayBase := t.hlt.replayBase.set 0 a n } }
    if t.replayLimit < n - t.hlt.replayBase.get 0 a then
      (t1.count (regAddr Page.health 0x50) 1).raise Page.health Code.hltTrend
        (hltPayload t 2 0 a (n - t.hlt.replayBase.get 0 a) t.replayLimit)
    else t1) s1
  .next (State.recomputeLife { s2 with
    hlt := { s2.hlt with quietUs := 0, sustainUs := 0, sprintUs := 0 },
    fuse := { s2.fuse with hours := s2.fuse.hours + 1 } })

/-- The key of a temperature sensor: junctions 0 to 71, memory dies from 128. -/
def sensorKey : Sensor → Nat
  | .junction p => p.val
  | .memory m => 128 + memDieKey m

/-- A sensor's reading is taken; a warning or limit event may be raised again once every sensor concerned is
3 °C below its threshold (R429). -/
def State.setTemp (s : State) (key c : Nat) : State :=
  let temps := s.hlt.temps.set 0 key c
  let all := fun (thr : Nat) (p : Nat → Bool) => temps.cells.all fun x => !p x.1 || decide (x.2 + 3 ≤ thr)
  { s with hlt := { s.hlt with
    temps := temps
    warnArmed := s.hlt.warnArmed || all s.tempWarn fun _ => true
    limitArmed := s.hlt.limitArmed || all 95 fun k => k < 128
    tripArmed := s.hlt.tripArmed || all 105 fun _ => true } }

/-- A memory die's own sensor sets the band of its refresh (R288). -/
def State.followBand (s : State) (die : MemDie) (c : Nat) : State :=
  let k := memDieKey die
  State.bandEvent { s with mt := { s.mt with tempBand := s.mt.tempBand.set 0 k (bandStep (s.mt.tempBand.get 0 k) c) } } k (s.mt.band k)

/-- A sensor reads `c`: the reading stands, and a memory die's band follows it (R288, R426). -/
def State.readSensor (s : State) (x : Sensor) (c : Nat) : State :=
  match x with
  | .junction _ => s.setTemp (sensorKey x) c
  | .memory m => (s.setTemp (sensorKey x) c).followBand m c

/-- MEM_REFRESH_BAND (R288): a memory die's sensor reads `c` and the die's band follows. -/
def execMemRefreshBand (die : MemDie) (c : Nat) (s : State) : Host.Outcome State Fault Refusal :=
  .next (s.readSensor (.memory die) c)

/-- The index of a sensor in the form of LIMIT_INDEX (R431): the domain, the crust die, or 16 × stack + die. -/
def sensorIndex (key : Nat) : Nat :=
  if key < 128 then key else if key < 144 then key - 128 else key - 144

/-- TEMP_WARN (R429): a sensor has read `c` for 1 ms; at or above TEMP_WARN it raises HLT_TEMP_HIGH, cause 1. -/
def execTempWarn (sensor : Sensor) (c : Nat) (s : State) : Host.Outcome State Fault Refusal :=
  let s1 := s.readSensor sensor c
  if s.tempWarn ≤ c && s1.hlt.warnArmed then
    let s2 := { s1 with hlt := { s1.hlt with warnArmed := false } }
    .next ((s2.count (regAddr Page.health 0x40) 1).raise Page.health Code.hltTempHigh
      (hltPayload s 1 0 (sensorIndex (sensorKey sensor)) c s.tempWarn))
  else .next s1

end Sys2Proof.Machine
end

