-- ==== Sys2Proof/Machine/Bellows.lean ====
section
/-! DEFINITION. Envelopes, the Bellows loop, supply alerts and messages, droop (R352 to R361, R429). -/

namespace Sys2Proof.Machine

/-- The envelope in mW (R352). -/
def Envelope.milliwatts : Envelope → Nat
  | .quiet => 3500000 | .sustain => 5000000 | .sprint => 6000000

/-- The nominal voltage of the VCD rails in mV (R352). -/
def Envelope.nominalMv : Envelope → Nat
  | .quiet => 680 | .sustain => 780 | .sprint => 850

/-- The arithmetic clock in ac per µs (R352). -/
def Envelope.acPerUs : Envelope → Nat
  | .quiet => 1600 | .sustain => 2100 | .sprint => 2400

/-- The envelope that a MODE value names; 3 is reserved (R353). -/
def Envelope.ofCode? : Nat → Option Envelope
  | 0 => some .quiet | 1 => some .sustain | 2 => some .sprint | _ => none

/-- A power domain is fed by a VCD rail: engine groups and fabric quadrants (R434). -/
def pdIsVcd (n : Nat) : Bool := decide (n < 56) && decide (n % 14 < 10)

/-- The nominal set point of a domain's rail in mV (R352, R434). -/
def pdNominal (n : Nat) (e : Envelope) : Nat :=
  if n < 56 then (if n % 14 < 10 then e.nominalMv else if n % 14 = 13 then 1800 else 800)
  else if n < 64 then (if n % 4 = 3 then 1800 else 800)
  else 750

/-- A set point within −40 mV to +20 mV of nominal and never above 0.85 V (R361). -/
def trimClamp (nominal mv : Nat) : Nat := min 850 (min (nominal + 20) (max (nominal - 40) mv))

/-- VOUT_TRANSITION_RATE in µV/µs where the package sets it: 12.5 mV/µs on the VCD rails (R353, R433). -/
def voutRate (rail : Fin 9) : Option Nat := if rail.val < 4 then some 12500 else none

/-- A set point moved to another envelope keeps its trim (R353, R361). -/
def retrim (n : Nat) (old new : Envelope) (d : Domain) : Domain :=
  if pdIsVcd n then { d with setMv := trimClamp new.nominalMv (d.setMv + new.nominalMv - old.nominalMv) } else d

/-- The envelope that VCD is set for: VCD moves before the PLL switches, up or down (R353, R358). -/
def Bellows.vcdMode (b : Bellows) : Envelope :=
  match b.move with
  | .idle => b.modeAct
  | .falling e _ => e
  | .rising e => e

/-- The set point that a domain requests of its VCD rail while the rail is set for envelope `env` (R353, R361): the nominal voltage while
it ramps, its trimmed set point once it is on. -/
def State.vcdAsked (s : State) (env : Envelope) (n : Nat) : Option Nat :=
  let d := s.dom.get Domain.off n
  match d.state with
  | 0 => none
  | 1 => some env.nominalMv
  | _ => some (retrim n s.bel.modeAct env d).setMv

/-- The VOUT_COMMAND that a rail's regulator holds, in mV (R361, R433): the highest set point that the domains of a compute die request for
its VCD rail, the mode's own while none is on; the nominal voltage of every other rail (R434). Rails 0 to 3 are VCD0 to VCD3, then VCRUST,
VEDGE, VPRF, VTROUGH and VAUX. -/
def State.voutCommand (s : State) (rail : Fin 9) : Nat :=
  match rail.val with
  | 4 => 800
  | 5 => 800
  | 6 => 750
  | 7 => 1100
  | 8 => 1800
  | d =>
    let asked := (List.range 10).filterMap fun i => s.vcdAsked s.bel.vcdMode (14 * d + i)
    if asked.isEmpty then s.bel.vcdMode.nominalMv else asked.foldl max 0

/-- An envelope comes into force: the PLL has switched, any stretch is released, set points follow, and the
remaining life is recomputed for the new mode (R353, R358, R427). -/
def State.setMode (s : State) (e : Envelope) : State :=
  State.recomputeLife { s with
    bel := { s.bel with modeAct := e, move := .idle, stretched := false }
    dom := (List.range 56).foldl
      (fun t n => if (s.dom.get Domain.off n).state = 0 then t
        else t.set Domain.off n (retrim n s.bel.modeAct e (s.dom.get Domain.off n))) s.dom }

/-- Raise PWR_SHED with a cause and count it (R358, R366). -/
def State.raiseShed (s : State) (cause : Nat) : State :=
  (s.count (regAddr Page.bellows 0x4C) 1).raise Page.bellows Code.pwrShed (cadPayload s cause 0xFFFF 0 0)

/-- The move to Quiet that an alert, a SHED, a FREQ_DEV of action 2 or a junction at its limit starts: the
clock stretches and VCD falls, and PWR_SHED is raised once Quiet is in force; a pending change of MODE is dropped. In Quiet it has no
effect apart from raising PWR_SHED (R358, R359, R429; log entry 190). -/
def State.shed (s : State) (cause : Nat) : State :=
  let b := { s.bel with narrow := none, widen := none }
  match s.bel.move with
  | .falling _ cs => { s with bel := { b with move := .falling .quiet (cs ++ [cause]) } }
  | _ =>
    if s.bel.modeAct = .quiet then s.raiseShed cause
    else { s with bel := { b with move := .falling .quiet [cause], stretched := true } }

/-- ALERT_EN (R358). -/
def State.alertEn (s : State) : Bool := (s.rwAt (regAddr Page.bellows 0x100)).getLsbD 2

/-- The package has power and is not in OFF. -/
def State.powered (s : State) : Bool := decide (s.ctl.state ≠ .off)

/-- SUPPLY_ALERT (R358): SUPPLY_ALERT_N has been low for 0.5 µs; with ALERT_EN set it is recognised. A
brown-out takes precedence (R360). -/
def execSupplyAlert (s : State) : Host.Outcome State Fault Refusal :=
  let s1 := { s with pins := { s.pins with alertN := false } }
  if s.powered && s.alertEn && !s.bel.stopped then .next (s1.shed 1) else .next s1

/-- SUPPLY_ALERT_RELEASE (R353): the signal is high again, and a pending widening may proceed. -/
def execSupplyAlertRelease (s : State) : Host.Outcome State Fault Refusal :=
  .next { s with pins := { s.pins with alertN := true } }

/-- PLL_SWITCH (R353, R358): VCD has settled, the clock switches to the new PLL and a stretch is released; a
shed raises PWR_SHED for each of its causes. -/
def execPllSwitch (s : State) : Host.Outcome State Fault Refusal :=
  match s.bel.move with
  | .idle => .next s
  | .rising e => .next (s.setMode e)
  | .falling e cs => .next (cs.foldl State.raiseShed (s.setMode e))

/-- A write of the word that holds MODE and ALERT_EN (R353): value 3 leaves MODE as it was; a narrower envelope
waits for the next tick, a wider one for the next seal; writing the envelope in force drops what waits. -/
def State.writeMode (s : State) (v : Word) : State :=
  let a := regAddr Page.bellows 0x100
  match Envelope.ofCode? (fld v 1 0) with
  | none => s.setRw a (mkWord [(0, fld (s.rwAt a) 1 0), (2, fld v 2 2)])
  | some e =>
    let s1 := s.setRw a (v &&& 7)
    let cur := match s.bel.move with
      | .idle => s.bel.modeAct | .falling t _ => t | .rising t => t
    { s1 with bel := { s1.bel with
      narrow := if e.code < cur.code then some e else none
      widen := if cur.code < e.code then some e else none } }

/-- MODE (R353). -/
def execMode (v : Word) (s : State) : Host.Outcome State Fault Refusal := .next (s.writeMode v)

/-- At a tick a pending narrowing starts, by the sequence of an alert (R353). -/
def State.startNarrow (s : State) : State :=
  match s.bel.narrow, s.bel.move with
  | some e, .idle => { s with bel := { s.bel with move := .falling e [], narrow := none, stretched := true } }
  | some e, .rising _ => { s with bel := { s.bel with move := .falling e [], narrow := none, stretched := true } }
  | _, _ => s

/-- At a seal a pending widening starts, unless SUPPLY_ALERT_N is asserted (R353). -/
def State.startWiden (s : State) : State :=
  match s.bel.widen, s.bel.move with
  | some e, .idle => if s.pins.alertN then { s with bel := { s.bel with move := .rising e, widen := none } } else s
  | _, _ => s

/-- The power plan in force: RAMP_PCT, FLOOR_PCT, BALLAST_PCT, BALLAST_EN, and THR_BUDGET (R356). In HELD the
Bellows acts as if BALLAST_EN were 0. -/
def State.rampPct (s : State) : Nat := fld (s.shAt (regAddr Page.bellows 0x104)) 5 0
def State.floorPct (s : State) : Nat := fld (s.shAt (regAddr Page.bellows 0x104)) 12 6
def State.ballastPct (s : State) : Nat := fld (s.shAt (regAddr Page.bellows 0x104)) 17 13
def State.ballastEn (s : State) : Bool :=
  (s.shAt (regAddr Page.bellows 0x104)).getLsbD 18 && decide (s.ctl.state ≠ .held)
def State.thrBudget (s : State) : Nat := (s.shAt (regAddr Page.bellows 0x108)).toNat
def State.capW (s : State) : Nat := fld (s.rwAt (regAddr Page.bellows 0x10C)) 12 0
def State.ballastNj (s : State) : Nat := fld (s.rwAt (regAddr Page.bellows 0x11C)) 15 0

/-- The limits of one pass of the loop (R354), in mW: ceil, up, hi, lo and the guard band. -/
structure BellowsLimits where
  ceil : Nat
  up   : Nat
  hi   : Nat
  lo   : Nat
  g    : Nat
  deriving DecidableEq, Repr

/-- The limits that the loop computes before it compares (R354). -/
def State.bellowsLimits (s : State) : BellowsLimits :=
  let env := s.bel.modeAct.milliwatts
  let ceil := if s.capW ≠ 0 then min env (s.capW * 1000) else env
  let up := if s.bel.hold then 0 else (if s.bel.relaxed then 50 else s.rampPct) * env / 100000
  let dn := s.rampPct * env / 100000
  let flr := if s.ballastEn then s.floorPct * env / 100 else 0
  { ceil := ceil, up := up, hi := min (s.bel.lim + up) ceil, lo := max (s.bel.lim - dn) flr, g := env / 50 }

/-- The draw that one more ballast level would add, in mW, for `nElig` eligible arrays (R354). -/
def State.ballastInc (s : State) (nElig : Nat) : Nat := s.ballastNj * nElig * s.bel.modeAct.acPerUs / 16

/-- Throttle and ballast levels after one comparison (R354). -/
def State.bellowsLevels (s : State) (p nElig : Nat) : Nat × Nat :=
  let l := s.bellowsLimits
  let k := s.bel.throttle
  let b := s.bel.ballast
  let inc := s.ballastInc nElig
  let est := s.ballastNj * s.bel.rows
  if l.hi < p then (if 0 < b then (k, b - 1) else (min (k + 1) 15, b))
  else if p < l.lo then
    if 0 < k then (k - 1, b)
    else if s.ballastEn ∧ b < 15 ∧ est + inc ≤ s.ballastPct * s.bel.modeAct.milliwatts / 100 then (k, b + 1)
    else (k, b)
  else
    (if 0 < k ∧ p + l.g < l.hi then k - 1 else k,
     if 0 < b ∧ (l.lo + l.g < p ∨ (s.ballastEn = false ∧ l.lo + inc ≤ p)) then b - 1 else b)

/-- The µs of this pass count against the step's throttle budget: throttled by the ramp, not by the cap, a HOLD
or the envelope (R355). -/
def State.rampThrottles (s : State) : Bool :=
  let l := s.bellowsLimits
  decide (0 < s.bel.throttle) && !s.bel.hold && decide (s.bel.lim + l.up < l.ceil)

/-- The µs of this pass are limited by CAP_W (log entry 15). -/
def State.capThrottles (s : State) : Bool :=
  let l := s.bellowsLimits
  decide (0 < s.bel.throttle) && decide (s.capW ≠ 0) && decide (l.ceil < s.bel.modeAct.milliwatts) &&
    decide (l.ceil ≤ s.bel.lim + l.up)

/-- The sum of the nine rails in mW, from (rail, mV, A) readings. -/
def railSum (rails : List (Fin 9 × Nat × Nat)) : Nat := (rails.map fun r => r.2.1 * r.2.2).sum

/-- One pass of the Bellows loop at draw `p` with `nElig` arrays eligible for ballast (R354 to R356): the levels
move by at most one, L follows, and the throttle, ballast and cap times are counted. -/
def State.bellowsPass (s : State) (rails : List (Fin 9 × Nat × Nat)) (nElig : Nat) : State :=
  let p := railSum rails
  let l := s.bellowsLimits
  let kb := s.bellowsLevels p nElig
  let c1 := if 0 < kb.1 then s.cnt.upd 0 (regAddr Page.bellows 0x40) (· + 1) else s.cnt
  let c2 := if 0 < kb.2 then c1.upd 0 (regAddr Page.bellows 0x44) (· + 1) else c1
  let c3 := if s.capThrottles then c2.upd 0 (regAddr Page.bellows 0x48) (· + 1) else c2
  { s with
    cnt := c3
    bel := { s.bel with
      draw := p, throttle := kb.1, ballast := kb.2
      lim := min (max p l.lo) l.hi
      thrUs := s.bel.thrUs + b2n s.rampThrottles
      rails := rails.foldl (fun t r => t.set 0 r.1.val (r.2.1 % 4096 + (r.2.2 % 65536) * 4096)) s.bel.rails
      energy := s.bel.energy + p
      ballastE := s.bel.ballastE + s.ballastNj * s.bel.rows
      rows := 0 } }

/-- The model's clock advances by 1 µs (log entry 7): time in the tick, the hour's time in its mode, and the µs
in which the event ring is full (R422). -/
def State.microsecond (s : State) : State :=
  { s with
    nowUs := s.nowUs + 1
    inTick := s.inTick + 1
    hlt := match s.bel.modeAct with
      | .quiet => { s.hlt with quietUs := s.hlt.quietUs + 1 }
      | .sustain => { s.hlt with sustainUs := s.hlt.sustainUs + 1 }
      | .sprint => { s.hlt with sprintUs := s.hlt.sprintUs + 1 }
    cnt := if 4096 ≤ s.evt.ring.length then s.cnt.upd 0 (regAddr Page.event 0x4C) (· + 1) else s.cnt }

/-- PWR_RAMP_RELAXED (R356): the step's ramp throttle has reached THR_BUDGET; the rising limit is relaxed until
the next seal. -/
def execPwrRampRelaxed (s : State) : Host.Outcome State Fault Refusal :=
  if !s.bel.relaxed && decide (s.thrBudget ≤ s.bel.thrUs) && decide (s.ctl.state = .running) then
    let s1 := { s with bel := { s.bel with relaxed := true } }
    .next ((s1.count (regAddr Page.bellows 0x54) 1).raise Page.bellows Code.pwrRampRelaxed
      (cadPayload s 0 0xFFFF s.bel.thrUs 0))
  else .next s

/-- Raise PWR_SUPPLY_MSG (R359, R365). -/
def State.supplyEvent (s : State) (cause value last : Nat) : State :=
  s.raise Page.bellows Code.pwrSupplyMsg (cadPayload s cause 0xFFFF value last)

/-- A HOLD of `n` ticks; 0 ends it (R359). -/
def State.setHold (s : State) (n : Nat) : State :=
  { s with bel := { s.bel with hold := decide (n ≠ 0), holdLeft := n } }

/-- A supply message takes effect (R359). -/
def State.supplyEffect (s : State) (m : SupplyMsg) : State :=
  match m with
  | .cap w => (s.setRw (regAddr Page.bellows 0x10C) (BitVec.ofNat 32 w)).supplyEvent 1 w 0
  | .hold n => (s.setHold n).supplyEvent 2 n 0
  | .shed => (s.shed 2).supplyEvent 4 0 0
  | .freqDev f act =>
    let s1 := s.count (regAddr Page.bellows 0x58) 1
    (match act with | 1 => s1.setHold 64 | 2 => s1.shed 3 | _ => s1).supplyEvent 3 f act

/-- A supply message arrives (R359): it takes effect at once where its tick has come, else it waits. -/
def State.supplyCommand (s : State) (h : Hdr) (tick : DWord) (ok : Bool) (m : SupplyMsg) : State :=
  s.command h 0x0050 false fun x =>
    if !ok then x.invalid h 0x0050 2
    else if tick.toNat ≤ x.cad.tickNo then (x.supplyEffect m).answer h 0x0050 stOk 0
    else State.answer { x with bel := { x.bel with msgs := x.bel.msgs ++ [(tick.toNat, m)] } } h 0x0050 stOk 0

/-- CAP (R359): a cap that CAP_W cannot hold is an argument out of range. -/
def execCap (h : Hdr) (watts : Word) (tick : DWord) (s : State) : Host.Outcome State Fault Refusal :=
  .next (s.supplyCommand h tick (decide (watts.toNat < 8192)) (.cap watts.toNat))

/-- SUPPLY_HOLD (R359). -/
def execSupplyHold (h : Hdr) (ticks : Word) (tick : DWord) (s : State) : Host.Outcome State Fault Refusal :=
  .next (s.supplyCommand h tick true (.hold ticks.toNat))

/-- SHED (R359). -/
def execShed (h : Hdr) (tick : DWord) (s : State) : Host.Outcome State Fault Refusal :=
  .next (s.supplyCommand h tick true .shed)

/-- FREQ_DEV (R359): actions are 0 to 2. -/
def execFreqDev (h : Hdr) (mHz action : Word) (tick : DWord) (s : State) : Host.Outcome State Fault Refusal :=
  .next (s.supplyCommand h tick (decide (action.toNat ≤ 2)) (.freqDev mHz.toNat action.toNat))

/-- SUPPLY_MSG_TICK (R359): the oldest waiting message whose tick has arrived takes effect. -/
def execSupplyMsgTick (s : State) : Host.Outcome State Fault Refusal :=
  match s.bel.msgs.find? fun m => m.1 ≤ s.cad.tickNo with
  | none => .next s
  | some m => .next (State.supplyEffect { s with bel := { s.bel with msgs := s.bel.msgs.erase m } } m.2)

/-- HOLD_EXPIRY (R359): the stated ticks of a HOLD have passed. -/
def execHoldExpiry (s : State) : Host.Outcome State Fault Refusal :=
  if s.bel.hold && decide (s.bel.holdLeft = 0) then .next { s with bel := { s.bel with hold := false } } else .next s

/-- DROOP (R361): a domain's supply falls more than DROOP_MV below its set point; the die stretches its clock. -/
def execDroop (pd : Pd) (s : State) : Host.Outcome State Fault Refusal :=
  let d := s.dom.get Domain.off pd.val
  if pdIsVcd pd.val && decide (d.state = 2) && !d.droop then
    .next (State.count { s with dom := s.dom.set Domain.off pd.val { d with droop := true } } (regAddr (Page.dom pd.val) 0x40) 1)
  else .next s

/-- DROOP_END (R361): 32 ac without droop end the stretch, after `ac` stretched cycles in all. -/
def execDroopEnd (pd : Pd) (ac : Nat) (s : State) : Host.Outcome State Fault Refusal :=
  let d := s.dom.get Domain.off pd.val
  if d.droop then
    .next (State.count { s with dom := s.dom.set Domain.off pd.val { d with droop := false } } (regAddr (Page.dom pd.val) 0x44) ac)
  else .next s

/-- A domain that ramps is on (R363). -/
def State.rampDone (s : State) (n : Nat) : State :=
  if (s.dom.get Domain.off n).state = 1 then
    State.count { s with dom := s.dom.set Domain.off n { state := 2, setMv := pdNominal n s.bel.modeAct, droop := false } }
      (regAddr (Page.dom n) 0x48) 1
  else s

/-- Critical-path monitors trim a domain's set point by 5 mV (R361). -/
def State.trim (s : State) (n : Nat) (t : Trim) : State :=
  let d := s.dom.get Domain.off n
  if pdIsVcd n && decide (d.state = 2) then
    let mv := match t with | .up => d.setMv + 5 | .keep => d.setMv | .down => d.setMv - 5
    { s with dom := s.dom.set Domain.off n { d with setMv := trimClamp (pdNominal n s.bel.modeAct) mv } }
  else s

/-- TEMP_LIMIT (R429): a junction has read `c` for 1 ms; at 95 °C or more it sheds to Quiet and raises
HLT_TEMP_HIGH, cause 2. -/
def execTempLimit (pd : Pd) (c : Nat) (s : State) : Host.Outcome State Fault Refusal :=
  let s1 := s.setTemp pd.val c
  if 95 ≤ c && s1.hlt.limitArmed then
    let s2 := State.count (State.count { s1 with hlt := { s1.hlt with limitArmed := false } }
      (regAddr Page.health 0x40) 1) (regAddr Page.health 0x44) 1
    .next ((s2.raise Page.health Code.hltTempHigh (hltPayload s 2 0 pd.val c 95)).shed 4)
  else .next s1

end Sys2Proof.Machine
end

