-- ==== Sys2Proof/Machine/Operands.lean ====
section
/-! DEFINITION. Tensor descriptors and MPD fields: where elements and block scales lie, and how they are read
from memory (R21, R27, R38, R106, R111 to R117). -/

namespace Sys2Proof.Machine

/-- Bits `hi:lo` of word `i` of a record. -/
def wbits (ws : List Nat) (i hi lo : Nat) : Nat := bitsOf (ws.getD i 0) hi lo

/-- Fields of a tensor descriptor, given as eight words (R112). -/
def tdBase (t : List Nat) : Nat := (t.getD 0 0 + 2 ^ 32 * wbits t 1 7 0) * 64
def tdLeaven (t : List Nat) : Nat := wbits t 1 19 8
def tdHdr (t : List Nat) : Bool := wbits t 1 20 20 = 1
def tdAxis (t : List Nat) : Nat := wbits t 1 22 21
def tdLayout (t : List Nat) : Nat := wbits t 1 25 23
def tdFmt (t : List Nat) : Nat := wbits t 1 29 26
def tdExt0 (t : List Nat) : Nat := wbits t 2 19 0
def tdExt1 (t : List Nat) : Nat := wbits t 3 19 0
def tdExt2 (t : List Nat) : Nat := if wbits t 2 31 20 = 0 then 1 else wbits t 2 31 20
def tdExt3 (t : List Nat) : Nat := if wbits t 3 31 20 = 0 then 1 else wbits t 3 31 20
def tdStride1 (t : List Nat) : Nat := t.getD 4 0
def tdStride2 (t : List Nat) : Nat := t.getD 5 0
def tdStride3 (t : List Nat) : Nat := t.getD 6 0
def tdScaleOff (t : List Nat) : Nat := t.getD 7 0

/-- Where the element plane starts (R113). -/
def tdPlane (t : List Nat) : Nat := tdBase t + (if tdHdr t then 64 else 0)

/-- Coordinates (d3, d2, d1, d0) of an element. -/
structure Coord where
  d3 : Nat
  d2 : Nat
  d1 : Nat
  d0 : Nat
  deriving DecidableEq, Repr

/-- The element-plane offset of an element in bits (R113). (Log entry 207.) -/
def tdBitOffset (t : List Nat) (bits : Nat) (c : Coord) : Nat :=
  match tdLayout t with
  | 1 => 8 * (c.d3 * tdStride3 t + c.d2 * tdStride2 t + c.d1 / 128 * tdStride1 t) + (c.d0 * 128 + c.d1 % 128) * bits
  | 2 => 8 * (c.d3 * tdStride3 t + c.d2 * tdStride2 t)
      + 16384 * bits * (c.d0 / 128 * ((tdExt1 t + 127) / 128) + c.d1 / 128) + (c.d0 % 128 * 128 + c.d1 % 128) * bits
  | 3 => 8 * (c.d2 * tdStride2 t + c.d1 % max 1 (wbits t 6 19 0) * tdStride1 t) + c.d0 * bits
  | _ => 8 * (c.d3 * tdStride3 t + c.d2 * tdStride2 t + c.d1 * tdStride1 t) + c.d0 * bits

/-- The index of an element along the block axis, and the coordinates of its block's first element. -/
def tdBlockStart (t : List Nat) (c : Coord) : Coord :=
  match tdAxis t with
  | 1 => { c with d0 := c.d0 / 32 * 32 }
  | 2 => { c with d1 := c.d1 / 32 * 32 }
  | _ => c

/-- The address of the scale byte of an element's block (R113). -/
def tdScaleAddr (t : List Nat) (bits : Nat) (c : Coord) : Nat :=
  tdPlane t + tdScaleOff t * 64 + tdBitOffset t bits (tdBlockStart t c) / 8 / (4 * bits)

/-- How an operand is encoded: format code, scale kind and base scale; from the header granule when HDR = 1,
else from the descriptor with a base scale of 1.0 (R38, R112; log entry 18). -/
structure Encoding where
  fmt   : Nat
  scale : ScaleKind
  bT    : Nat
  deriving DecidableEq, Repr

/-- The encoding of an operand. -/
def State.tdEncoding (s : State) (t : List Nat) : Encoding :=
  if tdHdr t then
    let w0 := s.natAt (tdBase t) 4
    { fmt := bitsOf w0 3 0, scale := ScaleKind.ofCode (bitsOf w0 5 4), bT := s.natAt (tdBase t + 4) 4 }
  else { fmt := tdFmt t, scale := if tdAxis t = 0 then .none else .nq32, bT := fp32One }

/-- A format code that is an array operand (R71): every defined format but FP32 and INT8. -/
def arrayFormat? (c : Nat) : Option Format :=
  match Format.ofCode? c with
  | some .fp32 => none
  | some .int8 => none
  | f => f

/-- The element code at a bit offset of a plane. -/
def State.elemAt (s : State) (plane bits off : Nat) : Nat :=
  s.natAt (plane + off / 8) ((off % 8 + bits + 7) / 8) / 2 ^ (off % 8) % 2 ^ bits

/-- The element code and block scale code of an operand at a coordinate; an unscaled operand has scale code 0. -/
def State.operandAt (s : State) (t : List Nat) (f : Format) (k : ScaleKind) (c : Coord) : Nat × Nat :=
  (s.elemAt (tdPlane t) f.bits (tdBitOffset t f.bits c),
   match k with | .none => 0 | _ => (s.byteAt (tdScaleAddr t f.bits c)).toNat)

/-- The granules of an operand element carry poison (R286). -/
def State.operandPoison (s : State) (t : List Nat) (f : Format) (k : ScaleKind) (c : Coord) : Bool :=
  s.poisonedAt (tdPlane t + tdBitOffset t f.bits c / 8) ((f.bits + 7) / 8) ||
    (match k with | .none => false | _ => s.poisonedAt (tdScaleAddr t f.bits c) 1)

/-- Tile shapes (R106). -/
inductive Shape where
  | t0 | t1 | t2 | t3 | t4
  deriving DecidableEq, Repr

/-- The shape of a TILE code. -/
def Shape.ofCode? (n : Nat) : Option Shape := [Shape.t0, .t1, .t2, .t3, .t4][n]?

/-- Fields of the MPD (R116). -/
def mpdOpc (w : List Nat) : Nat := wbits w 0 3 0
def mpdTile (w : List Nat) : Nat := wbits w 0 6 4
def mpdShape (w : List Nat) : Shape := (Shape.ofCode? (mpdTile w)).getD .t0
def mpdAxis (w : List Nat) : Nat := wbits w 0 8 7
def mpdSplit (w : List Nat) : Bool := wbits w 0 9 9 = 1
def mpdSplitStream (w : List Nat) : Bool := wbits w 0 10 10 = 1
def mpdArray (w : List Nat) : Nat := wbits w 0 11 11
def mpdOrder (w : List Nat) : Nat := wbits w 0 14 12
def mpdReuse (w : List Nat) : Bool := wbits w 0 15 15 = 1
def mpdMaskKind (w : List Nat) : Nat := wbits w 0 17 16
def mpdAccBegin (w : List Nat) : Bool := wbits w 0 18 18 = 1
def mpdAccEnd (w : List Nat) : Bool := wbits w 0 19 19 = 1
def mpdSpillEn (w : List Nat) : Bool := wbits w 0 20 20 = 1
def mpdSpillS (w : List Nat) : Nat := 8 * (wbits w 0 25 21 + 1)
def mpdRungStart (w : List Nat) : Nat := wbits w 0 27 26
def mpdEpiEn (w : List Nat) : Bool := wbits w 0 28 28 = 1
def mpdEpiMul (w : List Nat) : Bool := wbits w 0 29 29 = 1
def mpdSkipEmpty (w : List Nat) : Bool := wbits w 0 30 30 = 1
def mpdBucketEn (w : List Nat) : Bool := wbits w 0 31 31 = 1
def mpdStatTd (w : List Nat) : Nat := wbits w 1 2 0
def mpdStrmTd (w : List Nat) : Nat := wbits w 1 5 3
def mpdOutTd (w : List Nat) : Nat := wbits w 1 8 6
def mpdEpiTd (w : List Nat) : Nat := wbits w 1 11 9
def mpdMaskBase (w : List Nat) : Nat := wbits w 1 28 12 * 64
def mpdList (w : List Nat) : Nat := wbits w 2 5 0
def mpdMch (w : List Nat) : Nat := wbits w 2 23 8
/-- The extent source of level i: B, H, N, M, K. -/
def mpdSrc (w : List Nat) (i : Nat) : Nat := wbits w 3 (5 * i + 4) (5 * i)
def mpdBucketLvl (w : List Nat) : Nat := wbits w 3 27 25
def mpdBucketCnt (w : List Nat) : Nat := wbits w 3 31 28
/-- The planned extent of level i. -/
def mpdPlan (w : List Nat) (i : Nat) : Nat :=
  match i with
  | 0 => wbits w 4 11 0 | 1 => wbits w 4 23 12 | 2 => wbits w 5 19 0 | 3 => wbits w 6 19 0 | _ => wbits w 7 19 0
/-- The origins of levels N, M and K. -/
def mpdNOrg (w : List Nat) : Nat := wbits w 8 19 0
def mpdMOrg (w : List Nat) : Nat := wbits w 9 19 0
def mpdKOrg (w : List Nat) : Nat := wbits w 10 19 0
/-- The OUTER_MAP code of tensor i (stationary, streamed, output, fused) at outer level j (B, H). -/
def mpdOuter (w : List Nat) (i j : Nat) : Nat := wbits w 11 (4 * i + 2 * j + 1) (4 * i + 2 * j)
def mpdMb (w : List Nat) : Nat := wbits w 12 11 0
/-- Bucket i of eight. -/
def mpdBucket (w : List Nat) (i : Nat) : Nat := wbits w (14 + i / 2) (16 * (i % 2) + 15) (16 * (i % 2))

/-- The pair that an MPD multiplies, after the widening of R25; an operand whose header names no array format is
planned with the other one's format (log entry 19). -/
def State.mpdPair (s : State) (stat strm : List Nat) : Format × Format :=
  let fa := arrayFormat? (s.tdEncoding stat).fmt
  let fb := arrayFormat? (s.tdEncoding strm).fmt
  let a := fa.getD (fb.getD .bf16)
  let b := fb.getD a
  widenPair 12 a b

/-- The depth D of a widened pair: 128 × the rate class, 128 for BF16 (R50). -/
def pairDepth (p : Format × Format) : Nat := 32 * max 4 ((pairRate p.1 p.2).getD 4)

/-- The row period in ac (R50). -/
def pairPeriod (p : Format × Format) : Nat := if p.1 = .bf16 then 4 else 1

/-- Kd, the contraction depth of one array (R106). -/
def unitKd (axis : Nat) (sh : Shape) (dep : Nat) : Nat :=
  if axis = 1 then 128 else if sh = .t4 then dep / 2 else dep
/-- Cw, the output width of one array (R106). -/
def unitCw (axis : Nat) (sh : Shape) (dep : Nat) : Nat :=
  if axis = 1 then dep else if sh = .t3 then 64 else 128
/-- Ku and Nu, the units of the K and N levels (R106). -/
def unitKu (axis : Nat) (sh : Shape) (dep : Nat) : Nat := if sh = .t1 then 2 * unitKd axis sh dep else unitKd axis sh dep
def unitNu (axis : Nat) (sh : Shape) (dep : Nat) : Nat := if sh = .t2 then 2 * unitCw axis sh dep else unitCw axis sh dep

/-- Where a tensor stands for outer indices b and h: its D3 and D2 (R117). -/
def outerCoord (w : List Nat) (tensor b h : Nat) : Nat × Nat :=
  let cb := mpdOuter w tensor 0
  let ch := mpdOuter w tensor 1
  ((if cb = 1 then b else 0) + (if ch = 1 then h else 0), (if cb = 2 then b else 0) + (if ch = 2 then h else 0))

/-- The coordinate of a stationary element by contraction index and output column (R114). -/
def statCoord (w : List Nat) (b h t c : Nat) : Coord :=
  let o := outerCoord w 0 b h
  if mpdAxis w = 1 then { d3 := o.1, d2 := o.2, d1 := c, d0 := t } else { d3 := o.1, d2 := o.2, d1 := t, d0 := c }

/-- The coordinate of a streamed element by row and contraction index (R114). -/
def strmCoord (w : List Nat) (b h r t : Nat) : Coord :=
  let o := outerCoord w 1 b h
  if mpdAxis w = 2 then { d3 := o.1, d2 := o.2, d1 := t, d0 := r } else { d3 := o.1, d2 := o.2, d1 := r, d0 := t }

/-- The coordinate of an output element by row and output column (R114). -/
def outCoord (w : List Nat) (b h r c : Nat) : Coord :=
  let o := outerCoord w 2 b h
  { d3 := o.1, d2 := o.2, d1 := r, d0 := c }

/-- The coordinate of a fused element (R114). -/
def fusedCoord (w : List Nat) (b h r c : Nat) : Coord :=
  let o := outerCoord w 3 b h
  { d3 := o.1, d2 := o.2, d1 := r, d0 := c }

/-- The index n of an output element in the row-major order of its logical shape (R115). -/
def elementIndex (t : List Nat) (c : Coord) : Nat :=
  ((c.d3 * tdExt2 t + c.d2) * tdExt1 t + c.d1) * tdExt0 t + c.d0

end Sys2Proof.Machine
end

