-- ==== Sys2Proof/Machine/Accept.lean ====
section
/-! DEFINITION. How an engine accepts or refuses what the Chanter offers (R78, R101, R111, R129 to R135). -/

namespace Sys2Proof.Machine

/-- The descriptor that a slot held at accept; an empty list for a slot that was not loaded. -/
def Mpd.td (m : Mpd) (slot : Nat) : List Nat := m.tds.getD slot []

/-- A B-engine (R47). -/
def isBEngine (e : Nat) : Bool := decide (12 ≤ e)

/-- The lanes that an MPD uses: 3 × array + half (R49, R64, R106, R107). -/
def mpdLanes (w : List Nat) : List Nat :=
  match mpdShape w with
  | .t1 => [3]
  | .t2 => [0, 3]
  | .t3 => [3 * mpdArray w + 1, 3 * mpdArray w + 2]
  | _ => [3 * mpdArray w]

/-- The arrays that an MPD uses (R106). -/
def mpdArrays (w : List Nat) : List Nat :=
  match mpdShape w with
  | .t1 => [0, 1]
  | .t2 => [0, 1]
  | _ => [mpdArray w]

/-- Array and half bytes of a payload for an MPD as a whole (R80). (Log entry 204.) -/
def mpdArrayByte (w : List Nat) : Nat := if mpdShape w = .t1 ∨ mpdShape w = .t2 then 0 else mpdArray w
def mpdHalfByte (w : List Nat) : Nat := if mpdShape w = .t3 then 3 else 0

/-- The slot of a descriptor for a lane: the high half of shape T3 uses the slot with bit 2 inverted (R109). -/
def laneSlot (lane slot : Nat) : Nat := if lane % 3 = 2 then slot ^^^ 4 else slot

/-- The streamed slot of a lane: with SPLIT_STREAM clear the high half takes the low half's rows (R109). -/
def strmSlot (w : List Nat) (lane : Nat) : Nat :=
  if mpdSplitStream w then laneSlot lane (mpdStrmTd w) else mpdStrmTd w

/-- The descriptor slots that an MPD names (R111). -/
def mpdSlots (w : List Nat) : List Nat :=
  (mpdLanes w).flatMap fun l =>
    [laneSlot l (mpdStatTd w), strmSlot w l, laneSlot l (mpdOutTd w)] ++
      (if mpdEpiEn w then [laneSlot l (mpdEpiTd w)] else [])

/-- An address lies in the engine's own operand buffer. -/
def inOperand (engId a : Nat) : Bool := decide (operandBase engId ≤ a ∧ a < operandBase engId + 6 * mib)

/-- A descriptor's layout and block axis are usable (R133, reason 4). -/
def tdShapeOk (t : List Nat) : Bool :=
  decide (tdLayout t < 4) && decide (tdAxis t ≠ 3) &&
    (tdAxis t = 0 || tdAxis t = (if tdLayout t = 1 ∨ tdLayout t = 2 then 2 else 1))

/-- A descriptor without a header names an operand format (R71). -/
def tdFmtOk (t : List Nat) : Bool := tdHdr t || (arrayFormat? (tdFmt t)).isSome

/-- The mapped extents of level N, M, K in the descriptors of a lane, as (level, extent) pairs (R114); AXIS = 3, which R78 refuses, is judged
here as the normal axis (log entry 150). -/
def mappedExtents (w : List Nat) (stat strm out : List Nat) : List (Nat × Nat) :=
  match mpdAxis w with
  | 1 => [(2, tdExt1 stat), (2, tdExt0 out), (3, tdExt1 strm), (3, tdExt1 out), (4, tdExt0 stat), (4, tdExt0 strm)]
  | 2 => [(2, tdExt0 stat), (2, tdExt0 out), (3, tdExt0 strm), (3, tdExt1 out), (4, tdExt1 stat), (4, tdExt1 strm)]
  | _ => [(2, tdExt0 stat), (2, tdExt0 out), (3, tdExt1 strm), (3, tdExt1 out), (4, tdExt1 stat), (4, tdExt0 strm)]

/-- The fused operand's mapped extents: those of the output (R114). -/
def fusedExtents (fused : List Nat) : List (Nat × Nat) := [(2, tdExt0 fused), (3, tdExt1 fused)]

/-- The origin of an inner level. -/
def mpdOrg (w : List Nat) (lvl : Nat) : Nat :=
  match lvl with | 2 => mpdNOrg w | 3 => mpdMOrg w | 4 => mpdKOrg w | _ => 0

/-- The extents of D3 and D2 that the outer levels map onto, as (level, extent) pairs (R117). -/
def outerExtents (w : List Nat) (tensor : Nat) (t : List Nat) : List (Nat × Nat) :=
  [0, 1].flatMap fun j =>
    match mpdOuter w tensor j with
    | 1 => [(j, tdExt3 t)]
    | 2 => [(j, tdExt2 t)]
    | _ => []

/-- The outer levels have a plan product above 1. -/
def mpdOuterMany (w : List Nat) : Bool := decide (1 < mpdPlan w 0 * mpdPlan w 1)

/-- The bucket fields are valid (R131). -/
def mpdBucketsOk (w : List Nat) : Bool :=
  let n := mpdBucketCnt w
  let b := (List.range n).map (mpdBucket w)
  (mpdBucketLvl w = 2 || mpdBucketLvl w = 3 || mpdBucketLvl w = 4) && decide (1 ≤ n ∧ n ≤ 8) &&
    (b.zip (b.drop 1)).all (fun p => decide (p.1 < p.2)) && b.all fun x => decide (x ≤ mpdPlan w (mpdBucketLvl w))

/-- A reserved bit of the MPD is set (R133, reason 11, which the descriptors it names share). -/
def mpdReservedSet (w : List Nat) : Bool :=
  let g := fun i => w.getD i 0
  !onlyBits (g 1) 0x1FFFFFFF || !onlyBits (g 2) 0xFFFF3F || !onlyBits (g 4) 0xFFFFFF ||
    ([5, 6, 7, 8, 9, 10].any fun i => !onlyBits (g i) 0xFFFFF) || !onlyBits (g 11) 0xFFFF || !onlyBits (g 12) 0xFFF ||
    g 13 ≠ 0 || ((List.range 14).any fun i => g (18 + i) ≠ 0)

/-- The lowest failing reason of R133, or 0. -/
def State.seqReason (s : State) (d e : Nat) (tds : List (List Nat)) (w : List Nat) : Nat :=
  let id := 36 * d + e
  let td := fun i => tds.getD i []
  let lanes := mpdLanes w
  let plans := (List.range 5).map (mpdPlan w)
  let lst := s.mcastRec d (s.activeOf d) (mpdList w)
  if mpdOpc w ≠ 1 then 1
  else if decide (5 ≤ mpdTile w) || (mpdTile w = 4 && mpdAxis w ≠ 0) then 2
  else if 4 ≤ mpdOrder w then 3
  else if (mpdSlots w).any (fun i => (td i).isEmpty || !tdShapeOk (td i) ||
        (tdLayout (td i) = 3 && !inOperand id (tdBase (td i)))) ||
      lanes.any (fun l => !inOperand id (tdBase (td (strmSlot w l))) || !tdFmtOk (td (strmSlot w l)) ||
        !tdFmtOk (td (laneSlot l (mpdStatTd w)))) then 4
  else if plans.any (· = 0) || lanes.any (fun l =>
        let st := td (laneSlot l (mpdStatTd w))
        let sm := td (strmSlot w l)
        let o := td (laneSlot l (mpdOutTd w))
        let fu := td (laneSlot l (mpdEpiTd w))
        (mappedExtents w st sm o ++ (if mpdEpiEn w then fusedExtents fu else [])).any (fun p => decide (p.2 < mpdOrg w p.1 + mpdPlan w p.1)) ||
          (outerExtents w 0 st ++ outerExtents w 1 sm ++ outerExtents w 2 o ++
            (if mpdEpiEn w then outerExtents w 3 fu else [])).any
            fun p => decide (p.2 < mpdPlan w p.1)) then 5
  else if mpdMch w = 0 then 6
  else if (List.range 5).any (fun i => decide (0x10 ≤ mpdSrc w i) && mpdSrc w i ≠ 0x1F) ||
      (mpdBucketEn w && !mpdBucketsOk w) then 7
  else if (List.range 4).any (fun t => mpdOuter w t 0 = 3 || mpdOuter w t 1 = 3) ||
      [0, 1].any (fun j => decide (1 < mpdPlan w j) && mpdOuter w 2 j = 0) ||
      (mpdOuterMany w && !(mpdAccBegin w && mpdAccEnd w)) then 8
  else if mpdReuse w && (!mcValid lst || (s.fabD d).disabled.contains (mpdList w) || !mcMember lst e ||
      lanes.any fun l => inOperand id (tdBase (td (laneSlot l (mpdStatTd w))))) then 9
  else if mpdSkipEmpty w && !mpdAccEnd w then 10
  else if mpdReservedSet w || (mpdSlots w).any (fun i => wbits (td i) 1 31 30 ≠ 0) then 11
  else 0

/-- The pair of an MPD on a lane, after widening. -/
def State.lanePair (s : State) (tds : List (List Nat)) (w : List Nat) (lane : Nat) : Format × Format :=
  s.mpdPair (tds.getD (laneSlot lane (mpdStatTd w)) []) (tds.getD (strmSlot w lane) [])

/-- The depth D of a lane. -/
def State.laneDepth (s : State) (tds : List (List Nat)) (w : List Nat) (lane : Nat) : Nat :=
  pairDepth (s.lanePair tds w lane)

/-- Bytes of the row mask and of the block mask of an MPD (R58, R59, R120): the block mask begins at the next whole byte after the row mask
(log entry 149). -/
def State.maskBytes (s : State) (tds : List (List Nat)) (w : List Nat) : Nat × Nat :=
  let dep := s.laneDepth tds w ((mpdLanes w).headD 0)
  let nu := unitNu (mpdAxis w) (mpdShape w) dep
  let np := ceilDiv (mpdPlan w 2) nu
  let mp := ceilDiv (mpdPlan w 3) (max 1 (mpdMch w))
  (if bitOf (mpdMaskKind w) 0 then ceilDiv (mpdPlan w 3) 8 else 0,
   if bitOf (mpdMaskKind w) 1 then ceilDiv (np * mp) 8 else 0)

/-- The lowest failing reason of R78, or 0. A failed array refuses new MPDs only: those accepted before it failed go on (R72; log entry
151). -/
def State.engReason (s : State) (d e : Nat) (tds : List (List Nat)) (w : List Nat) : Nat :=
  let x := s.engD d e
  let td := fun i => tds.getD i []
  let lanes := mpdLanes w
  let mb := s.maskBytes tds w
  let runAxis := if mpdAxis w = 2 then 2 else 1
  if mpdAxis w = 3 then 1
  else if mpdAxis w = 2 && !isBEngine e then 2
  else if mpdMaskKind w ≠ 0 && (!isBEngine e || mpdAxis w ≠ 2) then 3
  else if mpdSplit w && mpdAxis w = 1 then 4
  else if mpdSplit w ≠ decide (mpdShape w = .t3) then 5
  else if 4096 < mb.1 ∨ 4096 < mb.2 ∨ (mpdMaskKind w ≠ 0 ∧ 6 * mib < mpdMaskBase w + mb.1 + mb.2) then 6
  else if lanes.any (fun l => (let t := td (strmSlot w l); tdAxis t ≠ 0 && tdAxis t ≠ runAxis)) then 7
  else if (mpdArrays w).any (fun a => (let r := x.arr a; r.retired || r.failed || r.lowFailed || r.highFailed)) then 8
  else if mpdAxis w = 2 && lanes.any (fun l =>
      (s.tdEncoding (td (laneSlot l (mpdStatTd w)))).fmt = 6 || (s.tdEncoding (td (strmSlot w l))).fmt = 6) then 9
  else 0

/-- Rows of one output tile: MCH, or the planned rows where they are fewer. -/
def tileRows (w : List Nat) : Nat := min (mpdMch w) (mpdPlan w 3)

/-- What an MPD needs on each lane (R101): tiles open at once, rows, row elements, accumulator slots, wide slots. -/
def State.planOf (s : State) (tds : List (List Nat)) (w : List Nat) (lane : Nat) : Plan :=
  let dep := s.laneDepth tds w lane
  let c := unitCw (mpdAxis w) (mpdShape w) dep
  let r := tileRows w
  let a := ceilDiv (r * c * 4) 65536
  let np := ceilDiv (mpdPlan w 2) (unitNu (mpdAxis w) (mpdShape w) dep)
  let mp := ceilDiv (mpdPlan w 3) (max 1 (mpdMch w))
  let kp := ceilDiv (mpdPlan w 4) (max 1 (unitKu (mpdAxis w) (mpdShape w) dep))
  let t := match mpdOrder w with | 2 => mp | 3 => np | _ => 1
  { tiles := t, rows := r, cols := c, acc := t * 2 * a
    wide := if mpdSpillEn w && decide (mpdSpillS w < kp) then t * a else 0 }

/-- The plan of open tiles on a lane. -/
def Engine.plan (x : Engine) (lane : Nat) : Plan := x.plans.get Plan.none lane

/-- The outcome of the slot check on one array (R101): cause (0 none, 1 slots, 2 wide slots, 3 continuation), needs and
free counts. -/
structure SlotCheck where
  cause : Nat
  accNeed : Nat
  accFree : Nat
  wideNeed : Nat
  wideFree : Nat
  deriving DecidableEq, Repr

/-- The slot check of the lanes of an MPD that lie on one array. -/
def State.slotCheck (s : State) (x : Engine) (tds : List (List Nat)) (w : List Nat) (a : Nat) : SlotCheck :=
  let here := (mpdLanes w).filter fun l => l / 3 = a
  let whole := here.contains (3 * a)
  let others := if whole then [] else [3 * a + 1, 3 * a + 2].filter fun l => !here.contains l
  let ps := here.map (s.planOf tds w)
  let need := (ps.map Plan.acc).sum
  let wneed := (ps.map Plan.wide).sum
  let free := 8 - (others.map fun l => (x.plan l).acc).sum
  let wfree := 8 - (others.map fun l => (x.plan l).wide).sum
  let openHere := (if whole then [3 * a, 3 * a + 1, 3 * a + 2] else 3 * a :: here).any fun l => (x.plan l).tiles ≠ 0
  let goes := here.all fun l => (let p := s.planOf tds w l; let q := x.plan l
    decide (p.tiles = q.tiles ∧ p.rows = q.rows ∧ p.cols = q.cols))
  let cause :=
    if free < need then 1 else if wfree < wneed then 2
    else if mpdAccBegin w && openHere then 3
    else if !mpdAccBegin w && !goes then 3 else 0
  { cause := cause, accNeed := need, accFree := free, wideNeed := wneed, wideFree := wfree }

/-- A list without its repeats, in order of first occurrence. -/
def distinct (l : List Nat) : List Nat := l.foldl (fun a b => if a.contains b then a else a ++ [b]) []

/-- The slot check of an MPD: the first array that fails, or a check with cause 0. -/
def State.slotFail (s : State) (x : Engine) (tds : List (List Nat)) (w : List Nat) : SlotCheck :=
  (((distinct ((mpdLanes w).map (· / 3))).map (s.slotCheck x tds w)).find? fun c => c.cause ≠ 0).getD ⟨0, 0, 0, 0, 0⟩

/-- The extents before the bucket, levels B, H, N, M, K (R117, R125). -/
def Engine.rawExtents (x : Engine) (w : List Nat) : List Nat :=
  (List.range 5).map fun i => if mpdSrc w i = 0x1F then mpdPlan w i else x.lx.get 0 (mpdSrc w i)

/-- The bucket that a nonzero extent selects, or none above the largest (R131). -/
def bucketOf (w : List Nat) (v : Nat) : Option Nat :=
  if v = 0 then some 0 else ((List.range (mpdBucketCnt w)).map (mpdBucket w)).find? fun b => decide (v ≤ b)

/-- Level `i` is the bucket level of an MPD in bucket mode. -/
def isBucketLvl (w : List Nat) (i : Nat) : Bool := mpdBucketEn w && mpdBucketLvl w = i

/-- The first level whose live extent is too large, with its fault code (R129, R131). -/
def extentFail (w raw : List Nat) : Option (Nat × Nat) :=
  ((List.range 5).find? fun i =>
    if isBucketLvl w i then (bucketOf w (raw.getD i 0)).isNone else decide (mpdPlan w i < raw.getD i 0)).map fun i =>
      (i, if isBucketLvl w i then Code.seqBucketMiss else Code.seqExtentOver)

/-- The live extents after the bucket (R117, R131). -/
def liveExtents (w raw : List Nat) : List Nat :=
  (List.range 5).map fun i =>
    if isBucketLvl w i then (bucketOf w (raw.getD i 0)).getD 0 else raw.getD i 0

/-- The payload of an engine record (R80). -/
def engPayload (seq pass arr half check reason idx : Nat) : List Byte :=
  payload [(0, 4, seq), (4, 4, pass), (8, 1, arr), (9, 1, half), (10, 1, check), (11, 1, reason), (12, 2, idx)]

/-- The payload of an accumulator or sequencer record (R104, R135). -/
def accPayload (seq pass arr half b10 b11 v12 v14 : Nat) : List Byte :=
  payload [(0, 4, seq), (4, 4, pass), (8, 1, arr), (9, 1, half), (10, 1, b10), (11, 1, b11), (12, 2, v12), (14, 2, v14)]

/-- The key that counts MPD_REFUSED, OB_CORRECTED and the two NONFINITE halves: the counters that share a word. -/
abbrev cntRefused : Nat := 0x7C
abbrev cntObCorrected : Nat := 0x7E

/-- A lane at the start of an MPD. -/
def LaneProg.begin (lane rung : Nat) : LaneProg :=
  { lane := lane, pos := 0, started := false, rung := rung, chk := none, reload := false, bab := none, stop := 0
    fetched := 0, fkey := [], loaded := 0, lkey := [], shadow := none, active := none, work := [], past := none
    nonfin := none, named := (0xFFFF, 0xFFFF), inv := 0, bad := 0, badRow := false }

/-- An engine takes its offer off the port. -/
def Engine.clearOffer (x : Engine) : Engine := { x with offer := [] }

/-- Refuse an MPD: counted, reported, and answered to the Chanter with the code (R132). -/
def State.refuseMpd (s : State) (d e code : Nat) (x : Engine) (pl : List Byte) : State :=
  (((s.setEng d e x).count (regAddr (Page.eng d e) cntRefused) 1).raise (Page.eng d e) code pl).issueAnswer d e code none

/-- The accumulator and wide-slot figures of a failed slot check (ACC_LAST_PLAN). -/
def SlotCheck.word (c : SlotCheck) : Nat :=
  min 255 c.accNeed + min 15 c.accFree * 2 ^ 8 + min 255 c.wideNeed * 2 ^ 12 + min 15 c.wideFree * 2 ^ 20 + c.cause * 2 ^ 24

/-- The plans of the lanes after an accepted MPD: left open with ACC_END = 0, else free (R101). -/
def State.plansAfter (s : State) (x : Engine) (tds : List (List Nat)) (w : List Nat) : Tbl Plan :=
  (mpdLanes w).foldl (fun t l =>
    t.set Plan.none l (if mpdAccEnd w then Plan.none else s.planOf tds w l)) x.plans

/-- The accepted MPD with its copies (R60, R111, R125). -/
def State.mpdCopy (s : State) (d e : Nat) (x : Engine) (tds : List (List Nat)) (w : List Nat) : Mpd :=
  let raw := x.rawExtents w
  let mb := s.maskBytes tds w
  let base := operandBase (36 * d + e) + mpdMaskBase w
  { words := w, seq := x.nextSeq, tds := tds, raw := raw, live := liveExtents w raw
    rowMask := s.bytesAt base mb.1, blkMask := s.bytesAt (base + mb.1) mb.2 }

/-- MPD_ACCEPT (R132): the offered MPD is checked in order: structure (R133), R78, slots (R101), extents (R129, R131);
the first failure refuses it. An accepted MPD takes its copies, a queue entry and the next sequence number. An offer
waits while eight MPDs are queued (R46). The single-bit errors that were corrected in the operand headers and the masks are counted (R66). (Log entry 202.) -/
def execMpdAccept (d : Die) (r : EngRead) (s : State) : Host.Outcome State Fault Refusal :=
  if s.still then .next s else
  let e := r.eng
  let x := s.engD d e
  let w := x.offer
  let page := Page.eng d e
  if w.isEmpty || mpdOpc w = 2 || decide (8 ≤ x.queue.length) then .next s
  else
    let tds := (List.range 8).map fun i => x.tds.get [] i
    let x0 := x.clearOffer
    let a := mpdArrayByte w
    let h := mpdHalfByte w
    let r1 := s.seqReason d e tds w
    if r1 ≠ 0 then
      .next (s.refuseMpd d e Code.seqMpdInvalid { x0 with lastInvalid := r1 }
        (accPayload x.nextSeq 0 a h r1 0 0 (mpdMb w)))
    else
      let r2 := s.engReason d e tds w
      if r2 ≠ 0 then
        .next (s.refuseMpd d e Code.engMpdRefused { x0 with lastRefusal := r2 } (engPayload x.nextSeq 0 a h 0 r2 0xFFFF))
      else
        let c := s.slotFail x tds w
        if c.cause ≠ 0 then
          .next (s.refuseMpd d e Code.accPlanOver { x0 with lastPlan := c.word }
            (accPayload x.nextSeq 0 a h c.cause (min 255 c.accNeed) (c.accFree + 256 * min 255 c.wideNeed) c.wideFree))
        else
          match extentFail w (x.rawExtents w) with
          | some (lvl, code) =>
            let v := (x.rawExtents w).getD lvl 0
            .next (s.refuseMpd d e code x0
              (accPayload x.nextSeq 0 a h (lvl + 8 * mpdSrc w lvl) (v % 256) (v / 256) (mpdMb w)))
          | none =>
            let m := s.mpdCopy d e x tds w
            let job : Job := { mpd := m, lanes := (mpdLanes w).map fun l => LaneProg.begin l (mpdRungStart w)
                               header := [], begun := false, units := 0, nonfin := [] }
            let x1 := { x0 with
              queue := x.queue ++ [job], nextSeq := (x.nextSeq + 1) % 2 ^ 32, plans := s.plansAfter x tds w }
            .next ((((s.setEng d e x1).count (regAddr page cntObCorrected) r.corrected).count (regAddr page 0x78) 1).issueAnswer d e 0 (some x.nextSeq))

/-- A descriptor record's slot and descriptor number k of three, if it is present (R111). -/
def recordSlot (w : List Nat) (k : Nat) : Option (Nat × List Nat) :=
  if wbits w 0 (4 * k + 7) (4 * k + 7) = 1 then
    some (wbits w 0 (4 * k + 6) (4 * k + 4), (List.range 8).map fun i => w.getD (8 + 8 * k + i) 0)
  else none

/-- DESCRIPTOR_RECORD (R111): the record is applied to the descriptor file at accept, in order of its descriptors; it
takes no queue entry and no sequence number. -/
def execDescriptorRecord (d : Die) (e : Eng) (s : State) : Host.Outcome State Fault Refusal :=
  if s.still then .next s else
  let x := s.engD d e
  if x.offer.isEmpty || mpdOpc x.offer ≠ 2 then .next s
  else
    let tds := [0, 1, 2].foldl (fun t k => match recordSlot x.offer k with
      | some p => t.set [] p.1 p.2
      | none => t) x.tds
    .next ((s.setEng d e { x.clearOffer with tds := tds }).issueAnswer d e 0 none)

end Sys2Proof.Machine
end

