-- ==== Sys2Proof/Machine/Passes.lean ====
section
/-! DEFINITION. What one pass computes: visit order, stationary tiles, column sums, the overflow ladder's rungs, and the
fold into the working copy (R55 to R59, R82 to R91, R106 to R110, R117 to R120, R126). -/

namespace Sys2Proof.Machine

/-- The extents of an MPD as counts of iterations: live B, H, N, M, K and planned N, M (R117). -/
structure Loops where
  b  : Nat
  h  : Nat
  n  : Nat
  m  : Nat
  k  : Nat
  np : Nat
  mp : Nat
  kp : Nat
  ku : Nat
  nu : Nat
  cw : Nat
  kd : Nat
  deriving DecidableEq, Repr

/-- The loops of an MPD on a lane. -/
def State.loops (s : State) (m : Mpd) (lane : Nat) : Loops :=
  let w := m.words
  let dep := s.laneDepth m.tds w lane
  let sh := mpdShape w
  let ax := mpdAxis w
  let ku := max 1 (unitKu ax sh dep)
  let nu := max 1 (unitNu ax sh dep)
  let mch := max 1 (mpdMch w)
  let l := fun i => m.live.getD i 0
  { b := l 0, h := l 1, n := ceilDiv (l 2) nu, m := ceilDiv (l 3) mch, k := ceilDiv (l 4) ku
    np := ceilDiv (mpdPlan w 2) nu, mp := ceilDiv (mpdPlan w 3) mch, kp := ceilDiv (mpdPlan w 4) ku
    ku := ku, nu := nu, cw := unitCw ax sh dep, kd := unitKd ax sh dep }

/-- Passes of the whole loop nest. -/
def Loops.total (l : Loops) : Nat := l.b * l.h * l.n * l.m * l.k

/-- Some live extent is zero (R128). -/
def Loops.empty (l : Loops) : Bool := l.total = 0

/-- The indices of one pass. -/
structure PassIx where
  b : Nat
  h : Nat
  n : Nat
  m : Nat
  k : Nat
  deriving DecidableEq, Repr

/-- The pass at a position of the visit order (R118). -/
def passAt (order : Nat) (l : Loops) (pos : Nat) : PassIx :=
  let per := max 1 (l.n * l.m * l.k)
  let bh := pos / per
  let r := pos % per
  let hh := max 1 l.h
  let n1 := max 1 l.n
  let m1 := max 1 l.m
  let k1 := max 1 l.k
  match order with
  | 0 => { b := bh / hh, h := bh % hh, n := r / (m1 * k1), m := r / k1 % m1, k := r % k1 }
  | 1 => { b := bh / hh, h := bh % hh, m := r / (n1 * k1), n := r / k1 % n1, k := r % k1 }
  | 2 => { b := bh / hh, h := bh % hh, n := r / (k1 * m1), k := r / m1 % k1, m := r % m1 }
  | _ => { b := bh / hh, h := bh % hh, m := r / (k1 * n1), k := r / n1 % k1, n := r % n1 }

/-- The rank of an output tile in the order of first visits, over the planned counts (R120). -/
def tileRank (order : Nat) (l : Loops) (n m : Nat) : Nat :=
  if order = 0 ∨ order = 2 then n * l.mp + m else m * l.np + n

/-- Bit `i` of a mask, least significant bit first (R58). -/
def maskBitAt (bs : List Byte) (i : Nat) : Bool := (bs.getD (i / 8) 0).toNat.testBit (i % 8)

/-- An output tile is masked (R59). -/
def Mpd.tileMasked (m : Mpd) (l : Loops) (p : PassIx) : Bool :=
  bitOf (mpdMaskKind m.words) 1 && maskBitAt m.blkMask (tileRank (mpdOrder m.words) l p.n p.m)

/-- A row of a pass is masked (R58, R120). -/
def Mpd.rowMasked (m : Mpd) (row : Nat) : Bool := bitOf (mpdMaskKind m.words) 0 && maskBitAt m.rowMask row

/-- The first position from `pos` whose tile is not masked. -/
def State.nextPos (s : State) (m : Mpd) (lane pos : Nat) : Nat :=
  let l := s.loops m lane
  ((List.range (l.total - pos)).map (pos + ·)).find? (fun p => !m.tileMasked l (passAt (mpdOrder m.words) l p))
    |>.getD l.total

/-- The place of the stationary tile of a pass: D3, D2, N tile, K tile. -/
def statKey (m : Mpd) (p : PassIx) : List Nat :=
  let o := outerCoord m.words 0 p.b p.h
  [o.1, o.2, p.n, p.k]

/-- The position from `pos` of the next pass that needs another stationary tile than `key` (R119), or the total. -/
def State.nextLoad (s : State) (m : Mpd) (lane pos : Nat) (key : List Nat) : Nat :=
  let l := s.loops m lane
  let o := mpdOrder m.words
  ((List.range (l.total - pos)).map (pos + ·)).find? (fun p =>
    !m.tileMasked l (passAt o l p) && statKey m (passAt o l p) ≠ key) |>.getD l.total

/-- The first output column of a pass on a lane, and its first contraction index (R106 to R110, R115). -/
def colBase (m : Mpd) (l : Loops) (lane n : Nat) : Nat :=
  mpdNOrg m.words + n * l.nu + (if mpdShape m.words = .t2 ∧ lane = 3 then l.cw else 0)
def contrBase (m : Mpd) (l : Loops) (k : Nat) : Nat := mpdKOrg m.words + k * l.ku

/-- The scale code of a block as read is reserved: the block counts 32 invalid inputs (R21). -/
def badScale (k : ScaleKind) (c : Nat) : Bool := decide (0 < (readScale k c).2)

/-- An element counts as an invalid input for itself: not inside a block that is read as zeros (R21; log entry 148). -/
def badElement (f : Format) (k : ScaleKind) (c : Nat × Nat) : Bool := (readScale k c.2).1.isSome && (readElement f c.1).2

/-- The coordinate of an element along its tensor's block axis. -/
def alongAxis (t : List Nat) (c : Coord) : Nat := if tdAxis t = 2 then c.d1 else c.d0

/-- Invalid inputs of a run of elements along the block axis, given by the coordinate of its first element: each invalid
element, and 32 for every block with a reserved scale that the run touches (R21). -/
def runInv (f : Format) (k : ScaleKind) (start : Nat) (cs : List (Nat × Nat)) : Nat :=
  (cs.filter (badElement f k)).length +
    32 * (cs.zipIdx.filter fun p => (p.2 = 0 || (start + p.2) % 32 = 0) && badScale k p.1.2).length

/-- The transpose of a list of rows of `n` elements. -/
def transpose (n : Nat) (rows : List (List (Nat × Nat))) : List (List (Nat × Nat)) :=
  (List.range n).map fun c => rows.map fun r => r.getD c (0, 0)

/-- An operand element as a unit reads it that sees memory as `sees` says: what it does not see reads as zeros (R280). -/
def State.operandBy (s : State) (sees : Nat → Bool) (t : List Nat) (f : Format) (k : ScaleKind) (c : Coord) : Nat × Nat :=
  let v := s.operandAt t f k c
  (if sees (tdPlane t + tdBitOffset t f.bits c / 8) then v.1 else 0,
   match k with | .none => 0 | _ => if sees (tdScaleAddr t f.bits c) then v.2 else 0)

/-- The coordinates of a stationary tile, by contraction index, then output column. -/
def State.statCoords (s : State) (m : Mpd) (lane : Nat) (p : PassIx) : List (List Coord) :=
  let l := s.loops m lane
  (List.range l.ku).map fun tt => (List.range l.cw).map fun cc =>
    statCoord m.words p.b p.h (contrBase m l p.k + tt) (colBase m l lane p.n + cc)

/-- The stationary tile of a pass, read from memory through its descriptor by a unit that sees memory as `sees` says
(R50, R55 to R57, R121, R280, R283). -/
def State.statTileBy (s : State) (sees : Nat → Bool) (m : Mpd) (lane : Nat) (p : PassIx) : STile :=
  let l := s.loops m lane
  let t := m.td (laneSlot lane (mpdStatTd m.words))
  let enc := s.tdEncoding t
  let at_ := fun tt cc => statCoord m.words p.b p.h (contrBase m l p.k + tt) (colBase m l lane p.n + cc)
  match arrayFormat? enc.fmt with
  | none => { key := statKey m p, addr := tdPlane t, bits := 0, elems := [], inv := 0, bad := 4 }
  | some f =>
    let cs := s.statCoords m lane p
    let elems := cs.map fun r => r.map (s.operandBy sees t f enc.scale)
    let c0 := at_ 0 0
    let alongK : Bool := decide (alongAxis t (at_ 1 0) ≠ alongAxis t c0)
    { key := statKey m p
      addr := tdPlane t + tdBitOffset t f.bits c0 / 8
      bits := f.bits
      elems := elems
      inv := ((if alongK then transpose l.cw elems else elems).map (runInv f enc.scale (alongAxis t c0))).sum
      bad := if cs.any fun r => r.any (s.operandPoison t f enc.scale) then 3 else 0 }

/-- The stationary tile of a pass as a unit that sees all of it reads it. -/
def State.statTile (s : State) (m : Mpd) (lane : Nat) (p : PassIx) : STile := s.statTileBy (fun _ => true) m lane p

/-- The addresses that a fetch of a stationary tile reads: elements and scales (R121). -/
def State.statAddrs (s : State) (m : Mpd) (lane : Nat) (p : PassIx) : List Nat :=
  let t := m.td (laneSlot lane (mpdStatTd m.words))
  let enc := s.tdEncoding t
  match arrayFormat? enc.fmt with
  | none => []
  | some f =>
    let cs := (s.statCoords m lane p).flatten
    cs.map (fun c => tdPlane t + tdBitOffset t f.bits c / 8) ++
      (match enc.scale with | .none => [] | _ => cs.map (tdScaleAddr t f.bits))

/-- The address of a stationary tile, as its sequencer computes it (R123). -/
def State.statAddr (s : State) (m : Mpd) (lane : Nat) (p : PassIx) : Nat :=
  let l := s.loops m lane
  let t := m.td (laneSlot lane (mpdStatTd m.words))
  match arrayFormat? (s.tdEncoding t).fmt with
  | none => tdPlane t
  | some f => tdPlane t + tdBitOffset t f.bits (statCoord m.words p.b p.h (contrBase m l p.k) (colBase m l lane p.n)) / 8

/-- Bytes of elements and scales of a stationary tile (R121). -/
def State.statBytes (s : State) (m : Mpd) (lane : Nat) : Nat :=
  let l := s.loops m lane
  let enc := s.tdEncoding (m.td (laneSlot lane (mpdStatTd m.words)))
  let f := (arrayFormat? enc.fmt).getD .bf16
  l.ku * l.cw * f.bits / 8 + (match enc.scale with | .none => 0 | _ => l.ku * l.cw / 32)

/-- A streamed row of a pass: element and scale codes by contraction index. -/
def State.strmRow (s : State) (m : Mpd) (lane : Nat) (p : PassIx) (row : Nat) : List (Nat × Nat) :=
  let l := s.loops m lane
  let t := m.td (strmSlot m.words lane)
  let enc := s.tdEncoding t
  let f := (arrayFormat? enc.fmt).getD .bf16
  (List.range l.ku).map fun tt =>
    s.operandAt t f enc.scale (strmCoord m.words p.b p.h (mpdMOrg m.words + row) (contrBase m l p.k + tt))

/-- Why the streamed rows of a pass are unusable: 0 usable, 3 poisoned, 4 no array format (R71). -/
def State.strmBad (s : State) (m : Mpd) (lane : Nat) (p : PassIx) (rows : List Nat) : Nat :=
  let l := s.loops m lane
  let t := m.td (strmSlot m.words lane)
  let enc := s.tdEncoding t
  match arrayFormat? enc.fmt with
  | none => 4
  | some f =>
    if rows.any fun r => (List.range l.ku).any fun tt => s.operandPoison t f enc.scale
        (strmCoord m.words p.b p.h (mpdMOrg m.words + r) (contrBase m l p.k + tt)) then 3 else 0

/-- The value of an operand element with its block scale: exact, or an infinity or NaN; none in a zero block. -/
structure OpVal where
  num : Num
  /-- The exponent that R82 and R83 use: the block's, or for the BF16 pair the element's own; none where it is
  excluded. -/
  exp : Option Int
  deriving DecidableEq, Repr

/-- The exponent of a scale m × 2^e as R82 writes it: floor(log2). -/
def scaleExp (b : Nat × Int) : Int := (b.1.log2 : Int) + b.2

/-- An operand element as it enters the column sum (R21, R82); `wide` when the pair is BF16, whose elements bring their
unbiased exponents and leave the block scale in the value. -/
def opVal (f : Format) (k : ScaleKind) (wide : Bool) (c : Nat × Nat) : OpVal :=
  match (readScale k c.2).1 with
  | none => { num := .fin false 0 0, exp := none }
  | some b =>
    match (readElement f c.1).1 with
    | .fin neg m e =>
      { num := .fin neg (m * b.1) (e + b.2)
        exp := if wide then (if m = 0 then none else some ((m.log2 : Int) + e)) else some (scaleExp b) }
    | v => { num := v, exp := none }

/-- The greatest of some exponents. -/
def maxExp (l : List (Option Int)) : Option Int :=
  l.foldl (fun a x => match a, x with
    | none, x => x
    | a, none => a
    | some i, some j => some (max i j)) none

/-- The exact product of two finite values, sign apart. -/
def numMul (a b : Num) : Num :=
  match a, b with
  | .fin n1 m1 e1, .fin n2 m2 e2 => .fin (n1 != n2) (m1 * m2) (e1 + e2)
  | _, _ => .nan

/-- floor(|v| × 2^(−L)) with the sign of v (R85). -/
def truncAt (v : Num) (l : Int) : Int :=
  match v with
  | .fin neg m e =>
    let sh := e - l
    let a : Nat := if 0 ≤ sh then m * 2 ^ sh.toNat else m / 2 ^ (-sh).toNat
    if neg then -(a : Int) else (a : Int)
  | _ => 0

/-- ceil(log2) of m × 2^e. -/
def ceilLog2 (m : Nat) (e : Int) : Int := (if m = 2 ^ m.log2 then (m.log2 : Int) else (m.log2 : Int) + 1) + e

/-- P, the top exponent of a pair (R84). -/
def topExponent (p : Format × Format) : Int :=
  if p.1 = .bf16 then 2
  else ceilLog2 (p.1.top.1 * p.2.top.1) (p.1.top.2 + p.2.top.2) + 2

/-- A column sum on rungs 0 to 2 (R85): the FP32 contribution F, and whether it overflowed. -/
def columnSum (top : Int) (rung : Nat) (terms : List (OpVal × OpVal)) : Nat × Bool :=
  match maxExp (terms.map fun t => t.1.exp), maxExp (terms.map fun t => t.2.exp) with
  | some er, some es =>
    let l := er + es + top - 23 + 6 * (rung : Int)
    let sum := terms.foldl (fun a t => a + truncAt (numMul t.1.num t.2.num) l) 0
    (ff32.roundTo (decide (sum < 0)) sum.natAbs 1 l, decide (sum < -(2 ^ 23) ∨ 2 ^ 23 - 1 < sum))
  | _, _ => (0, false)

/-- A value as an FP32 code; a zero is +0. -/
def numTo32 (v : Num) (op : Nat) : Nat :=
  match v with
  | .fin neg m e => if m = 0 then 0 else ff32.roundTo neg m 1 e
  | .inf neg => ff32.withSign neg ff32.infCode
  | .nan => ff32.nanCode op []

/-- A term on rung 3: finite products are rounded once; an infinity or NaN follows IEEE 754 (R89). -/
def term32 (t : OpVal × OpVal) : Nat :=
  match t.1.num, t.2.num with
  | .fin .., .fin .. => numTo32 (numMul t.1.num t.2.num) 40
  | .inf x, .fin y m _ => if m = 0 then ff32.nanCode 41 [] else ff32.withSign (x != y) ff32.infCode
  | .fin x m _, .inf y => if m = 0 then ff32.nanCode 41 [] else ff32.withSign (x != y) ff32.infCode
  | a, b => ff32.mul (numTo32 a 41) (numTo32 b 42)

/-- The sum on rung 3, in ascending contraction index (R89). -/
def sum32 (terms : List (OpVal × OpVal)) : Nat :=
  match terms.map term32 with
  | [] => 0
  | x :: xs => xs.foldl ff32.add x

/-- What one presentation of a pass yields. -/
structure PassOut where
  work   : List (List Nat)
  past   : Option (Nat × Nat)
  nonfin : Option (Nat × Nat)
  inv    : Nat
  bad    : Nat
  /-- What is unusable came with the streamed rows. -/
  badRow : Bool
  deriving DecidableEq, Repr

/-- The committed value of an element, or none where the pass writes F alone (R86, R91). -/
def AccTile.base (t : AccTile) (r c : Nat) : Option Nat :=
  if t.fresh then none else some ((t.rows.getD r []).getD c 0)

/-- F added to the committed value (R86). -/
def foldF (base : Option Nat) (f : Nat) : Nat := match base with | none => f | some c => ff32.add c f

/-- Shape T1 folds the sums of both arrays (R107). -/
def foldF2 (base : Option Nat) (fa fb : Nat) : Nat :=
  match base with | none => ff32.add fa fb | some c => ff32.add (ff32.add c fa) fb

/-- An operand value that is not finite. -/
def OpVal.odd (v : OpVal) : Bool := match v.num with | .fin .. => false | _ => true

/-- The rows of a tile that are not masked, of `n` rows from `first` of the planned rows. -/
def Mpd.freeRows (m : Mpd) (first n : Nat) : List Nat := (List.range n).filter fun i => !m.rowMasked (first + i)

/-- A pass presented on a rung (R55 to R58, R82 to R90, R107): every unmasked row of the tile adds its sums to the
committed copy; masked rows keep their value. In shape T1 each array's E_r ranges over the part of the row that it takes
(log entry 147). The overflowing element named is the last of the first row that overflows, where the array stops; a
non-finite stationary element is named by row 0 and its contraction index (log entry 146). -/
def State.present (s : State) (m : Mpd) (lane rung : Nat) (p : PassIx) (tile : STile) (acc : AccTile) : PassOut :=
  let l := s.loops m lane
  let w := m.words
  let first := p.m * mpdMch w
  let nRows := tileRows w
  let rows := m.freeRows first nRows
  let encS := s.tdEncoding (m.td (laneSlot lane (mpdStatTd w)))
  let encX := s.tdEncoding (m.td (strmSlot w lane))
  let fS := (arrayFormat? encS.fmt).getD .bf16
  let fX := (arrayFormat? encX.fmt).getD .bf16
  let pair := s.lanePair m.tds w lane
  let wide := pair.1 = .bf16
  let top := topExponent pair
  let stat := tile.elems.map fun r => r.map (opVal fS encS.scale wide)
  let codes := rows.map fun r => (r, s.strmRow m lane p (first + r))
  let strm := codes.map fun r => (r.1, r.2.map (opVal fX encX.scale wide))
  let rowBad := s.strmBad m lane p (rows.map (first + ·))
  let statOdd := (stat.zipIdx.find? fun r => r.1.any OpVal.odd).map fun r => ((0 : Nat), r.2)
  let strmOdd := strm.findSome? fun r => (r.2.zipIdx.find? fun v => v.1.odd).map fun v => (r.1, v.2)
  let nonfin := if statOdd.isSome then statOdd else strmOdd
  let inv := (codes.map fun r => runInv fX encX.scale (contrBase m l p.k) r.2).sum
  let col := fun (c lo n : Nat) (row : List OpVal) =>
    (List.range n).map fun t => (row.getD (lo + t) ⟨.fin false 0 0, none⟩,
      (stat.getD (lo + t) []).getD c ⟨.fin false 0 0, none⟩)
  let one := fun (terms : List (OpVal × OpVal)) => if rung = 3 then (sum32 terms, false) else columnSum top rung terms
  let cell := fun (r c : Nat) (row : List OpVal) =>
    if mpdShape w = .t1 then
      let a := one (col c 0 l.kd row)
      let b := one (col c l.kd l.kd row)
      (foldF2 (acc.base r c) a.1 b.1, a.2 || b.2)
    else
      let a := one (col c 0 l.ku row)
      (foldF (acc.base r c) a.1, a.2)
  let sums := (List.range nRows).map fun r =>
    match strm.find? fun x => x.1 = r with
    | some x => (List.range l.cw).map fun c => cell r c x.2
    | none => (List.range l.cw).map fun c => ((acc.base r c).getD 0, false)
  let past := (sums.zipIdx.find? fun r => r.1.any Prod.snd).map fun r =>
    (r.2, (r.1.zipIdx.filter fun c => c.1.2).foldl (fun _ c => c.2) 0)
  { work := sums.map fun r => r.map Prod.fst, past := past, nonfin := if wide then nonfin else none, inv := inv
    bad := if tile.bad ≠ 0 then tile.bad else rowBad, badRow := tile.bad = 0 && rowBad ≠ 0 }

/-- One step of the compensated fold (R91). -/
def foldPair (p : Nat × Nat) (g : Nat) : Nat × Nat :=
  let s := ff32.add p.1 g
  let bb := ff32.sub s p.1
  let e := ff32.add (ff32.sub p.1 (ff32.sub s bb)) (ff32.sub g bb)
  let t := ff32.add p.2 e
  let hi := ff32.add s t
  (hi, ff32.sub t (ff32.sub hi s))

/-- The pairs of a tile after folding its committed copy; a pair starts at (+0, +0) (R91, R93). -/
def AccTile.folded (t : AccTile) : List (List (Nat × Nat)) :=
  t.rows.zipIdx.map fun r => r.1.zipIdx.map fun c => foldPair ((t.pairs.getD r.2 []).getD c.2 (0, 0)) c.1

/-- A spill (R91): the committed copy is folded and starts anew as zeros, so that no later fold takes it again. -/
def AccTile.spill (t : AccTile) : AccTile :=
  { t with pairs := t.folded, rows := t.rows.map fun r => r.map fun _ => 0, spilt := true, fresh := true }

/-- The value that a tile drains at an element (R93). -/
def AccTile.drained (t : AccTile) (r c : Nat) : Nat :=
  if t.spilt then ((t.pairs.getD r []).getD c (0, 0)).1 else (t.rows.getD r []).getD c 0

end Sys2Proof.Machine
end

