-- ==== Sys2Proof/Machine/Sequencer.lean ====
section
/-! DEFINITION. The sequencer's bookkeeping: jobs and lanes, stationary tiles on their way to an array, output tiles,
and completion (R49, R52, R53, R94, R95, R99, R119, R121, R123, R126). -/

namespace Sys2Proof.Machine

/-- The lane number of an array and a half. -/
def laneOf (a : Arr) (h : Half) : Nat :=
  (match a with | .A => 0 | .B => 3) + (match h with | .whole => 0 | .low => 1 | .high => 2)
/-- The number of an array. -/
def arrNum : Arr → Nat
  | .A => 0
  | .B => 1

/-- The job at an index of the queue. -/
def Engine.job? (x : Engine) (i : Nat) : Option Job := x.queue[i]?

/-- The progress of a job on a lane. -/
def Job.lane? (j : Job) (lane : Nat) : Option LaneProg := j.lanes.find? fun l => l.lane = lane

/-- A job uses an array. -/
def Job.uses (j : Job) (a : Nat) : Bool := (mpdArrays j.mpd.words).contains a

/-- The job that runs on an array: the first that uses it, when no earlier job uses any of its arrays (R49). -/
def Engine.running (x : Engine) (a : Nat) : Option (Nat × Job) :=
  match (x.queue.zipIdx.find? fun p => p.1.uses a) with
  | none => none
  | some p =>
    if (x.queue.take p.2).any fun q => (mpdArrays p.1.mpd.words).any q.uses then none else some (p.2, p.1)

/-- The running job and its progress on a lane. -/
def Engine.runLane (x : Engine) (lane : Nat) : Option (Nat × Job × LaneProg) :=
  match x.running (lane / 3) with
  | none => none
  | some p => (p.2.lane? lane).map fun l => (p.1, p.2, l)

/-- Put the progress of a lane back. -/
def Job.setLane (j : Job) (l : LaneProg) : Job :=
  { j with lanes := j.lanes.map fun q => if q.lane = l.lane then l else q }

/-- Put a job back. -/
def Engine.setJob (x : Engine) (i : Nat) (j : Job) : Engine := { x with queue := x.queue.set i j }

/-- The address of a counter of an array of an engine: A's offset and the distance to B's. -/
def engCounter (d e a off step : Nat) : Nat := regAddr (Page.eng d e) (off + a * step)

/-- The lane that a command for an array and a half names on an MPD: in shape T1 both arrays form array B's tile (R107). -/
def Mpd.laneFor (m : Mpd) (a : Arr) (h : Half) : Nat := if mpdShape m.words = .t1 ∧ h = .whole then 3 else laneOf a h

/-- The lane that a command for an array and a half names on the running MPD of the array. -/
def Engine.laneFor (x : Engine) (a : Arr) (h : Half) : Nat :=
  match x.running (arrNum a) with
  | some p => p.2.mpd.laneFor a h
  | none => laneOf a h

/-- The arrays that work on a lane (R106, R107). -/
def Mpd.laneArrays (m : Mpd) (lane : Nat) : List Nat := if mpdShape m.words = .t1 then [0, 1] else [lane / 3]

/-- A job has a lane on an array. -/
def Job.lanesOn (j : Job) (a : Nat) : List LaneProg := j.lanes.filter fun l => (j.mpd.laneArrays l.lane).contains a

/-- STAT_TD of a lane lies in the engine's own operand buffer: the tile is read in place (R121). -/
def Mpd.inPlace (m : Mpd) (engId lane : Nat) : Bool := inOperand engId (tdBase (m.td (laneSlot lane (mpdStatTd m.words))))

/-- The next tile that a lane fetches, as a position of the visit order, or none. -/
def State.fetchPos (s : State) (m : Mpd) (l : LaneProg) : Option Nat :=
  let p := s.nextLoad m l.lane l.fetched l.fkey
  if l.stop = 0 ∧ p < (s.loops m l.lane).total then some p else none

/-- The next tile that a lane loads, or none. -/
def State.loadPos (s : State) (m : Mpd) (l : LaneProg) : Option Nat :=
  let p := s.nextLoad m l.lane l.loaded l.lkey
  if l.stop = 0 ∧ p < (s.loops m l.lane).total then some p else none

/-- The pass at a position for a lane. -/
def State.passOf (s : State) (m : Mpd) (lane pos : Nat) : PassIx := passAt (mpdOrder m.words) (s.loops m lane) pos

/-- The number of a pass within its MPD (R80): masked tiles have none. -/
def State.passNo (s : State) (m : Mpd) (lane pos : Nat) : Nat :=
  let l := s.loops m lane
  ((List.range pos).filter fun p => !m.tileMasked l (passAt (mpdOrder m.words) l p)).length

/-- Positions of the next tiles that a lane needs from `pos` on, `n` at most (R119). -/
def State.tileSeq (s : State) (m : Mpd) (lane : Nat) : Nat → Nat → List Nat → List Nat
  | 0, _, _ => []
  | n + 1, pos, key =>
    let p := s.nextLoad m lane pos key
    if (s.loops m lane).total ≤ p then []
    else p :: State.tileSeq s m lane n (p + 1) (statKey m (s.passOf m lane p))

/-- Stationary ring entries per array (R121). -/
abbrev ringEntries : Nat := 4

/-- Bytes of a ring entry of one array (R121, R122). -/
abbrev entryBytes : Nat := 0x8000

/-- The address of an entry of an array's stationary ring (R121). -/
def ringAddr (engId a k : Nat) : Nat := operandBase engId + 0x5C0000 + (ringEntries * a + k) * entryBytes

/-- The first free entry of an array's stationary ring. -/
def Engine.freeEntry (x : Engine) (a : Nat) : Option Nat :=
  (List.range ringEntries).find? fun k => !x.ring.any fun q => q.slots.contains (a, k)

/-- The element codes of a tile, in as many equal parts along the contraction as it has ring entries. -/
def STile.part (t : STile) (parts i : Nat) : List Nat :=
  let n := t.elems.length / max 1 parts
  ((t.elems.drop (i * n)).take n).flatMap fun r => r.map Prod.fst

/-- A fetched tile is written into its ring entries; poison goes with it (R121, R123, R286; log entry 143). -/
def State.putTile (s : State) (addrs : List Nat) (t : STile) : State :=
  addrs.zipIdx.foldl (fun u a =>
    let bs := packElements t.bits (t.part addrs.length a.2)
    let v := u.store a.1 bs
    if t.bad = 3 then v.setPoisons a.1 bs.length else v) s

/-- The tile as the load path reads it from its ring entries: element codes and poison are those of the operand buffer, scale codes ride
with it (log entry 143). -/
def State.getTile (s : State) (addrs : List Nat) (t : STile) : STile :=
  let cw := (t.elems.headD []).length
  let n := t.elems.length / max 1 addrs.length
  let bytes := (n * cw * t.bits + 7) / 8
  let codes := addrs.flatMap fun a => unpackElements t.bits (n * cw) (s.bytesAt a bytes)
  { t with
    elems := t.elems.zipIdx.map fun r => r.1.zipIdx.map fun c => (codes.getD (r.2 * cw + c.2) 0, c.1.2)
    bad := if t.bad = 4 then 4 else if addrs.any fun a => s.poisonedAt a bytes then 3 else 0 }

/-- A multicast list has a free entry in a member (R123). -/
def Engine.mcFree (x : Engine) (lst depth : Nat) : Bool :=
  decide ((x.mcIn.get [] lst).length + (x.mcRing.get [] lst).length < depth)

/-- The MPD uses a multicast list. -/
def Job.onList (j : Job) (lst : Nat) : Bool := mpdReuse j.mpd.words && mpdList j.mpd.words = lst

/-- The unit holds the tile of a place in the list of lanes of an MPD. -/
def McUnit.holds (u : McUnit) (seq k : Nat) : Bool := u.seq = seq && u.tiles.any fun q => q.1 = k

/-- The addresses of the tile of a place within a unit's entry in a member's ring (R122, R123): an entry has 32 KiB per array used, of which
the halves of a split array take one half each. -/
def State.mcAddrs (s : State) (d e lst : Nat) (u : McUnit) (k : Nat) : List Nat :=
  let r := s.mcastRec d (s.activeOf d) lst
  let base := fun (size : Nat) => operandBase (36 * d + e) + mcRegion r + u.slot * size
  match Shape.ofCode? u.shape with
  | some .t1 => [base (2 * entryBytes), base (2 * entryBytes) + entryBytes]
  | some .t2 => [base (2 * entryBytes) + k * entryBytes]
  | some .t3 => [base entryBytes + k * (entryBytes / 2)]
  | _ => [base entryBytes]

/-- Take the tile of a place of an MPD out of the oldest unit that holds it; a unit without tiles frees its entry (R123). -/
def takePlace (seq k : Nat) : List McUnit → List McUnit
  | [] => []
  | u :: us =>
    if u.holds seq k then
      let r := { u with tiles := u.tiles.filter fun q => q.1 ≠ k }
      if r.tiles.isEmpty then us else r :: us
    else u :: takePlace seq k us

/-- Take the tiles of a place of an MPD out of every unit. -/
def dropPlace (seq k : Nat) (us : List McUnit) : List McUnit :=
  (us.map fun u => if u.seq = seq then { u with tiles := u.tiles.filter fun q => q.1 ≠ k } else u).filter fun u => !u.tiles.isEmpty

/-- The place of a lane in its MPD's list of lanes. -/
def Job.place (j : Job) (lane : Nat) : Nat := (j.lanes.map LaneProg.lane).idxOf lane

/-- A pass is taken back, to be presented again (R68, R88). What its presentation counted goes with it: only the presentation that is
accepted reports its invalid inputs (log entry 144). -/
def LaneProg.replay (l : LaneProg) : LaneProg :=
  { l with started := false, work := [], past := none, nonfin := none, inv := 0, bad := 0, badRow := false }

/-- A lane stops with a fault code: its open tiles are given up, and so are the tiles that were fetched for it. (Log entry 205.) -/
def State.stopLane (s : State) (d e i lane code : Nat) : State :=
  let x := s.engD d e
  match x.job? i with
  | none => s
  | some j =>
    match j.lane? lane with
    | none => s
    | some l =>
      let lst := mpdList j.mpd.words
      s.setEng d e { x.setJob i (j.setLane { l.replay with stop := code, shadow := none, active := none, reload := false }) with
        tiles := x.tiles.set [] lane []
        ring := x.ring.filter fun q => !(q.seq = j.mpd.seq && q.lane = lane)
        mcRing := if mpdReuse j.mpd.words then x.mcRing.set [] lst (dropPlace j.mpd.seq (j.place lane) (x.mcRing.get [] lst)) else x.mcRing }

/-- A multicast fault (R124): the engine discards the units it holds for the list, its MPD ends on every lane, and the die disables the
list. -/
def State.mcFault (s : State) (d e lst i code : Nat) (pl : List Byte) : State :=
  let x := s.engD d e
  let lanes := match x.job? i with | some j => j.lanes.map LaneProg.lane | none => []
  let s1 := lanes.foldl (fun t l => t.stopLane d e i l code) s
  let y := s1.engD d e
  ((s1.setEng d e { y with mcIn := y.mcIn.set [] lst [], mcRing := y.mcRing.set [] lst [] }).updFab d fun f => { f with
    disabled := if f.disabled.contains lst then f.disabled else f.disabled ++ [lst]
    mcFaults := f.mcFaults ++ [(e, lst, code)] }).raise (Page.eng d e) code pl

/-- The payload of a multicast record (R80, R135): the pass is the one whose unit is at fault. -/
def State.mcPayload (s : State) (d e lst : Nat) (j : Job) (pos b11 : Nat) : List Byte :=
  accPayload j.mpd.seq (s.passNo j.mpd ((mpdLanes j.mpd.words).headD 0) pos) (mpdArrayByte j.mpd.words) (mpdHalfByte j.mpd.words) lst b11
    (min 65535 ((s.engD d e).mcCount.get 0 lst)) (mpdMb j.mpd.words)

/-- The address of the first tile of the unit of a pass, as an engine's own sequencer computes it (R123). -/
def State.unitAddr (s : State) (m : Mpd) (pos : Nat) : Nat :=
  let lane := (mpdLanes m.words).headD 0
  s.statAddr m lane (s.passOf m lane pos)

/-- A unit whose address is not the member's own (R124). -/
def State.mcMismatch (s : State) (d e lst i : Nat) (j : Job) (pos : Nat) : State :=
  s.mcFault d e lst i Code.seqMcastMismatch (s.mcPayload d e lst j pos (mcLeader (s.mcastRec d (s.activeOf d) lst)))

/-- A lane of a job takes tiles from the fetcher of its engine: not in place, and not from the leader of another engine (R121, R123). -/
def State.fetches (s : State) (d e : Nat) (j : Job) (lane : Nat) : Bool :=
  !j.mpd.inPlace (36 * d + e) lane &&
    (!mpdReuse j.mpd.words || mcLeader (s.mcastRec d (s.activeOf d) (mpdList j.mpd.words)) = e)

/-- The earliest MPD of the queue that still needs a tile of an array from the fetcher, with its place in the queue (R121). -/
def State.fetchCand (s : State) (d e a : Nat) : Option (Job × Nat) :=
  (s.engD d e).queue.zipIdx.find? fun p =>
    (p.1.lanesOn a).any fun l => s.fetches d e p.1 l.lane && (s.fetchPos p.1.mpd l).isSome

/-- No earlier MPD of the queue on the MPD's list still has units to be fetched: the leader fetches a list's units in the order of its own
MPDs on that list, whichever arrays they use (R123). -/
def State.listTurn (s : State) (d e i : Nat) (j : Job) : Bool :=
  !mpdReuse j.mpd.words || ((s.engD d e).queue.take i).all fun q =>
    !q.onList (mpdList j.mpd.words) || q.lanes.all fun l => (s.fetchPos q.mpd l).isNone

/-- The fetcher's next tile is that of a lane: of the earliest MPD on each of its arrays, and of no later pass than another lane's of the
array (R121). -/
def State.fetchTurn (s : State) (d e : Nat) (i : Nat) (j : Job) (l : LaneProg) (pos : Nat) : Bool :=
  s.listTurn d e i j && (j.mpd.laneArrays l.lane).all fun a =>
    ((s.fetchCand d e a).any fun c => c.2 = i) &&
      (j.lanesOn a).all fun q => match s.fetchPos j.mpd q with
        | some p => decide (pos ≤ p) || !s.fetches d e j q.lane
        | none => true

/-- A fetch of stationary tiles by an engine's tile fetcher (R121, R280, R283, R286): a byte that it does not see reads as zeros and raises
MEM_UNMAPPED, poisoned granules are counted. -/
def State.fetchTile (s : State) (d : Die) (e : Eng) (m : Mpd) (lane : Nat) (p : PassIx) : STile × State :=
  let u := MemUnit.tileFetcher d e
  let addrs := s.statAddrs m lane p
  let tile := s.statTileBy (fun a => (s.accessFault u a false).isNone) m lane p
  let s1 := s.countPoison (distinct (addrs.map granule))
  (tile, match addrs.findSome? fun a => (s.accessFault u a false).map (a, ·) with
    | some q => s1.unmapped u q.1 q.2 (mpdMb m.words)
    | none => s1)

/-- The ac that a fetch takes (R121). -/
def State.fetchAc (s : State) (m : Mpd) (lane : Nat) : Nat := ceilDiv (s.statBytes m lane) 128

/-- The leader of a multicast list fetches a unit and sends it to every member, each of which has a free entry (R123). -/
def State.fetchUnit (s : State) (d : Die) (e : Eng) (i : Nat) (j : Job) (pos : Nat) : State :=
  let lst := mpdList j.mpd.words
  let r := s.mcastRec d (s.activeOf d) lst
  let members := (List.range 36).filter (mcMember r)
  if !members.all (fun k => (s.engD d k).mcFree lst (mcDepth r)) then s
  else
    let got := j.lanes.zipIdx.foldl (fun (a : List (Nat × STile) × State) q =>
      let f := a.2.fetchTile d e j.mpd q.1.lane (s.passOf j.mpd q.1.lane pos)
      (a.1 ++ [(q.2, f.1)], f.2)) ([], s)
    let unit : McUnit := { seq := 0, addr := s.unitAddr j.mpd pos, shape := mpdTile j.mpd.words, slot := 0, tiles := got.1 }
    let j1 := { j with lanes := j.lanes.map fun q =>
      { q with fetched := pos + 1, fkey := statKey j.mpd (s.passOf j.mpd q.lane pos) } }
    let s1 := got.2.setEng d e ((s.engD d e).setJob i j1)
    let s2 := members.foldl (fun t k =>
      let y := t.engD d k
      t.setEng d k { y with mcIn := y.mcIn.set [] lst (y.mcIn.get [] lst ++ [unit]) }) s1
    s2.count (regAddr (Page.eng d e) 0x298) (j.lanes.map fun q => s.fetchAc j.mpd q.lane).sum

/-- The fetcher reads the next tile of a lane into the first free entry of the ring of each of its arrays (R121). -/
def State.fetchRing (s : State) (d : Die) (e : Eng) (i : Nat) (j : Job) (l : LaneProg) (pos : Nat) : State :=
  let x := s.engD d e
  let arrays := j.mpd.laneArrays l.lane
  let slots := arrays.filterMap fun a => (x.freeEntry a).map (a, ·)
  if slots.length ≠ arrays.length then s
  else
    let p := s.passOf j.mpd l.lane pos
    let f := s.fetchTile d e j.mpd l.lane p
    let s1 := f.2.putTile (slots.map fun q => ringAddr (36 * d + e) q.1 q.2) f.1
    let x1 := { x.setJob i (j.setLane { l with fetched := pos + 1, fkey := statKey j.mpd p }) with
      ring := x.ring ++ [{ seq := j.mpd.seq, lane := l.lane, slots := slots, tile := f.1 }] }
    (s1.setEng d e x1).count (regAddr (Page.eng d e) 0x298) (s.fetchAc j.mpd l.lane)

/-- TILE_FETCH (R121, R123): the fetcher reads the next stationary tile of the earliest MPD of an array that still needs one: into the
array's ring, or, as the leader of a multicast list, as a unit into the next ring entry of every member. -/
def execTileFetch (d : Die) (e : Eng) (a : Arr) (h : Half) (s : State) : Host.Outcome State Fault Refusal :=
  if s.still then .next s else
  match s.fetchCand d.val e.val (arrNum a) with
  | none => .next s
  | some (j, i) =>
    match j.lane? (j.mpd.laneFor a h) with
    | none => .next s
    | some l =>
      match s.fetchPos j.mpd l with
      | none => .next s
      | some pos =>
        if !s.fetches d e j l.lane || !s.fetchTurn d e i j l pos then .next s
        else if mpdReuse j.mpd.words then .next (s.fetchUnit d e i j pos)
        else .next (s.fetchRing d e i j l pos)

/-- The ring of an in-port. -/
def FabDie.ringAt (f : FabDie) (i : Nat) : Ring := f.rings.get Ring.empty i

/-- Where an enabled in-port keeps its ring (R142): the port, the first byte of each plane, and the slots of a plane. -/
structure RingPlace where
  port   : Nat
  elems  : Nat
  scales : Nat
  len    : Nat
  deriving DecidableEq, Repr

/-- The rings of an engine's enabled in-ports. -/
def State.ringPlaces (s : State) (d e : Nat) : List RingPlace :=
  (List.range 4).filterMap fun i =>
    let r := s.engPortRec d (s.activeOf d) (8 * e + i)
    let base := operandBase (36 * d + e) + bitsOf (r.getD 0 0) 16 0 * 64
    if bitOf (r.getD 0 0) 31 then
      some { port := 4 * e + i, elems := base, scales := base + bitsOf (r.getD 1 0) 16 0 * 64
             len := max 1 (bitsOf (r.getD 0 0) 30 17) }
    else none

/-- The age of the slot of a plane at `base` that an address lies in, the oldest held slot being 0; none outside the plane. -/
def RingPlane.ageAt (p : RingPlane) (base len a : Nat) : Option Nat :=
  if base ≤ a ∧ a < base + 64 * len then some (((a - base) / 64 + p.held + len - p.next) % len) else none

/-- A byte that lies in a plane has arrived: its slot holds an entry (R51, R142). -/
def RingPlane.arrived (p : RingPlane) (base len a : Nat) : Bool := (p.ageAt base len a).all fun k => decide (k < p.held)

/-- Bytes of an engine's operand buffer have arrived: those that lie in an in-port's ring lie in slots that hold an entry, any other is where
it is (R51; log entry 25). -/
def State.arrived (s : State) (d e : Nat) (addrs : List Nat) : Bool :=
  (s.ringPlaces d e).all fun q =>
    let r := (s.fabD d).ringAt q.port
    addrs.all fun a => r.elems.arrived q.elems q.len a && r.scales.arrived q.scales q.len a

/-- The first and the last byte of each of some elements of an operand, and their scale bytes. -/
def State.operandAddrs (s : State) (t : List Nat) (cs : List Coord) : List Nat :=
  let enc := s.tdEncoding t
  let bits := ((Format.ofCode? enc.fmt).getD .bf16).bits
  cs.flatMap fun c =>
    let o := tdBitOffset t bits c
    [tdPlane t + o / 8, tdPlane t + (o + bits - 1) / 8] ++
      (match enc.scale with | .none => [] | _ => [tdScaleAddr t bits c])

/-- A live extent of an MPD: levels B, H, N, M, K. -/
def Mpd.ext (m : Mpd) (lvl : Nat) : Nat := m.live.getD lvl 0

/-- The streamed elements that a pass reads within the live extents: its unmasked rows (R51, R57, R58). -/
def State.passStrm (s : State) (m : Mpd) (lane : Nat) (p : PassIx) : List Coord :=
  let w := m.words
  let l := s.loops m lane
  let first := p.m * mpdMch w
  ((m.freeRows first (tileRows w)).filter fun r => decide (first + r < m.ext 3)).flatMap fun r =>
    ((List.range l.ku).filter fun t => decide (p.k * l.ku + t < m.ext 4)).map fun t =>
      strmCoord w p.b p.h (mpdMOrg w + first + r) (mpdKOrg w + p.k * l.ku + t)

/-- The stationary elements that a pass reads within the live extents (R50, R57). -/
def State.passStat (s : State) (m : Mpd) (lane : Nat) (p : PassIx) : List Coord :=
  let w := m.words
  let l := s.loops m lane
  ((List.range l.ku).filter fun t => decide (p.k * l.ku + t < m.ext 4)).flatMap fun t =>
    ((List.range l.cw).filter fun c => decide (colBase m l lane p.n + c < mpdNOrg w + m.ext 2)).map fun c =>
      statCoord w p.b p.h (mpdKOrg w + p.k * l.ku + t) (colBase m l lane p.n + c)

/-- The elements of the fused operand for a row of an output tile, within the live extents (R98). -/
def State.rowFused (s : State) (m : Mpd) (lane b h n r : Nat) : List Coord :=
  let w := m.words
  let l := s.loops m lane
  if r < m.ext 3 then
    ((List.range l.cw).filter fun c => decide (colBase m l lane n + c < mpdNOrg w + m.ext 2)).map fun c =>
      fusedCoord w b h (mpdMOrg w + r) (colBase m l lane n + c)
  else []

/-- The rows of a streamed operand that a pass needs have arrived (R51). -/
def State.passRowsReady (s : State) (d e : Nat) (m : Mpd) (lane : Nat) (p : PassIx) : Bool :=
  let t := m.td (strmSlot m.words lane)
  (s.ringPlaces d e).isEmpty || s.arrived d e (s.operandAddrs t (s.passStrm m lane p))

/-- A stationary tile that is read in place has arrived (R121, R142). -/
def State.tileArrived (s : State) (d e : Nat) (m : Mpd) (lane : Nat) (p : PassIx) : Bool :=
  let t := m.td (laneSlot lane (mpdStatTd m.words))
  (s.ringPlaces d e).isEmpty || s.arrived d e (s.operandAddrs t (s.passStat m lane p))

/-- Every byte of the operand buffer that an MPD reads: streamed and fused operands, and stationary operands that are read in place. -/
def State.mpdReads (s : State) (d e : Nat) (m : Mpd) : List Nat :=
  let w := m.words
  (mpdLanes w).flatMap fun lane =>
    let l := s.loops m lane
    (List.range l.total).flatMap fun pos =>
      let p := passAt (mpdOrder w) l pos
      if m.tileMasked l p then []
      else
        s.operandAddrs (m.td (strmSlot w lane)) (s.passStrm m lane p) ++
          (if m.inPlace (36 * d + e) lane then s.operandAddrs (m.td (laneSlot lane (mpdStatTd w))) (s.passStat m lane p) else []) ++
          (if mpdEpiEn w then s.operandAddrs (m.td (laneSlot lane (mpdEpiTd w)))
            ((List.range (tileRows w)).flatMap fun r => s.rowFused m lane p.b p.h p.n (p.m * mpdMch w + r)) else [])

/-- The greatest of some numbers, plus one; 0 for none. -/
def pastAll (l : List Nat) : Nat := l.foldl (fun a k => max a (k + 1)) 0

/-- A plane after an MPD that reads it has completed (R142): the slots up to the last that completed MPDs have read go, in ring order, but for
those from the first that an MPD still running on the engine reads. -/
def RingPlane.free (p : RingPlane) (base len : Nat) (done keep : List Nat) : RingPlane :=
  let ages := fun l : List Nat => (l.filterMap (p.ageAt base len)).filter fun k => decide (k < p.held)
  let mark := max p.read (pastAll (ages done))
  let n := (ages keep).foldl min mark
  { p with held := p.held - n, read := mark - n }

/-- The MPDs that run on an engine's arrays, other than one (R49). -/
def Engine.runningBut (x : Engine) (seq : Nat) : List Mpd :=
  ([0, 1].filterMap fun a => (x.running a).map fun p => p.2.mpd).filter fun m => m.seq ≠ seq

/-- Free the slots of the in-port rings that a completed MPD has read (R142; log entry 25); `keep` are the MPDs that still run. -/
def State.freeRings (s : State) (d e : Nat) (m : Mpd) (keep : List Mpd) : State :=
  (s.ringPlaces d e).foldl (fun t q =>
    let done := s.mpdReads d e m
    let kept := keep.flatMap (s.mpdReads d e)
    let r := (s.fabD d).ringAt q.port
    let r1 : Ring := { elems := r.elems.free q.elems q.len done kept, scales := r.scales.free q.scales q.len done kept }
    t.updFab d fun f => { f with rings := f.rings.set Ring.empty q.port r1 }) s

/-- The tile that the load path finds for a lane of a job at a position, with the engine after it has taken the tile from
its ring: in place, from the multicast ring, or from the stationary ring (R52, R121, R123). -/
def State.takeTile (s : State) (d e : Nat) (x : Engine) (j : Job) (lane pos : Nat) : Option (STile × Engine) :=
  let id := 36 * d + e
  let lst := mpdList j.mpd.words
  if j.mpd.inPlace id lane then
    let p := s.passOf j.mpd lane pos
    if s.tileArrived d e j.mpd lane p then some (s.statTile j.mpd lane p, x) else none
  else if mpdReuse j.mpd.words then
    let k := j.place lane
    let us := x.mcRing.get [] lst
    match us.find? fun u => u.holds j.mpd.seq k with
    | none => none
    | some u => (u.tiles.find? fun q => q.1 = k).map fun q =>
        (s.getTile (s.mcAddrs d e lst u k) q.2, { x with mcRing := x.mcRing.set [] lst (takePlace j.mpd.seq k us) })
  else
    (x.ring.find? fun q => q.seq = j.mpd.seq && q.lane = lane).map fun q =>
      (s.getTile (q.slots.map fun z => ringAddr id z.1 z.2) q.tile, { x with ring := x.ring.erase q })

/-- A lane with a tile loaded into its shadow tile. -/
def LaneProg.load (l : LaneProg) (pos : Nat) (key : List Nat) (t : STile) : LaneProg :=
  { l with loaded := pos + 1, lkey := key, shadow := some t }

/-- Invalid inputs of an operand are reported to the Leaven entry of the tensor that a lane produces (R21, R39). -/
def State.reportInv (s : State) (d : Nat) (m : Mpd) (lane n : Nat) : State :=
  s.levReport d (tdLeaven (m.td (laneSlot lane (mpdOutTd m.words)))) { cnt := ⟨0, 0, n⟩, elem := 0, amax := 0 }

/-- Load the next tile of job `i` on a lane into the shadow tile: its invalid inputs are reported as it is read (R21, R52; log entry
144). -/
def State.loadShadow (s : State) (d e : Nat) (i lane : Nat) : State :=
  let x := s.engD d e
  match x.job? i with
  | none => s
  | some j =>
    match j.lane? lane with
    | none => s
    | some l =>
      match s.loadPos j.mpd l with
      | none => s
      | some pos =>
        match s.takeTile d e x j lane pos with
        | none => s
        | some (t, x1) =>
          (s.setEng d e (x1.setJob i (j.setLane (l.load pos (statKey j.mpd (s.passOf j.mpd lane pos)) t)))).reportInv d j.mpd lane t.inv

/-- A lane of a running MPD waits for the load path: for the reload of its active tile, or for the next tile (R53, R68). -/
def State.wantsLoad (s : State) (j : Job) (l : LaneProg) : Bool :=
  l.stop = 0 && (l.reload || (l.shadow.isNone && (s.loadPos j.mpd l).isSome))

/-- The shadow loads that wait for the load path of an array, in the order of their requests: loads requested together in the order of the
lanes (R65). -/
def State.loadQueue (s : State) (d e a : Nat) : List Nat :=
  let x := s.engD d e
  match x.running a with
  | none => []
  | some (_, j) =>
    let want := ((j.lanesOn a).filter (s.wantsLoad j)).map LaneProg.lane
    let old := (x.loads.get [] a).filter fun q => want.contains q
    old ++ want.filter fun q => !old.contains q

/-- The order of the shadow loads of an array is kept. -/
def State.noteLoads (s : State) (d e a : Nat) : State :=
  let x := s.engD d e
  s.setEng d e { x with loads := x.loads.set [] a (s.loadQueue d e a) }

/-- The tile of a load that waits is at hand. -/
def State.loadReady (s : State) (d e : Nat) (j : Job) (lane : Nat) : Bool :=
  match j.lane? lane with
  | none => false
  | some l => l.reload || (match s.loadPos j.mpd l with
    | some pos => (s.takeTile d e (s.engD d e) j lane pos).isSome
    | none => false)

/-- The active tile of a lane is loaded again for a check replay (R68): in place it is read anew, else the same bytes come from the ring. It
is no new load, and its invalid inputs are not reported again (log entry 144). -/
def State.reloadActive (s : State) (d e i : Nat) (j : Job) (l : LaneProg) : State :=
  let t := if j.mpd.inPlace (36 * d + e) l.lane then some (s.statTile j.mpd l.lane (s.passOf j.mpd l.lane l.pos)) else l.active
  s.setEng d e ((s.engD d e).setJob i (j.setLane { l with reload := false, active := t }))

/-- Corrected operand-buffer errors of an engine (R66). -/
def State.obCorrected (s : State) (d e n : Nat) : State := s.count (regAddr (Page.eng d e) cntObCorrected) n

/-- SHADOW_LOAD_DONE (R52, R65, R66, R68): the load path serves the loads of an array in the order of their requests, of those whose tile is
at hand (log entry 144): it fills the free shadow tile of a lane with the next tile of its running MPD, or reloads the active tile for a
check replay. The single-bit errors that were
corrected on the way are counted. -/
def execShadowLoadDone (d : Die) (e : Eng) (a : Arr) (h : HalfRead) (s : State) : Host.Outcome State Fault Refusal :=
  if s.still then .next s else
  let x := s.engD d e
  let lane := x.laneFor a h.half
  let ar := lane / 3
  match x.runLane lane with
  | none => .next s
  | some (i, j, l) =>
    if (s.loadQueue d e ar).find? (s.loadReady d e j) ≠ some lane then .next s
    else
      let s1 := (s.noteLoads d e ar).obCorrected d e h.corrected
      .next (if l.reload then s1.reloadActive d e i j l else s1.loadShadow d e i lane)

/-- PRELOAD_EN and BALLAST_EN of an engine. -/
def State.preloadEn (s : State) (d e : Nat) : Bool := (s.rwAt (regAddr (Page.eng d e) 0x104)).getLsbD 0
def State.engBallastEn (s : State) (d e : Nat) : Bool := (s.rwAt (regAddr (Page.eng d e) 0x104)).getLsbD 1

/-- The shadow tiles of an array are free, and the MPD that runs there has no further tile to load (R53). -/
def State.shadowFree (s : State) (x : Engine) (a : Nat) : Bool :=
  match x.running a with
  | none => true
  | some (_, j) => (j.lanesOn a).all fun l => l.shadow.isNone && !l.reload && (s.loadPos j.mpd l).isNone

/-- The next MPD of an array: the first in the queue that uses it and does not run (R53). -/
def Engine.nextJob (x : Engine) (a : Nat) : Option (Job × Nat) :=
  let run := (x.running a).map Prod.fst
  x.queue.zipIdx.find? fun p => p.1.uses a && some p.2 ≠ run

/-- PRELOAD (R53, R66): with PRELOAD_EN set, once the shadow tile of an array is free and the MPD that runs there loads no further tile, the
first tile of the next MPD for the array is loaded. The single-bit errors that were
corrected on the way are counted. -/
def execPreload (d : Die) (e : Eng) (a : Arr) (h : HalfRead) (s : State) : Host.Outcome State Fault Refusal :=
  if s.still then .next s else
  let x := s.engD d e
  match x.nextJob (arrNum a) with
  | none => .next s
  | some (j, k) =>
    let lane := j.mpd.laneFor a h.half
    let free := (j.mpd.laneArrays lane).all fun q => s.shadowFree x q && (x.nextJob q).map Prod.snd = some k
    let clear := match j.lane? lane with | some l => l.shadow.isNone && l.loaded = 0 && s.loadReady d e j lane | none => false
    if s.preloadEn d e && free && clear then .next ((s.obCorrected d e h.corrected).loadShadow d e k lane) else .next s

/-- Open tiles of a lane and tiles that drain on an array. -/
def Engine.open_ (x : Engine) (lane : Nat) : List AccTile := x.tiles.get [] lane
def Engine.draining (x : Engine) (a : Nat) : List DrainTile := x.drains.get [] a
def Engine.fill (x : Engine) (a : Nat) : Nat := x.fillSet.get 0 a

/-- The open tile of a lane at the place of a pass. -/
def AccTile.at? (p : PassIx) (t : AccTile) : Bool := t.b = p.b && t.h = p.h && t.n = p.n && t.m = p.m

/-- A new tile of a lane (R86, R91). -/
def State.newTile (s : State) (m : Mpd) (x : Engine) (lane : Nat) (p : PassIx) : AccTile :=
  let pl := s.planOf m.tds m.words lane
  { b := p.b, h := p.h, n := p.n, m := p.m
    rows := List.replicate pl.rows (List.replicate pl.cols 0), pairs := [], spilt := false, fresh := true, passes := 0
    set := x.fill (lane / 3), slots := pl.acc / max 1 pl.tiles, wide := pl.wide / max 1 pl.tiles
    rung := mpdRungStart m.words, pass := 0 }

/-- The set that fills is free of draining tiles (R94, R96). -/
def Engine.setFree (x : Engine) (a : Nat) : Bool := !(x.draining a).any fun t => t.tile.set = x.fill a

/-- The lanes of an array. -/
def arrayLanes (a : Nat) : List Nat := [3 * a, 3 * a + 1, 3 * a + 2]

/-- The sets exchange roles once every tile of the fill set has been handed to the drain (R94). -/
def Engine.swapSets (x : Engine) (a : Nat) : Engine :=
  if (arrayLanes a).any fun l => (x.open_ l).any fun t => t.set = x.fill a then x
  else { x with fillSet := x.fillSet.set 0 a (1 - x.fill a) }

/-- Hand a tile of a lane to the drain, with the BAB of its MPD (R95, R97). -/
def Engine.hand (x : Engine) (m : Mpd) (lane bab : Nat) (t : AccTile) : Engine :=
  let a := lane / 3
  Engine.swapSets { x with
    tiles := x.tiles.set [] lane ((x.open_ lane).filter fun q => !(q.b = t.b && q.h = t.h && q.n = t.n && q.m = t.m))
    drains := x.drains.set [] a (x.draining a ++
      [{ mpd := m, lane := lane, tile := t, bab := bab, begun := false, next := 0, flagged := false }]) } a

/-- Write a field of `n` bits at a bit offset of a plane. -/
def State.storeBits (s : State) (plane off n v : Nat) : State :=
  let a := plane + off / 8
  let k := (off % 8 + n + 7) / 8
  s.storeNat a k (putBits (s.natAt a k) (off % 8 + n - 1) (off % 8) v)

/-- The rows and headers that an engine's epilogues write reach what a stream port of its die reaches: R283 names no view for them (log entry
179). -/
def engWriter (d : Nat) : MemUnit := .streamPort (Fin.ofNat 4 d) 0

/-- Write a field of `n` bits of a plane, where R280 lets the write through. -/
def State.storeBitsFor (s : State) (u : MemUnit) (plane off n v : Nat) : State :=
  if (s.accessFault u (plane + off / 8) true).isSome then s else s.storeBits plane off n v

/-- Raise MEM_UNMAPPED once for each granule that a row's write is turned away from (R280). -/
def State.rowFaults (s : State) (u : MemUnit) (mb : Nat) (addrs : List Nat) : State :=
  (distinct (addrs.map granule)).foldl (fun t g => match t.accessFault u g true with
    | some c => t.unmapped u g c mb
    | none => t) s

/-- An output lane writes its own buffer's header (R99). -/
def Mpd.writesHeader (m : Mpd) (lane : Nat) : Bool :=
  tdHdr (m.td (laneSlot lane (mpdOutTd m.words))) && mpdAccEnd m.words && mpdNOrg m.words = 0 && mpdMOrg m.words = 0 &&
    !(mpdShape m.words = .t2 && lane = 3)

/-- The Leaven's view of a tensor that an epilogue produces: an epilogue never produces FP32, and an entry that asks for it gets BF16 (R98;
log entry 153). -/
def LevView.engine (v : LevView) : LevView := if v.fmt = .fp32 then { v with fmt := .bf16 } else v

/-- The header granule of a tensor produced under a view of its Leaven entry (R38, R99). -/
def State.headerOf (s : State) (v : LevView) (mb elem : Nat) : List Byte :=
  record 64 [(0, 4, v.fmt.code + (match v.scale with | .none => 0 | .nq32 => 16 | .mx => 32) + 64 * b2n v.conv),
    (4, 4, if v.scale = .nq32 then v.bT else fp32One), (8, 4, v.tensor + 2 ^ 20 * mb), (12, 4, s.ctl.stepNo % 2 ^ 32),
    (16, 6, elem)]

/-- The header granule of a produced tensor (R38, R99). -/
def State.headerBytes (s : State) (d idx mb elem : Nat) : List Byte := s.headerOf (s.levView d idx) mb elem

/-- The header of an output buffer is written, once (R99): in shape T2 array A's descriptor serves both arrays. That of a partial in an arrival
window is written by the stream port that carries it there (R239, R282). -/
def State.putHeader (s : State) (d e : Nat) (seq lane0 : Nat) : State :=
  let x := s.engD d e
  match x.queue.zipIdx.find? fun p => p.1.mpd.seq = seq with
  | none => s
  | some (j, i) =>
    let lane := if mpdShape j.mpd.words = .t2 then 0 else lane0
    let t := j.mpd.td (laneSlot lane (mpdOutTd j.mpd.words))
    if !j.mpd.writesHeader lane || j.header.contains lane then s
    else
      let elem := tdExt0 t * tdExt1 t * tdExt2 t * tdExt3 t
      let s1 := s.setEng d e (x.setJob i { j with header := j.header ++ [lane] })
      match regionOf (tdPlane t) with
      | .arrival _ _ => s1
      | _ => s1.storeFor (engWriter d) (tdBase t) (s.headerOf (s.levView d (tdLeaven t)).engine (mpdMb j.mpd.words) elem)
          (mpdMb j.mpd.words)

/-- The status that a completed MPD reports (R49). -/
def jobStatus (j : Job) : Nat :=
  match j.lanes with
  | [l] => if l.stop = 0 then 0 else 3
  | [l, h] => b2n (decide (l.stop ≠ 0)) + 2 * b2n (decide (h.stop ≠ 0))
  | _ => 0

/-- Tiles and passes that the live extents left out (R126, R134), and rows computed beyond a live extent on the arrays that computed them: of each tile that is not masked its rows that are not (R58, R59; log entry 23). -/
def State.skipped (s : State) (j : Job) : Nat × Nat × Nat :=
  let m := j.mpd
  let l := s.loops m ((mpdLanes m.words).headD 0)
  let bp := mpdPlan m.words 0
  let hp := mpdPlan m.words 1
  let past := fun (p : PassIx) => ((m.freeRows (p.m * mpdMch m.words) (tileRows m.words)).filter fun r =>
    decide (m.raw.getD 3 0 ≤ p.m * mpdMch m.words + r ∧ p.m * mpdMch m.words + r < m.live.getD 3 0)).length
  let tiles := ((List.range ({ l with k := 1 } : Loops).total).map (passAt (mpdOrder m.words) { l with k := 1 })).filter fun p => !m.tileMasked l p
  let rows := if isBucketLvl m.words 3 && !l.empty then (tiles.map past).sum else 0
  let arrays := distinct ((j.lanes.filter fun q => q.stop = 0).flatMap fun q => m.laneArrays q.lane)
  (bp * hp * l.np * l.mp - l.b * l.h * l.n * l.m, bp * hp * l.np * l.mp * l.kp - l.total, rows * arrays.length)

/-- The MPD's halves take their rows from one stream (R65, R70, R108): shape T2, and a split array with SPLIT_STREAM clear. Halves whose
operands differ in depth cannot share passes and present by themselves (log entry 156). -/
def State.sharedStream (s : State) (m : Mpd) : Bool :=
  (mpdShape m.words = .t2 || (mpdShape m.words = .t3 && !mpdSplitStream m.words)) &&
    (mpdLanes m.words).all fun q => decide (s.loops m q = s.loops m ((mpdLanes m.words).headD 0))

/-- A lane counts for its array: with a shared stream the rows of a split array are the low half's while it runs, else the high half's. -/
def State.countsFor (s : State) (j : Job) (lane : Nat) : Bool :=
  !(mpdShape j.mpd.words = .t3 && s.sharedStream j.mpd) || lane % 3 ≠ 2 || j.lanes.any fun q => q.lane % 3 = 1 && q.stop ≠ 0

/-- Add to a counter of each array that works on a lane. -/
def State.countLane (s : State) (d e : Nat) (m : Mpd) (lane off step n : Nat) : State :=
  (m.laneArrays lane).foldl (fun t a => t.count (engCounter d e a off step) n) s

/-- Rows of the masked tiles behind the last pass of each lane (R60, R79). -/
def State.skipRest (s : State) (d e : Nat) (j : Job) : State :=
  j.lanes.foldl (fun t l =>
    if l.stop = 0 && s.countsFor j l.lane then
      t.countLane d e j.mpd l.lane 0x4C 0x1C (((s.loops j.mpd l.lane).total - l.pos) * tileRows j.mpd.words) else t) s

/-- The nodes that the routes lead to from a list of nodes, in at most `n` steps: `seen` holds what has been reached. -/
def reachable (g : List (Node × Node)) : Nat → List Node → List Node → List Node
  | 0, _, seen => seen
  | _, [], seen => seen
  | n + 1, x :: xs, seen =>
    let next := ((g.filter fun e => e.1 = x).map Prod.snd).filter fun y => !seen.contains y
    reachable g n (xs ++ next) (seen ++ next)

/-- A stream port that writes into a Proofer's arrival window (R143, R239, R281). -/
def State.spToWindow (s : State) (d p : Nat) : Bool :=
  let r := s.spRec d (s.activeOf d) p
  bitsOf (r.getD 0 0) 1 0 = 2 &&
    (match regionOf ((r.getD 1 0 + 2 ^ 32 * bitsOf (r.getD 2 0) 7 0) * 64) with | .arrival _ _ => true | _ => false)

/-- The out-ports of an array lead, over routes that pass no engine, to a stream port that writes into an arrival window. -/
def State.arrayToWindow (s : State) (d e a : Nat) : Bool :=
  let used := s.reedsUsed d (s.activeOf d)
  let g := used.flatMap fun p => reedEdges p.1 p.2
  let start := ([2 * a, 2 * a + 1].filter fun i => bitOf ((s.engPortRec d (s.activeOf d) (8 * e + 4 + i)).getD 0 0) 31).map
    fun i => Node.link (attachOutReed e i) 0 4
  (reachable g (g.length + 1) start start).any fun n => match n with
    | .link r 0 dir => (match edgePort r 0 dir with | some (.stream p) => (reedNext r dir).isNone && s.spToWindow d p | _ => false)
    | _ => false

/-- The tensor whose weight-gradient partial an MPD produces on a lane: its output lies in a Proofer's arrival window, or the out-ports of
its array lead there (R239, R283; log entry 167). -/
def State.partialOf (s : State) (d e : Nat) (m : Mpd) (lane : Nat) : Option Nat :=
  let t := m.td (laneSlot lane (mpdOutTd m.words))
  let direct := match regionOf (tdBase t) with | .arrival _ _ => true | _ => false
  if direct || s.arrayToWindow d e (lane / 3) then some (s.levView d (tdLeaven t)).tensor else none

/-- The lanes of a completed MPD that were damaged, and the code of the first (R200): those that a fault stopped, and those that raised
ACC_NONFINITE. -/
def Job.damaged (j : Job) : List (Nat × Nat) :=
  j.lanes.filterMap fun l =>
    if l.stop = Code.seqMcastStall ∨ l.stop = Code.seqMcastMismatch then none
    else if l.stop ≠ 0 then some (l.lane, l.stop)
    else if j.nonfin.contains l.lane then some (l.lane, Code.accNonfinite) else none

/-- The Chanter takes the status of a completed MPD (R49, R198, R200): a multicast fault holds the micro-batch; a damaged one that produced
nothing but partials on the lanes concerned goes on with their poison marks. An MPD of the step-start program holds and drops nothing (log
entry 192). -/
def State.chanterStatus (s : State) (d e : Nat) (j : Job) : State :=
  let c := s.chD d
  match c.offers.find? fun o => o.eng = e && o.seq = j.mpd.seq with
  | none => s
  | some o =>
    let s1 := s.setCh d { c with offers := c.offers.filter fun q => !(q.eng = e && q.seq = j.mpd.seq) }
    let u := (c.unit o.unit).info
    let layer := o.layer.getD 0xFF
    let unit := decide (o.unit ≠ noUnit)
    let s2 := match (j.lanes.map LaneProg.stop).find? fun x => decide (x = Code.seqMcastStall ∨ x = Code.seqMcastMismatch) with
      | some code => if unit then s1.holdMb d u code o.back false layer else s1
      | none => s1
    match j.damaged with
    | [] => s2
    | (l, code) :: rest =>
      let ts := (l :: rest.map Prod.fst).map (s.partialOf d e j.mpd)
      if !unit then s2.damageStart d e j.mpd.seq code layer
      else s2.damageMb d u o.back (if ts.all Option.isSome then distinct (ts.filterMap id) else []) e j.mpd.seq code layer

/-- Only the K extent of the MPD is zero (R128). -/
def Mpd.onlyK (m : Mpd) : Bool := decide (m.live.getD 4 0 = 0) && [0, 1, 2, 3].all fun i => m.live.getD i 0 ≠ 0

/-- The job at an index completes (R49): headers still owed, counts, the report to the Chanter, the rings it read. An MPD of which only K is
zero writes nothing with SKIP_EMPTY set, not even a header (R128; log entry 154). -/
def State.completeJob (s : State) (d e i : Nat) : State :=
  match (s.engD d e).job? i with
  | none => s
  | some j =>
    let bare := mpdAccBegin j.mpd.words && mpdSkipEmpty j.mpd.words && j.mpd.onlyK
    let s1 := if bare then s else (mpdLanes j.mpd.words).foldl (fun t l => t.putHeader d e j.mpd.seq l) (s.skipRest d e j)
    let x := s1.engD d e
    let sk := s1.skipped j
    let page := Page.eng d e
    let x1 := { x with
      queue := x.queue.eraseIdx i, report := some (j.mpd.seq, jobStatus j)
      ring := x.ring.filter fun q => q.seq ≠ j.mpd.seq }
    (((((s1.setEng d e x1).freeRings d e j.mpd (x.runningBut j.mpd.seq)).count (regAddr page 0x280) sk.1).count (regAddr page 0x284) sk.2.1).count
      (regAddr page 0x28C) sk.2.2).chanterStatus d e j

/-- Nothing of an MPD waits in a drain of the engine. -/
def Engine.drainedAll (x : Engine) (seq : Nat) : Bool :=
  [0, 1].all fun a => !(x.draining a).any fun t => t.mpd.seq = seq

/-- A lane has nothing further to present. -/
def State.laneDone (s : State) (m : Mpd) (l : LaneProg) : Bool :=
  l.stop ≠ 0 || (!l.started && s.nextPos m l.lane l.pos = (s.loops m l.lane).total)

/-- MPD_COMPLETE (R49): the running MPD of an array completes once every lane has finished and its tiles have drained. -/
def execMpdComplete (d : Die) (e : Eng) (a : Arr) (s : State) : Host.Outcome State Fault Refusal :=
  if s.still then .next s else
  let x := s.engD d e
  match x.running (arrNum a) with
  | none => .next s
  | some (i, j) =>
    let empty := j.lanes.any fun l => (s.loops j.mpd l.lane).empty
    if (!empty || j.begun) && j.lanes.all (s.laneDone j.mpd) && x.drainedAll j.mpd.seq then .next (s.completeJob d e i)
    else .next s

/-- The base scale of an operand; MX and descriptors without a header have 1.0 (R97). -/
def State.baseScale (s : State) (t : List Nat) : Nat :=
  let e := s.tdEncoding t
  match e.scale with | .mx => fp32One | _ => e.bT

/-- BAB of an MPD on a lane, from the headers of its operands (R97). -/
def State.babOf (s : State) (m : Mpd) (lane : Nat) : Nat :=
  ff32.mul (s.baseScale (m.td (laneSlot lane (mpdStatTd m.words)))) (s.baseScale (m.td (strmSlot m.words lane)))

/-- The +0 tiles that an empty MPD begins on a lane (R128). -/
def State.zeroTiles (s : State) (m : Mpd) (x : Engine) (lane : Nat) : List AccTile :=
  let l := { s.loops m lane with k := 1 }
  ((List.range l.total).map (passAt (mpdOrder m.words) l)).filter (fun p => !m.tileMasked l p) |>.map fun p =>
    { s.newTile m x lane p with fresh := false }

/-- The tiles that an empty MPD opens or drains on a lane (R128). (Log entry 206.) -/
def State.emptyLane (s : State) (m : Mpd) (x : Engine) (lane : Nat) : Engine :=
  let w := m.words
  let bab := s.babOf m lane
  if mpdAccBegin w then
    if mpdSkipEmpty w then x
    else
      let ts := s.zeroTiles m x lane
      let x1 := { x with tiles := x.tiles.set [] lane (x.open_ lane ++ ts) }
      if mpdAccEnd w then ts.foldl (fun y t => y.hand m lane bab t) x1 else x1
  else if mpdAccEnd w then (x.open_ lane).foldl (fun y t => y.hand m lane bab t) x else x

/-- EMPTY_MPD (R128): an MPD with a zero live extent at the head of its queue issues no pass; it begins, keeps or drains
tiles by the table, and completes at once when it drains nothing. -/
def execEmptyMpd (d : Die) (e : Eng) (a : Arr) (s : State) : Host.Outcome State Fault Refusal :=
  if s.still then .next s else
  let x := s.engD d e
  match x.running (arrNum a) with
  | none => .next s
  | some (i, j) =>
    if j.begun || !(j.lanes.any fun l => (s.loops j.mpd l.lane).empty) then .next s
    else
      let x1 := (mpdLanes j.mpd.words).foldl (fun y l => s.emptyLane j.mpd y l) x
      let s1 := (s.setEng d e (x1.setJob i { j with begun := true })).count (regAddr (Page.eng d e) 0x288) 1
      if x1.drainedAll j.mpd.seq then .next (s1.completeJob d e i) else .next s1

end Sys2Proof.Machine
end

