-- ==== Sys2Proof/Machine/Engine.lean ====
section
/-! DEFINITION. Passes, checks, replays, the overflow ladder, drains, the epilogue, ballast and multicast faults (chapters
3 to 5). -/

namespace Sys2Proof.Machine

/-- Half byte of a payload for a lane (R80). -/
def laneHalf (lane : Nat) : Nat := lane % 3

/-- Rows of a pass that are presented, in ac (R50, R53, R89, R110). -/
def State.presentAc (s : State) (m : Mpd) (lane rung rows : Nat) : Nat :=
  let p := pairPeriod (s.lanePair m.tds m.words lane) * (if rung = 3 then 4 else 1)
  (if mpdShape m.words = .t4 then ceilDiv rows 2 else rows) * p

/-- The tile with which a lane presents a pass: active already, or loaded and about to become active (R53, R119). -/
def LaneProg.ready? (l : LaneProg) (key : List Nat) : Option (STile × Bool) :=
  match l.active with
  | some t => if t.key = key then some (t, false) else fromShadow l key
  | none => fromShadow l key
where
  /-- The shadow tile, if it is the pass's. -/
  fromShadow (l : LaneProg) (key : List Nat) : Option (STile × Bool) :=
    match l.shadow with
    | some t => if t.key = key then some (t, true) else none
    | none => none

/-- The lane after its pass has been presented. BAB is formed with its first pass (R97). -/
def LaneProg.presented (l : LaneProg) (pos : Nat) (t : STile) (took : Bool) (bab : Nat) (o : PassOut) : LaneProg :=
  { l with
    pos := pos, started := true, active := some t, shadow := if took then none else l.shadow, bab := some (l.bab.getD bab)
    work := o.work, past := if l.rung = 3 then none else o.past
    nonfin := if l.rung = 3 then none else o.nonfin, inv := o.inv, bad := o.bad, badRow := o.badRow }

/-- A pass that a lane can present: its position, its indices, its tile, and whether the tile comes from the shadow tile. -/
structure Ready where
  pos  : Nat
  ix   : PassIx
  tile : STile
  took : Bool
  deriving DecidableEq, Repr

/-- The pass that a lane can present now (R53, R96, R119, R126): its tile is loaded, its rows have arrived, and a new output tile has a set
that has finished its drain reads. -/
def State.passReady (s : State) (d e : Nat) (j : Job) (l : LaneProg) : Option Ready :=
  let x := s.engD d e
  let m := j.mpd
  let lp := s.loops m l.lane
  let pos := s.nextPos m l.lane l.pos
  let p := passAt (mpdOrder m.words) lp pos
  if l.started || l.reload || l.stop ≠ 0 || decide (lp.total ≤ pos) then none
  else
    match l.ready? (statKey m p) with
    | none => none
    | some (t, took) =>
      if s.passRowsReady d e m l.lane p && ((x.open_ l.lane).any (AccTile.at? p) || x.setFree (l.lane / 3)) then
        some { pos := pos, ix := p, tile := t, took := took }
      else none

/-- The lanes that one presentation reaches (R65, R70, R108): with a shared stream every lane that has yet to take its next pass, of those
that are furthest behind; the others idle until these have caught up. With separate streams, the lane alone. -/
def State.streamLanes (s : State) (j : Job) (lane : Nat) : List Nat :=
  if s.sharedStream j.mpd then
    let ls := j.lanes.filter fun l => !s.laneDone j.mpd l
    let pos := fun l : LaneProg => s.nextPos j.mpd l.lane l.pos
    ((ls.filter fun l => ls.all fun q => decide (pos l ≤ pos q)).filter fun l => !l.started).map LaneProg.lane
  else [lane]

/-- A lane presents a pass (R53, R67). Rows of masked tiles that it passes over are counted (R60). -/
def State.startLane (s : State) (d e i : Nat) (lane : Nat) (r : Ready) : State :=
  let x := s.engD d e
  match x.job? i with
  | none => s
  | some j =>
    match j.lane? lane with
    | none => s
    | some l =>
      let m := j.mpd
      let old := (x.open_ lane).find? (AccTile.at? r.ix)
      let acc := old.getD (s.newTile m x lane r.ix)
      let o := s.present m lane l.rung r.ix r.tile acc
      let x1 := { x.setJob i (j.setLane (l.presented r.pos r.tile r.took (s.babOf m lane) o)) with
        tiles := if old.isSome then x.tiles else x.tiles.set [] lane (x.open_ lane ++ [acc])
        arrays := (m.laneArrays lane).foldl (fun t a => t.upd Arr4.fresh a fun z => { z with ballast := false }) x.arrays }
      let s1 := ((s.noteLoads d e (lane / 3)).engD d e).loads
      let s2 := s.setEng d e { x1 with loads := s1 }
      let s3 := s2.noteLoads d e (lane / 3)
      if s.countsFor j lane then s3.countLane d e m lane 0x4C 0x1C ((r.pos - l.pos) * tileRows m.words) else s3

/-- The ac in which each array of a presentation presents rows (R79): an array counts once; the high half of a split array with separate
streams adds nothing while the low half presents (log entry 156). -/
def State.countBusy (s : State) (d e : Nat) (j : Job) (rs : List (Nat × Ready)) : State :=
  let m := j.mpd
  let ac := fun q : Nat × Ready =>
    s.presentAc m q.1 ((j.lane? q.1).elim 0 LaneProg.rung)
      (m.freeRows (q.2.ix.m * mpdMch m.words) (tileRows m.words)).length
  let quiet := fun q : Nat × Ready => q.1 % 3 = 2 && !s.sharedStream m && (j.lanes.any fun l => l.lane % 3 = 1 && l.started)
  let real := rs.filter fun q => !quiet q
  let arrays := distinct (real.flatMap fun q => m.laneArrays q.1)
  arrays.foldl (fun t a =>
    t.count (engCounter d e a 0x40 0x1C) (maxNat ((real.filter fun q => (m.laneArrays q.1).contains a).map ac))) s

/-- What an engine may have waited for before one of its steps, by the offsets of the counters of waiting time (R79, R103, R134; log entry
67). -/
def State.engWaits (s : State) (d e : Nat) (offs : List Nat) : State :=
  offs.foldl (fun t o => t.waited (regAddr (Page.eng d e) o)) s

/-- The counters of what the lanes of a presentation may have waited for: a streamed row and a shadow load of each of their arrays, a free set
where the pass begins an output tile, and a multicast unit where the MPD names a list (R51, R53, R96, R134). -/
def Engine.passWaits (x : Engine) (m : Mpd) (rs : List (Nat × Ready)) : List Nat :=
  (distinct (rs.flatMap fun q => m.laneArrays q.1)).flatMap (fun a => [0x44 + 0x1C * a, 0x48 + 0x1C * a]) ++
    (distinct ((rs.filter fun q => !(x.open_ q.1).any (AccTile.at? q.2.ix)).map fun q => q.1 / 3)).map (fun a => 0x148 + 4 * a) ++
    (if mpdReuse m.words then [0x294] else [])

/-- The lanes that one presentation reaches, with their passes, once each of them can take its row (R65, R70, R108): none where the lane named
is not one of them, or one of them cannot. -/
def State.runnable (s : State) (d e : Nat) (j : Job) (lane : Nat) : Option (List (Nat × Ready)) :=
  let group := s.streamLanes j lane
  let rs := group.filterMap fun q => ((j.lane? q).bind (s.passReady d e j)).map (q, ·)
  if group.contains lane && rs.length = group.length then some rs else none

/-- PASS_START (R53, R65, R66, R70, R96, R119, R126): the rows of the next pass of a lane are presented, and with a shared stream those of every
lane that takes the same rows, once each of them can take them. The single-bit errors that were corrected on the way
are counted. -/
def execPassStart (d : Die) (e : Eng) (a : Arr) (h : HalfRead) (s : State) : Host.Outcome State Fault Refusal :=
  if s.still then .next s else
  let x := s.engD d e
  let lane := x.laneFor a h.half
  match x.runLane lane with
  | none => .next s
  | some (i, j, _) =>
    match s.runnable d e j lane with
    | none => .next s
    | some rs => .next ((rs.foldl (fun t q => t.startLane d e i q.1 q.2) (s.obCorrected d e h.corrected)).countBusy d e j rs
        |>.engWaits d e (x.passWaits j.mpd rs))

/-- The lane after a pass has been accepted: the next pass starts on RUNG_START (R88). -/
def LaneProg.accepted (l : LaneProg) (start : Nat) : LaneProg :=
  { l.replay with pos := l.pos + 1, rung := start, chk := none, named := (0xFFFF, 0xFFFF) }

/-- The open tile after a pass has been accepted (R67, R86), and whether it then spills (R91). -/
def AccTile.commit (t : AccTile) (work : List (List Nat)) (rung pass : Nat) : AccTile :=
  { t with rows := work, fresh := false, passes := t.passes + 1, rung := rung, pass := pass }

/-- The tile spills after an accepted pass (R91). -/
def spillsNow (m : Mpd) (passes : Nat) (last : Bool) : Bool :=
  mpdSpillEn m.words && passes % mpdSpillS m.words = 0 && !(last && mpdAccEnd m.words)

/-- The number of a check (R80). -/
def checkCode : CheckKind → Nat
  | .parity => 1
  | .residue => 2

/-- A pass whose check failed once is accepted: the array that failed counts it and ARRAY_REPLAYED names the failure (R68, R80, R107). -/
def State.reportReplayed (s : State) (d e : Nat) (m : Mpd) (lane no : Nat) : Option (Nat × Nat × Nat) → State
  | none => s
  | some (ar, kind, index) => (s.count (engCounter d e ar 0x50 0x1C) 1).raise (Page.eng d e) Code.arrayReplayed
      (engPayload m.seq no ar (laneHalf lane) kind 0 index)

/-- PASS_ACCEPT (R67, R86, R91): the presentation met no overflow, no non-finite operand and no unusable operand: the
working copy is committed, invalid inputs and masked rows are counted, corrections are reported, the tile spills or is handed to the
drain. A pass on rung 3 is counted here; in shape T1 array B's counter holds it (R90; log entry 145). -/
def execPassAccept (d : Die) (e : Eng) (a : Arr) (h : Half) (s : State) : Host.Outcome State Fault Refusal :=
  if s.still then .next s else
  let x := s.engD d e
  let lane := x.laneFor a h
  match x.runLane lane with
  | none => .next s
  | some (i, j, l) =>
    let m := j.mpd
    let lp := s.loops m lane
    let p := passAt (mpdOrder m.words) lp l.pos
    if !l.started || l.past.isSome || l.nonfin.isSome || l.bad ≠ 0 then .next s
    else
      match (x.open_ lane).find? (AccTile.at? p) with
      | none => .next s
      | some t =>
        let no := s.passNo m lane l.pos
        let last : Bool := p.k + 1 = lp.k
        let t1 := t.commit l.work l.rung no
        let sp := spillsNow m t1.passes last
        let t2 := if sp then t1.spill else t1
        let x1 := { x.setJob i (j.setLane (l.accepted (mpdRungStart m.words))) with
          tiles := x.tiles.set [] lane ((x.open_ lane).map fun q => if AccTile.at? p q then t2 else q) }
        let x2 := if last && mpdAccEnd m.words then x1.hand m lane (l.bab.getD (s.babOf m lane)) t2 else x1
        let ar := lane / 3
        let rows := tileRows m.words - (m.freeRows (p.m * mpdMch m.words) (tileRows m.words)).length
        let s1 := (s.setEng d e x2).reportInv d m lane l.inv
        let s2 := if s.countsFor j lane then s1.countLane d e m lane 0x4C 0x1C rows else s1
        let s3 := if sp then s2.count (engCounter d e ar 0x140 4) 1 else s2
        let s4 := if l.rung = 3 then s3.count (engCounter d e ar 0x138 4) 1 else s3
        let s5 := s4.reportReplayed d e m lane no l.chk
        .next (if l.rung ≠ mpdRungStart m.words then s5.raise (Page.eng d e) Code.accOvfReplayed
            (accPayload m.seq no ar (laneHalf lane) (mpdRungStart m.words) l.rung l.named.1 l.named.2) else s5)

/-- The array or half of a lane in a failed state (R68, R70, R107). -/
def Engine.fail (x : Engine) (ar lane : Nat) : Engine :=
  x.setArr ar (match lane % 3 with
    | 1 => { x.arr ar with lowFailed := true }
    | 2 => { x.arr ar with highFailed := true }
    | _ => { x.arr ar with failed := true })

/-- An array is eligible for ballast (R76, R355): its engine has BALLAST_EN, its group is set in BALLAST_DOM, and the MPD that runs on it
neither presents rows nor has a pass ready to be presented. -/
def State.ballastOk (s : State) (d e a : Nat) : Bool :=
  let x := s.engD d e
  let dom := (s.rwAt (regAddr Page.bellows 0x118)).getLsbD (6 * d + e / 6)
  let busy := match x.running a with
    | some (_, j) => (j.lanesOn a).any fun l => l.started || (s.runnable d e j l.lane).isSome
    | none => false
  s.engBallastEn d e && dom && s.domOn (pdOfEngine d e) && !(x.arr a).retired && !busy

/-- A ballast pass is running on an array (R76): one has begun, the Bellows still asks for ballast, and the array is still eligible. -/
def State.ballastRuns (s : State) (d e a : Nat) : Bool :=
  ((s.engD d e).arr a).ballast && decide (0 < s.bel.ballast) && s.ballastOk d e a

/-- A check failed while no real pass was presented: in a ballast pass it is counted (R76). -/
def State.idleCheck (s : State) (d e ar : Nat) : State :=
  if s.ballastRuns d e ar then s.count (engCounter d e ar 0x58 0x1C) 1 else s

/-- The pass of a lane is taken back for its check replay (R68): its tile is to be reloaded, ahead of every other load of the array. -/
def State.checkReplay (s : State) (d e i : Nat) (j : Job) (l : LaneProg) (chk : Nat × Nat × Nat) : State :=
  let ar := l.lane / 3
  let s1 := s.noteLoads d e ar
  let x := s1.engD d e
  s1.setEng d e { x.setJob i (j.setLane { l.replay with chk := some chk, reload := true }) with
    loads := x.loads.set [] ar (l.lane :: (x.loads.get [] ar).filter fun q => q ≠ l.lane) }

/-- CHECK_FAILURE (R66, R68, R70, R76, R107): the first failure of a pass takes the pass back for one check replay on the
same rung; the second ends the array or half with ARRAY_FAULT or ARRAY_SPLIT_FAULT. In a ballast pass it is only
counted. In shape T1 both arrays replay, and the array named is the one that fails. -/
def execCheckFailure (d : Die) (e : Eng) (a : Arr) (h : Half) (kind : CheckKind) (index : BitVec 16) (s : State) :
    Host.Outcome State Fault Refusal :=
  if s.still then .next s else
  let x := s.engD d e
  let ar := arrNum a
  let lane := x.laneFor a h
  match x.runLane lane with
  | none => .next (s.idleCheck d e ar)
  | some (i, j, l) =>
    if !l.started then .next (s.idleCheck d e ar)
    else if l.chk.isNone then .next (s.checkReplay d e i j l (ar, (checkCode kind), index.toNat))
    else
      let code := if lane % 3 = 0 then Code.arrayFault else Code.arraySplitFault
      let s1 := s.stopLane d e i lane code
      .next ((s1.setEng d e ((s1.engD d e).fail ar lane)).raise (Page.eng d e) code
        (engPayload j.mpd.seq (s.passNo j.mpd lane l.pos) ar (laneHalf lane) (checkCode kind) 0 index.toNat))

/-- The overflow of a presentation comes before its non-finite operand. -/
def LaneProg.overFirst (l : LaneProg) : Bool :=
  match l.past, l.nonfin with
  | some o, some n => decide (o.1 < n.1)
  | some _, none => true
  | none, _ => false

/-- OVERFLOW (R69, R88, R90): an element overflowed on rung k: the pass is taken back and goes to rung k + 1. A step to
rung 1 or 2 is an overflow replay, counted as it begins; one from rung 2 is a move to the 32-bit partial path. In shape T1 array B's
counter holds it (log entry 145). -/
def execOverflow (d : Die) (e : Eng) (a : Arr) (h : Half) (s : State) : Host.Outcome State Fault Refusal :=
  if s.still then .next s else
  let x := s.engD d e
  let lane := x.laneFor a h
  match x.runLane lane with
  | none => .next s
  | some (i, j, l) =>
    if !l.started || !l.overFirst || decide (3 ≤ l.rung) then .next s
    else
      let x1 := x.setJob i (j.setLane { l.replay with rung := l.rung + 1, named := l.past.getD l.named })
      let s1 := s.setEng d e x1
      .next (if l.rung < 2 then s1.count (engCounter d e (lane / 3) 0x130 4) 1 else s1)

/-- RUNG_3_MOVE (R89): a BF16 infinity or NaN moves the pass straight to rung 3. -/
def execRung3Move (d : Die) (e : Eng) (a : Arr) (h : Half) (s : State) : Host.Outcome State Fault Refusal :=
  if s.still then .next s else
  let x := s.engD d e
  let lane := x.laneFor a h
  match x.runLane lane with
  | none => .next s
  | some (i, j, l) =>
    if !l.started || l.nonfin.isNone || l.overFirst || decide (3 ≤ l.rung) then .next s
    else .next (s.setEng d e (x.setJob i (j.setLane { l.replay with rung := 3, named := l.nonfin.getD l.named })))

/-- The lanes that took the row that a lane presents (R71): with a shared stream every lane that presents the same pass. -/
def State.rowLanes (s : State) (j : Job) (l : LaneProg) : List Nat :=
  if s.sharedStream j.mpd then
    (j.lanes.filter fun q => q.started && q.stop = 0 && q.pos = l.pos).map LaneProg.lane
  else [l.lane]

/-- Why the operand that a lane holds is unusable: of the presentation, or of the tile in its shadow tile; 0 if nothing is known (R71). -/
def LaneProg.badNow (l : LaneProg) : Nat := if l.started then l.bad else l.shadow.elim 0 STile.bad

/-- ENG_OPERAND_UNCORRECTABLE (R71): a lane consumed an uncorrectable or unusable operand: it skips the rest of the MPD,
and no array fails. `shared` tells an error in a streamed row, which every lane that took the row consumed, from one in a stationary
element, which the load path may also meet before the pass starts. Poison, or a format that is no array operand, names its own check. A row
that both arrays of shape T2 took has half byte 3 too (log entry 155). -/
def execEngOperandUncorrectable (d : Die) (e : Eng) (a : Arr) (h : Half) (shared : Bool) (s : State) :
    Host.Outcome State Fault Refusal :=
  if s.still then .next s else
  let x := s.engD d e
  let lane := x.laneFor a h
  match x.runLane lane with
  | none => .next s
  | some (i, j, l) =>
    let bad := l.badNow
    let row := if bad = 0 then shared else l.started && l.badRow
    if s.laneDone j.mpd l || (row && !l.started) then .next s
    else
      let hit := if row then s.rowLanes j l else [lane]
      let code := Code.engOperandUncorrectable
      let half := if 1 < hit.length then 3 else laneHalf lane
      .next ((hit.foldl (fun t q => t.stopLane d e i q code) s).raise (Page.eng d e) code
        (engPayload j.mpd.seq (s.passNo j.mpd lane l.pos) (arrNum a) half (if bad = 0 then 3 else bad) 0 0xFFFF))

/-- DRAIN (R95, R93): the oldest tile handed to an array's drain begins to drain; a tile that spilled first folds its
committed copy. -/
def execDrain (d : Die) (e : Eng) (a : Arr) (s : State) : Host.Outcome State Fault Refusal :=
  if s.still then .next s else
  let x := s.engD d e
  match x.draining (arrNum a) with
  | [] => .next s
  | t :: ts =>
    if t.begun then .next s
    else
      let acc := if t.tile.spilt then { t.tile with pairs := t.tile.folded } else t.tile
      .next (s.setEng d e { x with drains := x.drains.set [] (arrNum a) ({ t with begun := true, tile := acc } :: ts) })

/-- A BF16 code as it stands, subnormal values included: only an array reads them as zero (R22). -/
def bf16Exact (c : Nat) : Num :=
  let e := bitsOf c 14 7
  if e = 0 then .fin (c.testBit 15) (bitsOf c 6 0) (-133) else (readElement .bf16 c).1

/-- The fused operand decoded at a coordinate: q × b exactly, then times B_f with one rounding (R97). A code that is no finite value of its format reads as in
an array, without a count, and a format that is none of R22's reads as BF16 (log entry 152). -/
def State.fusedAt (s : State) (t : List Nat) (c : Coord) : Nat :=
  let e := s.tdEncoding t
  let f := (Format.ofCode? e.fmt).getD .bf16
  let v := s.operandAt t f e.scale c
  let q := if f = .bf16 then bf16Exact v.1 else (readElement f v.1).1
  let q' := match q, (readScale e.scale v.2).1 with
    | .fin neg m x, some b => Num.fin neg (m * b.1) (x + b.2)
    | .fin .., none => .fin false 0 0
    | z, _ => z
  match q', ff32.decode (s.baseScale t) with
  | .fin n1 m1 e1, .fin n2 m2 e2 => ff32.roundTo (n1 != n2) (m1 * m2) 1 (e1 + e2)
  | z, _ => ff32.mul (numTo32 z 43) (s.baseScale t)

/-- One output element before conversion (R97): y2, and whether the fused operand was not finite. -/
def State.epilogue (s : State) (m : Mpd) (lane bab : Nat) (t : AccTile) (row c : Nat) : Nat × Bool :=
  let w := m.words
  let y1 := ff32.mul (t.drained row c) bab
  if mpdEpiEn w then
    let l := s.loops m lane
    let f := s.fusedAt (m.td (laneSlot lane (mpdEpiTd w)))
      (fusedCoord w t.b t.h (mpdMOrg w + t.m * mpdMch w + row) (colBase m l lane t.n + c))
    (if mpdEpiMul w then ff32.mul y1 f else ff32.add y1 f, !ff32.isFinite f)
  else (y1, false)

/-- The rounding of an element of a produced tensor (R33 to R35). -/
def State.rounding (s : State) (sr : Bool) (tensor mb n : Nat) : Rounding :=
  if sr then .stochastic (randomBits Config.runSeed.toNat s.ctl.stepNo (tensor % 2 ^ 20 + 2 ^ 20 * mb) n) else .nearest

/-- Elements of one produced row, block by block (R22, R28, R30): (scale code, element codes) per block of 32, with the
counts. An unscaled row is one block without a scale. -/
def encodeRow (v : LevView) (mode : Nat → Rounding) (ys : List Nat) : List (Nat × List Nat) × RangeCount :=
  match v.scale with
  | .none =>
    let q := ys.zipIdx.map fun p => convert v.fmt v.conv (mode p.2) p.1
    ([(0, q.map Prod.fst)], q.foldl (fun c r => c.add r.2) .zero)
  | k =>
    let bs := (chunks 32 (ys.length + 1) ys).zipIdx.map fun b =>
      let md := fun i => mode (32 * b.2 + i)
      match k with
      | .mx => encodeMx v.fmt v.conv md b.1
      | _ => encodeNq32 v.fmt v.conv v.eT md b.1
    (bs.map fun b => (b.1, b.2.1), bs.foldl (fun c b => c.add b.2.2) .zero)

/-- Write one produced row to its buffer (R27, R98, R113, R127, R280), unless it lies in a Proofer's arrival window, which is
reached through the out-ports and the bridge (R239, R281). -/
def State.writeRow (s : State) (d mb : Nat) (t : List Nat) (v : LevView) (c0 : Coord) (bs : List (Nat × List Nat)) : State :=
  match regionOf (tdPlane t) with
  | .arrival _ _ => s
  | _ =>
    let bits := v.fmt.bits
    let w := engWriter d
    let offs := bs.zipIdx.map fun b => (b.1.1, b.1.2.zipIdx.map fun x =>
      (x.1, tdBitOffset t bits { c0 with d0 := c0.d0 + 32 * b.2 + x.2 }), tdScaleAddr t bits { c0 with d0 := c0.d0 + 32 * b.2 })
    let scaled := match v.scale with | .none => false | _ => true
    let s1 := s.rowFaults w mb (offs.flatMap fun b => b.2.1.map (fun x => tdPlane t + x.2 / 8) ++ if scaled then [b.2.2] else [])
    offs.foldl (fun u b =>
      let u1 := b.2.1.foldl (fun q x => q.storeBitsFor w (tdPlane t) x.2 bits x.1) u
      if scaled then u1.storeBitsFor w b.2.2 0 8 b.1 else u1) s1

/-- The fused row of a draining tile's next row is staged (R98). -/
def State.fusedReady (s : State) (d e : Nat) (t : DrainTile) : Bool :=
  let m := t.mpd
  let w := m.words
  let r := t.tile.m * mpdMch w + t.next
  !mpdEpiEn w || (s.ringPlaces d e).isEmpty ||
    s.arrived d e (s.operandAddrs (m.td (laneSlot t.lane (mpdEpiTd w))) (s.rowFused m t.lane t.tile.b t.tile.h t.tile.n r))

/-- EPILOGUE_ROW (R97 to R100, R127): the next row of the draining tile, once its fused row is staged: base scales, the
fused operation, conversion, reports to the Leaven, the write of the row, and its place in the stream of the out-ports.
The header goes first; a non-finite y2 raises ACC_NONFINITE once for the tile. The single-bit errors that were corrected in the fused row are
counted (R66), and the wait for that row (R98). -/
def execEpilogueRow (d : Die) (e : Eng) (a : ArrRead) (s : State) : Host.Outcome State Fault Refusal :=
  if s.still then .next s else
  let x := s.engD d e
  let ar := arrNum a.arr
  match x.draining ar with
  | [] => .next s
  | t :: _ =>
    let m := t.mpd
    let w := m.words
    let row := t.next
    let live := m.live.getD 3 0
    let r := t.tile.m * mpdMch w + row
    if !t.begun || !s.fusedReady d e t then .next s
    else
      let sf := if mpdEpiEn w then (s.obCorrected d e a.corrected).engWaits d e [0x150 + 4 * ar] else s
      let s0 := sf.putHeader d e m.seq t.lane
      let out := m.td (laneSlot t.lane (mpdOutTd w))
      let v := (s0.levView d (tdLeaven out)).engine
      let l := s0.loops m t.lane
      let col0 := colBase m l t.lane t.tile.n
      let colLive := m.live.getD 2 0 - (col0 - mpdNOrg w)
      let nCols := (t.tile.rows.getD row []).length
      let ys := (List.range nCols).map fun c => s0.epilogue m t.lane t.bab t.tile row c
      let written := if r < live then min nCols colLive else 0
      let vals := ys.zipIdx.map fun p => if p.2 < written then p.1.1 else 0
      let c0 := outCoord w t.tile.b t.tile.h (mpdMOrg w + r) col0
      let sr := isBEngine e && v.sr
      let mode := fun i => s0.rounding sr v.tensor (mpdMb w) (elementIndex out { c0 with d0 := col0 + i })
      let en := encodeRow v mode vals
      let odd := ((ys.zipIdx.take written).find? fun p => !ff32.isFinite p.1.1).filter fun _ => !t.flagged
      let rep : RangeReport := { cnt := en.2, elem := written, amax := finiteMax (vals.take written) }
      let s1 := (s0.levReport d (tdLeaven out) rep).writeRow d (mpdMb w) out v c0 en.1
      let y := s1.engD d e
      let rest := (y.draining ar).drop 1
      let nextTile := { t with next := row + 1, flagged := t.flagged || odd.isSome }
      let y1 := { y with
        drains := y.drains.set [] ar (if row + 1 < t.tile.rows.length then nextTile :: rest else rest)
        queue := if odd.isSome then y.queue.map fun j => if j.mpd.seq = m.seq then { j with nonfin := j.nonfin ++ [t.lane] } else j
          else y.queue
        out := y.out.set [] ar (y.out.get [] ar ++
          [(packElements v.fmt.bits (en.1.flatMap Prod.snd),
            match v.scale with | .none => [] | _ => en.1.map fun b => BitVec.ofNat 8 b.1)]) }
      let s2 := s1.setEng d e y1
      match odd with
      | none => .next s2
      | some p => .next ((s2.count (regAddr (Page.eng d e) (0x158 + 2 * ar)) 1).raise (Page.eng d e) Code.accNonfinite
          (accPayload m.seq t.tile.pass ar (laneHalf t.lane) t.tile.rung (b2n p.1.2) row p.2))

/-- BALLAST_PASS (R76, R355): while the Bellows asks for ballast, an idle array presents one ballast row. -/
def execBallastPass (d : Die) (e : Eng) (a : Arr) (s : State) : Host.Outcome State Fault Refusal :=
  if s.still then .next s else
  let ar := arrNum a
  if 0 < s.bel.ballast ∧ s.ballastOk d e ar then
    let x := s.engD d e
    let s1 := (s.setEng d e (x.setArr ar { x.arr ar with ballast := true })).count (engCounter d e ar 0x54 0x1C) 1
    .next { s1 with bel := { s1.bel with rows := s1.bel.rows + 1 } }
  else .next s

/-- Arrays eligible for ballast in the package (n_elig of R354). -/
def State.nElig (s : State) : Nat :=
  ((List.range 288).filter fun i => s.ballastOk (i / 72) (i % 72 / 2) (i % 2)).length

/-- The MPD and the pass that the next unit of a list to arrive is for, by the MPD's place in the queue: the earliest MPD on the list that
still runs and has units to come (R123; log entry 157). None where no MPD that the member has accepted needs one. -/
def State.mcNext (s : State) (d e lst : Nat) : Option (Nat × Nat) :=
  (s.engD d e).queue.zipIdx.findSome? fun p =>
    if p.1.onList lst && p.1.lanes.any fun l => l.stop = 0 then
      ((s.tileSeq p.1.mpd ((mpdLanes p.1.mpd.words).headD 0) (p.1.units + 1) 0 [])[p.1.units]?).map (p.2, ·)
    else none

/-- A unit enters the next entry of a member's ring for an MPD of its queue (R122, R123): the operand buffer takes its tiles, but for those of
lanes that have stopped. -/
def State.holdUnit (s : State) (d e lst i : Nat) (j : Job) (u : McUnit) : State :=
  let x := s.engD d e
  let r := s.mcastRec d (s.activeOf d) lst
  let stopped := ((j.lanes.filter fun l => l.stop ≠ 0).map LaneProg.lane).map j.place
  let v := { u with
    seq := j.mpd.seq, slot := (x.mcCount.get 0 lst - 1) % mcDepth r, tiles := u.tiles.filter fun q => !stopped.contains q.1 }
  let s1 := v.tiles.foldl (fun t q => t.putTile (s.mcAddrs d e lst v q.1) q.2) s
  let x1 := x.setJob i { j with units := j.units + 1 }
  s1.setEng d e (if v.tiles.isEmpty then x1 else { x1 with mcRing := x1.mcRing.set [] lst (x1.mcRing.get [] lst ++ [v]) })

/-- MULTICAST_UNIT (R123, R124): a member receives the oldest unit under way to it and compares the address of its first tile with the one
that its own sequencer computes for the next unit of the list; a difference is SEQ_MCAST_MISMATCH. A unit that none of its accepted MPDs
needs yet waits under way until one does; where the list is disabled it is discarded (log entry 157). -/
def execMulticastUnit (d : Die) (e : Eng) (lst : Fin 64) (s : State) : Host.Outcome State Fault Refusal :=
  if s.still then .next s else
  let x := s.engD d e
  match x.mcIn.get [] lst.val with
  | [] => .next s
  | u :: us =>
    let s0 := (s.setEng d e { x with mcIn := x.mcIn.set [] lst.val us, mcCount := x.mcCount.upd 0 lst.val (· + 1) }).count
      (regAddr (Page.eng d e) 0x290) 1
    match s.mcNext d e lst.val with
    | none => .next (if (s.fabD d).disabled.contains lst.val then s0 else s)
    | some (i, pos) =>
      match x.job? i with
      | none => .next s
      | some j =>
        if s.unitAddr j.mpd pos = u.addr then .next (s0.holdUnit d e lst.val i j u)
        else .next (s0.mcMismatch d e lst.val i j pos)

/-- A lane of a running MPD on a list needs a unit that its engine does not hold. -/
def State.mcMissing (s : State) (d e : Nat) (j : Job) (l : LaneProg) : Bool :=
  let x := s.engD d e
  l.shadow.isNone && (s.loadPos j.mpd l).isSome &&
    !(x.mcRing.get [] (mpdList j.mpd.words)).any fun u => u.holds j.mpd.seq (j.place l.lane)

/-- What an engine waits for on a list (R124), with the MPD's place in the queue and the pass that waits: the leader, the lowest member without
a free entry; a member, a missing unit, written 0xFF; none where it does not wait. -/
def State.mcWait (s : State) (d e lst : Nat) : Option (Nat × Nat × Nat) :=
  let x := s.engD d e
  let r := s.mcastRec d (s.activeOf d) lst
  let full := ((List.range 36).filter (mcMember r)).find? fun k => !(s.engD d k).mcFree lst (mcDepth r)
  let led := x.queue.zipIdx.findSome? fun p =>
    if p.1.onList lst && mcLeader r = e then (p.1.lanes.findSome? fun l => s.fetchPos p.1.mpd l).map (p.2, ·) else none
  match led, full with
  | some q, some k => some (q.1, q.2, k)
  | _, _ => [0, 1].findSome? fun a => match x.running a with
    | some (i, j) =>
      if j.onList lst then
        (j.lanes.find? fun l => s.mcMissing d e j l).bind fun l => (s.loadPos j.mpd l).map fun p => (i, p, 0xFF)
      else none
    | none => none

/-- SEQ_MCAST_STALL (R124): a wait on a list has lasted longer than MCAST_TIMEOUT. -/
def execSeqMcastStall (d : Die) (e : Eng) (lst : Fin 64) (s : State) : Host.Outcome State Fault Refusal :=
  if s.still then .next s else
  match s.mcWait d e lst.val with
  | none => .next s
  | some (i, pos, who) =>
    if s.rwAt (regAddr (Page.eng d e) 0x208) = 0 then .next s
    else
      match (s.engD d e).job? i with
      | none => .next s
      | some j => .next (s.mcFault d e lst.val i Code.seqMcastStall (s.mcPayload d e lst.val j pos who))

end Sys2Proof.Machine
end

