-- ==== Sys2Proof/Machine/KvBase.lean ====
section
/-! DEFINITION. The KV unit's pages, page tables and runs of bound ports (R218, R219, R224, R227). -/

namespace Sys2Proof.Machine

/-- The KV unit of a die. -/
def State.kvD (s : State) (d : Nat) : KvDie := s.kv.get KvDie.reset d
/-- Put a KV unit back. -/
def State.setKv (s : State) (d : Nat) (k : KvDie) : State := { s with kv := s.kv.set KvDie.reset d k }
/-- A directory entry. -/
def KvDie.seq (k : KvDie) (q : Nat) : KvSeq := k.seqs.get KvSeq.closed q
/-- Put a directory entry back. -/
def KvDie.setSeq (k : KvDie) (q : Nat) (x : KvSeq) : KvDie := { k with seqs := k.seqs.set KvSeq.closed q x }

/-- A counter of a die's KV unit (R228). -/
def State.kvCount (s : State) (d off n : Nat) : State := s.count (kvReg d off) n

/-- REF, STATE and TAG of a page (R219). -/
def KvDie.ref (k : KvDie) (p : Nat) : Nat := bitsOf (k.pages.get 0 p) 15 0
def KvDie.pageState (k : KvDie) (p : Nat) : Nat := bitsOf (k.pages.get 0 p) 17 16
def KvDie.tag (k : KvDie) (p : Nat) : Nat := bitsOf (k.pages.get 0 p) 31 18
/-- Set the state word of a page. -/
def KvDie.setPage (k : KvDie) (p ref state tag : Nat) : KvDie :=
  { k with pages := k.pages.set 0 p (ref + 65536 * state + 2 ^ 18 * tag) }

/-- FREE_PAGES (R219). -/
def State.kvFree (s : State) (d : Nat) : Nat := (s.kvPages d - (s.kvD d).fresh) + (s.kvD d).freed.length

/-- The address of the page-table word of stream `st` and page `j` of a sequence. -/
def KvSeq.entryAddr (q : KvSeq) (st j : Nat) : Nat := q.base * 64 + 4 * (st * q.jmax + j)
/-- A page-table word; none where it is not VALID (R219). -/
def State.kvEntry (s : State) (q : KvSeq) (st j : Nat) : Option Nat :=
  let w := s.natAt (q.entryAddr st j) 4
  if bitOf w 31 then some (bitsOf w 19 0) else none
/-- Write a page-table word. -/
def State.setKvEntry (s : State) (q : KvSeq) (st j : Nat) (page : Option Nat) : State :=
  s.storeNat (q.entryAddr st j) 4 (match page with | some p => p + 2 ^ 31 | none => 0)

/-- The binding of a stream port: 0 unbound, 1 read, 2 write, 3 command (R227). -/
def State.kvBind (s : State) (d p : Nat) : Nat :=
  let w := s.shAt (kvReg d 0x10)
  if 60 ≤ p ∧ p < 64 then fld w (2 * (p - 60) + 1) (2 * (p - 60))
  else if 124 ≤ p ∧ p < 128 then fld w (2 * (p - 120) + 1) (2 * (p - 120))
  else 0

/-- The payload of a KV record (R229). -/
def State.kvPayload (s : State) (d q op page st n : Nat) : List Byte :=
  payload [(0, 2, q), (2, 1, d), (3, 1, op), (4, 4, page), (8, 2, st), (10, 4, n), (14, 2, min 0xFFFF (s.kvFree d))]

/-- Raise a KV record. -/
def State.kvRaise (s : State) (d code q op page st n : Nat) : State :=
  s.raise Page.kv code (s.kvPayload d q op page st n)

/-- The page that a run of sequence `q` reaches at a position, as a reader translates it (R224, R227): none where the entry
is not VALID. -/
def State.kvTranslate (s : State) (d q st pos : Nat) : Option Nat :=
  let e := (s.kvD d).seq q
  if pos / 128 < e.jmax then s.kvEntry e st (pos / 128) else none

/-- A run keeps the translation of its page until the page ends: `addr` holds the page plus 1, 0 for none (R224). -/
def State.kvStep (s : State) (d : Nat) (x : SpRun) : SpRun :=
  let pos := x.first + x.pos / 5
  if x.pos % 5 = 0 ∧ (pos % 128 = 0 ∨ x.pos = 0) then
    { x with addr := match s.kvTranslate d x.mb x.stream pos with | some p => p + 1 | none => 0 }
  else x

/-- Where part `i` of a position lies: K, K, V, V elements, then the scales (R218). -/
def State.kvAddr (s : State) (d page pos i : Nat) : Nat :=
  if i < 2 then s.kvPool d + 32768 * page + pos % 128 * 128 + 64 * i
  else s.kvPool d + 32768 * page + 16384 + pos % 128 * 128 + 64 * (i - 2)

/-- The K and the V scales of a position (R218). -/
def State.kvScaleAddr (s : State) (d page pos : Nat) (v : Bool) : Nat :=
  s.kvScales d + 1024 * page + (if v then 512 else 0) + 4 * (pos % 128)

/-- A position can be read: within LEN, with a valid page (R227). -/
def State.kvReadable (s : State) (d : Nat) (x : SpRun) (pos : Nat) : Bool :=
  decide (pos < ((s.kvD d).seq x.mb).len) && x.addr ≠ 0

/-- The unit under which a die's KV unit reaches memory (R283). -/
def kvUnitOf (d : Nat) : MemUnit := .kvUnit (Fin.ofNat 4 d)

/-- The four scale codes of a position's K or V (R218, R227, R286): code 0x00 for a poisoned scale granule and for the blocks of a poisoned
granule of elements. The answer holds the address of the scales where they were poisoned. -/
def State.kvCodes (s : State) (d page pos : Nat) (v : Bool) : List Byte × Option Nat × State :=
  let a := s.kvScaleAddr d page pos v
  let w := s.consume (kvUnitOf d) a 4 0xFFFF
  ((List.range 4).map fun j =>
      if s.poisonedAt (s.kvAddr d page pos (2 * b2n v + j / 2)) 64 then 0 else w.1.getD j 0,
    if w.2.1 then some a else none, w.2.2)

/-- The next entry of a bound read run (R227): its bytes and PLANE mark, the run and the state after it, and the addresses that were
poisoned (R286). -/
def State.kvRead (s : State) (d : Nat) (x0 : SpRun) : List Byte × Bool × SpRun × List Nat × State :=
  let x := s.kvStep d x0
  let pos := x.first + x.pos / 5
  let i := x.pos % 5
  let nx := { x with pos := x.pos + 1 }
  if x.zero then (List.replicate 64 0, i = 4, nx, [], s)
  else if !s.kvReadable d x pos then
    (List.replicate 64 0, i = 4, nx, [], if i = 0 then s.kvCount d 0x94 1 else s)
  else
    let page := x.addr - 1
    if i = 4 then
      let k := s.kvCodes d page pos false
      let v := k.2.2.kvCodes d page pos true
      (k.1 ++ v.1 ++ List.replicate 56 0, true, nx, k.2.1.toList ++ v.2.1.toList, v.2.2)
    else
      let a := s.kvAddr d page pos i
      let w := s.consume (kvUnitOf d) a 64 0xFFFF
      (w.1, false, nx, if w.2.1 then [a] else [], w.2.2)

/-- A bound write run takes its next entry (R227, R280). -/
def State.kvWrite (s : State) (d : Nat) (x0 : SpRun) (bs : List Byte) : SpRun × State :=
  let x := s.kvStep d x0
  let pos := x.first + x.pos / 5
  let i := x.pos % 5
  let nx := { x with pos := x.pos + 1 }
  if x.zero then (nx, s)
  else if !s.kvReadable d x pos || decide (1 < (s.kvD d).ref (x.addr - 1)) then
    (nx, if i = 0 then s.kvCount d 0x94 1 else s)
  else
    let page := x.addr - 1
    let u := kvUnitOf d
    if i = 4 then
      (nx, (s.storeFor u (s.kvScaleAddr d page pos false) (bs.take 4) 0xFFFF).storeFor u (s.kvScaleAddr d page pos true)
        ((bs.drop 4).take 4) 0xFFFF)
    else (nx, s.storeFor u (s.kvAddr d page pos i) bs 0xFFFF)

end Sys2Proof.Machine
end

