-- ==== Sys2Proof/Machine/Fabric.lean ====
section
/-! DEFINITION. How entries move through a fabric: queues, forks, links, engine ports and stream ports (R138 to R144, R151).
Movement takes no time in the model: after each command of a die's fabric everything that can move has moved. -/

namespace Sys2Proof.Machine

/-- Queue keys of a reed: 32 × reed + code. Codes 0–3 vector links in from N, E, S, W, 4 engine link in, 5 VO0, 6 VO1, 7
balance buffer, 8–11 scalar links in, 12 SO, 16–19 control links in, 20 TO, 24 engine link out. -/
def qKey (r code : Nat) : Nat := 32 * r + code
/-- The queue of a stream port on a network, and of a Chanter port. -/
def spKey (p net : Nat) : Nat := 32 * 6144 + 4 * p + net
def cpKey (p net : Nat) : Nat := 32 * 6144 + 512 + 4 * p + net

/-- The queue at a key. -/
def FabDie.queue (f : FabDie) (k : Nat) : Queue := f.queues.get Queue.empty k
def FabDie.setQueue (f : FabDie) (k : Nat) (q : Queue) : FabDie := { f with queues := f.queues.set Queue.empty k q }

/-- The state of a reed. -/
def FabDie.reed (f : FabDie) (r : Nat) : ReedRun := f.reeds.get ReedRun.rest r
def FabDie.setReed (f : FabDie) (r : Nat) (x : ReedRun) : FabDie := { f with reeds := f.reeds.set ReedRun.rest r x }

/-- Queue depth per network (R138). -/
def netDepth (net : Nat) : Nat := match net with | 0 => 4 | 1 => 8 | _ => 16

/-- The source code that a route code of a network names (R154). -/
def srcCode (net code : Nat) : Nat :=
  match net with
  | 0 => if code ≤ 4 then code - 1 else code - 1
  | 1 => if code ≤ 4 then 8 + (code - 1) else if code = 5 then 12 else 7
  | _ => if code ≤ 4 then 16 + (code - 1) else 20

/-- The consumers of a source of a reed: 0–3, 8–11, 16–19 outgoing links by network and direction, 24 the engine link,
32–35 VI0–VI3, 36–37 SI0–SI1, 38 TI, 39 the balance buffer (R139). -/
def consumers (rec0 : List Nat) (src : Nat) : List Nat :=
  let is := fun (net code : Nat) => decide (code ≠ 0) && srcCode net code = src
  ((List.range 4).filter fun i => is 0 (rrVOut rec0 i)) ++
  ((List.range 4).filter fun i => is 1 (rrSOut rec0 i)).map (8 + ·) ++
  ((List.range 4).filter fun i => is 2 (rrTOut rec0 i)).map (16 + ·) ++
  (if is 0 (rrVOutEng rec0) then [24] else []) ++
  (if rrKind rec0 = 6 then []
   else if rrKind rec0 = 5 then (if is 2 (rrTi rec0) then [38] else [])
   else ((List.range 4).filter fun i => is 0 (rrVi rec0 i)).map (32 + ·) ++
     ((List.range 2).filter fun i => is 1 (rrSi rec0 i)).map (36 + ·) ++ (if is 2 (rrTi rec0) then [38] else [])) ++
  (if rrKind rec0 = 5 ∧ is (rrBbNet rec0) (rrBbSrc rec0) then [39] else [])

/-- The entry at the head of a queue as a consumer sees it: none once it has taken it (R139). -/
def Queue.headFor (q : Queue) (c : Nat) : Option Entry := if q.taken.contains c then none else q.items.head?

/-- A consumer takes the head; the entry leaves once every consumer has taken it (R139). -/
def Queue.take (q : Queue) (c : Nat) (all : List Nat) : Queue :=
  let t := c :: q.taken
  if all.all t.contains then { items := q.items.drop 1, taken := [] } else { q with taken := t }

/-- An entry joins the end of a queue. -/
def Queue.push (q : Queue) (e : Entry) : Queue := { q with items := q.items ++ [e] }

/-- Where a consumer of a reed puts the entry it takes: the key and the capacity; none for the reed's own ports. -/
def targetOf (rec0 : List Nat) (r c : Nat) : Option (Nat × Nat) :=
  if c = 24 then some (qKey r 24, 8)
  else if c = 39 then some (qKey r 7, rrBbDepth rec0)
  else if 32 ≤ c then none
  else
    let net := c / 8
    let dir := c % 8
    match reedNext r dir with
    | some q => some (qKey q (8 * net + (dir + 2) % 4), netDepth net)
    | none => match edgePort r net dir with
      | some (.stream p) => some (spKey p net, netDepth net)
      | some (.chanter p) => some (cpKey p net, netDepth net)
      | none => none

/-- A balance buffer (R154, R160): the bytes of an entry, and the address of slot `i` in the reed's local store. -/
def bbBytes (rec0 : List Nat) : Nat := if rrBbNet rec0 = 0 then 64 else 4
def bbAddr (d r : Nat) (rec0 : List Nat) (i : Nat) : Nat :=
  localBase d r + 16 * rrBbBase rec0 + bbBytes rec0 * (i % rrBbDepth rec0)
/-- The slot of the oldest of `n` entries where the next one goes to slot `next`. -/
def bbOldest (rec0 : List Nat) (next n : Nat) : Nat := (next + rrBbDepth rec0 - n) % rrBbDepth rec0

/-- The address of the oldest entry of a reed's balance buffer. -/
def State.bbFront (s : State) (d r : Nat) (rec0 : List Nat) : Nat :=
  let f := s.fabD d
  bbAddr d r rec0 (bbOldest rec0 (f.bbNext.get 0 r) (f.queue (qKey r 7)).items.length)

/-- The entry that a consumer of a reed's source sees (R139): of a balance buffer the sideband waits in the queue and the bits stand in the
local store (R160). -/
def State.headAt (s : State) (d r : Nat) (rec0 : List Nat) (src c : Nat) : Option Entry :=
  let h := ((s.fabD d).queue (qKey r src)).headFor c
  if src = 7 then h.map fun e => { e with bits := s.natAt (s.bbFront d r rec0) (bbBytes rec0) } else h

/-- FAB_LS_UNCORRECTABLE (R164, R173, R286): the reed stops and the die halts; the step is abandoned. -/
def State.lsUncorrectable (s : State) (d r : Nat) : State :=
  let f := s.fabD d
  let s1 := s.setFab d { f.setReed r { f.reed r with stopped := true } with halted := true, lsFault := true }
  (s1.raise (Page.fab d) Code.fabLsUncorrectable (fabPayload r 0xFF 0xFF 0 0 0 0 0xFFFF)).abandonStep d
    Code.fabLsUncorrectable true

/-- An entry joins the queue of a consumer's target; one that goes into a balance buffer is written to its next slot (R160). -/
def State.joinQueue (s : State) (d r : Nat) (rec0 : List Nat) (c k : Nat) (e : Entry) : State :=
  let f := s.fabD d
  if c = 39 then
    let i := f.bbNext.get 0 r
    let f1 := f.setQueue k ((f.queue k).push { e with bits := 0 })
    (s.setFab d { f1 with bbNext := f1.bbNext.set 0 r ((i + 1) % rrBbDepth rec0) }).storeNat (bbAddr d r rec0 i) (bbBytes rec0) e.bits
  else s.setFab d (f.setQueue k ((f.queue k).push e))

/-- One move of a consumer of a reed's source, if there is an entry and room for it. -/
def State.move (s : State) (d : Nat) (rec0 : List Nat) (r src c : Nat) : Option State :=
  match s.headAt d r rec0 src c, targetOf rec0 r c with
  | some e, some (k, cap) =>
    let f := s.fabD d
    if (f.queue k).items.length < cap then
      some ((s.setFab d (f.setQueue (qKey r src) ((f.queue (qKey r src)).take c (consumers rec0 src)))).joinQueue d r rec0 c k e)
    else none
  | _, _ => none

/-- The moves of one queue of a reed, each tried once; an output that nothing names lets its entries go (R139). An uncorrectable entry of a
balance buffer stops its reed (R173, R286). -/
def State.moveQueue (s : State) (d : Nat) (rec0 : List Nat) (r src : Nat) : State × Bool :=
  let cs := consumers rec0 src
  let f := s.fabD d
  let q := f.queue (qKey r src)
  if cs.isEmpty && (src = 5 || src = 6 || src = 12 || src = 20) then (s.setFab d (f.setQueue (qKey r src) Queue.empty), !q.items.isEmpty)
  else if src = 7 && (f.reed r).stopped then (s, false)
  else if src = 7 && !q.items.isEmpty && s.poisonedAt (s.bbFront d r rec0) (bbBytes rec0) then (s.lsUncorrectable d r, true)
  else cs.foldl (fun a c => match a.1.move d rec0 r src c with | some t => (t, true) | none => a) (s, false)

/-- Every queue of a reed once. -/
def State.moveReeds (s : State) (d : Nat) : State × Bool :=
  let keys := ((s.fabD d).queues.cells.map Prod.fst).filter fun k => decide (k < 32 * 6144) && k % 32 ≠ 24
  keys.foldl (fun (a : State × Bool) k =>
    let m := a.1.moveQueue d (s.reedRec d (s.activeOf d) (k / 32)) (k / 32) (k % 32)
    (m.1, a.2 || m.2)) (s, false)

/-- An entry's 64 bytes. -/
def Entry.bytes (e : Entry) : List Byte := leBytes 64 e.bits
/-- An entry from up to 64 bytes. -/
def entryOf (bs : List Byte) (plane last : Bool) : Entry := { bits := leNat bs, plane := plane, last := last }

/-- A plane of `len` slots takes an entry (R142). -/
def RingPlane.put (p : RingPlane) (len : Nat) : RingPlane := { p with held := p.held + 1, next := (p.next + 1) % len }

/-- An in-port writes the entry at its end of the crossing into its ring, when that plane has a free slot (R142; log entry
29). -/
def State.inPort (s : State) (d e i : Nat) : Option State :=
  let f := s.fabD d
  let r := s.engPortRec d (s.activeOf d) (8 * e + i)
  let k := qKey (attachInReed e i) 24
  match (f.queue k).items with
  | [] => none
  | x :: xs =>
    let len := max 1 (bitsOf (r.getD 0 0) 30 17)
    let ring := f.ringAt (4 * e + i)
    let pl := if x.plane then ring.scales else ring.elems
    if !bitOf (r.getD 0 0) 31 || decide (len ≤ pl.held) then none
    else
      let base := operandBase (36 * d + e) + bitsOf (r.getD 0 0) 16 0 * 64
      let addr := base + (if x.plane then bitsOf (r.getD 1 0) 16 0 * 64 else 0) + 64 * pl.next
      let ring1 := if x.plane then { ring with scales := pl.put len } else { ring with elems := pl.put len }
      some ((s.setFab d { f.setQueue k { items := xs, taken := [] } with
        rings := f.rings.set Ring.empty (4 * e + i) ring1, moved := f.moved.upd 0 (8 * e + i) (· + 1) }).store addr x.bytes)

/-- The entries of an output row: elements, then scales, LAST on the final one (R142). -/
def rowEntries (row : List Byte × List Byte) : List Entry :=
  let es := (chunks 64 (row.1.length + 1) row.1).map fun b => entryOf b false false
  let ss := (chunks 64 (row.2.length + 1) row.2).map fun b => entryOf b true false
  let l := es ++ ss
  match l.getLast? with
  | none => []
  | some x => l.dropLast ++ [{ x with last := true }]

/-- Rows that have left an engine's epilogues enter its out-ports: ports 0 and 1 carry array A, 2 and 3 array B; every
port in use emits each row (R48, R142; log entry 32). -/
def State.outRows (s : State) (d e : Nat) : State :=
  let x := s.engD d e
  let ports := (List.range 4).filter fun i => bitOf ((s.engPortRec d (s.activeOf d) (8 * e + 4 + i)).getD 0 0) 31
  let f := ports.foldl (fun (g : FabDie) i =>
    let rows := x.out.get [] (i / 2)
    { g with outq := g.outq.upd [] (4 * e + i) (· ++ rows.flatMap rowEntries) }) (s.fabD d)
  (s.setFab d f).setEng d e { x with out := .empty }

/-- An out-port passes its oldest entry to its attach reed. -/
def FabDie.outPort (f : FabDie) (e i : Nat) : Option FabDie :=
  let k := qKey (attachOutReed e i) 4
  match f.outq.get [] (4 * e + i) with
  | [] => none
  | x :: xs =>
    if (f.queue k).items.length < 8 then
      some { f.setQueue k ((f.queue k).push x) with outq := f.outq.set [] (4 * e + i) xs, moved := f.moved.upd 0 (8 * e + 4 + i) (· + 1) }
    else none

/-- The reed and the queue codes that a stream port feeds: the west links of column 0, the east links of column 95 (R143). -/
def spReed (p : Nat) : Nat := if p < 64 then p else 64 * 95 + (p - 64)
def spDir (p : Nat) : Nat := if p < 64 then 3 else 1

/-- Fields of a stream port record (R143). -/
def sprDir (r : List Nat) : Nat := bitsOf (r.getD 0 0) 1 0
def sprHdr (r : List Nat) : Bool := bitOf (r.getD 0 0) 2
def sprLive (r : List Nat) : Bool := bitOf (r.getD 0 0) 3
def sprGoTag (r : List Nat) : Nat := bitsOf (r.getD 0 0) 7 4
def sprDoneTag (r : List Nat) : Nat := bitsOf (r.getD 0 0) 11 8
def sprDoneEn (r : List Nat) : Bool := bitOf (r.getD 0 0) 12
def sprBase (r : List Nat) : Nat := (r.getD 1 0 + 2 ^ 32 * bitsOf (r.getD 2 0) 7 0) * 64
def sprLeaven (r : List Nat) : Nat := bitsOf (r.getD 2 0) 19 8
def sprL0 (r : List Nat) : Nat := bitsOf (r.getD 3 0) 15 0
def sprL1 (r : List Nat) : Nat := bitsOf (r.getD 4 0) 19 0
def sprL1Stride (r : List Nat) : Nat := r.getD 5 0
def sprL2 (r : List Nat) : Nat := bitsOf (r.getD 6 0) 19 0
def sprL2Stride (r : List Nat) : Nat := r.getD 7 0
def sprRunStride (r : List Nat) : Nat := r.getD 8 0
def sprWrap (r : List Nat) : Nat := bitsOf (r.getD 9 0) 15 0
def sprScale (r : List Nat) : Nat := bitsOf (r.getD 10 0) 23 0

/-- The state of a stream port. -/
def FabDie.port (f : FabDie) (p : Nat) : SpRun := f.ports.get SpRun.rest p
def FabDie.setPort (f : FabDie) (p : Nat) (x : SpRun) : FabDie := { f with ports := f.ports.set SpRun.rest p x }

/-- Where a port's run lies: its buffer and its element plane (R143). -/
def runBase (r : List Nat) (x : SpRun) : Nat := sprBase r + sprRunStride r * x.index
def runPlane (r : List Nat) (x : SpRun) : Nat := runBase r x + (if sprHdr r then 64 else 0)

/-- Bits per element and the presence of scales of a port's tensor: from its header when it reads one, else from its Leaven
entry (log entry 28). -/
def State.runFormat (s : State) (d : Nat) (r : List Nat) (x : SpRun) : Nat × Bool :=
  if sprDir r = 1 && sprHdr r then
    let e := s.natAt (runBase r x) 4
    (((Format.ofCode? (bitsOf e 3 0)).getD .bf16).bits, decide (bitsOf e 5 4 ≠ 0) && decide (sprScale r ≠ 0))
  else
    let v := s.levView d (sprLeaven r)
    (v.fmt.bits, decide (sprScale r ≠ 0) && (match v.scale with | .none => false | _ => true))

/-- Entries of a row: elements, and scales after them (R142, R143; log entry 28). -/
def State.rowShape (s : State) (d : Nat) (r : List Nat) (x : SpRun) : Nat × Nat :=
  let f := s.runFormat d r x
  (sprL0 r, if f.2 then ceilDiv (ceilDiv (64 * sprL0 r) (4 * f.1)) 64 else 0)

/-- Rows of a run, and the byte offset of a row in the element plane. -/
def runRows (r : List Nat) (x : SpRun) : Nat := sprL1 r * x.live
def rowOffset (r : List Nat) (row : Nat) : Nat :=
  row / max 1 (sprL1 r) * sprL2Stride r + row % max 1 (sprL1 r) * sprL1Stride r

/-- A stream port is bound to the ingest queue of its die (R311). -/
def State.ingBound (s : State) (d p : Nat) : Bool :=
  decide (p < 4) && bitOf (s.shAt (regAddr (Page.die d) 0x198)).toNat p

/-- A run of a port has moved all its entries (R143, R227, R311). -/
def State.runDone (s : State) (d p : Nat) (r : List Nat) (x : SpRun) : Bool :=
  if s.kvBind d p ≠ 0 then decide (5 * x.live ≤ x.pos)
  else if s.ingBound d p then decide (x.live * sprL0 r ≤ x.pos)
  else
    let sh := s.rowShape d r x
    decide (runRows r x * sh.1 ≤ x.pos ∧ runRows r x * sh.2 ≤ x.spos)

/-- The unit of a die that carries a micro-batch index. -/
def State.unitOfMb (s : State) (d mb : Nat) : Option PUnit :=
  ((s.chD d).units.cells.find? fun x => urMb x.2.info = mb).map Prod.snd

/-- The unit of a run and whether its phase is the backward one: the unit that carries the run's micro-batch, or that of the phase in
progress where the die carries no such unit (R198, R286). -/
def State.runUnit (s : State) (d mb : Nat) : Option (List Nat × Bool) :=
  let c := s.chD d
  match s.unitOfMb d mb, c.fwd, c.bwd with
  | some u, _, _ => some (u.info, u.fwd)
  | none, some r, _ => some ((c.unit r.unit).info, false)
  | none, none, some r => some ((c.unit r.unit).info, true)
  | none, none, none => none

/-- A stream port read poison (R286): the run's phase is treated as damaged. -/
def State.portPoison (s : State) (d mb addr : Nat) : State :=
  let k := memKeyOf addr
  let s1 := s.raise (Page.die d) Code.memPoisonConsumed
    (memPayload (match k with | some q => memDieSource q | none => 0xFFFF) addr 0xFF 0 0 0 mb)
  match s.runUnit d mb with
  | none => s1
  | some u => s1.damageMb d u.1 u.2 [] 0x3F 0 Code.memPoisonConsumed 0xFF

/-- The port's memory requests come from the unit of R283: the KV unit for a bound port, else the port itself. -/
def spUnit (d p : Nat) : MemUnit := .streamPort (Fin.ofNat 4 d) (Fin.ofNat 128 p)

/-- Where entry `n` of a plain run lies: its address, its length and whether it is a scale entry (R143). -/
def State.runEntry (s : State) (d : Nat) (r : List Nat) (x : SpRun) (row i : Nat) (isScale : Bool) : Nat × Nat :=
  let sh := s.rowShape d r x
  let bits := (s.runFormat d r x).1
  if isScale then (runPlane r x + 64 * sprScale r + rowOffset r row / (4 * bits) + 64 * i,
    min 64 (ceilDiv (64 * sh.1) (4 * bits) - 64 * i))
  else (runPlane r x + rowOffset r row + 64 * i, 64)

/-- The scale codes of scale entry `i` of a row: 0x00 for a block whose elements lie in a poisoned granule (R286). -/
def State.sparedCodes (s : State) (d : Nat) (r : List Nat) (x : SpRun) (row i : Nat) (codes : List Byte) : List Byte :=
  let step := 4 * (s.runFormat d r x).1
  codes.mapIdx fun j b => if s.poisonedAt (runPlane r x + rowOffset r row + step * (64 * i + j)) step then 0 else b

/-- The next entry of a run bound to the ingest queue: zeros beyond the fragment's tokens or for a run out of order
(R302, R311). -/
def State.ingestEntry (s : State) (x : SpRun) (l0 : Nat) : Nat × Bool :=
  let row := x.pos / max 1 l0
  let width := if bitOf (s.natAt (x.addr + 12) 4) 24 then 768 else 1536
  (x.addr + 64 + width * row + 64 * (x.pos % max 1 l0), x.zero || decide (x.tokens ≤ row))

/-- A read run offers its next entry to the reed at its link (R143, R227, R311). -/
def State.portRead (s : State) (d p : Nat) : Option State :=
  let f := s.fabD d
  let r := s.spRec d (s.activeOf d) p
  let x := f.port p
  let k := qKey (spReed p) (spDir p)
  let kv := s.kvBind d p
  if !x.active || (if kv = 0 then sprDir r ≠ 1 else kv ≠ 1) || s.runDone d p r x ||
      decide (4 ≤ (f.queue k).items.length) then none
  else if kv = 1 then
    let v := s.kvRead d x
    let e := entryOf v.1 v.2.1 v.2.1
    some (v.2.2.2.1.foldl (fun t a => t.portPoison d 0xFFFF a)
      (v.2.2.2.2.setFab d ((f.setQueue k ((f.queue k).push e)).setPort p v.2.2.1)))
  else if s.ingBound d p then
    let l0 := sprL0 r
    let a := s.ingestEntry x l0
    let v := if a.2 then (List.replicate 64 0, false, s) else s.consume (spUnit d p) a.1 64 x.mb
    let e := entryOf v.1 false (x.pos % max 1 l0 + 1 = l0)
    let s1 := v.2.2.setFab d ((f.setQueue k ((f.queue k).push e)).setPort p { x with pos := x.pos + 1 })
    some (if v.2.1 then s1.portPoison d x.mb a.1 else s1)
  else
    let sh := s.rowShape d r x
    let per := sh.1 + sh.2
    let n := x.pos + x.spos
    let i := n % max 1 per
    let isScale : Bool := sh.1 ≤ i
    let a := s.runEntry d r x (n / max 1 per) (if isScale then i - sh.1 else i) isScale
    let v := s.consume (spUnit d p) a.1 a.2 x.mb
    let e := entryOf (if isScale then s.sparedCodes d r x (n / max 1 per) (i - sh.1) v.1 else v.1) isScale (i + 1 = per)
    let x1 := if isScale then { x with spos := x.spos + 1 } else { x with pos := x.pos + 1 }
    let s1 := v.2.2.setFab d ((f.setQueue k ((f.queue k).push e)).setPort p x1)
    some (if v.2.1 then s1.portPoison d x.mb a.1 else s1)

/-- A Proofer withholds its credit from the bridge: writes to its arrival window stop (R244; log entry 177). -/
def State.withheld (s : State) (addr : Nat) : Bool :=
  match regionOf addr with
  | .arrival p _ => (s.prf.get Proofer.reset p).withholds
  | _ => false

/-- A header write of a stream port (R239, R282): where the run's rows go to an arrival window it goes onto the spine, marked, whatever its
own address; elsewhere to memory. -/
def State.portHeader (s : State) (d p addr mb : Nat) (bs : List Byte) : State :=
  match s.accessFault (spUnit d p) (addr + 64) true, regionOf (addr + 64) with
  | none, .arrival q _ => { s with spine := { s.spine with arrivals := s.spine.arrivals ++ [⟨q, 128 * d + p, addr, bs, true⟩] } }
  | _, _ => s.storeFor (spUnit d p) addr bs mb

/-- A write of a stream port: to an arrival window it goes onto the spine (R239), elsewhere to memory. -/
def State.portStore (s : State) (d p addr mb : Nat) (bs : List Byte) : State :=
  s.storeFor (spUnit d p) addr bs mb

/-- A write run takes the entry at its link; a command port takes one command from each element entry (R143, R220,
R227). -/
def State.portWrite (s : State) (d p : Nat) : Option State :=
  let f := s.fabD d
  let r := s.spRec d (s.activeOf d) p
  let x := f.port p
  let kv := s.kvBind d p
  match (f.queue (spKey p 0)).items with
  | [] => none
  | e :: es =>
    let f1 := f.setQueue (spKey p 0) { items := es, taken := [] }
    if kv = 3 then
      let k := s.kvD d
      let ws := (List.range 4).map fun i => e.bits / 2 ^ (32 * i) % 2 ^ 32
      some ((s.setFab d f1).setKv d (if e.plane then k else { k with cmds := k.cmds ++ [⟨p + 1, ws⟩] }))
    else if kv = 2 then
      if !x.active || s.runDone d p r x then none
      else
        let v := s.kvWrite d x e.bytes
        some (v.2.setFab d (f1.setPort p v.1))
    else
      let sh := s.rowShape d r x
      let full := if e.plane then decide (runRows r x * sh.2 ≤ x.spos) else decide (runRows r x * sh.1 ≤ x.pos)
      if !x.active || sprDir r ≠ 2 || full then none
      else
        let n := if e.plane then x.spos else x.pos
        let per := max 1 (if e.plane then sh.2 else sh.1)
        let a := s.runEntry d r x (n / per) (n % per) e.plane
        let x1 := if e.plane then { x with spos := n + 1 } else { x with pos := n + 1 }
        if s.withheld a.1 then none
        else some ((s.setFab d (f1.setPort p x1)).portStore d p a.1 x.mb (e.bytes.take a.2))

/-- Apply an optional move. -/
def tryMove (a : State × Bool) (g : State → Option State) : State × Bool :=
  match g a.1 with
  | some t => (t, true)
  | none => a

/-- One round of a fabric: the reeds, then each engine of `engines` at its `places`, then each stream port of `ports`, moves once where it
can. From the sampling of a swap or reactivation to its end the engine ports and the stream ports are blocked (R167). -/
def State.moveRound (s : State) (d : Nat) (ports engines places : List Nat) : State × Bool :=
  let a0 := s.moveReeds d
  if (s.fabD d).due ≠ 0 then a0 else
  let a1 := engines.foldl (fun (a : State × Bool) e =>
    let s1 := if (a.1.engD d e).out.cells.isEmpty then a.1 else a.1.outRows d e
    places.foldl (fun b i =>
      tryMove (tryMove b fun t => ((t.fabD d).outPort e i).map (t.setFab d)) fun t => t.inPort d e i) (s1, a.2)) a0
  ports.foldl (fun b p => tryMove (tryMove b fun t => t.portRead d p) fun t => t.portWrite d p) a1

/-- Everything of a die's fabric moves once where it can. -/
def State.moveOnce (s : State) (d : Nat) : State × Bool :=
  s.moveRound d (List.range 128) (List.range 36) (List.range 4)

/-- Move until nothing moves any more, at most `n` rounds. -/
def State.settleN (s : State) (d : Nat) : Nat → State
  | 0 => s
  | n + 1 => let r := s.moveOnce d; if r.2 then r.1.settleN d n else r.1

/-- Everything of a die's fabric that can move has moved; a bound on the rounds keeps the operation total, and what it
cuts off moves with the next command. -/
def State.settle (s : State) (d : Nat) : State := s.settleN d 65536

/-- FAB_TOKEN_INVALID (R153, R201): the token is discarded, and the step program is wrong. -/
def State.tokenInvalid (s : State) (d who port token : Nat) : State :=
  ((s.count (regAddr (Page.fab d) 0x54) 1).raise (Page.fab d) Code.fabTokenInvalid
    (fabPayload who port 0xFF 3 token 0 0 0xFFFF)).programFault d Code.fabTokenInvalid none 0xFF

/-- The micro-batch that a run word names is held, or that of the phase in progress where the die carries no such unit (R198). -/
def State.holdRun (s : State) (d mb code : Nat) : State :=
  match s.runUnit d mb with
  | some u => s.holdMb d u.1 code u.2 false 0xFF
  | none => s

/-- FAB_LIMIT_OVER (R151): the run does not start, and the micro-batch is held. -/
def State.limitOver (s : State) (d who port v mb : Nat) : State :=
  ((s.count (regAddr (Page.fab d) 0x58) 1).raise (Page.fab d) Code.fabLimitOver
    (fabPayload who port 0xFF 0 0 v 0 mb)).holdRun d mb Code.fabLimitOver

/-- The number that R172 gives a stream port. -/
def spWho (p : Nat) : Nat := p + 0x8000

/-- A bound run of the KV unit starts (R227): the run word names the sequence and the count, the KV word the stream and the
first position; a sequence that is not open or a stream beyond STREAMS makes the run invalid. A count above the planned L2_COUNT starts
nothing (R151, R227); such a run names no micro-batch, so the phase in progress is held. The run is a reader (R224). -/
def State.kvRunStart (s : State) (d p run word : Nat) (f : FabDie) : State :=
  let x := f.port p
  let k := s.kvD d
  let q := bitsOf run 31 20
  if sprL2 (s.spRec d (s.activeOf d) p) < bitsOf run 19 0 then
    (s.setFab d (f.setPort p { x with go := false })).limitOver d (spWho p) 0xFF (bitsOf run 19 0) 0xFFFF
  else
  let st := bitsOf word 9 0
  let e := k.seq q
  let bad := !e.isOpen || decide (e.streams ≤ st)
  let x1 := { x with go := false, active := true, pos := 0, spos := 0, live := bitsOf run 19 0, mb := q, runs := x.runs + 1
                     stream := st, first := bitsOf word 29 10, addr := 0, zero := bad }
  let s1 := (s.setFab d (f.setPort p x1)).setKv d { k with readers := k.readers ++ [⟨p, k.epoch, false⟩] }
  if bad then s1.kvRaise d Code.kvCmdInvalid q (0x10 + s.kvBind d p) 0xFFFFFFFF st (bitsOf word 29 10) else s1

/-- STREAM_RUN (R143, R151, R227): a port that has accepted a GO, and its run word where LIVE_L2 is set, starts its run: a write
run with HDR writes the header first. A live count above the plan starts nothing. While the die is HALTED no run starts
(R164), nor between the sampling of a swap and its end (R167). A port bound to the ingest queue starts by INGEST_RUN; a command port makes no runs. -/
def execStreamRun (d : Die) (p : Sp) (s : State) : Host.Outcome State Fault Refusal :=
  if s.still then .next s else
  let f := s.fabD d
  let r := s.spRec d (s.activeOf d) p
  let x := f.port p
  let kv := s.kvBind d p
  let q := f.queue (spKey p 1)
  if !x.go || x.active || f.halted || decide (f.due ≠ 0) || s.ingBound d p || kv = 3 then .next s
  else if kv ≠ 0 then
    match q.items with
    | run :: word :: rest =>
      .next ((s.kvRunStart d p run.bits word.bits (f.setQueue (spKey p 1) { items := rest, taken := [] })).settle d)
    | _ => .next s
  else if sprDir r ≠ 1 && sprDir r ≠ 2 then .next s
  else
    let word := if sprLive r then q.items.head? else some { bits := sprL2 r + 0xFFF * 2 ^ 20, plane := false, last := false }
    match word with
    | none => .next s
    | some w =>
      let live := bitsOf w.bits 19 0
      let mb := bitsOf w.bits 31 20
      let f1 := if sprLive r then f.setQueue (spKey p 1) { items := q.items.drop 1, taken := [] } else f
      if sprL2 r < live then
        .next ((s.setFab d (f1.setPort p { x with go := false })).limitOver d (spWho p) 0xFF live mb)
      else
        let x1 := { x with go := false, active := true, pos := 0, spos := 0, live := live, mb := mb, runs := x.runs + 1 }
        let s1 := s.setFab d (f1.setPort p x1)
        let s2 := if sprDir r = 2 && sprHdr r then
            let elem := sprL0 r * 512 / max 1 (s1.runFormat d r x1).1 * runRows r x1
            s1.portHeader d p (runBase r x1) mb (s1.headerBytes d (sprLeaven r) mb elem)
          else s1
        .next (s2.settle d)

/-- The run of a bound port has ended: its reader may close (R224), its fragment is no longer read (R309). -/
def State.boundEnd (s : State) (d p : Nat) : State :=
  let k := s.kvD d
  let s1 := if s.kvBind d p = 0 then s else
    s.setKv d { k with readers := k.readers.map fun r => if r.port = p then { r with ended := true } else r }
  if s.ingBound d p then { s1 with ing := { s1.ing with reading := s1.ing.reading.set 0 (128 * d + p) 0 } } else s1

/-- The conduit on VC4 whose send area a port's run lies in (R329). -/
def State.ringConduit (s : State) (r : List Nat) (x : SpRun) : Option Nat :=
  (List.range 32).find? fun k => s.cndValid k && s.cndVc k = 4 && sprDir r = 2 &&
    decide (s.cndSend k ≤ runBase r x ∧ runBase r x < s.cndSend k + s.cndEntries k * s.cndBytes k)

/-- The end of a write run into the send area of a VC4 conduit hands the next entry, a key-value block of an attention ring with the partials
that travel with it, to the conduit (R14, R213, R215, R330; log entry 169). -/
def State.ringEntry (s : State) (d p : Nat) : State :=
  let r := s.spRec d (s.activeOf d) p
  let x := (s.fabD d).port p
  if s.kvBind d p ≠ 0 || s.ingBound d p then s
  else match s.ringConduit r x with
    | some k => s.handToConduit k
    | none => s

/-- STREAM_RUN_END (R143): a run whose entries have all moved ends: the run address advances or wraps, and DONE is sent. -/
def execStreamRunEnd (d : Die) (p : Sp) (s : State) : Host.Outcome State Fault Refusal :=
  if s.still then .next s else
  let f := s.fabD d
  let r := s.spRec d (s.activeOf d) p
  let x := f.port p
  let k := qKey (spReed p) (16 + spDir p)
  let room := !sprDoneEn r || decide ((f.queue k).items.length < 16)
  if !x.active || !s.runDone d p r x || !room then .next s
  else
    let next := if sprWrap r ≠ 0 ∧ sprWrap r ≤ x.index + 1 then 0 else x.index + 1
    let f1 := f.setPort p { x with active := false, pos := 0, spos := 0, live := 0, index := next }
    let f2 := if sprDoneEn r then
        f1.setQueue k ((f1.queue k).push { bits := 0x60 + sprDoneTag r, plane := false, last := false }) else f1
    .next ((((s.ringEntry d p).setFab d f2).boundEnd d p).settle d)

end Sys2Proof.Machine
end

