-- ==== Sys2Proof/Machine/Reed.lean ====
section
/-! DEFINITION. What a reed does when it fires, wraps a counter, or takes a token (R137, R145 to R153, R162 to R164). -/

namespace Sys2Proof.Machine

/-- The active record of a reed. -/
def State.recOf (s : State) (d r : Nat) : List Nat := s.reedRec d (s.activeOf d) r
/-- A counter of a reed. -/
def ReedRun.cnt (x : ReedRun) (i : Nat) : Counter := x.cnts.get Counter.zero i
def ReedRun.setCnt (x : ReedRun) (i : Nat) (c : Counter) : ReedRun := { x with cnts := x.cnts.set Counter.zero i c }

/-- The consumer code of an input port: VI0–3, SI0–1, TI as ports 0 to 6 of R172. -/
def portCons (p : Nat) : Nat := 32 + p
/-- The source that feeds an input port; none where the port has no source. A ROUTE reed uses its router alone, a BUFFER reed its token
input and no data port (R154). -/
def portSrc (rec0 : List Nat) (p : Nat) : Option Nat :=
  let c := if rrKind rec0 = 6 ∨ (rrKind rec0 = 5 ∧ p ≠ 6) then 0 else if p < 4 then rrVi rec0 p else if p < 6 then rrSi rec0 (p - 4) else rrTi rec0
  if c = 0 then none else some (srcCode (if p < 4 then 0 else if p < 6 then 1 else 2) c)

/-- The entry at the head of an input port (R139). -/
def State.portHead (s : State) (d r p : Nat) : Option Entry :=
  match portSrc (s.recOf d r) p with
  | none => none
  | some src => ((s.fabD d).queue (qKey r src)).headFor (portCons p)

/-- Pop an input port (R139). -/
def State.popPort (s : State) (d r p : Nat) : State :=
  match portSrc (s.recOf d r) p with
  | none => s
  | some src =>
    let f := s.fabD d
    s.setFab d (f.setQueue (qKey r src) ((f.queue (qKey r src)).take (portCons p) (consumers (s.recOf d r) src)))

/-- The source code of an output: VO0, VO1, SO, TO as ports 7 to 10 of R172. -/
def outSrc (p : Nat) : Nat := match p with | 7 => 5 | 8 => 6 | 9 => 12 | _ => 20

/-- Free places that every consumer of an output has, less what the output still holds (R139, R145). -/
def State.outCredit (s : State) (d r p : Nat) : Nat :=
  let rec0 := s.recOf d r
  let f := s.fabD d
  let held := (f.queue (qKey r (outSrc p))).items.length
  ((consumers rec0 (outSrc p)).map fun c =>
    match targetOf rec0 r c with
    | some (k, cap) => cap - (f.queue k).items.length
    | none => netDepth (if p < 9 then 0 else if p = 9 then 1 else 2)).foldl min 4096 - held

/-- Push an entry to an output. -/
def State.pushOut (s : State) (d r p : Nat) (e : Entry) : State :=
  let f := s.fabD d
  let k := qKey r (outSrc p)
  s.setFab d (f.setQueue k ((f.queue k).push e))

/-- A token as an entry (R138). -/
def tokenEntry (kind tag : Nat) : Entry := { bits := kind * 16 + tag, plane := false, last := false }

/-- Lane `i` of `w` bits of a vector. -/
def lane (w v i : Nat) : Nat := v / 2 ^ (w * i) % 2 ^ w
/-- A vector from its lanes. -/
def ofLanes (w : Nat) (ls : List Nat) : Nat := ls.foldr (fun x a => x % 2 ^ w + 2 ^ w * a) 0
/-- A 32-bit scalar in all lanes. -/
def bcast (v : Nat) : Nat := ofLanes 32 (List.replicate 16 v)
/-- A 16-bit value in all half lanes. -/
def bcast16 (v : Nat) : Nat := ofLanes 16 (List.replicate 32 v)

/-- A code names a vector: V registers, vector ports, VO0 and VO1. -/
def isVecCode (c : Nat) : Bool := decide (c ≤ 0x49)

/-- A code names the local store. -/
def isLsCode (c : Nat) : Bool := decide (0x80 ≤ c ∧ c ≤ 0x87)

/-- An instruction works on vectors: its destination is a vector, or it stores to the local store and reads one (R147). -/
def RInstr.isVector (i : RInstr) : Bool :=
  isVecCode i.dst || (isLsCode i.dst && i.readCodes.any fun c => isVecCode c.1)
/-- Its local-store sources are vectors: REDADD, REDMAX, CVT, CVTNQ and UNPK read vectors and BCAST a scalar, whatever they write (R148). -/
def RInstr.readsVector (i : RInstr) : Bool :=
  [0x18, 0x19, 0x28, 0x29, 0x2A].contains i.op || (i.isVector && i.op ≠ 0x1A)
/-- Its local-store destination is a vector: BCAST, CVT, CVTNQ and UNPK write all lanes, REDADD and REDMAX a scalar (R148). -/
def RInstr.writesVector (i : RInstr) : Bool :=
  [0x1A, 0x28, 0x29, 0x2A].contains i.op || (i.isVector && !([0x18, 0x19].contains i.op))

/-- The byte address in a reed's local store that an operand names: Si plus IMM, aligned (R147; log entry 33). -/
def lsAddr (d r sreg imm : Nat) (vec : Bool) : Nat :=
  let o := (sreg + imm) % 0x4000
  localBase d r + (if vec then o / 64 * 64 else o / 4 * 4)

/-- The value of an operand: a scalar of a vector instruction in all lanes, rounded to BF16 or cut to 16 bits for the
16-bit forms (R147). (Log entry 209.) -/
def State.operand (s : State) (d r : Nat) (i : RInstr) (c : Nat) : Nat :=
  let x := (s.fabD d).reed r
  let rec0 := s.recOf d r
  let sc := fun v : Nat =>
    if i.ty = 1 then bcast16 (ff32.convertTo ffBf16 v) else if i.ty = 3 then bcast16 (v % 65536) else bcast v
  let headBits := fun p : Nat => match s.portHead d r p with | some e => e.bits | none => 0
  if c < 0x40 then x.vregs.get 0 c
  else if c < 0x44 then headBits (c - 0x40)
  else if c < 0x48 then headBits (c - 0x44)
  else if 0x50 ≤ c ∧ c ≤ 0x57 then sc (x.sregs.get 0 (c - 0x50))
  else if 0x58 ≤ c ∧ c ≤ 0x59 then sc (headBits (4 + (c - 0x58)))
  else if 0x5A ≤ c ∧ c ≤ 0x5B then sc (headBits (4 + (c - 0x5A)))
  else if 0x60 ≤ c ∧ c ≤ 0x6F then sc (rrK rec0 (c - 0x60))
  else if 0x70 ≤ c ∧ c ≤ 0x73 then sc (x.cnt (c - 0x70)).count
  else if 0x80 ≤ c ∧ c ≤ 0x87 then
    let vec := i.readsVector
    let a := lsAddr d r (x.sregs.get 0 (c - 0x80)) i.imm vec
    if vec then s.natAt a 64 else sc (s.natAt a 4)
  else 0

/-- The ports that an instruction pops, each once (R146). -/
def RInstr.pops (i : RInstr) : List Nat :=
  distinct ((i.readCodes.map Prod.fst).filterMap fun c =>
    if 0x40 ≤ c ∧ c < 0x44 then some (c - 0x40) else if 0x58 ≤ c ∧ c ≤ 0x59 then some (4 + (c - 0x58)) else none)

/-- A result that the manual leaves open, as a function of the operation and its operands (log entry 2). -/
def openResult (op w : Nat) (args : List Nat) : Nat := Config.openBits op args % 2 ^ w

/-- Floating-point lane operations (R23, R148); MAX and MIN of a NaN are open. -/
def fpOp (f : FpFmt) (w op a b c d : Nat) : Nat :=
  match op with
  | 0x01 => a
  | 0x02 => f.add a b
  | 0x03 => f.mul a b
  | 0x04 => f.fma a b c
  | 0x06 => if f.isNan a || f.isNan b then openResult op w [a, b] else f.max a b
  | 0x07 => if f.isNan a || f.isNan b then openResult op w [a, b] else if f.lt b a then b else a
  | 0x08 => f.abs a
  | 0x09 => f.neg a
  | 0x0A => if f.isNan a || f.isNan b || f.lt a b then d else c
  | _ => a

/-- Integer lane operations on `w` bits in two's complement (R148). A shift of a negative value to the right is open. -/
def intOp (w op a b c d : Nat) : Nat :=
  let sa := signedOf w a
  let sb := signedOf w b
  match op with
  | 0x01 => a
  | 0x02 => ofSigned w (sa + sb)
  | 0x03 => ofSigned w (sa * sb)
  | 0x04 => ofSigned w (sa * sb + signedOf w c)
  | 0x06 => if sa < sb then b else a
  | 0x07 => if sb < sa then b else a
  | 0x08 => ofSigned w (if sa < 0 then -sa else sa)
  | 0x09 => ofSigned w (-sa)
  | 0x0A => if sa < sb then d else c
  | 0x10 => ofSigned w (sa + sb)
  | 0x11 => ofSigned w (sa - sb)
  | 0x12 => ofSigned w (sa * sb)
  | 0x13 => a &&& b
  | 0x14 => if 0 ≤ sb then (if 4 * w ≤ sb.toNat then 0 else a * 2 ^ sb.toNat % 2 ^ w)
      else if sa < 0 then openResult op w [a, b] else if 4 * w ≤ (-sb).toNat then 0 else a / 2 ^ (-sb).toNat
  | _ => a

/-- The signs of the infinities that a factor pair adds to a sum; none where the product is NaN (R23). -/
def prodInf : Num → Num → Option (List Bool)
  | .nan, _ => none
  | _, .nan => none
  | .inf x, .inf y => some [x != y]
  | .inf x, .fin y m _ => if m = 0 then none else some [x != y]
  | .fin x m _, .inf y => if m = 0 then none else some [x != y]
  | .fin _ _ _, .fin _ _ _ => some []

/-- The sum SC + a0 b0 + a1 b1 of BF16 pairs with one rounding (R148, DOT2): exact for finite terms, and for infinite ones the infinity
that they agree on, else NaN. -/
def dot2 (a b c : Nat) : Nat :=
  let wide := fun v : Nat => ffBf16.convertTo ff32 v
  let p := fun i : Nat => (wide (lane 16 a i), wide (lane 16 b i))
  let nan := ff32.nanCode 5 [a, b, c]
  match ff32.decode (p 0).1, ff32.decode (p 0).2, ff32.decode (p 1).1, ff32.decode (p 1).2, ff32.decode c with
  | .fin n1 m1 e1, .fin n2 m2 e2, .fin n3 m3 e3, .fin n4 m4 e4, .fin n5 m5 e5 =>
    let x := FpFmt.addFin (n1 != n2) (m1 * m2) (e1 + e2) (n3 != n4) (m3 * m4) (e3 + e4)
    let y := FpFmt.addFin x.1 x.2.1 x.2.2 n5 m5 e5
    if y.2.1 = 0 then
      (if m5 = 0 && m1 * m2 = 0 && m3 * m4 = 0 then ff32.add (ff32.add (ff32.mul (p 0).1 (p 0).2) (ff32.mul (p 1).1 (p 1).2)) c
       else 0)
    else ff32.roundTo y.1 y.2.1 1 y.2.2
  | x0, y0, x1, y1, z =>
    match prodInf x0 y0, prodInf x1 y1, z with
    | none, _, _ => nan
    | _, none, _ => nan
    | _, _, .nan => nan
    | some u, some v, z =>
      match u ++ v ++ (match z with | .inf n => [n] | _ => []) with
      | [] => nan
      | n :: rest => if rest.all (· = n) then ff32.withSign n ff32.infCode else nan

/-- One lane pair after another, ascending, to one value (R148, REDADD and REDMAX). -/
def reduceLanes (g : Nat → Nat → Nat) : Nat → List Nat → List Nat
  | 0, l => l
  | n + 1, l => reduceLanes g n (pairUp g l)
where
  /-- Combine neighbours. -/
  pairUp (g : Nat → Nat → Nat) : List Nat → List Nat
    | a :: b :: rest => g a b :: pairUp g rest
    | l => l

/-- The lanes of a vector for a type: 16 of 32 bits, or 32 of 16 bits. -/
def tyWidth (ty : Nat) : Nat := if ty = 1 ∨ ty = 3 then 16 else 32
def tyLanes (ty v : Nat) : List Nat := (List.range (512 / tyWidth ty)).map (lane (tyWidth ty) v)

/-- A lane operation of a type. -/
def laneOp (ty op a b c d : Nat) : Nat :=
  if decide (0x10 ≤ op ∧ op ≤ 0x14) then intOp (tyWidth ty) op a b c d
  else match ty with
    | 0 => fpOp ff32 32 op a b c d
    | 1 => fpOp ffBf16 16 op a b c d
    | t => intOp (tyWidth t) op a b c d

/-- An FP32 result within one unit in the last place of the exact one (R148): the exact magnitude is num ÷ den × 2^e, or lies above it by
less than the last bit of the approximation where `tail` holds. A choice by operation and operand among the codes that the bound allows: the
two on either side, or an exact code and its two neighbours (log entry 34). Beyond the greatest finite code stands the infinity (R23). -/
def ulpChoice (op a : Nat) (neg : Bool) (num den : Nat) (e : Int) (tail : Bool) : Nat :=
  let g := gridBelow ff32.fb ff32.qmin num den e
  let n := Config.openBits (256 + op) [a]
  let c := if g.2.1 = 0 && !tail then (match n % 3 with | 0 => g.1 | 1 => g.1 + 1 | _ => g.1 - 1) else g.1 + n % 2
  ff32.withSign neg (min ff32.infCode c)

/-- 2^(f ÷ 2^64) × 2^128 for f below 2^64, from repeated square roots of 2, cut down. -/
def exp2Frac (f : Nat) : Nat :=
  ((List.range 64).foldl (fun (a : Nat × Nat) k =>
    let r := Nat.sqrt (a.1 * 2 ^ 128)
    (r, if f.testBit (63 - k) then a.2 * r / 2 ^ 128 else a.2)) (2 ^ 129, 2 ^ 128)).2

/-- 2^x for x = ± m × 2^e: x is cut down to a multiple of 2^−64. -/
def exp2Unit (op a : Nat) (neg : Bool) (m : Nat) (e : Int) : Nat :=
  let sh := 2 ^ (-e).toNat
  let v : Nat := if 0 ≤ e then m * 2 ^ min 64 e.toNat * 2 ^ 64 else m * 2 ^ 64 / sh
  let cut := decide (e < 0) && decide (m * 2 ^ 64 % sh ≠ 0)
  let v1 : Int := if neg then -(v : Int) - (if cut then 1 else 0) else v
  if 512 * 2 ^ 64 ≤ v then (if neg then ulpChoice op a false 1 1 (-1024) true else ff32.infCode)
  else ulpChoice op a false (exp2Frac (v1 % 2 ^ 64).toNat) 1 (v1 / 2 ^ 64 - 128) (cut || decide (v1 % 2 ^ 64 ≠ 0))

/-- The base-2 logarithm of m × 2^e, m above 0, from repeated squares: the integer part and 96 bits, cut down in magnitude. -/
def log2Unit (op a m : Nat) (e : Int) : Nat :=
  let k := Nat.log2 m
  let r := (List.range 96).foldl (fun (x : Nat × Nat) _ =>
    let q := x.1 * x.1 / 2 ^ 128
    if 2 ^ 129 ≤ q then (q / 2, 2 * x.2 + 1) else (q, 2 * x.2)) (m * 2 ^ 128 / 2 ^ k, 0)
  let v : Int := (e + k) * 2 ^ 96 + r.2
  let whole := decide (m = 2 ^ k)
  ulpChoice op a (decide (v < 0)) (if v < 0 && !whole then v.natAbs - 1 else v.natAbs) 1 (-96) !whole

/-- The hyperbolic tangent of ± m × 2^e: just below x under 2^−12, just below 1 from 16 on, else from the series of e^(2x ÷ 64). -/
def tanhUnit (op a : Nat) (neg : Bool) (m : Nat) (e : Int) : Nat :=
  let x : Rat := (m : Rat) * (if 0 ≤ e then ((2 ^ e.toNat : Nat) : Rat) else 1 / ((2 ^ (-e).toNat : Nat) : Rat))
  if m = 0 then ulpChoice op a neg 0 1 0 false
  else if x < 1 / 4096 then ulpChoice op a neg (m * 2 ^ 24 - 1) 1 (e - 24) true
  else if 16 ≤ x then ulpChoice op a neg (2 ^ 30 - 1) 1 (-30) true
  else
    let y := (x * ((2 ^ 155 : Nat) : Rat)).floor.toNat
    let s := (List.range 40).foldl (fun (a : Nat × Nat) k => (a.1 * y / (2 ^ 160 * (k + 1)), a.2 + a.1)) (2 ^ 160, 0)
    let x64 := (List.range 6).foldl (fun a _ => a * a / 2 ^ 160) s.2
    ulpChoice op a neg (x64 - 2 ^ 160) (x64 + 2 ^ 160) 0 true

/-- One over the root of m × 2^e: 2^160 over the root of m, doubled where e is odd, cut down. -/
def rsqUnit (op a m : Nat) (e : Int) : Nat :=
  let m1 := if e % 2 ≠ 0 then 2 * m else m
  let q := Nat.sqrt (2 ^ 320 / m1)
  ulpChoice op a false q 1 (-160 - (if e % 2 ≠ 0 then e - 1 else e) / 2) (decide (q * q * m1 ≠ 2 ^ 320))

/-- The function unit on one lane (R148): a finite value within a unit in the last place. NaN, the infinities, the poles and
operands outside the function's domain give what IEEE 754 defines (R23; log entry 34). Equal operands give equal results (R210, R214). -/
def funcOp (op a : Nat) : Nat :=
  let nan := ff32.nanCode op [a]
  match ff32.decode a with
  | .nan => nan
  | .inf neg => match op with
    | 0x20 => if neg then 0 else ff32.infCode
    | 0x21 => if neg then nan else ff32.infCode
    | 0x22 => ff32.withSign neg 0
    | 0x23 => if neg then nan else 0
    | _ => ff32.withSign neg 0x3F800000
  | .fin neg m e => match op with
    | 0x20 => exp2Unit op a neg m e
    | 0x21 => if m = 0 then ff32.withSign true ff32.infCode else if neg then nan else log2Unit op a m e
    | 0x22 => if m = 0 then ff32.withSign neg ff32.infCode else ulpChoice op a neg 1 m (-e) false
    | 0x23 => if m = 0 then ff32.withSign neg ff32.infCode else if neg then nan else rsqUnit op a m e
    | _ => tanhUnit op a neg m e

/-- An element of a narrow format as FP32, without scale (R148, UNPK). -/
def unpack1 (f : Format) (c : Nat) : Nat :=
  match f with
  | .bf16 => ffBf16.convertTo ff32 c
  | .fp32 => c
  | f =>
    let mag := c % 2 ^ (f.bits - 1)
    if f = .e4m3 && mag = 0x7F then ff32.nanCode 0x2A [c]
    else if f = .e5m2 && decide (0x7C < mag) then ff32.nanCode 0x2A [c]
    else if f = .e5m2 && mag = 0x7C then ff32.withSign (c.testBit 7) ff32.infCode
    else if f = .t2 && c = 2 then openResult 0x2A 32 [c]
    else if f = .g4 && mag = 0 then 0
    else
      match (readElement f c).1 with
      | .fin neg m e =>
        let ng := match f with | .int8 => neg | .t2 => neg | f => c.testBit (f.bits - 1)
        ff32.roundTo ng m 1 e
      | _ => 0

/-- The result of an instruction and the state with the conversions it reports (R39, R148): the 512-bit value, whose lane 0
a scalar destination takes. The DST that SELC keeps has no value where it is an output: an open one (log entry 161). (Log entry 210.) -/
def State.instrValue (s : State) (d r : Nat) (i : RInstr) : Nat × State :=
  let a := s.operand d r i i.sa
  let b := s.operand d r i i.sb
  let c := s.operand d r i i.sc
  let x := (s.fabD d).reed r
  let old := if i.dst < 0x40 then x.vregs.get 0 i.dst
    else if 0x50 ≤ i.dst ∧ i.dst ≤ 0x57 then bcast (x.sregs.get 0 (i.dst - 0x50))
    else if isLsCode i.dst then
      let v := i.writesVector
      let at_ := lsAddr d r (x.sregs.get 0 (i.dst - 0x80)) i.imm v
      if v then s.natAt at_ 64 else bcast (s.natAt at_ 4)
    else openResult 0x0A 512 [a, b, c]
  let sreg := fun k : Nat => if 0x50 ≤ k ∧ k ≤ 0x57 then x.sregs.get 0 (k - 0x50) else 0
  let idx := fun k : Nat => (sreg k + 2 ^ 32 * bitsOf (sreg (k + 1)) 31 12, bitsOf (sreg (k + 1)) 11 0)
  match i.op with
  | 0x05 => (ofLanes 32 ((List.range 16).map fun k => dot2 (lane 32 a k) (lane 32 b k) (lane 32 c k)), s)
  | 0x18 =>
    let g := fun u v : Nat => laneOp i.ty 0x02 u v 0 0
    let v := (reduceLanes g 5 (tyLanes i.ty a)).headD 0
    (if tyWidth i.ty = 16 then bcast v else bcast v, s)
  | 0x19 =>
    let g := fun u v : Nat => laneOp i.ty 0x06 u v 0 0
    (bcast ((reduceLanes g 5 (tyLanes i.ty a)).headD 0), s)
  | 0x1A => (if tyWidth i.ty = 16 then bcast16 (lane 16 a 0) else bcast (lane 32 a 0), s)
  | 0x20 => (ofLanes 32 ((List.range 16).map fun k => funcOp i.op (lane 32 a k)), s)
  | 0x21 => (ofLanes 32 ((List.range 16).map fun k => funcOp i.op (lane 32 a k)), s)
  | 0x22 => (ofLanes 32 ((List.range 16).map fun k => funcOp i.op (lane 32 a k)), s)
  | 0x23 => (ofLanes 32 ((List.range 16).map fun k => funcOp i.op (lane 32 a k)), s)
  | 0x24 => (ofLanes 32 ((List.range 16).map fun k => funcOp i.op (lane 32 a k)), s)
  | 0x28 =>
    let v := s.levView d (i.imm % 4096)
    let n := idx i.sb
    let xs := (List.range 16).map (lane 32 a)
    let q := xs.zipIdx.map fun p => convert v.fmt v.conv (s.rounding v.sr v.tensor n.2 (n.1 + p.2)) p.1
    (leNat (packElements v.fmt.bits (q.map Prod.fst)),
     s.levReport d (i.imm % 4096) { cnt := q.foldl (fun z p => z.add p.2) .zero, elem := 16, amax := finiteMax xs })
  | 0x29 =>
    let v := s.levView d (i.imm % 4096)
    let n := idx i.sc
    let xs := (List.range 16).map (lane 32 a) ++ (List.range 16).map (lane 32 b)
    let q := encodeNq32 v.fmt v.conv v.eT (fun k => s.rounding v.sr v.tensor n.2 (n.1 + k)) xs
    (leNat (overwrite (packElements v.fmt.bits q.2.1) 63 [BitVec.ofNat 8 q.1]),
     s.levReport d (i.imm % 4096) { cnt := q.2.2, elem := 32, amax := finiteMax xs })
  | 0x2A =>
    let f := (Format.ofCode? (i.imm % 16)).getD .bf16
    (ofLanes 32 ((unpackElements f.bits 16 (leBytes 64 a)).map (unpack1 f)), s)
  | 0x30 => (a, s)
  | 0x31 => (a, s)
  | op =>
    let w := tyWidth i.ty
    let n := 512 / w
    (ofLanes w ((List.range n).map fun k => laneOp i.ty op (lane w a k) (lane w b k) (lane w c k) (lane w old k)), s)

/-- Write the result of an instruction to its destination. A push takes PLANE and LAST as free values: the manual does not
say what a reed sets them to (log entry 30). -/
def State.writeDst (s : State) (d r : Nat) (i : RInstr) (v : Nat) : State :=
  let f := s.fabD d
  let x := f.reed r
  let c := i.dst
  let sv := lane 32 v 0
  if c < 0x40 then s.setFab d (f.setReed r { x with vregs := x.vregs.set 0 c (v % 2 ^ 512) })
  else if c = 0x48 ∨ c = 0x49 then
    (s.pushOut d r (7 + (c - 0x48))
      { bits := v % 2 ^ 512, plane := (s.fresh 2).getLsbD 0, last := (s.fresh 2).getLsbD 1 }).used
  else if 0x50 ≤ c ∧ c ≤ 0x57 then s.setFab d (f.setReed r { x with sregs := x.sregs.set 0 (c - 0x50) sv })
  else if c = 0x5C then s.pushOut d r 9 { bits := sv, plane := false, last := false }
  else if 0x80 ≤ c ∧ c ≤ 0x87 then
    let vec := i.writesVector
    let a := lsAddr d r (x.sregs.get 0 (c - 0x80)) i.imm vec
    if vec then s.storeNat a 64 (v % 2 ^ 512) else s.storeNat a 4 sv
  else s

/-- Execute one instruction (R146 to R148): operands are read, ports popped once, the result written; TOK emits its
token. -/
def State.instr (s : State) (d r : Nat) (i : RInstr) : State :=
  match i.op with
  | 0x00 => s
  | 0x38 => s.pushOut d r 10 { bits := i.imm % 256, plane := false, last := false }
  | _ =>
    let v := s.instrValue d r i
    let s1 := i.pops.foldl (fun t p => t.popPort d r p) v.2
    s1.writeDst d r i v.1

/-- Execute a body. -/
def State.body (s : State) (d r : Nat) (b : List RInstr) : State := b.foldl (fun t i => t.instr d r i) s

/-- Every output has credit for all pushes of a body and for `tok` further tokens (R145). -/
def State.credit (s : State) (d r : Nat) (b : List RInstr) (tok : Nat) : Bool :=
  [7, 8, 9, 10].all fun p =>
    let n := bodyPushes b p + (if p = 10 then tok else 0)
    n = 0 || decide (n ≤ s.outCredit d r p)

/-- A poisoned granule lies where an instruction reads the reed's local store, at the addresses that the scalar registers give now (R286). -/
def State.insPoison (s : State) (d r : Nat) (i : RInstr) : Bool :=
  i.readCodes.any fun c => isLsCode c.1 &&
    (let vec := if i.op = 0x0A && c.1 = i.dst then i.writesVector else i.readsVector
     s.poisonedAt (lsAddr d r (((s.fabD d).reed r).sregs.get 0 (c.1 - 0x80)) i.imm vec) (if vec then 64 else 4))

/-- A body reads a poisoned granule of the local store, at an address that it was given or that it forms itself (R173, R286). -/
def State.lsPoison (s : State) (d r : Nat) : List RInstr → Bool
  | [] => false
  | i :: is => s.insPoison d r i || (s.instr d r i).lsPoison d r is

/-- The reed is armed (R145). -/
def armed (rec0 : List Nat) (x : ReedRun) : Bool := !x.stopped && (!rrGoReq rec0 || x.armed)

/-- A counter's limit in the present count. -/
def limitNow (rec0 : List Nat) (x : ReedRun) (i : Nat) : Option Nat :=
  if rrFromSi rec0 i then (x.cnt i).limit else some (rrLimit rec0 i)

/-- A counter that waits for its limit pops it from SI1 at the start of a count (R150, R151); one above the plan raises
FAB_LIMIT_OVER, and the reed stays unarmed for that run. A limit of 0 wraps at once. -/
def State.loadLimit (s : State) (d r i : Nat) : State :=
  let rec0 := s.recOf d r
  let x := (s.fabD d).reed r
  if !rrFromSi rec0 i || (x.cnt i).limit.isSome || (x.cnt i).due || !armed rec0 x then s
  else
    match s.portHead d r 5 with
    | none => s
    | some e =>
      let s1 := s.popPort d r 5
      let v := e.bits % 2 ^ 32
      if rrLimit rec0 i < v then
        (s1.setFab d ((s1.fabD d).setReed r { x with armed := false, stopped := true })).limitOver d r 5 v 0xFFFF
      else s1.setFab d ((s1.fabD d).setReed r (x.setCnt i { x.cnt i with limit := some v, due := decide (v ≤ (x.cnt i).count) }))

/-- Load every counter's limit that waits. -/
def State.loadLimits (s : State) (d r : Nat) : State := [0, 1, 2, 3].foldl (fun t i => t.loadLimit d r i) s

/-- A counter steps once (R150); a step that comes before the limit of the count is kept. -/
def stepCounter (rec0 : List Nat) (x : ReedRun) (i : Nat) : ReedRun :=
  let c := x.cnt i
  match limitNow rec0 x i with
  | none => x.setCnt i { c with count := c.count + 1 }
  | some l =>
    if l = 0 ∨ c.due then x
    else x.setCnt i { c with count := c.count + 1, due := decide (l ≤ c.count + 1) }

/-- The counters that a cause steps: 0 a main firing, 2 a GO token. -/
def stepCounters (rec0 : List Nat) (x : ReedRun) (cause : Nat) : ReedRun :=
  [0, 1, 2, 3].foldl (fun y i => if rrStepOn rec0 i = cause then stepCounter rec0 y i else y) x

/-- The ports of the firing set, as port numbers of R172. -/
def firingSet (rec0 : List Nat) : List Nat :=
  ((List.range 4).filter fun i => (rrFireVi rec0).testBit i) ++
    ((List.range 2).filter fun i => (rrFireSi rec0).testBit i).map (4 + ·)

/-- The counters have their limits and none is about to wrap. -/
def countersReady (rec0 : List Nat) (x : ReedRun) : Bool :=
  [0, 1, 2, 3].all fun i => !(x.cnt i).due && (limitNow rec0 x i).isSome

/-- STALL_EN of a fabric. -/
def State.stallEn (s : State) (d : Nat) : Bool := (s.rwAt (regAddr (Page.fab d) 0x104)).getLsbD 1

/-- A reed fires or issues: with STALL_EN set it may have counted stalls before (R162; log entry 67). -/
def State.noteIssue (s : State) (d r : Nat) : State :=
  if s.stallEn d then
    s.updFab d fun f => f.setReed r { f.reed r with waits := (f.reed r).waits + 1 }
  else s

/-- REED_FIRING (R145, R146): an armed COMPUTE reed whose firing set is present and whose outputs have credit runs its main
body and steps its counters. A body that would read an uncorrectable granule stops the reed instead (R173; log entry 162). -/
def execReedFiring (d : Die) (r : Reed) (s : State) : Host.Outcome State Fault Refusal :=
  if s.still then .next s else
  let s0 := s.loadLimits d r
  let rec0 := s0.recOf d r
  let x := (s0.fabD d).reed r
  let b := rrMain rec0
  if rrKind rec0 ≠ 1 || !armed rec0 x || !countersReady rec0 x || !((firingSet rec0).all fun p => (s0.portHead d r p).isSome) ||
      !s0.credit d r b 0 then .next s0
  else if s0.lsPoison d r b then .next (s0.lsUncorrectable d r)
  else
    let s1 := (s0.noteIssue d r).body d r b
    let y := (s1.fabD d).reed r
    let s2 := s1.setFab d ((s1.fabD d).setReed r { stepCounters rec0 y 0 with firings := y.firings + 1 })
    .next (s2.settle d)

/-- The body that the wrap of a counter triggers: the wrap body of a COMPUTE reed at WRAP_CNT; steering reeds have no body (R150, R152). -/
def wrapBody (rec0 : List Nat) (c : Nat) : List RInstr := if rrWrapCnt rec0 = c && rrKind rec0 = 1 then rrWrap rec0 else []
/-- The wrap of a counter ends the run that GO armed (R145). -/
def endsRun (rec0 : List Nat) (c : Nat) : Bool := rrWrapCnt rec0 = c && rrGoReq rec0
/-- The tokens that the wrap of a counter emits: END, and DONE where it ends a run (R145, R150). -/
def wrapTokens (rec0 : List Nat) (c : Nat) : Nat := b2n (rrEmitEnd rec0 c) + b2n (endsRun rec0 c && rrDoneEn rec0)
/-- A reed with counters of its own: COMPUTE and the steering kinds. -/
def hasCounters (rec0 : List Nat) : Bool := decide (1 ≤ rrKind rec0 ∧ rrKind rec0 ≤ 4)

/-- COUNTER_WRAP (R145, R150): a counter at its limit returns to 0, emits END, steps the next counter, and as WRAP_CNT
triggers the wrap body; a run armed by GO then ends with DONE. A counter that the end of a run has brought to its limit still wraps. -/
def execCounterWrap (d : Die) (r : Reed) (c : Fin 4) (s : State) : Host.Outcome State Fault Refusal :=
  if s.still then .next s else
  let s0 := s.loadLimits d r
  let rec0 := s0.recOf d r
  let x := (s0.fabD d).reed r
  let b := wrapBody rec0 c
  if !hasCounters rec0 || x.stopped || !(x.cnt c).due || !s0.credit d r b (wrapTokens rec0 c) then .next s0
  else if s0.lsPoison d r b then .next (s0.lsUncorrectable d r)
  else
    let x1 := x.setCnt c Counter.zero
    let x2 := if c.val + 1 < 4 ∧ rrStepOn rec0 (c.val + 1) = 1 then stepCounter rec0 x1 (c.val + 1) else x1
    let s1 := s0.setFab d ((s0.fabD d).setReed r x2)
    let s2 := if rrEmitEnd rec0 c then s1.pushOut d r 10 (tokenEntry 4 (rrEndTag rec0 c)) else s1
    let s3 := (s2.noteIssue d r).body d r b
    let s4 := if endsRun rec0 c then
        let s5 := s3.setFab d ((s3.fabD d).setReed r { (s3.fabD d).reed r with armed := false })
        if rrDoneEn rec0 then s5.pushOut d r 10 (tokenEntry 6 (rrDoneTag rec0)) else s5
      else s3
    .next (s4.settle d)

/-- A GO has armed a reed: counters that step on GO, and a WRAP_CNT with a limit of 0 wraps at once (R150, R151). -/
def armReed (rec0 : List Nat) (x : ReedRun) : ReedRun :=
  let y := stepCounters rec0 { x with armed := true, stopped := false } 2
  let w := rrWrapCnt rec0
  if rrFromSi rec0 w || rrLimit rec0 w ≠ 0 then y else y.setCnt w { count := 0, limit := none, due := true }

/-- A GO, END or DONE token at the head of a reed's TI (R145, R149, R153): it arms a reed that asks for GO and does not run;
a reed that consumes none, or another tag, makes it invalid. -/
def State.goAtReed (s : State) (d r kind : Nat) : State :=
  match s.portHead d r 6 with
  | none => s
  | some e =>
    if e.bits / 16 % 16 ≠ kind then s
    else
      let rec0 := s.recOf d r
      let x := (s.fabD d).reed r
      if !rrGoReq rec0 || e.bits % 16 ≠ rrGoTag rec0 then
        ((s.popPort d r 6).tokenInvalid d r 6 (e.bits % 256)).settle d
      else if x.armed then s
      else
        let s1 := s.popPort d r 6
        ((s1.setFab d ((s1.fabD d).setReed r (armReed rec0 ((s1.fabD d).reed r)))).settle d)

/-- A GO, END or DONE token at the head of a stream port's control queue (R143, R153). -/
def State.goAtPort (s : State) (d p kind : Nat) : State :=
  let f := s.fabD d
  match (f.queue (spKey p 2)).items with
  | [] => s
  | e :: es =>
    let r := s.spRec d (s.activeOf d) p
    let x := f.port p
    let s1 := fun y : SpRun => s.setFab d ((f.setQueue (spKey p 2) { items := es, taken := [] }).setPort p y)
    if e.bits / 16 % 16 ≠ kind then s
    else if e.bits % 16 ≠ sprGoTag r || sprDir r = 0 then ((s1 x).tokenInvalid d (spWho p) 6 (e.bits % 256)).settle d
    else if x.go || x.active then s
    else (s1 { x with go := true }).settle d

/-- A token at the head of a Chanter port: PHASE and DONE reach the Chanter, any other is not consumed there (R144, R149,
R153). -/
def State.tokenAtChanter (s : State) (d c kind : Nat) : State :=
  let f := s.fabD d
  match (f.queue (cpKey c 2)).items with
  | [] => s
  | e :: es =>
    let f1 := f.setQueue (cpKey c 2) { items := es, taken := [] }
    if e.bits / 16 % 16 ≠ kind then s
    else if kind = 5 ∨ kind = 6 then (s.setFab d { f1 with tokens := f1.tokens ++ [(c, e.bits % 256)] }).settle d
    else ((s.setFab d f1).tokenInvalid d 0xFFFF 6 (e.bits % 256)).settle d

/-- A token of a kind that its receiver does not consume is invalid (R153). -/
def State.wrongKind (s : State) (d : Nat) (t : TokenTarget) (kind : Nat) : State :=
  match t with
  | .reed r =>
    match s.portHead d r 6 with
    | none => s
    | some e => if e.bits / 16 % 16 = kind then ((s.popPort d r 6).tokenInvalid d r 6 (e.bits % 256)).settle d else s
  | .port p =>
    let f := s.fabD d
    (match (f.queue (spKey p 2)).items with
     | [] => s
     | e :: es => if e.bits / 16 % 16 = kind then
         ((s.setFab d (f.setQueue (spKey p 2) { items := es, taken := [] })).tokenInvalid d (spWho p) 6 (e.bits % 256)).settle d
       else s)
  | .chanter c => s.tokenAtChanter d c kind

/-- GO_TOKEN, END_TOKEN and DONE_TOKEN share one treatment at reeds and stream ports (R149). -/
def State.goToken (s : State) (d : Nat) (t : TokenTarget) (kind : Nat) : State :=
  match t with
  | .reed r => s.goAtReed d r kind
  | .port p => s.goAtPort d p kind
  | .chanter c => s.tokenAtChanter d c kind

/-- GO_TOKEN (R145, R149). -/
def execGoToken (d : Die) (t : TokenTarget) (s : State) : Host.Outcome State Fault Refusal :=
  if s.still then .next s else
  .next (s.goToken d t 1)

/-- END_TOKEN (R149): treated as GO by its receiver. -/
def execEndToken (d : Die) (t : TokenTarget) (s : State) : Host.Outcome State Fault Refusal :=
  if s.still then .next s else
  .next (s.goToken d t 4)

/-- DONE_TOKEN (R149): reaches the Chanter, or is treated as GO by a reed or port. -/
def execDoneToken (d : Die) (t : TokenTarget) (s : State) : Host.Outcome State Fault Refusal :=
  if s.still then .next s else
  .next (s.goToken d t 6)

/-- PHASE_TOKEN (R149, R153): reaches the Chanter; no reed or port consumes it. -/
def execPhaseToken (d : Die) (t : TokenTarget) (s : State) : Host.Outcome State Fault Refusal :=
  if s.still then .next s else
  .next (s.wrongKind d t 5)

/-- A steering reed may take its next entry: it is armed, and its counters have their limits and none is about to wrap (R145, R150). -/
def State.steers (s : State) (d r : Nat) : Bool :=
  let rec0 := s.recOf d r
  armed rec0 ((s.fabD d).reed r) && countersReady rec0 ((s.fabD d).reed r)

/-- A steering reed has passed one entry of a run of `n`: at the end of the run it has fired, its counters step and the token is consumed
(R149, R150, R152; log entry 165). -/
def State.steered (s0 : State) (d r n : Nat) : State :=
  let s := s0.noteIssue d r
  let x := (s.fabD d).reed r
  if n ≤ x.runPos + 1 then
    ((s.setFab d ((s.fabD d).setReed r
      { stepCounters (s.recOf d r) x 0 with runPos := 0, firings := x.firings + 1 })).popPort d r 6).settle d
  else (s.setFab d ((s.fabD d).setReed r { x with runPos := x.runPos + 1 })).settle d

/-- SEL (R152, R153): an armed SELECT or MERGE reed pairs the token with the next entry of the input it names; a MERGE keeps the
token for a run. A SEL at another receiver, or for an input without a source, is invalid. -/
def execSel (d : Die) (t : TokenTarget) (s : State) : Host.Outcome State Fault Refusal :=
  if s.still then .next s else
  match t with
  | .reed r =>
    let s0 := s.loadLimits d r
    (match s0.portHead d r 6 with
     | none => .next s0
     | some e =>
       let rec0 := s0.recOf d r
       let i := e.bits % 16
       if e.bits / 16 % 16 ≠ 2 then .next s0
       else if (rrKind rec0 ≠ 2 && rrKind rec0 ≠ 3) || decide (4 ≤ i) || rrVi rec0 i = 0 then .next (s0.wrongKind d t 2)
       else
         match s0.portHead d r i with
         | none => .next s0
         | some x =>
           if s0.outCredit d r 7 = 0 || !s0.steers d r then .next s0
           else .next (((s0.popPort d r i).pushOut d r 7 x).steered d r (if rrKind rec0 = 2 then 1 else rrRun rec0)))
  | _ => .next (s.wrongKind d t 2)

/-- BR (R152, R153): an armed BRANCH reed steers the next entry of a run from VI0 to the output that the token names, or discards
it; the token stays for the run. -/
def execBr (d : Die) (t : TokenTarget) (s : State) : Host.Outcome State Fault Refusal :=
  if s.still then .next s else
  match t with
  | .reed r =>
    let s0 := s.loadLimits d r
    (match s0.portHead d r 6 with
     | none => .next s0
     | some e =>
       let rec0 := s0.recOf d r
       let i := e.bits % 16
       if e.bits / 16 % 16 ≠ 3 then .next s0
       else if rrKind rec0 ≠ 4 || decide (3 ≤ i) then .next (s0.wrongKind d t 3)
       else
         match s0.portHead d r 0 with
         | none => .next s0
         | some x =>
           if decide (i < 2 ∧ s0.outCredit d r (7 + i) = 0) || !s0.steers d r then .next s0
           else
             let s1 := s0.popPort d r 0
             .next ((if i < 2 then s1.pushOut d r (7 + i) x else s1).steered d r (rrRun rec0)))
  | _ => .next (s.wrongKind d t 3)

/-- The first output that lacks credit for the pushes of a body and for `tok` further tokens; none where all have it (R145). -/
def State.lacking (s : State) (d r : Nat) (b : List RInstr) (tok : Nat) : Option Nat :=
  [7, 8, 9, 10].find? fun p =>
    let n := bodyPushes b p + (if p = 10 then tok else 0)
    n ≠ 0 && decide (s.outCredit d r p < n)

/-- The sources of a reed, with an entry at their heads, of which a consumer among the outgoing links and the balance buffer waits for room:
for a BUFFER or ROUTE reed. -/
def State.heldSources (s : State) (d r : Nat) : List Nat :=
  let f := s.fabD d
  let rec0 := s.recOf d r
  ([0, 1, 2, 3, 4, 7, 8, 9, 10, 11, 16, 17, 18, 19] : List Nat).filter fun src =>
    (consumers rec0 src).any fun c => ((f.queue (qKey r src)).headFor c).isSome &&
      (match targetOf rec0 r c with | some (k, cap) => decide (cap ≤ (f.queue k).items.length) | none => false)

/-- Why a reed stalls (R162): (cause, port), with cause 0 none, 1 input-empty, 2 output-full, 3 token-wait. A reed that is able to fire, or
whose token is invalid, does not stall. A BUFFER or ROUTE reed has no port of R172: it waits where an entry finds no room to go on (log
entry 163). -/
def State.stall (s : State) (d r : Nat) : Nat × Nat :=
  let rec0 := s.recOf d r
  let x := (s.fabD d).reed r
  let has := fun p : Nat => (s.portHead d r p).isSome
  let none' : Nat × Nat := (0, 0xFF)
  let full := fun (b : List RInstr) (tok : Nat) => match s.lacking d r b tok with | some p => (2, p) | none => none'
  if !armed rec0 x then none'
  else if 5 ≤ rrKind rec0 then (if (s.heldSources d r).isEmpty then none' else (2, 0xFF))
  else match [0, 1, 2, 3].find? fun i => (x.cnt i).due with
  | some i => full (wrapBody rec0 i) (wrapTokens rec0 i)
  | none =>
    let limit := if countersReady rec0 x then [] else [5]
    match rrKind rec0 with
    | 1 =>
      let need := firingSet rec0 ++ limit
      (match need.find? fun p => !has p with
       | some p => if need.any has then (1, p) else none'
       | none => full (rrMain rec0) 0)
    | 2 => steer s rec0 has limit
    | 3 => steer s rec0 has limit
    | 4 =>
      (match s.portHead d r 6, has 0 with
       | some e, true => if limit.any fun p => !has p then (1, 5)
           else if e.bits / 16 % 16 = 3 && decide (e.bits % 16 < 2 ∧ s.outCredit d r (7 + e.bits % 16) = 0) then (2, 7 + e.bits % 16) else none'
       | some e, false => if e.bits / 16 % 16 = 3 then (1, 0) else none'
       | none, true => (3, 6)
       | none, false => none')
    | _ => none'
where
  /-- A SELECT or MERGE reed. -/
  steer (s : State) (rec0 : List Nat) (has : Nat → Bool) (limit : List Nat) : Nat × Nat :=
    match s.portHead d r 6 with
    | some e =>
      let i := e.bits % 16
      if e.bits / 16 % 16 ≠ 2 || decide (4 ≤ i) || rrVi rec0 i = 0 then (0, 0xFF)
      else if !has i then (1, i)
      else if limit.any fun p => !has p then (1, 5)
      else if s.outCredit d r 7 = 0 then (2, 7) else (0, 0xFF)
    | none => if [0, 1, 2, 3].any has then (3, 6) else (0, 0xFF)

/-- WD_EN, WD_LIMIT and WD_ARM of a fabric. -/
def State.wdEn (s : State) (d : Nat) : Bool := (s.rwAt (regAddr (Page.fab d) 0x104)).getLsbD 0
def State.wdLimit (s : State) (d : Nat) : Nat := (s.rwAt (regAddr (Page.fab d) 0x110)).toNat
def State.wdArm (s : State) (d : Nat) : Nat := (s.rwAt (regAddr (Page.fab d) 0x114)).toNat

/-- The queue byte of a payload (R172) for an incoming link of a reed, by its source code. -/
def queueByte (c : Nat) : Nat :=
  if c = 4 then 0xF
  else if c < 4 then c * 4
  else if 8 ≤ c ∧ c < 12 then 1 + (c - 8) * 4
  else if 16 ≤ c ∧ c < 20 then 2 + (c - 16) * 4
  else 0xFF

/-- The outgoing link with the least room that a source of a reed feeds: the room, its queue byte, the direction being that in which the link
leaves the reed, and the entries that wait there (R172; log entry 163). -/
def State.fullQueue (s : State) (d r src : Nat) : Option (Nat × Nat × Nat) :=
  let rec0 := s.recOf d r
  let links := (consumers rec0 src).filterMap fun c =>
    (targetOf rec0 r c).map fun k =>
      let n := ((s.fabD d).queue k.1).items.length
      (k.2 - n, if c < 24 then c / 8 + 4 * (c % 8) else if c = 24 then 0xF else 0xFF, n)
  match links with
  | [] => none
  | l :: ls => some (ls.foldl (fun a b => if b.1 < a.1 then b else a) l)

/-- The queue that is empty or full behind a stall, and its occupancy (R163, R172). -/
def State.stallQueue (s : State) (d r : Nat) (st : Nat × Nat) : Nat × Nat :=
  let rec0 := s.recOf d r
  let f := s.fabD d
  if st.1 = 2 then
    let srcs := if st.2 = 0xFF then s.heldSources d r else [outSrc st.2]
    ((srcs.findSome? (s.fullQueue d r)).map Prod.snd).getD (0xFF, (f.queue (qKey r (outSrc st.2))).items.length)
  else match portSrc rec0 st.2 with
    | some c => (queueByte c, (f.queue (qKey r c)).items.length)
    | none => (0xFF, 0)

/-- The micro-batch of the phase that armed a watchdog group, where one did (R163, R172; log entry 84). -/
def State.armedMb (s : State) (d g : Nat) : Nat :=
  let c := s.chD d
  match [c.fwd, c.bwd].find? fun p => match p with | some r => r.armed.testBit g | none => false with
  | some (some r) => urMb (c.unit r.unit).info
  | _ => noMb

/-- FAB_STARVE (R163, R164): a reed whose group is armed has counted a stall for WD_LIMIT ac. Every expiry is counted; the
first sixteen are logged; the die halts and its Chanter stops (R201). -/
def execFabStarve (d : Die) (r : Reed) (s : State) : Host.Outcome State Fault Refusal :=
  if s.still then .next s else
  let rec0 := s.recOf d r
  let st := s.stall d r
  if !s.wdEn d || s.wdLimit d = 0 || !(s.wdArm d).testBit (rrGroup rec0) || st.1 = 0 then .next s
  else
    let f := s.fabD d
    let q := s.stallQueue d r st
    let pl := fabPayload r st.2 q.1 st.1 q.2 (s.wdLimit d) 0 (s.armedMb d (rrGroup rec0))
    let s1 := (s.setFab d { f with halted := true, log := if f.log.length < 16 then f.log ++ [pl] else f.log }).count
      (regAddr (Page.fab d) 0x50) 1
    .next ((s1.raise (Page.fab d) Code.fabStarve pl).abandonStep d Code.fabStarve true)

end Sys2Proof.Machine
end

