-- ==== Sys2Proof/Machine/Chanter.lean ====
section
/-! DEFINITION. The Chanter: the step, the 1F1B order, the operations of the phase programs, the release point and the
disposition of held micro-batches (R178, R180 to R187, R194 to R201, R264). -/

namespace Sys2Proof.Machine

/-- A phase run at the start of a program. -/
def phaseAt (unit pc : Nat) : PhaseRun := { unit := unit, pc := pc, armed := 0, waiting := false, slots := [] }

/-- The Chanter may issue (R164, R201); between the sampling of a swap and its end its ports are blocked (R167). -/
def State.mayIssue (s : State) (d : Nat) : Bool :=
  let c := s.chD d
  c.inStep && !c.stopped && !c.abandoned && !(s.fabD d).halted && decide ((s.fabD d).due = 0)

/-- The layers of a die's active step program. -/
def State.layers (s : State) (d : Nat) : List Nat := List.range (s.layerCount d (s.activeOf d))
def State.frozen (s : State) (d l : Nat) : Bool := s.layerFrozen d (s.activeOf d) l

/-- The Chanter of a die at the start of a step that began at the present tick (R183, R187): what belongs to the step is
cleared, CUR and the place in the ingest queue stay. -/
def ChDie.beginStep (c : ChDie) (tick : Nat) : ChDie :=
  { ChDie.reset with cur := c.cur, ingSeq := c.ingSeq, stageOff := c.stageOff, stepTick := tick }

/-- STEP_START (R180, R183, R187): after seal processing, and after a swap that takes place at that seal, the die runs the
step-start program. PKG_STAGE_OFF is read here. -/
def execStepStart (d : Die) (s : State) : Host.Outcome State Fault Refusal :=
  let c := s.chD d
  let f := s.fabD d
  if s.ctl.state ≠ .running || decide (s.ctl.stepDue ≠ 0) || c.inStep || c.abandoned || decide (f.due ≠ 0) || !f.placed then .next s
  else
    let off := fld (s.rwAt (regAddr (Page.die d) 0x108)) 5 0
    .next (s.setCh d { c with
      inStep := true, stageOff := off, start := some (phaseAt noUnit (s.phaseOff d f.activeSet .start)) })

/-- Units forwarded and not finished backward (IN_FLIGHT_NOW). -/
def ChDie.inFlight (c : ChDie) : Nat := (c.units.cells.filter fun x => x.2.fwd && !x.2.bwd).length

/-- The admission rule of R181 for unit `k` with `n` segments. -/
def State.admits (s : State) (d k n : Nat) : Bool :=
  let c := s.chD d
  let set := s.activeOf d
  let fl := s.inFlight d set
  let w := min (s.stagesOf d set - s.stage d) (min fl (s.mbPlan d set))
  (decide (k < fl) || (c.unit (k - fl)).bwd) && decide (c.inFlight < max w n)

/-- ING_BASE, ING_DEPTH and ING_EN of a die (R310). -/
def State.ingBase (s : State) (d : Nat) : Nat :=
  ((s.shAt (regAddr (Page.die d) 0x190)).toNat + 2 ^ 32 * fld (s.shAt (regAddr (Page.die d) 0x194)) 7 0) * 64
def State.ingDepth (s : State) (d : Nat) : Nat := fld (s.shAt (regAddr (Page.die d) 0x194)) 15 8
def State.ingEn (s : State) (d : Nat) : Bool := bitOf (s.shAt (regAddr (Page.die d) 0x194)).toNat 16

/-- The address of ingest queue entry `q` (R310). -/
def State.ingEntry (s : State) (d q : Nat) : Nat := s.ingBase d + 128 * (q % max 1 (s.ingDepth d))

/-- An entry stands in the queue with this sequence number and the present step (R310); memory that nothing has written, which reads 0, is no
entry (log entry 9). -/
def State.ingPresent (s : State) (d q : Nat) : Bool :=
  (decide (q < s.ing.head.get 0 d) || decide (s.natAt (s.ingEntry d q) 16 ≠ 0)) && s.natAt (s.ingEntry d q + 12) 4 = q % 2 ^ 32 &&
    s.natAt (s.ingEntry d q + 8) 4 = s.ctl.stepNo % 2 ^ 32

/-- The sixteen words of the unit record of a queue entry (R310). -/
def State.ingRecord (s : State) (d q : Nat) : List Nat :=
  (List.range 16).map fun i => s.natAt (s.ingEntry d q + 64 + 4 * i) 4

/-- The units of a micro-batch of T tokens that is split (R194). -/
def segments (r : List Nat) (t b n ord : Nat) : List (List Nat) :=
  (List.range n).map fun j =>
    unitRecord (urMb r) j n (urVariant r) (j * b) (ord + j) (min b (t - j * b) :: (List.range 11).map fun i => urExtent r (i + 1))

/-- A unit of T tokens exceeds a planned extent (R129, R196): in the forward program an MPD takes E0 from a live extent slot for a level
whose plan or largest bucket is smaller. -/
def State.planOver (s : State) (d t : Nat) : Bool :=
  let set := s.activeOf d
  let ops := (s.opsFrom d set (2 ^ 20) (s.phaseOff d set .forward)).getD []
  (ops.foldl (fun (a : List (Nat × Nat) × Bool) w =>
    match opOf w with
    | 2 =>
      let others := a.1.filter fun q => q ≠ (opTarget w, opSel w)
      (if opArg w % 16 = 0 then (opTarget w, opSel w) :: others else others, a.2)
    | 1 =>
      let r := s.issueRec d set w
      (a.1, a.2 || (bitsOf (r.getD 0 0) 3 0 ≠ 2 && (List.range 5).any fun i => a.1.contains (opTarget w, mpdSrc r i) &&
        (if isBucketLvl r i then (bucketOf r t).isNone else decide (mpdPlan r i < t))))
    | _ => a) ([], false)).2

/-- Stage 0 takes the next micro-batch from the ingest queue (R194, R196, R310): it is split, runs whole above the budget,
or is held with PIPE_SEG_OVER. One that exceeds a planned extent is left to the engine that refuses it, with no PIPE_LONG_MB. -/
def State.takeIngest (s : State) (d : Nat) : State :=
  let c := s.chD d
  let set := s.activeOf d
  if !s.ingEn d || !s.ingPresent d c.ingSeq then s
  else
    let r := s.ingRecord d c.ingSeq
    let t := urExtent r 0
    let budget := s.tokenBudget d set
    let c1 := { c with ingSeq := c.ingSeq + 1, taken := c.taken + 1 }
    let whole := unitRecord (urMb r) 0 1 (urVariant r) 0 c.nextOrd ((List.range 12).map (urExtent r))
    if decide (t ≤ budget) then s.setCh d { c1 with formed := c1.formed ++ [whole], nextOrd := c.nextOrd + 1 }
    else if s.segEn d set && !s.segOff d then
      let b := budget - budget % max 1 (s.segAlign d set)
      let n := if b = 0 then 0 else ceilDiv t b
      if b = 0 || decide (s.segMax d set < n) then
        let u := unitRecord (urMb r) 0 1 (urVariant r) 0 0xFFFF ((List.range 12).map (urExtent r))
        ((s.setCh d c1).pipeRaise d Code.pipeSegOver (some u) 0xFF 0 t).holdMb d u Code.pipeSegOver false true 0xFF
      else
        let us := segments r t b n c.nextOrd
        ((s.setCh d { c1 with formed := c1.formed ++ us, nextOrd := c.nextOrd + n }).count (regAddr (Page.die d) 0x48) 1).pipeRaise
          d Code.pipeSegmented us.head? 0xFF 0 t
    else if s.planOver d t then s.setCh d { c1 with formed := c1.formed ++ [whole], nextOrd := c.nextOrd + 1 }
    else
      ((s.setCh d { c1 with formed := c1.formed ++ [whole], nextOrd := c.nextOrd + 1 }).count (regAddr (Page.die d) 0x4C) 1).pipeRaise
        d Code.pipeLongMb (some whole) 0xFF 0 t

/-- The boundary entry of a unit in a die's inbox: its entry index and its record. -/
def ChDie.entryOf (c : ChDie) (back : Bool) (ord : Nat) : Option (Nat × List Nat) :=
  (c.inbox.find? fun x => x.1 = back && urOrdinal x.2.2 = ord).map Prod.snd

/-- The inbox without that entry. -/
def ChDie.dropEntry (c : ChDie) (back : Bool) (ord : Nat) : ChDie :=
  { c with inbox := c.inbox.filter fun x => !(x.1 = back && urOrdinal x.2.2 = ord) }

/-- The first forward admission of a segmented micro-batch tells the Proofers (R241). -/
def State.noteSegments (s : State) (d : Nat) (u : List Nat) : State :=
  let c := s.chD d
  if decide (1 < urSegCount u) && !c.segSent.contains (urMb u) then
    (s.setCh d { c with segSent := c.segSent ++ [urMb u] }).notifyBoth .segment d (urMb u) (urSegCount u)
  else s

/-- The next unit whose forward phase may start, with the boundary entry it came in plus one, 0 for none (R180, R181). -/
def State.nextForward (s : State) (d : Nat) : Option (List Nat × Nat) :=
  let c := s.chD d
  if s.stage d = 0 then c.formed.head?.map fun u => (u, 0)
  else (c.entryOf false c.fwdNext).map fun x => (x.2, x.1 + 1)

/-- FORWARD_PHASE (R180, R181, R241): the next unit's forward phase starts when its inputs are present and the 1F1B rule
admits it. A micro-batch that is held lets nothing pass it (R198). -/
def execForwardPhase (d : Die) (s : State) : Host.Outcome State Fault Refusal :=
  let c0 := s.chD d
  if !s.mayIssue d || c0.start.isSome || !c0.started || c0.fwd.isSome || (c0.holds.any fun h => h.past.isSome) then .next s
  else
    let s1 := if s.stage d = 0 && c0.formed.isEmpty then s.takeIngest d else s
    match s1.nextForward d with
    | none => .next s1
    | some (u0, entry) =>
      let c := s1.chD d
      let u := if c.dropped.contains (urMb u0) && !urDropped u0 then zeroRecord u0 else u0
      let k := c.fwdNext
      if !s1.admits d k (urSegCount u) || c.isHeld (urMb u) then .next s1
      else
        let c1 := (if s1.stage d = 0 then { c with formed := c.formed.drop 1 } else c.dropEntry false k).setUnit k
          { info := u, fwd := false, bwd := false, finB := entry, binB := 0 }
        let pc := s1.phaseOff d (s1.activeOf d) .forward
        .next ((s1.setCh d { c1 with fwd := some (phaseAt k pc) }).noteSegments d u)

/-- The ordinal at position `p` of the backward list: the units of one micro-batch run from the last segment to the first
(R181). -/
def ChDie.backAt (c : ChDie) (p : Nat) : Nat :=
  let u := (c.unit p).info
  if u.isEmpty then p else p - urSeg u + (max 1 (urSegCount u) - 1 - urSeg u)

/-- BACKWARD_PHASE (R180, R181): the next unit of the backward list starts when its forward phase has ended and, before
the last stage, its output gradient has arrived. A zero record that comes back takes the place of the unit's own
(R199). -/
def execBackwardPhase (d : Die) (s : State) : Host.Outcome State Fault Refusal :=
  let c := s.chD d
  if !s.mayIssue d || c.start.isSome || !c.started || c.bwd.isSome then .next s
  else
    let k := c.backAt c.bwdNext
    let u := c.unit k
    let set := s.activeOf d
    let last := decide (s.stagesOf d set ≤ s.stage d + 1)
    let inp := if last then some (0, u.info) else (c.entryOf true k).map fun x => (x.1 + 1, x.2)
    match inp with
    | none => .next s
    | some (entry, r) =>
      if u.info.isEmpty || !u.fwd || u.bwd || c.isHeld (urMb u.info) then .next s
      else
        let c1 := (if last then c else c.dropEntry true k).setUnit k
          { u with info := if urDropped r then zeroRecord u.info else u.info, binB := entry }
        .next (s.setCh d { c1 with bwd := some (phaseAt k (s.phaseOff d set .backward)) })

/-- Run `act` on the operation that a phase program stands at, if it is `code` and the Chanter may issue it; a held
micro-batch issues nothing (R178, R198). -/
def State.chOp (s : State) (d : Nat) (p : Phase) (code : Nat) (act : PhaseRun → List Nat → State) : State :=
  let c := s.chD d
  match c.phase p with
  | none => s
  | some r =>
    let w := s.opAt d (s.activeOf d) r.pc
    if !s.mayIssue d || r.waiting || opOf w ≠ code || (p ≠ .start && c.isHeld (urMb (c.unit r.unit).info)) then s
    else act r w

/-- The phase program moves past its operation. -/
def State.pass (s : State) (d : Nat) (p : Phase) (r : PhaseRun) : State :=
  s.updCh d fun c => c.setPhase p (some { r with pc := r.pc + 16 })

/-- The current slot of a layer (R184): a FROZEN layer has one slot. -/
def State.currentSlot (s : State) (d l : Nat) : Nat := if s.frozen d l then 0 else (s.chD d).cur.get 0 l

/-- The offset that FIX adds for an operation (R178): the current slot's offset from slot 0, the variant, the stash entry,
the boundary entry (log entry 37). -/
def State.fixOffset (s : State) (d : Nat) (p : Phase) (r : PhaseRun) (w : List Nat) : Nat :=
  let set := s.activeOf d
  let c := s.chD d
  let u := c.unit r.unit
  let l := opLayer w
  let fix := opFix w
  let slot := if bitOf fix 0 then
      s.layerSlot d set l (s.currentSlot d l) + 2 ^ 46 - s.layerSlot d set l 0 else 0
  let var := if bitOf fix 1 then urVariant u.info * s.varStride d set l else 0
  let stash := if bitOf fix 2 then r.unit % max 1 (s.inFlight d set) * opArg2 w else 0
  let bnd := if bitOf fix 3 then
      (if p = .backward then u.binB - 1 else u.finB - 1) * s.bndStride d set else 0
  slot + var + stash + bnd

/-- BASE of descriptor `k` of a descriptor record moved by an offset in bytes (R111, R112). -/
def fixDescriptor (w : List Nat) (k off : Nat) : List Nat :=
  let lo := w.getD (8 + 8 * k) 0
  let hi := w.getD (9 + 8 * k) 0
  let b := (lo + 2 ^ 32 * bitsOf hi 7 0 + off / 64) % 2 ^ 40
  (w.set (8 + 8 * k) (b % 2 ^ 32)).set (9 + 8 * k) (putBits hi 7 0 (b / 2 ^ 32))

/-- The word of an MPD that ORG_LVL names: M_ORG, K_ORG or N_ORG (R178). -/
def orgWord (lvl : Nat) : Nat := match lvl with | 1 => 9 | 2 => 10 | _ => 8

/-- ISSUE (R178): the record, after FIX, ORG_LVL and MB_INDEX, is offered to the engine; the operation completes with the
engine's answer. An engine takes one offer at a time. The step-start program has no unit: the MB_INDEX of its MPDs is not
stated, a free value (log entry 38). -/
def execIssue (d : Die) (p : Phase) (s : State) : Host.Outcome State Fault Refusal :=
  .next (s.chOp d p 1 fun r w =>
    let e := opTarget w
    let x := s.engD d e
    if !x.offer.isEmpty then s
    else
      let rec0 := s.issueRec d (s.activeOf d) w
      let u := ((s.chD d).unit r.unit).info
      let none' := p = .start
      let mpd := bitsOf (rec0.getD 0 0) 3 0 ≠ 2
      let mb := if bitOf (opArg2 w) 0 && !bitOf (opFix w) 2 then 0xFFF
        else if none' then (s.fresh 12).toNat else urMb u
      let lvl := opOrgLvl w
      let w1 :=
        if mpd then
          let w2 := rec0.set 12 (putBits (rec0.getD 12 0) 11 0 mb)
          if lvl = 0 then w2
          else w2.set (orgWord lvl) (putBits (w2.getD (orgWord lvl) 0) 19 0 (w2.getD (orgWord lvl) 0 % 2 ^ 20 + urSegOrg u))
        else [0, 1, 2].foldl (fun v k =>
          if bitOf (opDescMask w) k then fixDescriptor v k (s.fixOffset d p r w) else v) rec0
      let s1 := (s.setEng d e { x with offer := w1 }).updCh d fun c => c.setPhase p (some { r with waiting := true })
      if none' then s1.used else s1)

/-- EXTENT (R125, R178): an extent of the unit goes into a live extent slot of the engine. -/
def execExtent (d : Die) (p : Phase) (s : State) : Host.Outcome State Fault Refusal :=
  .next (s.chOp d p 2 fun r w =>
    let x := s.engD d (opTarget w)
    let v := urExtent ((s.chD d).unit r.unit).info (opArg w % 16)
    let slot := (opTarget w, opSel w)
    let other := fun q : PhaseRun => { q with slots := q.slots.filter fun z => z ≠ slot }
    let s1 := (s.setEng d (opTarget w) { x with lx := x.lx.set 0 (opSel w) v }).updCh d fun c =>
      { c with fwd := c.fwd.map other, bwd := c.bwd.map other }
    s1.pass d p { r with slots := slot :: r.slots.filter fun z => z ≠ slot })

/-- The reed whose north links a Chanter port serves (R144). -/
def cpReed (c : Nat) : Nat := 64 * (6 * c + 3)

/-- GO (R144, R178): a GO token leaves on a Chanter port once the reed's queue has room. -/
def execGo (d : Die) (p : Phase) (s : State) : Host.Outcome State Fault Refusal :=
  .next (s.chOp d p 3 fun r w =>
    let f := s.fabD d
    let k := qKey (cpReed (opTarget w)) 16
    if netDepth 2 ≤ (f.queue k).items.length then s
    else ((s.setFab d (f.setQueue k ((f.queue k).push (tokenEntry 1 (opSel w))))).pass d p r).settle d)

/-- The scalar that WORD sends (R178). -/
def State.wordValue (s : State) (d : Nat) (r : PhaseRun) (w : List Nat) : Nat :=
  let u := ((s.chD d).unit r.unit).info
  match opArg w with
  | 0 => opArg2 w
  | 1 => urExtent u (opArg2 w % 16)
  | 2 => urExtent u (opArg2 w % 16) + 2 ^ 20 * urMb u
  | _ => (s.fresh 32).toNat

/-- WORD (R144, R178): one scalar leaves on a Chanter port once the reed's queue has room. An ARG above 2 has no stated
value: a free value (log entry 38). -/
def execWord (d : Die) (p : Phase) (s : State) : Host.Outcome State Fault Refusal :=
  .next (s.chOp d p 4 fun r w =>
    let f := s.fabD d
    let k := qKey (cpReed (opTarget w)) 8
    if netDepth 1 ≤ (f.queue k).items.length then s
    else
      let e : Entry := { bits := s.wordValue d r w, plane := false, last := false }
      (((s.setFab d (f.setQueue k ((f.queue k).push e))).pass d p r).settle d).used (if 2 < opArg w then 1 else 0))

/-- WAIT (R178): for a DONE token on a Chanter port, which it consumes, or until every MPD already offered to an engine has
completed. -/
def execWait (d : Die) (p : Phase) (s : State) : Host.Outcome State Fault Refusal :=
  .next (s.chOp d p 5 fun r w =>
    if opArg w = 0 then
      let f := s.fabD d
      let t := (opTarget w, 0x60 + opSel w)
      if f.tokens.contains t then (s.setFab d { f with tokens := eraseFirst (· = t) f.tokens }).pass d p r else s
    else if (s.chD d).offers.any (fun o => o.eng = opTarget w) || !(s.engD d (opTarget w)).offer.isEmpty then s
    else s.pass d p r)

/-- ARM (R163, R178): WD_ARM takes ARG. -/
def execArm (d : Die) (p : Phase) (s : State) : Host.Outcome State Fault Refusal :=
  .next (s.chOp d p 6 fun r w =>
    let g := opArg w % 256
    (s.setRw (regAddr (Page.fab d) 0x114) (BitVec.ofNat 32 g)).pass d p { r with armed := g })

/-- The die of this package that runs a stage. -/
def State.dieOfStage (s : State) (st : Nat) : Option Nat := (List.range 4).find? fun d => s.stage d = st

/-- The valid conduits of a channel. -/
def State.conduitsOn (s : State) (vc : Nat) : List Nat :=
  (List.range 32).filter fun c => bitOf (s.conduitWord c 0) 0 && bitsOf (s.conduitWord c 0) 3 1 = vc

/-- RECV (R178): waits for the unit's incoming entry, or for the ingest queue: a phase starts only when its inputs are
present (R181). -/
def execRecv (d : Die) (p : Phase) (s : State) : Host.Outcome State Fault Refusal :=
  .next (s.chOp d p 8 fun r w =>
    let u := (s.chD d).unit r.unit
    let here := match opArg w with
      | 0 => decide (u.finB ≠ 0)
      | 1 => decide (u.binB ≠ 0)
      | _ => decide (s.stage d = 0 ∧ r.unit ≠ noUnit)
    if here then s.pass d p r else s)

/-- Every Proofer of a layer has sent its next-complete notice, or the layer is FROZEN (R187). -/
def State.nextOk (s : State) (d l : Nat) : Bool :=
  let set := s.activeOf d
  let need := s.layerProofers d set l % 4
  s.layerFrozen d set l || decide ((s.chD d).nextFrom.get 0 l &&& need = need)

/-- A layer takes up its next slot at the first moment at which it is released and complete (R187); no layer of a die whose
step is abandoned swaps (R201). -/
def State.trySwapLayer (s : State) (d l : Nat) : State :=
  let c := s.chD d
  if c.released.get false l && s.nextOk d l && !s.frozen d l && !c.swapped.get false l && !c.abandoned && !c.stopped then
    (s.setCh d { c with cur := c.cur.set 0 l (1 - c.cur.get 0 l), swapped := c.swapped.set false l true }).count
      (regAddr (Page.die d) 0x5C) 1
  else s

/-- The release point of a layer (R186, R187): its owners are told, and it swaps if it is complete. -/
def State.releaseLayer (s : State) (d l : Nat) : State :=
  let own := s.layerProofers d (s.activeOf d) l
  let s1 := [0, 1].foldl (fun t i => if bitOf own i then t.notify .release (2 * d + i) d l 0 else t) s
  s1.trySwapLayer d l

/-- A phase has offered an MPD with FIX bit 0 for a layer and waits for the engine's answer (R187). -/
def State.offering (s : State) (d l : Nat) : Bool :=
  let c := s.chD d
  let set := s.activeOf d
  ([c.start, c.fwd, c.bwd].filterMap id).any fun r =>
    let w := s.opAt d set r.pc
    r.waiting && opOf w = 1 && bitOf (opFix w) 0 && opLayer w = l && bitsOf ((s.issueRec d set w).getD 0 0) 3 0 ≠ 2

/-- DONE_LAYER (R186, R187): waits until every MPD offered with FIX bit 0 for the layer has completed; the last backward
unit of a micro-batch counts, and at MB_PLAN the layer is released. -/
def execDoneLayer (d : Die) (p : Phase) (s : State) : Host.Outcome State Fault Refusal :=
  .next (s.chOp d p 9 fun r w =>
    let l := opLayer w
    let c := s.chD d
    if (c.offers.any fun o => o.layer = some l) || s.offering d l then s
    else
      let n := c.done.get 0 l + b2n (decide (urSeg (c.unit r.unit).info = 0))
      let rel := decide (n = s.mbPlan d (s.activeOf d))
      let c1 := { c with done := c.done.set 0 l n, released := c.released.set false l (c.released.get false l || rel) }
      let s1 := (s.setCh d c1).pass d p r
      if rel && !c.released.get false l then s1.releaseLayer d l else s1)

/-- A boundary entry is free again (R182); one that came over a conduit is announced to its sender (R330). -/
def State.freeEntry (s : State) (d : Nat) (back : Bool) (entry : Nat) : State :=
  if entry = 0 then s
  else
    let i := entry - 1
    let s1 := s.updCh d fun c => { c with ringUsed := c.ringUsed.set 0 (b2n back) (c.ringUsed.get 0 (b2n back) - 1) }
    match s.col.held.find? fun x => x.1 = d && x.2.1 = back && x.2.2.1 = i with
    | none => s1
    | some x =>
      State.announceFree { s1 with col := { s1.col with
        held := s1.col.held.filter fun y => !(y.1 = d && y.2.1 = back && y.2.2.1 = i) } } x.2.2.2 i

/-- END (R178, R182, R183): the phase ends; its incoming boundary entry is freed and the unit's progress noted. -/
def execEnd (d : Die) (p : Phase) (s : State) : Host.Outcome State Fault Refusal :=
  .next (s.chOp d p 15 fun r _ =>
    let c := s.chD d
    let u := c.unit r.unit
    match p with
    | .start => s.setCh d { c with start := none, started := true }
    | .forward =>
      let c1 := (c.setUnit r.unit { u with fwd := true, finB := 0 })
      ((s.setCh d { c1 with fwd := none, fwdNext := c.fwdNext + 1 }).freeEntry d false u.finB).count
        (regAddr (Page.die d) 0x40) 1
    | .backward =>
      let c1 := (c.setUnit r.unit { u with bwd := true, binB := 0 })
      ((s.setCh d { c1 with bwd := none, bwdNext := c.bwdNext + 1 }).freeEntry d true u.binB).count
        (regAddr (Page.die d) 0x44) 1)

/-- The first notice of a kind that has reached its receiver, and the spine without it (R246). -/
def State.takeNotice (s : State) (kind : NoticeKind) (dest_ : Nat) : Option (Notice × State) :=
  match s.spine.notices.find? fun n => n.kind = kind && n.dest_ = dest_ with
  | none => none
  | some n =>
    if n.behind ≠ 0 then none
    else some (n, { s with spine := { s.spine with notices := eraseFirst (fun m => m.kind = kind && m.dest_ = dest_) s.spine.notices } })

/-- NEXT_COMPLETE (R187): a Proofer's notice for a layer arrives; the layer swaps once it is released and every Proofer has
sent its notice. -/
def execNextComplete (d : Die) (s : State) : Host.Outcome State Fault Refusal :=
  if s.still then .next s else
  match s.takeNotice .nextComplete d with
  | none => .next s
  | some (n, s1) =>
    let s2 := s1.updCh d fun c => { c with nextFrom := c.nextFrom.set 0 n.a (c.nextFrom.get 0 n.a ||| 2 ^ (n.sender % 2)) }
    .next (s2.trySwapLayer d n.a)

/-- A write of CH_DISPOSE (R199, R201): 1 drops the held micro-batch, 2 abandons the step; a DROP with nothing held and
any other action are ignored, and so is an ABANDON while no step runs; one that comes before the die has started the step abandons it (R338). With
several holds the oldest is meant, the one that HOLD_INFO shows (log entry 40). -/
def State.dispose (s : State) (d action : Nat) : State :=
  let c := s.chD d
  if action = 1 then
    match c.holds.head? with
    | none => s
    | some h => s.dropMb d h.mb h.cause
  else if action = 2 && (c.inStep || (s.ctl.state = .running && s.ctl.stepDue = 0)) then (s.updCh d fun c => { c with holds := [] }).abandonStep d 0 true
  else s

/-- DROP (R199). -/
def execDrop (d : Die) (s : State) : Host.Outcome State Fault Refusal := .next (s.dispose d 1)

/-- ABANDON (R199, R201). -/
def execAbandon (d : Die) (s : State) : Host.Outcome State Fault Refusal := .next (s.dispose d 2)

/-- HOLD_LIMIT_EXPIRY (R199): a hold has lasted HOLD_LIMIT ticks, and its micro-batch is dropped. -/
def execHoldLimitExpiry (d : Die) (s : State) : Host.Outcome State Fault Refusal :=
  if s.still then .next s else
  let lim := fld (s.rwAt (regAddr (Page.die d) 0x10C)) 15 0
  match (s.chD d).holds.find? fun h => decide (h.since + lim ≤ s.cad.tickNo) with
  | none => .next s
  | some h => if lim = 0 then .next s else .next (s.dropMb d h.mb h.cause)

end Sys2Proof.Machine
end

