-- ==== Sys2Proof/Machine/Swap.lean ====
section
/-! DEFINITION. Quiescence, the configuration swap, reactivation and the fabric flush (R165 to R170). -/

namespace Sys2Proof.Machine

/-- An engine whose MPD queue is empty and whose arrays are idle (R166). -/
def Engine.idle (x : Engine) : Bool :=
  x.queue.isEmpty && x.drains.cells.all fun c => c.2.isEmpty

/-- The fabric of a die is quiesced (R166). A reed that GO has armed, and a counter whose wrap is due, are a run in progress. -/
def State.quiesced (s : State) (d : Nat) : Bool :=
  let f := s.fabD d
  f.queues.cells.all (fun c => c.2.items.isEmpty) && f.outq.cells.all (fun c => c.2.isEmpty) &&
    f.rings.cells.all (fun c => c.2.elems.held = 0 && c.2.scales.held = 0) &&
    f.reeds.cells.all (fun c => c.2.cnts.cells.all (fun k => k.2.count = 0 && !k.2.due) && c.2.runPos = 0 && !c.2.armed) &&
    (List.range 36).all (fun e => (s.engD d e).idle) &&
    f.ports.cells.all (fun c => !c.2.active && !c.2.go) && f.tokens.isEmpty

/-- SWAP_AT and SWAP_MAX_DEFER of a die. -/
def State.swapAtTick (s : State) (d : Nat) : Bool := (s.rwAt (regAddr (Page.fab d) 0x10C)).getLsbD 0
def State.swapMaxDefer (s : State) (d : Nat) : Nat := fld (s.rwAt (regAddr (Page.fab d) 0x10C)) 8 1

/-- A swap point of a requested swap (R167, R168): while the audit runs the swap waits; a fabric that is not quiesced defers
it, and the deferral that reaches SWAP_MAX_DEFER cancels the request; else the swap runs. -/
def State.swapPoint (s : State) (d : Nat) : State :=
  let f := s.fabD d
  if !f.swap || f.shadow ≠ 3 then s
  else if s.quiesced d then s.setFab d { f with due := 1 }
  else
    let n := f.defers + 1
    let stop := decide (s.swapMaxDefer d ≤ n)
    let s1 := (s.setFab d { f with defers := if stop then 0 else n, swap := !stop }).count (regAddr (Page.fab d) 0x44) 1
    s1.raise (Page.fab d) Code.fabSwapDeferred (fabPayload 0xFFFF 0xFF 0xFF 0 0 0 (n + 2 ^ 31 * b2n stop) 0xFFFF)

/-- ACTIVATE and REACTIVATE take a die at the tick where its fabric is quiesced (R170, R379). -/
def State.activationPoint (s : State) (d : Nat) : State :=
  let f := s.fabD d
  let a := s.ctl.activate.testBit d
  let r := s.ctl.reactivate.testBit d
  let s1 := { s with ctl := { s.ctl with
    activate := s.ctl.activate - (if a then 2 ^ d else 0), reactivate := s.ctl.reactivate - (if r then 2 ^ d else 0) } }
  if a && f.shadow = 3 && s.quiesced d then s1.setFab d { f with due := 1 }
  else if r && f.placed && s.quiesced d then s1.setFab d { f with due := 2 }
  else s1

/-- The words of an entry with the reset values of its RO fields (R37): history empty, FMT_CUR the base, scales 1.0. -/
def levFresh (w : List Nat) : LevEntry :=
  let g := fun i => w.getD i 0
  { w := [putBits (g 0) 3 0 (bitsOf (g 0) 7 4), g 1, fp32One, fp32One, g 4, bitsOf (g 5) 10 0, 0, 0, 0, 0, 0, 0, 0, 0, 0, 0]
    hist := List.replicate 64 0 }

/-- The words of an entry that keeps its RO fields (R169), with the incoming SH fields; without NQ32 scales E_T and B_T are 1.0 (R42). -/
def levKept (old : LevEntry) (w : List Nat) : LevEntry :=
  let g := fun i => w.getD i 0
  let o := fun i => old.w.getD i 0
  let unit := bitsOf (g 0) 31 30 ≠ 1
  { old with w := [putBits (g 0) 3 0 (bitsOf (o 0) 3 0), g 1, if unit then fp32One else o 2, if unit then fp32One else o 3, g 4, putBits (g 5) 24 11 (bitsOf (o 5) 24 11),
      o 6, o 7, o 8, o 9, o 10, o 11, o 12, o 13, o 14, o 15] }

/-- A kept entry whose format lies above the incoming ceiling comes down to it (R169). -/
def LevEntry.clampCeil (e : LevEntry) : LevEntry :=
  let g := fun i => e.w.getD i 0
  let f := fun c => (Format.ofCode? c).getD .fp32
  let base := f (bitsOf (g 0) 7 4)
  let cur := f (bitsOf (g 0) 3 0)
  let promote := bitOf (g 0) 15 && onLadder base && decide (bitsOf (g 0) 31 30 ≠ 2)
  let ceil := if promote then f (bitsOf (g 0) 11 8) else base
  if cur = ceil ∨ !atOrAbove ceil cur then e
  else
    let rungs := if ceil = base then 0 else ((ladderFrom 4 base).takeWhile fun r => r.1 ≠ ceil).length + 1
    let ptr := bitsOf (g 12) 5 0
    let valid := bitsOf (g 12) 12 6
    let h := if valid = 0 then g 4 else (e.newest ptr (min (bitsOf (g 0) 21 16 + 1) valid)).foldl max 0
    let sc := if bitsOf (g 0) 31 30 = 1 then (sealScale base ceil (bitsOf (g 0) 14 12) h).getD (g 2, g 3) else (g 2, g 3)
    let w := ((e.w.set 0 (putBits (g 0) 3 0 ceil.code)).set 2 sc.1).set 3 sc.2
    { e with w := w.set 5 (putBits (putBits (g 5) 21 11 0) 24 22 rungs) }

/-- One Leaven entry at a swap (R169). -/
def levSwapEntry (old : LevEntry) (inc : List Nat) : LevEntry :=
  let same := bitsOf (old.w.getD 1 0) 19 0 = bitsOf (inc.getD 1 0) 19 0 ∧ bitsOf (old.w.getD 0 0) 7 4 = bitsOf (inc.getD 0 0) 7 4
  if same then (levKept old inc).clampCeil else levFresh inc

/-- The Leaven of a die takes the words that `word` gives (R169); `count` is LEAVEN_COUNT of the incoming set. Entries beyond the
outgoing count have no RO fields to keep. -/
def State.levTake (s : State) (d count : Nat) (word : State → Nat → Nat → Nat) : State :=
  let had := s.leaven.count.get 0 d
  let s1 := (List.range (max count had)).foldl (fun t i =>
    let inc := (List.range 16).map (word t i)
    t.putLevEntry d i (if count ≤ i then ⟨List.replicate 16 0, List.replicate 64 0⟩
      else if had ≤ i then levFresh inc else levSwapEntry (t.levEntry d i) inc)) s
  { s1 with leaven := { s1.leaven with count := s1.leaven.count.set 0 d count } }

/-- A swap puts the shadow set's Leaven values in force (R169, R412). -/
def State.levSwap (s : State) (d count : Nat) : State :=
  let s1 := s.levTake d count fun t i => t.levShadow d i
  { s1 with leaven := { s1.leaven with
      shNew := s1.leaven.shNew.drop (fun k => k / 65536 = d), imgNew := s1.leaven.imgNew.drop (fun k => k / 65536 = d) } }

/-- A reactivation keeps the active set's Leaven values, but for those that register writes have put in their place since (R170, R423). What
an image load has left in the shadow set stays there (R165; log entry 164). -/
def State.levReactivate (s : State) (d : Nat) : State :=
  let mine := s.leaven.shNew.cells.filterMap fun c => if c.1 / 65536 = d then some c.1 else none
  let s1 := s.levTake d (s.leaven.count.get 0 d) fun t i => t.levWritten d i
  { s1 with leaven := { s1.leaven with
      shNew := s1.leaven.shNew.drop (fun k => k / 65536 = d), imgNew := s1.leaven.imgNew.drop mine.contains } }

/-- Run state cleared, the counters and wait timers of reeds, engine ports and stream ports zeroed, and the initial entries of every reed
pushed (R154, R167; log entry 212). -/
def State.clearRun (s : State) (d : Nat) : State :=
  let f := s.fabD d
  let f1 := { f with
    disabled := [], mcFaults := [], reeds := .empty, ports := .empty, queues := .empty, bbNext := .empty, rings := .empty, moved := .empty
    outq := .empty, tokens := [] }
  let s1 := s.setFab d f1
  (s1.reedsUsed d f1.activeSet).foldl (fun t p =>
    (List.range (rrInitCnt p.2)).foldl (fun u _ =>
      u.pushOut d p.1 (7 + rrInitPort p.2) { bits := bcast (rrK p.2 0), plane := false, last := false }) t) s1

/-- The words of a die's KV section that describe its pool and its scales (R218). -/
def kvPoolRegs (d : Nat) : List Nat := [0, 4, 8, 0xC].map (kvReg d)

/-- The SH fields of a die's KV section take effect (R218, R219). When the pool (its base or its size) changes, every page is free, EPOCH is 0 and no
sequence is open. -/
def State.kvApply (s : State) (d : Nat) : State :=
  let change := ([0, 4].map (kvReg d)).any fun a => s.shadowAt a ≠ s.shAt a
  let s1 := s.applyShadow fun a => decide (kvReg d 0 ≤ a ∧ a < kvReg d 0x100)
  if change then
    let k := s1.kvD d
    s1.setKv d { k with pages := .empty, fresh := 0, freed := [], retire := [], epoch := 0, seqs := .empty }
  else s1

/-- The KV section at a swap: where the pool or scale fields would change while a sequence is open, the previous values stay in
force and KV_CONFIG_KEPT is raised (R229). The record names no command: its OP is a free value (log entry 43). -/
def State.kvSwap (s : State) (d : Nat) : State :=
  let open_ := (s.kvD d).seqs.cells.any fun c => c.2.isOpen
  let change := (kvPoolRegs d).any fun a => s.shadowAt a ≠ s.shAt a
  if open_ && change then
    let t := { s with shNew := s.shNew.drop fun a => (kvPoolRegs d).contains a }
    ((t.kvRaise d Code.kvConfigKept 0xFFFF (t.fresh 8).toNat 0xFFFFFFFF 0xFFFF 0).used).kvApply d
  else s.kvApply d

/-- A phase program begins anew at its place in the program that is now active (log entry 41). -/
def State.restartPhases (s : State) (d : Nat) : State :=
  let set := s.activeOf d
  s.updCh d fun c =>
    if c.inStep then
      { c with
        start := some (phaseAt noUnit (s.phaseOff d set .start)), started := false
        fwd := c.fwd.map fun r => phaseAt r.unit (s.phaseOff d set .forward)
        bwd := c.bwd.map fun r => phaseAt r.unit (s.phaseOff d set .backward) }
    else c

/-- A layer that the set now active has FROZEN is addressed at its one slot (R184). -/
def State.freezeSlots (s : State) (d : Nat) : State :=
  s.updCh d fun c => { c with cur := (s.layers d).foldl (fun t l => if s.frozen d l then t.set 0 l 0 else t) c.cur }

/-- The swap of a die (R165, R167, R169, R184). -/
def State.doSwap (s : State) (d : Nat) : State :=
  let f := s.fabD d
  let set := 1 - f.activeSet
  let s1 := s.levSwap d (s.imgLeavenCount d set)
  let s2 := s1.setFab d { f with activeSet := set, shadow := 0, placed := true, swap := false, defers := 0, due := 0 }
  ((((s2.freezeSlots d).clearRun d).kvSwap d).count (regAddr (Page.fab d) 0x40) 1).restartPhases d

/-- A seal that falls on this tick comes before a swap (R351). -/
def State.sealFirst (s : State) : Bool := s.spine.sealDue || s.spine.sealing

/-- SWAP (R167, R351): the exchange of a swap that found the fabric quiesced. -/
def execSwap (d : Die) (s : State) : Host.Outcome State Fault Refusal :=
  if s.still then .next s else
  if (s.fabD d).due = 1 && !s.sealFirst then .next ((s.doSwap d).settle d) else .next s

/-- REACTIVATION (R170): the sequence of a swap with the active set on both sides; shadow set, local stores and the RO fields of Leaven entries
that keep TENSOR and FMT_BASE stay. -/
def execReactivation (d : Die) (s : State) : Host.Outcome State Fault Refusal :=
  if s.still then .next s else
  if (s.fabD d).due = 2 && !s.sealFirst then
    let s1 := (s.levReactivate d).updFab d fun f => { f with due := 0 }
    .next (((((s1.clearRun d).kvSwap d).count (regAddr (Page.fab d) 0x40) 1).restartPhases d).settle d)
  else .next s

/-- The fabric flush (R164, R170): every queued entry, token and run state is discarded, HALTED and the starve log are
cleared. The fabric is quiesced after it, so the MPDs of its engines go too, and the runs of bound ports end: their readers may close (R224;
log entry 42). -/
def State.flush (s : State) (d : Nat) : State :=
  let s0 := ((s.fabD d).ports.cells.filter fun c => c.2.active).foldl (fun t c => t.boundEnd d c.1) s
  let s1 := s0.updFab d fun f => { f with
    halted := false, log := [], lsFault := false, reeds := f.restReeds, ports := f.restPorts, queues := .empty, bbNext := .empty, rings := .empty, outq := .empty, tokens := [] }
  (List.range 36).foldl (fun t e =>
    let x := t.engD d e
    t.setEng d e { x with
      offer := [], queue := [], tiles := .empty, plans := .empty, drains := .empty, ring := [], loads := .empty, mcIn := .empty
      mcRing := .empty, out := .empty }) s1

end Sys2Proof.Machine
end

