-- ==== Sys2Proof/Machine/Kv.lean ====
section
/-! DEFINITION. The commands of the KV unit and the reclamation of its pages (R219 to R226). -/

namespace Sys2Proof.Machine

/-- The fields of a command (R220). -/
structure KvFields where
  op      : Nat
  seq     : Nat
  parent  : Nat
  count   : Nat
  streams : Nat
  jmax    : Nat
  ptBase  : Nat
  /-- Reserved bits of the command are clear; the page-table field too where the command has none. -/
  clean   : Bool
  deriving DecidableEq, Repr

/-- The fields of a command's four words (R220). PT_BASE[39:32] is reserved for an OP that names no page table; its word 3 is no reserved
field. -/
def KvFields.of (w : List Nat) : KvFields :=
  let g := fun i => w.getD i 0
  let op := bitsOf (g 0) 3 0
  let hi := bitsOf (g 2) 31 26 + 2 ^ 6 * bitsOf (g 1) 31 30
  { op := op, seq := bitsOf (g 0) 15 4, parent := bitsOf (g 0) 27 16, count := bitsOf (g 1) 19 0
    streams := bitsOf (g 1) 29 20, jmax := bitsOf (g 2) 9 0, ptBase := g 3 + 2 ^ 32 * hi
    clean := decide (bitsOf (g 0) 31 28 = 0) && decide (bitsOf (g 2) 25 10 = 0) && (op = 1 || op = 2 || hi = 0) }

/-- The outcome of a command: STATUS, pages allocated or released, and the state. -/
structure KvDone where
  status : Nat
  n      : Nat
  s      : State

/-- A command is invalid (R226, R229): nothing changes but the record, which names the stream and page of the table entry that makes it so,
if one does. The position of a command is not stated: a free value (log entry 43). -/
def State.kvInvalid (s : State) (d : Nat) (f : KvFields) (at_ : Option (Nat × Nat) := none) : KvDone :=
  let w := at_.getD (0xFFFF, 0xFFFFFFFF)
  ⟨2, 0, (s.kvRaise d Code.kvCmdInvalid f.seq f.op w.2 w.1 (s.fresh 32).toNat).used⟩

/-- The first place of a sequence whose entry names a page beyond the pool, as stream and page (R226). -/
def State.kvBeyond (s : State) (d : Nat) (q : KvSeq) (places : List (Nat × Nat)) : Option (Nat × Nat) :=
  places.findSome? fun p => match s.kvEntry q p.1 p.2 with
    | some g => if s.kvPages d ≤ g then some (p.1, g) else none
    | none => none

/-- A page table of `n` words lies in the crust of the die (R219). -/
def tableInCrust (d base n : Nat) : Bool :=
  match regionOf (base * 64) with
  | .crust c o => c = d && decide (o + 4 * n ≤ 12 * gib)
  | _ => false

/-- Every stream and page of a sequence, in stream and page order. -/
def kvPlaces (streams lo hi : Nat) : List (Nat × Nat) :=
  (List.range streams).flatMap fun st => (List.range (hi - lo)).map fun j => (st, lo + j)

/-- Write every entry of a sequence's table as not VALID (R221). -/
def State.kvClearTable (s : State) (q : KvSeq) : State :=
  (kvPlaces q.streams 0 q.jmax).foldl (fun t p => t.setKvEntry q p.1 p.2 none) s

/-- OPEN (R221). -/
def State.kvOpen (s : State) (d : Nat) (f : KvFields) : KvDone :=
  let k := s.kvD d
  if (k.seq f.seq).isOpen || f.streams = 0 || f.jmax = 0 || !f.clean || !tableInCrust d f.ptBase (f.streams * f.jmax) then
    s.kvInvalid d f
  else
    let q : KvSeq := { isOpen := true, streams := f.streams, jmax := f.jmax, len := 0, base := f.ptBase }
    ⟨0, 0, (s.kvClearTable q).setKv d (k.setSeq f.seq q)⟩

/-- Pages that a prefix of `count` positions of a sequence holds, by stream and page (R221). -/
def State.kvPrefix (s : State) (q : KvSeq) (count : Nat) : List (Nat × Nat × Nat) :=
  (kvPlaces q.streams 0 (ceilDiv count 128)).filterMap fun p => (s.kvEntry q p.1 p.2).map fun g => (p.1, p.2, g)

/-- FORK (R221): the entries of the prefix are copied, every other entry of the new table is not VALID (log entry 44). -/
def State.kvFork (s : State) (d : Nat) (f : KvFields) : KvDone :=
  let k := s.kvD d
  let par := k.seq f.parent
  if (k.seq f.seq).isOpen || !par.isOpen || decide (par.len < f.count) || !f.clean ||
      !tableInCrust d f.ptBase (par.streams * par.jmax) then s.kvInvalid d f
  else
    let pre := s.kvPrefix par f.count
    let pages := pre.map fun x => x.2.2
    match s.kvBeyond d par (kvPlaces par.streams 0 (ceilDiv f.count 128)) with
    | some w => s.kvInvalid d f (some w)
    | none =>
    match pre.find? fun x => decide (65535 < k.ref x.2.2 + pages.count x.2.2) with
    | some x => ⟨3, 0, s.kvRaise d Code.kvRefOverflow f.seq f.op x.2.2 x.1 0⟩
    | none =>
      let q : KvSeq := { isOpen := true, streams := par.streams, jmax := par.jmax, len := f.count, base := f.ptBase }
      let s1 := pre.foldl (fun t x => t.setKvEntry q x.1 x.2.1 (some x.2.2)) (s.kvClearTable q)
      let k1 := pages.foldl (fun (a : KvDie) g => a.setPage g (a.ref g + 1) (a.pageState g) (a.tag g)) k
      ⟨0, 0, s1.setKv d (k1.setSeq f.seq q)⟩

/-- The head of the free list, and the unit without it (R219). -/
def State.kvTake (s : State) (d : Nat) (k : KvDie) : Option (Nat × KvDie) :=
  if k.fresh < s.kvPages d then some (k.fresh, { k with fresh := k.fresh + 1 })
  else match k.freed with
    | g :: rest => some (g, { k with freed := rest })
    | [] => none

/-- APPEND needs a page at a place: none where the entry is VALID with REF = 1 (R222). -/
def State.kvNeeds (s : State) (d : Nat) (q : KvSeq) (p : Nat × Nat) : Bool :=
  match s.kvEntry q p.1 p.2 with
  | none => true
  | some g => decide (1 < (s.kvD d).ref g)

/-- Copy `n` granules of a KV unit's memory, poison with them (R222, R286; log entry 178). -/
def State.kvCopyGranules (s : State) (d src dst n : Nat) : State :=
  (List.range n).foldl (fun t i =>
    let w := t.consume (kvUnitOf d) (src + 64 * i) 64 0xFFFF
    let t1 := w.2.2.storeFor (kvUnitOf d) (dst + 64 * i) w.1 0xFFFF
    if w.2.1 then t1.poisonFor (kvUnitOf d) (dst + 64 * i) 64 else t1) s

/-- Copy the elements and the scales of a page (R222). -/
def State.kvCopy (s : State) (d old new : Nat) : State :=
  (s.kvCopyGranules d (s.kvPool d + 32768 * old) (s.kvPool d + 32768 * new) 512).kvCopyGranules d
    (s.kvScales d + 1024 * old) (s.kvScales d + 1024 * new) 16

/-- APPEND treats one place (R222): a new page, a copy on write, or the page in place. -/
def State.kvAppendAt (s : State) (d : Nat) (q : KvSeq) (p : Nat × Nat) : State :=
  let k := s.kvD d
  match s.kvEntry q p.1 p.2 with
  | none =>
    (match s.kvTake d k with
     | none => s
     | some (g, k1) => ((s.setKv d (k1.setPage g 1 1 (k1.tag g))).setKvEntry q p.1 p.2 (some g)).kvCount d 0x80 1)
  | some old =>
    if k.ref old ≤ 1 then s
    else match s.kvTake d k with
      | none => s
      | some (g, k1) =>
        let k2 := (k1.setPage g 1 1 (k1.tag g)).setPage old (k.ref old - 1) (k.pageState old) (k.tag old)
        ((((s.kvCopy d old g).setKv d k2).setKvEntry q p.1 p.2 (some g)).kvCount d 0x80 1).kvCount d 0x84 1

/-- APPEND (R222, R225). -/
def State.kvAppend (s : State) (d : Nat) (f : KvFields) : KvDone :=
  let q := (s.kvD d).seq f.seq
  let places := kvPlaces q.streams (q.len / 128) (ceilDiv (q.len + f.count) 128)
  let n := (places.filter (s.kvNeeds d q)).length
  if !q.isOpen || decide (q.jmax * 128 < q.len + f.count) || !f.clean then s.kvInvalid d f
  else match s.kvBeyond d q places with
  | some w => s.kvInvalid d f (some w)
  | none =>
  if f.count = 0 then ⟨0, 0, s⟩
  else if s.kvFree d < n then
    ⟨1, 0, (s.kvCount d 0x8C 1).kvRaise d Code.kvPageExhausted f.seq f.op 0xFFFFFFFF 0xFFFF n⟩
  else
    let s1 := places.foldl (fun t p => t.kvAppendAt d q p) s
    ⟨0, n, s1.setKv d ((s1.kvD d).setSeq f.seq { q with len := q.len + f.count })⟩

/-- FREE (R223): every VALID entry is cleared; a page that loses its last reference joins the retire queue. The pages
released are those (log entry 45). -/
def State.kvFreeSeq (s : State) (d : Nat) (f : KvFields) : KvDone :=
  let q := (s.kvD d).seq f.seq
  let held := (kvPlaces q.streams 0 q.jmax).filterMap fun p => (s.kvEntry q p.1 p.2).map fun g => (p, g)
  if !q.isOpen || !f.clean then s.kvInvalid d f
  else match s.kvBeyond d q (kvPlaces q.streams 0 q.jmax) with
  | some w => s.kvInvalid d f (some w)
  | none =>
    let s1 := held.foldl (fun t x => t.setKvEntry q x.1.1 x.1.2 none) s
    let r := held.foldl (fun (a : KvDie × Nat) x =>
      let n := a.1.ref x.2 - 1
      if n = 0 then
        ({ a.1.setPage x.2 0 2 a.1.epoch with retire := a.1.retire ++ [x.2] }, a.2 + 1)
      else (a.1.setPage x.2 n (a.1.pageState x.2) (a.1.tag x.2), a.2)) (s1.kvD d, 0)
    ⟨0, r.2, s1.setKv d (r.1.setSeq f.seq { q with isOpen := false })⟩

/-- The retiring page may be reclaimed: no reader is open in an epoch up to its tag (R224). -/
def KvDie.reclaimable (k : KvDie) (g : Nat) : Bool :=
  k.readers.all fun r => !decide ((k.tag g + 2 ^ 14 - r.epoch) % 2 ^ 14 < 2 ^ 13)

/-- The check of R224: pages that may be reclaimed go to the tail of the free list. -/
def State.kvReclaim (s : State) (d : Nat) : State :=
  let k := s.kvD d
  let go := k.retire.filter k.reclaimable
  let k1 := go.foldl (fun (a : KvDie) g => a.setPage g 0 0 (a.tag g)) k
  (s.setKv d { k1 with retire := k.retire.filter (fun g => !k.reclaimable g), freed := k.freed ++ go }).kvCount d 0x88 go.length

/-- ADVANCE (R224). -/
def State.kvAdvance (s : State) (d : Nat) (f : KvFields) : KvDone :=
  let k := s.kvD d
  let e := (k.epoch + 1) % 2 ^ 14
  if !f.clean then s.kvInvalid d f
  else if k.readers.any fun r => r.epoch % 64 = e % 64 then
    ⟨4, 0, (s.kvCount d 0x90 1).kvRaise d Code.kvEpochDefer 0xFFFF f.op 0xFFFFFFFF 0xFFFF k.epoch⟩
  else ⟨0, 0, (s.setKv d { k with epoch := e }).kvReclaim d⟩

/-- The response word (R220). -/
def kvResponse (f : KvFields) (r : KvDone) : Nat := r.status + 16 * f.seq + 65536 * min 0xFFFF r.n

/-- Where a response goes has room: the register, or the scalar link of the command port, which is blocked from the
sampling of a swap or reactivation to its end (R167). -/
def State.kvRoom (s : State) (d src : Nat) : Bool :=
  src = 0 || (s.fabD d).due = 0 && decide ((((s.fabD d).queue (qKey (spReed (src - 1)) (8 + spDir (src - 1)))).items.length) < netDepth 1)

/-- Deliver a response word (R220). -/
def State.kvRespond (s : State) (d src w : Nat) : State :=
  if src = 0 then s.setKv d { s.kvD d with resp := w }
  else
    let f := s.fabD d
    let k := qKey (spReed (src - 1)) (8 + spDir (src - 1))
    (s.setFab d (f.setQueue k ((f.queue k).push { bits := w, plane := false, last := false }))).settle d

/-- Execute the command at the head of a KV unit with `act`, and answer it (R220). -/
def State.kvRun (s : State) (d : Nat) (act : State → KvFields → KvDone) : State :=
  match (s.kvD d).cmds with
  | [] => s
  | c :: rest =>
    if !s.kvRoom d c.src then s
    else
      let f := KvFields.of c.words
      let r := act ((s.setKv d { s.kvD d with cmds := rest }).kvCount d 0x98 1) f
      r.s.kvRespond d c.src (kvResponse f r)

/-- Commands with a reserved OP at the head are answered as invalid (R226). -/
def State.kvDrain (s : State) (d : Nat) : State :=
  (List.range (s.kvD d).cmds.length).foldl (fun t _ =>
    match (t.kvD d).cmds with
    | [] => t
    | c :: _ => let op := (KvFields.of c.words).op
      if op = 0 ∨ 5 < op then t.kvRun d fun u f => u.kvInvalid d f else t) s

/-- The command at the head of a KV unit, if its OP is `op`. -/
def State.kvCommand (s : State) (d op : Nat) (act : State → KvFields → KvDone) : State :=
  let s1 := s.kvDrain d
  match (s1.kvD d).cmds with
  | [] => s1
  | c :: _ => if (KvFields.of c.words).op = op then s1.kvRun d act else s1

/-- OPEN (R221): the KV unit of a die executes the OPEN at the head of its queue. -/
def execOpen (d : Die) (s : State) : Host.Outcome State Fault Refusal :=
  if s.still then .next s else
  .next (s.kvCommand d 1 fun t f => t.kvOpen d f)

/-- FORK (R221). -/
def execFork (d : Die) (s : State) : Host.Outcome State Fault Refusal :=
  if s.still then .next s else
  .next (s.kvCommand d 2 fun t f => t.kvFork d f)

/-- APPEND (R222). -/
def execAppend (d : Die) (s : State) : Host.Outcome State Fault Refusal :=
  if s.still then .next s else
  .next (s.kvCommand d 3 fun t f => t.kvAppend d f)

/-- FREE (R223). -/
def execFree (d : Die) (s : State) : Host.Outcome State Fault Refusal :=
  if s.still then .next s else
  .next (s.kvCommand d 4 fun t f => t.kvFreeSeq d f)

/-- ADVANCE (R224). -/
def execAdvance (d : Die) (s : State) : Host.Outcome State Fault Refusal :=
  if s.still then .next s else
  .next (s.kvCommand d 5 fun t f => t.kvAdvance d f)

/-- READER_CLOSE (R224): the reader of a port whose last entry has been delivered closes, and the unit checks its retire
queue. -/
def execReaderClose (d : Die) (p : Sp) (s : State) : Host.Outcome State Fault Refusal :=
  if s.still then .next s else
  let k := s.kvD d
  if k.readers.any fun r => r.port = p.val && r.ended then
    .next ((s.setKv d { k with readers := eraseFirst (fun r => r.port = p.val && r.ended) k.readers }).kvReclaim d)
  else .next s

end Sys2Proof.Machine
end

