-- ==== Sys2Proof/Machine/PrfBase.lean ====
section
/-! DEFINITION. The tensor table of a Proofer, where its chunks lie, and their bytes (R231, R232, R234 to R238, R264,
R274, R281). -/

namespace Sys2Proof.Machine

/-- A Proofer. -/
def State.prfP (s : State) (p : Nat) : Proofer := s.prf.get Proofer.reset p
/-- Put a Proofer back. -/
def State.setPrf (s : State) (p : Nat) (x : Proofer) : State := { s with prf := s.prf.set Proofer.reset p x }
/-- Change a Proofer. -/
def State.updPrf (s : State) (p : Nat) (g : Proofer → Proofer) : State := s.setPrf p (g (s.prfP p))

/-- The sixteen words of tensor table entry `i` in force (R237). -/
def State.tt (s : State) (p i : Nat) : List Nat := (List.range 16).map fun w => (s.shAt (winTable p i w)).toNat
/-- The words that the shadow set holds for the entry. -/
def State.ttShadow (s : State) (p i : Nat) : List Nat := (List.range 16).map fun w => (s.shadowAt (winTable p i w)).toNat

/-- Fields of a tensor table entry (R237); bases are in bytes. -/
def ttTensor (t : List Nat) : Nat := wbits t 0 19 0
def ttClass (t : List Nat) : Nat := wbits t 0 21 20
def ttCompact (t : List Nat) : Bool := wbits t 0 22 22 = 1
def ttProg (t : List Nat) : Nat := wbits t 0 25 23
def ttLayer (t : List Nat) : Nat := wbits t 0 31 26
def ttLeaven (t : List Nat) : Nat := wbits t 1 11 0
def ttExpect (t : List Nat) : Nat := wbits t 1 23 12
def ttValid (t : List Nat) : Bool := wbits t 1 24 24 = 1
def ttMaskEn (t : List Nat) : Bool := wbits t 1 25 25 = 1
def ttUniform (t : List Nat) : Bool := wbits t 1 26 26 = 1
def ttRemote (t : List Nat) : Bool := wbits t 1 27 27 = 1
def ttK (t : List Nat) : Nat := wbits t 2 19 0
def ttN (t : List Nat) : Nat := wbits t 3 19 0
def ttState (t : List Nat) : Nat := (t.getD 4 0 + 2 ^ 32 * wbits t 5 7 0) * 64
def ttCset (t : List Nat) : Nat := wbits t 5 15 8
def ttRowLayout (t : List Nat) : Bool := wbits t 5 16 16 = 1
def ttBank1 (t : List Nat) : Nat := (t.getD 6 0 + 2 ^ 32 * wbits t 7 7 0) * 64
def ttShard (t : List Nat) : Nat := wbits t 7 31 8
def ttFold (t : List Nat) : Nat := (t.getD 8 0 + 2 ^ 32 * wbits t 9 7 0) * 64
def ttAvgStart (t : List Nat) : Nat := wbits t 9 31 8
def ttWc (t : List Nat) (slot : Nat) : Nat := (t.getD (10 + 2 * slot) 0 + 2 ^ 32 * wbits t (11 + 2 * slot) 7 0) * 64
def ttMask (t : List Nat) : Nat := (t.getD 14 0 + 2 ^ 32 * wbits t 15 7 0) * 64
def ttHdr (t : List Nat) : Nat := (wbits t 11 31 8 + 2 ^ 24 * wbits t 13 31 8 + 2 ^ 48 * wbits t 15 31 8) * 64

/-- The maps of R231: class ROWS by row, else by the LAYOUT field. -/
def ttRows (t : List Nat) : Bool := ttClass t = 2

/-- Chunks of a tensor (R231). -/
def ttChunks (t : List Nat) : Nat :=
  if ttRows t then ttK t
  else if ttRowLayout t then ceilDiv (ttK t * ttN t) 16384
  else ceilDiv (ttN t) 128 * ceilDiv (ttK t) 128

/-- Record indices of a chunk: its row for ROWS, else 16,384 (R231, R235). -/
def ttWidth (t : List Nat) : Nat := if ttRows t then ttN t else 16384

/-- The logical element (k, n) of index `i` of chunk `c`; none beyond the logical extents (R231, R254). -/
def ttElem (t : List Nat) (c i : Nat) : Option (Nat × Nat) :=
  if ttRows t then (if i < ttN t ∧ c < ttK t then some (c, i) else none)
  else if ttRowLayout t then
    let e := 16384 * c + i
    if e < ttK t * ttN t then some (e / ttN t, e % ttN t) else none
  else
    let ck := max 1 (ceilDiv (ttK t) 128)
    let k := c % ck * 128 + i / 128
    let n := c / ck * 128 + i % 128
    if k < ttK t ∧ n < ttN t then some (k, n) else none

/-- Chunks of an entry that a Proofer serves (R232). -/
def ttServed (t : List Nat) (p : Nat) : List Nat := (List.range (ttChunks t)).filter fun c => c % 2 = p % 2

/-- The package updates chunk `c` itself (R232). -/
def State.mine (s : State) (p : Nat) (t : List Nat) (c : Nat) : Bool :=
  !s.ownerMode p || c / max 1 (ttShard t) % max 1 (s.replicas p) = s.replicaId p

/-- Widths of the planes W, M, V and A (R234), and the bytes of each plane (R235). -/
def planeWidths (t : List Nat) : List Nat := if ttCompact t then [4, 2, 2, 2] else [4, 4, 4, 4]
def planeBytes (t : List Nat) : List Nat :=
  (planeWidths t).map fun w => if ttRows t then ceilDiv (ttN t * w) 64 * 64 else 16384 * w
/-- Bytes of a chunk's records. -/
def ttRecBytes (t : List Nat) : Nat := (planeBytes t).sum

/-- Where the records of chunk `c` begin in a bank (R235, R264). -/
def ttRecAddr (t : List Nat) (bank c : Nat) : Nat := (if bank = 0 then ttState t else ttBank1 t) + c * ttRecBytes t
/-- Where its header lies; the headers of bank 1 follow that bank's records (log entry 47). -/
def ttHdrAddr (t : List Nat) (bank c : Nat) : Nat :=
  if bank = 0 then ttHdr t + 64 * c else ttBank1 t + ttChunks t * ttRecBytes t + 64 * c
/-- Where the fold of chunk `c` lies (R237). -/
def ttFoldAddr (t : List Nat) (c : Nat) : Nat := ttFold t + 65600 * c

/-- The bank that a Proofer reads for an entry, and the one that it writes (R264). -/
def Proofer.bankOf (x : Proofer) (i : Nat) : Nat := x.bank.get 0 i
def State.readBank (s : State) (p i : Nat) : Nat := (s.prfP p).bankOf i
def State.writeBank (s : State) (p i : Nat) : Nat :=
  if s.sealedCommit p then 1 - (s.prfP p).bankOf i else (s.prfP p).bankOf i

/-- Bytes from one row of a ROW working copy to the next, for elements of `bits` bits: whole 64-byte granules and whole blocks (log
entry 49). -/
def wcStride (t : List Nat) (bits : Nat) : Nat :=
  let unit := Nat.lcm 64 (4 * max 1 bits)
  ceilDiv (ttN t * bits) (8 * unit) * unit

/-- Where the scale plane begins after the element plane, sized for the ceiling format (R43; log entry 49). -/
def wcScaleOff (t : List Nat) (ceilBits : Nat) : Nat :=
  if ttRows t || ttRowLayout t then ttK t * wcStride t ceilBits
  else ceilDiv (ttChunks t * 16384 * ceilBits) 512 * 64

/-- Bytes of a working copy's buffer, header and planes, sized for the ceiling format (R38, R43). -/
def wcBufBytes (t : List Nat) (ceilBits : Nat) (scaled : Bool) : Nat :=
  let plane := wcScaleOff t ceilBits
  64 + plane + (if scaled then ceilDiv plane (4 * max 1 ceilBits) else 0)

/-- The bits per element of the entry's ceiling format, where promotion applies, else of its base (R43). -/
def State.ceilBits (s : State) (d idx : Nat) : Nat :=
  let w0 := s.lev d idx 0
  let f := fun c => ((Format.ofCode? c).getD .fp32)
  let base := f (bitsOf w0 7 4)
  let promote := bitOf w0 15 && onLadder base && decide (bitsOf w0 31 30 ≠ 2)
  max base.bits (if promote then (f (bitsOf w0 11 8)).bits else 0)

/-- A layer of the die that a Proofer serves is FROZEN. -/
def State.layerIsFrozen (s : State) (p l : Nat) : Bool := s.frozen (p / 2) l

/-- The key of a chunk within a Proofer. -/
def chunkKey (i c : Nat) : Nat := 32768 * i + c

/-- VALID entries of a Proofer's table in force, in table order. -/
def State.entries (s : State) (p : Nat) : List Nat := (List.range 1024).filter fun i => ttValid (s.tt p i)

/-- The payload of a Proofer record (R274). -/
def prfPayload (i chunk mb cause p n ref : Nat) : List Byte :=
  payload [(0, 2, i), (2, 4, chunk), (6, 2, mb), (8, 1, cause), (9, 1, p), (10, 4, n), (14, 2, ref)]

/-- Raise a Proofer record. -/
def State.prfRaise (s : State) (p code i chunk mb cause n : Nat) : State :=
  s.raise (Page.prf p) code (prfPayload i chunk mb cause p n 0)

/-- No chunk, no entry. -/
abbrev noChunk : Nat := 0xFFFFFFFF

/-- Two regions of bytes, as (address, length), of different tensors share a byte. -/
def regionsClash : List (Nat × List (Nat × Nat)) → Bool
  | [] => false
  | (i, rs) :: rest => (rest.any fun q => i ≠ q.1 && rs.any fun r => q.2.any (overlaps r)) || regionsClash rest

/-- The regions of an entry in STATE and in FOLD (R238, R290). -/
def ttRegions (t : List Nat) (sealed_ : Bool) : List (Nat × Nat) × List (Nat × Nat) :=
  let n := ttChunks t
  ([(ttState t, n * ttRecBytes t), (ttHdr t, 64 * n)] ++
    (if sealed_ then [(ttBank1 t, n * (ttRecBytes t + 64))] else []) ++
    (if ttMaskEn t then [(ttMask t, ceilDiv (16384 * n) 8)] else []), [(ttFold t, 65600 * n)])

/-- The buffers of an entry's working copy: both slots, or the one slot of a FROZEN layer (R184, R237, R238). -/
def State.ttCopies (s : State) (p : Nat) (t : List Nat) : List (Nat × Nat) :=
  let d := p / 2
  let n := wcBufBytes t (s.ceilBits d (ttLeaven t)) (bitsOf (s.lev d (ttLeaven t) 0) 31 30 ≠ 0)
  (if s.layerIsFrozen p (ttLayer t) then [0] else [0, 1]).map fun k => (ttWc t k, n)

/-- Every region of an entry (R238). -/
def State.ttAll (s : State) (p : Nat) (t : List Nat) (sealed_ : Bool) : List (Nat × Nat) :=
  (ttRegions t sealed_).1 ++ (ttRegions t sealed_).2 ++ s.ttCopies p t

/-- A region lies in region `k` of PFp's Trough. -/
def State.withinPart (s : State) (p k : Nat) (r : Nat × Nat) : Bool :=
  let b := s.partBounds p k
  decide (troughBase p + b.1 ≤ r.1 ∧ r.1 + r.2 ≤ troughBase p + b.2)

/-- A base lies in region `k` of PFp's Trough (R290). -/
def State.baseInPart (s : State) (p k a : Nat) : Bool := s.withinPart p k (a, 1)

/-- A program slot holds nothing (R238). -/
def State.slotEmpty (s : State) (p k : Nat) : Bool :=
  decide (3 ≤ k) && (List.range 65).all fun w => s.shadowAt (winProg p k w) = 0

/-- The tensor table that a Proofer's shadow set holds is invalid (R238, R290): every base of an entry must lie in its region, used or not.
Entries of one tensor number are parts of one tensor (R281) and do not clash. `owner` and `sealed_` are the modes that will run. -/
def State.tableBad (s : State) (p : Nat) (owner sealed_ : Bool) : Bool :=
  let es := ((List.range 1024).filter fun i => (s.shadowAt (winTable p i 1)).getLsbD 24).map fun i => (i, s.ttShadow p i)
  es.any (fun e =>
      let t := e.2
      ttClass t = 3 || (ttRows t && decide (16384 < ttN t)) ||
        (ttClass t = 0 && ttExpect t = 0 && !ttRemote t) || s.slotEmpty p (ttProg t) ||
        [ttState t, ttBank1 t, ttHdr t, ttMask t].any (fun a => !s.baseInPart p partState a) ||
        !s.baseInPart p partFold (ttFold t) || (owner && ttShard t = 0)) ||
    regionsClash (es.map fun e => (ttTensor e.2, s.ttAll p e.2 sealed_))

/-- The key of a Proofer's window words: its tensor table, and its programs and constants. -/
def isTableKey (p a : Nat) : Bool := decide (winTable p 0 0 ≤ a ∧ a < winTable (p + 1) 0 0)
def isProgKey (p a : Nat) : Bool := decide (winProg p 0 0 ≤ a ∧ a < winProg (p + 1) 0 0)
def isConstKey (p a : Nat) : Bool := decide (winConst p 0 0 ≤ a ∧ a < winConst (p + 1) 0 0)

end Sys2Proof.Machine
end

