-- ==== Sys2Proof/Machine/PrfRule.lean ====
section
/-! DEFINITION. The rule unit of the Proofers: programs, constants, catch-up, chunk records, the ledger sums and digests (R236,
R248 to R256, R261, R267). -/

namespace Sys2Proof.Machine

/-- An instruction word (R249). -/
def ruleWord (op dst sa sb sc : Nat) : Nat := op + 64 * dst + 2 ^ 11 * sa + 2 ^ 16 * sb + 2 ^ 21 * sc

/-- Operand codes of R249 by name: W, M, V, A, temporaries and constants. -/
abbrev opG : Nat := 0
abbrev opW : Nat := 1
abbrev opM : Nat := 2
abbrev opV : Nat := 3
abbrev opA : Nat := 4
def opT (n : Nat) : Nat := 5 + n
def opC (n : Nat) : Nat := 16 + n

/-- The slot header: catch-up indices of M, V and λ (R248). -/
def slotHeader (m v l : Nat) : Nat := m + 32 * v + 1024 * l

/-- Built-in AdamW (R252). -/
def progAdamW : List Nat :=
  [slotHeader 0 2 5,
   ruleWord 4 (opT 0) opG (opC 8) 0, ruleWord 4 (opT 1) (opT 0) (opC 1) 0, ruleWord 5 opM opM (opC 0) (opT 1),
   ruleWord 4 (opT 2) (opT 0) (opT 0) 0, ruleWord 4 (opT 2) (opT 2) (opC 3) 0, ruleWord 5 opV opV (opC 2) (opT 2),
   ruleWord 4 (opT 3) opV (opC 14) 0, ruleWord 0x0C (opT 3) (opT 3) 0 0, ruleWord 2 (opT 3) (opT 3) (opC 4) 0,
   ruleWord 0x0D (opT 3) (opT 3) 0 0, ruleWord 4 (opT 4) opM (opC 13) 0, ruleWord 4 (opT 4) (opT 4) (opT 3) 0,
   ruleWord 7 (opT 4) (opT 4) (opC 6) 0, ruleWord 8 (opT 4) (opT 4) (opC 7) 0, ruleWord 4 (opT 5) opW (opC 5) 0,
   ruleWord 2 (opT 4) (opT 4) (opT 5) 0, ruleWord 6 opW (opT 4) (opC 12) opW, ruleWord 3 (opT 6) opW opA 0,
   ruleWord 5 opA (opT 6) (opC 15) opA, ruleWord 0x3F 0 0 0 0]

/-- Built-in Lion (R252). -/
def progLion : List Nat :=
  [slotHeader 2 0x1F 5,
   ruleWord 4 (opT 0) opG (opC 8) 0, ruleWord 4 (opT 1) opM (opC 0) 0, ruleWord 5 (opT 1) (opT 0) (opC 1) (opT 1),
   ruleWord 0x0B (opT 1) (opT 1) 0 0, ruleWord 4 (opT 2) opW (opC 5) 0, ruleWord 2 (opT 1) (opT 1) (opT 2) 0,
   ruleWord 6 opW (opT 1) (opC 12) opW, ruleWord 4 (opT 3) (opT 0) (opC 3) 0, ruleWord 5 opM opM (opC 2) (opT 3),
   ruleWord 3 (opT 4) opW opA 0, ruleWord 5 opA (opT 4) (opC 15) opA, ruleWord 0x3F 0 0 0 0]

/-- Built-in SGD with momentum (R252). -/
def progSgd : List Nat :=
  [slotHeader 0 0x1F 5,
   ruleWord 4 (opT 0) opG (opC 8) 0, ruleWord 5 opM opM (opC 0) (opT 0), ruleWord 4 (opT 1) opW (opC 5) 0,
   ruleWord 2 (opT 1) opM (opT 1) 0, ruleWord 6 opW (opT 1) (opC 12) opW, ruleWord 3 (opT 2) opW opA 0,
   ruleWord 5 opA (opT 2) (opC 15) opA, ruleWord 0x3F 0 0 0 0]

/-- Word `w` of a program slot in force (R248). -/
def State.progData (s : State) (p k w : Nat) : Nat :=
  match k with
  | 0 => progAdamW.getD w 0
  | 1 => progLion.getD w 0
  | 2 => progSgd.getD w 0
  | _ => (s.shAt (winProg p k w)).toNat

/-- Fields of an instruction (R249). -/
def riOp (w : Nat) : Nat := bitsOf w 5 0
def riDst (w : Nat) : Nat := bitsOf w 10 6
def riA (w : Nat) : Nat := bitsOf w 15 11
def riB (w : Nat) : Nat := bitsOf w 20 16
def riC (w : Nat) : Nat := bitsOf w 25 21

/-- The operands that an opcode uses: destination and sources A, B, C (R250). -/
def riUses (op : Nat) : Bool × Bool × Bool × Bool :=
  match op with
  | 0x3F => (false, false, false, false)
  | 0x02 | 0x03 | 0x04 | 0x07 | 0x08 => (true, true, true, false)
  | 0x05 | 0x06 | 0x0E => (true, true, true, true)
  | _ => (true, true, false, false)

/-- An instruction that a program may hold (R253). -/
def riOk (w : Nat) : Bool :=
  let op := riOp w
  ((decide (1 ≤ op) && decide (op ≤ 0x0E)) || op = 0x3F) && decide (w < 2 ^ 26) &&
    (!(riUses op).1 || (decide (1 ≤ riDst w) && decide (riDst w < 16)))

/-- The instructions of a slot up to and with its first END; none without an END (R248, R253). -/
def ruleBody : List Nat → Option (List Nat)
  | [] => none
  | w :: ws => if riOp w = 0x3F then some [w] else (ruleBody ws).map (w :: ·)

/-- A slot's words make an invalid program (R253). -/
def progInvalid (ws : List Nat) : Bool :=
  let h := ws.headD 0
  let cu := fun v => decide (0x10 ≤ v) && decide (v ≤ 0x1E)
  (match ruleBody (ws.drop 1) with
   | none => true
   | some b => b.any fun w => !riOk w) ||
    cu (bitsOf h 4 0) || cu (bitsOf h 9 5) || cu (bitsOf h 14 10) || decide (2 ^ 15 ≤ h)

/-- minimumNumber and maximumNumber of IEEE 754 (R250): a number prevails over a NaN, and −0 lies below +0. -/
def minNum (a b : Nat) : Nat :=
  if ff32.isNan a && ff32.isNan b then ff32.nanCode 20 [a, b]
  else if ff32.isNan a then b
  else if ff32.isNan b then a
  else if ff32.isZero a && ff32.isZero b then (if a.testBit 31 then a else b)
  else if ff32.lt b a then b else a
def maxNum (a b : Nat) : Nat :=
  if ff32.isNan a && ff32.isNan b then ff32.nanCode 21 [a, b]
  else if ff32.isNan a then b
  else if ff32.isNan b then a
  else if ff32.isZero a && ff32.isZero b then (if a.testBit 31 then b else a)
  else if ff32.lt a b then b else a

/-- SIGN: −1, +0 or +1; NaN gives NaN (R250). -/
def signNum (a : Nat) : Nat :=
  if ff32.isNan a then a else if ff32.isZero a then 0 else if a.testBit 31 then ff32.neg fp32One else fp32One

/-- The result of an opcode (R250). -/
def ruleOp (op a b c : Nat) : Nat :=
  match op with
  | 0x01 => a
  | 0x02 => ff32.add a b
  | 0x03 => ff32.sub a b
  | 0x04 => ff32.mul a b
  | 0x05 => ff32.fma a b c
  | 0x06 => ff32.fma (ff32.neg a) b c
  | 0x07 => minNum a b
  | 0x08 => maxNum a b
  | 0x09 => ff32.abs a
  | 0x0A => ff32.neg a
  | 0x0B => signNum a
  | 0x0C => ff32.sqrt a
  | 0x0D => ff32.div fp32One a
  | _ => if !ff32.isNan a && !ff32.lt a 0 then b else c

/-- One instruction on a lane's 32 operands (R249). -/
def ruleStep (env : List Nat) (w : Nat) : List Nat :=
  if riOp w = 0x3F then env
  else env.set (riDst w) (ruleOp (riOp w) (env.getD (riA w) 0) (env.getD (riB w) 0) (env.getD (riC w) 0))

/-- A record: W, M, V and A as FP32 codes. -/
structure Rec4 where
  w : Nat
  m : Nat
  v : Nat
  a : Nat
  deriving DecidableEq, Repr

/-- A record of zeros. -/
def Rec4.zero : Rec4 := ⟨0, 0, 0, 0⟩

/-- The program of a slot on one parameter, with the sixteen constants (R249, R250). -/
def runRule (body consts : List Nat) (g : Nat) (r : Rec4) : Rec4 :=
  let env := body.foldl ruleStep ([g, r.w, r.m, r.v, r.a] ++ List.replicate 11 0 ++ consts)
  ⟨env.getD 1 0, env.getD 2 0, env.getD 3 0, env.getD 4 0⟩

/-- pow64 (R251): binary64, by the bits of the exponent in ascending order. -/
def pow64 (b e : Nat) : Nat :=
  ((List.range 64).foldl (fun (x : Nat × Nat) j =>
    (if e.testBit j then ff64.mul x.1 x.2 else x.1, ff64.mul x.2 x.2)) (ff64.ofNat 1, b)).1

/-- fp32(1 ÷ (1 − pow64(b, t))) (R251). -/
def biasCorrection (b t : Nat) : Nat :=
  let one := ff64.ofNat 1
  ff64.convertTo ff32 (ff64.div one (ff64.sub one (pow64 (ff32.convertTo ff64 b) t)))

/-- Word `w` of a constant set in force (R251). -/
def State.csetWord (s : State) (p set w : Nat) : Nat := (s.shAt (winConst p set w)).toNat

/-- C0 to C15 of an entry for update count t (R251). -/
def State.constants (s : State) (p : Nat) (t : List Nat) : List Nat :=
  let c := fun i => s.csetWord p (ttCset t) i
  let n := (s.prfP p).count
  let c15 := if n < ttAvgStart t then 0
    else if ttUniform t then ff64.convertTo ff32 (ff64.div (ff64.ofNat 1) (ff64.ofNat (n - ttAvgStart t + 1)))
    else if n = ttAvgStart t then fp32One else c 15
  (List.range 12).map c ++ [(s.shAt (prfReg p 0x114)).toNat, biasCorrection (c 0) n, biasCorrection (c 2) n, c15]

/-- pw(b, d) of R255. -/
def powFp32 (b d : Nat) : Nat :=
  ((List.range 64).foldl (fun (x : Nat × Nat) j =>
    (if d.testBit j then ff32.mul x.1 x.2 else x.1, ff32.mul x.2 x.2)) (fp32One, b)).1

/-- Catch-up of a record for d missed steps (R254). -/
def catchUp (hdr d : Nat) (consts : List Nat) (r : Rec4) : Rec4 :=
  let m := bitsOf hdr 4 0
  let v := bitsOf hdr 9 5
  let l := bitsOf hdr 14 10
  let c := fun i => consts.getD i 0
  if d = 0 then r
  else
    { r with
      m := if m = 0x1F then r.m else ff32.mul r.m (powFp32 (c m) d)
      v := if v = 0x1F then r.v else ff32.mul r.v (powFp32 (c v) d)
      w := if l = 0x1F then r.w else ff32.mul r.w (powFp32 (ff32.sub fp32One (ff32.mul (c 12) (c l))) d) }

/-- A BF16 code widened to FP32. -/
def wide16 (c : Nat) : Nat := c % 65536 * 65536

/-- The fields that a plane holds for `n` indices, as FP32 codes (R234, R235). -/
def planeField (bs : List Byte) (width i : Nat) : Nat :=
  let v := leAt bs (width * i) width
  if width = 2 then wide16 v else v

/-- The records of chunk `c` in a bank (R235), and the four planes' bytes. -/
def State.readRecs (s : State) (t : List Nat) (bank c : Nat) : List Rec4 :=
  let base := ttRecAddr t bank c
  let pb := planeBytes t
  let ws := planeWidths t
  let plane := fun k => s.bytesAt (base + (pb.take k).sum) (pb.getD k 0)
  let ps := (List.range 4).map plane
  (List.range (ttWidth t)).map fun i =>
    ⟨planeField (ps.getD 0 []) (ws.getD 0 4) i, planeField (ps.getD 1 []) (ws.getD 1 4) i,
     planeField (ps.getD 2 []) (ws.getD 2 4) i, planeField (ps.getD 3 []) (ws.getD 3 4) i⟩

/-- A compact field in BF16 by stochastic rounding (R236): stream number `hi`, element index n. -/
def State.compact (s : State) (t : List Nat) (hi n v : Nat) : Nat :=
  (convert .bf16 false
    (.stochastic (randomBits Config.runSeed.toNat s.ctl.stepNo (ttTensor t + 2 ^ 20 * hi) n)) v).1

/-- The bytes of the four planes that hold records (R235, R236). `keep` marks indices whose fields are written back unchanged,
exactly as they were read. -/
def State.recBytes (s : State) (t : List Nat) (c : Nat) (rs : List (Rec4 × Bool)) : List Byte :=
  let pb := planeBytes t
  let ws := planeWidths t
  let one := fun (k i : Nat) (r : Rec4 × Bool) =>
    let v := match k with | 0 => r.1.w | 1 => r.1.m | 2 => r.1.v | _ => r.1.a
    if ws.getD k 4 = 4 then leBytes 4 v
    else
      let n := match ttElem t c i with | some e => e.1 * ttN t + e.2 | none => 0
      leBytes 2 (if r.2 then v / 65536 else s.compact t (0xFFB + k) n v)
  (List.range 4).flatMap fun k =>
    let bs := (rs.zipIdx.map fun r => one k r.2 r.1).flatten
    bs ++ List.replicate (pb.getD k 0 - bs.length) 0

/-- Fold adjacent pairs of a list once, with +0 for a missing partner. -/
def pairUp (add : Nat → Nat → Nat) : List Nat → List Nat
  | a :: b :: rest => add a b :: pairUp add rest
  | [a] => [a]
  | [] => []

/-- The chunk sum of R261: per group of 256 lanes a tree of four levels down to 16 values, FP64 lane j adds value j, and the
sixteen lanes are added in adjacent pairs at the end. -/
def ledgerSum (vals : List Nat) : Nat :=
  let add := ff64.add
  let groups := chunks 256 (vals.length + 1) vals
  let tree := fun g : List Nat =>
    pairUp add (pairUp add (pairUp add (pairUp add (g ++ List.replicate (256 - g.length) 0))))
  let lanes := groups.foldl (fun acc g => (acc.zip (tree g)).map fun x => add x.1 x.2) (List.replicate 16 0)
  (pairUp add (pairUp add (pairUp add (pairUp add lanes)))).headD 0

/-- The square of an FP32 value in binary64, exactly. -/
def sq64 (a : Nat) : Nat := let x := ff32.convertTo ff64 a; ff64.mul x x

/-- Multiplication of polynomials modulo that of the CRC-64 (R267). -/
def gfMul (a b : Nat) : Nat :=
  (List.range 64).foldl (fun acc i => (crc64Bit acc) ^^^ (if b.testBit (63 - i) then a else 0)) 0

/-- x^(8 n) modulo the polynomial. -/
def gfPow8 (n : Nat) : Nat :=
  ((List.range 40).foldl (fun (x : Nat × Nat) j =>
    (if n.testBit j then gfMul x.1 x.2 else x.1, gfMul x.2 x.2)) (1, 256)).1

/-- The CRC of a concatenation from the CRCs of its parts, the second `n` bytes long (R267). -/
def crcConcat (a b n : Nat) : Nat := gfMul a (gfPow8 n) ^^^ b

end Sys2Proof.Machine
end

