-- ==== Sys2Proof/Machine/PrfApply.lean ====
section
/-! DEFINITION. Applying a chunk, untouched chunks, working copies and chunk headers (R235, R254 to R264, R267, R286). -/

namespace Sys2Proof.Machine

/-- The memory unit of a Proofer. -/
def prfUnit (p : Nat) : MemUnit := .proofer (Fin.ofNat 8 p)

/-- The marks of a tensor, and of a chunk, in the step. -/
def Proofer.tensorRun (x : Proofer) (i : Nat) : TensorRun := x.tensors.get TensorRun.none i
def Proofer.setTensor (x : Proofer) (i : Nat) (r : TensorRun) : Proofer := { x with tensors := x.tensors.set TensorRun.none i r }
def Proofer.chunk (x : Proofer) (k : Nat) : ChunkRun := x.chunks.get ChunkRun.none k
def Proofer.setChunk (x : Proofer) (k : Nat) (r : ChunkRun) : Proofer := { x with chunks := x.chunks.set ChunkRun.none k r }

/-- The sixteen words of a chunk header (R235). -/
def State.chunkHdr (s : State) (t : List Nat) (bank c : Nat) : List Nat :=
  (List.range 16).map fun w => s.natAt (ttHdrAddr t bank c + 4 * w) 4
/-- A 64-bit field of a header. -/
def hdr64 (h : List Nat) (w : Nat) : Nat := h.getD w 0 + 2 ^ 32 * h.getD (w + 1) 0
/-- A header with a 64-bit field set. -/
def setHdr64 (h : List Nat) (w v : Nat) : List Nat := (h.set w (v % 2 ^ 32)).set (w + 1) (v / 2 ^ 32 % 2 ^ 32)
/-- The bytes of a header. -/
def hdrBytes (h : List Nat) : List Byte := h.flatMap (leBytes 4)

/-- Bit `i` of the frozen bitmap of chunk `c` (R256). -/
def State.frozenAt (s : State) (t : List Nat) (c i : Nat) : Bool :=
  ttMaskEn t && (s.byteAt (ttMask t + (16384 * c + i) / 8)).toNat.testBit (i % 8)

/-- What settling a chunk reads of its state, as (address, length): its records, or the W plane alone; its header; the bitmap where the
chunk is applied (R256, R257, R286). -/
def chunkSpans (t : List Nat) (bank c : Nat) (wOnly applied : Bool) : List (Nat × Nat) :=
  [(ttRecAddr t bank c, if wOnly then (planeBytes t).headD 0 else ttRecBytes t), (ttHdrAddr t bank c, 64)] ++
    (if applied && ttMaskEn t then [(ttMask t + 2048 * c, 2048)] else [])

/-- One of the spans is poisoned (R286). -/
def State.spansPoison (s : State) (l : List (Nat × Nat)) : Bool := l.any fun r => s.poisonedAt r.1 r.2

/-- The poisoned granules of spans that were read are counted (R291). -/
def State.countSpans (s : State) (l : List (Nat × Nat)) : State := l.foldl (fun u r => u.countPoison (touchedGranules r.1 r.2)) s

/-- A line of a working copy: consecutive elements along the block axis, each with its chunk index and its logical index, none
for padding; the bit offset in the element plane. -/
structure WcLine where
  bitOff : Nat
  elems  : List (Option (Nat × Nat))
  deriving DecidableEq, Repr

/-- The lines of a chunk's working copy (R113, R259). A row of the layout ROW is padded to its stride; a line begins a block, or goes on
with the block that the chunk before began (log entry 175). -/
def wcLines (t : List Nat) (bits c : Nat) : List WcLine :=
  let el := fun i => (ttElem t c i).map fun e => (i, e.1 * ttN t + e.2)
  if ttRows t || ttRowLayout t then
    let live := (List.range (ttWidth t)).filterMap fun i => (ttElem t c i).map fun e => (i, e)
    let rows := (live.map fun x => x.2.1).eraseDups
    rows.flatMap fun k =>
      let xs := live.filter fun x => x.2.1 = k
      let n0 := (xs.head?.map fun x => x.2.2).getD 0
      let last := n0 + xs.length
      let pad := if last = ttN t then wcStride t bits * 8 / max 1 bits - last else 0
      let es := (xs.map fun x => some (x.1, k * ttN t + x.2.2)) ++ List.replicate pad none
      let head := min es.length ((32 - n0 % 32) % 32)
      let start := fun n => 8 * (k * wcStride t bits) + n * bits
      [WcLine.mk (start n0) (es.take head), WcLine.mk (start (n0 + head)) (es.drop head)].filter fun l => !l.elems.isEmpty
  else
    (List.range 128).map fun j =>
      { bitOff := (16384 * c + 128 * j) * bits, elems := (List.range 128).map fun k => el (128 * k + j) }

/-- The place of a line's first scale byte in the scale plane (R113). -/
def WcLine.scaleOff (l : WcLine) (bits : Nat) : Nat := l.bitOff / (32 * bits)

/-- `n` bits from bit `off` of a plane, as bytes (R27). -/
def State.planeBits (s : State) (plane off n : Nat) : List Byte :=
  leBytes ((n + 7) / 8) (s.natAt (plane + off / 8) ((off % 8 + n + 7) / 8) / 2 ^ (off % 8) % 2 ^ n)

/-- The bytes of a plane around bit `off`, with `n` bits from there replaced by those of `v` (R27). -/
def State.mixBits (s : State) (plane off n v : Nat) : List Byte :=
  let o := off % 8
  let len := (o + n + 7) / 8
  let old := s.natAt (plane + off / 8) len
  leBytes len (old % 2 ^ o + 2 ^ o * (v % 2 ^ n) + 2 ^ (o + n) * (old / 2 ^ (o + n)))

/-- Quantise the W of a chunk into slot `slot` (R30, R35, R39, R40, R259): the state with the copy written and the Leaven
report made, and the CRC of the copy's bytes with their number. -/
def State.workingCopyTo (s : State) (p i c slot : Nat) (ws : List Nat) : State × Nat × Nat :=
  let t := s.tt p i
  let d := p / 2
  let v := s.levView d (ttLeaven t)
  let bits := v.fmt.bits
  let plane := ttWc t slot + 64
  let scales := plane + wcScaleOff t (s.ceilBits d (ttLeaven t))
  let lines := wcLines t bits c
  let enc := lines.map fun ln =>
    let vals := ln.elems.map fun e => match e with | some x => ws.getD x.1 0 | none => 0
    let mode := fun j => match ln.elems.getD j none with
      | some x => s.rounding v.sr (ttTensor t) 0xFFF x.2
      | none => .nearest
    (ln, encodeRow v mode vals, (ln.elems.zip vals).filterMap fun x => x.1.map fun _ => x.2)
  let s1 := enc.foldl (fun u x =>
    let codes := packElements bits (x.2.1.1.flatMap Prod.snd)
    let u1 := u.storeFor (prfUnit p) (plane + x.1.bitOff / 8)
      (u.mixBits plane x.1.bitOff (x.1.elems.length * bits) (leNat codes)) 0xFFFF
    match v.scale with
    | .none => u1
    | _ => u1.storeFor (prfUnit p) (scales + x.1.scaleOff bits)
        (x.2.1.1.map fun b => BitVec.ofNat 8 b.1) 0xFFFF) s
  let rep := enc.foldl (fun (a : RangeReport) x =>
    a.add { cnt := x.2.1.2, elem := x.2.2.length, amax := finiteMax x.2.2 }) RangeReport.zero
  let s2 := s1.levReport d (ttLeaven t) rep
  let s3 := if c = 0 && p % 2 = 0 then
      s2.storeFor (prfUnit p) (ttWc t slot) (s2.headerBytes d (ttLeaven t) 0xFFF (ttK t * ttN t)) 0xFFFF
    else s2
  let bytes := (enc.flatMap fun x => packElements bits (x.2.1.1.flatMap Prod.snd)) ++
    (match v.scale with | .none => [] | _ => enc.flatMap fun x => x.2.1.1.map fun b => BitVec.ofNat 8 b.1)
  (s3, crc64 bytes, bytes.length)

/-- The slot that the update of a layer writes: the one that the Chanter does not read (R187, R259). -/
def State.nextSlot (s : State) (p l : Nat) : Nat := 1 - (s.chD (p / 2)).cur.get 0 l

/-- A chunk has been settled for the step: its header is stored with the CRC of its working copy, which is written unless the
layer is FROZEN. -/
def State.finishChunk (s : State) (p i c : Nat) (h : List Nat) (ws : List Nat) : State :=
  let t := s.tt p i
  let bank := s.writeBank p i
  let k := chunkKey i c
  let r := if s.layerIsFrozen p (ttLayer t) then (s, hdr64 h 13) else
    let q := s.workingCopyTo p i c (s.nextSlot p (ttLayer t)) ws
    (q.1, q.2.1)
  let s1 := r.1.storeFor (prfUnit p) (ttHdrAddr t bank c) (hdrBytes (setHdr64 h 13 r.2)) 0xFFFF
  s1.updPrf p fun x => (x.setChunk k { x.chunk k with done := true, copied := true })

/-- The records of a chunk go to the other bank unchanged, their poison with them (R264, R286). -/
def State.copyRecs (s : State) (p : Nat) (t : List Nat) (rb wb c : Nat) : State :=
  let a := ttRecAddr t rb c
  let b := ttRecAddr t wb c
  let bad := (touchedGranules a (ttRecBytes t)).filter fun g => s.poison.get false g
  bad.foldl (fun u g => u.setPoison (g - a + b)) (s.storeFor (prfUnit p) b (s.bytesAt a (ttRecBytes t)) 0xFFFF)

/-- A chunk that is not applied keeps its records, which go to the other bank under sealed commit (R257, R263, R264), with the header
`h`; its working copy is written from the unchanged W. -/
def State.keepChunk (s : State) (p i c : Nat) (h : List Nat) : State :=
  let t := s.tt p i
  let rb := s.readBank p i
  let wb := s.writeBank p i
  (if rb = wb then s else s.copyRecs p t rb wb c).finishChunk p i c h ((s.readRecs t rb c).map Rec4.w)

/-- A non-finite chunk is counted, and SKIPPED is due in its tensor's record (R263). -/
def State.noteSkipped (s : State) (p i c : Nat) : State :=
  (s.prfCount p 0x44 1).updPrf p fun y =>
    let r := y.tensorRun i
    y.setTensor i { r with first := if r.skipped = 0 then c else r.first, skipped := r.skipped + 1 }

/-- PRF_STATE_UNCORRECTABLE (R269, R275, R286): the chunk is not applied and awaits adoption; no working copy is written
from it (log entry 48). -/
def State.stateLost (s : State) (p i c : Nat) : State :=
  let k := chunkKey i c
  let s1 := s.updPrf p fun x =>
    let r := x.tensorRun i
    (x.setTensor i { r with lost := r.lost ++ [c] }).setChunk k { x.chunk k with done := true, copied := true }
  s1.prfRaise p Code.prfStateUncorrectable i c 0xFFFF 0 1

/-- The program of a tensor is invalid in this step (R253). -/
def Proofer.progBad (x : Proofer) (t : List Nat) : Bool := x.badProg.contains (ttProg t)

/-- An untouched chunk (R257): not applied, whatever the kind of its tensor; with an invalid program it counts as non-finite (R253). A
poisoned one is lost (R286). -/
def State.untouchedChunk (s : State) (p i c : Nat) : State :=
  let t := s.tt p i
  let x := s.prfP p
  let rb := s.readBank p i
  let spans := chunkSpans t rb c (rb = s.writeBank p i) false
  if s.spansPoison spans then (s.countSpans spans).stateLost p i c
  else (if x.progBad t && !x.idle then s.noteSkipped p i c else s).keepChunk p i c (s.chunkHdr t rb c)

/-- What applying one index gives (R254): the record, whether it is kept as read, whether it is unfrozen within the extents,
whether its g is finite, and a leak. -/
structure LaneOut where
  out    : Rec4
  keep   : Bool
  live   : Bool
  inside : Bool
  gFin   : Bool
  leak   : Bool
  deriving DecidableEq, Repr

/-- One index of a chunk (R254). -/
def State.applyLane (s : State) (t : List Nat) (c i d hdr : Nat) (body consts : List Nat) (g : Nat) (r : Rec4) : LaneOut :=
  match ttElem t c i with
  | none => ⟨r, true, false, false, true, false⟩
  | some _ =>
    if s.frozenAt t c i then ⟨r, true, false, true, true, !ff32.isZero g⟩
    else ⟨runRule body consts g (catchUp hdr d consts r), false, true, true, ff32.isFinite g, false⟩

/-- Every field of a record is finite. -/
def Rec4.finite (r : Rec4) : Bool := ff32.isFinite r.w && ff32.isFinite r.m && ff32.isFinite r.v && ff32.isFinite r.a

/-- Every parameter of a chunk is frozen: each bit of the bitmap that belongs to one is 1 (R256; log entry 174). -/
def State.whollyFrozen (s : State) (t : List Nat) (c : Nat) : Bool :=
  ttMaskEn t && (List.range (ttWidth t)).all fun i => (ttElem t c i).isNone || s.frozenAt t c i

/-- Apply a chunk with gradient g (R254 to R261): `bad` says that the chunk is non-finite whatever g holds. A wholly frozen chunk is not
applied: only its W counts, in W2SUM (R256). -/
def State.applyChunk (s : State) (p i c : Nat) (g : List Nat) (bad : Bool) : State :=
  let t := s.tt p i
  let x := s.prfP p
  let rb := s.readBank p i
  let wb := s.writeBank p i
  let frozen := s.whollyFrozen t c
  let lost := bad || x.progBad t
  let spans := chunkSpans t rb c (frozen && rb = wb) true
  if s.spansPoison spans then (s.countSpans spans).stateLost p i c
  else
    let h := s.chunkHdr t rb c
    let recs := s.readRecs t rb c
    let init := bitOf (h.getD 1 0) 0
    let d := if ttRows t && init then x.count - h.getD 0 0 - 1 else 0
    let slotHdr := s.progData p (ttProg t) 0
    let body := (ruleBody ((List.range 64).map fun w => s.progData p (ttProg t) (w + 1))).getD []
    let consts := s.constants p t
    let lanes := recs.zipIdx.map fun r => s.applyLane t c r.2 d slotHdr body consts (g.getD r.2 0) r.1
    let leaks := (lanes.filter LaneOut.leak).length
    let s0 := s.prfCount p 0x64 leaks
    if frozen && !lost then
      s0.keepChunk p i c (setHdr64 h 4 (ledgerSum ((lanes.zip recs).map fun z => if z.1.inside then sq64 z.2.w else 0)))
    else
      let nonfin := lost || lanes.any fun l => l.live && (!l.gFin || !l.out.finite)
      let outs := (lanes.zip recs).map fun l => if nonfin then (l.2, true) else (l.1.out, l.1.keep)
      let bytes := s.recBytes t c outs
      let sel := fun (f : (LaneOut × Rec4) × (Rec4 × Bool) × Nat → Nat) (q : LaneOut → Bool) =>
        (((lanes.zip recs).zip (outs.zip ((List.range lanes.length).map fun j => g.getD j 0)))).map fun z =>
          if q z.1.1 then f (z.1, (z.2.1, z.2.2)) else 0
      let w2 := ledgerSum (sel (fun z => sq64 z.2.1.1.w) fun l => l.inside)
      let g2 := ledgerSum (sel (fun z => sq64 z.2.2) fun l => l.live && l.gFin)
      let d2 := ledgerSum (sel (fun z =>
        let dw := ff64.sub (ff32.convertTo ff64 z.2.1.1.w) (ff32.convertTo ff64 z.1.2.w)
        ff64.mul dw dw) fun l => l.live && l.gFin)
      let gs := (lanes.zip ((List.range lanes.length).map fun j => g.getD j 0))
      let gmax := finiteMax ((gs.filter fun z => z.1.live && z.1.gFin).map Prod.snd)
      let nf := (gs.filter fun z => z.1.live && !z.1.gFin).length
      let h1 := if nonfin then h else (h.set 0 (x.count % 2 ^ 32)).set 1 1
      let h2 := setHdr64 (setHdr64 (setHdr64 (setHdr64 h1 2 (crc64 bytes)) 4 w2) 6 g2) 8 d2
      let h3 := (((h2.set 10 gmax).set 11 nf).set 12 (s.ctl.stepNo % 2 ^ 32))
      let s1 := if nonfin && rb = wb then s0 else s0.storeFor (prfUnit p) (ttRecAddr t wb c) bytes 0xFFFF
      let s2 := if nonfin then s1.noteSkipped p i c
        else (s1.prfCount p 0x40 1).prfCount p 0x58 (b2n (decide (0 < d)))
      s2.finishChunk p i c h3 (outs.map fun o => o.1.w)

/-- The chunks of an entry whose records the package holds and nobody settled in the step, those of FROZEN layers, go to the other bank
under sealed commit, so that every pointer may flip (R264); a poisoned one is lost (R286). -/
def State.carryOver (s : State) (p : Nat) : State :=
  if !s.sealedCommit p then s
  else (s.entries p).foldl (fun u i =>
    let t := s.tt p i
    let rb := s.readBank p i
    let wb := s.writeBank p i
    ((ttServed t p).filter fun c => s.mine p t c && !((s.prfP p).chunk (chunkKey i c)).done).foldl (fun v c =>
      let spans := chunkSpans t rb c false false
      if v.spansPoison spans then (v.countSpans spans).stateLost p i c
      else (v.copyRecs p t rb wb c).storeFor (prfUnit p) (ttHdrAddr t wb c) (hdrBytes (s.chunkHdr t rb c)) 0xFFFF) u) s

/-- The chunks of an entry whose records enter its shard digest: those that the package updates (R232, R267). -/
def State.shardChunks (s : State) (p i : Nat) : List Nat := (ttServed (s.tt p i) p).filter (s.mine p (s.tt p i))

/-- The headers that the shard digests and the seal's records are formed from are read (R261, R267): a poisoned one is counted, and its chunk
is lost (R286, R291; log entry 217). -/
def State.checkHdrs (s : State) (p : Nat) : State :=
  (s.entries p).foldl (fun u i =>
    (s.shardChunks p i).foldl (fun v c =>
      let span := [(ttHdrAddr (s.tt p i) (s.writeBank p i) c, 64)]
      if v.spansPoison span && !((v.prfP p).tensorRun i).lost.contains c then (v.countSpans span).stateLost p i c else v) u) s

/-- Bytes of a chunk's working copy as WC_CRC covers them (R267). -/
def State.wcBytes (s : State) (p i c : Nat) : Nat :=
  let t := s.tt p i
  let v := s.levView (p / 2) (ttLeaven t)
  ((wcLines t v.fmt.bits c).map fun ln =>
    ceilDiv (ln.elems.length * v.fmt.bits) 8 + (match v.scale with | .none => 0 | _ => ceilDiv ln.elems.length 32)).sum

/-- The shard digest of an entry, from the headers of the bank that the step wrote (R267). -/
def State.shardDigest (s : State) (p i : Nat) : Nat :=
  let t := s.tt p i
  let bank := s.writeBank p i
  let r := (s.shardChunks p i).foldl (fun (a : Nat × Nat) c =>
    let h := s.chunkHdr t bank c
    (crcConcat a.1 (hdr64 h 2) (ttRecBytes t), crcConcat a.2 (hdr64 h 13) (s.wcBytes p i c))) (0, 0)
  r.1 + 2 ^ 64 * r.2

end Sys2Proof.Machine
end

