-- ==== Sys2Proof/Machine/Coll.lean ====
section
/-! DEFINITION. The collectives engines: ring and torus sums, gathers, window credits, timeouts, aborts, conduits and bulk transfers
(R327, R330 to R338). -/

namespace Sys2Proof.Machine

/-- The engine that writes on behalf of divergence recovery: the collectives engine of ED0. -/
abbrev colUnit : MemUnit := .collectives 0

/-- The working-copy bytes of a chunk go to their places in a slot: element bytes in layout order, then scale bytes (R259, R267). -/
def State.putCopy (s : State) (p i c slot : Nat) (bs : List Byte) : State :=
  let t := s.tt p i
  let v := s.levView (p / 2) (ttLeaven t)
  let bits := v.fmt.bits
  let plane := ttWc t slot + 64
  let scales := plane + wcScaleOff t (s.ceilBits (p / 2) (ttLeaven t))
  let lines := wcLines t bits c
  let r := lines.foldl (fun (a : State × List Byte) ln =>
    let w := ln.elems.length * bits
    let n := ceilDiv w 8
    (a.1.storeFor colUnit (plane + ln.bitOff / 8) (a.1.mixBits plane ln.bitOff w (leNat (a.2.take n))) 0xFFFF, a.2.drop n)) (s, bs)
  match v.scale with
  | .none => r.1
  | _ => (lines.foldl (fun (a : State × List Byte) ln =>
      let n := ceilDiv ln.elems.length 32
      (a.1.storeFor colUnit (scales + ln.scaleOff bits) (a.2.take n) 0xFFFF, a.2.drop n)) r).1

/-- Where the working copy of a chunk lies in a slot: the spans of its elements and of its scales. -/
def State.copySpans (s : State) (p i c slot : Nat) : List (Nat × Nat) :=
  let t := s.tt p i
  let v := s.levView (p / 2) (ttLeaven t)
  let bits := v.fmt.bits
  let plane := ttWc t slot + 64
  let scales := plane + wcScaleOff t (s.ceilBits (p / 2) (ttLeaven t))
  let lines := wcLines t bits c
  lines.map (fun ln => (plane + ln.bitOff / 8, ceilDiv (ln.bitOff % 8 + ln.elems.length * bits) 8)) ++
    (match v.scale with
     | .none => []
     | _ => lines.map fun ln => (scales + ln.scaleOff bits, ceilDiv ln.elems.length 32))

/-- Words of a collective group entry in force (R331), and its fields. -/
def State.grpWord (s : State) (g w : Nat) : Nat := (s.shAt (winGroup g w)).toNat
def State.grpValid (s : State) (g : Nat) : Bool := bitOf (s.grpWord g 0) 0
def State.grpRx (s : State) (g : Nat) : Nat := if s.grpValid g then max 1 (bitsOf (s.grpWord g 0) 13 2) else 1
def State.grpRy (s : State) (g : Nat) : Nat :=
  if s.grpValid g && bitOf (s.grpWord g 0) 1 then max 1 (bitsOf (s.grpWord g 0) 25 14) else 1
def State.grpPos (s : State) (g : Nat) : Nat := if s.grpValid g then bitsOf (s.grpWord g 1) 11 0 else 0
/-- The port codes toward +X (0), −X (1), +Y (2) and −Y (3). -/
def State.grpPorts (s : State) (g dir : Nat) : List Nat :=
  if s.grpValid g then ([0, 1, 2, 3].map fun i => bitsOf (s.grpWord g (2 + dir)) (8 * i + 7) (8 * i)).filter fun c => decide (c < 96) else []
/-- Every port that an operation on the group uses (R337). -/
def State.grpAll (s : State) (g : Nat) : List Nat := [0, 1, 2, 3].flatMap (s.grpPorts g)

/-- COL_CTRL and COL_WINDOW (chapter 12). -/
def State.colCtrl (s : State) : Word := s.shAt (regAddr Page.coll 0x100)
def State.colWait (s : State) : Nat := fld s.colCtrl 8 1
def State.grpReduce (s : State) : Nat := fld s.colCtrl 11 9
def State.grpGather (s : State) : Nat := fld s.colCtrl 14 12
def State.colWindow (s : State) : Nat := fld (s.shAt (regAddr Page.coll 0x104)) 6 0
/-- A counter of the collectives page. -/
def State.colCount (s : State) (off n : Nat) : State := s.count (regAddr Page.coll off) n

/-- A member's place in its group and the place of a chunk's owner, along the dimension that is summed first and the one after it (R331, R333,
R334); `swap` where Y is first. -/
structure Place where
  swap : Bool
  rx : Nat
  ry : Nat
  x  : Nat
  y  : Nat
  ox : Nat
  oy : Nat
  deriving DecidableEq, Repr

/-- The entry of the tensor table that an operation's number names, and the Proofer that serves chunk `c` of it. -/
def opDie (num : Nat) : Nat := num / 1024
def opEntry (num : Nat) : Nat := num % 1024
def opPrf (num c : Nat) : Nat := 2 * opDie num + c % 2
def State.opTable (s : State) (num c : Nat) : List Nat := s.tt (opPrf num c) (opEntry num)
/-- The chunks of the operation's tensor. -/
def State.opChunks (s : State) (num : Nat) : Nat := max (ttChunks (s.opTable num 0)) (ttChunks (s.opTable num 1))

/-- The owner position of chunk `c` (R232, R333). -/
def State.ownerOf (s : State) (o : ColOp) (c : Nat) : Nat :=
  let n := s.grpRx o.group * s.grpRy o.group
  match o.kind with
  | .allReduce => c % n
  | _ => c / max 1 (ttShard (s.opTable o.num c)) % max 1 (s.replicas (opPrf o.num c)) % n

/-- Places for chunk `c` of an operation: x = r mod RX, y = r div RX. Exact mode sums along X first; Relaxed mode may take either dimension first
for each chunk, which is open (R334; log entry 189). -/
def State.place (s : State) (o : ColOp) (c : Nat) : Place :=
  let rx := s.grpRx o.group
  let ry := s.grpRy o.group
  let r := s.grpPos o.group
  let w := s.ownerOf o c
  if s.colCtrl.getLsbD 0 && o.kind ≠ .allGather && decide (1 < rx ∧ 1 < ry) && Config.colFirstY o.num c then
    { swap := true, rx := ry, ry := rx, x := r / rx, y := r % rx, ox := w / rx, oy := w % rx }
  else { swap := false, rx := rx, ry := ry, x := r % rx, y := r / rx, ox := w % rx, oy := w / rx }

/-- Element by element in FP32, the value that has travelled first (R333): ABSENT of every part, POISON of any. -/
def ColVal.plus (a b : ColVal) : ColVal :=
  { data := (a.data.zip b.data).map fun p => ff32.add p.1 p.2
    absent := a.absent && b.absent, poison := a.poison || b.poison }

/-- A quiet NaN as R243 sends it. -/
abbrev qNan : Nat := 0x7FC00000

/-- A part of a reduction that carries POISON: every element is the quiet NaN (R243, R335). -/
def ColVal.marked (v : ColVal) : ColVal := if v.poison then { v with data := v.data.map fun _ => qNan } else v

/-- What a member does with a chunk after news of it: the chunk, what it sends (along the second dimension or not), and the finished value at the
owner. -/
structure ColMove where
  chunk : ColChunk
  sends : List (Bool × ColVal)
  fin   : Option ColVal
  deriving DecidableEq, Repr

/-- The sum along the first dimension (R333, R334): the member after the owner's column starts, each adds its own, and the row's sum rests in the owner's
column. -/
def colAlongX (q : Place) (k : ColChunk) : ColMove :=
  if k.sentX || k.row.isSome then ⟨k, [], none⟩
  else match k.own with
  | none => ⟨k, [], none⟩
  | some g =>
    let put := fun v : ColVal => if q.x = q.ox then ⟨{ k with row := some v }, [], none⟩ else ⟨{ k with sentX := true }, [(false, v)], none⟩
    if q.rx = 1 ∨ q.x = (q.ox + 1) % q.rx then put g
    else match k.inX with
      | none => ⟨k, [], none⟩
      | some v => put (v.plus g)

/-- The sum of those sums along the second dimension, at the owner's place in the first (R334). -/
def colAlongY (q : Place) (k : ColChunk) : ColMove :=
  if k.sentY || k.done then ⟨k, [], none⟩
  else match k.row with
  | none => ⟨k, [], none⟩
  | some g =>
    let put := fun v : ColVal => if q.y = q.oy then ⟨k, [], some v⟩ else ⟨{ k with sentY := true }, [(true, v)], none⟩
    if q.ry = 1 ∨ q.y = (q.oy + 1) % q.ry then put g
    else match k.inY with
      | none => ⟨k, [], none⟩
      | some v => put (v.plus g)

/-- Messages by the axis they take: along Y or X. -/
def Place.along (q : Place) (l : List (Bool × ColVal)) : List (Bool × ColVal) := l.map fun m => (m.1 != q.swap, m.2)

/-- The finished chunk goes around once (R333): from the owner along the second dimension, and along the first everywhere. -/
def colBroadcast (q : Place) (viaX : Bool) (v : ColVal) : List (Bool × ColVal) :=
  (if !viaX && decide ((q.y + 1) % q.ry ≠ q.oy) then [(true, v)] else []) ++
    (if decide ((q.x + 1) % q.rx ≠ q.ox) then [(false, v)] else [])

/-- An operation by its number and channel: a gather runs on VC2, a reduction on VC1 (R332). -/
def ColOp.isGather (o : ColOp) : Bool := o.kind = .allGather
def State.findOp (s : State) (num : Nat) (gather : Bool) : Option ColOp :=
  s.col.ops.find? fun o => o.num = num && o.isGather = gather
def State.putOp (s : State) (o : ColOp) : State :=
  { s with col := { s.col with ops := s.col.ops.map fun p => if p.num = o.num && p.isGather = o.isGather then o else p } }

/-- A window credit goes to the upstream neighbour in a dimension, on VC0 (R332): it has the KIND of collective data, the operation's number,
and the count as its OFFSET (log entry 221). -/
def State.grant (s : State) (g num : Nat) (gather alongY : Bool) (n : Nat) : State :=
  let s1 := { s with col := { s.col with notices := s.col.notices ++ [ColNotice.credit num alongY n] } }
  match (s.grpPorts g (if alongY then 3 else 1)).head? with
  | none => s1
  | some c => s1.sendMsg c 0 3 num (s.grpPos g) 0 n [BitVec.ofNat 8 (b2n alongY + 2 * b2n gather)]

/-- An operation starts (R332): it reserves its staging window and grants its upstream neighbours one credit for each reserved chunk. One that
has ended in the step does not start again. -/
def State.startOp (s : State) (num : Nat) (gather : Bool) : State :=
  if (s.findOp num gather).isSome || s.col.ended.contains (num, gather) then s
  else
    let g := if gather then s.grpGather else s.grpReduce
    let kind := if gather then ColKind.allGather else if s.ownerMode (opPrf num 0) then .reduceScatter else .allReduce
    let o : ColOp := { num := num, kind := kind, group := g, winX := 0, winY := 0, waiting := [], chunks := .empty, progress := s.cad.tickNo }
    let w := s.colWindow
    let s1 := { s with col := { s.col with ops := s.col.ops ++ [o] } }
    let s2 := if 1 < s.grpRx g then s1.grant g num gather false w else s1
    if 1 < s.grpRy g then s2.grant g num gather true w else s2

/-- Bytes of a collective value: FP32 elements, or the bytes of a working copy. -/
def ColOp.bytesOf (o : ColOp) (v : ColVal) : List Byte :=
  if o.isGather then v.data.map (BitVec.ofNat 8) else v.data.flatMap (leBytes 4)

/-- This member's part of every chunk is over (R332). -/
def State.opOver (s : State) (o : ColOp) : Bool :=
  o.waiting.isEmpty && (List.range (s.opChunks o.num)).all fun c => (o.chunks.get ColChunk.none c).done

/-- The first message that a window admits leaves (R332): chunk c on port c mod (ports in its direction) (R331), marked where it is the member's
last of the operation (R328). -/
def State.opSend (s : State) (num : Nat) (gather : Bool) : State :=
  match s.findOp num gather with
  | none => s
  | some o =>
    let ports := fun (m : ColSend) => s.grpPorts o.group (if m.alongY then 2 else 0)
    let may := fun (m : ColSend) => decide (0 < (if m.alongY then o.winY else o.winX)) && !(ports m).isEmpty
    match o.waiting.find? may with
    | none => s
    | some m =>
      let l := ports m
      let o1 := { o with
        waiting := eraseFirst (fun x => may x) o.waiting, progress := s.cad.tickNo
        winX := if m.alongY then o.winX else o.winX - 1, winY := if m.alongY then o.winY - 1 else o.winY }
      (s.putOp o1).sendMsg (l.getD (m.chunk % l.length) 0) (if gather then 2 else 1) 3 num (s.grpPos o.group)
        (b2n m.val.absent + 2 * b2n m.val.poison + 4 * b2n (s.opOver o1)) m.chunk (o.bytesOf m.val)

/-- Every message that the windows admit leaves. -/
def State.opPump (s : State) (num : Nat) (gather : Bool) : State :=
  match s.findOp num gather with
  | none => s
  | some o => o.waiting.foldl (fun t _ => t.opSend num gather) s

/-- A finished value is delivered here (R335): a reduced chunk to its Proofer, a working copy into the next slot, poison with it (R286), with the
buffer's header for chunk 0. -/
def State.opDeliver (s : State) (o : ColOp) (c : Nat) (v : ColVal) : State :=
  let p := opPrf o.num c
  let i := opEntry o.num
  let s1 := s.colCount 0x48 1
  if o.isGather then
    let t := s.tt p i
    let slot := s.nextSlot p (ttLayer t)
    let s4 := s1.putCopy p i c slot (v.data.map (BitVec.ofNat 8))
    let s2 := if v.poison then (s4.copySpans p i c slot).foldl (fun u r => u.setPoisons r.1 r.2) s4 else s4
    let s3 := if c = 0 && p % 2 = 0 then
        s2.storeFor (prfUnit p) (ttWc t slot) (s2.headerBytes (p / 2) (ttLeaven t) 0xFFF (ttK t * ttN t)) 0xFFFF
      else s2
    s3.updPrf p fun x => x.setChunk (chunkKey i c) { x.chunk (chunkKey i c) with copied := true }
  else { s1 with spine := { s1.spine with
    deliveries := s1.spine.deliveries ++ [{ prf := p, entry := i, chunk := c, g := v.data, absent := v.absent, poison := v.poison }] } }

/-- Put a chunk's progress and its messages into the operation. -/
def ColOp.note (o : ColOp) (c : Nat) (k : ColChunk) (sends : List (Bool × ColVal)) (tick : Nat) : ColOp :=
  { o with
    chunks := o.chunks.set ColChunk.none c k
    waiting := o.waiting ++ sends.map fun x => { alongY := x.1, chunk := c, val := x.2 }
    progress := tick }

/-- The operation ends when this member's part of every chunk is over (R332). -/
def State.opClose (s : State) (num : Nat) (gather : Bool) : State :=
  match s.findOp num gather with
  | none => s
  | some o =>
    if s.opOver o then
      State.colCount { s with col := { s.col with
        ops := s.col.ops.filter fun p => !(p.num = num && p.isGather = gather), ended := s.col.ended ++ [(num, gather)] } } 0x40 1
    else s

/-- A reduction goes on with chunk `c` after its own sum or a partial has come (R333, R334). -/
def State.opReduce (s : State) (o : ColOp) (c : Nat) (k : ColChunk) : State :=
  let q := s.place o c
  let a := colAlongX q k
  let b := colAlongY q a.chunk
  let past := o.kind = .reduceScatter && (b.chunk.sentX || b.chunk.sentY)
  match b.fin with
  | none => (s.putOp (o.note c { b.chunk with done := past } (q.along (a.sends ++ b.sends)) s.cad.tickNo)).opPump o.num o.isGather
  | some v =>
    let out := if o.kind = .allReduce then colBroadcast q false v else []
    let s1 := (s.putOp (o.note c { b.chunk with done := true } (q.along (a.sends ++ b.sends ++ out)) s.cad.tickNo)).colCount 0x44 1
    (s1.opDeliver o c v).opPump o.num o.isGather

/-- A finished chunk arrives and goes on around the group (R333, R335); `viaX`: along the first dimension. -/
def State.opFinished (s : State) (o : ColOp) (c : Nat) (viaX : Bool) (v : ColVal) : State :=
  let k := o.chunks.get ColChunk.none c
  let q := s.place o c
  ((s.putOp (o.note c { k with done := true } (q.along (colBroadcast q viaX v)) s.cad.tickNo)).opDeliver o c v).opPump o.num o.isGather

/-- A Proofer's sum goes to the collectives engine (R243, R257, R333). -/
def State.colExport (s : State) (p i c : Nat) (v : ColVal) : State :=
  let num := 1024 * (p / 2) + i
  let s1 := s.startOp num false
  match s1.findOp num false with
  | none => s1
  | some o => (s1.opReduce o c { o.chunks.get ColChunk.none c with own := some v.marked }).opClose num false

/-- The working copy of a chunk that the package owns goes to the other members (R335), with POISON where it carries poison (R286). -/
def State.colGather (s : State) (p i c : Nat) (bytes : List Byte) (poison : Bool) : State :=
  let num := 1024 * (p / 2) + i
  let s1 := s.startOp num true
  match s1.findOp num true with
  | none => s1
  | some o =>
    let v : ColVal := { data := bytes.map BitVec.toNat, absent := false, poison := poison }
    let k := { o.chunks.get ColChunk.none c with done := true }
    ((s1.putOp (o.note c k ((s1.place o c).along (colBroadcast (s1.place o c) false v)) s.cad.tickNo)).opPump num true).opClose num true

/-- The bytes of a chunk's working copy in a slot, as WC_CRC covers them (R267). -/
def State.copyBytes (s : State) (p i c slot : Nat) : List Byte :=
  let t := s.tt p i
  let v := s.levView (p / 2) (ttLeaven t)
  let bits := v.fmt.bits
  let plane := ttWc t slot + 64
  let scales := plane + wcScaleOff t (s.ceilBits (p / 2) (ttLeaven t))
  let lines := wcLines t bits c
  let elems := lines.flatMap fun ln => s.planeBits plane ln.bitOff (ln.elems.length * bits)
  match v.scale with
  | .none => elems
  | _ => elems ++ lines.flatMap fun ln => s.bytesAt (scales + ln.scaleOff bits) (ceilDiv ln.elems.length 32)

/-- After a chunk is settled in Owner mode its owner hands over the working copy (R335); one that is read with poison, or that of a chunk
whose state is lost, carries POISON (R275, R286; log entry 48). -/
def State.gatherAfter (s : State) (p i c : Nat) : State :=
  let t := s.tt p i
  if s.ownerMode p && decide (1 < s.replicas p) && !s.layerIsFrozen p (ttLayer t) && s.mine p t c &&
      ((s.prfP p).chunk (chunkKey i c)).copied then
    let slot := s.nextSlot p (ttLayer t)
    let l := s.copySpans p i c slot
    (s.countSpans l).colGather p i c (s.copyBytes p i c slot) (s.spansPoison l || ((s.prfP p).tensorRun i).lost.contains c)
  else s

/-- The longest working copy of a chunk that a gather can carry (R328, R335): that of its tensor entry in the receiver's own tables. -/
def State.gatherBytes (s : State) (num c : Nat) : Nat := s.wcBytes (opPrf num c) (opEntry num) c

/-- Data came along Y: the port lies toward −Y of the group. -/
def State.cameY (s : State) (g code : Nat) : Bool := (s.grpPorts g 3).contains code

/-- COLLECTIVE_DATA (R332 to R335): a message is added into the ring sum and forwarded, or is a finished chunk that is forwarded and
delivered. Its place in the staging window is free again and is granted anew. A chunk longer than its object is discarded (R328). -/
def execCollectiveData (code : PortCode) (s : State) : Host.Outcome State Fault Refusal :=
  if s.still then .next s else
  let gather := match (s.subP code.val).rx.find? fun m => bitsOf (leAt m.2 0 4) 3 0 = 3 with
    | some m => m.1 = 2
    | none => false
  match s.takeMsg code.val 3 with
  | none => .next s
  | some (m, s0) =>
    let num := msgId m
    let c := msgOffset m
    let t := s.opTable num c
    let data := msgData m
    if s.col.timedOut then .next s0
    else if !ttValid t || decide (ttChunks t ≤ c) || decide ((if gather then s.gatherBytes num c else 4 * ttWidth t) < data.length) then
      .next (s0.badMessage code.val 0xFFFF)
    else
      let s1 := s0.startOp num gather
      match s1.findOp num gather with
      | none => .next s1
      | some o =>
        let y := s1.cameY o.group code.val
        let s2 := s1.grant o.group num gather y 1
        let f := msgFlags m
        let v : ColVal :=
          { data := if gather then data.map BitVec.toNat else (List.range (data.length / 4)).map fun i => leAt data (4 * i) 4
            absent := bitOf f 0, poison := bitOf f 1 }
        let k := o.chunks.get ColChunk.none c
        let second := y != (s2.place o c).swap
        let fin := gather || (if second then k.sentY else k.sentX)
        let s3 := if k.done then s2
          else if fin then s2.opFinished o c (!second) v
          else s2.opReduce o c (if second then { k with inY := some v.marked } else { k with inX := some v.marked })
        .next (s3.opClose num gather)

/-- The notice of a window credit, where a sub-port toward the downstream neighbour has received one, is taken (R332; log entry 221). -/
def State.takeCredit (s : State) (num : Nat) (gather alongY : Bool) (n : Nat) : State :=
  let g := if gather then s.grpGather else s.grpReduce
  let is := fun (m : Nat × List Byte) =>
    m.1 = 0 && bitsOf (leAt m.2 0 4) 3 0 = 3 && msgId m.2 = num && msgOffset m.2 = n && leAt m.2 16 1 = b2n alongY + 2 * b2n gather
  match (s.grpPorts g (if alongY then 2 else 0)).find? fun c => (s.subP c).rx.any is with
  | none => s
  | some c => s.updSub c fun x => { x with rx := eraseFirst is x.rx }

/-- WINDOW_CREDIT (R332): the downstream neighbour of an operation grants credit for chunks; an operation that the neighbour started
first starts here. -/
def execWindowCredit (num : Fin 4096) (gather alongY : Bool) (n : Nat) (s : State) : Host.Outcome State Fault Refusal :=
  if s.still then .next s else
  let s0 := s.takeCredit num.val gather alongY n
  if s.col.timedOut then .next s0
  else
    let s1 := s0.startOp num.val gather
    match s1.findOp num.val gather with
    | none => .next s1
    | some o =>
      let o1 := if alongY then { o with winY := o.winY + n } else { o with winX := o.winX + n }
      .next (((s1.putOp o1).opPump num.val gather).opClose num.val gather)

/-- A collective abort leaves on VC0 in both directions of a group, once in a step (R337). -/
def State.sendAbort (s : State) (g : Nat) : State :=
  if s.col.aborted.contains g then s
  else
    let num := ((s.col.ops.find? fun o => o.group = g).map fun o => o.num).getD 0
    (s.grpAll g).eraseDups.foldl (fun t c => t.sendMsg c 0 4 num (s.grpPos g) 0 0 [0])
      { s with col := { s.col with aborted := s.col.aborted ++ [g], notices := s.col.notices ++ [.abort g] } }

/-- COL_TIMEOUT is raised, and every Chanter acts as on ABANDON (R337, R338, R341). -/
def State.timeOut (s : State) (code cause which since : Nat) : State :=
  let s1 := (State.colCount { s with col := { s.col with timedOut := true } } 0x4C 1).raise Page.coll Code.colTimeout
    (s.linkPayload code 0xFF cause which since (if code < 96 then laneCount (s.subP code).active else 0))
  [0, 1, 2, 3].foldl (fun t d => t.dispose d 2) s1

/-- The operations of a group end, and the group is told (R337). -/
def State.endOps (s : State) (g : Nat) : State :=
  let s1 := s.sendAbort g
  { s1 with col := { s1.col with ops := s1.col.ops.filter fun o => o.group ≠ g } }

/-- The tick of the last progress of a group's operations (R341). -/
def State.lastProgress (s : State) (g : Nat) : Nat := maxNat ((s.col.ops.filter fun o => o.group = g).map fun o => o.progress)

/-- The operations of a group end with COL_TIMEOUT (R337). -/
def State.endGroup (s : State) (g code cause : Nat) : State := (s.endOps g).timeOut code cause g (s.lastProgress g)

/-- COLLECTIVE_ABORT (R337): an abort is received on a port of a group; it is forwarded once, and COL_TIMEOUT is raised once with cause 2; where
several group entries name the port, all end, and the record names the first. A second abort in the step is only counted. -/
def execCollectiveAbort (code : PortCode) (s : State) : Host.Outcome State Fault Refusal :=
  if s.still then .next s else
  match s.takeMsg code.val 4 with
  | none => .next s
  | some (_, s0) =>
    let s1 := s0.colCount 0x50 1
    let hit := (List.range 8).filter fun g => (s1.grpAll g).contains code.val && !s1.col.aborted.contains g
    match hit with
    | [] => .next s1
    | g :: _ => .next ((hit.foldl State.endOps s1).timeOut code.val 2 g (s1.lastProgress g))

/-- COL_TIMEOUT (R337): a port that the operations of a group use has a lost peer (cause 1), or one has made no progress for COL_WAIT
ticks (cause 3); for a conduit, its own port has a lost peer, or it has waited COL_WAIT ticks for a free entry, with an entry handed to it or a SEND of a
running step before it. A conduit ends once in a step. -/
def execColTimeout (t : ColTarget) (s : State) : Host.Outcome State Fault Refusal :=
  if s.still then .next s else
  match t with
  | .group g =>
    let mine := s.col.ops.filter fun o => o.group = g.val
    if mine.isEmpty then .next s
    else match (s.grpAll g.val).find? fun c => (s.subP c).peerLost with
      | some c => .next (s.endGroup g.val c 1)
      | none =>
        if mine.any fun o => decide (o.progress + s.colWait ≤ s.cad.tickNo) then .next (s.endGroup g.val 0xFFFF 3) else .next s
  | .conduit k =>
    let c := s.cnd k.val
    let busy := !c.handed.isEmpty || (c.waitFrom.isSome && (List.range 4).any s.mayIssue)
    let clear := State.setCnd { s with col := { s.col with shut := s.col.shut ++ [k.val] } } k.val { c with handed := [], waitFrom := none }
    let since := c.waitFrom.getD 0
    if !s.cndValid k.val || s.col.shut.contains k.val then .next s
    else if (s.subP (s.cndPort k.val)).peerLost then
      .next (clear.timeOut (s.cndPort k.val) 1 k.val (c.waitFrom.getD (s.subP (s.cndPort k.val)).lastHb))
    else if !busy then .next s
    else match c.waitFrom with
      | none => .next s
      | some w => if w + s.colWait ≤ s.cad.tickNo then .next (clear.timeOut (s.cndPort k.val) 3 k.val since) else .next s

/-- CONDUIT_NOTICE (R330): a destination entry is free, and an entry that waits for it goes out. -/
def execConduitNotice (code : PortCode) (s : State) : Host.Outcome State Fault Refusal :=
  if s.still then .next s else
  match s.takeMsg code.val 2 with
  | none => .next s
  | some (m, s0) =>
    let k := msgId m % 32
    let c := s0.cnd k
    let i := msgOffset m / max 1 (s0.cndBytes k)
    let free := if c.free.contains i then c.free else c.free ++ [i]
    let wait := match c.handed with
      | [] => if free.contains c.next then none else c.waitFrom
      | j :: _ => if free.contains j then none else c.waitFrom
    .next ((s0.setCnd k { c with free := free, waitFrom := wait }).cndPump k)

/-- The boundary entry of a die that begins at an address: die, backward ring or not, index (R175). -/
def State.ringEntryAt (s : State) (a : Nat) : Option (Nat × Bool × Nat) :=
  [0, 1, 2, 3].findSome? fun d =>
    let set := s.activeOf d
    let n := s.bndDepth d set
    ((List.range (2 * n)).find? fun j => s.bndBase d set + j * s.bndStride d set = a).map fun j => (d, decide (n ≤ j), j % max 1 n)

/-- The data of a message is written, with the poison that came with it (R280, R281, R286). -/
def State.storeMsg (s : State) (code : Nat) (m : List Byte) (a : Nat) : State :=
  let u := colUnitOf code
  let t := s.storeFor u a (msgData m) 0xFFFF
  if bitOf (msgFlags m) 1 then t.poisonFor u a (msgData m).length else t

/-- CONDUIT_DATA (R330): data is written into a destination entry; with its last byte the entry is delivered to its Chanter with the unit
record that it begins with (R177). `dest` is DEST_BASE, which the sender's conduit entry holds. -/
def execConduitData (code : PortCode) (dest : BitVec 46) (s : State) : Host.Outcome State Fault Refusal :=
  if s.still then .next s else
  match s.takeMsg code.val 1 with
  | none => .next s
  | some (m, s0) =>
    let k := msgId m % 32
    let n := s0.cndBytes k
    let off := msgOffset m
    let data := msgData m
    if !s0.cndValid k || decide (s0.cndEntries k * n < off + data.length) then
      .next (s0.badMessage code.val k)
    else
      let s1 := s0.storeMsg code.val m (dest.toNat + off)
      let i := off / max 1 n
      let c := s1.cnd k
      let got := c.got.get 0 i + data.length
      let a := dest.toNat + i * n
      if got < n then .next (s1.setCnd k { c with got := c.got.set 0 i got })
      else
        let s2 := s1.setCnd k { c with got := c.got.set 0 i 0 }
        match s2.ringEntryAt a with
        | none => .next s2
        | some (d, back, j) =>
          let u := (List.range 16).map fun w => s2.natAt (a + 4 * w) 4
          let s3 := s2.updCh d fun x => { x with
            inbox := x.inbox ++ [(back, j, u)], ringUsed := x.ringUsed.set 0 (b2n back) (x.ringUsed.get 0 (b2n back) + 1) }
          .next { s3 with col := { s3.col with held := s3.col.held ++ [(d, back, j, k)] } }

/-- Bytes that may leave the package on VC5 (R14, R269): of one tensor's state records or chunk headers in either bank, or of its working
copies. -/
def State.mayLeave (s : State) (a n : Nat) : Bool :=
  [0, 1, 2, 3, 4, 5, 6, 7].any fun p => (s.entries p).any fun i =>
    let t := s.tt p i
    (((ttRegions t true).1.take 3) ++ s.ttCopies p t).any fun r => decide (0 < n ∧ r.1 ≤ a ∧ a + n ≤ r.1 + r.2)

/-- The reports of a Leaven entry in the step as they travel in a bulk message (R39, R269; log entry 168): words W6 to W11. -/
def State.reportBytes (s : State) (d e : Nat) : List Byte := (List.range 6).flatMap fun i => leBytes 4 (s.lev d e (6 + i))

/-- The data of a bulk read request (R269, R327; log entry 168): address, length, and 1 + the Leaven entry whose reports are asked for
instead, as 4,096 × die + entry. -/
def bulkAsk (a n ask : Nat) : List Byte := record 16 [(0, 8, a), (8, 4, n), (12, 4, ask)]

/-- A bulk read request leaves on VC5, on the port of a conduit (R269, R329); where there is none, nothing leaves. -/
def State.askBulk (s : State) (a n ask : Nat) : State :=
  match (s.conduitsOn 5).head? with
  | none => s
  | some k => s.sendMsg (s.cndPort k) 5 6 (s.cndPeer k) (s.replicaId 0) 0 0 (bulkAsk a n ask)

/-- BULK_READ_REQUEST (R14, R269, R327): the bytes asked for are read and sent on VC5, in pieces with rising offsets; or the reports of a
Leaven entry. What may not leave the package is not sent, and the request is counted as discarded (log entry 170). -/
def execBulkReadRequest (code : PortCode) (addr : BitVec 46) (len : Nat) (s : State) : Host.Outcome State Fault Refusal :=
  if s.still then .next s else
  match s.takeMsg code.val 6 with
  | none => .next s
  | some (m, s0) =>
    let ask := leAt (msgData m) 12 4
    if ask ≠ 0 then
      .next (s0.sendBytes code.val 5 7 (msgId m) (msgOffset m) (s0.reportBytes ((ask - 1) / 4096 % 4) ((ask - 1) % 4096)) false)
    else if !s0.mayLeave addr.toNat len then .next (s0.portCount code.val 0x64 1)
    else
      let r := s0.loadFor (colUnitOf code.val) addr.toNat len 0xFFFF
      .next (((r.2.countPoison (touchedGranules addr.toNat len)).sendBytes code.val 5 7 (msgId m) (msgOffset m) r.1
        (s0.poisonedAt addr.toNat len)))

/-- Bulk data of `n` bytes lies within one object: the Trough of one Proofer or the crust of one die (R327, R328). -/
def bulkFits (a n : Nat) : Bool :=
  match regionOf a, regionOf (a + (n - 1)) with
  | .trough p _, .trough q _ => decide (p = q)
  | .crust d _, .crust e _ => decide (d = e)
  | .trough _ _, _ => false
  | .crust _ _, _ => false
  | _, _ => true

/-- BULK_DATA (R270, R327, R328): bulk data goes into a Trough or crust region; `addr` is the place that was reserved for it. Data that runs
beyond it is discarded. The data of a running import's conduit is its stream. -/
def execBulkData (code : PortCode) (addr : BitVec 46) (s : State) : Host.Outcome State Fault Refusal :=
  if s.still then .next s else
  match s.takeMsg code.val 7 with
  | none => .next s
  | some (m, s0) =>
    let a := addr.toNat + msgOffset m
    if !bulkFits a (msgData m).length then .next (s0.badMessage code.val (msgId m % 32))
    else
    let s1 := if s0.spine.importing && s0.spine.impConduit = some (msgId m % 32) then
        { s0 with spine := { s0.spine with impBytes := s0.spine.impBytes ++ msgData m } }
      else s0
    match regionOf a with
    | .trough _ _ => .next (s1.storeMsg code.val m a)
    | .crust _ _ => .next (s1.storeMsg code.val m a)
    | _ => .next (s1.unmapped (colUnitOf code.val) a 1 0xFFFF)

/-- The place of a boundary entry of a die: the forward ring, then the backward ring (R175). -/
def State.entryAddr (s : State) (d : Nat) (back : Bool) (i : Nat) : Nat :=
  let set := s.activeOf d
  s.bndBase d set + ((if back then s.bndDepth d set else 0) + i) * s.bndStride d set

/-- The unit record is written at the start of an entry, as the stream port of the sender writes the rest of it (R177, R182; log entry 166). -/
def State.putRecord (s : State) (d addr : Nat) (u : List Nat) : State :=
  s.storeFor (spUnit d 0) addr (((List.range 16).map fun i => u.getD i 0).flatMap (leBytes 4)) 0xFFFF

/-- SEND to a die of this package (R182): it waits while the receiving ring has no free entry. -/
def State.sendTo (s : State) (d n : Nat) (p : Phase) (r : PhaseRun) (back : Bool) (u : List Nat) : State :=
  let c := s.chD n
  let ring := b2n back
  let depth := s.bndDepth n (s.activeOf n)
  if depth ≤ c.ringUsed.get 0 ring then s
  else
    let i := c.ringNext.get 0 ring
    ((s.setCh n { c with
      inbox := c.inbox ++ [(back, i, u)]
      ringUsed := c.ringUsed.set 0 ring (c.ringUsed.get 0 ring + 1)
      ringNext := c.ringNext.set 0 ring ((i + 1) % max 1 depth) }).putRecord d (s.entryAddr n back i) u).pass d p r

/-- SEND over a conduit (R182, R330): it waits until the receiver has announced the next entry as free, and then hands the entry, with the
unit record at its start, to the conduit. -/
def State.sendOver (s : State) (d k : Nat) (p : Phase) (r : PhaseRun) (u : List Nat) : State :=
  let c := s.cnd k
  if !c.free.contains c.next then s.setCnd k { c with waitFrom := c.waitFrom.orElse fun _ => some s.cad.tickNo }
  else (((s.putRecord d (s.cndSend k + c.next * s.cndBytes k) u).handToConduit k).used).pass d p r

/-- SEND (R178, R182, R330): announces the unit's boundary entry to the neighbouring stage once the receiving ring has a free
entry. A stage outside the package is reached over a conduit on VC3; which one is not stated and is a free choice (log
entry 39). -/
def execSend (d : Die) (p : Phase) (s : State) : Host.Outcome State Fault Refusal :=
  if s.still then .next s else
  .next (s.chOp d p 7 fun r w =>
    let back := decide (opArg w = 1)
    let u := ((s.chD d).unit r.unit).info
    let st := s.stage d
    let dest_ := if back then (if st = 0 then none else some (st - 1))
      else if s.stagesOf d (s.activeOf d) ≤ st + 1 then none else some (st + 1)
    match dest_ with
    | none => s.pass d p r
    | some t =>
      match s.dieOfStage t with
      | some n => s.sendTo d n p r back u
      | none =>
        match (s.conduitsOn 3)[s.choose (s.conduitsOn 3).length]? with
        | none => s
        | some k => s.sendOver d k p r u)

end Sys2Proof.Machine
end

