-- ==== Sys2Proof/Machine/Proofer.lean ====
section
/-! DEFINITION. Arrival, contributions, deliveries, application and the notices of the Proofers (R239 to R247, R254, R257, R260,
R281, R282). -/

namespace Sys2Proof.Machine

/-- ENTRY, CHUNK and BYTE of an offset into an arrival window, and KIND (R281). -/
def winKind (o : Nat) : Bool := bitOf o 41
def winEntry (o : Nat) : Nat := bitsOf o 40 31
def winChunk (o : Nat) : Nat := bitsOf o 30 16
def winByte (o : Nat) : Nat := bitsOf o 15 0

/-- The rows of a contribution to chunk `c` (R239): the rows of 128 elements that hold an element within the logical extents, or the one
row of a ROWS tensor. For layout TILE that is the number that R239 states; for layout ROW see log entry 50. -/
def needRows (t : List Nat) (c : Nat) : Nat :=
  if ttRows t then 1
  else if ttRowLayout t then ceilDiv (min 16384 (ttK t * ttN t - 16384 * c)) 128
  else min 128 (ttK t - 128 * (c % max 1 (ceilDiv (ttK t) 128)))

/-- Elements of a row of a contribution: 128, or the width of a ROWS tensor (R239, R281). -/
def rowElems (t : List Nat) : Nat := if ttRows t then ttN t else 128

/-- Elements of a whole contribution. -/
def needElems (t : List Nat) (c : Nat) : Nat := needRows t c * rowElems t

/-- Every one of the first `n` elements has arrived. -/
def Contribution.has (k : Contribution) (n : Nat) : Bool := (List.range n).all fun i => k.parts.get noElem i ≠ noElem

/-- A contribution is complete (R239). -/
def Contribution.complete (k : Contribution) (t : List Nat) : Bool := k.has (needElems t k.chunk)

/-- Elements join a contribution from place `i` on. -/
def Contribution.put (k : Contribution) (i : Nat) (es : List Nat) : Contribution :=
  { k with parts := (es.zipIdx.foldl (fun (u : Tbl Nat) e => u.set noElem (i + e.2) e.1) k.parts) }

/-- Elements join the contribution of the list that they belong to, or begin one. -/
def joinParts (is : Contribution → Bool) (new : Contribution) (i : Nat) (es : List Nat) (l : List Contribution) : List Contribution :=
  if l.any is then l.map fun k => if is k then k.put i es else k else l ++ [new.put i es]

/-- A piece of a row joins its contribution, which begins with its first piece (R239): that of the same chunk, micro-batch, step and
source that is not complete yet. -/
def Proofer.addPiece (x : Proofer) (t : List Nat) (k : Contribution) (i : Nat) (es : List Nat) : Proofer :=
  let is := fun q : Contribution =>
    decide (q.entry = k.entry ∧ q.chunk = k.chunk ∧ q.mb = k.mb ∧ q.step = k.step ∧ q.src = k.src) && !q.complete t
  { x with park := joinParts is k i es x.park }

/-- The elements of `w` bytes that a write to a window carries: first place, codes (R281). -/
def windowElems (w byte : Nat) (bs : List Byte) : Nat × List Nat :=
  (byte / w, (List.range (bs.length / w)).map fun j => leAt bs (w * j) w)

/-- The oldest write on its way to a Proofer leaves the spine, and the notices behind it move up (R246). -/
def Spine.shift (sp : Spine) (p : Nat) : Spine :=
  { sp with
    arrivals := eraseFirst (fun a => a.prf = p) sp.arrivals
    notices := sp.notices.map fun n => if n.dest_ = p && n.kind ≠ .nextComplete && n.kind ≠ .revert
      then { n with behind := n.behind - 1 } else n }

/-- Deliveries that wait in the park take the sum slots that are free (R244); one whose state is not in the cache waits for it (R245). -/
def State.fillSlots (s : State) (p : Nat) : State :=
  let x := s.prfP p
  let n := sumSlots - (x.park.length + x.readySlots)
  let s1 := s.setPrf p { x with ready := x.ready ++ x.held.take n, held := x.held.drop n }
  (x.held.take n).foldl (fun u g => if x.cached.contains (chunkKey g.entry g.chunk) then u else u.waited (prfReg p 0x54)) s1

/-- Credit is withheld from here on (R244), for the `n` bytes that found no room: PRF_ARRIVAL_FULL once in a step, and the time is
counted. -/
def State.withhold (s : State) (p n : Nat) : State :=
  let x := s.prfP p
  let s1 := (s.setPrf p { x with full := n, fullSeen := true }).waited (prfReg p 0x50)
  if x.fullSeen then s1 else s1.prfRaise p Code.prfArrivalFull 0xFFFF noChunk 0xFFFF 0 x.slots

/-- A partial row, or a part of one, arrives from source `port` (R239): MB_INDEX and STEP are those of the port's last header; rows beyond
the logical extents are discarded. A port that has sent no header has no known values: free ones (log entry 50). -/
def State.takeRow (s : State) (p port i c byte : Nat) (bs : List Byte) : State :=
  let x := s.prfP p
  let t := s.tt p i
  let e := windowElems 2 byte bs
  let es := e.2.take (needElems t c - e.1)
  if !ttValid t || x.idle || !(ttServed t p).contains c || es.isEmpty then s
  else
    let h := x.hdrs.get (0, 2 ^ 32) port
    let known := decide (h.2 < 2 ^ 32)
    let mb := if known then h.1 else (s.fresh 12).toNat
    let st := if known then h.2 else (Config.free 32 (s.freeCtr + 1)).toNat
    let s1 := s.setPrf p (x.addPiece t { entry := i, chunk := c, mb := mb, step := st, src := port, parts := .empty } e.1 es)
    if known then s1 else s1.used 2

/-- A write with KIND 1 arrives (R281, R335): with the last element of the chunk the delivery is complete. -/
def State.takeDelivered (s : State) (p port i c byte : Nat) (bs : List Byte) : State :=
  let x := s.prfP p
  let t := s.tt p i
  let e := windowElems 4 byte bs
  let es := e.2.take (ttWidth t - e.1)
  if !ttValid t || !(ttServed t p).contains c || es.isEmpty then s
  else
    let is := fun k : Contribution => k.entry = i && k.chunk = c && k.src = port
    let l := joinParts is { entry := i, chunk := c, mb := 0, step := 0, src := port, parts := .empty } e.1 es x.incoming
    match l.find? fun k => is k && k.has (ttWidth t) with
    | none => s.setPrf p { x with incoming := l }
    | some k =>
      let d : Delivery := { prf := p, entry := i, chunk := c, g := (List.range (ttWidth t)).map fun j => k.parts.get noElem j
                            absent := false, poison := false }
      let s1 := s.setPrf p { x with incoming := eraseFirst is l }
      { s1 with spine := { s1.spine with deliveries := s1.spine.deliveries ++ [d] } }

/-- PARTIAL_ROW (R239, R244, R281, R282): the oldest write to a Proofer's arrival window arrives. A marked header gives MB_INDEX and
STEP of the rows that follow from the same port, whatever its address. With the park full, credit is withheld. -/
def execPartialRow (p : Prf) (s : State) : Host.Outcome State Fault Refusal :=
  if s.still then .next s else
  match s.spine.arrivals.find? fun a => a.prf = p.val with
  | none => .next s
  | some a =>
    let x := s.prfP p.val
    if x.noRoom a.bytes.length then .next (s.withhold p.val a.bytes.length)
    else
      let s1 := State.setPrf { s with spine := s.spine.shift p.val } p.val { x with full := 0 }
      let o := match regionOf a.addr with | .arrival _ o => o | _ => 0
      if a.hdr then
        .next (s1.setPrf p.val { x with
          full := 0, hdrs := x.hdrs.set (0, 2 ^ 32) a.port (bitsOf (leAt a.bytes 8 4) 31 20, leAt a.bytes 12 4) })
      else if winKind o then .next (s1.takeDelivered p.val a.port (winEntry o) (winChunk o) (winByte o) a.bytes)
      else .next (s1.takeRow p.val a.port (winEntry o) (winChunk o) (winByte o) a.bytes)

/-- The sum that a fold holds in memory, and whether it or its header carries poison (R240, R286). -/
def State.foldSum (s : State) (t : List Nat) (c : Nat) : List Nat × Bool :=
  let a := ttFoldAddr t c
  ((List.range (ttWidth t)).map fun i => s.natAt (a + 4 * i) 4, s.poisonedAt a (4 * ttWidth t) || s.poisonedAt (a + 65536) 64)

/-- The reads of a fold and of its header are counted where they carry poison (R291). -/
def State.countFold (s : State) (t : List Nat) (c : Nat) : State :=
  s.countSpans [(ttFoldAddr t c, 4 * ttWidth t), (ttFoldAddr t c + 65536, 64)]

/-- A sum with a contribution's rows added (R240): BF16 is widened exactly. -/
def addContribution (k : Contribution) (sum : List Nat) : List Nat :=
  sum.zipIdx.map fun x =>
    let e := k.parts.get noElem x.2
    if e = noElem then x.1 else ff32.add x.1 (wide16 e)

/-- The open bits of a fold header, whose layout is not stated (log entry 47). -/
abbrev opFoldHeader : Nat := 200

/-- The 64 bytes of a fold header (R240): a function of its fields that the manual does not lay out. -/
def Fold.bytes (f : Fold) : List Byte :=
  leBytes 64 (Config.openBits opFoldHeader
    [f.step, f.count, f.src, (f.contMb.map fun m => m + 1).getD 0, f.contLeft, b2n f.poison] % 2 ^ 512)

/-- The fold header of a chunk. -/
def Proofer.fold (x : Proofer) (k : Nat) : Fold := x.folds.get Fold.none k
def Proofer.setFold (x : Proofer) (k : Nat) (f : Fold) : Proofer := { x with folds := x.folds.set Fold.none k f }

/-- A fold header as the Proofer holds it. -/
def State.keepFold (s : State) (p i c : Nat) (f : Fold) : State := s.updPrf p fun x => x.setFold (chunkKey i c) f

/-- A fold header goes back to the Trough, behind the 64 KiB of the sum (R237, R240). -/
def State.putFold (s : State) (p i c : Nat) (f : Fold) : State :=
  (s.keepFold p i c f).storeFor (prfUnit p) (ttFoldAddr (s.tt p i) c + 65536) f.bytes 0xFFFF

/-- The continuation test (R241): whether the contribution is counted, and the fold after it. -/
def Proofer.continuation (x : Proofer) (f : Fold) (mb : Nat) : Bool × Fold :=
  match x.segs.find? fun g => g.1 = mb with
  | none => (true, f)
  | some g =>
    let f1 := if f.contMb = some mb then f else { f with contMb := some mb, contLeft := g.2 - 1 }
    if 0 < f1.contLeft then (false, { f1 with contLeft := f1.contLeft - 1 }) else (true, f1)

/-- A sum leaves for the collectives engine (R243, R257). -/
def State.exportSum (s : State) (p i c : Nat) (g : List Nat) (absent poison : Bool) : State :=
  let v : ColVal := { data := if poison then g.map fun _ => qNan else g, absent := absent, poison := poison }
  (s.prfCount p 0x5C 1).colExport p i c v

/-- A chunk is handed on (R243). A sum whose state is not in the cache waits for it (R245). -/
def State.handOn (s : State) (p i c : Nat) (g : List Nat) (bad : Bool) : State :=
  let t := s.tt p i
  let k := chunkKey i c
  let s1 := s.updPrf p fun x => x.setChunk k { x.chunk k with handed := true, bad := (x.chunk k).bad || bad }
  if ttRemote t then s1.exportSum p i c g false bad
  else
    let s2 := if (s.prfP p).cached.contains k then s1 else s1.waited (prfReg p 0x54)
    s2.updPrf p fun x => { x with ready := x.ready ++ [⟨i, c, g, bad, false⟩] }

/-- PRF_COUNT_MISMATCH with a cause; causes 2 and 4 mark the tensor's ledger record COUNT_ERR (R247). -/
def State.countMismatch (s : State) (p i c mb cause n : Nat) : State :=
  let s1 := if cause = 2 ∨ cause = 4 then
      s.updPrf p fun x => x.setTensor i { x.tensorRun i with countErr := true }
    else s
  s1.prfRaise p Code.prfCountMismatch i c mb cause n

/-- A contribution that comes after its chunk was handed on, or after RELEASE (R247): one that counts is over; the others are dropped.
Nothing goes back to the fold in memory. -/
def State.lateContribution (s : State) (p : Nat) (k : Contribution) (fresh counted : Bool) (f : Fold) : State :=
  let s1 := if fresh then s else s.keepFold p k.entry k.chunk f
  if counted then s1.countMismatch p k.entry k.chunk k.mb 2 1 else s1

/-- A complete contribution is handled (R240 to R243, R247). Of a staged tensor every contribution counts, and none is handed on
(R257). -/
def State.contribute (s : State) (p : Nat) (k : Contribution) : State :=
  let t := s.tt p k.entry
  let key := chunkKey k.entry k.chunk
  let x := s.prfP p
  let f0 := x.fold key
  let fresh := decide (f0.step ≠ k.step)
  let f1 := if fresh then { Fold.none with step := k.step, src := k.src } else f0
  let ct := x.continuation f1 k.mb
  let counted := ct.1 || ttClass t ≠ 0
  if (x.chunk key).handed || x.released.contains (ttLayer t) then s.lateContribution p k fresh counted ct.2
  else
    let mem := if fresh then (List.replicate (ttWidth t) 0, false) else s.foldSum t k.chunk
    let conflict := !fresh && !s.relaxed p && decide (f0.src ≠ k.src)
    let marked := x.poisons.contains (ttTensor t, k.mb)
    let sum := addContribution k mem.1
    let f := { ct.2 with count := ct.2.count + b2n counted, poison := ct.2.poison || mem.2 || marked }
    let s0 := (if fresh then s else s.countFold t k.chunk).keepFold p k.entry k.chunk f
    let s1 := s0.updPrf p fun y => y.setChunk key { y.chunk key with mbs := (y.chunk key).mbs ++ [k.mb] }
    let s2 := if counted then s1.prfCount p 0x48 1 else s1
    let s3 := if ct.1 then s2 else s2.prfCount p 0x4C 1
    let s4 := if conflict then
        ((s3.updPrf p fun y => y.setTensor k.entry { y.tensorRun k.entry with conflict := true }).prfCount p 0x68 1).prfRaise
          p Code.prfSourceConflict k.entry k.chunk k.mb 0 1
      else s3
    if ct.1 && ttClass t = 0 && f.count = ttExpect t then s4.handOn p k.entry k.chunk sum f.poison
    else (s4.storeFor (prfUnit p) (ttFoldAddr t k.chunk) (sum.flatMap (leBytes 4)) k.mb).putFold p k.entry k.chunk f

/-- The first complete contribution of a Proofer that holds a sum slot (R244). -/
def State.firstComplete (s : State) (p : Nat) : Option Contribution :=
  (s.prfP p).slotted.find? fun k => k.complete (s.tt p k.entry)

/-- Handle the first complete contribution, if there is one. -/
def State.takeContribution (s : State) (p : Nat) : State :=
  match s.firstComplete p with
  | none => s
  | some k => ((s.updPrf p fun x => { x with park := eraseFirst (· = k) x.park }).contribute p k).fillSlots p

/-- CONTRIBUTION_COMPLETE (R240 to R243): a contribution whose rows have all arrived is added into its chunk's sum. -/
def execContributionComplete (p : Prf) (s : State) : Host.Outcome State Fault Refusal :=
  if s.still then .next s else
  .next (s.takeContribution p.val)

/-- DELIVERY (R243, R244, R247, R257): a reduced chunk arrives in a sum slot and waits to be applied; without a free slot it waits in the
park, and where the park is full it stays and credit is withheld from the collectives engine. One for a chunk that was applied or skipped
is discarded. -/
def execDelivery (p : Prf) (s : State) : Host.Outcome State Fault Refusal :=
  if s.still then .next s else
  match s.spine.deliveries.find? fun e => e.prf = p.val with
  | none => .next s
  | some e =>
    let s1 := State.prfCount { s with spine := { s.spine with deliveries := eraseFirst (fun q => q.prf = p.val) s.spine.deliveries } }
      p.val 0x60 1
    let x := s1.prfP p.val
    let k := chunkKey e.entry e.chunk
    let c := x.chunk k
    if x.idle then .next s1
    else if c.done then .next (s1.countMismatch p.val e.entry e.chunk 0xFFFF 4 1)
    else if x.noRoom (4 * e.g.length) then .next (s.withhold p.val (4 * e.g.length))
    else
      let g : Grad := ⟨e.entry, e.chunk, e.g, c.bad || e.poison, e.absent⟩
      if x.slotsFull then .next (s1.setPrf p.val { x with full := 0, held := x.held ++ [g] })
      else
        let s2 := if x.cached.contains k then s1 else s1.waited (prfReg p.val 0x54)
        .next (s2.setPrf p.val { x with full := 0, ready := x.ready ++ [g] })

/-- Bytes of the state cache (R233). -/
abbrev cacheBytes : Nat := 8388608

/-- Bytes that the cached chunks of a Proofer take. -/
def State.cacheUsed (s : State) (p : Nat) : Nat :=
  ((s.prfP p).cached.map fun k => ttRecBytes (s.tt p (k / 32768))).sum

/-- The chunks of an entry that are still to be applied by this Proofer in the step, in ascending order. -/
def State.openChunks (s : State) (p i : Nat) : List Nat :=
  let x := s.prfP p
  (s.shardChunks p i).filter fun c => !(x.chunk (chunkKey i c)).done

/-- A chunk is a prefetch candidate (R245): a gradient is ready for it, its COUNT has reached EXPECT − 1, or its staged
application is next. -/
def State.prefetchable (s : State) (p i c : Nat) : Bool :=
  let x := s.prfP p
  let t := s.tt p i
  let f := x.fold (chunkKey i c)
  let n := if f.step = s.ctl.stepNo % 2 ^ 32 then f.count else 0
  x.ready.any (fun g => g.entry = i && g.chunk = c) ||
    (if ttClass t = 0 then decide (ttExpect t ≤ n + 1) && decide (0 < ttExpect t)
     else x.released.contains (ttLayer t) && (s.openChunks p i).head? = some c)

/-- The first candidate in tensor table order that is not cached (R245). -/
def State.prefetchNext (s : State) (p : Nat) : Option Nat :=
  let x := s.prfP p
  (s.entries p).findSome? fun i => (((s.openChunks p i).find? fun c =>
    !x.cached.contains (chunkKey i c) && s.prefetchable p i c)).map (chunkKey i)

/-- A chunk of the cache waits without a sum or delivery. -/
def Proofer.idleCached (x : Proofer) (q : Nat) : Bool := !x.ready.any fun g => chunkKey g.entry g.chunk = q

/-- STATE_PREFETCH (R244, R245): the state of the next candidate comes into the state cache, where it has room. Where it has none and a
sum waits for its state, the last chunk of the cache that only waits makes room: no slot may wait on an arrival (log entry 96). -/
def execStatePrefetch (p : Prf) (s : State) : Host.Outcome State Fault Refusal :=
  if s.still then .next s else
  let x := s.prfP p.val
  let size := fun k : Nat => ttRecBytes (s.tt p.val (k / 32768))
  let starved := x.ready.find? fun g => !x.cached.contains (chunkKey g.entry g.chunk)
  match s.prefetchNext p.val with
  | none => .next s
  | some k =>
    if s.cacheUsed p.val + size k ≤ cacheBytes then .next (s.setPrf p.val { x with cached := x.cached ++ [k] })
    else match starved, (x.cached.filter x.idleCached).getLast? with
      | some g, some v =>
        let y := { x with cached := eraseFirst (· = v) x.cached }
        let t := s.setPrf p.val y
        let n := chunkKey g.entry g.chunk
        if t.cacheUsed p.val + size n ≤ cacheBytes then .next (s.setPrf p.val { y with cached := y.cached ++ [n] }) else .next t
      | _, _ => .next s

/-- A gradient may be applied now: its state is cached, and a staged chunk is the next of its tensor (R245, R257). -/
def State.applicable (s : State) (p : Nat) (g : Grad) : Bool :=
  (s.prfP p).cached.contains (chunkKey g.entry g.chunk) &&
    (ttClass (s.tt p g.entry) = 0 || (s.openChunks p g.entry).head? = some g.chunk)

/-- The next staged chunk that needs no delivery: an entry whose layer is released and that is not REMOTE (R257). -/
def State.stagedNext (s : State) (p : Nat) : Option (Nat × Nat) :=
  let x := s.prfP p
  (s.entries p).findSome? fun i =>
    let t := s.tt p i
    if ttClass t = 0 || ttRemote t || !x.released.contains (ttLayer t) then none
    else match s.openChunks p i with
      | c :: _ => if x.cached.contains (chunkKey i c) then some (i, c) else none
      | [] => none

/-- The next chunk of an idle Proofer: every chunk of a released layer is untouched (R238, R259; log entry 51). -/
def State.idleNext (s : State) (p : Nat) : Option (Nat × Nat) :=
  let x := s.prfP p
  (s.entries p).findSome? fun i =>
    if !x.released.contains (ttLayer (s.tt p i)) then none
    else ((s.shardChunks p i).find? fun c => !(x.chunk (chunkKey i c)).done).map fun c => (i, c)

/-- A chunk leaves the state cache. -/
def Proofer.uncache (x : Proofer) (i c : Nat) : Proofer := { x with cached := x.cached.filter fun k => k ≠ chunkKey i c }

/-- CHUNK_APPLY (R254 to R261, R257): a Proofer applies one chunk, or settles an untouched one; nothing after ABANDON. -/
def execChunkApply (p : Prf) (s : State) : Host.Outcome State Fault Refusal :=
  if s.still then .next s else
  let x := s.prfP p.val
  if x.abandoned then .next s
  else if x.idle then
    match s.idleNext p.val with
    | none => .next s
    | some q => .next ((s.untouchedChunk p.val q.1 q.2).gatherAfter p.val q.1 q.2)
  else match x.ready.find? (s.applicable p.val) with
  | some g =>
    let s1 := s.setPrf p.val ({ x with ready := eraseFirst (· = g) x.ready }.uncache g.entry g.chunk)
    let s2 := if g.absent then s1.untouchedChunk p.val g.entry g.chunk else s1.applyChunk p.val g.entry g.chunk g.g g.bad
    .next ((s2.gatherAfter p.val g.entry g.chunk).fillSlots p.val)
  | none =>
    match s.stagedNext p.val with
    | none => .next s
    | some q =>
      let s1 := s.setPrf p.val (x.uncache q.1 q.2)
      let f := x.fold (chunkKey q.1 q.2)
      if f.step = s.ctl.stepNo % 2 ^ 32 then
        let sum := s.foldSum (s.tt p.val q.1) q.2
        .next (((s1.countFold (s.tt p.val q.1) q.2).applyChunk p.val q.1 q.2 sum.1 (f.poison || sum.2)).gatherAfter p.val q.1 q.2)
      else .next ((s1.untouchedChunk p.val q.1 q.2).gatherAfter p.val q.1 q.2)

/-- Every chunk that a Proofer serves in a layer's tensors has its working copy written (R260). -/
def State.layerCopied (s : State) (p l : Nat) : Bool :=
  let x := s.prfP p
  (s.entries p).all fun i => ttLayer (s.tt p i) ≠ l || (ttServed (s.tt p i) p).all fun c => (x.chunk (chunkKey i c)).copied

/-- NEXT_COMPLETE_SEND (R260): a Proofer tells the Chanter of a layer whose chunks all have their working copy. -/
def execNextCompleteSend (p : Prf) (s : State) : Host.Outcome State Fault Refusal :=
  if s.still then .next s else
  let x := s.prfP p.val
  let layers := ((s.entries p.val).map fun i => ttLayer (s.tt p.val i)).eraseDups
  match layers.find? fun l => !x.notified.contains l && !s.layerIsFrozen p.val l && s.layerCopied p.val l with
  | none => .next s
  | some l =>
    if s.ctl.state ≠ .running || decide (s.ctl.stepDue ≠ 0) || x.abandoned then .next s
    else .next ((s.setPrf p.val { x with notified := x.notified ++ [l] }).notify .nextComplete (p.val / 2) p.val l 0)

/-- SEGMENT_NOTICE (R241): a Proofer holds up to 64 notices of a step; a further one is refused with cause 3. -/
def execSegmentNotice (p : Prf) (s : State) : Host.Outcome State Fault Refusal :=
  if s.still then .next s else
  match s.takeNotice .segment p.val with
  | none => .next s
  | some (n, s1) =>
    let x := s1.prfP p.val
    if 64 ≤ x.segs.length then .next (s1.countMismatch p.val 0xFFFF noChunk n.a 3 0)
    else .next (s1.setPrf p.val { x with segs := x.segs ++ [(n.a, n.b)] })

/-- POISON finds a contribution of the micro-batch in a chunk's fold already (R200, R240): the fold takes its POISON flag, and a sum that
was handed on and waits to be applied is non-finite (log entry 172). -/
def State.poisonChunk (s : State) (p i c mb : Nat) : State :=
  let x := s.prfP p
  if !((x.chunk (chunkKey i c)).mbs.contains mb) then s
  else
    let f := { x.fold (chunkKey i c) with poison := true }
    let s1 := if (x.chunk (chunkKey i c)).handed then s.keepFold p i c f else s.putFold p i c f
    let mark := fun g : Grad => if g.entry = i ∧ g.chunk = c then { g with bad := true } else g
    s1.updPrf p fun y => { y with ready := y.ready.map mark, held := y.held.map mark }

/-- POISON (R200, R246): a damaged weight-gradient MPD; the notice names the tensor and the micro-batch (log entry 46). -/
def execPoison (p : Prf) (s : State) : Host.Outcome State Fault Refusal :=
  if s.still then .next s else
  match s.takeNotice .poison p.val with
  | none => .next s
  | some (n, s1) =>
    let s2 := s1.updPrf p.val fun x => { x with poisons := x.poisons ++ [(n.a, n.b)] }
    .next (((s2.entries p.val).filter fun i => ttTensor (s2.tt p.val i) = n.a).foldl (fun u i =>
      (ttServed (s2.tt p.val i) p.val).foldl (fun v c => v.poisonChunk p.val i c n.b) u) s2)

/-- RELEASE finds a stream-applied chunk (R247): a chunk already handed on loses its incomplete contributions as late ones; a
short one becomes non-finite, and is exported with POISON where it is REMOTE. The answer says whether it was short. -/
def State.releaseStream (s : State) (p i c : Nat) : State × Bool :=
  let t := s.tt p i
  let key := chunkKey i c
  let x := s.prfP p
  let here := fun k : Contribution => k.entry = i && k.chunk = c
  let old := x.park.filter here
  let s1 := s.setPrf p { x with park := x.park.filter fun k => !here k }
  let f := x.fold key
  let n := if f.step = s.ctl.stepNo % 2 ^ 32 then f.count else 0
  if (x.chunk key).handed then
    (old.foldl (fun u k => u.countMismatch p i c k.mb 2 1) s1, false)
  else if old.isEmpty && decide (ttExpect t ≤ n) then (s1, false)
  else (s1.handOn p i c (if ttRemote t then List.replicate (ttWidth t) 0 else []) true, true)

/-- RELEASE closes the journal of a staged tensor (R257): a REMOTE one exports every chunk in ascending order. -/
def State.releaseStaged (s : State) (p i : Nat) : State :=
  let t := s.tt p i
  let s0 := s.updPrf p fun x => { x with park := x.park.filter fun k => k.entry ≠ i }
  if !ttRemote t then s0
  else (ttServed t p).foldl (fun u c =>
    let f := (u.prfP p).fold (chunkKey i c)
    if f.step = u.ctl.stepNo % 2 ^ 32 then
      let sum := u.foldSum t c
      (u.countFold t c).exportSum p i c sum.1 false (f.poison || sum.2)
    else u.exportSum p i c (List.replicate (ttWidth t) 0) true false) s0

/-- RELEASE of one tensor (R247, R257). -/
def State.releaseEntry (s : State) (p i : Nat) : State :=
  let t := s.tt p i
  if ttClass t ≠ 0 then s.releaseStaged p i
  else
    let r := (ttServed t p).foldl (fun (a : State × List Nat) c =>
      let q := a.1.releaseStream p i c
      (q.1, if q.2 then a.2 ++ [c] else a.2)) (s, [])
    match r.2 with
    | [] => r.1
    | c :: _ =>
      if (r.1.prfP p).poisons.any fun z => z.1 = ttTensor t then r.1
      else r.1.countMismatch p i c 0xFFFF 1 r.2.length

/-- Contributions that are complete when RELEASE arrives are handled before it; the notice comes behind their rows (R246). -/
def State.drainPark (s : State) (p : Nat) : State :=
  (List.range (s.prfP p).park.length).foldl (fun u _ => u.takeContribution p) s

/-- RELEASE (R247, R257): the release point of a layer reaches a Proofer. -/
def execRelease (p : Prf) (s : State) : Host.Outcome State Fault Refusal :=
  if s.still then .next s else
  match s.takeNotice .release p.val with
  | none => .next s
  | some (n, s1) =>
    let s2 := s1.drainPark p.val
    let x := s2.prfP p.val
    let mark := fun u : State => u.updPrf p.val fun y => { y with released := y.released ++ [n.a] }
    if x.idle || x.abandoned then .next (mark s2)
    else .next ((mark (((s2.entries p.val).filter fun i => ttLayer (s2.tt p.val i) = n.a).foldl
      (fun u i => u.releaseEntry p.val i) s2)).fillSlots p.val)

/-- ABANDON_NOTICE (R202, R246): a Proofer applies no further chunk of the step that the notice names. -/
def execAbandonNotice (p : Prf) (s : State) : Host.Outcome State Fault Refusal :=
  if s.still then .next s else
  match s.takeNotice .abandon p.val with
  | none => .next s
  | some (n, s1) =>
    .next (s1.updPrf p.val fun x => { x with abandoned := x.abandoned || decide (n.a = s.ctl.stepNo % 2 ^ 32) })

/-- A Proofer at the start of a step: what belongs to the step is cleared; folds, banks, digests and the last headers of the ports
stay. -/
def Proofer.beginStep (x : Proofer) : Proofer :=
  { x with
    park := [], incoming := [], segs := [], poisons := [], released := [], chunks := .empty, tensors := .empty, ready := [], cached := []
    held := [], full := 0, fullSeen := false, abandoned := false, notified := [] }

end Sys2Proof.Machine
end

