-- ==== Sys2Proof/Machine/Ledger.lean ====
section
/-! DEFINITION. The norm ledger: norm records, range records, the ledger rings and the ledger channel (R261, R262, R397, R398). -/

namespace Sys2Proof.Machine

/-- The header of chunk `c` of entry `i` that the seal of a step reads: of the bank that the step wrote where the chunk was settled
in the step, else of the bank that was read. -/
def State.sealHdr (s : State) (p i c : Nat) : List Nat :=
  let bank := if ((s.prfP p).chunk (chunkKey i c)).done then s.writeBank p i else s.readBank p i
  s.chunkHdr (s.tt p i) bank c

/-- A tensor of a die: its number and its entries, as (Proofer, entry), in the tables of the die's two Proofers. -/
structure DieTensor where
  tensor  : Nat
  entries : List (Nat × Nat)
  deriving DecidableEq, Repr

/-- The tensors of CDd, in the table order of PF(2d), then those that only PF(2d + 1) lists. -/
def State.dieTensors (s : State) (d : Nat) : List DieTensor :=
  let of := fun p => (s.entries p).map fun i => (ttTensor (s.tt p i), (p, i))
  let all := of (2 * d) ++ of (2 * d + 1)
  (all.map Prod.fst).eraseDups.map fun t => { tensor := t, entries := (all.filter fun x => x.1 = t).map Prod.snd }

/-- The chunks of a tensor with their headers, in ascending chunk order. -/
def State.tensorHdrs (s : State) (x : DieTensor) : List (List Nat) :=
  let n := maxNat (x.entries.map fun e => ttChunks (s.tt e.1 e.2))
  (List.range n).filterMap fun c =>
    (x.entries.find? fun e => (ttServed (s.tt e.1 e.2) e.1).contains c).map fun e => s.sealHdr e.1 e.2 c

/-- The sums of a tensor's record (R261): ‖W‖², ‖g‖², ‖ΔW‖², max |g| and non-finite g. -/
def State.tensorSums (s : State) (x : DieTensor) : Nat × Nat × Nat × Nat × Nat :=
  let hs := s.tensorHdrs x
  let now := hs.filter fun h => h.getD 12 0 = s.ctl.stepNo % 2 ^ 32
  let sum := fun (l : List (List Nat)) (w : Nat) => l.foldl (fun a h => ff64.add a (hdr64 h w)) 0
  (sum hs 4, sum now 6, sum now 8, maxNat (now.map fun h => h.getD 10 0), (now.map fun h => h.getD 11 0).sum)

/-- A ledger record of sixteen words. -/
def ledgerBytes (ws : List Nat) : List Byte := ((ws ++ List.replicate 16 0).take 16).flatMap (leBytes 4)

/-- The norm record of a tensor (R262): `t` is the update count of the step, `committed` the seal's decision. -/
def State.normRecord (s : State) (x : DieTensor) (t : Nat) (committed : Bool) : List Byte :=
  let v := s.tensorSums x
  let runs := x.entries.map fun e => (s.prfP e.1).tensorRun e.2
  let skipped := (runs.map fun r => r.skipped).sum
  let w0 := x.tensor + 2 ^ 20 * 1 + 2 ^ 24 * b2n (runs.any fun r => r.adopted) + 2 ^ 25 * b2n (decide (0 < skipped)) +
    2 ^ 26 * b2n (runs.any fun r => r.conflict) + 2 ^ 27 * b2n (runs.any fun r => r.countErr) + 2 ^ 28 * b2n (!committed)
  ledgerBytes [w0, s.ctl.stepNo % 2 ^ 32, t % 2 ^ 32, v.1 % 2 ^ 32, v.1 / 2 ^ 32, v.2.1 % 2 ^ 32, v.2.1 / 2 ^ 32,
    v.2.2.1 % 2 ^ 32, v.2.2.1 / 2 ^ 32, v.2.2.2.1, v.2.2.2.2 % 2 ^ 32, skipped % 2 ^ 32]

/-- The range record of Leaven entry `e` of CDd, from the entry as it stands (R262, R268). -/
def State.rangeRecord (s : State) (d e : Nat) : List Byte :=
  let g := s.lev d e
  ledgerBytes [bitsOf (g 1) 19 0 + 2 ^ 20 * 2 + 2 ^ 24 * bitsOf (g 0) 3 0 + 2 ^ 28 * bitsOf (g 5) 24 22,
    s.ctl.stepNo % 2 ^ 32, g 6, g 7, g 8, g 9, bitsOf (g 10) 15 0, g 11, d]

/-- The first byte address and the records of PFp's ledger ring (R262). -/
def State.ledgerRing (s : State) (p : Nat) : Nat × Nat :=
  let lo := s.shAt (prfReg p 0x12C)
  let hi := s.shAt (prfReg p 0x130)
  let b := (lo.toNat + 2 ^ 32 * fld hi 7 0) * 64
  let part := s.partBounds p partLedger
  let start := if b = 0 then troughBase p + part.1 else b
  let n := fld hi 31 8
  (start, if n = 0 then (troughBase p + part.2 - start) / 64 else n)

/-- PFp writes a record into its ledger ring; the steps of records that nobody has acknowledged and that it overwrites are
collected (R262, R398). -/
def State.ledgerWrite (s : State) (p : Nat) (lost : List Nat) (bs : List Byte) : State × List Nat :=
  let r := s.ledgerRing p
  let x := s.prfP p
  if r.2 = 0 then (s, lost)
  else
    let k := x.ring % r.2
    let old := x.ringSteps.get 0 k
    let past := decide (0 < old) && decide (s.ctl.ledgerAck < old)
    let s1 := s.setPrf p { x with ring := (k + 1) % r.2, ringSteps := x.ringSteps.set 0 k (s.ctl.stepNo + 1) }
    (s1.storeFor (prfUnit p) (r.1 + 64 * k) bs 0xFFFF, if past then lost ++ [old - 1] else lost)

/-- The end record of a seal on channel 5: step number and record count (R397); its layout is log entry 54. -/
def ledgerEnd (step n : Nat) : List Byte := record 64 [(0, 8, step), (8, 4, n)]

/-- The ledger of a seal (R262, R397, R398): `recs` holds each even Proofer's records. They go into the rings and, in Proofer order
with an end record, onto the ledger channel. -/
def State.ledgerSeal (s : State) (recs : List (Nat × List (List Byte))) : State :=
  let r := recs.foldl (fun (a : State × List Nat) q =>
    q.2.foldl (fun (b : State × List Nat) bs => b.1.ledgerWrite q.1 b.2 bs) a) (s, [])
  let all := recs.flatMap Prod.snd
  let step := s.ctl.stepNo
  let s1 := { r.1 with ctl := { r.1.ctl with
    ledgerDue := r.1.ctl.ledgerDue ++ (all ++ [ledgerEnd step all.length]).map fun b => (step, b) } }
  match r.2 with
  | [] => s1
  | f :: more =>
    (s1.count (regAddr Page.global 0x5C) 1).raise Page.global Code.ctlLedgerOverrun
      (ctlPayload 0xFFFF 0 s.ctl.state.code 0 0 (more.foldl min f) (maxNat (f :: more) % 2 ^ 16))

end Sys2Proof.Machine
end

