-- ==== Sys2Proof/Machine/Seal.lean ====
section
/-! DEFINITION. The step seal: readiness, seal processing, the exchange with the replica group, divergence recovery, the commit
decision and the next step (R202, R263 to R269, R350, R351, R376). -/

namespace Sys2Proof.Machine

/-- The compute dies and the Proofers. -/
abbrev dies : List Nat := [0, 1, 2, 3]
abbrev proofers : List Nat := [0, 1, 2, 3, 4, 5, 6, 7]

/-- A Proofer has applied or skipped every chunk of the layers that are not FROZEN, written every working copy and sent every
notice (R268, step 1). -/
def State.updateDone (s : State) (p : Nat) : Bool :=
  let x := s.prfP p
  (s.entries p).all fun i =>
    let l := ttLayer (s.tt p i)
    s.layerIsFrozen p l ||
      (x.notified.contains l && (s.shardChunks p i).all fun c => (x.chunk (chunkKey i c)).done)

/-- Every micro-batch of the step has finished backward on the die (R202). -/
def State.unitsDone (s : State) (d : Nat) : Bool :=
  let c := s.chD d
  c.formed.isEmpty && c.units.cells.all (fun u => u.2.bwd) &&
    decide ((c.units.cells.filter fun u => u.2.bwd && urSeg u.2.info = 0).length = s.mbPlan d (s.activeOf d))

/-- A die is ready for the seal (R202). -/
def State.dieReady (s : State) (d : Nat) : Bool :=
  let c := s.chD d
  let pf := [2 * d, 2 * d + 1]
  if c.abandoned then
    c.offers.isEmpty && (List.range 36).all (fun e => (s.engD d e).offer.isEmpty) && pf.all fun p => (s.prfP p).abandoned
  else
    c.inStep && s.unitsDone d && (s.layers d).all (fun l => s.frozen d l || c.swapped.get false l) && pf.all s.updateDone

/-- BUDGET_TICKS of the package: the largest of its dies' step programs (R202; log entry 52). -/
def State.budget (s : State) : Nat := maxNat (dies.map fun d => s.budgetTicks d (s.activeOf d))

/-- The budget tick of the step (R202). -/
def State.budgetTick (s : State) : Nat := (s.chD 0).stepTick + s.budget

/-- The compute dies that are not ready, as a mask. -/
def State.notReady (s : State) : Nat := (dies.map fun d => if s.dieReady d then 0 else 2 ^ d).sum

/-- At a tick edge (R202): the first tick at or after the budget tick notes the dies that are late, and the seal falls on a tick
that finds every die ready. -/
def State.sealEdge (s : State) : State :=
  if s.ctl.state ≠ .running || decide (s.ctl.stepDue ≠ 0) || s.spine.sealing || decide (s.cad.tickNo < s.budgetTick) then s
  else
    let m := s.notReady
    { s with spine := { s.spine with late := some (s.spine.late.getD m), sealDue := decide (m = 0) } }

/-- The step is abandoned (R201). -/
def State.stepAbandoned (s : State) : Bool := dies.any fun d => (s.chD d).abandoned

/-- The shards of the package in table order, then in Proofer order (R267). -/
def State.shards (s : State) : List (Nat × Nat) :=
  (List.range 1024).flatMap fun i => (proofers.filter fun p => ttValid (s.tt p i)).map fun p => (p, i)

/-- Form every shard digest (R267). -/
def State.formDigests (s : State) : State :=
  s.shards.foldl (fun t q => t.updPrf q.1 fun x => { x with digests := x.digests.set 0 q.2 (s.shardDigest q.1 q.2) }) s

/-- The package summary (R267). -/
def State.summary (s : State) : Nat :=
  crc64 (s.shards.flatMap fun q => leBytes 16 ((s.prfP q.1).digests.get 0 q.2))

/-- No Proofer found a non-finite chunk, a count error or an uncorrectable chunk: the commit flag (R264). -/
def State.commitFlag (s : State) : Bool :=
  proofers.all fun p => (s.prfP p).tensors.cells.all fun c => c.2.skipped = 0 && !c.2.countErr && c.2.lost.isEmpty

/-- PRF_NONFINITE_CHUNK, once for each tensor of a Proofer, with the first chunk and the count (R263). -/
def State.reportSkipped (s : State) : State :=
  proofers.foldl (fun t p => (s.prfP p).tensors.cells.foldl (fun u c =>
    if c.2.skipped = 0 then u else u.prfRaise p Code.prfNonfiniteChunk c.1 c.2.first 0xFFFF 0 c.2.skipped) t) s

/-- CAD_SLIP when the seal falls after the budget tick (R202, R351). -/
def State.reportSlip (s : State) : State :=
  let n := s.cad.tickNo - s.budgetTick
  let m := s.spine.late.getD 0
  if n = 0 ∨ m = 0 then s
  else ((s.count (regAddr Page.cadence 0x40) 1).count (regAddr Page.cadence 0x44) n).raise Page.cadence Code.cadSlip
    (cadPayload s 0 0xFFFF n m)

/-- A chunk stays uncorrectable without a reference (R269). -/
def State.lostForGood (s : State) : Bool :=
  proofers.any fun p => (s.prfP p).tensors.cells.any fun c => !c.2.lost.isEmpty && !c.2.adopted

/-- The group of the seal exchange has other members (R266, R268): PRF_GROUP of PF0 speaks for the package (log entry 53). -/
def State.inGroup (s : State) : Bool := decide (1 < s.replicas 0)
/-- In Mirror mode a package other than the reference adopts (R268, R269). -/
def State.adopts (s : State) : Bool := s.inGroup && !s.ownerMode 0 && decide (s.replicaId 0 ≠ s.refId 0)

/-- Every other member's message of the exchange has arrived. -/
def State.allHeard (s : State) : Bool :=
  (List.range (s.replicas 0)).all fun m => m = s.replicaId 0 || s.spine.sealIn.any fun x => x.member = m

/-- The weight tensors of the package, as die and Leaven entry (R44). -/
def State.weightEntries (s : State) : List (Nat × Nat) :=
  (dies.flatMap fun d => (s.dieTensors d).filterMap fun x => x.entries.head?.map fun e => (d, ttLeaven (s.tt e.1 e.2))).eraseDups

/-- The reports that a Leaven entry has taken in the step (R39). -/
def State.levCounts (s : State) (d e : Nat) : LevCounts :=
  { sat := s.lev d e 6, unf := s.lev d e 7, inv := s.lev d e 8, elem := s.lev d e 9 + 2 ^ 32 * bitsOf (s.lev d e 10) 15 0
    stepMax := s.lev d e 11 }

/-- The package's own message of the exchange. -/
def State.ownSeal (s : State) : SealMsg :=
  { member := s.replicaId 0, summary := s.summary, commit := s.commitFlag
    shards := s.shards.map fun q => (Fin.ofNat 8 q.1, Fin.ofNat 1024 q.2, (s.prfP q.1).digests.get 0 q.2)
    reports := s.weightEntries.map fun e => (Fin.ofNat 4 e.1, Fin.ofNat 4096 e.2, s.levCounts e.1 e.2) }

/-- The data of a message of the exchange (R268; log entry 168): summary and commit flag with the reports of the step. -/
def sealBytes (m : SealMsg) : List Byte :=
  record 16 [(0, 8, m.summary), (8, 1, b2n m.commit), (12, 4, m.reports.length)] ++
    m.reports.flatMap fun r => record 28 [(0, 2, r.1.val), (2, 2, r.2.1.val), (4, 4, r.2.2.sat), (8, 4, r.2.2.unf), (12, 4, r.2.2.inv),
      (16, 6, r.2.2.elem), (24, 4, r.2.2.stepMax)]

/-- The data of a message with shard digests (R267, R268; log entry 168). -/
def sealDigests (m : SealMsg) : List Byte :=
  m.shards.flatMap fun q => record 20 [(0, 2, q.1.val), (2, 2, q.2.1.val), (4, 16, q.2.2)]

/-- The group of the seal exchange (R331). -/
def State.grpSeal (s : State) : Nat := fld s.colCtrl 17 15

/-- A message of member `src` of the exchange leaves on VC0 for the members after this one, as a finished chunk of that member would
(R268, R333; log entry 168). -/
def State.sendSeal (s : State) (src : Nat) (bs : List Byte) : State :=
  let g := s.grpSeal
  let rx := s.grpRx g
  let r := s.grpPos g
  let q : Place := { swap := false, rx := rx, ry := s.grpRy g, x := r % rx, y := r / rx, ox := src % rx, oy := src / rx }
  let dirs := (colBroadcast q (decide (q.x ≠ q.ox)) { data := [], absent := false, poison := false }).map Prod.fst
  dirs.foldl (fun t y => match (s.grpPorts g (if y then 2 else 0)).head? with
    | some c => t.sendFrom c 0 5 0 src 0 bs false
    | none => t) s

/-- What the package asks of the reference for a shard (R269): its records and headers, its working copy, and the reports of its Leaven
entry, by bulk reads over VC5. -/
def State.askShard (s : State) (p i : Nat) : State :=
  let t := s.tt p i
  let bank := s.writeBank p i
  let slot := s.currentSlot (p / 2) (ttLayer t)
  let s1 := (s.shardChunks p i).foldl (fun u c =>
    ((u.askBulk (ttRecAddr t bank c) (ttRecBytes t) 0).askBulk (ttHdrAddr t bank c) 64 0)) s
  (s1.askBulk (ttWc t slot) (((s.ttCopies p t).headD (0, 0)).2) 0).askBulk 0 0 (1 + 4096 * (p / 2) + ttLeaven t)

/-- The comparison with the reference (R268, R269): members whose summaries differ exchange their shard digests; a shard whose digest
differs raises PRF_DIGEST_MISMATCH; it and every shard with an uncorrectable chunk are fetched and await adoption. -/
def State.compareSeal (s : State) : State :=
  let s0 := { s with spine := { s.spine with compared := true } }
  let mine := s.ownSeal
  let ref := s.spine.sealIn.find? fun x => x.member = s.refId 0
  let asked := if s.replicaId 0 = s.refId 0 then s.spine.sealIn.any fun x => x.summary ≠ s.summary
    else ref.any fun r => r.summary ≠ s.summary
  let s1 := if s.inGroup && !s.ownerMode 0 && asked then s0.sendSeal mine.member (sealDigests mine) else s0
  if !s.adopts then s1
  else
    let diff : List (Nat × Nat) := match ref with
      | none => []
      | some r =>
        if r.summary = s.summary then []
        else s.shards.filter fun q => r.shards.any fun y =>
          y.1.val = q.1 && y.2.1.val = q.2 && y.2.2 ≠ (s.prfP q.1).digests.get 0 q.2
    let lost := s.shards.filter fun q => !((s.prfP q.1).tensorRun q.2).lost.isEmpty
    let s2 := diff.foldl (fun t q => t.raise (Page.prf q.1) Code.prfDigestMismatch
      (prfPayload q.2 noChunk 0xFFFF 0 q.1 (s.shardChunks q.1 q.2).length (s.refId 0))) s1
    let l := (diff ++ lost).eraseDups
    l.foldl (fun t q => t.askShard q.1 q.2) { s2 with spine := { s2.spine with adopting := l } }

/-- The layers of a die that swapped in the step, as a bitmap. -/
def State.swappedMap (s : State) (d : Nat) : Nat :=
  ((List.range 64).map fun l => if (s.chD d).swapped.get false l then 2 ^ l else 0).sum

/-- The seal's decision for one Proofer (R263 to R265): t advances at a seal that commits; under sealed commit every pointer flips, or the
step is discarded and its layers revert. -/
def State.commitPrf (s : State) (commit : Bool) (p : Nat) : State :=
  let x := s.prfP p
  if commit then
    let bank := if s.sealedCommit p then (s.entries p).foldl (fun b i => b.set 0 i (1 - b.get 0 i)) x.bank else x.bank
    s.setPrf p { x with count := x.count + 1, bank := bank }
  else if s.sealedCommit p then
    ((s.notify .revert (p / 2) p (s.swappedMap (p / 2)) 0).prfCount p 0x70 1).prfRaise p Code.prfStepDiscarded 0xFFFF noChunk 0xFFFF 0 0
  else s

/-- Whether the step commits on Proofer `p` (R263 to R265, R269). -/
def State.commits (s : State) (p : Nat) : Bool :=
  !s.stepAbandoned && !s.lostForGood &&
    (!s.sealedCommit p || (s.commitFlag && s.spine.sealIn.all fun x => x.commit))

/-- The code of the cause with which the package enters HELD at the seal (R348, R376), or 0x10000 to go on. -/
def State.heldAtSeal (s : State) : Nat :=
  if s.stepAbandoned then (if s.col.timedOut then Code.colTimeout else Code.pipeStepAbandoned)
  else if s.cad.state = .lost then Code.cadLost
  else if s.lostForGood then Code.prfStateUncorrectable
  else if s.ctl.holdPending then 0
  else 0x10000

/-- ‖W‖², ‖g‖² and ‖ΔW‖² of the die's tensors go where the mailboxes read them (R273). -/
def State.noteNorms (s : State) (d : Nat) : State :=
  (s.dieTensors d).foldl (fun t x =>
    let v := s.tensorSums x
    x.entries.foldl (fun u e => u.updPrf e.1 fun y => { y with norms := y.norms.set (0, 0, 0) e.2 (v.1, v.2.1, v.2.2.1) }) t) s

/-- Steps 5 to 7 of R268: the commit decision, the capture of the ranges, the Leaven seal and the ledger. -/
def State.decideSeal (s : State) : State :=
  let recs := dies.map fun d =>
    (2 * d, (s.dieTensors d).map (fun x => s.normRecord x (s.prfP (2 * d)).count (s.commits (2 * d))) ++
      (List.range (s.leaven.count.get 0 d)).map (s.rangeRecord d))
  let held := s.heldAtSeal
  let s0 := dies.foldl State.noteNorms (if s.stepAbandoned then s else s.formDigests)
  let s1 := proofers.foldl (fun t p => t.commitPrf (s.commits p) p) s0
  let s2 := dies.foldl (fun t d => t.levSeal d s.ctl.stepNo) s1
  let s3 := s2.ledgerSeal recs
  { s3 with
    ctl := { s3.ctl with sealStep := s.ctl.stepNo, sealSummary := if s.stepAbandoned then s.ctl.sealSummary else s0.summary }
    spine := { s3.spine with decided := some held } }

/-- The words of a Proofer's page that take effect only at entry to RUNNING from READY: modes, group, reference, partitions. -/
def prfEntryWords : List Nat := [0x104, 0x108, 0x10C, 0x180, 0x184]

/-- Slots 3 to 7 whose program in force is invalid (R253); an empty slot holds no program. -/
def State.badSlots (s : State) (p : Nat) : List Nat :=
  [3, 4, 5, 6, 7].filter fun k =>
    let ws := (List.range 65).map fun w => s.progData p k w
    ws.any (fun w => w ≠ 0) && progInvalid ws

/-- The SH values of a Proofer's page take effect, with the check of its table and of its programs (R238, R253), whatever changed: a
partition, a mode or a program slot may make a table invalid that stood before (R290). An invalid table stays in the shadow set, and the
Proofer idles for the step. -/
def State.prfApply (s : State) (p : Nat) : State :=
  let pend := fun (f : Nat → Bool) => s.shNew.cells.any fun c => f c.1
  let bad := s.tableBad p (s.ownerMode p) (s.sealedCommit p)
  let news := pend (fun a => isTableKey p a || isProgKey p a) || !(s.prfP p).badTab
  let slots := [3, 4, 5, 6, 7].filter fun k => pend fun a => decide (winProg p k 0 ≤ a ∧ a < winProg p (k + 1) 0)
  let s1 := s.applyShadow fun a =>
    (a / 65536 = Page.prf p && !prfEntryWords.contains (a % 65536)) || isProgKey p a || isConstKey p a || (isTableKey p a && !bad)
  let wrong := s1.badSlots p
  let s2 := s1.updPrf p fun x => { x with idle := bad, badTab := bad, badProg := wrong }
  let s3 := if bad && news then s2.prfRaise p Code.prfTableInvalid 0xFFFF noChunk 0xFFFF 0 0 else s2
  (slots.filter wrong.contains).foldl (fun t _ => t.prfRaise p Code.prfProgramInvalid 0xFFFF noChunk 0xFFFF 0 0) s3

/-- A new PHASE_OFFSET takes effect at the seal, modulo the TICK_LEN in force (R342, R350). -/
def State.phaseSeal (s : State) : State :=
  let a := regAddr Page.cadence 0x108
  let s1 := s.applyShadow (· = a)
  let new := fld (s1.shAt a) 11 0 % max 1 s1.cad.tickLen
  let old := s1.cad.phase
  if old < new then { s1 with cad := { s1.cad with phase := new, extraUs := s1.cad.extraUs + (new - old) } }
  else if new < old then
    State.count { s1 with cad := { s1.cad with phase := new, omitNext := true, extraUs := s1.cad.tickLen - (old - new) } }
      (regAddr Page.cadence 0x58) 1
  else s1

/-- What belongs to a step is cleared, and the step begins at the present tick on every die and Proofer (R183). -/
def State.beginStep (s : State) : State :=
  let s1 := dies.foldl (fun t d => t.updCh d fun c => c.beginStep s.cad.tickNo) s
  let s2 := proofers.foldl (fun t p => t.updPrf p Proofer.beginStep) s1
  { s2 with
    ctl := { s2.ctl with stepDue := 0 }
    bel := { s2.bel with relaxed := false, thrUs := 0 }
    col := { s2.col with ops := [], timedOut := false, aborted := [], ended := [], shut := [] }
    ing := { s2.ing with starved := false, starving := false, mb := 0, sealCursor := s2.ing.cursor }
    spine := { s2.spine with notices := [], deliveries := [], late := none, sealDue := false } }

/-- Every micro-batch of the step has consumed its draw position (R307): the cursor stands MB_PLAN beyond its value at the start of
the step, by the program of the die that takes units from the ingest queue. -/
def State.drawSeal (s : State) : State :=
  match dies.find? s.ingEn with
  | none => s
  | some d => { s with ing := { s.ing with cursor := s.ing.sealCursor + s.mbPlan d (s.activeOf d) } }

/-- The end of seal processing (R351, R376): what takes effect at a seal does, requested swaps have their point, and the next step
begins or the package enters HELD. -/
def State.endSeal (s : State) (held : Nat) : State :=
  let s1 := proofers.foldl State.prfApply s.drawSeal.phaseSeal
  let s2 := dies.foldl (fun t d => if t.swapAtTick d then t else t.swapPoint d) s1
  let s3 := { s2 with
    bel := { s2.bel with rotSeals := s2.bel.rotSeals + 1, relaxed := false, thrUs := 0 }
    ctl := { s2.ctl with stepNo := s2.ctl.stepNo + 1 }
    spine := { s2.spine with
      sealIn := [], sealSent := none, sealing := false, compared := false, decided := none, adopting := [], sealDue := false } }
  if held = 0x10000 then s3.beginStep
  else
    let s4 := dies.foldl (fun t d => t.updCh d fun c => { c with inStep := false }) s3
    State.enter { s4 with ctl := { s4.ctl with holdPending := false } } .held held

/-- An outcome of the seal waits until the Chanters have set CUR back (R264). -/
def State.settleSeal (s : State) : State :=
  match s.spine.decided with
  | none => s
  | some h => if s.spine.notices.any fun n => n.kind = .revert then s else s.endSeal h

/-- An export of committed state delays the seal and raises PRF_EXPORT_DELAY once, on the page of PF0 (R271; log entry 57). -/
def State.exportDelay (s : State) (e : Export) : State :=
  if e.late then s
  else State.raise { s with spine := { s.spine with exporting := some { e with late := true } } }
    (Page.prf 0) Code.prfExportDelay (prfPayload 0xFFFF noChunk 0xFFFF 0 0 0 0)

/-- Seal processing goes as far as it can (R268): it waits for an export, for the members of the group, and for adoption. -/
def State.sealProgress (s : State) : State :=
  if !s.spine.sealing then s
  else if s.spine.decided.isSome then s.settleSeal
  else match s.spine.exporting with
  | some e => s.exportDelay e
  | none =>
    if s.stepAbandoned || !s.inGroup then s.decideSeal.settleSeal
    else
      let own := s.ownSeal
      let s1 := if s.spine.sealSent.isSome then s
        else State.sendSeal { s with spine := { s.spine with sealSent := some own } } own.member (sealBytes own)
      if !s1.allHeard then s1
      else
        let s2 := if s1.spine.compared then s1 else s1.compareSeal
        if s2.spine.adopting.isEmpty then s2.decideSeal.settleSeal else s2

/-- STEP_SEAL (R202, R268, R351): on a tick on which the seal falls, the SH values of the Bellows page take effect, then seal
processing runs. -/
def execStepSeal (s : State) : Host.Outcome State Fault Refusal :=
  if s.spine.sealing then .next s.sealProgress
  else if s.ctl.state = .running && s.spine.sealDue then
    let s1 := (s.applyPage Page.bellows).startWiden.reportSlip.reportSkipped
    let s2 := if s1.stepAbandoned then s1 else (proofers.foldl State.checkHdrs (proofers.foldl State.carryOver s1)).formDigests
    .next (State.sealProgress { s2 with spine := { s2.spine with sealing := true, sealDue := false } })
  else .next s

/-- REVERT (R264): CUR is set back for the layers that the notice names and that swapped in the step; the seal ends when every
notice has been taken. -/
def execRevert (d : Die) (s : State) : Host.Outcome State Fault Refusal :=
  match s.takeNotice .revert d with
  | none => .next s
  | some (n, s1) =>
    let s2 := s1.updCh d fun c => (List.range 64).foldl (fun x l =>
      if bitOf n.a l && x.swapped.get false l then
        { x with cur := x.cur.set 0 l (1 - x.cur.get 0 l), swapped := x.swapped.set false l false }
      else x) c
    .next s2.settleSeal

/-- A message of the exchange that the sub-ports of its group have received is taken (R328). -/
def State.takeSeal (s : State) : State :=
  match (s.grpAll s.grpSeal).findSome? fun c => s.takeMsg c 5 with
  | some (_, t) => t
  | none => s

/-- SEAL_EXCHANGE (R268): a member's message of the seal exchange arrives and goes on to the members after this one; what a member that has been
heard sends again, and a message of no other member, is taken and ignored. -/
def execSealExchange (m : SealMsg) (s : State) : Host.Outcome State Fault Refusal :=
  if s.ctl.state ≠ .running || !s.inGroup || decide (s.replicas 0 ≤ m.member) || m.member = s.replicaId 0 ||
      s.spine.sealIn.any fun x => x.member = m.member then .next s.takeSeal
  else
    let s1 := s.takeSeal.sendSeal m.member (sealBytes m)
    .next (State.sealProgress { s1 with spine := { s1.spine with sealIn := s1.spine.sealIn ++ [m] } })

/-- The Leaven reports of an entry are those of the reference (R269). -/
def State.substituteReport (s : State) (d e : Nat) (r : LevCounts) : State :=
  (((((s.setLev d e 6 r.sat).setLev d e 7 r.unf).setLev d e 8 r.inv).setLev d e 9 (r.elem % 2 ^ 32)).setLev d e 10
    (r.elem / 2 ^ 32 % 2 ^ 16)).setLev d e 11 r.stepMax

/-- DIVERGENCE_RECOVERY (R269; log entry 168): the fetch over VC5 has ended with the shard that the operands hold. The shard of the
reference is written over the package's own records, headers and working copy, the reports are substituted, and the tensor is marked
ADOPTED. -/
def execDivergenceRecovery (p : Prf) (entry : Fin 1024) (chunks : List ShardChunk) (rep : LevCounts) (s : State) :
    Host.Outcome State Fault Refusal :=
  if !s.spine.adopting.contains (p.val, entry.val) then .next s
  else
    let t := s.tt p.val entry.val
    let bank := s.writeBank p.val entry.val
    let cur := s.currentSlot (p.val / 2) (ttLayer t)
    let s1 := (chunks.filter fun k => (ttServed t p.val).contains k.chunk).foldl (fun u k =>
      let u1 := u.storeFor colUnit (ttRecAddr t bank k.chunk) (k.records.take (ttRecBytes t)) 0xFFFF
      let u2 := u1.storeFor colUnit (ttHdrAddr t bank k.chunk) (k.header.take 64) 0xFFFF
      u2.putCopy p.val entry.val k.chunk cur k.copy) s
    let s2 := (s1.substituteReport (p.val / 2) (ttLeaven t) rep).prfCount p.val 0x6C 1
    let s3 := s2.updPrf p.val fun x => x.setTensor entry.val { x.tensorRun entry.val with adopted := true }
    .next (State.sealProgress { s3 with spine := { s3.spine with
      adopting := s3.spine.adopting.filter fun q => q ≠ (p.val, entry.val) } })

end Sys2Proof.Machine
end

