-- ==== Sys2Proof/Machine/Ckpt.lean ====
section
/-! DEFINITION. Checkpoint streams: export and import frames, the rebuild after an import, and their commands (R270 to R272). -/

namespace Sys2Proof.Machine

/-- Window credit of a checkpoint stream at its start (R371). -/
abbrev ckptWindow : Nat := 16777216

/-- Every chunk that the package updates, die by die, in tensor table order and ascending chunk order (R270; log entry 56):
Proofer, entry, chunk. -/
def State.chunkList (s : State) : List (Nat × Nat × Nat) :=
  dies.flatMap fun d => (s.dieTensors d).flatMap fun x =>
    let n := maxNat (x.entries.map fun e => ttChunks (s.tt e.1 e.2))
    (List.range n).filterMap fun c =>
      (x.entries.find? fun e => (s.shardChunks e.1 e.2).contains c).map fun e => (e.1, e.2, c)

/-- The update count of the committed state: that of the last update that committed (R270; log entry 56). -/
def State.exportUpd (s : State) : Nat := (s.prfP 0).count - 1

/-- A frame from its fields (R270): FRAME_CRC is formed with W10 and W11 zero. `bad` inverts it, for a chunk that carries poison
(R286). -/
def frameBytes (kind rec tensor chunk upd base recCrc : Nat) (body : List Byte) (bad : Bool) : List Byte :=
  let w := fun crc : Nat => [0x4B43514E, 1 + 2 ^ 16 * kind + 2 ^ 18 * rec, tensor, chunk, upd % 2 ^ 32, upd / 2 ^ 32 % 2 ^ 32, base % 2 ^ 32,
    body.length, recCrc % 2 ^ 32, recCrc / 2 ^ 32, crc % 2 ^ 32, crc / 2 ^ 32, 0, 0, 0, 0].flatMap (leBytes 4)
  let crc := crc64 (w 0 ++ body)
  w (if bad then crc ^^^ (2 ^ 64 - 1) else crc) ++ body

/-- The run frame (R270). -/
def State.runFrameBytes (s : State) (e : Export) : List Byte :=
  let cur := if s.ctl.state = .running then s.ing.sealCursor else s.ing.cursor
  frameBytes 2 0 0 0 s.exportUpd (e.base.getD 0) 0
    (record 64 [(0, 8, cur), (8, 8, s.ctl.stepNo - 1), (16, 4, s.ing.drawGen), (24, 8, s.ing.drawBase)]) false

/-- The frame of a chunk: its header with W4 to W14 zero, then its record planes, from the committed bank (R270, R271). -/
def State.chunkFrame (s : State) (e : Export) (q : Nat × Nat × Nat) : List Byte :=
  let t := s.tt q.1 q.2.1
  let b := s.readBank q.1 q.2.1
  let h := s.chunkHdr t b q.2.2
  let h1 := (List.range 16).map fun w => if 4 ≤ w ∧ w ≤ 14 then 0 else h.getD w 0
  frameBytes 0 (b2n (ttCompact t)) (ttTensor t) q.2.2 s.exportUpd (e.base.getD 0) (hdr64 h 2)
    (hdrBytes h1 ++ s.bytesAt (ttRecAddr t b q.2.2) (ttRecBytes t))
    (s.poisonedAt (ttRecAddr t b q.2.2) (ttRecBytes t) || s.poisonedAt (ttHdrAddr t b q.2.2) 64)

/-- The export covers a chunk: its tensor lies in the range, and an incremental export sends it only when UPD exceeds the base
(R271). -/
def State.exports (s : State) (e : Export) (q : Nat × Nat × Nat) : Bool :=
  let t := s.tt q.1 q.2.1
  decide (e.lo ≤ ttTensor t ∧ ttTensor t ≤ e.hi) &&
    (match e.base with
     | none => true
     | some b => decide (b < (s.chunkHdr t (s.readBank q.1 q.2.1) q.2.2).getD 0 0))

/-- The Ramtor port takes no checkpoint frame: the receiver's credit does not admit it, or events or ledger records wait, which go first (R369,
R371). -/
def State.portHolds (s : State) (n : Nat) : Bool :=
  decide (s.ctl.ckOutLimit < s.ctl.ckOutSent + n) || s.eventsWait || !s.ctl.ledgerDue.isEmpty

/-- Bytes in the send area of a conduit (R329). -/
def State.cndArea (s : State) (k : Nat) : Nat := s.cndEntries k * s.cndBytes k

/-- Bulk data leaves over a conduit: it is put into the conduit's send area, as much at a time as that holds, and sent from there (R329). -/
def State.sendBulk (s : State) (k off : Nat) (bs : List Byte) : State :=
  let n := if s.cndArea k = 0 then pieceBytes else s.cndArea k
  (chunks n (bs.length / n + 1) bs).zipIdx.foldl (fun t p =>
    (t.storeFor (colUnitOf (s.cndPort k)) (s.cndSend k) p.1 0xFFFF).sendBytes (s.cndPort k) 5 7 (s.cndPeer k) (off + n * p.2) p.1 false) s

/-- A frame leaves the package (R270): over the Ramtor port, as one message on channel 4 (R368, R371), or over the export's conduit as bulk data
on VC5 (R325, R329; log entry 168). -/
def State.sendFrame (s : State) (p : Nat) (e : Export) (bs : List Byte) (more : Bool) : State :=
  if e.conduit.isNone && s.portHolds bs.length then s
  else
    let s0 := match e.conduit with
      | none => s
      | some k => s.sendBulk k ((s.spine.frames.map List.length).sum) bs
    let s1 := State.prfCount { s0 with
      ctl := if e.conduit.isNone then { s0.ctl.sendMessage 4 0 s0.ctl.ckOutSent bs with ckOutSent := s0.ctl.ckOutSent + bs.length } else s0.ctl
      spine := { s0.spine with frames := s0.spine.frames ++ [bs], exporting := if more then some e else none } } p 0x74 1
    if more then s1 else (s1.endLong 0x0040 stOk 0).sealProgress

/-- Reading a chunk for its frame counts the poison that it meets (R286, R291). -/
def State.countChunk (s : State) (q : Nat × Nat × Nat) : State :=
  s.countSpans (chunkSpans (s.tt q.1 q.2.1) (s.readBank q.1 q.2.1) q.2.2 false false)

/-- EXPORT_FRAME (R270, R271): the next frame of the export is sent: the run frame, a chunk frame, or the end frame, with which a
seal that waited goes on. -/
def execExportFrame (s : State) : Host.Outcome State Fault Refusal :=
  if s.still then .next s else
  match s.spine.exporting with
  | none => .next s
  | some e =>
    if !e.begun then .next (s.sendFrame 0 { e with begun := true } (s.runFrameBytes e) true)
    else
      let l := s.chunkList.drop e.next
      let skip := (l.takeWhile fun q => !s.exports e q).length
      match (l.drop skip).head? with
      | some q => .next ((s.countChunk q).sendFrame q.1 { e with next := e.next + skip + 1 } (s.chunkFrame e q) true)
      | none => .next (s.sendFrame 0 e (frameBytes 1 0 0 0 s.exportUpd (e.base.getD 0) 0 [] false) false)

/-- The entry that serves chunk `c` of a tensor (R232). -/
def State.entryOf (s : State) (tensor c : Nat) : Option (Nat × Nat) :=
  proofers.findSome? fun p =>
    ((s.entries p).find? fun i => ttTensor (s.tt p i) = tensor && (ttServed (s.tt p i) p).contains c).map fun i => (p, i)

/-- The chunks of a tensor whose masters the package holds: those that it updates, and those that an import has brought it (R272). -/
def State.heldChunks (s : State) (x : DieTensor) : List ((Nat × Nat) × Nat) :=
  let n := maxNat (x.entries.map fun e => ttChunks (s.tt e.1 e.2))
  (List.range n).filterMap fun c =>
    (x.entries.find? fun e =>
      let t := s.tt e.1 e.2
      (ttServed t e.1).contains c && (s.mine e.1 t c || bitOf ((s.chunkHdr t (s.readBank e.1 e.2) c).getD 1 0) 0)).map fun e => (e, c)

/-- The values by which an import finds its chunks (R272): in READY those that the first step puts in force, of the Proofers' pages, tables,
programs and constants; in HELD those in force (log entry 218). -/
def State.importView (s : State) : State :=
  if s.ctl.state = .ready then
    s.applyShadow fun a => proofers.any fun p =>
      decide (a / 65536 = Page.prf p) || isTableKey p a || isProgKey p a || isConstKey p a
  else s

/-- What is done under those values leaves them in the shadow set. -/
def State.inView (s : State) (f : State → State) : State := { f s.importView with shAct := s.shAct, shNew := s.shNew }

/-- A chunk whose records or header an import left poisoned is not quantised (R286, R291). -/
def State.rebuildLost (s : State) (z : (Nat × Nat) × Nat) (spans : List (Nat × Nat)) : State :=
  (s.countSpans spans).prfRaise z.1.1 Code.prfStateUncorrectable z.1.2 z.2 0xFFFF 0 1

/-- The rebuild of one tensor (R272): the history is emptied, the scale computation of R41 runs with H = max |W|, then every chunk is
quantised into the layer's current slot. No report is made outside a step (R39). A W that is not finite makes H so, and the scale stays
(log entry 219). -/
def State.rebuildTensor (s : State) (d : Nat) (x : DieTensor) : State :=
  match x.entries with
  | [] => s
  | (p0, i0) :: _ =>
    let le := ttLeaven (s.tt p0 i0)
    let w0 := s.lev d le 0
    let f := fun c => (Format.ofCode? c).getD .fp32
    let ws := fun e c => (s.readRecs (s.tt e.1 e.2) (s.readBank e.1 e.2) c).map Rec4.w
    let spans := fun (z : (Nat × Nat) × Nat) => chunkSpans (s.tt z.1.1 z.1.2) (s.readBank z.1.1 z.1.2) z.2 false false
    let own := (s.heldChunks x).filter fun z => !s.spansPoison (spans z)
    let h := maxNat (own.flatMap fun z => (ws z.1 z.2).map ff32.abs)
    let lost := ((s.heldChunks x).filter fun z => s.spansPoison (spans z)).foldl (fun u z => u.rebuildLost z (spans z)) s
    let s0 := lost.setLev d le 12 (s.lev d le 12 / 2 ^ 13 * 2 ^ 13)
    let s1 := if bitsOf w0 31 30 = 1 then
        match sealScale (f (bitsOf w0 7 4)) (f (bitsOf w0 3 0)) (bitsOf w0 14 12) h with
        | some sc => (s0.setLev d le 2 sc.1).setLev d le 3 sc.2
        | none => s0
      else s0
    own.foldl (fun u z =>
      let tz := u.tt z.1.1 z.1.2
      let slot := u.currentSlot d (ttLayer tz)
      let q := u.workingCopyTo z.1.1 z.1.2 z.2 slot (ws z.1 z.2)
      let bank := u.readBank z.1.1 z.1.2
      State.storeFor { q.1 with leaven := u.leaven } (prfUnit z.1.1) (ttHdrAddr tz bank z.2)
        (hdrBytes (setHdr64 (u.chunkHdr tz bank z.2) 13 q.2.1)) 0xFFFF) s1

/-- The run frame of an import that ends without error restores the draw cursor and the step number, and the update count follows from the
frames (R270; log entry 56). -/
def State.restoreRun (s : State) : State :=
  if !s.spine.impFailed.isEmpty then s
  else
    let s1 := match s.spine.runFrame with
      | some b => { s with
          ing := s.ing.restart (leAt b 16 4) (leAt b 24 8) (leAt b 0 8)
          ctl := { s.ctl with stepNo := leAt b 8 8 + 1 } }
      | none => s
    match s.spine.impUpd with
    | some u => proofers.foldl (fun (t : State) p => t.updPrf p fun x => { x with count := u + 1 }) s1
    | none => s1

/-- An import ends (R270, R272): the run is restored where no frame is missing, and then the current slots are rebuilt. -/
def State.endImport (s : State) : State :=
  let s1 := s.restoreRun.inView fun v => dies.foldl (fun t d => (t.dieTensors d).foldl (fun u x => u.rebuildTensor d x) t) v
  State.endLong { s1 with spine := { s1.spine with
    importing := false, runFrame := none, impFailed := [], impUpd := none, impConduit := none, impBytes := [] } } 0x0041 stOk 0

/-- PRF_IMPORT_CRC (R272, R275): the frame is not written. -/
def State.importBad (s : State) (p i tensor chunk : Nat) : State :=
  State.prfRaise { s with spine := { s.spine with impFailed := (tensor, chunk) :: s.spine.impFailed.filter fun q => q ≠ (tensor, chunk) } }
    p Code.prfImportCrc i chunk 0xFFFF 0 1

/-- The frame of a chunk is checked and written into the bank that the pointer names (R272). -/
def State.importChunk (s : State) (tensor chunk rec recCrc : Nat) (body : List Byte) : State :=
  match s.entryOf tensor chunk with
  | none => s
  | some (p, i) =>
    let t := s.tt p i
    let recs := body.drop 64
    if b2n (ttCompact t) ≠ rec ∨ recs.length ≠ ttRecBytes t ∨ crc64 recs ≠ recCrc then s.importBad p i tensor chunk
    else
      let b := s.readBank p i
      let s1 := s.storeFor (prfUnit p) (ttRecAddr t b chunk) recs 0xFFFF
      let s2 := s1.storeFor (prfUnit p) (ttHdrAddr t b chunk) (body.take 64) 0xFFFF
      State.prfCount { s2 with spine := { s2.spine with impFailed := s2.spine.impFailed.filter fun q => q ≠ (tensor, chunk) } } p 0x74 1

/-- Bytes of the checkpoint stream have been consumed: the limit of the sender moves on (R371, R372). -/
def State.ckptCredit (s : State) (n : Nat) : State :=
  if s.spine.impConduit.isSome then s
  else
    let g := s.ctl.ckInGot + n
    { s with ctl := { s.ctl.put (.credit 4 (g + ckptWindow)) with ckInGot := g, ckInLimit := g + ckptWindow } }

/-- The frame comes next: over the import's conduit, its bytes are the next of that stream; over the Ramtor port, it begins at the first
missing byte and lies within the credit (R371). -/
def State.importNext (s : State) (f : CkFrame) : Bool :=
  if s.spine.impConduit.isSome then f.bytes.isPrefixOf s.spine.impBytes
  else s.portUp && decide (f.off = s.ctl.ckInGot ∧ f.off + f.bytes.length ≤ s.ctl.ckInLimit)

/-- A frame of the Ramtor port leaves a gap before it (R371). -/
def State.importGap (s : State) (f : CkFrame) : Bool := s.spine.impConduit.isNone && s.portUp && decide (s.ctl.ckInGot < f.off)

/-- A frame is checked and written; the end frame ends the import (R270, R272). -/
def State.importFrame (s : State) (bytes : List Byte) : State :=
  let w := fun i => leAt bytes (4 * i) 4
  let body := bytes.drop 64
  let kind := bitsOf (w 1) 17 16
  let tensor := bitsOf (w 2) 19 0
  let chunk := bitsOf (w 3) 23 0
  let upd := w 4 + 2 ^ 32 * w 5
  let zeroed := bytes.take 40 ++ List.replicate 8 0 ++ bytes.drop 48
  if bytes.length < 64 ∨ w 0 ≠ 0x4B43514E ∨ bitsOf (w 1) 15 0 ≠ 1 ∨ kind = 3 ∨ w 7 ≠ body.length ∨
      crc64 zeroed ≠ w 10 + 2 ^ 32 * w 11 then
    s.inView fun v =>
      match v.entryOf tensor chunk with
      | some (p, i) => v.importBad p i tensor chunk
      | none => v.importBad 0 0xFFFF tensor chunk
  else
    let s2 := { s with spine := { s.spine with impUpd := some upd } }
    match kind with
    | 0 => s2.inView fun v => v.importChunk tensor chunk (bitsOf (w 1) 18 18) (w 8 + 2 ^ 32 * w 9) body
    | 2 => State.prfCount { s2 with spine := { s2.spine with runFrame := some body } } 0 0x74 1
    | _ => (s2.prfCount 0 0x74 1).endImport


/-- IMPORT_FRAME (R270, R371, R372): a frame of the stream arrives. Behind a gap it is discarded, and a NAK names the first missing byte; one
that is there already, or lies beyond the credit, is discarded. -/
def execImportFrame (f : CkFrame) (s : State) : Host.Outcome State Fault Refusal :=
  if s.still then .next s else
  let s0 := if s.spine.impConduit.isNone then s.takeRx 4 0 else s
  if !s.spine.importing then .next s
  else if s.importGap f then .next { s0 with ctl := s0.ctl.put (.nak 4 s0.ctl.ckInGot) }
  else if !s.importNext f then .next s0
  else
    let s1 := { s0 with spine := { s0.spine with impBytes := s0.spine.impBytes.drop f.bytes.length } }
    .next ((s1.ckptCredit f.bytes.length).importFrame f.bytes)

/-- A conduit that a checkpoint stream may name: valid and on VC5 (R271, R329). -/
def State.bulkConduit (s : State) : Option (Fin 32) → Bool
  | none => true
  | some c => bitsOf (s.conduitWord c.val 0) 0 0 = 1 && bitsOf (s.conduitWord c.val 0) 3 1 = 5

/-- CKPT_EXPORT (R271, R379): starts an export; an empty tensor range or a conduit that is not a valid VC5 conduit is out of range. -/
def execCkptExport (h : Hdr) (a : CkptArgs) (s : State) : Host.Outcome State Fault Refusal :=
  .next (s.command h 0x0040 s.isSealed fun x =>
    if a.tensorHi < a.tensorLo ∨ x.bulkConduit a.conduit = false then x.invalid h 0x0040 2
    else
      let y := x.startLong h 0x0040
      let e : Export :=
        { lo := a.tensorLo.toNat, hi := a.tensorHi.toNat, base := if a.incremental then some a.baseUpd.toNat else none
          late := false, begun := false, next := 0, conduit := a.conduit.map Fin.val }
      { y with
        ctl := { y.ctl with ckOutSent := 0, ckOutLimit := ckptWindow }
        spine := { y.spine with exporting := some e, frames := [] } })

/-- CKPT_IMPORT (R272, R371, R379): starts an import; over the Ramtor port its stream has its first credit. -/
def execCkptImport (h : Hdr) (conduit : Option (Fin 32)) (s : State) : Host.Outcome State Fault Refusal :=
  .next (s.command h 0x0041 s.isSealed fun x =>
    if x.bulkConduit conduit = false then x.invalid h 0x0041 2
    else
      let y := x.startLong h 0x0041
      { y with
        ctl := { (if conduit.isNone then y.ctl.put (.credit 4 ckptWindow) else y.ctl) with ckInGot := 0, ckInLimit := ckptWindow }
        spine := { y.spine with
          importing := true, runFrame := none, impFailed := [], impUpd := none, impConduit := conduit.map Fin.val, impBytes := [] } })

/-- CKPT_STOP (R379): ends the running checkpoint streams; a frame is never cut, since each is one command of the model. -/
def execCkptStop (h : Hdr) (s : State) : Host.Outcome State Fault Refusal :=
  .next (s.command h 0x0042 s.isSealed fun x =>
    let y := x.answer h 0x0042 stOk 0
    let z := if y.spine.exporting.isSome then
        (State.endLong { y with spine := { y.spine with exporting := none } } 0x0040 stOk 0).sealProgress else y
    if z.spine.importing then z.endImport else z)

end Sys2Proof.Machine
end

