-- ==== Sys2Proof/Machine/Ingest.lean ====
section
/-! DEFINITION. Ingest: manifests, containers, decode engines, fragments, generations, the draw and bound ports (R294 to R315). -/

namespace Sys2Proof.Machine

/-- A decode engine. -/
def State.decK (s : State) (k : Nat) : Decoder := s.ing.decoders.get Decoder.reset k
/-- The state with a decode engine replaced. -/
def State.setDec (s : State) (k : Nat) (x : Decoder) : State :=
  { s with ing := { s.ing with decoders := s.ing.decoders.set Decoder.reset k x } }
/-- Registers of a decoder page and of the host-core page. -/
def decReg (k off : Nat) : Nat := regAddr (Page.dec k) off
def hostReg (off : Nat) : Nat := regAddr Page.host off

/-- ES_MIB in bytes and SLOT_KIB in bytes (R294, R302). -/
def State.esBytes (s : State) : Nat := fld (s.shAt (hostReg 0x108)) 11 1 * mib
def State.slotBytes (s : State) : Nat := fld (s.shAt (hostReg 0x118)) 15 0 * 1024
/-- DRAW_SEED and DRAW_EN. -/
def State.drawSeed (s : State) : Nat := (s.shAt (hostReg 0x110)).toNat + 2 ^ 32 * (s.shAt (hostReg 0x114)).toNat
def State.drawEn (s : State) : Bool := (s.rwAt (hostReg 0x108)).getLsbD 0

/-- The ingest firmware runs: the states in which firmware runs, while the host cores have their clock (R304, R360, R375). -/
def State.firmwareRuns (s : State) : Bool :=
  !s.still && match s.ctl.state with
  | .staged => true | .ready => true | .running => true | .held => true | .maint => true
  | _ => false

/-- The payload of an ingest record (R315). -/
def ingPayload (ident engine cause n gen : Nat) : List Byte :=
  payload [(0, 8, ident), (8, 1, engine), (9, 1, cause), (10, 2, n), (12, 4, gen)]

/-- A generation that the firmware holds, by number. -/
def Ingest.gen? (i : Ingest) (g : Nat) : Option Generation := i.gens.find? fun x => x.num = g
/-- The state with a generation changed. -/
def State.updGen (s : State) (g : Nat) (f : Generation → Generation) : State :=
  { s with ing := { s.ing with gens := s.ing.gens.map fun x => if x.num = g then f x else x } }
/-- A span of a generation. -/
def State.job? (s : State) (g k : Nat) : Option SpanJob := (s.ing.gen? g).bind fun x => x.jobs[k]?
/-- The state with a span of a generation replaced. -/
def State.setJob (s : State) (g k : Nat) (j : SpanJob) : State := s.updGen g fun x => { x with jobs := x.jobs.set k j }

/-- MANIFEST (R306, R307): the manifest of the next generation, with 1 to 16 passes, is taken for decoding. -/
def execManifest (gen passes : Nat) (spans : List Span) (s : State) : Host.Outcome State Fault Refusal :=
  let inOrder := match s.ing.lastGen with | none => true | some g => decide (gen = g + 1)
  if s.firmwareRuns && inOrder && decide (1 ≤ passes ∧ passes ≤ 16) then
    let g : Generation := { num := gen, passes := passes, jobs := spans.map SpanJob.new, published := false, start := 0 }
    .next { s with ing := { s.ing with gens := s.ing.gens ++ [g], lastGen := some gen } }
  else .next s

/-- The table of R295: standard, profile, level, chroma, depth and picture structure are all within it. -/
def essenceOk (e : EssenceInfo) : Bool :=
  match e.std with
  | .mpeg2 => decide (e.profileIx < 2 ∧ e.level10 ≤ 4) && decide (e.chroma ≠ .c444) && decide (e.depth = 8)
  | .h264 => decide (e.profileIx < 3 ∧ e.level10 ≤ 52) && decide (e.chroma ≠ .c444) && decide (e.depth = 8 ∨ e.depth = 10)
  | .hevc => decide (e.profileIx < 3 ∧ e.level10 ≤ 61) && decide (e.chroma ≠ .c444) && decide (e.depth = 8 ∨ e.depth = 10)
  | .av1 =>
    decide (e.profileIx < 2 ∧ e.level10 ≤ 60) && !e.interlaced && decide (e.depth = 8 ∨ e.depth = 10) &&
      decide (e.chroma = .c420 ∨ (e.profileIx = 1 ∧ e.chroma = .c444))
  | .other => false

/-- A source is skipped: outside R295 or R305. -/
def State.skipSource (s : State) (x : Span) (gen : Nat) : State :=
  (s.count (hostReg 0x4C) 1).raise Page.host Code.ingSourceUnsupported (ingPayload x.source.toNat 0xFF 0 0 gen)

/-- A span is skipped: its access units cannot be located (R305). -/
def State.skipSpan (s : State) (x : Span) (gen : Nat) : State :=
  (s.count (hostReg 0x50) 1).raise Page.host Code.ingContainerError (ingPayload x.fragId.toNat 0xFF 0 0 gen)

/-- Bytes from `a` lie in the ES area of some Proofer (R294). -/
def State.inEs (s : State) (a n : Nat) : Bool :=
  match regionOf a with
  | .trough p o => decide ((s.partBounds p partReservoir).1 ≤ o ∧ o + n ≤ (s.partBounds p partReservoir).1 + s.esBytes)
  | _ => false

/-- The table of R305: the container has no feature that is not supported. -/
def containerOk : ContainerInfo → Bool
  | .transport n scrambled => decide (n = 188 ∨ n = 192) && !scrambled
  | .isoMedia encrypted external => !encrypted && !external
  | .mxf pattern wrapping encrypted => pattern ≠ .other && wrapping ≠ .other && !encrypted
  | .other => false

/-- What the firmware finds out about a span (R295, R305): its track's essence, or why it is skipped. -/
inductive DemuxFound where
  | track (t : FoundTrack)
  | unsupported
  | broken
  deriving DecidableEq, Repr

/-- Only the track that the manifest names is read (R305); where it is not there the access units cannot be located. -/
def demuxFound (x : Span) : DemuxResult → DemuxFound
  | .broken => .broken
  | .found c tracks =>
    if !containerOk c then .unsupported
    else match tracks.find? fun t => t.track = x.track with
      | none => .broken
      | some t => if essenceOk t.essence then .track t else .unsupported

/-- The bytes from `a` lie in a HOST region (R284, R289). -/
def State.inHost (s : State) (a n : Nat) : Bool :=
  match regionOf a with
  | .trough p o => decide ((s.partBounds p partHost).1 ≤ o ∧ o + n ≤ (s.partBounds p partHost).2)
  | _ => false

/-- The elementary stream of a track, gathered from HOST memory (R294, R305). -/
def State.trackBytes (s : State) (t : FoundTrack) : List Byte := t.pieces.flatMap fun q => s.bytesAt q.1 q.2

/-- CONTAINER_DEMUX (R304, R305, R295): the firmware has read the container of a span in HOST memory. A supported stream's bytes go into the
ES area at the place that the firmware chose, and continuity errors are counted; an unsupported or a broken source is skipped. -/
def execContainerDemux (gen span : Nat) (r : DemuxResult) (place : Nat) (s : State) : Host.Outcome State Fault Refusal :=
  match s.job? gen span with
  | none => .next s
  | some j =>
    if !s.firmwareRuns || decide (j.state ≠ .waiting) then .next s
    else
      let gone := s.setJob gen span { j with state := .dropped }
      match demuxFound j.span r with
      | .unsupported => .next (gone.skipSource j.span gen)
      | .broken => .next (gone.skipSpan j.span gen)
      | .track t =>
        let bs := s.trackBytes t
        if !s.inEs place bs.length || !t.pieces.all fun q => s.inHost q.1 q.2 then .next s
        else
          let s1 := s.countPoison (distinct (t.pieces.flatMap fun q => touchedGranules q.1 q.2))
          .next (((s1.setJob gen span { j with state := .demuxed, essence := some t.essence }).store place bs).count
            (hostReg 0x48) t.ccErrors)

/-- Width and height of a plane of an essence's frames: 0 luma, 1 and 2 chroma (R295). -/
def planeDims (e : EssenceInfo) (k : Nat) : Nat × Nat :=
  if k = 0 then (e.width, e.height)
  else match e.chroma with
    | .c420 => (ceilDiv e.width 2, ceilDiv e.height 2)
    | .c422 => (ceilDiv e.width 2, e.height)
    | .c444 => (e.width, e.height)
def planeCount (e : EssenceInfo) (k : Nat) : Nat := (planeDims e k).1 * (planeDims e k).2

/-- Bytes of a picture buffer: 2 for each sample of the three planes (R296). -/
def pictureBytes (e : EssenceInfo) : Nat := 2 * (planeCount e 0 + 2 * planeCount e 1)

/-- MaxDpbMbs of a level of ITU-T H.264, and MaxLumaPs of one of ITU-T H.265; levels as ten times their number (log entry 186). -/
def h264DpbMbs (level10 : Nat) : Nat :=
  if level10 < 11 then 396 else if level10 < 12 then 900 else if level10 < 21 then 2376 else if level10 < 22 then 4752
  else if level10 < 31 then 8100 else if level10 < 32 then 18000 else if level10 < 40 then 20480 else if level10 < 42 then 32768
  else if level10 < 50 then 34816 else if level10 < 51 then 110400 else 184320
def hevcLumaPs (level10 : Nat) : Nat :=
  if level10 < 20 then 36864 else if level10 < 21 then 122880 else if level10 < 30 then 245760 else if level10 < 31 then 552960
  else if level10 < 40 then 983040 else if level10 < 50 then 2228224 else if level10 < 60 then 8912896 else 35651584

/-- DPB: the decoded picture buffer of a stream under its level, in pictures (R296). For MPEG-2 the worked example of R311 gives 3; the others
are those of the standards (log entry 186). -/
def dpbSize (e : EssenceInfo) : Nat :=
  match e.std with
  | .mpeg2 => 3
  | .h264 =>
    let rows := if e.interlaced then 2 * ceilDiv e.height 32 else ceilDiv e.height 16
    min 16 (h264DpbMbs e.level10 / max 1 (ceilDiv e.width 16 * rows))
  | .hevc =>
    let m := hevcLumaPs e.level10
    let n := e.width * e.height
    if 4 * n ≤ m then 16 else if 2 * n ≤ m then 12 else if 4 * n ≤ 3 * m then 8 else 6
  | .av1 => 8
  | .other => 0

/-- `n` bytes from `a` lie in the REFPIC region of some Proofer (R289, R294). -/
def State.inRefpic (s : State) (a n : Nat) : Bool :=
  match regionOf a with
  | .trough p o => decide ((s.partBounds p partRefpic).1 ≤ o ∧ o + n ≤ (s.partBounds p partRefpic).2)
  | _ => false

/-- The picture buffers of every open context: address and size. -/
def State.openBuffers (s : State) : List (Nat × Nat) :=
  (List.range 16).flatMap fun k => (s.decK k).contexts.flatMap fun c => c.buffers.map fun a => (a, c.size)

/-- REFPIC holds these buffers of `size` bytes for a context: they lie in it and meet neither each other nor those of an open context (R296;
log entry 63). -/
def State.buffersFree (s : State) (size : Nat) (l : List Nat) : Bool :=
  let clear := fun (a : Nat) (q : Nat × Nat) => decide (a + size ≤ q.1 ∨ q.1 + q.2 ≤ a)
  l.all (fun a => s.inRefpic a size && s.openBuffers.all (clear a)) &&
    l.zipIdx.all fun a => (l.drop (a.2 + 1)).all fun b => clear a.1 (b, size)

/-- A span waits for REFPIC space no longer. -/
def State.unwait (s : State) (gen span : Nat) : State :=
  (List.range 16).foldl (fun t k =>
    let x := t.decK k
    if x.waiting.contains (gen, span) then t.setDec k { x with waiting := x.waiting.filter fun w => w ≠ (gen, span) } else t) s

/-- RS_CTRL, OFFSET and GAIN of a span on engine `k`: the job's, else the engine's (R314). -/
def State.jobSet (s : State) (k : Nat) (x : Span) : JobSet :=
  x.job.getD { rsCtrl := s.shAt (decReg k 0x10C), offsetY := s.shAt (decReg k 0x110), offsetC := s.shAt (decReg k 0x114)
               gainY := s.shAt (decReg k 0x118), gainC := s.shAt (decReg k 0x11C) }

/-- PIX_FMT, IL_MODE, MADI_T and MADI_S. -/
def jobFp8 (j : JobSet) : Bool := j.rsCtrl.getLsbD 0
def jobMadi (j : JobSet) : Bool := j.rsCtrl.getLsbD 1
def jobMadiT (j : JobSet) : Nat := fld j.rsCtrl 11 2
def jobMadiS (j : JobSet) : Nat := fld j.rsCtrl 15 12

/-- TOKENS of a span and the bytes of its fragment (R302). -/
def spanTokens (x : Span) : Nat := x.frames / 2 * x.gridH * x.gridW
def fragBytes (x : Span) (fp8 : Bool) : Nat := 64 + spanTokens x * (if fp8 then 768 else 1536)

/-- A span leaves no fragment (R300, R302): ING_CLIP_DROPPED on the page of engine `k`, counted. -/
def State.dropClip (s : State) (k gen : Nat) (x : Span) (cause n : Nat) : State :=
  (s.count (decReg k 0x54) 1).raise (Page.dec k) Code.ingClipDropped (ingPayload x.fragId.toNat k cause n gen)

/-- ENABLE (0) and QUIESCE_REQ (1) of a decoder's page (R410). -/
def State.decGate (s : State) (k i : Nat) : Bool := (s.rwAt (decReg k 8)).getLsbD i

/-- STREAM_CONTEXT_OPEN (R296, R302): engine `dec` opens a context for a demultiplexed span, with DPB + 2 buffers at the places in REFPIC that
it chose; where REFPIC has no room for them the context waits. A span whose fragment would exceed its slot is dropped instead, with cause 3.
With ENABLE = 0 the engine opens no context (R410). -/
def execStreamContextOpen (dec : Dec) (gen span : Nat) (buffers : List Nat) (s : State) : Host.Outcome State Fault Refusal :=
  let k := dec.val
  let x := s.decK k
  match s.job? gen span with
  | none => .next s
  | some j =>
    match j.essence with
    | none => .next s
    | some e =>
      if !s.firmwareRuns || decide (j.state ≠ .demuxed) || decide (32 ≤ x.contexts.length) || !s.decGate k 0 then .next s
      else if s.slotBytes < fragBytes j.span (jobFp8 (s.jobSet k j.span)) then
        .next (((s.unwait gen span).setJob gen span { j with state := .dropped }).dropClip k gen j.span 3 0)
      else if decide (buffers.length ≠ dpbSize e + 2) || !s.buffersFree (pictureBytes e) buffers then
        .next (if x.waiting.contains (gen, span) then s else s.setDec k { x with waiting := x.waiting ++ [(gen, span)] })
      else
        let s1 := s.unwait gen span
        let y := s1.decK k
        .next ((s1.setJob gen span { j with state := .decoding, engine := some k }).setDec k
          { y with contexts := y.contexts ++ [⟨gen, span, pictureBytes e, buffers⟩] })

/-- Samples at 10 bits: 8-bit samples are shifted left by 2 (R301). -/
def planeAt10 (p : Plane) (depth : Nat) : Plane := if depth = 8 then { p with samples := p.samples.map (· * 4) } else p

/-- The sample of a plane at row `y` and column `x`. -/
def px (p : Plane) (y x : Nat) : Nat := p.samples.getD (y * p.width + x) 0

/-- A plane from its size and a function of row and column. -/
def planeOf (w h : Nat) (f : Nat → Nat → Nat) : Plane :=
  { width := w, height := h, samples := (List.range h).flatMap fun y => (List.range w).map (f y) }

/-- The rows of one parity of a frame. -/
def fieldOf (p : Plane) (bottom : Bool)  : Plane := planeOf p.width (p.height / 2) fun y x => px p (2 * y + b2n bottom) x

/-- The pictures that one decoded picture adds, in display order: a frame of two fields adds both (R297). -/
def rawPics (p : DecodedPicture) (depth : Nat) (luma cb cr : Plane) : List RawPic :=
  let mk (inter bottom : Bool) (g : Plane → Plane) : RawPic :=
    { interlaced := inter, bottom := bottom, luma := g (planeAt10 luma depth), cb := g (planeAt10 cb depth), cr := g (planeAt10 cr depth)
      shown := p.shown, damaged := p.damaged }
  match p.kind with
  | .progressive => [mk false false id]
  | .topField => [mk true false id]
  | .bottomField => [mk true true id]
  | .frame topFirst => [mk true (!topFirst) (fieldOf · (!topFirst)), mk true topFirst (fieldOf · topFirst)]

/-- The row of its frame that row `y` of a picture belongs to. -/
def frameRow (k : PicKind) (y : Nat) : Nat :=
  match k with
  | .topField => 2 * y
  | .bottomField => 2 * y + 1
  | _ => y

/-- The address of a sample of plane `k` in a picture buffer: frames plane by plane and row by row, 2 bytes a sample (log entry 184). -/
def bufAddr (e : EssenceInfo) (base k row col : Nat) : Nat :=
  base + 2 * ((List.range k).foldl (fun a i => a + planeCount e i) 0 + row * (planeDims e k).1 + col)

/-- A sample lies in a damaged area, given in luma samples. -/
def inAreas (e : EssenceInfo) (k : Nat) (l : List Area) (y x : Nat) : Bool :=
  let sx := if k ≠ 0 ∧ e.chroma ≠ .c444 then 2 else 1
  let sy := if k ≠ 0 ∧ e.chroma = .c420 then 2 else 1
  l.any fun a => decide (a.x / sx ≤ x ∧ x < ceilDiv (a.x + a.w) sx ∧ a.y / sy ≤ y ∧ y < ceilDiv (a.y + a.h) sy)

/-- Plane `k` of a picture with its damaged areas concealed (R299): by the co-located samples of the nearest reference picture in its buffer,
or by mid-grey. A marked access unit, and a picture that a header error leaves undecoded, are concealed over their whole extent (log entry
185). -/
def State.concealed (s : State) (c : DecContext) (e : EssenceInfo) (p : DecodedPicture) (k : Nat) (q : Plane) : Plane :=
  let whole := p.marked || p.headerError
  let dims := planeDims e k
  let q1 := if p.headerError then
      { q with width := dims.1, height := match p.kind with | .topField => dims.2 / 2 | .bottomField => dims.2 / 2 | _ => dims.2 }
    else q
  planeOf q1.width q1.height fun y x =>
    if whole || inAreas e k p.areas y x then
      match p.nearest.bind fun i => c.buffers[i]? with
      | some b => s.natAt (bufAddr e b k (frameRow p.kind y) x) 2
      | none => 2 ^ (e.depth - 1)
    else px q1 y x

/-- The samples of the reference picture that concealing a plane reads. -/
def State.concealReads (_ : State) (c : DecContext) (e : EssenceInfo) (p : DecodedPicture) (k : Nat) (q : Plane) : List Nat :=
  match p.nearest.bind fun i => c.buffers[i]? with
  | none => []
  | some b => (List.range q.height).flatMap fun y => ((List.range q.width).filter fun x =>
      p.marked || p.headerError || inAreas e k p.areas y x).map fun x => bufAddr e b k (frameRow p.kind y) x

/-- A plane is written into a picture buffer (R294, R296). -/
def State.putPlane (s : State) (dec : Dec) (e : EssenceInfo) (base k : Nat) (kind : PicKind) (q : Plane) : State :=
  (List.range q.height).foldl (fun t y =>
    t.storeFor (.decoder dec) (bufAddr e base k (frameRow kind y) 0) ((List.range q.width).flatMap fun x => leBytes 2 (px q y x)) 0xFFFF) s

/-- The decoded pictures that a span's output takes so far, of the first `frames`, each with its place; in MADI mode the last waits for the
field after it, unless the stream has ended (R298). -/
def outPlaces (j : JobSet) (frames : Nat) (pics : List RawPic) (ended : Bool) : List (RawPic × Nat) :=
  ((pics.zipIdx.filter fun q => q.1.shown).take frames).filter fun q =>
    !(q.1.interlaced && jobMadi j && !ended && decide (pics.length ≤ q.2 + 1))

/-- The context that an engine serves next (R296): they are served in turn, past those that already hold their output pictures. -/
def State.servedNext (s : State) (k : Nat) : Option DecContext :=
  (s.decK k).contexts.find? fun c => match s.job? c.gen c.span with
    | some j => decide ((outPlaces (s.jobSet k j.span) j.span.frames j.pics false).length < j.span.frames)
    | none => false

/-- A context has been served: it goes behind the others. -/
def Decoder.served (x : Decoder) (c : DecContext) : Decoder :=
  { x with contexts := (x.contexts.filter fun y => y ≠ c) ++ [c] }

/-- PICTURE_DECODE (R294 to R296, R299): an engine decodes the next picture, in display order, of the context that is served next, with its
errors concealed, and writes it into a buffer of the context; pictures, damaged pictures and film grain are counted, and coded luma samples of
what is decoded. With QUIESCE_REQ = 1 the engine serves no context (R410). -/
def execPictureDecode (dec : Dec) (gen span : Nat) (pic : DecodedPicture) (s : State) : Host.Outcome State Fault Refusal :=
  let k := dec.val
  let x := s.decK k
  match s.job? gen span, s.servedNext k with
  | some j, some c =>
    (match j.essence, c.buffers[pic.buf]? with
     | some e, some b =>
       if !s.firmwareRuns || decide (j.state ≠ .decoding) || decide ((c.gen, c.span) ≠ (gen, span)) || s.decGate k 1 then .next s
       else
         let y := s.concealed c e pic 0 pic.luma
         let u := s.concealed c e pic 1 pic.cb
         let v := s.concealed c e pic 2 pic.cr
         let n := if pic.headerError then 0 else pic.luma.width * pic.luma.height
         let s0 := s.countPoison (distinct (([(0, y), (1, u), (2, v)].flatMap fun q => s.concealReads c e pic q.1 q.2).map granule))
         let s1 := ((s0.putPlane dec e b 0 pic.kind y).putPlane dec e b 1 pic.kind u).putPlane dec e b 2 pic.kind v
         let s2 := (s1.setJob gen span { j with pics := j.pics ++ rawPics pic e.depth y u v }).setDec k
           { x.served c with samples := (x.samples + n) % 2 ^ 64 }
         .next (((s2.count (decReg k 0x40) 1).count (decReg k 0x44) (b2n pic.damaged)).count (decReg k 0x58) (b2n pic.filmGrain))
     | _, _ => .next s)
  | _, _ => .next s

/-- MADI for one plane (R298): the frame of field `f` with the fields before and after it in display order. -/
def madiPlane (t sh : Nat) (bottom : Bool) (f : Plane) (near : Option (Plane × Plane)) : Plane :=
  planeOf f.width (2 * f.height) fun y x =>
    if y % 2 = b2n bottom then px f (y / 2) x
    else
      -- own-field rows above and below frame row y, clamped
      let lo := if bottom then y / 2 - 1 else y / 2
      let hi := min (f.height - 1) (if bottom then y / 2 else y / 2 + 1)
      let intra := (px f lo x + px f hi x + 1) / 2
      match near with
      | none => intra
      | some (p, n) =>
        let m := maxNat (([x - 1, x, min (f.width - 1) (x + 1)]).map fun xj =>
          let a := px p (y / 2) xj
          let b := px n (y / 2) xj
          max a b - min a b)
        let inter := (px p (y / 2) x + px n (y / 2) x + 1) / 2
        let k := min 16 ((m - t) / 2 ^ sh)
        (inter * (16 - k) + intra * k + 8) / 16

/-- A picture before the resampler: its planes, bottom fields marked in FIELD mode, damaged (R297). -/
structure OutPic where
  luma    : Plane
  cb      : Plane
  cr      : Plane
  below   : Bool
  damaged : Bool
  deriving DecidableEq, Repr

/-- The output picture of place `n` of the decoded sequence (R297, R298). -/
def outPic (j : JobSet) (pics : List RawPic) (n : Nat) (p : RawPic) : OutPic :=
  if p.interlaced && jobMadi j then
    let near : Option (RawPic × RawPic) := match (if n = 0 then none else pics[n - 1]?), pics[n + 1]? with
      | some a, some b =>
        if (a.interlaced && b.interlaced) = true ∧ a.bottom ≠ p.bottom ∧ b.bottom ≠ p.bottom then some (a, b) else none
      | _, _ => none
    let g (f : RawPic → Plane) : Plane := madiPlane (jobMadiT j) (jobMadiS j) p.bottom (f p) (near.map fun q => (f q.1, f q.2))
    { luma := g (·.luma), cb := g (·.cb), cr := g (·.cr), below := false, damaged := p.damaged }
  else { luma := p.luma, cb := p.cb, cr := p.cr, below := p.interlaced && p.bottom, damaged := p.damaged }

/-- The output pictures of a span so far (R297, R298). -/
def outPics (j : JobSet) (frames : Nat) (pics : List RawPic) (ended : Bool) : List OutPic :=
  (outPlaces j frames pics ended).map fun q => outPic j pics q.2 q.1

/-- A tap of the coefficient table: signed 16-bit taps that sum to 16,384 in each phase (R301). Seven of a phase are free and the eighth is what
the sum leaves; where that is no 16-bit tap the phase has its one tap of 16,384 at the sample itself (log entry 187). -/
def resampleTap (ph t : Nat) : Int :=
  let last := 16384 - (List.range 7).foldl (fun a i => a + (Config.resampleTap ph i).toInt) 0
  if -32768 ≤ last ∧ last ≤ 32767 then (if t < 7 then (Config.resampleTap ph t).toInt else last)
  else if t = 3 then 16384 else 0

/-- An integer in `w` bits, two's complement. -/
def wrapInt (w : Nat) (v : Int) : Int := (BitVec.ofInt w v).toInt

/-- step_16_16: source size ÷ output size. -/
def resampleStep (source out : Nat) : Nat :=
  let q := source * 65536 / max 1 out
  if source * 65536 % max 1 out = 0 then q else q + b2n (Config.stepUp source out)

/-- The accumulated sum of R301, an int32, at output position `x` along an axis whose crop covers [origin, origin + size), with a shift of the
field in 16.16. -/
def resampleAt (origin size out shift : Nat) (src : Nat → Int) (x : Nat) : Int :=
  let pos : Int := (origin * 65536 : Nat) + ((2 * x + 1) * resampleStep size out / 2 : Nat) - 32768 - (shift : Int)
  let base := pos / 65536
  let ph := (pos % 65536).toNat / 1024
  wrapInt 32 ((List.range 8).foldl (fun (a : Int) (t : Nat) =>
    let i : Int := base + (t : Int) - 3
    let c := max (origin : Int) (min ((origin + size - 1 : Nat) : Int) i)
    a + resampleTap ph t * src c.toNat) 0)

/-- The resampler on one plane (R301): crop, horizontal scaling into 16-bit values, then vertical; bottom fields lie half a line lower. -/
def resample (p : Plane) (cx cy cw ch ow oh : Nat) (below : Bool) : Plane :=
  let mid := (List.range p.height).map fun y =>
    (List.range ow).map fun x => wrapInt 16 ((resampleAt cx cw ow 0 (fun i => (px p y i : Int)) x + 512) / 1024)
  planeOf ow oh fun y x =>
    let acc := resampleAt cy ch oh (if below then 32768 else 0) (fun i => (mid.getD i []).getD x 0) y
    (max 0 (min 1023 ((acc + 131072) / 262144))).toNat

/-- A sample as it is written: fp32((out − OFFSET) × GAIN) with one rounding, then PIX_FMT (R301, R22; log entry 62). -/
def pixel (fp8 : Bool) (offset gain : Word) (v : Nat) : Nat :=
  let y := match ff32.decode offset.toNat, ff32.decode gain.toNat with
    | .fin n1 m1 e1, .fin n2 m2 e2 =>
      let d := FpFmt.addFin false v 0 (!n1) m1 e1
      ff32.roundTo (d.1 != n2) (d.2.1 * m2) 1 (d.2.2 + e2)
    | _, _ => ff32.mul (ff32.sub (ff32.ofNat v) offset.toNat) gain.toNat
  (convert (if fp8 then .e4m3 else .bf16) false .nearest y).1

/-- The planes of an output picture on the target grid (R301): chroma at half the size in both directions. -/
def gridPlanes (x : Span) (c : Chroma) (o : OutPic) : Plane × Plane × Plane :=
  let sx := if c = .c444 then 1 else 2
  let sy := if c = .c420 then 2 else 1
  let ow := 16 * x.gridW
  let oh := 16 * x.gridH
  let g (p : Plane) : Plane := resample p (x.cropX / sx) (x.cropY / sy) (x.cropW / sx) (x.cropH / sy) (ow / 2) (oh / 2) o.below
  (resample o.luma x.cropX x.cropY x.cropW x.cropH ow oh o.below, g o.cb, g o.cr)

/-- The samples of token (tp, ty, tx) (R302). -/
def tokenRow (fr : List (Plane × Plane × Plane)) (tp ty tx : Nat) (py pc : Nat → Nat) : List Nat :=
  let two := [2 * tp, 2 * tp + 1].map fun i => fr[i]?
  let part (f : Plane × Plane × Plane → Plane) (n : Nat) (g : Nat → Nat) : List Nat :=
    two.flatMap fun q => match q with
      | none => []
      | some a => (List.range (n * n)).map fun i => g (px (f a) (n * ty + i / n) (n * tx + i % n))
  part (fun a => a.1) 16 py ++ part (fun a => a.2.1) 8 pc ++ part (fun a => a.2.2) 8 pc

/-- The bytes of a fragment: its header granule and its token rows (R302). -/
def fragmentBytes (x : Span) (js : JobSet) (fr : List (Plane × Plane × Plane)) (damaged policy : Nat) : List Byte :=
  let hdr := record 64 [(0, 4, 0x4752514E), (4, 8, x.fragId.toNat),
    (12, 4, x.frames % 256 + 256 * (x.gridH % 256) + 65536 * (x.gridW % 256) + 2 ^ 24 * b2n (jobFp8 js)), (16, 4, spanTokens x % 2 ^ 20),
    (20, 4, damaged % 256 + 256 * policy), (24, 4, x.variant.toNat), (28, 8, x.source.toNat)]
  let w := if jobFp8 js then 1 else 2
  hdr ++ (List.range (spanTokens x)).flatMap fun t =>
    (tokenRow fr (t / max 1 (x.gridH * x.gridW)) (t / max 1 x.gridW % max 1 x.gridH) (t % max 1 x.gridW)
      (pixel (jobFp8 js) js.offsetY js.gainY) (pixel (jobFp8 js) js.offsetC js.gainC)).flatMap (leBytes w)

/-- FREEZE (R300): each damaged picture is replaced by the last undamaged one before it; where there is none it stays as it was
concealed. The number of pictures replaced comes with them. -/
def freeze {α : Type} (l : List (α × Bool)) : List α × Nat :=
  let r := l.foldl (fun (a : Option α × List α × Nat) q =>
    match q.2, a.1 with
    | true, some good => (a.1, a.2.1 ++ [good], a.2.2 + 1)
    | true, none => (none, a.2.1 ++ [q.1], a.2.2)
    | false, _ => (some q.1, a.2.1 ++ [q.1], a.2.2)) (none, [], 0)
  r.2

/-- The address of reservoir slot `i` of Proofer `p`, and whether it lies in the RESERVOIR beyond the ES area (R302). -/
def State.slotAddr (s : State) (p i : Nat) : Nat :=
  troughBase p + (s.partBounds p partReservoir).1 + s.esBytes + i * s.slotBytes
def State.slotOk (s : State) (p i : Nat) : Bool :=
  decide ((s.partBounds p partReservoir).1 + s.esBytes + (i + 1) * s.slotBytes ≤ (s.partBounds p partReservoir).2) &&
    s.ing.gens.all fun g => !g.slots.contains (p, i)

/-- The fragments of a generation lie in manifest order (R306): in ascending order of Proofer and slot (log entry 214). -/
def State.slotInOrder (s : State) (gen span p i : Nat) : Bool :=
  match s.ing.gen? gen with
  | none => false
  | some g => g.jobs.zipIdx.all fun j => match j.1.slot with
    | none => true
    | some (q, n) =>
      let before := decide (q < p ∨ (q = p ∧ n < i))
      j.2 = span || (if j.2 < span then before else decide (p < q ∨ (p = q ∧ i < n)))

/-- A span leaves its engine: its context closes. -/
def State.closeContext (s : State) (k gen span : Nat) : State :=
  let x := s.decK k
  s.setDec k { x with contexts := x.contexts.filter fun c => !(c.gen = gen && c.span = span) }

/-- DMG_POLICY, where 3 reads as 2, and DMG_MAX (R300). -/
def State.dmgPolicy (s : State) (k : Nat) : Nat := min 2 (fld (s.rwAt (decReg k 0x104)) 1 0)
def State.dmgMax (s : State) (k : Nat) : Nat := fld (s.rwAt (decReg k 0x104)) 9 2

/-- Why a complete fragment is dropped: 1 policy, 2 DMG_MAX, 0 it is kept (R300). -/
def State.clipCause (s : State) (k damaged : Nat) : Nat :=
  if s.dmgPolicy k = 2 ∧ 0 < damaged then 1 else if s.dmgMax k < damaged then 2 else 0

/-- FRAGMENT (R299 to R302, R306): once a span's output pictures are there, its fragment is written into the reservoir slot that the
firmware chose, or dropped under the damage policy; a stream that has ended before its last picture drops it too. -/
def execFragment (gen span : Nat) (ended : Bool) (p : Prf) (slot : Nat) (s : State) : Host.Outcome State Fault Refusal :=
  match s.job? gen span with
  | none => .next s
  | some j =>
    match j.engine, j.essence with
    | some k, some e =>
      let js := s.jobSet k j.span
      let outs := outPics js j.span.frames j.pics ended
      let full := decide (j.span.frames ≤ outs.length)
      if !s.firmwareRuns || decide (j.state ≠ .decoding) || (!full && !ended) then .next s
      else
        let damaged := (outs.filter fun o => o.damaged).length
        let cause := if full then s.clipCause k damaged else 4
        let s1 := s.closeContext k gen span
        let s2 := if damaged = 0 then s1 else
          (s1.count (decReg k 0x50) 1).raise (Page.dec k) Code.ingClipDamaged (ingPayload j.span.fragId.toNat k 0 damaged gen)
        if cause ≠ 0 then .next ((s2.setJob gen span { j with state := .dropped, pics := [] }).dropClip k gen j.span cause damaged)
        else if !s.slotOk p.val slot || !s.slotInOrder gen span p.val slot then .next s
        else
          let grid := outs.map fun o => (gridPlanes j.span e.chroma o, o.damaged)
          let fr := if s.dmgPolicy k = 1 then freeze grid else (grid.map Prod.fst, 0)
          .next ((((s2.setJob gen span { j with state := .done, pics := [], slot := some (p.val, slot) }).store (s.slotAddr p.val slot)
            (fragmentBytes j.span js fr.1 damaged (s.dmgPolicy k))).count (decReg k 0x48) fr.2).count (decReg k 0x4C) 1)
    | _, _ => .next s

/-- GENERATION_PUBLISH (R306, R307): when every span of the next generation is done, it is published and covers the draw positions
after those of the one before. With no fragment at all it covers none and is retired at once. -/
def execGenerationPublish (gen : Nat) (s : State) : Host.Outcome State Fault Refusal :=
  match s.ing.gens.find? fun g => !g.published with
  | none => .next s
  | some g =>
    let ready := g.jobs.all fun j => decide (j.state = .done ∨ j.state = .dropped)
    if !s.firmwareRuns || decide (g.num ≠ gen) || !ready then .next s
    else
      let g1 := { g with published := true, start := s.ing.nextStart }
      let gens := if g1.slots.isEmpty then s.ing.gens.filter fun x => x.num ≠ gen
        else s.ing.gens.map fun x => if x.num = gen then g1 else x
      .next (State.count { s with ing := { s.ing with gens := gens, nextStart := g1.endPos } } (hostReg 0x58) 1)

/-- The next draw position of the step (R307). -/
def State.drawPos (s : State) : Nat := s.ing.sealCursor + s.ing.mb

/-- The ports of a die that are bound to its ingest queue. -/
def State.boundPorts (s : State) (d : Nat) : List Nat := (List.range 4).filter (s.ingBound d)

/-- The lowest queue sequence number of a die that a bound port has still to read. -/
def State.readFrom (s : State) (d : Nat) : Nat :=
  (s.boundPorts d).foldl (fun a p => min a (s.ing.portSeq.get 0 (128 * d + p))) (s.ing.head.get 0 d)

/-- A run still reads, or has still to read, a fragment of a generation (R309). -/
def State.genRead (s : State) (gen : Nat) : Bool :=
  (s.ing.reading.cells.any fun c => c.2 = gen + 1) ||
    s.ing.entryGen.cells.any fun c => decide (c.2 = gen + 1 ∧ s.readFrom (c.1 / 2 ^ 32) ≤ c.1 % 2 ^ 32)

/-- GENERATION_RETIRE (R309): a generation whose positions have all been written, and whose fragments no run reads any more, is
retired and its slots are free. -/
def execGenerationRetire (gen : Nat) (s : State) : Host.Outcome State Fault Refusal :=
  match s.ing.gen? gen with
  | none => .next s
  | some g =>
    if s.firmwareRuns && g.published && decide (g.endPos ≤ s.drawPos) && !s.genRead gen then
      .next { s with ing := { s.ing with
        gens := s.ing.gens.filter fun x => x.num ≠ gen
        entryGen := ⟨s.ing.entryGen.cells.filter fun c => c.2 ≠ gen + 1⟩ } }
    else .next s

/-- One exchange of the shuffle of pass `p` of generation `g` (R307). -/
def drawSwap (seed p g : Nat) (l : List Nat) (i : Nat) : List Nat :=
  let c := philox seed (i, p, g % 2 ^ 32, 0xFFFFFFFE)
  let u := philoxWord c 1 * 2 ^ 32 + philoxWord c 0
  let j := u * (i + 1) / 2 ^ 64
  (l.set i (l.getD j 0)).set j (l.getD i 0)

/-- The permutation of pass `p` of generation `g` with `n` fragments (R307). -/
def drawPerm (seed p g n : Nat) : List Nat :=
  ((List.range (n - 1)).map fun i => n - 1 - i).foldl (drawSwap seed p g) (List.range n)

/-- The slot that position `pos` of a generation selects (R307). -/
def Generation.select (g : Generation) (seed pos : Nat) : Nat × Nat :=
  let n := max 1 g.slots.length
  let off := pos - g.start
  g.slots.getD ((drawPerm seed (off / n) g.num n).getD (off % n) 0) (0, 0)

/-- The generation that covers a draw position. -/
def Ingest.covering (i : Ingest) (pos : Nat) : Option Generation :=
  i.gens.find? fun g => g.published && decide (g.start ≤ pos ∧ pos < g.endPos)

/-- The die whose Chanter takes units from the ingest queue. -/
def State.ingDie (s : State) : Option Nat := dies.find? s.ingEn

/-- The firmware writes an entry of a die's queue for a fragment (R310): the unit record, then the descriptor with SEQ last. -/
def State.writeEntry (s : State) (d q mb frag : Nat) : State :=
  let h := fun (w : Nat) => s.natAt (frag + 4 * w) 4
  let u := unitRecord mb 0 1 (bitsOf (h 6) 11 0) 0 0 [bitsOf (h 4) 19 0, bitsOf (h 3) 7 0, bitsOf (h 3) 15 8, bitsOf (h 3) 23 16]
  let w := MemUnit.hostCore 0 0
  let s1 := s.storeFor w (s.ingEntry d q + 64) (u.flatMap (leBytes 4)) mb
  s1.storeFor w (s.ingEntry d q) (record 64 [(0, 5, frag / 64), (8, 4, s.ctl.stepNo % 2 ^ 32), (12, 4, q % 2 ^ 32), (16, 1, bitsOf (h 5) 7 0)]) mb

/-- INGEST_QUEUE_ENTRY (R307, R309, R310): the next micro-batch of the step takes its draw position; the entry is written where the
queue has room. While no published generation covers the position the firmware waits and raises ING_STARVED once per step. -/
def execIngestQueueEntry (s : State) : Host.Outcome State Fault Refusal :=
  if s.still then .next s else
  match s.ingDie with
  | none => .next s
  | some d =>
    let q := s.ing.head.get 0 d
    let room := decide (q < min (s.chD d).ingSeq (s.readFrom d) + s.ingDepth d)
    if decide (s.ctl.state ≠ .running) || !(s.chD d).inStep || !s.drawEn || !room || decide (s.mbPlan d (s.activeOf d) ≤ s.ing.mb)
    then .next s
    else match s.ing.covering s.drawPos with
      | none =>
        let s1 := { s with ing := { s.ing with starved := true, starving := true } }
        if s.ing.starved then .next s1
        else .next (s1.raise Page.host Code.ingStarved
          (ingPayload 0 0xFF 0 s.ing.mb ((s.ing.gens.find? fun g => !g.published).map (fun g => g.num) |>.getD (s.ing.drawGen + 1))))
      | some g =>
        let sl := g.select s.drawSeed s.drawPos
        let s1 := s.writeEntry d q s.ing.mb (s.slotAddr sl.1 sl.2)
        .next (State.count { s1 with ing := { s1.ing with
          mb := s.ing.mb + 1, cursor := s.drawPos + 1, drawGen := g.num, drawBase := g.start, starving := false
          head := s.ing.head.set 0 d (q + 1), entryGen := s.ing.entryGen.set 0 (2 ^ 32 * d + q % 2 ^ 32) (g.num + 1) } } (hostReg 0x40) 1)

/-- INGEST_RUN (R311): a bound port with a GO and a run word starts a run over the fragment of its next queue entry. A live count above
the plan starts nothing; a micro-batch that differs from the entry's delivers zeros, raises ING_ORDER and is held. -/
def execIngestRun (d : Die) (p : Sp) (s : State) : Host.Outcome State Fault Refusal :=
  if s.still then .next s else
  let f := s.fabD d.val
  let r := s.spRec d.val (s.activeOf d.val) p.val
  let x := f.port p.val
  let q := s.ing.portSeq.get 0 (128 * d.val + p.val)
  let run := (f.queue (spKey p.val 1)).items
  if !s.ingBound d.val p.val || !x.go || x.active || f.halted || decide (f.due ≠ 0) || decide (sprDir r ≠ 1) || !sprLive r ||
      decide (s.ing.head.get 0 d.val ≤ q) then .next s
  else match run with
    | [] => .next s
    | w :: rest =>
      let live := bitsOf w.bits 19 0
      let mb := bitsOf w.bits 31 20
      let f1 := f.setQueue (spKey p.val 1) { items := rest, taken := [] }
      if sprL2 r < live then
        .next ((s.setFab d.val (f1.setPort p.val { x with go := false })).limitOver d.val (spWho p.val) 0xFF live mb)
      else
        let frag := s.natAt (s.ingEntry d.val q) 5 * 64
        let gen := s.ing.entryGen.get 0 (2 ^ 32 * d.val + q % 2 ^ 32)
        let bad := decide (urMb (s.ingRecord d.val q) ≠ mb)
        let x1 := { x with
          go := false, active := true, pos := 0, spos := 0, live := live, mb := mb, runs := x.runs + 1
          addr := frag, tokens := bitsOf (s.natAt (frag + 16) 4) 19 0, zero := bad }
        let s1 := s.setFab d.val (f1.setPort p.val x1)
        let s2 := { s1 with ing := { s1.ing with
          portSeq := s1.ing.portSeq.set 0 (128 * d.val + p.val) (q + 1), reading := s1.ing.reading.set 0 (128 * d.val + p.val) gen } }
        let s3 := if bad then
            (s2.raise (Page.die d.val) Code.ingOrder (ingPayload (s.natAt (frag + 4) 8) 0xFF 0 mb (gen - 1))).holdRun d.val mb Code.ingOrder
          else s2
        .next (s3.settle d.val)

/-- SPAN_SUBMIT (R313): customer code submits a span in its die's span ring while the partition is enabled; the firmware checks it
against R295 and R305. What becomes of a span that passes is not stated: it is kept (log entry 64). -/
def execSpanSubmit (edge : Fin 2) (x : Span) (r : DemuxResult) (s : State) : Host.Outcome State Fault Refusal :=
  if !s.ing.cipEn || !s.firmwareRuns then .next s
  else
    let put (ok : Bool) (t : State) : State := { t with ing := { t.ing with submitted := t.ing.submitted ++ [(edge.val, x, ok)] } }
    let gen := s.ing.lastGen.getD 0
    match demuxFound x r with
    | .unsupported => .next ((put false s).skipSource x gen)
    | .broken => .next ((put false s).skipSpan x gen)
    | .track t => .next ((put true s).count (hostReg 0x48) t.ccErrors)

/-- CIP_CORES, and CIP_GIB in bytes (R312). -/
def State.cipCores (s : State) : Nat := fld (s.shAt (hostReg 0x104)) 5 1
def State.cipBytes (s : State) : Nat := fld (s.shAt (hostReg 0x104)) 13 6 * gib

/-- The bytes of HOST memory of an edge die (R284). -/
def State.hostTotal (s : State) (edge : Nat) : Nat := ((List.range 4).map fun i => (s.partSizes (4 * edge + i)).getD partHost 0 * gib).sum

/-- The place of an address in the HOST memory of an edge die: the HOST regions of its Proofers one after another (R284; log entry
64). -/
def State.hostPlace (s : State) (edge a : Nat) : Option Nat :=
  match regionOf a with
  | .trough p o =>
    if p / 4 = edge ∧ s.inPart p partHost o then
      some (((List.range (p % 4)).map fun i => (s.partSizes (4 * edge + i)).getD partHost 0 * gib).sum + (o - (s.partBounds p partHost).1))
    else none
  | _ => none

/-- An address lies in the partition's window at the top of its die's HOST memory (R312). -/
def State.inWindow (s : State) (edge a : Nat) : Bool :=
  match s.hostPlace edge a with
  | some o => decide (s.hostTotal edge - s.cipBytes ≤ o)
  | none => false

/-- An address lies in the ES area or in a fragment slot of some RESERVOIR (R294): what is left after the last whole slot is neither. -/
def State.inSlots (s : State) (a : Nat) : Bool :=
  match regionOf a with
  | .trough p o =>
    let b := s.partBounds p partReservoir
    decide (b.1 ≤ o ∧ o < b.1 + s.esBytes + (b.2 - b.1 - s.esBytes) / s.slotBytes * s.slotBytes ∧ o < b.2)
  | _ => false

/-- The firewall lets an access of the partition to a byte through (R312): its window in full, the ES area and the fragment slots to
read; code runs from the window alone. -/
def State.cipAllowed (s : State) (edge a : Nat) (k : Access) : Bool :=
  s.inWindow edge a || (k = .load && s.inSlots a)

/-- The firewall refuses an access (R312): a load or a fetch returns an access fault to the hart, a store is discarded. -/
def State.cipViolation (s : State) (op : MemOp) : State :=
  let s1 := { s with mt := { s.mt with answer := { data := [], poison := false, trap := if op.writes then .none else .access } } }
  (s1.count (hostReg 0x54) 1).raise Page.host Code.ingCipViolation (ingPayload 0 0xFF 0 0 0)

/-- ING_CIP_VIOLATION (R312): the firewall refuses an access of the partition outside its table. -/
def execIngCipViolation (edge : Fin 2) (addr : Nat) (op : MemOp) (s : State) : Host.Outcome State Fault Refusal :=
  if !s.ing.cipEn || s.cipAllowed edge.val addr op.access then .next s else .next (s.cipViolation op)

/-- The firmware waits for a generation now (R309): until the position is covered, in a step that goes on. -/
def State.starves (s : State) : Bool :=
  s.ing.starving && s.ctl.state = .running && (s.ing.covering s.drawPos).isNone

/-- The µs that ingest waits are counted: STARVE_US and REFPIC_WAIT (R296, R309). -/
def State.ingestUs (s : State) : State :=
  let s1 := s.count (hostReg 0x44) (b2n s.starves)
  s1.ing.decoders.cells.foldl (fun t c => t.count (decReg c.1 0x5C) c.2.waiting.length) s1

end Sys2Proof.Machine
end

