-- ==== Sys2Proof/Machine/RegRead.lean ====
section
/-! DEFINITION. What a register reads as: page headers, block registers, windows, subpages and mailbox items (R402 to R424 and the
register tables of the chapters). -/

namespace Sys2Proof.Machine

/-- The power domain of a page (R405); the host-core page, which serves both edge dies, goes by PD58 of ED0 (log entry 90).
Domain pages and the shared Leaven and KV headers have none here. -/
def pageDomain (p : Nat) : Option Nat :=
  match Page.kind p with
  | 0x01 => some 59
  | 0x02 => some 59
  | 0x03 => some 59
  | 0x04 => some 59
  | 0x05 => some 59
  | 0x11 => some 59
  | 0x06 => some (14 * Page.inst p + 10)
  | 0x08 => some (14 * Page.inst p + 10)
  | 0x07 => some (pdOfEngine (Page.inst p / 36) (Page.inst p % 36))
  | 0x09 => some (64 + Page.inst p)
  | 0x0A => some (64 + Page.inst p / 2)
  | 0x0B => some (56 + 4 * (Page.inst p / 12) + Page.inst p % 12 / 6)
  | 0x0C => some 58
  | 0x0D => some (56 + 4 * (Page.inst p / 8) + 2)
  | 0x0E => some 58
  | _ => none

/-- The die of a section of a shared page, from an offset in it. -/
def sectionDie (off : Nat) : Nat := (off - 0x100) / 0x100

/-- The power domain that an address needs (R405). -/
def regDomain (a : Nat) : Option Nat :=
  let p := a / 65536
  let off := a % 65536
  if (p = Page.leaven ∨ p = Page.kv) ∧ 0x100 ≤ off ∧ off < 0x500 then some (14 * sectionDie off + 10) else pageDomain p

/-- The block that an address belongs to is powered (R405). -/
def State.regPowered (s : State) (a : Nat) : Bool :=
  match regDomain a with
  | none => true
  | some n => decide ((s.dom.get Domain.off n).state ≠ 0)

/-- SHADOW_VIEW of a page (R409). -/
def State.shadowView (s : State) (p : Nat) : Bool := (s.rwAt (regAddr p 8)).getLsbD 2

/-- An SH word as a read of its page sees it (R407). -/
def State.viewSh (s : State) (p a : Nat) : Word := if s.shadowView p then s.shadowAt a else s.shAt a

/-- The page kinds whose ENABLE and QUIESCE_REQ are writable (R410). -/
def pageGate (p : Nat) : Bool := Page.kind p = 0x0B || Page.kind p = 0x0D
def pageQuiesce (p : Nat) : Bool := Page.kind p = 0x0A || Page.kind p = 0x0B || Page.kind p = 0x0D

/-- The page kinds with mailbox items, with SH fields, and that raise codes (R406, R425). -/
def pageMailbox (p : Nat) : Bool := !([0x01, 0x0C, 0x0F, 0x12].contains (Page.kind p))
def pageShadow (p : Nat) : Bool := [0x02, 0x03, 0x06, 0x09, 0x0C, 0x0D, 0x0E, 0x0F, 0x10].contains (Page.kind p)
def pageEvents (p : Nat) : Bool := !([0x05, 0x0F].contains (Page.kind p))

/-- The sub-ports of a port. -/
def State.portSubs (s : State) (n : Nat) : List SubPort := (List.range 4).map fun k => s.subP (4 * n + k)

/-- A block has work in progress (ACTIVE; log entry 66). -/
def State.pageActive (s : State) (p : Nat) : Bool :=
  let i := Page.inst p
  match Page.kind p with
  | 0x01 => !s.ctl.long.isEmpty
  | 0x05 => !s.evt.ring.isEmpty
  | 0x06 => (s.chD i).inStep
  | 0x07 => !(s.engD (i / 36) (i % 36)).idle
  | 0x08 => !s.quiesced i
  | 0x09 => !(s.prfP i).ready.isEmpty || !(s.prfP i).held.isEmpty || !(s.prfP i).park.isEmpty
  | 0x0A => s.mt.scrub.get false i
  | 0x0B => (s.portSubs i).any fun x => !x.replay.isEmpty || x.waiting.cells.any fun c => !c.2.isEmpty
  | 0x0C => !s.col.ops.isEmpty
  | 0x0D => !(s.decK i).contexts.isEmpty
  | 0x0E => s.ing.gens.any fun g => !g.published
  | 0x10 => (List.range 4).any fun d => !(s.kvD d).cmds.isEmpty
  | _ => false

/-- QUIESCED (R410): the request stands and the block is idle. -/
def State.pageQuiesced (s : State) (p : Nat) : Bool :=
  pageQuiesce p && (s.rwAt (regAddr p 8)).getLsbD 1 &&
    (match Page.kind p with
     | 0x0B => (s.portSubs (Page.inst p)).all fun x => x.replay.isEmpty
     | 0x0A => !s.mt.scrub.get false (Page.inst p)
     | _ => true)

/-- The page that holds the window of a key beyond the register space. -/
def winPage (k : Nat) : Nat :=
  if 2 ^ 43 ≤ k then Page.coll
  else if 2 ^ 42 ≤ k then Page.prf ((k - 2 ^ 42) / 4096)
  else if 2 ^ 41 ≤ k then Page.prf ((k - 2 ^ 41) / 1024)
  else if 2 ^ 40 ≤ k then Page.prf ((k - 2 ^ 40) / 16384)
  else k / 65536

/-- SHADOW_PENDING (R409): some shadow value of the page differs from its active value. -/
def State.shadowPending (s : State) (p : Nat) : Bool :=
  (s.shNew.cells.any fun c => winPage c.1 = p && decide (s.shadowAt c.1 ≠ s.shAt c.1)) ||
    (p = Page.leaven && (s.leaven.shNew.cells ++ s.leaven.imgNew.cells).any fun c =>
      decide (s.levShadow (c.1 / 65536) (c.1 / 16 % 4096) (c.1 % 16) ≠ s.lev (c.1 / 65536) (c.1 / 16 % 4096) (c.1 % 16)))

/-- The codes that stand on a page, ascending (R411, R425). -/
def State.standing (s : State) (p : Nat) : List Nat :=
  let i := Page.inst p
  let on (b : Bool) (c : Nat) : List Nat := if b then [c] else []
  match Page.kind p with
  | 0x02 => on (s.cad.state = .lost) Code.cadLost
  | 0x04 => on s.fuse.tamper Code.secTamper
  | 0x06 =>
    let c := s.chD i
    on (!c.holds.isEmpty) Code.pipeMbHeld ++ on c.progFault Code.pipeProgramFault ++
      on c.stopped Code.pipeStepAbandoned ++ on (c.holds.any fun h => h.past.isSome) Code.pipeSegOver
  | 0x07 =>
    let a := [(s.engD (i / 36) (i % 36)).arr 0, (s.engD (i / 36) (i % 36)).arr 1]
    let m := (s.fabD (i / 36)).mcFaults.filter fun q => q.1 = i % 36
    on (a.any fun x => x.lowFailed || x.highFailed) Code.arraySplitFault ++ on (a.any fun x => x.failed) Code.arrayFault ++
      on (a.any fun x => x.retired) Code.arrayRetired ++
      on (m.any fun q => q.2.2 = Code.seqMcastStall) Code.seqMcastStall ++
      on (m.any fun q => q.2.2 = Code.seqMcastMismatch) Code.seqMcastMismatch
  | 0x08 =>
    let f := s.fabD i
    on (f.shadow = 4 && f.rejectedBy = 2) Code.fabAuditFail ++ on (f.halted && !f.log.isEmpty) Code.fabStarve ++
      on (f.shadow = 4 && f.rejectedBy = 1) Code.fabImageInvalid ++ on (f.halted && f.lsFault) Code.fabLsUncorrectable
  | 0x09 => on (!(s.prfP i).badProg.isEmpty) Code.prfProgramInvalid ++ on (s.prfP i).badTab Code.prfTableInvalid
  | 0x0B => on ((s.portSubs i).any fun x => x.peerLost) Code.lnkPartition ++
      on ((s.portSubs i).any fun x => x.state = .down) Code.lnkPortDown
  | 0x0C => on s.col.timedOut Code.colTimeout
  | 0x11 => on (!s.pins.thermtripN) Code.hltThermtrip
  | _ => []

/-- PAGE_ID and PAGE_CAPS (R409). -/
def pageId (p : Nat) : Nat := Page.kind p + 256 * Page.inst p + 2 ^ 20
def pageCaps (p : Nat) : Nat :=
  b2n (pageMailbox p) + 2 * b2n (pageShadow p) + 4 * b2n (pageGate p) + 8 * b2n (pageQuiesce p) + 16 * b2n (pageEvents p) +
    32 * b2n (decide (Code.maskable p ≠ 0)) + 64 * Page.counterWords p

/-- The mailbox of a page. -/
def State.mbxOf (s : State) (p : Nat) : Mailbox := s.mbx.get Mailbox.reset p

/-- Two counters of 16 bits that share a word and saturate (R79, R103). -/
def State.halves (s : State) (a : Nat) : Nat := min 0xFFFF (s.cntAt a) + 65536 * min 0xFFFF (s.cntAt (a + 2))

/-- A counter that measures how long something waited, in cycles: the manual bounds no such time, so each wait adds a free value
(log entry 67). Of an engine: STALL_ROW, STALL_LOAD, STALL_DRAIN and STALL_EPI of both arrays and MCAST_WAIT_AC; of a Proofer:
ARRIVAL_FULL and STATE_WAIT. -/
def isWaitCounter (a : Nat) : Bool :=
  match Page.kind (a / 65536) with
  | 0x07 => decide (a % 65536 ∈ [0x44, 0x48, 0x60, 0x64, 0x148, 0x14C, 0x150, 0x154, 0x294])
  | 0x09 => decide (a % 65536 ∈ [0x50, 0x54])
  | _ => false

/-- The time that the first `n` waits of a counter took: free values, 0 without a wait (R438; log entry 67). -/
def waitTime (a : Nat) : Nat → Nat
  | 0 => 0
  | n + 1 => waitTime a n + (Config.openReg a 0 n).toNat

/-- The count of a counter as its 64-bit item shows it. -/
def State.cntShown (s : State) (a : Nat) : Nat := if isWaitCounter a then waitTime a (s.cntAt a) % 2 ^ 64 else s.cntAt a

/-- A counter word of a page: the low 32 bits of the count. -/
def State.counterWord (s : State) (p off : Nat) : Nat :=
  if p = Page.health ∧ off = 0x48 then s.fuse.thermtrips % 2 ^ 32
  else if Page.kind p = 0x07 ∧ (off = 0x7C ∨ off = 0x158) then s.halves (regAddr p off)
  else s.cntShown (regAddr p off) % 2 ^ 32

/-- A word of the page header (R408, R409). Until a snapshot is complete the data words are undefined: free values (R414). -/
def State.headerWord (s : State) (p off : Nat) : Nat :=
  let m := s.mbxOf p
  if off = 0x00 then pageId p
  else if off = 0x04 then pageCaps p
  else if off = 0x08 then (s.rwAt (regAddr p 8)).toNat
  else if off = 0x0C then
    b2n (s.pageActive p) + 2 * b2n (s.pageQuiesced p) + 4 * b2n (!(s.standing p).isEmpty) + 8 * b2n (s.shadowPending p)
  else if off = 0x10 then
    let l := s.standing p
    l.headD 0 + 65536 * b2n (decide (1 < l.length))
  else if off = 0x14 then s.evt.seqs.get 0 p
  else if off = 0x18 then (s.rwAt (regAddr p 0x18)).toNat
  else if off = 0x20 then m.item
  else if off = 0x24 then b2n m.valid + 2 * b2n m.noItem + 256 * m.snapNo
  else if 0x28 ≤ off ∧ off < 0x40 then
    if m.pending then (Config.openReg (regAddr p off) 0 s.freeCtr).toNat else m.data.getD ((off - 0x28) / 4) 0
  else if 0x40 ≤ off ∧ off < 0x40 + 4 * Page.counterWords p then s.counterWord p off
  else 0

/-- The global page (chapter 14, R424). -/
def State.globalWord (s : State) (off : Nat) : Nat :=
  match off with
  | 0x100 => s.ctl.state.code + 16 * s.ctl.maintFrom.code + 256 * b2n s.ctl.holdPending + 512 * b2n (!s.ctl.long.isEmpty) +
      1024 * b2n s.ctl.ramActive + 2048 * b2n s.ctl.standbyLock
  | 0x104 => s.ctl.heldCause
  | 0x108 => s.fuse.deviceId % 2 ^ 32
  | 0x10C => s.fuse.deviceId / 2 ^ 32 % 2 ^ 32
  | 0x110 => 0x01B0
  | _ => 0

/-- Rail `k` of the Bellows page, from 0x0130. -/
def State.bellowsWord (s : State) (off : Nat) : Nat :=
  if off = 0x110 then
    s.bel.throttle + 16 * s.bel.ballast + 256 * b2n s.bel.hold + 512 * b2n s.bel.relaxed + 1024 * s.bel.modeAct.code +
      4096 * b2n s.bel.widen.isSome
  else if off = 0x114 then s.bel.draw / 1000 % 2 ^ 14 + 65536 * (s.bel.lim / 1000 % 2 ^ 14)
  else if 0x130 ≤ off ∧ off < 0x154 then s.bel.rails.get 0 ((off - 0x130) / 4)
  else 0

/-- The security page (chapter 14). -/
def State.securityWord (s : State) (off : Nat) : Nat :=
  match off with
  | 0x100 => b2n s.presenceHolds + 2 * b2n (!s.pins.presenceN) + 4 * s.presSec + 256 * b2n s.pins.sealClosed +
      512 * b2n s.fuse.tamper + 1024 * b2n s.ctl.debugSeen + 2048 * b2n s.fuse.zeroPending + 4096 * b2n (s.longRuns 0x0074)
  | 0x104 => s.ctl.lowSvn + 256 * s.fuse.floor + 65536 * s.ctl.keySlot + 2 ^ 18 * min 255 s.fuse.tamperClears
  | _ => 0

/-- The event page (R422). -/
def State.eventWord (s : State) (off : Nat) : Nat :=
  match off with
  | 0x104 => s.evt.ring.length + 8192 * b2n (decide (ringDepth ≤ s.evt.ring.length)) + 16384 * b2n (s.portEn && !s.portUp)
  | 0x108 => s.evt.lostLast
  | 0x114 => s.evt.hostWp + 4096 * s.evt.hostWraps
  | _ => 0

/-- Band, hottest reading, scrub and degraded die of a stack or crust die (TS_STATUS). -/
def State.memStatus (s : State) (keys : List Nat) (scrubbing : Bool) (degraded : Nat) : Nat :=
  maxNat (keys.map s.mt.band) + 4 * (maxNat (keys.map fun k => s.hlt.temps.get 0 (128 + k)) % 256) + 1024 * b2n scrubbing + 2048 * degraded

/-- Live entries of the present step in a die's ingest queue (PRESENT). -/
def State.ingHeld (s : State) (d : Nat) : Nat :=
  ((List.range (s.ingDepth d)).filter fun i => s.ingPresent d ((s.chD d).ingSeq + i)).length

/-- A compute-die page (chapters 7, 10 and 11). -/
def State.dieWord (s : State) (d off : Nat) : Nat :=
  let c := s.chD d
  if off = 0x100 then
    b2n c.inStep + 2 * b2n (!c.holds.isEmpty) + 4 * b2n c.stopped + 8 * b2n (s.dieReady d) + 16 * (c.inFlight % 16) +
      256 * (s.stage d % 64)
  else if off = 0x114 then (match c.holds with | [] => 0 | h :: _ => h.mb % 4096 + 4096 * h.cause)
  else if off = 0x118 then c.fwdNext % 65536 + 65536 * (c.bwdNext % 65536)
  else if 0x180 ≤ off ∧ off < 0x190 then
    let k := 4 * d + (off - 0x180) / 4
    s.memStatus [k] (s.mt.scrub.get false (16 + k)) 0
  else if off = 0x19C then c.ingSeq % 65536 + 65536 * s.ingHeld d
  else 0

/-- The lanes of an engine that an array works on and whose pass is in progress. -/
def Engine.inPass (x : Engine) (a : Nat) : List LaneProg := x.queue.flatMap fun j => (j.lanesOn a).filter LaneProg.started

/-- ARR_A_STATUS and ARR_B_STATUS (chapter 3). -/
def State.arrStatus (s : State) (d e a : Nat) : Nat :=
  let x := s.engD d e
  let r := x.arr a
  let prog := x.inPass a
  262 + b2n (decide (0 < r.spareRows + r.spareCols)) + 512 * b2n (!prog.isEmpty) + 1024 * b2n (prog.any fun l => l.lane % 3 ≠ 0) +
    2048 * b2n r.lowFailed + 4096 * b2n r.highFailed + 8192 * b2n r.failed + 16384 * b2n r.retired + 2 ^ 15 * r.spareRows +
    2 ^ 17 * r.spareCols + 2 ^ 19 * b2n (s.ballastRuns d e a)

/-- The lanes of an array that hold tiles. -/
def Engine.arrTiles (x : Engine) (a : Nat) : List AccTile := ([0, 1, 2].map fun h => x.tiles.get [] (3 * a + h)).flatten

/-- ACC_A_STATUS and ACC_B_STATUS (chapter 4): a spill is one step of a command, so SPILLING reads 0. -/
def Engine.accStatus (x : Engine) (a : Nat) : Nat :=
  let set := x.fillSet.get 0 a
  let ts := (x.arrTiles a).filter fun t => t.set = set
  let rung := maxNat ((x.inPass a).map fun l => l.rung)
  set + 2 * b2n ((x.draining a).any DrainTile.begun) + 4 * min 15 (ts.map fun t => t.slots).sum +
    64 * min 15 (ts.map fun t => t.wide).sum + 1024 * rung + 4096 * min 15 (x.arrTiles a).length

/-- Tiles fetched and not yet loaded: of the stationary rings, and of the multicast units that the engine holds. -/
def Engine.fetchDepth (x : Engine) : Nat :=
  x.ring.length + (x.mcRing.cells.map fun c => (c.2.map fun u => u.tiles.length).sum).sum

/-- An engine page (chapters 3 to 5). -/
def State.engWord (s : State) (n off : Nat) : Nat :=
  let d := n / 36
  let e := n % 36
  let x := s.engD d e
  let isB := decide (12 ≤ e)
  if off = 0x100 then b2n isB + 2 * e + 128 * d + 512 * b2n isB + 1024 * b2n isB
  else if off = 0x108 then s.arrStatus d e 0
  else if off = 0x10C then s.arrStatus d e 1
  else if off = 0x110 then (x.arr 0).repair
  else if off = 0x114 then (x.arr 1).repair
  else if off = 0x118 then x.queue.length
  else if off = 0x11C then x.lastRefusal
  else if off = 0x120 then x.accStatus 0
  else if off = 0x124 then x.accStatus 1
  else if off = 0x128 then x.lastPlan
  else if 0x130 ≤ off ∧ off ≤ 0x158 then s.counterWord (Page.eng d e) off
  else if off = 0x200 then
    let act (a : Nat) : Bool := (x.running a).isSome
    let wait (a : Nat) : Bool := (x.running a).any fun p => mpdReuse p.2.mpd.words && (p.2.lanesOn a).any (s.mcMissing d e p.2)
    b2n (act 0) + 2 * b2n (act 1) + 4 * b2n (wait 0) + 8 * b2n (wait 1) + 16 * min 8 x.fetchDepth
  else if off = 0x204 then x.lastInvalid
  else if off = 0x20C then ((List.range 8).map fun i => if (x.tds.get [] i).isEmpty then 0 else 2 ^ i).sum
  else if 0x240 ≤ off ∧ off < 0x280 then x.lx.get 0 ((off - 0x240) / 4)
  else if 0x280 ≤ off ∧ off ≤ 0x298 then s.counterWord (Page.eng d e) off
  else 0

/-- The subpage that SUBSEL selects: kind and index. -/
def State.subSel (s : State) (d : Nat) : Nat × Nat :=
  let w := s.rwAt (regAddr (Page.fab d) 0x120)
  (fld w 1 0, fld w 14 2)

/-- A stall counter of a reed: free times, one for each firing or issue before which it may have counted and one for a stall that goes on; 0
where there was none (R162, R438; log entry 67). -/
def State.reedWait (s : State) (d r off : Nat) : Nat :=
  let n := ((s.fabD d).reed r).waits + b2n (s.stallEn d && (s.stall d r).1 ≠ 0)
  ((List.range n).map fun k => (Config.openReg (regAddr (Page.fab d) off) (4 * r) k).toNat).sum % 2 ^ 32

/-- The wait timer of a reed: free while it counts a stall and its watchdog group is armed, else 0 (R163; log entry 67). -/
def State.wdWait (s : State) (d r : Nat) : Nat :=
  if (s.stall d r).1 ≠ 0 && (s.wdArm d).testBit (rrGroup (s.recOf d r)) then
    (Config.openReg (regAddr (Page.fab d) 0x154) (4 * r) s.freeCtr).toNat
  else 0

/-- The window of the selected subpage (chapter 6): counters of waiting time are free values (log entry 67); PORT_STATE and SP_STATE have no
layout (log entry 65). -/
def State.subpageWord (s : State) (d off : Nat) : Nat :=
  let f := s.fabD d
  let q := s.subSel d
  let open_ := (Config.openReg (regAddr (Page.fab d) off) (q.1 + 4 * q.2) s.freeCtr).toNat
  match q.1 with
  | 0 =>
    if 6144 ≤ q.2 then 0
    else
      let st := s.stall d q.2
      let x := f.reed q.2
      if off = 0x140 then rrKind (s.recOf d q.2) + 16 * b2n (armed (s.recOf d q.2) x) + 32 * st.1 + 128 * (st.2 % 16)
      else if off = 0x144 then x.firings % 2 ^ 32
      else if off = 0x148 ∨ off = 0x14C ∨ off = 0x150 then s.reedWait d q.2 off
      else if off = 0x154 then s.wdWait d q.2
      else if off ≤ 0x184 then open_
      else 0
  | 1 =>
    if 288 ≤ q.2 then 0 else if off = 0x144 then f.moved.get 0 q.2 % 2 ^ 32 else if off ≤ 0x14C then open_ else 0
  | 2 =>
    if 128 ≤ q.2 then 0
    else if off = 0x144 then (f.port q.2).runs % 2 ^ 32
    else if off ≠ 0x140 ∧ (f.port q.2).runs = 0 ∧ (f.port q.2).active = false then 0
    else if off ≤ 0x14C then open_
    else 0
  | _ => 0

/-- A fabric page (chapter 6). -/
def State.fabWord (s : State) (d off : Nat) : Nat :=
  let f := s.fabD d
  if off = 0x100 then 96 + 256 * 64 + 65536
  else if off = 0x108 then
    f.activeSet + 2 * f.shadow + 16 * b2n (f.swap || f.due = 1) + 32 * b2n (s.quiesced d) + 64 * b2n f.halted +
      128 * b2n (decide (16 ≤ f.log.length))
  else if off = 0x118 then f.auditReason + 16 * f.auditDecl
  else if off = 0x11C then f.imageReason
  else if 0x140 ≤ off ∧ off < 0x1C0 then s.subpageWord d off
  else 0

/-- A word of a program slot as PROG_DATA reads it (R248). -/
def State.progView (s : State) (p k w : Nat) : Nat :=
  if 65 ≤ w then 0 else if k < 3 then s.progData p k w else (s.viewSh (Page.prf p) (winProg p k w)).toNat

/-- A Proofer page (chapters 9 and 10). -/
def State.prfWord (s : State) (p off : Nat) : Nat :=
  let x := s.prfP p
  let pg := Page.prf p
  if off = 0x100 then p + 8 * (p / 2)
  else if off = 0x110 then
    b2n (!x.ready.isEmpty || !x.held.isEmpty) + 2 * b2n (s.updateDone p) + 4 * b2n x.withholds + 8 * b2n s.spine.exporting.isSome + 16 * b2n s.spine.importing +
      32 * b2n (s.spine.adopting.any fun q => q.1 = p) + 64 * x.slots
  else if off = 0x120 then s.progView p (fld (s.rwAt (prfReg p 0x11C)) 2 0) (fld (s.rwAt (prfReg p 0x11C)) 9 3)
  else if off = 0x128 then
    (s.viewSh pg (winConst p (fld (s.rwAt (prfReg p 0x124)) 7 0) (fld (s.rwAt (prfReg p 0x124)) 11 8))).toNat
  else if 0x140 ≤ off ∧ off < 0x180 then
    (s.viewSh pg (winTable p (fld (s.rwAt (prfReg p 0x118)) 9 0) ((off - 0x140) / 4))).toNat
  else if off = 0x188 then 192 - (s.partSizes p).sum
  else 0

/-- A Trough stack page (chapter 10). -/
def State.stackWord (s : State) (k off : Nat) : Nat :=
  if off = 0x100 then k + 16 * (k / 2) + 128 * 16
  else if off = 0x104 then
    s.memStatus ((List.range 16).map fun i => 16 + 16 * k + i) (s.mt.scrub.get false k) (s.mt.degraded.get 0x1F k)
  else 0

/-- A Diviwin port page (chapter 12). -/
def State.portWord (s : State) (n off : Nat) : Nat :=
  if off = 0x100 then n + 32 * (n / 12) + 64 * 32
  else
    let x := s.subP (4 * n + (off - 0x110) / 0x40)
    if off < 0x110 ∨ 0x210 ≤ off then 0
    else match (off - 0x110) % 0x40 with
      | 0x0 => x.state.code + 8 * laneCount x.active + 512 * b2n x.peerLost + 1024 * (x.peerId % 4096) + 2 ^ 22 * x.downCause +
          2 ^ 24 * b2n x.credDefault
      | 0x4 => x.active
      | 0x8 => x.retired
      | 0xC => x.lastHb % 2 ^ 32
      | _ => 0

/-- The collectives page (chapter 12). -/
def State.colWord (s : State) (off : Nat) : Nat :=
  if off = 0x110 then min 255 s.col.ops.length + 256 * b2n s.col.timedOut
  else if 0x140 ≤ off ∧ off < 0x160 then
    (s.viewSh Page.coll (winGroup (fld (s.rwAt (regAddr Page.coll 0x108)) 2 0) ((off - 0x140) / 4))).toNat
  else if 0x160 ≤ off ∧ off < 0x180 then
    (s.viewSh Page.coll (winConduit (fld (s.rwAt (regAddr Page.coll 0x10C)) 4 0) ((off - 0x160) / 4))).toNat
  else 0

/-- Decoder and host-core pages (chapter 11): a picture is decoded in one command, so BUSY reads 0. -/
def State.decWord (s : State) (k off : Nat) : Nat :=
  match off with
  | 0x100 => k % 8 + 16 * (k / 8) + 32 * 32 + 2048 * 0xF
  | 0x108 => 2 * (s.decK k).contexts.length + 128 * b2n (!(s.decK k).waiting.isEmpty)
  | _ => 0

/-- The generation after the one being drawn is published (GEN_NEXT_READY). -/
def State.nextReady (s : State) : Bool := s.ing.gens.any fun g => g.published && decide (s.ing.drawGen < g.num)

def State.hostWord (s : State) (off : Nat) : Nat :=
  match off with
  | 0x100 => 16
  | 0x104 => b2n s.ing.cipEn
  | 0x10C => s.ing.drawGen % 65536 + 65536 * b2n s.nextReady
  | _ => 0

/-- A word of a Leaven entry as the section shows it (R423). -/
def State.levWord (s : State) (d t w : Nat) : Nat :=
  let m := levShMask w
  if s.leaven.count.get 0 d ≤ t then 0
  else if s.shadowView Page.leaven then (s.lev d t w &&& (0xFFFFFFFF - m)) + (s.levShadow d t w &&& m) else s.lev d t w

/-- The Leaven page (R423). -/
def State.leavenWord (s : State) (off : Nat) : Nat :=
  let d := sectionDie off
  let sel := s.levSel d
  if off < 0x100 ∨ 0x500 ≤ off then 0
  else
    let o := off % 0x100
    if o = 0x04 then s.leaven.count.get 0 d
    else if o = 0x08 then (if s.leaven.count.get 0 d ≤ sel.1 then 0 else (s.leaven.hist.get 0 (levHistKey d sel.1 sel.2)).toNat)
    else if 0x40 ≤ o ∧ o < 0x80 then s.levWord d sel.1 ((o - 0x40) / 4)
    else 0

/-- The oldest epoch with an open reader: that furthest behind EPOCH, modulo 2^14 (R224); 0 without one. -/
def KvDie.oldest (k : KvDie) : Nat :=
  let age := fun e : Nat => (k.epoch + 2 ^ 14 - e) % 2 ^ 14
  match k.readers with
  | [] => 0
  | r :: rs => rs.foldl (fun a x => if age a < age x.epoch then x.epoch else a) r.epoch

/-- The KV page (chapter 8). -/
def State.kvWord (s : State) (off : Nat) : Nat :=
  let d := sectionDie off
  let k := s.kvD d
  let es := (k.readers.map fun r => r.epoch).eraseDups
  if off < 0x100 ∨ 0x500 ≤ off then 0
  else
    let o := off % 0x100
    if o = 0x14 then s.kvFree d + 2 ^ 20 * b2n (!k.cmds.isEmpty) + 2 ^ 21 * b2n (!k.retire.isEmpty) + 2 ^ 22 * min 64 es.length
    else if o = 0x18 then
      k.epoch + 2 ^ 14 * k.oldest +
        2 ^ 28 * b2n k.readers.isEmpty
    else if o = 0x30 then k.resp
    else if 0x80 ≤ o ∧ o ≤ 0x98 then s.counterWord Page.kv off
    else 0

/-- The hottest reading among sensors of keys that satisfy `p`, with its key. -/
def State.hottest (s : State) (p : Nat → Bool) : Nat × Nat :=
  (s.hlt.temps.cells.filter fun c => p c.1).foldl (fun a c => if a.1 < c.2 then (c.2, c.1) else a) (0, 0)

/-- The health page (chapter 16). -/
def State.healthWord (s : State) (off : Nat) : Nat :=
  let j := s.hottest fun k => decide (k < 128)
  let m := s.hottest fun k => decide (128 ≤ k)
  match off with
  | 0x104 => j.1 % 256 + 256 * j.2 + 2 ^ 15 * (m.1 % 256) + 2 ^ 23 * b2n (decide (s.tempWarn ≤ max j.1 m.1)) +
      2 ^ 24 * b2n (decide (95 ≤ j.1)) + 2 ^ 25 * b2n (!s.pins.thermtripN)
  | 0x108 => b2n s.hlt.lifeValid + 2 * s.hlt.lifeKind + 16 * s.hlt.lifeIndex + 65536 * min 0xFFFF (s.hlt.life / 1000)
  | 0x110 => b2n s.pins.presenceN + 2 * b2n s.pins.sealClosed + 4 * b2n s.pins.alertN + 8 * b2n s.pins.thermtripN +
      16 * b2n (match s.cad.lastEdge with | some t => decide (s.nowUs ≤ t + 2 * s.cad.tickLen) | none => false) +
      32 * b2n s.pins.pwrGood
  | _ => 0

/-- KIND of PD_INFO and UNIT (chapter 13, R15). -/
def pdKind (n : Nat) : Nat :=
  if n < 56 then (let i := n % 14; if i < 6 then 0 else if i < 10 then 1 else i - 8)
  else if n < 64 then (match (n - 56) % 4 with | 0 => 6 | 1 => 6 | 2 => 7 | _ => 8)
  else 9
def pdUnit (n : Nat) : Nat := if n < 56 then n % 14 else if n < 64 then (n - 56) % 4 else 0

/-- A domain page (chapter 13). -/
def State.domWord (s : State) (n off : Nat) : Nat :=
  let d := s.dom.get Domain.off n
  match off with
  | 0x100 => pdKind n + 16 * pdUnit n
  | 0x108 => d.state + 4 * (d.setMv % 4096) + 2 ^ 14 * (s.hlt.temps.get 0 n % 256) + 2 ^ 22 * b2n d.droop
  | _ => 0

/-- The RO, LV and window part of a block register; RW and SH fields come from the map. -/
def State.liveWord (s : State) (p off : Nat) : Nat :=
  let i := Page.inst p
  match Page.kind p with
  | 0x01 => s.globalWord off
  | 0x02 => if off = 0x10C then s.cad.state.code + 8 * s.cad.active.code + 32 * s.cad.holdLeft + 4096 * s.subTick else 0
  | 0x03 => s.bellowsWord off
  | 0x04 => s.securityWord off
  | 0x05 => s.eventWord off
  | 0x06 => s.dieWord i off
  | 0x07 => s.engWord i off
  | 0x08 => s.fabWord i off
  | 0x09 => s.prfWord i off
  | 0x0A => s.stackWord i off
  | 0x0B => s.portWord i off
  | 0x0C => s.colWord off
  | 0x0D => s.decWord i off
  | 0x0E => s.hostWord off
  | 0x0F => s.leavenWord off
  | 0x10 => s.kvWord off
  | 0x11 => s.healthWord off
  | 0x12 => s.domWord i off
  | _ => 0

/-- The RW and SH fields of a block register (R407). -/
def State.mappedWord (s : State) (p off : Nat) : Nat :=
  match RegMap.find (regAddr p off) with
  | none => 0
  | some r =>
    ((s.rwAt (regAddr p off)).toNat &&& r.rwm) + ((s.viewSh p (regAddr p off)).toNat &&& r.shm)

/-- A domain that is off shows its header, PD_INFO, PD_CTRL and PD_STATUS only (R364). -/
def State.pdHidden (s : State) (p off : Nat) : Bool :=
  Page.kind p = 0x12 && decide ((s.dom.get Domain.off (Page.inst p)).state = 0) && decide (0x10C ≤ off)

/-- The word that a register address reads as (R402 to R407): reserved fields, unimplemented offsets, pages outside the map and
unpowered blocks read zero. -/
def State.readReg (s : State) (a : Nat) : Word :=
  let p := a / 65536
  let off := a % 65536
  if Page.kind p = 0 ∨ off % 4 ≠ 0 ∨ s.regPowered a = false ∨ s.pdHidden p off = true then 0
  else if off < 0x100 then BitVec.ofNat 32 (s.headerWord p off)
  else BitVec.ofNat 32 (s.mappedWord p off + s.liveWord p off)

/-- The halves of a 64-bit value, low word first. -/
def words64 (v : Nat) : List Nat := [v % 2 ^ 32, v / 2 ^ 32 % 2 ^ 32]

/-- The words of a byte string, low byte first. -/
def wordsOf (bs : List Byte) : List Nat := (chunks 4 (bs.length / 4 + 1) bs).map leNat

/-- The counters of an engine page in the order of its mailbox items (R79, R103, R134). -/
def engItems : List Nat :=
  ((List.range 7).flatMap fun i => [0x40 + 4 * i, 0x5C + 4 * i]) ++ [0x78, 0x7C] ++ ((List.range 10).map fun i => 0x130 + 4 * i) ++
    [0x158, 0x15A] ++ (List.range 7).map fun i => 0x280 + 4 * i

/-- An item of an engine page: item 0x10 returns both counters of its word (R79). -/
def State.engItem (s : State) (n item : Nat) : Option (List Nat) :=
  let pg := 0x0100 + n
  if item = 0 ∨ 0x23 < item then none
  else if item = 0x10 then some (words64 (s.cntAt (regAddr pg 0x7C)) ++ words64 (s.cntAt (regAddr pg 0x7E)))
  else some (words64 (s.cntShown (regAddr pg (engItems.getD (item - 1) 0))))

/-- The FP32 code of a slope. -/
def slopeCode (r : Rat) : Nat := ff32.ofRat r

/-- The three values of a monitor's item (R430): its life, its present value rounded down, its slope. -/
def State.monItem (s : State) (kind index : Nat) : List Nat :=
  let k := monKey kind index
  let life := s.hlt.lives.get 0 k
  [if life = 0 then lifeMax else life - 1, ((s.hlt.monitors.get Monitor.none k).values.headD 0).floor.toNat,
    slopeCode (s.hlt.slopes.get 0 k)]

/-- Items of the health page (R430). -/
def State.healthItem (s : State) (item : Nat) : Option (List Nat) :=
  if item = 1 then some ([s.hlt.life, s.hlt.lifeKind + 16 * s.hlt.lifeIndex] ++ words64 s.fuse.hours)
  else if 0x100 ≤ item ∧ item < 0x148 then some (s.monItem 1 (item - 0x100))
  else if 0x200 ≤ item ∧ item < 0x500 then some (s.monItem 2 (item - 0x200))
  else if 0x600 ≤ item ∧ item < 0x700 then some (s.monItem 4 (item - 0x600))
  else if 0x700 ≤ item ∧ item < 0x710 then
    some ([(s.monItem 3 (item - 0x700)).headD 0, s.mt.canary.get 0 (item - 0x700), s.mt.band (item - 0x700)])
  else if 0x800 ≤ item ∧ item < 0x920 then
    some [s.fuse.softMaps.get 0xFFFFFFFF (item - 0x800), s.fuse.factoryMaps.get 0xFFFFFFFF (item - 0x800)]
  else none

/-- A bitmap of layers 0 to 62 (R203). -/
def layerMap (p : Nat → Bool) : Nat := ((List.range 63).map fun l => if p l then 2 ^ l else 0).sum

/-- The data words of a mailbox item, none where the page does not implement it (R414). -/
def State.mailboxItem (s : State) (p item : Nat) : Option (List Nat) :=
  let i := Page.inst p
  let one (l : List Nat) : Option (List Nat) := if item = 0 then none else (l[item - 1]?).map words64
  match Page.kind p with
  | 0x02 => one [s.cad.tickNo, ofSigned 64 s.cad.offsetNs, s.cad.gm]
  | 0x03 => one [s.bel.energy / 1000000000, s.bel.ballastE / 1000000000]
  | 0x04 =>
    if item = 1 then some (wordsOf (s.keySet.take 24))
    else if item = 2 then some (wordsOf (s.keySet.drop 24))
    else if 0x100 ≤ item ∧ item < 0x200 then
      let c := (s.ctl.running.find? fun c => c.number = (item - 0x100) / 2).map fun c => c.digest
      some (match c with | none => [] | some d => wordsOf (if item % 2 = 0 then d.take 24 else d.drop 24))
    else none
  | 0x05 => one [s.cntAt (regAddr p 0x40), s.cntAt (regAddr p 0x44)]
  | 0x06 => one [s.ctl.stepNo, layerMap fun l => decide ((s.chD i).cur.get 0 l = 1), layerMap fun l => (s.chD i).swapped.get false l]
  | 0x07 => s.engItem i item
  | 0x08 =>
    let f := s.fabD i
    if item = 1 then some (words64 (if f.placed then s.buildId i f.activeSet else 0))
    else if item = 2 then some (words64 (if f.shadow = 0 then 0 else s.buildId i (1 - f.activeSet)))
    else if 0x10 ≤ item ∧ item < 0x20 then some (wordsOf (f.log.getD (item - 0x10) []))
    else none
  | 0x09 =>
    let x := s.prfP i
    if item = 1 then some (words64 x.count)
    else if item = 2 then some (words64 s.ctl.stepNo)
    else if item = 3 then some (words64 s.ctl.sealSummary)
    else if 0x1000 ≤ item ∧ item < 0x1400 then some (wordsOf (leBytes 16 (x.digests.get 0 (item - 0x1000))))
    else if 0x2000 ≤ item ∧ item < 0x2400 then
      let n := x.norms.get (0, 0, 0) (item - 0x2000)
      some (words64 n.1 ++ words64 n.2.1 ++ words64 n.2.2)
    else none
  | 0x0A => if 0x100 ≤ item ∧ item < 0x110 then some (words64 (s.mt.ceAll.get 0 (16 + 16 * i + (item - 0x100)))) else none
  | 0x0B =>
    if 0x100 ≤ item ∧ item < 0x120 then some (words64 ((s.portP i).margin.get 0 (item - 0x100)))
    else if 0x200 ≤ item ∧ item < 0x220 then some (words64 ((s.portP i).corr.get 0 (item - 0x200)))
    else none
  | 0x0D => one [(s.decK i).samples]
  | 0x0E => one [s.ing.cursor, s.ing.drawBase]
  | 0x10 =>
    if 0x8000 ≤ item ∧ item < 0xC000 then
      let q := (s.kvD ((item - 0x8000) / 0x1000)).seq (item % 0x1000)
      some [b2n q.isOpen + 2 * q.streams + 2048 * q.jmax, q.len, q.base % 2 ^ 32, q.base / 2 ^ 32]
    else none
  | 0x11 => s.healthItem item
  | _ => none

end Sys2Proof.Machine
end

