-- ==== Sys2Proof/Machine/RegWrite.lean ====
section
/-! DEFINITION. Register writes: page headers, mailboxes, windows, shadow values and the registers whose write acts at once (R403 to
R415, R363, R364, R422, R423). -/

namespace Sys2Proof.Machine

/-- The die that a power domain lies on, as the unit of R363's rule that one domain per die ramps at a time. -/
def pdDie (n : Nat) : Nat := if n < 56 then n / 14 else if n < 64 then 4 + (n - 56) / 4 else n - 58

/-- The place of a domain in the power-up order of R363. -/
def pdOrder (n : Nat) : Nat :=
  if n < 56 then (let i := n % 14; if i < 6 then 8 else if i < 10 then 7 else if i = 13 then 2 else 3)
  else if n < 64 then (match (n - 56) % 4 with | 3 => 1 | 2 => 5 | _ => 6)
  else 4

/-- REQ_ON of a domain (R364). -/
def State.reqOn (s : State) (n : Nat) : Bool := (s.rwAt (regAddr (Page.dom n) 0x104)).getLsbD 0

/-- The domain that ramps next on a die: none while one ramps; else, in the order of R363, one that is requested and off. -/
def State.nextRamp (s : State) (die : Nat) : Option Nat :=
  let l := (List.range 72).filter fun n => pdDie n = die
  if l.any fun n => (s.dom.get Domain.off n).state = 1 then none
  else
    let w := l.filter fun n => s.reqOn n && decide ((s.dom.get Domain.off n).state = 0)
    w.find? fun n => w.all fun m => decide (pdOrder n ≤ pdOrder m)

/-- The next domain of a die starts to ramp (R363). -/
def State.startRamp (s : State) (die : Nat) : State :=
  match s.nextRamp die with
  | none => s
  | some n => { s with dom := s.dom.set Domain.off n { state := 1, setMv := 0, droop := false } }

/-- DOMAIN_RAMP_DONE (R363): the domain is on, and the next one of its die that waits starts to ramp. -/
def execDomainRampDone (pd : Pd) (s : State) : Host.Outcome State Fault Refusal :=
  if (s.dom.get Domain.off pd.val).state = 1 then .next ((s.rampDone pd.val).startRamp (pdDie pd.val)) else .next s

/-- A write of EN of a port or of ENABLE of its page, which are one bit (R317, R410): with 0 its sub-ports are DISABLED; with 1 they
wait for a training. -/
def State.writePortEn (s : State) (n : Nat) (en : Bool) : State :=
  let bit := fun (w : Word) => (w &&& 0xFFFFFFFE) ||| (if en then 1 else 0)
  let s1 := (s.setRw (portReg n 0x104) (bit (s.rwAt (portReg n 0x104)))).setRw (portReg n 8) (bit (s.rwAt (portReg n 8)))
  if en then s1 else [0, 1, 2, 3].foldl (fun t k => t.setSub (4 * n + k) SubPort.reset) s1

/-- The ports of a link half, by its domain (R15, R316). -/
def halfPorts (pd : Nat) : List Nat :=
  (List.range 6).map fun i => 12 * ((pd - 56) / 4) + 6 * ((pd - 56) % 4) + i

/-- The sets of a die that place work: the active set once an image has been swapped in, the shadow set unless it is empty. -/
def State.placing (s : State) (d : Nat) : List Nat :=
  (if (s.fabD d).placed then [s.activeOf d] else []) ++ (if (s.fabD d).shadow = 0 then [] else [s.shadowOf d])

/-- A swap of the shadow set of a die is pending (R157): requested, named by an ACTIVATE, or about to run. -/
def State.swapPending (s : State) (d : Nat) : Bool :=
  (s.fabD d).swap || decide ((s.fabD d).due = 1) || s.ctl.activate.testBit d

/-- Whether REQ_ON may switch a domain (R363). -/
def State.reqAllowed (s : State) (n : Nat) (on : Bool) : Bool :=
  match pdOrder n with
  | 6 => on || (halfPorts n).all fun q => (s.portSubs q).all fun x => x.state = .disabled || x.state = .down
  | 7 => on || (!s.swapPending (n / 14) && (s.placing (n / 14)).all fun k => (s.reedsUsed (n / 14) k).all fun r => pdOfReed (n / 14) r.1 ≠ n)
  | 8 => on || (!s.swapPending (n / 14) && (s.placing (n / 14)).all fun k =>
      (List.range 36).all fun e => pdOfEngine (n / 14) e ≠ n || !s.engUsed (n / 14) k e)
  | _ => false

/-- A write of REQ_ON (R363, R364): a write that breaks R363 changes nothing, is counted and raises PWR_DOMAIN_REFUSED. A domain
switched off is off at once; a link half comes on with its ports DISABLED. -/
def State.writeReqOn (s : State) (n : Nat) (on : Bool) : State :=
  if s.reqOn n = on then s
  else if !s.reqAllowed n on then
    (s.count (regAddr (Page.dom n) 0x4C) 1).raise (Page.dom n) Code.pwrDomainRefused (cadPayload s 0 n 0 0)
  else
    let s1 := s.setRw (regAddr (Page.dom n) 0x104) (if on then 1 else 0)
    let s2 := if on && pdOrder n = 6 then (halfPorts n).foldl (fun t q => t.writePortEn q false) s1 else s1
    let s3 := if on then s2 else { s2 with dom := s2.dom.set Domain.off n Domain.off }
    s3.startRamp (pdDie n)

/-- A write of PAGE_CTRL (R409, R410): ENABLE and QUIESCE_REQ only on the kinds that have them; a port's QUIESCE_REQ is not set while
RUNNING, and once it is clear the port's messages move again. -/
def State.writePageCtrl (s : State) (p : Nat) (v : Word) : State :=
  let a := regAddr p 8
  let old := s.rwAt a
  let port := decide (Page.kind p = 0x0B)
  let en := if pageGate p then v.getLsbD 0 else true
  let q := pageQuiesce p && v.getLsbD 1 && (old.getLsbD 1 || !(port && decide (s.ctl.state = .running)))
  let s1 := s.setRw a (mkWord [(0, b2n en), (1, b2n q), (2, fld v 2 2)])
  if !port then s1
  else
    let n := Page.inst p
    let s2 := if en = s.lnkEn n then s1 else s1.writePortEn n en
    if old.getLsbD 1 && !q then [0, 1, 2, 3].foldl (fun t k => t.pump (4 * n + k)) s2 else s2

/-- A write of MBX_SEL (R414): VALID clears and a snapshot starts. -/
def State.writeMbxSel (s : State) (p : Nat) (v : Word) : State :=
  { s with mbx := s.mbx.set Mailbox.reset p { s.mbxOf p with item := fld v 15 0, valid := false, noItem := false, pending := true } }

/-- MAILBOX_SNAPSHOT (R414): the page copies the item at once, adds 1 to SNAP_NO and sets VALID; an item that it does not implement
sets NO_ITEM as well and leaves zeros. -/
def State.snapshot (s : State) (p : Nat) : State :=
  let m := s.mbxOf p
  if !m.pending then s
  else
    let d := s.mailboxItem p m.item
    { s with mbx := s.mbx.set Mailbox.reset p { m with
      valid := true, noItem := d.isNone, snapNo := (m.snapNo + 1) % 256, data := d.getD [], pending := false } }

/-- A write of a word of the header (R408 to R410, R414, R419). -/
def State.writeHeader (s : State) (p off : Nat) (v : Word) : State :=
  if off = 0x08 then s.writePageCtrl p v
  else if off = 0x18 then s.setRw (regAddr p 0x18) (v &&& BitVec.ofNat 32 (2 ^ Code.maskable p - 1))
  else if off = 0x20 then s.writeMbxSel p v
  else s

/-- SH bits of the words of a tensor table entry, a group entry and a conduit entry (R237, R331, R329). -/
def tableMask (w : Nat) : Word :=
  match w with | 1 => 0x0FFFFFFF | 2 => 0xFFFFF | 3 => 0xFFFFF | 5 => 0x1FFFF | _ => 0xFFFFFFFF
def groupMask (w : Nat) : Word :=
  match w with | 0 => 0x03FFFFFF | 1 => 0xFFF | 6 => 0 | 7 => 0 | _ => 0xFFFFFFFF
def conduitMask (w : Nat) : Word :=
  match w with | 0 => 0x003FFFFF | 2 => 0xFF | 5 => 0xFF | 6 => 0 | 7 => 0 | _ => 0xFFFFFFFF

/-- A write of a word of the register map: RW bits take effect, SH bits go to the shadow set (R407, R412, R413). -/
def State.writeMapped (s : State) (p off : Nat) (v : Word) : State :=
  match RegMap.find (regAddr p off) with
  | none => s
  | some r =>
    let a := regAddr p off
    let s1 := if r.rwm = 0 then s else s.setRw a (v &&& BitVec.ofNat 32 r.rwm)
    if r.shm = 0 then s1 else s1.setShadow a (v &&& BitVec.ofNat 32 r.shm)

/-- Writes of a Proofer's windows (R237, R248): slots 0 to 2 hold the built-in programs and ignore writes. -/
def State.writePrf (s : State) (p off : Nat) (v : Word) : State :=
  if off = 0x120 then
    let w := s.rwAt (prfReg p 0x11C)
    if fld w 2 0 < 3 ∨ 65 ≤ fld w 9 3 then s else s.setShadow (winProg p (fld w 2 0) (fld w 9 3)) v
  else if off = 0x128 then
    let w := s.rwAt (prfReg p 0x124)
    s.setShadow (winConst p (fld w 7 0) (fld w 11 8)) v
  else if 0x140 ≤ off ∧ off < 0x180 then
    let w := (off - 0x140) / 4
    s.setShadow (winTable p (fld (s.rwAt (prfReg p 0x118)) 9 0) w) (v &&& tableMask w)
  else s.writeMapped (Page.prf p) off v

/-- Writes of the collectives page's windows (R329, R331). -/
def State.writeColl (s : State) (off : Nat) (v : Word) : State :=
  if 0x140 ≤ off ∧ off < 0x160 then
    let w := (off - 0x140) / 4
    s.setShadow (winGroup (fld (s.rwAt (regAddr Page.coll 0x108)) 2 0) w) (v &&& groupMask w)
  else if 0x160 ≤ off ∧ off < 0x180 then
    let w := (off - 0x160) / 4
    s.setShadow (winConduit (fld (s.rwAt (regAddr Page.coll 0x10C)) 4 0) w) (v &&& conduitMask w)
  else s.writeMapped Page.coll off v

/-- Writes of the KV page (R218, R220): KV_CMD0 to KV_CMD2 hold words, and KV_CMD3 submits the command. -/
def State.writeKv (s : State) (off : Nat) (v : Word) : State :=
  let d := sectionDie off
  let o := off % 0x100
  if 0x100 ≤ off ∧ off < 0x500 ∧ 0x20 ≤ o ∧ o < 0x30 then
    let k := s.kvD d
    if o = 0x2C then
      s.setKv d { k with cmds := k.cmds ++ [{ src := 0, words := [k.words.get 0 0, k.words.get 0 1, k.words.get 0 2, v.toNat] }] }
    else s.setKv d { k with words := k.words.set 0 ((o - 0x20) / 4) v.toNat }
  else s.writeMapped Page.kv off v

/-- A word with one field of the old word kept. -/
def keepField (old v : Word) (hi lo : Nat) : Word := BitVec.ofNat 32 (putBits v.toNat hi lo (fld old hi lo))

/-- A write of a block register (R403, R407): the words that act at once, the windows, and the rest by the map. A TICK_LEN,
SWAP_MAX_DEFER or TEMP_WARN out of range leaves that field as it was (R342, R168, R430); BIFUR of 3 is held as 0 and SCRUB_PERIOD
of 0 as 24, which is what they read as (R316, R287). -/
def State.writeBlock (s : State) (p off : Nat) (v : Word) : State :=
  let a := regAddr p off
  let i := Page.inst p
  match Page.kind p with
  | 0x02 =>
    if off = 0x100 then s.writeSrc v
    else if off = 0x104 ∧ (fld v 11 0 < 125 ∨ 4000 < fld v 11 0) then s
    else s.writeMapped p off v
  | 0x03 => if off = 0x100 then s.writeMode v else s.writeMapped p off v
  | 0x05 =>
    if off = 0x100 then (s.writeMapped p off v).release
    else if s.hostEn then s else s.writeMapped p off v
  | 0x06 => if off = 0x110 then s.dispose i (fld v 1 0) else s.writeMapped p off v
  | 0x08 => if off = 0x10C ∧ fld v 8 1 = 0 then s.writeMapped p off (keepField (s.rwAt a) v 8 1) else s.writeMapped p off v
  | 0x09 => s.writePrf i off v
  | 0x0A => if off = 0x108 ∧ fld v 7 0 = 0 then s.writeMapped p off (v ||| 24) else s.writeMapped p off v
  | 0x0B =>
    if off = 0x104 then
      let s1 := s.writeMapped p off (if fld v 2 1 = 3 then v &&& 0xFFFFFFF9 else v)
      if v.getLsbD 0 = s.lnkEn i then s1 else s1.writePortEn i (v.getLsbD 0)
    else s.writeMapped p off v
  | 0x0C => s.writeColl off v
  | 0x0F =>
    let o := off % 0x100
    if 0x100 ≤ off ∧ off < 0x500 ∧ 0x40 ≤ o ∧ o < 0x80 then s.writeLev (sectionDie off) (s.levSel (sectionDie off)).1 ((o - 0x40) / 4) v
    else s.writeMapped p off v
  | 0x10 => s.writeKv off v
  | 0x11 =>
    if off = 0x100 ∧ (fld v 7 0 < 60 ∨ 94 < fld v 7 0) then s.writeMapped p off (keepField (s.rwAt a) v 7 0) else s.writeMapped p off v
  | 0x12 => if off = 0x104 then s.writeReqOn i (v.getLsbD 0) else s.writeMapped p off v
  | _ => s.writeMapped p off v

/-- A write of a register address (R402 to R407): pages outside the map, unpowered blocks and offsets that are not aligned take
nothing. -/
def State.writeReg (s : State) (a : Nat) (v : Word) : State :=
  let p := a / 65536
  let off := a % 65536
  if Page.kind p = 0 ∨ off % 4 ≠ 0 ∨ s.regPowered a = false ∨ s.pdHidden p off = true then s
  else if off < 0x100 then s.writeHeader p off v
  else s.writeBlock p off v

/-- REGISTER_WRITE (R402, R403). -/
def execRegisterWrite (addr : Word) (v : Word) (s : State) : Host.Outcome State Fault Refusal := .next (s.writeReg addr.toNat v)

/-- MBX_SEL (R414): a write of MBX_SEL on a page. -/
def execMbxSel (page : BitVec 16) (item : Word) (s : State) : Host.Outcome State Fault Refusal :=
  .next (s.writeReg (regAddr page.toNat 0x20) item)

/-- MAILBOX_SNAPSHOT (R414): a page completes the snapshot that it has started. -/
def execMailboxSnapshot (page : BitVec 16) (s : State) : Host.Outcome State Fault Refusal := .next (s.snapshot page.toNat)

/-- PAGE_CTRL with one bit replaced. -/
def State.pageCtrlWith (s : State) (p i : Nat) (v : Bool) : Word :=
  BitVec.ofNat 32 (putBits (s.rwAt (regAddr p 8)).toNat i i (b2n v))

/-- QUIESCE_REQ (R410): a write of QUIESCE_REQ on a page. -/
def execQuiesceReq (page : BitVec 16) (v : Bool) (s : State) : Host.Outcome State Fault Refusal :=
  .next (s.writeReg (regAddr page.toNat 8) (s.pageCtrlWith page.toNat 1 v))

/-- ENABLE (R410): a write of ENABLE on a page. -/
def execEnable (page : BitVec 16) (v : Bool) (s : State) : Host.Outcome State Fault Refusal :=
  .next (s.writeReg (regAddr page.toNat 8) (s.pageCtrlWith page.toNat 0 v))

/-- REQ_ON (R363, R364): a write of REQ_ON on a domain's page. -/
def execReqOn (pd : Pd) (on : Bool) (s : State) : Host.Outcome State Fault Refusal :=
  .next (s.writeReg (regAddr (Page.dom pd.val) 0x104) (if on then 1 else 0))

end Sys2Proof.Machine
end

