-- ==== Sys2Proof/Machine/Access.lean ====
section
/-! DEFINITION. Accesses of the units to package addresses: views, correction, poison, the register space, the arrival windows and the
firewall of the customer partition (R278 to R287, R312, R402). -/

namespace Sys2Proof.Machine

/-- A host core that the customer partition has taken: the highest numbered CIP_CORES of its edge die (R312; log entry 64). -/
def State.isCipCore (s : State) : MemUnit → Bool
  | .hostCore _ c => s.ing.cipEn && decide (16 ≤ c.val + s.cipCores)
  | _ => false

/-- The bytes that a read delivers and whether they are free values: a table SRAM holds the step program, the Leaven's tables and histories and
the KV tables (R17), at places that are not stated (log entry 176). -/
def State.regionBytes (s : State) (addr n : Nat) : List Byte × Bool :=
  match regionOf addr with
  | .table _ _ => (leBytes n (s.fresh (8 * n)).toNat, true)
  | _ => (s.bytesAt addr n, false)

/-- The memory die that an error at an address is charged to: the DRAM die named, or the crust die (R279, R287). -/
def eccKey (addr : Nat) (die : Fin 16) : Option Nat :=
  match regionOf addr with
  | .trough p o => some (16 + 16 * stackOf p o + die.val)
  | .crust d o => some (crustDieOf d o)
  | _ => none

/-- A corrected read is counted where its memory has a counter (R285; log entry 182): the die's, OB_CORRECTED or LS_CORRECTED. -/
def State.correctedRead (s : State) (addr : Nat) (die : Fin 16) : State :=
  match eccKey addr die, regionOf addr with
  | some k, _ => s.corrected k addr
  | none, .operand e _ => s.count (regAddr (Page.eng (e / 36) (e % 36)) 0x7E) 1
  | none, .localStore d _ _ => s.count (regAddr (Page.fab d) 0x5C) 1
  | none, _ => s

/-- An uncorrectable read marks the granule poisoned, and a read of the crust or the Trough raises MEM_UNCORRECTABLE (R286); no page of
R425 raises that code for a word of an SRAM (log entry 183). -/
def State.uncorrectableRead (s : State) (addr : Nat) (die : Fin 16) (mb : Nat) : State :=
  match eccKey addr die with
  | some k => s.uncorrectable k addr 0 mb
  | none => s.setPoison addr

/-- The answer to a unit's access. -/
def State.answerAccess (s : State) (data : List Byte) (poison : Bool) (trap : MemTrap) : State :=
  { s with mt := { s.mt with answer := { data := data, poison := poison, trap := trap } } }

/-- What a read's errors do to the state (R285, R286). -/
def State.meetErrors (s : State) (addr : Nat) (ecc : Ecc) (die : Fin 16) (mb : Nat) : State :=
  let s0 := if eccResult addr ecc = .beyond then s.used else s
  match s.eccOf addr ecc with
  | .clean => s0
  | .corrected => s0.correctedRead addr die
  | _ => s0.uncorrectableRead addr die mb

/-- A read of memory (R280, R285, R286): poison travels with the data, and a host core that loads it takes an access fault. What errors beyond
the code's reach leave of the data is a free value (log entry 180). -/
def State.readAccess (s : State) (u : MemUnit) (addr n : Nat) (ecc : Ecc) (die : Fin 16) (mb : Nat) : State :=
  let s1 := s.meetErrors addr ecc die mb
  let bad := s1.poisonedAt addr n
  let v := if eccResult addr ecc = .beyond then (leBytes n (s1.fresh (8 * n)).toNat, true) else s1.regionBytes addr n
  let s2 := (if v.2 then s1.used else s1).countPoison (touchedGranules addr n)
  let host := match u with | .hostCore _ _ => true | _ => false
  s2.answerAccess v.1 bad (if bad && host then .access else .none)

/-- A write of memory (R280): an arrival window takes it to its Proofer (R281). -/
def State.writeAccess (s : State) (u : MemUnit) (addr : Nat) (bs : List Byte) : State :=
  (s.putAt u addr bs).answerAccess [] false .none

/-- A load of the register space (R402): a narrow load returns the addressed bytes of its word, a 64-bit load two words. A load that no
aligned word covers is not defined: a free value (log entry 69). -/
def State.loadRegs (s : State) (a n : Nat) : State :=
  if n = 8 ∧ a % 4 = 0 then s.answerAccess (leBytes 4 (s.readReg a).toNat ++ leBytes 4 (s.readReg (a + 4)).toNat) false .none
  else if a % 4 + n ≤ 4 then s.answerAccess (((leBytes 4 (s.readReg (a / 4 * 4)).toNat).drop (a % 4)).take n) false .none
  else (s.answerAccess (leBytes n (s.fresh 64).toNat) false .none).used

/-- A store to the register space (R402): 32 bits, or 64 as two accesses in ascending order; a narrower or misaligned one is discarded and
returns a store access fault. -/
def State.storeRegs (s : State) (a : Nat) (bs : List Byte) : State :=
  let w := fun i => BitVec.ofNat 32 (leAt bs i 4)
  if a % 4 ≠ 0 then s.answerAccess [] false .access
  else if bs.length = 4 then (s.writeReg a (w 0)).answerAccess [] false .none
  else if bs.length = 8 then ((s.writeReg a (w 0)).writeReg (a + 4) (w 4)).answerAccess [] false .none
  else s.answerAccess [] false .access

/-- The registers of a hart, as its software has set them by its last access (R303); other units have none. -/
def State.keepHart (s : State) (u : MemUnit) (h : Hart) : State :=
  match u with
  | .hostCore e c => { s with mt := { s.mt with harts := s.mt.harts.set Hart.bare (16 * e.val + c.val) h } }
  | _ => s

/-- What the firewall refuses a unit (R312): nothing to any but a core of the partition. -/
def State.bars (s : State) (u : MemUnit) (k : Access) (a : Nat) : Bool :=
  match u with
  | .hostCore e _ => s.isCipCore u && !s.cipAllowed e.val a k
  | _ => false

/-- The package addresses of a unit's access of `n` bytes (R284, R303), with those of the page-table entries read for them; only a host core's
are virtual. -/
def State.resolve (s : State) (u : MemUnit) (h : Hart) (addr n : Nat) (k : Access) : HartAddr × List Nat :=
  match u with
  | .hostCore _ _ => s.hartAccess (s.bars u .load) h addr n k
  | _ => (.at addr, [])
def State.translate (s : State) (u : MemUnit) (h : Hart) (addr n : Nat) (k : Access) : HartAddr := (s.resolve u h addr n k).1

/-- The answer to an access that is turned away: zeros to a read (R280). -/
def State.turnAway (s : State) (op : MemOp) (trap : MemTrap) : State :=
  s.answerAccess (if op.writes then [] else List.replicate op.len 0) false trap

/-- An access at a package address (R280, R283, R286, R312, R402). -/
def State.accessAt (s : State) (u : MemUnit) (pa : Nat) (op : MemOp) (ecc : Ecc) (die : Fin 16) (mb : Nat) : State :=
  match [pa, pa + (op.len - 1)].find? (s.bars u op.access) with
  | some _ => s.cipViolation op
  | none =>
    match s.spanFault u pa op.len op.writes with
    | some c => (s.unmapped u pa c mb).turnAway op .none
    | none =>
      match regionOf pa, op with
      | .register a, .write bs => s.storeRegs a bs
      | .register a, _ => s.loadRegs a op.len
      | _, .write bs => s.writeAccess u pa bs
      | _, _ => s.readAccess u pa op.len ecc die mb

/-- The answers to two parts of an access are one. -/
def MemAnswer.join (a b : MemAnswer) : MemAnswer :=
  { data := a.data ++ b.data, poison := a.poison || b.poison, trap := if a.trap = .none then b.trap else a.trap }

/-- An access in parts: each at its own place, one after another. -/
def State.accessParts (s : State) (u : MemUnit) (op : MemOp) (ecc : Ecc) (die : Fin 16) (mb : Nat) (l : List (Nat × Nat × Nat)) : State :=
  l.foldl (fun t q =>
    let r := t.accessAt u q.2.2 (op.part q.1 q.2.1) ecc die mb
    { r with mt := { r.mt with answer := t.mt.answer.join r.mt.answer } }) (s.answerAccess [] false .none)

/-- MEMORY_ACCESS (R280, R283 to R286, R303, R312, R402): a unit reads or writes an address, or a hart fetches an instruction; the address of a
host core is virtual. -/
def execMemoryAccess (unit : Requester) (addr : Nat) (op : MemOp) (ecc : Ecc) (die : Fin 16) (mb : Nat) (s : State) :
    Host.Outcome State Fault Refusal :=
  if s.still then .next s else
  let u := unit.unit
  let r := s.resolve u unit.hart addr op.len op.access
  let s1 := (s.keepHart u unit.hart).countPoison (r.2.map granule)
  match r.1 with
  | .trap t => .next (s1.turnAway op t)
  | .barred _ => .next (s1.cipViolation (.read op.len))
  | .at pa => .next (s1.accessAt u pa op ecc die mb)
  | .split l => .next (s1.accessParts u op ecc die mb l)

end Sys2Proof.Machine
end

