-- ==== Sys2Proof/Machine/Boot.lean ====
section
/-! DEFINITION. OFF, the boot sequence, SAFE, array initialisation, brown-out and the thermal trip (R73, R360, R375, R376, R382 to R387,
R429). -/

namespace Sys2Proof.Machine

/-- The bytes of a component's header (R383). -/
abbrev fwHeader : Nat := 17408

/-- The first check that a firmware component fails, 0 where it passes all (R383, R384): 1 a header field other than as stated (log entry
71), 2 a signature, 3 the digest of the body, 4 the key set, 5 the rollback floor. -/
def fwCheck (floor : Nat) (keySet : List Byte) (comp : Nat) (bytes : List Byte) : Nat :=
  let len := leAt bytes 12 4
  let svn := leAt bytes 8 4
  let signed := bytes.take 512
  let rsa := (bytes.drop 64).take 384
  let slh := (bytes.drop 448).take 48
  if ¬(leAt bytes 0 4 = 0x4642514E ∧ leAt bytes 4 2 = 1 ∧ leAt bytes 6 2 = comp ∧ svn ≤ 64 ∧ fwHeader + len ≤ bytes.length ∧
      ((bytes.drop 496).take 16).all (· = 0) = true ∧ ((bytes.drop 17120).take 288).all (· = 0) = true) then 1
  else if ¬(rsaVerify rsa signed ((bytes.drop 512).take 384) = true ∧
      slhVerify slh signed ((bytes.drop 896).take 16224) = true) then 2
  else if sha384 ((bytes.drop fwHeader).take len) ≠ (bytes.drop 16).take 48 then 3
  else if sha384 (rsa ++ [0, 1, 0, 1] ++ slh) ≠ keySet then 4
  else if svn < floor then 5 else 0

/-- Judge a firmware component against the rollback floor and the key-set digest in force (R383, R384): what it is when every check
holds. -/
def fwAccept (floor : Nat) (keySet : List Byte) (comp : Nat) (bytes : List Byte) : Option FwComp :=
  if fwCheck floor keySet comp bytes = 0 then
    some { number := comp, svn := leAt bytes 8 4, digest := sha384 (bytes.take fwHeader) }
  else none

/-- What a SIG_FAIL record says of a component in bytes 13:10 (R384, R400; log entry 223): the component number in byte 10, the check that
failed in byte 13, and where that is the rollback floor the SVN in byte 11 and the floor in byte 12. -/
def fwReport (floor : Nat) (keySet : List Byte) (comp : Nat) (bytes : List Byte) : Nat :=
  let c := fwCheck floor keySet comp bytes
  comp % 256 + 2 ^ 24 * c + (if c = 5 then 2 ^ 8 * (leAt bytes 8 4 % 256) + 2 ^ 16 * floor else 0)

/-- The security always-on domains PD59 and PD63 (R15, R363). -/
def securityPds : List Nat := [59, 63]

/-- What BOOT leaves (R421, R438): registers, counters, tables and memory at their reset values. The fuses, the levels of the signals, the
health block's values, the model's clock and queue, and what has been sent stay; the base of the hourly replay count restarts with
its counters. -/
def State.bootReset (s : State) : State :=
  { State.reset with
    pending := s.pending, fuse := s.fuse, pins := s.pins, nowUs := s.nowUs, freeCtr := s.freeCtr
    hlt := { s.hlt with replayBase := .empty }
    ctl := { Ctl.reset with out := s.ctl.out, wire := s.ctl.wire }
    evt := { EvtBlock.reset with sent := s.evt.sent } }

/-- A reset that brings MODE_ACT from another mode back to Sustain is a change of it: the remaining life is computed again (R427). -/
def State.lifeReset (t : State) (old : Envelope) : State := if old = t.bel.modeAct then t else t.recomputeLife

/-- BOOT is entered (R376): the record of the change is the first of the new sequence. A restart of BOOT is no change of state. -/
def State.enterBoot (s : State) (cause opcode tag : Nat) : State :=
  State.lifeReset (if s.ctl.state = .boot then s.bootReset
    else s.bootReset.raise Page.global Code.ctlStateChange (ctlPayload opcode tag s.ctl.state.code 1 cause 0 0)) s.bel.modeAct

/-- OFF is entered (R375, R376): nothing runs and every volatile state is lost, so no record of the change stays. -/
def State.enterOff (s : State) : State :=
  let t := s.bootReset
  { t with ctl := { t.ctl with state := .off }, hlt := (t.lifeReset s.bel.modeAct).hlt }

/-- SAFE is entered (R375, R385): only the security always-on domains stay on, memory is not kept, and the blocks of the other domains
lose their state. -/
def State.enterSafe (s : State) (cause opcode tag : Nat) : State :=
  let t := s.enter .safe cause opcode tag
  { t with
    ctl := { t.ctl with
      ramActive := false, standbyLock := false, rx := .empty, msgs := []
      long := [], holdPending := false, stepDue := 0, activate := 0, reactivate := 0, loadBuf := .empty, comps := [] }
    bel := { t.bel with brown := false, stopped := false, wasRunning := false, brownLost := false, move := .idle, narrow := none, widen := none }
    dom := securityPds.foldl (fun d n => d.set Domain.off n { state := 2, setMv := pdNominal n .quiet, droop := false }) .empty
    mem := .empty, poison := .empty, mt := MemTier.reset, leaven := LeavenTbl.reset, eng := .empty, img := .empty, fab := .empty
    ch := .empty, prf := .empty, spine := Spine.reset, kv := .empty, subs := .empty, ports := .empty, col := Coll.reset
    ing := Ingest.reset }

/-- The failed rows and the failed columns that a repair map names (R73). -/
def mapRows (w : Nat) : List Nat := [bitsOf w 7 0, bitsOf w 15 8].filter (· ≠ 0xFF)
def mapCols (w : Nat) : List Nat := [bitsOf w 23 16, bitsOf w 31 24].filter (· ≠ 0xFF)
/-- The repair map of up to two rows and two columns. -/
def mapWord (rows cols : List Nat) : Nat :=
  rows.getD 0 0xFF + 256 * rows.getD 1 0xFF + 65536 * cols.getD 0 0xFF + 2 ^ 24 * cols.getD 1 0xFF

/-- No row and no column. -/
abbrev noMap : Nat := 0xFFFFFFFF

/-- The self-test writes entry by entry into the soft map of an array (R73, R428): each written entry raises HLT_SOFT_MAP. -/
def State.writeSoft (s : State) (array map n : Nat) : State :=
  (List.range n).foldl (fun t _ => (t.count (regAddr Page.health 0x4C) 1).raise Page.health Code.hltSoftMap
    (hltPayload t 0 0 array map 0)) { s with fuse := { s.fuse with softMaps := s.fuse.softMaps.set noMap array map } }

/-- Array initialisation (R72, R73, R428) with the rows and columns that failed a self-test: they join the soft map as far as it has
room; the union of both maps is applied, or the array is retired where it would need more than two spares of a kind. (Log entry 203.) -/
def State.initArray (s : State) (array : Nat) (badRows badCols : List Nat) : State :=
  let d := array / 72
  let e := array % 72 / 2
  let a := array % 2
  let soft := s.fuse.softMaps.get noMap array
  let fact := s.fuse.factoryMaps.get noMap array
  let newR := badRows.eraseDups.filter fun r => !(mapRows soft ++ mapRows fact).contains r
  let newC := badCols.eraseDups.filter fun c => !(mapCols soft ++ mapCols fact).contains c
  let addR := newR.take (2 - (mapRows soft).length)
  let addC := newC.take (2 - (mapCols soft).length)
  let n := addR.length + addC.length
  let s1 := if n = 0 then s else s.writeSoft array (mapWord (mapRows soft ++ addR) (mapCols soft ++ addC)) n
  let rows := (mapRows fact ++ mapRows soft ++ newR).eraseDups
  let cols := (mapCols fact ++ mapCols soft ++ newC).eraseDups
  let retired := decide (2 < rows.length) || decide (2 < cols.length)
  let x := s1.engD d e
  let old := (x.arr a).repair
  let map := mapWord (rows.take 2) (cols.take 2)
  let s2 := s1.setEng d e (x.setArr a { x.arr a with
    lowFailed := false, highFailed := false, failed := false, retired := retired, repair := map
    spareRows := if retired then 0 else rows.length, spareCols := if retired then 0 else cols.length })
  if retired then s2.raise (Page.eng d e) Code.arrayRetired (engPayload 0 0 a 0 0 0 0xFFFF)
  else
    ((rows.filter fun r => !(mapRows old).contains r) ++ (cols.filter fun c => !(mapCols old).contains c)).foldl
      (fun t i => t.raise (Page.eng d e) Code.arraySpareEngaged (engPayload 0 0 a 0 0 0 i)) s2

/-- The domains in the order in which BOOT powers them up (R363). -/
def powerOrder : List Nat :=
  securityPds ++ (List.range 4).map (14 * · + 13) ++ (List.range 4).flatMap (fun d => [14 * d + 10, 14 * d + 11, 14 * d + 12]) ++
    (List.range 8).map (64 + ·) ++ [58, 62] ++ [56, 57, 60, 61] ++
    (List.range 4).flatMap (fun d => (List.range 4).map (14 * d + 6 + ·)) ++
    (List.range 4).flatMap (fun d => (List.range 6).map (14 * d + ·))

/-- A domain is powered up by BOOT (R363, R382): on, at the nominal voltage of the mode in force. -/
def State.powerUp (s : State) (n : Nat) : State :=
  if (s.dom.get Domain.off n).state = 2 then s
  else State.count { s with dom := s.dom.set Domain.off n { state := 2, setMv := pdNominal n s.bel.modeAct, droop := false } }
    (regAddr (Page.dom n) 0x48) 1

/-- Every enabled port is trained under its BIFUR, and what the surroundings say of each training that has ended is taken (R316, R318,
R382). -/
def State.trainPorts (s : State) (trained : List (PortCode × TrainResult)) : State :=
  let s1 := (List.range 24).foldl (fun t n => if t.lnkEn n then t.formPort n else t) s
  trained.foldl (fun t q => if (t.subP q.1.val).state = .training then t.trained q.1.val q.2 else t) s1

/-- Steps 4 and 5 of R382: domains come up in the order of R363, memories and links, arrays are initialised, a zeroisation that was cut short is completed
(R392), and the Ramtor ports are up: the ingest stream has its first credit (R371). -/
def State.bringUp (s : State) (trained : List (PortCode × TrainResult)) : State :=
  let s1 := powerOrder.foldl State.powerUp s
  let s2 := (List.range 288).foldl (fun t i => t.initArray i [] []) s1
  let s3 := s2.trainPorts trained
  { s3 with
    fuse := { s3.fuse with zeroPending := false }
    ctl := { s3.ctl.put (.credit 3 s3.ctl.ingLimit) with
      bootStep := 5, standbyLock := true, ramActive := false, rx := .empty } }

/-- The root of trust derives the device identity keys (R394). -/
def State.derive (s : State) : State := { s with ctl := { s.ctl with identity := deriveIdentity s.fuse.secret } }

/-- The first stage has been accepted and runs (R382 to R384): its public keys are those that later checks use. -/
def State.takeStage (s : State) (c : FwComp) (bytes : List Byte) : State :=
  { s with ctl := { s.ctl with
    firstStage := some c
    stageDigest := sha384 (bytes.take (fwHeader + leAt bytes 12 4))
    keyRsa := (bytes.drop 64).take 384, keySlh := (bytes.drop 448).take 48 } }

/-- The boot sequence as far as the surroundings let it go (R382): step 1 waits while a sensor reads 90 °C or more (R429); the ROM takes
the primary copy, else the alternate one; where neither is accepted it enters SAFE (R385). -/
def State.bootRun (s : State) (b : BootInput) : State :=
  if !b.cool then s
  else
    let s1 := { s with ctl := { s.ctl with keySlot := s.fuse.keySlots.length - 1, bootStep := 1 } }
    let s2 := (securityPds.foldl State.powerUp s1).derive
    let judge := fun bytes => fwAccept s2.fuse.floor s2.keySet 0 bytes
    match judge b.primary, judge b.alternate with
    | some c, _ => (s2.takeStage c b.primary).bringUp b.trained
    | none, some c => (s2.takeStage c b.alternate).bringUp b.trained
    | none, none => (s2.sigFail 0xFFFF 0 1 (fwReport s2.fuse.floor s2.keySet 0 b.primary)).enterSafe Code.sigFail 0xFFFF 0

/-- RESET_N_DEASSERT (R376, R382): with PWR_GOOD the package enters BOOT from OFF and boots; a boot that waits in step 1 goes on. -/
def execResetNDeassert (b : BootInput) (s : State) : Host.Outcome State Fault Refusal :=
  let s1 := { s with pins := { s.pins with resetN := true, pwrGood := true } }
  match s.ctl.state with
  | .off => .next ((s1.enterBoot 0 0xFFFF 0).bootRun b)
  | .boot => if s.ctl.bootStep = 0 && !s.bel.stopped then .next (s1.bootRun b) else .next s1
  | _ => .next s1

/-- RESET_N_ASSERT (R376, R429): OFF from any state; THERMTRIP_N is released. -/
def execResetNAssert (s : State) : Host.Outcome State Fault Refusal :=
  .next (State.enterOff { s with pins := { s.pins with resetN := false, thermtripN := true } })

/-- PWR_GOOD_LOSS (R376): OFF from any state. -/
def execPwrGoodLoss (s : State) : Host.Outcome State Fault Refusal :=
  .next (State.enterOff { s with pins := { s.pins with pwrGood := false } })

/-- Rails whose brown-out loses memory contents: VCRUST, VTROUGH and VAUX, in the order of R354 (R360). -/
def criticalRail (k : Nat) : Bool := k = 4 || k = 7 || k = 8

/-- Without VAUX the hourly values are lost and THERMTRIP_N is released (R427, R429; log entry 72). -/
def State.vauxLost (s : State) (k : Nat) : State :=
  if k = 8 then { s with hlt := { Health.reset with temps := s.hlt.temps }, pins := { s.pins with thermtripN := true } } else s

/-- A brown-out that lost memory contents, or one during BOOT, restarts the package at BOOT (R360), and memory contents are preserved in the
latter where none of VCRUST, VTROUGH and VAUX tripped; the record that it raised is among
those that BOOT discards (R421). -/
def State.brownBoot (s : State) (k : Nat) : State :=
  let t := (s.enterBoot Code.pwrBrownout 0xFFFF 0).vauxLost k
  let u := { t with bel := { t.bel with brown := true, brownLost := criticalRail k, stopped := true } }
  if criticalRail k then u else { u with mem := s.mem, poison := s.poison }

/-- PWR_BROWNOUT (R360): a detector trips. The first trip of a brown-out raises a record and stops the clocks; a later one of VCRUST,
VTROUGH or VAUX raises a second record. A RUNNING package is HELD at once, with every Chanter silent until the clocks restart. In OFF, and
in SAFE while a thermal trip stands, which takes precedence (R429), the package does no more than lose what VAUX holds. -/
def execPwrBrownout (rail : Fin 9) (s : State) : Host.Outcome State Fault Refusal :=
  let k := rail.val
  let lost := criticalRail k
  if !s.powered || (decide (s.ctl.state = .safe) && !s.pins.thermtripN) || (s.bel.brown && (!lost || s.bel.brownLost)) then
    .next (s.vauxLost k)
  else
    let s1 := if s.bel.brown then s else s.count (regAddr Page.bellows 0x50) 1
    let s2 := s1.raise Page.bellows Code.pwrBrownout (cadPayload s (if lost then 2 else 1) k 0 0)
    if lost || decide (s.ctl.state = .boot) then .next (s2.brownBoot k)
    else
      let b := { s2.bel with
        brown := true, stopped := true, wasRunning := decide (s.ctl.state = .running), move := .idle, narrow := none, widen := none }
      let s3 := { s2 with bel := b }
      if s.ctl.state = .running then
        let s4 := dies.foldl (fun t d => t.updCh d fun c => { c with stopped := true }) s3
        .next (State.enter { s4 with ctl := { s4.ctl with holdPending := false } } .held Code.pwrBrownout)
      else .next s3

/-- The layers of a die that swapped in the step go back to the slot that they read before (R264). -/
def ChDie.revertAll (c : ChDie) : ChDie :=
  (List.range 64).foldl (fun x l =>
    if x.swapped.get false l then { x with cur := x.cur.set 0 l (1 - x.cur.get 0 l), swapped := x.swapped.set false l false } else x) c

/-- A step that a brown-out abandoned ends without a commit (R265, R360): its ledger records carry NOT_COMMITTED, under sealed commit it is
discarded and its layers revert, its micro-batches have consumed their draw positions (R307), and the next step takes the next number (log
entry 73). -/
def State.closeStep (s : State) : State :=
  let recs := dies.map fun d =>
    (2 * d, (s.dieTensors d).map (fun x => s.normRecord x (s.prfP (2 * d)).count false) ++
      (List.range (s.leaven.count.get 0 d)).map (s.rangeRecord d))
  let s1 := proofers.foldl (fun t p =>
    if t.sealedCommit p then (t.prfCount p 0x70 1).prfRaise p Code.prfStepDiscarded 0xFFFF noChunk 0xFFFF 0 0 else t) s
  let s2 := dies.foldl (fun t d => t.updCh d fun c =>
    { (if s.sealedCommit (2 * d) then c.revertAll else c) with inStep := false }) (s1.ledgerSeal recs)
  let s3 := s2.drawSeal
  { s3 with
    ctl := { s3.ctl with stepNo := s3.ctl.stepNo + 1, holdPending := false }
    spine := { s3.spine with
      sealIn := [], sealSent := none, sealing := false, compared := false, decided := none, adopting := [], sealDue := false
      notices := s3.spine.notices.filter fun n => n.kind ≠ .revert } }

/-- Every Chanter acts as though ABANDON had been written (R199, R360), unless the first step was still to begin. -/
def State.brownAbandon (s : State) : State :=
  let s0 := dies.foldl (fun t d => t.updCh d fun c => { c with holds := [], stopped := false }) s
  if s.ctl.stepDue ≠ 0 then s0 else (dies.foldl (fun t d => t.abandonStep d Code.pwrBrownout true) s0).closeStep

/-- BROWNOUT_RECOVERY (R360): every rail has been back for 1 ms. The clocks restart in Quiet; a package that was RUNNING abandons its step;
one that restarted at BOOT boots. -/
def execBrownoutRecovery (b : BootInput) (s : State) : Host.Outcome State Fault Refusal :=
  if !s.bel.brown then .next s
  else
    let was := s.bel.wasRunning
    let s1 := { s with bel := { s.bel with brown := false, brownLost := false, wasRunning := false, stopped := false } }
    match s.ctl.state with
    | .boot => if s.ctl.bootStep = 0 then .next (s1.bootRun b) else .next s1
    | .off => .next s1
    | .safe => .next s1
    | _ =>
      let s2 := s1.setMode .quiet
      .next (if was then s2.brownAbandon else s2)

/-- HLT_THERMTRIP (R429): a junction or memory die has read 105 °C or more for 16 µs. The clocks stop, THERMTRIP_N is asserted and the package
enters SAFE; THERMTRIPS is kept in fuse-backed storage (R430). In SAFE a trip that stands already is none anew; the record is raised again
only once every sensor has been 3 °C below. -/
def execHltThermtrip (sensor : Sensor) (c : Nat) (s : State) : Host.Outcome State Fault Refusal :=
  let s1 := s.readSensor sensor c
  if s.powered && decide (105 ≤ c) && (s.pins.thermtripN || decide (s.ctl.state ≠ .safe)) then
    let s2 := { s1 with
      hlt := { s1.hlt with tripArmed := false }
      pins := { s1.pins with thermtripN := false }, fuse := { s1.fuse with thermtrips := s1.fuse.thermtrips + 1 } }
    let s3 := if s1.hlt.tripArmed then
        s2.raise Page.health Code.hltThermtrip (hltPayload s 0 0 (sensorIndex (sensorKey sensor)) c 105)
      else s2
    .next (if s.ctl.state = .safe then s3 else s3.enterSafe Code.hltThermtrip 0xFFFF 0)
  else .next s1

end Sys2Proof.Machine
end

