-- ==== Sys2Proof/Machine/Ctrl.lean ====
section
/-! DEFINITION. The commands of R379 that attest, read and write registers, load firmware, service the part and reset it. -/

namespace Sys2Proof.Machine

/-- The most bytes of a load command (R379, R385). -/
abbrev loadMax : Nat := 524288

/-- The body of an attestation report (R395). -/
def State.attestBody (s : State) (nonce : List Byte) : List Byte :=
  let flags := b2n s.fuse.tamper + 2 * b2n s.ctl.debugSeen + 4 * b2n s.ing.cipEn + 8 * b2n s.fuse.zeroPending + 16 * b2n s.ctl.ramActive
  let build := dies.map fun d => (200 + 8 * d, 8, if (s.fabD d).placed then s.buildId d (s.activeOf d) else 0)
  let base := record 256 ([(0, 4, 0x5441514E), (4, 2, 1), (6, 1, s.ctl.state.code), (7, 1, flags), (40, 8, s.fuse.deviceId),
    (192, 1, s.ctl.lowSvn), (193, 1, s.fuse.floor), (194, 1, s.ctl.keySlot), (196, 2, s.fuse.tamperClears)] ++ build ++
    [(232, 8, s.ctl.sealStep), (240, 8, s.ctl.sealSummary), (248, 6, s.stamp)])
  let comps := s.ctl.comps.flatMap fun c => c.digest
  overwrite (overwrite (overwrite (overwrite base 8 (nonce.take 32)) 48 (s.ctl.stageDigest.take 48)) 96
    ((sha384 comps).take 48)) 144 (s.keySet.take 48)

/-- ATTEST (R394, R395): the report for a nonce of 32 bytes, signed with both device identity keys. -/
def execAttest (h : Hdr) (nonce : List Byte) (s : State) : Host.Outcome State Fault Refusal :=
  .next (s.command h 0x0001 false fun x =>
    if nonce.length ≠ 32 then x.invalid h 0x0001 2
    else
      let body := x.attestBody nonce
      (x.count (regAddr Page.security 0x4C) 1).answer h 0x0001 stOk 0
        (body ++ identitySign x.ctl.identity body))

/-- The range of registers that READ_REG and WRITE_REG may name: 1 to 64 aligned words below 2^32 (R379, R402). -/
def regRangeOk (addr count : Nat) : Bool := decide (1 ≤ count ∧ count ≤ 64 ∧ addr % 4 = 0 ∧ addr + 4 * count ≤ 2 ^ 32)

/-- READ_REG (R379, R403). -/
def execReadReg (h : Hdr) (addr : Word) (count : Nat) (s : State) : Host.Outcome State Fault Refusal :=
  .next (s.command h 0x0002 false fun x =>
    if regRangeOk addr.toNat count then
      x.answer h 0x0002 stOk 0 ((List.range count).flatMap fun i => leBytes 4 (x.readReg (addr.toNat + 4 * i)).toNat)
    else x.invalid h 0x0002 2)

/-- WRITE_REG (R379, R403): the words are written in ascending order, each by its access code. -/
def execWriteReg (h : Hdr) (addr : Word) (vals : List Word) (s : State) : Host.Outcome State Fault Refusal :=
  .next (s.command h 0x0003 false fun x =>
    if regRangeOk addr.toNat vals.length then
      (vals.zipIdx.foldl (fun t p => t.writeReg (addr.toNat + 4 * p.2) p.1) x).answer h 0x0003 stOk 0
    else x.invalid h 0x0003 2)

/-- LOAD_FW (R379): up to 512 KiB of a component other than the first stage, at an offset. -/
def execLoadFw (h : Hdr) (comp off : Nat) (bytes : List Byte) (s : State) : Host.Outcome State Fault Refusal :=
  .next (s.command h 0x0010 false fun x =>
    if comp = 0 ∨ 255 < comp ∨ loadMax < bytes.length ∨ 2 ^ 32 ≤ off then x.invalid h 0x0010 2 comp
    else State.answer { x with ctl := { x.ctl with loadBuf := x.ctl.loadBuf.upd [] comp fun b => overwrite b off bytes } } h 0x0010 stOk 0)

/-- FW_COMPLETE (R379, R384): starts the verification of every loaded component. -/
def execFwComplete (h : Hdr) (s : State) : Host.Outcome State Fault Refusal :=
  .next (s.command h 0x0011 false fun x => x.startLong h 0x0011)

/-- The end of FW_COMPLETE (R382, R384): components that fail are not loaded, each with SIG_FAIL, and the package stays in BOOT; when all are
accepted it enters STAGED. -/
def execFwCompleteDone (s : State) : Host.Outcome State Fault Refusal :=
  match s.ctl.long.find? fun l => l.opcode = 0x0011 with
  | none => .next s
  | some l =>
    let judged := s.ctl.loadBuf.cells.map fun c => (c.1, fwAccept s.fuse.floor s.keySet c.1 c.2)
    let bad := (judged.filter fun j => j.2.isNone).map Prod.fst
    let tell := fun (c : Nat) => fwReport s.fuse.floor s.keySet c (s.ctl.loadBuf.get [] c)
    if bad.isEmpty then
      let s1 := { s with ctl := { s.ctl with comps := judged.filterMap Prod.snd, bootStep := 6 } }
      .next ((s1.endLong 0x0011 stOk 0).enter .staged 0 0x0011 l.tag)
    else
      let s1 := bad.foldl (fun (t : State) c => t.sigFail 0x0011 l.tag 2 (tell c)) s
      let s2 := { s1 with ctl := { s1.ctl with loadBuf := s1.ctl.loadBuf.drop fun c => bad.contains c } }
      .next (s2.endLong 0x0011 stSigFail 2)

/-- ARRAY_REPAIR (R72, R73, R379): starts the initialisation of the named arrays, 2 × (36 d + e) + a. -/
def execArrayRepair (h : Hdr) (arrays : List Nat) (s : State) : Host.Outcome State Fault Refusal :=
  .next (s.command h 0x0030 false fun x =>
    if arrays.all fun i => decide (i < 288) then x.startLong h 0x0030 arrays else x.invalid h 0x0030 2)

/-- The end of ARRAY_REPAIR (R73, R428): the named arrays, with what their self-tests found. -/
def execArrayRepairDone (results : List SelfTest) (s : State) : Host.Outcome State Fault Refusal :=
  match s.ctl.long.find? fun l => l.opcode = 0x0030 with
  | none => .next s
  | some l =>
    let bad := fun (i : Nat) => match results.find? fun r => r.array.val = i with
      | some r => (r.rows.map Fin.val, r.cols.map Fin.val)
      | none => ([], [])
    .next ((l.arg.foldl (fun (t : State) i => t.initArray i (bad i).1 (bad i).2) s).endLong 0x0030 stOk 0)

/-- A mask of compute dies: bits 3 to 0, at least one of them set. -/
def dieMaskOk (m : Word) : Bool := decide (0 < m.toNat ∧ m.toNat < 16)
/-- The dies that a mask names. -/
def dieMask (m : Word) : List Nat := dies.filter fun d => m.getLsbD d

/-- FABRIC_FLUSH (R170, R379). -/
def execFabricFlush (h : Hdr) (mask : Word) (s : State) : Host.Outcome State Fault Refusal :=
  .next (s.command h 0x0031 false fun x =>
    if dieMaskOk mask then ((dieMask mask).foldl State.flush x).answer h 0x0031 stOk 0 else x.invalid h 0x0031 2)

/-- A port code names a sub-port of the bifurcation in force, or any of a port that is about to be formed anew (R316). -/
def State.codeExists (s : State) (c : Nat) : Bool :=
  decide (c < 96) && (decide (c % 4 < subCount (s.portP (c / 4)).bifur) || decide (s.bifurReg (c / 4) ≠ (s.portP (c / 4)).bifur))

/-- The full training of a named code starts (R316, R317): the whole port where BIFUR has changed. A port that is disabled or has no power
is not trained. -/
def State.retrain (s : State) (c : Nat) : State :=
  let n := c / 4
  if !s.lnkEn n || !s.regPowered (portReg n 0x100) then s
  else if s.bifurReg n ≠ (s.portP n).bifur then s.formPort n
  else if subCount (s.portP n).bifur ≤ c % 4 then s
  else s.updSub c fun x => x.train (laneBits (s.portP n).bifur (c % 4))

/-- PORT_RETRAIN (R317, R379): full training of the named port codes; it ends with the last of them. -/
def execPortRetrain (h : Hdr) (codes : List Nat) (s : State) : Host.Outcome State Fault Refusal :=
  .next (s.command h 0x0032 false fun x =>
    if codes.all x.codeExists then
      let y := codes.foldl State.retrain (x.startLong h 0x0032 codes)
      if (List.range 96).any fun c => (y.subP c).state = .training then y else y.endLong 0x0032 stOk 0
    else x.invalid h 0x0032 2)

/-- CIP_ENABLE (R312, R379): CIP_CORES and CIP_GIB take effect at once, and the partition runs. More than 12 cores, or a window larger than an
edge die's HOST memory, are out of range. -/
def execCipEnable (h : Hdr) (s : State) : Host.Outcome State Fault Refusal :=
  .next (s.command h 0x0060 false fun x =>
    let y := x.applyShadow (· = hostReg 0x104)
    if 12 < y.cipCores ∨ y.hostTotal 0 < y.cipBytes ∨ y.hostTotal 1 < y.cipBytes then x.invalid h 0x0060 2
    else State.answer { y with ing := { y.ing with cipEn := true } } h 0x0060 stOk 0)

/-- The partition's cores are reset, its windows are zeroed, and the cores return to the firmware (R313). -/
def State.cipClose (s : State) : State :=
  let win := fun (a : Nat) => s.inWindow 0 a || s.inWindow 1 a
  { s with
    mt := { s.mt with harts := s.mt.harts.drop fun k => decide (16 ≤ k % 16 + s.cipCores) }
    mem := s.mem.drop win
    poison := s.poison.drop fun g => win g
    ing := { s.ing with cipEn := false } }

/-- CIP_DISABLE (R313, R379). -/
def execCipDisable (h : Hdr) (s : State) : Host.Outcome State Fault Refusal :=
  .next (s.command h 0x0061 false fun x => (if x.ing.cipEn then x.cipClose else x).answer h 0x0061 stOk 0)

/-- Every active configuration set is discarded (R392). -/
def State.discardSets (s : State) : State :=
  let s1 := dies.foldl (fun t d => (t.flush d).updFab d fun f => { f with placed := false, swap := false, defers := 0, due := 0 }) s
  { s1 with leaven := { s1.leaven with count := .empty } }

/-- MAINT_EXIT (R376, R392): to the state of entry, or to STAGED after a ZEROISE. A return to HELD has no cause of its own, and HELD_CAUSE stays
(log entry 74). -/
def execMaintExit (h : Hdr) (s : State) : Host.Outcome State Fault Refusal :=
  .next (s.command h 0x0071 s.isSealed fun x =>
    let y := if x.ctl.zeroised then x.discardSets.enter .staged 0 0x0071 h.tag.toNat else x.enter x.ctl.maintFrom 0 0x0071 h.tag.toNat
    State.answer { y with ctl := { y.ctl with zeroised := false, heldCause := x.ctl.heldCause } } h 0x0071 stOk 0)

/-- ZEROISE (R392): ZEROISE_PENDING is set before the first granule is written. Argument bits above bit 0 are reserved. -/
def execZeroise (h : Hdr) (arg : Word) (s : State) : Host.Outcome State Fault Refusal :=
  .next (s.command h 0x0074 false fun x =>
    if 1 < arg.toNat then x.invalid h 0x0074 1
    else State.startLong { x with fuse := { x.fuse with zeroPending := true }, ctl := { x.ctl with zeroised := true } } h 0x0074 [arg.toNat])

/-- The addresses that a zeroisation covers: the Trough, and with bit 0 the crust and the SRAM of the edge dies (R278, R392). -/
def zeroCovers (all : Bool) (a : Nat) : Bool :=
  match regionOf a with
  | .trough _ _ => true
  | .crust _ _ => all
  | .coll _ _ => all
  | _ => false

/-- The granules that a zeroisation covers hold zeros, and their poison marks are cleared; with bit 0 the parks and caches in the SRAM of the
Proofers are empty too (R286, R392). -/
def State.zeroise (s : State) (all : Bool) : State :=
  let s1 := { s with mem := s.mem.drop (zeroCovers all), poison := s.poison.drop fun g => zeroCovers all g }
  proofers.foldl (fun t p => t.updPrf p fun x =>
    let y := { x with folds := .empty }
    if all then { y with park := [], ready := [], held := [], cached := [], hdrs := .empty, full := 0 } else y) s1

/-- The end of ZEROISE (R392): after the last granule ZEROISE_PENDING is clear. -/
def execZeroiseDone (s : State) : Host.Outcome State Fault Refusal :=
  match s.ctl.long.find? fun l => l.opcode = 0x0074 with
  | none => .next s
  | some l =>
    let s1 := s.zeroise (decide (l.arg.headD 0 = 1))
    .next (State.endLong { s1 with fuse := { s1.fuse with zeroPending := false } } 0x0074 stOk 0)

/-- RESET (R376, R381): the response goes out, every long command is aborted, and the package boots. -/
def execReset (h : Hdr) (b : BootInput) (s : State) : Host.Outcome State Fault Refusal :=
  .next (s.command h 0x0080 false fun x => ((x.answer h 0x0080 stOk 0).enterBoot 0 0x0080 h.tag.toNat).bootRun b)

/-- The size of the recovery buffer (R385). -/
abbrev recoveryMax : Nat := 4194304

/-- RECOVER_LOAD (R385): a chunk of a first stage at a byte offset; the chunk with FINAL set starts the verification. -/
def execRecoverLoad (h : Hdr) (off : Word) (bytes : List Byte) (word3 : Word) (s : State) : Host.Outcome State Fault Refusal :=
  .next (s.command h 0x0090 false fun x =>
    let final := word3.getLsbD 0
    if 1 < word3.toNat then x.invalid h 0x0090 1
    else if loadMax < bytes.length ∨ recoveryMax < off.toNat + bytes.length then x.invalid h 0x0090 2
    else if final && x.longRuns 0x0090 then x.invalid h 0x0090 3
    else
      let y := { x with ctl := { x.ctl with recovery := overwrite x.ctl.recovery off.toNat bytes } }
      if final then y.startLong h 0x0090 else y.answer h 0x0090 stOk 0)

/-- The end of the verification that RECOVER_LOAD started (R385): an accepted first stage runs from step 4 of R382, and CTL_CMD_DONE is
among the first records of the BOOT that this enters; otherwise the command ends with SIG_FAIL and the buffer is kept. -/
def execRecoverVerifyDone (trained : List (PortCode × TrainResult)) (s : State) : Host.Outcome State Fault Refusal :=
  match s.ctl.long.find? fun l => l.opcode = 0x0090 with
  | none => .next s
  | some l =>
    match fwAccept s.fuse.floor s.keySet 0 s.ctl.recovery with
    | none => .next ((s.sigFail 0x0090 l.tag 1 (fwReport s.fuse.floor s.keySet 0 s.ctl.recovery)).endLong 0x0090 stSigFail 1)
    | some c =>
      let slot := s.ctl.keySlot
      let image := s.ctl.recovery
      let t := s.enterBoot 0 0x0090 l.tag
      let t1 := State.endLong { t with ctl := { t.ctl with keySlot := slot, long := [l] } } 0x0090 stOk 0
      .next (((securityPds.foldl State.powerUp t1).derive.takeStage c image).bringUp trained)

end Sys2Proof.Machine
end

