-- ==== Sys2Proof/Machine/Run.lean ====
section
/-! DEFINITION. The commands that load and place configurations and that start steps (R157, R161, R165 to R170, R179, R290, R331, R334,
R379, R380, R439). -/

namespace Sys2Proof.Machine

/-- An image is at most 32 MiB (R155). -/
abbrev imageMax : Nat := 33554432

/-- Raise FAB_IMAGE_INVALID with a reason, which IMAGE_RESULT keeps (R157, R171). -/
def State.imageInvalid (s : State) (d reason : Nat) : State :=
  (s.updFab d fun f => { f with imageReason := reason }).raise (Page.fab d) Code.fabImageInvalid
    (fabPayload 0xFFFF 0xFF 0xFF reason 0 0 0 0xFFFF)

/-- The SH words of the image's Leaven entries go to the shadow values, in place of an earlier image's and of what register writes have
left in those words (R37, R412, R413). -/
def State.loadLeaven (s : State) (d set : Nat) : State :=
  let n := s.imgLeavenCount d set
  let t := (List.range n).foldl (fun t e =>
    let w := s.imgLeaven d set e
    [0, 1, 4, 5].foldl (fun u k =>
      u.set none (levKey d e k) (some (BitVec.ofNat 32 (w.getD k 0) &&& BitVec.ofNat 32 (levShMask k)))) t)
    (s.leaven.imgNew.drop fun k => k / 65536 = d)
  { s with leaven := { s.leaven with
      imgNew := t, shNew := s.leaven.shNew.drop fun k => decide (k / 65536 = d ∧ k / 16 % 4096 < n) } }

/-- The preload segments of the image go to the local stores of their reeds (R155). -/
def State.loadStores (s : State) (d set : Nat) : State :=
  (s.preloads d set).foldl (fun t p =>
    t.store (localBase d p.reed + 16 * p.unit)
      ((List.range (16 * p.count)).map fun i => s.img.get 0 (imgKey d set (p.data + i)))) s

/-- The final chunk of an image on a die: the checks of R157 and R179 in order, and then the audit (R161, R165). -/
def State.finishImage (s : State) (d len : Nat) : State :=
  let set := s.shadowOf d
  let r := s.imageReason d len
  let q := s.programReason d set
  if r ≠ 0 then (s.imageInvalid d r).updFab d fun f => { f with shadow := 4, rejectedBy := 1 }
  else if q ≠ 0 then
    (s.pipeRaise d Code.pipeProgramInvalid none 0xFF 0 q).updFab d fun f => { f with shadow := 4, rejectedBy := 0 }
  else ((s.loadStores d set).loadLeaven d set).updFab d fun f => { f with shadow := 2 }

/-- A chunk of an image on one die (R155, R157, R165): while a swap of the shadow set is pending nothing is written; a chunk past the greatest
image is not written either, and the image is REJECTED for it (log entry 211). -/
def State.loadChunk (s : State) (d off : Nat) (bytes : List Byte) (final : Bool) : State :=
  if s.swapPending d then s.imageInvalid d 10
  else if imageMax < off + bytes.length then (s.imageInvalid d 2).updFab d fun f => { f with shadow := 4, rejectedBy := 1 }
  else
    let set := s.shadowOf d
    let s1 := { s with img := memWrite s.img (imgKey d set off) bytes }
    let s2 := s1.updFab d fun f => { f with shadow := 1 }
    if final then s2.finishImage d (off + bytes.length) else s2

/-- LOAD_IMAGE (R157, R161, R165, R179, R379): a chunk for the shadow sets of a die mask. The command succeeds once the chunk has been
taken; what the checks find is told by events and SHADOW_STATE. -/
def execLoadImage (h : Hdr) (mask : Word) (off : Nat) (bytes : List Byte) (final : Bool) (s : State) : Host.Outcome State Fault Refusal :=
  .next (s.command h 0x0012 false fun x =>
    if !dieMaskOk mask || decide (loadMax < bytes.length) then x.invalid h 0x0012 2
    else ((dieMask mask).foldl (fun t d => t.loadChunk d off bytes final) x).answer h 0x0012 stOk 0)

/-- ACTIVATE (R167, R379): READY shadow sets of quiesced dies swap at the next tick. -/
def execActivate (h : Hdr) (mask : Word) (s : State) : Host.Outcome State Fault Refusal :=
  .next (s.command h 0x0013 s.isSealed fun x =>
    if !dieMaskOk mask then x.invalid h 0x0013 2
    else if (dieMask mask).any fun d => !x.quiesced d || decide ((x.fabD d).shadow ≠ 3) then x.invalid h 0x0013 4
    else State.answer { x with ctl := { x.ctl with activate := x.ctl.activate ||| mask.toNat } } h 0x0013 stOk 0)

/-- SWAP_REQUEST (R167, R379): the named dies swap at their next swap point; a set that is still being audited may be named. -/
def execSwapRequest (h : Hdr) (mask : Word) (s : State) : Host.Outcome State Fault Refusal :=
  .next (s.command h 0x0014 false fun x =>
    if !dieMaskOk mask then x.invalid h 0x0014 2
    else if (dieMask mask).any fun d => decide ((x.fabD d).shadow ≠ 2) && decide ((x.fabD d).shadow ≠ 3) then x.invalid h 0x0014 4
    else ((dieMask mask).foldl (fun t d => t.updFab d fun f =>
      { f with swap := true, defers := if f.swap then f.defers else 0 }) x).answer h 0x0014 stOk 0)

/-- REACTIVATE (R170, R379): at the next tick; a named die that is not quiesced or has no active set is refused with cause 4. -/
def execReactivate (h : Hdr) (mask : Word) (s : State) : Host.Outcome State Fault Refusal :=
  .next (s.command h 0x0016 false fun x =>
    if !dieMaskOk mask then x.invalid h 0x0016 2
    else if (dieMask mask).any fun d => !x.quiesced d || !(x.fabD d).placed then x.invalid h 0x0016 4
    else State.answer { x with ctl := { x.ctl with reactivate := x.ctl.reactivate ||| mask.toNat } } h 0x0016 stOk 0)

/-- A Proofer page's words that take effect at entry to RUNNING. -/
def isEntryWord (a : Nat) : Bool := decide (0x0300 ≤ a / 65536 ∧ a / 65536 ≤ 0x0307) && prfEntryWords.contains (a % 65536)

/-- The package with the Proofers' modes, groups and partitions of the shadow set. -/
def State.entryPrf (s : State) : State := s.applyShadow isEntryWord

/-- COMMIT_CONFIG (R238, R379): every die has an active set and every Proofer a valid table, judged with the modes and partitions that the
first RUN puts in force. -/
def execCommitConfig (h : Hdr) (s : State) : Host.Outcome State Fault Refusal :=
  .next (s.command h 0x0015 s.isSealed fun x =>
    let y := x.entryPrf
    if dies.any (fun d => !(x.fabD d).placed) || proofers.any (fun p => y.tableBad p (y.ownerMode p) (y.sealedCommit p)) then
      x.invalid h 0x0015 4
    else (x.enter .ready 0 0x0015 h.tag.toNat).answer h 0x0015 stOk 0)

/-- The words of the collectives page and its windows. -/
def isColWord (a : Nat) : Bool := decide (a / 65536 = Page.coll) || decide (2 ^ 43 ≤ a)

/-- The first failing condition of R290 for a Proofer, on a state in which the new values stand: 1 the sum, 2 the reservoir, 3 the ledger
ring; 0 none. -/
def State.partReason (s : State) (p : Nat) : Nat :=
  let ring := s.ledgerRing p
  let b := s.partBounds p partLedger
  if 192 < (s.partSizes p).sum then 1
  else if 64 < (s.partSizes p).getD partReservoir 0 then 2
  else if ring.1 < troughBase p + b.1 ∨ troughBase p + b.2 < ring.1 + 64 * ring.2 then 3
  else 0

/-- A group that GRP_REDUCE or GRP_SEAL names fits REPLICA_ID and REPLICAS (R331). -/
def State.groupFits (s : State) (g : Nat) : Bool :=
  decide (s.grpPos g = s.replicaId 0 ∧ s.grpRx g * s.grpRy g = s.replicas 0)

/-- The failing checks of R439 in order: cause, and group or conduit. -/
def State.colReasons (s : State) : List (Nat × Nat) :=
  let named := [s.grpReduce, fld s.colCtrl 17 15]
  let groups := (List.range 8).filter fun g => named.contains g && !s.groupFits g
  let det := proofers.any fun p => s.relaxed p ≠ s.colCtrl.getLsbD 0
  let conduits := (List.range 32).filter fun k =>
    s.cndValid k && (!([3, 4, 5].contains (s.cndVc k)) ||
      (match regionOf (s.cndSend k) with | .coll e _ => decide (e ≠ s.cndPort k / 48) | _ => true))
  groups.map (fun g => (1, g)) ++ (if det then [(2, 0xFFFF)] else []) ++ conduits.map fun k => (3, k)

/-- The package as RUN is about to leave it, for the checks of R290 and R439: modes, partitions, ledger rings and the collectives page at
their new values. -/
def State.runTrial (s : State) : State :=
  s.applyShadow fun a => isEntryWord a || isColWord a ||
    (decide (0x0300 ≤ a / 65536 ∧ a / 65536 ≤ 0x0307) && (a % 65536 = 0x12C || a % 65536 = 0x130))

/-- The records that the failing checks on `t` raise (R290, R439; log entry 225). -/
def State.raiseFaults (s t : State) : State :=
  let s1 := proofers.foldl (fun u p =>
    if t.partReason p = 0 then u
    else u.raise (Page.prf p) Code.memPartInvalid (memPayload 0xFFFF 0 0xFF (t.partReason p) 0 0 0xFFFF)) s
  t.colReasons.foldl (fun u q => u.raise Page.coll Code.colConfigInvalid
    (u.linkPayload 0xFFFF 0xFF q.1 q.2 u.cad.tickNo 0)) s1

/-- The records that failing checks raise at RUN, whose checks judge the new values (R290, R439). -/
def State.raiseRunFaults (s : State) : State := s.raiseFaults s.runTrial

/-- Every check of R290, R331 and R334 passes on the values in force. -/
def State.runFit (s : State) : Bool := proofers.all (fun p => s.partReason p = 0) && s.colReasons.isEmpty

/-- Every check of R290, R331 and R334 passes on the values that RUN puts in force. -/
def State.runChecks (s : State) : Bool := s.runTrial.runFit

/-- The cadence fields that take effect together at entry to RUNNING (R342): the grid starts anew at the edge that is due, and a new
DELAY_ASYM is left to the slew. -/
def State.entryCadence (s : State) : State :=
  let t := s.applyShadow fun a => decide (a / 65536 = Page.cadence) && decide (a % 65536 ≠ 0x108)
  let at_ := fun off => t.shAt (regAddr Page.cadence off)
  let len := fld (at_ 0x104) 11 0
  let sec := (at_ 0x110).toNat + 2 ^ 32 * fld (at_ 0x114) 15 0
  let asym := signedOf 32 (at_ 0x11C).toNat
  let c := t.cad
  { t with cad := { c with
    tickLen := len, epochNs := sec * 1000000000 + fld (at_ 0x118) 29 0, asymNs := asym
    offsetNs := c.offsetNs - (asym - c.asymNs), slewNs := c.slewNs - (asym - c.asymNs)
    phase := fld (at_ 0x108) 11 0 % max 1 len, newGrid := true } }

/-- What takes effect when the package enters RUNNING from READY (R218, R290, R314, R331, R342, R356). -/
def State.applyEntry (s : State) : State :=
  let ingest := fun (a : Nat) =>
    let k := Page.kind (a / 65536)
    decide (a < 2 ^ 32) && (k = 0x06 || k = 0x0D || k = 0x0E)
  let s1 := (s.entryPrf.applyShadow fun a => isColWord a || ingest a).applyPage Page.bellows
  dies.foldl State.kvApply s1.entryCadence

/-- RUN (R376, R380): from READY under a LOCKED cadence unit; the first step begins on the next tick. -/
def execRun (h : Hdr) (s : State) : Host.Outcome State Fault Refusal :=
  .next (s.command h 0x0020 s.runTrial.isSealed (fit := decide (s.cad.state = .locked)) fun x =>
    if !x.runChecks then x.raiseRunFaults.invalid h 0x0020 4
    else
      let y := x.applyEntry
      let z := State.enter { y with bel := { y.bel with lim := y.bel.draw }, ctl := { y.ctl with stepDue := 2 } } .running 0 0x0020 h.tag.toNat
      z.answer h 0x0020 stOk 0)

/-- RESUME (R356, R376, R380, R412): from HELD under a LOCKED cadence unit; the power plan takes effect, and the next step begins on the next
tick. The checks of R290, R331 and R334 judge the values in force, since those of the shadow set wait for the next RUN (log entry 75). -/
def execResume (h : Hdr) (s : State) : Host.Outcome State Fault Refusal :=
  .next (s.command h 0x0022 s.isSealed (fit := decide (s.cad.state = .locked)) fun x =>
    if !x.runFit then (x.raiseFaults x).invalid h 0x0022 4
    else
      let y := x.applyPage Page.bellows
      let z := { y with
        bel := { y.bel with lim := y.bel.draw }, ctl := { y.ctl with stepDue := if y.ctl.stepDue = 2 then 2 else 1 } }
      (z.enter .running 0 0x0022 h.tag.toNat).answer h 0x0022 stOk 0)

end Sys2Proof.Machine
end

