-- ==== Sys2Proof/Machine/Port.lean ====
section
/-! DEFINITION. The Ramtor port: segments, stream control, the ingest stream, failover and the ledger channel (R367 to R373, R396 to
R398). -/

namespace Sys2Proof.Machine

/-- The port that carries messages: 0 on ED0, 1 on ED1 (R373). -/
def State.activePort (s : State) : Nat := b2n s.ctl.ramActive

/-- Nothing has been received of a message. -/
def RxPart.none : RxPart := { active := false, next := 0, seq := 0, tag := 0, off := 0, bytes := [] }

/-- A frame or a segment is discarded and counted (R367, R368). -/
def State.discardFrame (s : State) : State := s.count (regAddr Page.global 0x50) 1
def State.discardSegment (s : State) : State := s.count (regAddr Page.global 0x54) 1

/-- Put the message in assembly on a channel. -/
def State.setRx (s : State) (ch : Nat) (p : RxPart) : State :=
  { s with ctl := { s.ctl with rx := s.ctl.rx.set RxPart.none ch p } }


/-- A segment arrives on the active port (R368, R369): it starts or continues the message of its channel, or the partial message is
discarded. With the last segment the message is complete. -/
def State.takeSegment (s : State) (f : Frame) : State :=
  let w := fun i => (f.hdr.getD i 0).toNat
  let ch := bitsOf (w 0) 3 0
  let seg := bitsOf (w 0) 13 8
  let len := bitsOf (w 0) 31 16
  let p := s.ctl.rx.get RxPart.none ch
  if ch ≠ 0 ∧ ch ≠ 3 ∧ ch ≠ 4 then s.discardSegment
  else if bitsOf (w 0) 7 4 ≠ 1 ∨ len = 0 ∨ segMaxLen < len ∨ f.payload.length < len ∨ f.hdr.length < 6 then
    (s.setRx ch RxPart.none).discardSegment
  else if seg ≠ 0 ∧ (p.active = false ∨ seg ≠ p.next ∨ w 1 ≠ p.seq) then (s.setRx ch RxPart.none).discardSegment
  else
    let s1 := if seg = 0 ∧ p.active = true then s.discardSegment else s
    let old := if seg = 0 then [] else p.bytes
    let q : RxPart :=
      { active := true, next := seg + 1, seq := w 1, tag := if seg = 0 then w 2 else p.tag
        off := if seg = 0 then w 3 + 2 ^ 32 * w 4 else p.off, bytes := old ++ f.payload.take len }
    if bitOf (w 0) 14 then
      let s2 := s1.setRx ch RxPart.none
      let m : RxMsg := { ch := ch, tag := q.tag, off := q.off, bytes := q.bytes }
      { s2 with ctl := { s2.ctl with msgs := s2.ctl.msgs ++ [m] } }
    else s1.setRx ch q

/-- SEGMENT (R367, R368, R373): a frame arrives at a Ramtor port. Frames on the port that is not active are ignored; PTP frames go to the
cadence unit. -/
def execSegment (f : Frame) (s : State) : Host.Outcome State Fault Refusal :=
  if !s.portUp || decide (f.port.val ≠ s.activePort) then .next s
  else if !f.fcsOk then .next s.discardFrame
  else if !f.toUs then .next s
  else if f.vlan || (decide (f.etherType ≠ 0x88B5) && decide (f.etherType ≠ 0x88F7)) then .next s.discardFrame
  else if f.etherType = 0x88F7 then .next s
  else .next (s.takeSegment f)

/-- A stream-control message is well formed (R372). -/
def streamOk (opcode : Nat) (word0 word3 : Word) : Bool :=
  decide (fld word0 15 0 = opcode) && (decide (fld word0 19 16 = 3) || decide (fld word0 19 16 = 4)) && decide (fld word0 31 20 = 0) &&
    decide (word3 = 0)

/-- CREDIT (R371, R372): the limit of the checkpoint stream that leaves the package rises, never falls. -/
def execCredit (word0 : Word) (offset : DWord) (word3 : Word) (s : State) : Host.Outcome State Fault Refusal :=
  let s1 := s.takeRx 0 0
  if !s.portUp then .next s
  else if !streamOk 0xF001 word0 word3 then .next s1.discardSegment
  else if fld word0 19 16 = 4 then
    .next { s1 with ctl := { s1.ctl with ckOutLimit := max s1.ctl.ckOutLimit offset.toNat } }
  else .next s1

/-- NAK (R371, R372): the checkpoint stream is sent again from the first missing byte, at once (log entry 226). -/
def execNak (word0 : Word) (offset : DWord) (word3 : Word) (s : State) : Host.Outcome State Fault Refusal :=
  let s1 := s.takeRx 0 0
  if !s.portUp then .next s
  else if !streamOk 0xF002 word0 word3 then .next s1.discardSegment
  else if fld word0 19 16 = 4 ∧ offset.toNat < s.ctl.ckOutSent then
    .next { s1 with ctl := s1.ctl.put (.stream 4 offset.toNat (s1.spine.frames.flatten.drop offset.toNat)) }
  else .next s1

/-- Window credit of the ingest stream (R371). -/
abbrev ingestWindow : Nat := 67108864

/-- INGEST (R369, R371): bytes of the container stream at an offset, for a place in the HOST memory of the edge die whose port is active;
`consumed` bytes have been consumed so far. A gap discards them and asks for the first missing byte; bytes that are there already, or
that lie beyond the credit, are not written. -/
def execIngest (off : Nat) (bytes : List Byte) (dest consumed : Nat) (s : State) : Host.Outcome State Fault Refusal :=
  let got := s.ctl.ingGot
  let s1 := s.takeRx 3 0
  if !s.portUp || !s.firmwareRuns then .next s
  else if got < off then .next { s1 with ctl := s1.ctl.put (.nak 3 got) }
  else
    let new := (bytes.take (s.ctl.ingLimit - off)).drop (got - off)
    let a := dest + (got - off)
    if new.isEmpty then .next s1
    else if (s.hostPlace s.activePort a).isNone || (s.hostPlace s.activePort (a + new.length - 1)).isNone then .next s
    else
      let s2 := s1.store a new
      let n := got + new.length
      let lim := max s.ctl.ingLimit (min n consumed + ingestWindow)
      .next { s2 with ctl := { (if s.ctl.ingLimit < lim then s2.ctl.put (.credit 3 lim) else s2.ctl) with ingGot := n, ingLimit := lim } }

/-- The ledger records that stand in PFp's ring and have not been acknowledged, oldest first, each with its step (R397). -/
def State.ringRecords (s : State) (p : Nat) : List (Nat × List Byte) :=
  let x := s.prfP p
  let open_ := x.ringSteps.cells.filter fun c => decide (s.ctl.ledgerAck < c.2)
  ((open_.filter fun c => decide (x.ring ≤ c.1)) ++ open_.filter fun c => decide (c.1 < x.ring)).map fun c =>
    (c.2 - 1, s.bytesAt ((s.ledgerRing p).1 + 64 * c.1) 64)

/-- The records that a failover sends again: for each step in turn those of the rings in Proofer order with an end record, and what never
stood in a ring (R373, R397). -/
def State.ledgerAgain (s : State) : List (Nat × List Byte) :=
  let all := proofers.flatMap s.ringRecords
  let first := (all.map Prod.fst).foldl min (s.ctl.stepNo)
  let steps := ((List.range (s.ctl.stepNo + 1 - first)).map fun i => first + i).filter fun n => all.any fun q => q.1 = n
  steps.flatMap (fun n =>
    let l := all.filter fun q => q.1 = n
    l ++ [(n, ledgerEnd n l.length)]) ++ s.ctl.ledgerDue.filter fun q => !steps.contains q.1

/-- CTL_RAMTOR_FAILOVER (R373): the active port has lost lock for 100 µs while the standby port holds it. The standby port is active until
the next BOOT, messages in flight are lost, and unacknowledged ledger records are due again. -/
def execCtlRamtorFailover (s : State) : Host.Outcome State Fault Refusal :=
  if !s.portUp || s.ctl.ramActive || !s.ctl.standbyLock then .next s
  else
    let s1 := { s with ctl := { s.ctl with
      ramActive := true, standbyLock := false, rx := .empty, ledgerDue := s.ledgerAgain } }
    .next ((s1.count (regAddr Page.global 0x58) 1).raise Page.global Code.ctlRamtorFailover
      (ctlPayload 0xFFFF 0 s.ctl.state.code 0 0 0 0))

/-- LEDGER_SEND (R369, R397): the next ledger record that is due leaves on channel 5, once no event waits for channel 2. -/
def execLedgerSend (s : State) : Host.Outcome State Fault Refusal :=
  match s.ctl.ledgerDue with
  | [] => .next s
  | q :: rest =>
    if s.portUp && !s.eventsWait then
      .next { s with ctl := { s.ctl.sendMessage 5 0 0 q.2 with ledgerDue := rest, ledgerOut := s.ctl.ledgerOut ++ [q.2] } }
    else .next s

end Sys2Proof.Machine
end

