-- ==== Sys2Proof/Machine/Tick.lean ====
section
/-! DEFINITION. The tick, the Bellows loop and rotation (R202, R319, R336, R342 to R344, R351, R353, R354, R361, R362). -/

namespace Sys2Proof.Machine

/-- The model's clock stands at the edge of a tick (log entry 7): the interval has passed since the last edge. -/
def State.toEdge (s : State) : State :=
  { s with nowUs := s.nowUs + (s.cad.interval - s.inTick), inTick := 0 }

/-- The cadence unit counts a tick, and a HOLD loses one of its ticks (R342, R359). -/
def State.countTick (s : State) : State :=
  { s with
    cad := s.cad.tick s.src (s.shAt (regAddr Page.cadence 0x124)).toNat s.nowUs
    bel := { s.bel with holdLeft := s.bel.holdLeft - 1 } }

/-- Every lane's margin of a tick reaches its port and its monitor (R319, R426). -/
def State.takeMargins (s : State) (margins : List (Fin 24 × Fin 32 × Nat)) : State :=
  margins.foldl (fun t m => (t.takeMargin m.1.val m.2.1.val m.2.2).monSample 2 (32 * m.1.val + m.2.1.val) ((m.2.2 : Nat) : Rat)) s

/-- Every sub-port that carries flits sends the heartbeat of the tick (R336). -/
def State.heartbeats (s : State) : State := (List.range 96).foldl State.heartbeat s

/-- Swaps at ticks, and dies that ACTIVATE or REACTIVATE named (R167, R170). -/
def State.tickSwaps (s : State) : State :=
  dies.foldl (fun t d => (if t.swapAtTick d then t.swapPoint d else t).activationPoint d) s

/-- A step that waits for this tick begins (R183, R376): after RUN the Proofers take their shadow values first (R238, R273). -/
def State.startDue (s : State) : State :=
  if s.ctl.state ≠ .running then s
  else match s.ctl.stepDue with
  | 0 => s
  | 2 => (proofers.foldl State.prfApply s).beginStep
  | _ => s.beginStep

/-- TICK (R342, R343, R351): a local tick edge, with the trims that the domains ask for and the margins of the lanes. While the clocks are
stopped only the cadence unit counts (R360). -/
def execTick (trims : List (Pd × Trim)) (margins : List (Fin 24 × Fin 32 × Nat)) (s : State) : Host.Outcome State Fault Refusal :=
  if !s.powered then .next s
  else
    let s1 := s.toEdge.countTick
    if s.bel.stopped then .next s1
    else
      let s2 := trims.foldl (fun (t : State) x => t.trim x.1.val x.2) s1.startNarrow
      .next (s2.takeMargins margins).heartbeats.tickSwaps.sealEdge.startDue

/-- BELLOWS_LOOP (R354): one pass of the Bellows loop, with the demand of each rail as (rail, volts and amperes in the units of the rail
registers); 1 µs passes. While the clocks are stopped only time passes (R360). -/
def execBellowsLoop (rails : List (Fin 9 × Nat × Nat)) (s : State) : Host.Outcome State Fault Refusal :=
  if !s.powered then .next s
  else if s.bel.stopped then .next s.microsecond
  else .next (s.bellowsPass rails s.nElig).microsecond.ingestUs

/-- ROT_COUNT and ROT_PERIOD (R362). -/
def State.rotCount (s : State) : Nat := fld (s.rwAt (regAddr Page.bellows 0x120)) 3 0
def State.rotPeriod (s : State) : Nat := fld (s.rwAt (regAddr Page.bellows 0x120)) 19 4

/-- A swap of a die at its next seal is requested: SWAP_AT is cleared (R167, R362; log entry 191). -/
def State.swapAtSeal (s : State) (d : Nat) : State :=
  let a := regAddr (Page.fab d) 0x10C
  (s.setRw a (s.rwAt a &&& 0xFFFFFFFE)).updFab d fun f => { f with swap := true, defers := 0 }

/-- ROTATION (R362): after ROT_PERIOD seals the firmware loads the next rotation image and requests its swap at a seal. The operand holds
the bytes of that image for each die. -/
def execRotation (images : List (Die × List Byte)) (s : State) : Host.Outcome State Fault Refusal :=
  if s.ctl.state ≠ .running || decide (s.rotCount ≤ 1) || decide (s.bel.rotSeals < s.rotPeriod) then .next s
  else
    let s1 := (images.filter fun q => decide (q.2.length ≤ imageMax)).foldl (fun (t : State) q =>
      let u := t.loadChunk q.1.val 0 q.2 true
      if (u.fabD q.1.val).shadow = 2 then u.swapAtSeal q.1.val else u) s
    .next { s1 with bel := { s1.bel with rotSeals := 0, rotIndex := (s1.bel.rotIndex + 1) % s.rotCount } }

end Sys2Proof.Machine
end

