-- ==== Sys2Proof/Machine/Dispatch.lean ====
section
/-! DEFINITION. One arm for each command of the table. -/

namespace Sys2Proof.Machine

/-- The effect of a command on everything but the queue. -/
def exec (i : Instr) (s : State) : Host.Outcome State Fault Refusal :=
  match i with
  | .attest h nonce => Sys2Proof.Machine.execAttest h nonce s
  | .readReg h addr count => Sys2Proof.Machine.execReadReg h addr count s
  | .writeReg h addr vals => Sys2Proof.Machine.execWriteReg h addr vals s
  | .loadFw h comp off bytes => Sys2Proof.Machine.execLoadFw h comp off bytes s
  | .fwComplete h => Sys2Proof.Machine.execFwComplete h s
  | .fwCompleteDone => Sys2Proof.Machine.execFwCompleteDone s
  | .loadImage h dies off bytes final => Sys2Proof.Machine.execLoadImage h dies off bytes final s
  | .activate h dies => Sys2Proof.Machine.execActivate h dies s
  | .swapRequest h dies => Sys2Proof.Machine.execSwapRequest h dies s
  | .commitConfig h => Sys2Proof.Machine.execCommitConfig h s
  | .reactivate h dies => Sys2Proof.Machine.execReactivate h dies s
  | .run h => Sys2Proof.Machine.execRun h s
  | .hold h => Sys2Proof.Machine.execHold h s
  | .resume h => Sys2Proof.Machine.execResume h s
  | .stop h => Sys2Proof.Machine.execStop h s
  | .arrayRepair h arrays => Sys2Proof.Machine.execArrayRepair h arrays s
  | .arrayRepairDone results => Sys2Proof.Machine.execArrayRepairDone results s
  | .fabricFlush h dies => Sys2Proof.Machine.execFabricFlush h dies s
  | .portRetrain h codes => Sys2Proof.Machine.execPortRetrain h codes s
  | .cadReacquire h => Sys2Proof.Machine.execCadReacquire h s
  | .ckptExport h args => Sys2Proof.Machine.execCkptExport h args s
  | .ckptImport h conduit => Sys2Proof.Machine.execCkptImport h conduit s
  | .ckptStop h => Sys2Proof.Machine.execCkptStop h s
  | .ledgerAck h step => Sys2Proof.Machine.execLedgerAck h step s
  | .cap h watts tick => Sys2Proof.Machine.execCap h watts tick s
  | .supplyHold h ticks tick => Sys2Proof.Machine.execSupplyHold h ticks tick s
  | .shed h tick => Sys2Proof.Machine.execShed h tick s
  | .freqDev h mHz action tick => Sys2Proof.Machine.execFreqDev h mHz action tick s
  | .supplyMsgTick => Sys2Proof.Machine.execSupplyMsgTick s
  | .holdExpiry => Sys2Proof.Machine.execHoldExpiry s
  | .cipEnable h => Sys2Proof.Machine.execCipEnable h s
  | .cipDisable h => Sys2Proof.Machine.execCipDisable h s
  | .maintEnter h => Sys2Proof.Machine.execMaintEnter h s
  | .maintExit h => Sys2Proof.Machine.execMaintExit h s
  | .debugUnlock h => Sys2Proof.Machine.execDebugUnlock h s
  | .keysetRotate h digest sigRsa sigSlh => Sys2Proof.Machine.execKeysetRotate h digest sigRsa sigSlh s
  | .zeroise h arg => Sys2Proof.Machine.execZeroise h arg s
  | .zeroiseDone => Sys2Proof.Machine.execZeroiseDone s
  | .tamperClear h => Sys2Proof.Machine.execTamperClear h s
  | .floorRaise h floor => Sys2Proof.Machine.execFloorRaise h floor s
  | .reset h b => Sys2Proof.Machine.execReset h b s
  | .recoverLoad h off bytes word3 => Sys2Proof.Machine.execRecoverLoad h off bytes word3 s
  | .recoverVerifyDone trained => Sys2Proof.Machine.execRecoverVerifyDone trained s
  | .commandReservedOpcode h opcode => Sys2Proof.Machine.execCommandReservedOpcode h opcode s
  | .segment f => Sys2Proof.Machine.execSegment f s
  | .credit word0 offset word3 => Sys2Proof.Machine.execCredit word0 offset word3 s
  | .nak word0 offset word3 => Sys2Proof.Machine.execNak word0 offset word3 s
  | .ingest off bytes dest consumed => Sys2Proof.Machine.execIngest off bytes dest consumed s
  | .ctlRamtorFailover => Sys2Proof.Machine.execCtlRamtorFailover s
  | .ledgerSend => Sys2Proof.Machine.execLedgerSend s
  | .eventAdmit first => Sys2Proof.Machine.execEventAdmit first s
  | .eventChannelSend n => Sys2Proof.Machine.execEventChannelSend n s
  | .eventHostCopy => Sys2Proof.Machine.execEventHostCopy s
  | .resetNDeassert b => Sys2Proof.Machine.execResetNDeassert b s
  | .resetNAssert => Sys2Proof.Machine.execResetNAssert s
  | .pwrGoodLoss => Sys2Proof.Machine.execPwrGoodLoss s
  | .supplyAlert => Sys2Proof.Machine.execSupplyAlert s
  | .pllSwitch => Sys2Proof.Machine.execPllSwitch s
  | .supplyAlertRelease => Sys2Proof.Machine.execSupplyAlertRelease s
  | .presenceNChange level => Sys2Proof.Machine.execPresenceNChange level s
  | .presence => Sys2Proof.Machine.execPresence s
  | .secTamper => Sys2Proof.Machine.execSecTamper s
  | .pwrBrownout rail => Sys2Proof.Machine.execPwrBrownout rail s
  | .brownoutRecovery b => Sys2Proof.Machine.execBrownoutRecovery b s
  | .tempWarn sensor c => Sys2Proof.Machine.execTempWarn sensor c s
  | .tempLimit pd c => Sys2Proof.Machine.execTempLimit pd c s
  | .hltThermtrip sensor c => Sys2Proof.Machine.execHltThermtrip sensor c s
  | .memRefreshBand die c => Sys2Proof.Machine.execMemRefreshBand die c s
  | .droop pd => Sys2Proof.Machine.execDroop pd s
  | .droopEnd pd ac => Sys2Proof.Machine.execDroopEnd pd ac s
  | .tick trims margins => Sys2Proof.Machine.execTick trims margins s
  | .stepSeal => Sys2Proof.Machine.execStepSeal s
  | .sync domain sender seq twoStep rxHalf => Sys2Proof.Machine.execSync domain sender seq twoStep rxHalf s
  | .followUp domain sender seq originNs corrNs => Sys2Proof.Machine.execFollowUp domain sender seq originNs corrNs s
  | .announce m => Sys2Proof.Machine.execAnnounce m s
  | .delayResp domain sender reqHalf rxNs => Sys2Proof.Machine.execDelayResp domain sender reqHalf rxNs s
  | .syncTimeout => Sys2Proof.Machine.execSyncTimeout s
  | .cadenceEdge offHalf => Sys2Proof.Machine.execCadenceEdge offHalf s
  | .pulseInconsistent => Sys2Proof.Machine.execPulseInconsistent s
  | .pulseConsistent => Sys2Proof.Machine.execPulseConsistent s
  | .pulseLoss => Sys2Proof.Machine.execPulseLoss s
  | .locked => Sys2Proof.Machine.execLocked s
  | .cadLost named => Sys2Proof.Machine.execCadLost named s
  | .relock ref named offNs => Sys2Proof.Machine.execRelock ref named offNs s
  | .bellowsLoop rails => Sys2Proof.Machine.execBellowsLoop rails s
  | .pwrRampRelaxed => Sys2Proof.Machine.execPwrRampRelaxed s
  | .mode v => Sys2Proof.Machine.execMode v s
  | .rotation images => Sys2Proof.Machine.execRotation images s
  | .reqOn pd on => Sys2Proof.Machine.execReqOn pd on s
  | .domainRampDone pd => Sys2Proof.Machine.execDomainRampDone pd s
  | .hourlyTrend => Sys2Proof.Machine.execHourlyTrend s
  | .ringOscSample samples => Sys2Proof.Machine.execRingOscSample samples s
  | .retentionCanary crust windowMs => Sys2Proof.Machine.execRetentionCanary crust windowMs s
  | .patrolScrub unit finds => Sys2Proof.Machine.execPatrolScrub unit finds s
  | .memoryAccess unit addr op ecc die mb => Sys2Proof.Machine.execMemoryAccess unit addr op ecc die mb s
  | .registerWrite addr v => Sys2Proof.Machine.execRegisterWrite addr v s
  | .mbxSel page item => Sys2Proof.Machine.execMbxSel page item s
  | .mailboxSnapshot page => Sys2Proof.Machine.execMailboxSnapshot page s
  | .quiesceReq page v => Sys2Proof.Machine.execQuiesceReq page v s
  | .enable page v => Sys2Proof.Machine.execEnable page v s
  | .leavenW0Write d v => Sys2Proof.Machine.execLeavenW0Write d v s
  | .drop d => Sys2Proof.Machine.execDrop d s
  | .abandon d => Sys2Proof.Machine.execAbandon d s
  | .holdLimitExpiry d => Sys2Proof.Machine.execHoldLimitExpiry d s
  | .mpdAccept d e => Sys2Proof.Machine.execMpdAccept d e s
  | .descriptorRecord d e => Sys2Proof.Machine.execDescriptorRecord d e s
  | .tileFetch d e a h => Sys2Proof.Machine.execTileFetch d e a h s
  | .preload d e a h => Sys2Proof.Machine.execPreload d e a h s
  | .shadowLoadDone d e a h => Sys2Proof.Machine.execShadowLoadDone d e a h s
  | .passStart d e a h => Sys2Proof.Machine.execPassStart d e a h s
  | .passAccept d e a h => Sys2Proof.Machine.execPassAccept d e a h s
  | .checkFailure d e a h kind index => Sys2Proof.Machine.execCheckFailure d e a h kind index s
  | .overflow d e a h => Sys2Proof.Machine.execOverflow d e a h s
  | .rung3Move d e a h => Sys2Proof.Machine.execRung3Move d e a h s
  | .engOperandUncorrectable d e a h shared => Sys2Proof.Machine.execEngOperandUncorrectable d e a h shared s
  | .drain d e a => Sys2Proof.Machine.execDrain d e a s
  | .epilogueRow d e a => Sys2Proof.Machine.execEpilogueRow d e a s
  | .mpdComplete d e a => Sys2Proof.Machine.execMpdComplete d e a s
  | .emptyMpd d e a => Sys2Proof.Machine.execEmptyMpd d e a s
  | .ballastPass d e a => Sys2Proof.Machine.execBallastPass d e a s
  | .multicastUnit d e lst => Sys2Proof.Machine.execMulticastUnit d e lst s
  | .seqMcastStall d e lst => Sys2Proof.Machine.execSeqMcastStall d e lst s
  | .reedFiring d r => Sys2Proof.Machine.execReedFiring d r s
  | .counterWrap d r c => Sys2Proof.Machine.execCounterWrap d r c s
  | .goToken d t => Sys2Proof.Machine.execGoToken d t s
  | .sel d t => Sys2Proof.Machine.execSel d t s
  | .br d t => Sys2Proof.Machine.execBr d t s
  | .endToken d t => Sys2Proof.Machine.execEndToken d t s
  | .phaseToken d t => Sys2Proof.Machine.execPhaseToken d t s
  | .doneToken d t => Sys2Proof.Machine.execDoneToken d t s
  | .streamRun d p => Sys2Proof.Machine.execStreamRun d p s
  | .streamRunEnd d p => Sys2Proof.Machine.execStreamRunEnd d p s
  | .fabStarve d r => Sys2Proof.Machine.execFabStarve d r s
  | .creditAudit d => Sys2Proof.Machine.execCreditAudit d s
  | .swap d => Sys2Proof.Machine.execSwap d s
  | .reactivation d => Sys2Proof.Machine.execReactivation d s
  | .stepStart d => Sys2Proof.Machine.execStepStart d s
  | .forwardPhase d => Sys2Proof.Machine.execForwardPhase d s
  | .backwardPhase d => Sys2Proof.Machine.execBackwardPhase d s
  | .issue d p => Sys2Proof.Machine.execIssue d p s
  | .extent d p => Sys2Proof.Machine.execExtent d p s
  | .go d p => Sys2Proof.Machine.execGo d p s
  | .word d p => Sys2Proof.Machine.execWord d p s
  | .wait d p => Sys2Proof.Machine.execWait d p s
  | .arm d p => Sys2Proof.Machine.execArm d p s
  | .send d p => Sys2Proof.Machine.execSend d p s
  | .recv d p => Sys2Proof.Machine.execRecv d p s
  | .doneLayer d p => Sys2Proof.Machine.execDoneLayer d p s
  | .endProgram d p => Sys2Proof.Machine.execEnd d p s
  | .nextComplete d => Sys2Proof.Machine.execNextComplete d s
  | .revert d => Sys2Proof.Machine.execRevert d s
  | .partialRow p => Sys2Proof.Machine.execPartialRow p s
  | .contributionComplete p => Sys2Proof.Machine.execContributionComplete p s
  | .delivery p => Sys2Proof.Machine.execDelivery p s
  | .statePrefetch p => Sys2Proof.Machine.execStatePrefetch p s
  | .chunkApply p => Sys2Proof.Machine.execChunkApply p s
  | .nextCompleteSend p => Sys2Proof.Machine.execNextCompleteSend p s
  | .segmentNotice p => Sys2Proof.Machine.execSegmentNotice p s
  | .poison p => Sys2Proof.Machine.execPoison p s
  | .release p => Sys2Proof.Machine.execRelease p s
  | .abandonNotice p => Sys2Proof.Machine.execAbandonNotice p s
  | .sealExchange m => Sys2Proof.Machine.execSealExchange m s
  | .divergenceRecovery p entry chunks rep => Sys2Proof.Machine.execDivergenceRecovery p entry chunks rep s
  | .exportFrame => Sys2Proof.Machine.execExportFrame s
  | .importFrame f => Sys2Proof.Machine.execImportFrame f s
  | .dataFlit code f => Sys2Proof.Machine.execDataFlit code f s
  | .nakFlit code h => Sys2Proof.Machine.execNakFlit code h s
  | .ackTimeout code => Sys2Proof.Machine.execAckTimeout code s
  | .lnkLaneRetired code uncorr => Sys2Proof.Machine.execLnkLaneRetired code uncorr s
  | .laneMarginLimit code lane => Sys2Proof.Machine.execLaneMarginLimit code lane s
  | .lockLoss code => Sys2Proof.Machine.execLockLoss code s
  | .fastRetrainEnd code ok => Sys2Proof.Machine.execFastRetrainEnd code ok s
  | .trainingEnd code r => Sys2Proof.Machine.execTrainingEnd code r s
  | .heartbeat code => Sys2Proof.Machine.execHeartbeat code s
  | .lnkPartition code => Sys2Proof.Machine.execLnkPartition code s
  | .collectiveData code => Sys2Proof.Machine.execCollectiveData code s
  | .windowCredit num gather alongY n => Sys2Proof.Machine.execWindowCredit num gather alongY n s
  | .collectiveAbort code => Sys2Proof.Machine.execCollectiveAbort code s
  | .colTimeout t => Sys2Proof.Machine.execColTimeout t s
  | .conduitNotice code => Sys2Proof.Machine.execConduitNotice code s
  | .conduitData code dest => Sys2Proof.Machine.execConduitData code dest s
  | .bulkReadRequest code addr len => Sys2Proof.Machine.execBulkReadRequest code addr len s
  | .bulkData code addr => Sys2Proof.Machine.execBulkData code addr s
  | .kvOpen d => Sys2Proof.Machine.execOpen d s
  | .kvFork d => Sys2Proof.Machine.execFork d s
  | .kvAppend d => Sys2Proof.Machine.execAppend d s
  | .kvFree d => Sys2Proof.Machine.execFree d s
  | .kvAdvance d => Sys2Proof.Machine.execAdvance d s
  | .readerClose d p => Sys2Proof.Machine.execReaderClose d p s
  | .manifest gen passes spans => Sys2Proof.Machine.execManifest gen passes spans s
  | .containerDemux gen span r place => Sys2Proof.Machine.execContainerDemux gen span r place s
  | .streamContextOpen dec gen span buffers => Sys2Proof.Machine.execStreamContextOpen dec gen span buffers s
  | .pictureDecode dec gen span pic => Sys2Proof.Machine.execPictureDecode dec gen span pic s
  | .fragment gen span ended p slot => Sys2Proof.Machine.execFragment gen span ended p slot s
  | .generationPublish gen => Sys2Proof.Machine.execGenerationPublish gen s
  | .generationRetire gen => Sys2Proof.Machine.execGenerationRetire gen s
  | .ingestQueueEntry => Sys2Proof.Machine.execIngestQueueEntry s
  | .ingestRun d p => Sys2Proof.Machine.execIngestRun d p s
  | .spanSubmit edge x r => Sys2Proof.Machine.execSpanSubmit edge x r s
  | .ingCipViolation edge addr op => Sys2Proof.Machine.execIngCipViolation edge addr op s
  | .sealLoopChange closed => Sys2Proof.Machine.execSealLoopChange closed s
  | .src v => Sys2Proof.Machine.execSrc v s
  | .idleFlit code h => Sys2Proof.Machine.execIdleFlit code h s

end Sys2Proof.Machine
end

