-- ==== Sys2Proof/Safety.lean ====
section
/-! DEFINITION. What a safe run is, in the terms that claims use: a step that answers a next state, the canonical form of memory and of
the register tables, and the bounds that the spec sets on the queues of the control side (R370, R420, R421). -/

namespace Sys2Proof.Machine

/-- A step from the state answers a next state: it ends in no fault and no refusal. -/
abbrev State.stepSafe (s : State) : Prop := ∃ t, step s = .next t

/-- Memory holds at most one entry for an address, in rising order, and none that reads as an unlisted byte does (log entry 9). -/
def Memory.wf (m : Tbl Byte) : Bool := m.wf (0#8)

/-- Memory and the poison marks of its granules are in their canonical form. -/
abbrev State.memOk (s : State) : Prop := Memory.wf s.mem = true ∧ s.poison.wf false = true

/-- The tables of one fabric: its reeds with their counters, its stream ports and its queues. -/
abbrev FabDie.ordered (f : FabDie) : Prop :=
  f.reeds.ordered ∧ f.ports.ordered ∧ f.queues.ordered ∧ ∀ c ∈ f.reeds.cells, c.2.cnts.ordered

/-- The tables of one Chanter. -/
abbrev ChDie.ordered (c : ChDie) : Prop :=
  c.units.ordered ∧ c.done.ordered ∧ c.released.ordered ∧ c.swapped.ordered ∧ c.nextFrom.ordered ∧ c.cur.ordered ∧
    c.ringUsed.ordered ∧ c.ringNext.ordered

/-- Every table of the state, those of its control blocks that statements read, the arrays and drains of every engine, and the tables of
every fabric, Chanter and KV unit, list their keys in strictly rising order. -/
abbrev State.tablesOk (s : State) : Prop :=
  s.dom.ordered ∧ s.rw.ordered ∧ s.shAct.ordered ∧ s.shNew.ordered ∧ s.cnt.ordered ∧ s.mbx.ordered ∧ s.mem.ordered ∧
    s.poison.ordered ∧ s.eng.ordered ∧ s.img.ordered ∧ s.fab.ordered ∧ s.ch.ordered ∧ s.prf.ordered ∧ s.kv.ordered ∧
    s.subs.ordered ∧ s.ports.ordered ∧ s.evt.queues.ordered ∧ s.evt.seqs.ordered ∧
    s.cad.replicas.ordered ∧ s.hlt.temps.ordered ∧ s.mt.tempBand.ordered ∧ s.mt.raised.ordered ∧ s.mt.harts.ordered ∧
    s.col.conduits.ordered ∧ s.ing.head.ordered ∧ s.ing.portSeq.ordered ∧ s.ing.decoders.ordered ∧
    (∀ c ∈ s.eng.cells, c.2.arrays.ordered ∧ c.2.drains.ordered) ∧
    (∀ c ∈ s.fab.cells, c.2.ordered) ∧ (∀ c ∈ s.ch.cells, c.2.ordered) ∧
    ∀ c ∈ s.kv.cells, c.2.seqs.ordered ∧ c.2.pages.ordered

/-- The bounds of the control side: 64 stored responses (R370), 4,096 records in the ring (R421), a consumer never past the ring's end, and
levels of 0 to 15 (R354). -/
abbrev State.boundsOk (s : State) : Prop :=
  s.ctl.stored.length ≤ 64 ∧ s.evt.ring.length ≤ 4096 ∧ s.evt.portTaken ≤ s.evt.ring.length ∧
    s.evt.hostTaken ≤ s.evt.ring.length ∧ s.bel.throttle ≤ 15 ∧ s.bel.ballast ≤ 15

/-- A command of opcode `op` under header `h` is executed in this state: the package takes commands, the tag is a new one and is not 0,
the reserved bits are 0, the opcode is legal, presence admits it and no long command makes it wait (R370, R378, R379, R381, R389). -/
def State.accepts (s : State) (h : Hdr) (op : Nat) (isSealed : Bool := false) : Bool :=
  s.takesCommands && decide (h.tag ≠ 0) && (s.ctl.stored.find? fun r => r.tag = h.tag.toNat).isNone &&
    decide (h.resv = 0) && knownOpcode op && !s.busy op isSealed &&
    match legalIn op s.ctl.state with
    | .no => false
    | .yes => true
    | .sealed => isSealed
    | .presence => decide (s.presenceCause op = 0)

/-- The state in which an accepted command is executed: its message has left the queue and CTL_CMDS has counted it (R370). -/
def State.begun (s : State) (h : Hdr) : State := (s.takeRx 0 h.tag.toNat).count (regAddr Page.global 0x40) 1

/-- `t` differs from `s` at most in the control block, the event block and the counters: every other register, table and memory byte is
as before. -/
abbrev State.onlyControl (s t : State) : Prop := t = { s with ctl := t.ctl, evt := t.evt, cnt := t.cnt }

/-- A command has been answered and has done nothing else: beside the event block and the counters, at most the stored responses, the messages
that await execution and what has been sent differ. -/
abbrev State.onlyAnswered (s t : State) : Prop :=
  t = { s with
    ctl := { s.ctl with msgs := t.ctl.msgs, stored := t.ctl.stored, out := t.ctl.out, wire := t.ctl.wire, txSeq := t.ctl.txSeq }
    evt := t.evt, cnt := t.cnt }

/-- The commands that are acts of units whose clocks stop in a brown-out (R360; log entry 126). -/
def Instr.needsClock : Sys2Proof.Instr → Bool
  | .eventHostCopy | .patrolScrub .. | .memoryAccess .. | .holdLimitExpiry .. | .mpdAccept .. | .descriptorRecord .. | .tileFetch ..
  | .preload .. | .shadowLoadDone .. | .passStart .. | .passAccept .. | .checkFailure .. | .overflow .. | .rung3Move ..
  | .engOperandUncorrectable .. | .drain .. | .epilogueRow .. | .mpdComplete .. | .emptyMpd .. | .ballastPass .. | .multicastUnit ..
  | .seqMcastStall .. | .reedFiring .. | .counterWrap .. | .goToken .. | .sel .. | .br .. | .endToken .. | .phaseToken ..
  | .doneToken .. | .streamRun .. | .streamRunEnd .. | .fabStarve .. | .creditAudit .. | .swap .. | .reactivation .. | .send ..
  | .nextComplete .. | .partialRow .. | .contributionComplete .. | .delivery .. | .statePrefetch .. | .chunkApply .. | .nextCompleteSend ..
  | .segmentNotice .. | .poison .. | .release .. | .abandonNotice .. | .exportFrame | .importFrame .. | .dataFlit .. | .nakFlit ..
  | .ackTimeout .. | .lnkLaneRetired .. | .laneMarginLimit .. | .lockLoss .. | .fastRetrainEnd .. | .trainingEnd .. | .heartbeat ..
  | .lnkPartition .. | .collectiveData .. | .windowCredit .. | .collectiveAbort .. | .colTimeout .. | .conduitNotice ..
  | .conduitData .. | .bulkReadRequest .. | .bulkData .. | .kvOpen .. | .kvFork .. | .kvAppend .. | .kvFree .. | .kvAdvance ..
  | .readerClose .. | .ingestQueueEntry | .ingestRun .. | .idleFlit .. => true
  | _ => false

/-- `t` differs from `s` at most in engine `e` of die `d`, the event block and the counters. -/
abbrev State.onlyEngine (s t : State) (d e : Nat) : Prop :=
  t = { s with eng := t.eng, evt := t.evt, cnt := t.cnt } ∧
    ∀ k, k ≠ 36 * d + e → t.eng.get Engine.reset k = s.eng.get Engine.reset k

/-- The phase program `p` of die `d` stands at an operation of code `code` that may be carried out: the Chanter may issue, the program
does not wait for an engine, and its micro-batch is not held (R178, R198). -/
abbrev State.atOp (s : State) (d : Nat) (p : Phase) (r : PhaseRun) (code : Nat) : Prop :=
  (s.chD d).phase p = some r ∧ s.mayIssue d = true ∧ r.waiting = false ∧ opOf (s.opAt d (s.activeOf d) r.pc) = code ∧
    (p = .start ∨ (s.chD d).isHeld (urMb ((s.chD d).unit r.unit).info) = false)

/-- In `t` the phase program `p` of die `d`, which stood at `r`, has moved past its operation. -/
abbrev State.pastOp (t : State) (d : Nat) (p : Phase) (r : PhaseRun) : Prop := (t.chD d).phase p = some { r with pc := r.pc + 16 }

/-- The progress of a lane of the MPD at place `i` of an engine's queue. -/
def Engine.laneAt (x : Engine) (i lane : Nat) : Option LaneProg := (x.job? i).bind fun j => j.lane? lane

/-- The addresses that the next row of a draining tile may write: the header granule of its MPD's output, and the bytes of the row's elements
and scale codes (R97 to R99). -/
def State.epilogueWrites (s : State) (d e : Nat) (q : DrainTile) (b : Nat) : Bool :=
  let m := q.mpd
  let w := m.words
  let s0 := s.putHeader d e m.seq q.lane
  let out := m.td (laneSlot q.lane (mpdOutTd w))
  let bits := (s0.levView d (tdLeaven out)).engine.fmt.bits
  let c0 := outCoord w q.tile.b q.tile.h (mpdMOrg w + (q.tile.m * mpdMch w + q.next)) (colBase m (s0.loops m q.lane) q.lane q.tile.n)
  ((s.engD d e).queue.any fun j =>
    let t := j.mpd.td (laneSlot (if mpdShape j.mpd.words = .t2 then 0 else q.lane) (mpdOutTd j.mpd.words))
    j.mpd.seq = m.seq && decide (tdBase t ≤ b ∧ b < tdBase t + 64)) ||
  (List.range (q.tile.rows.getD q.next []).length).any fun c =>
    let at_ := { c0 with d0 := c0.d0 + c }
    let off := tdBitOffset out bits at_
    decide (tdPlane out + off / 8 ≤ b ∧ b < tdPlane out + (off + bits + 7) / 8) || b = tdScaleAddr out bits at_

/-- The header and the opcode of a command of R379; an event and a message of another channel have none. -/
def Instr.cmd : Instr → Option (Hdr × Nat)
  | .attest h _ => some (h, 0x0001)
  | .readReg h _ _ => some (h, 0x0002)
  | .writeReg h _ _ => some (h, 0x0003)
  | .loadFw h _ _ _ => some (h, 0x0010)
  | .fwComplete h => some (h, 0x0011)
  | .loadImage h _ _ _ _ => some (h, 0x0012)
  | .activate h _ => some (h, 0x0013)
  | .swapRequest h _ => some (h, 0x0014)
  | .commitConfig h => some (h, 0x0015)
  | .reactivate h _ => some (h, 0x0016)
  | .run h => some (h, 0x0020)
  | .hold h => some (h, 0x0021)
  | .resume h => some (h, 0x0022)
  | .stop h => some (h, 0x0023)
  | .arrayRepair h _ => some (h, 0x0030)
  | .fabricFlush h _ => some (h, 0x0031)
  | .portRetrain h _ => some (h, 0x0032)
  | .cadReacquire h => some (h, 0x0033)
  | .ckptExport h _ => some (h, 0x0040)
  | .ckptImport h _ => some (h, 0x0041)
  | .ckptStop h => some (h, 0x0042)
  | .ledgerAck h _ => some (h, 0x0043)
  | .cap h _ _ => some (h, 0x0050)
  | .supplyHold h _ _ => some (h, 0x0050)
  | .shed h _ => some (h, 0x0050)
  | .freqDev h _ _ _ => some (h, 0x0050)
  | .cipEnable h => some (h, 0x0060)
  | .cipDisable h => some (h, 0x0061)
  | .maintEnter h => some (h, 0x0070)
  | .maintExit h => some (h, 0x0071)
  | .debugUnlock h => some (h, 0x0072)
  | .keysetRotate h _ _ _ => some (h, 0x0073)
  | .zeroise h _ => some (h, 0x0074)
  | .tamperClear h => some (h, 0x0075)
  | .floorRaise h _ => some (h, 0x0076)
  | .reset h _ => some (h, 0x0080)
  | .recoverLoad h _ _ _ => some (h, 0x0090)
  | .commandReservedOpcode h op => if knownOpcode op.toNat then none else some (h, op.toNat)
  | _ => none

/-- The newest response carries the command's tag, its opcode and a status, and it was the last message sent (R370, R381). -/
def State.responded (t : State) (h : Hdr) (op status : Nat) : Prop :=
  ∃ r : Resp, t.ctl.stored.head? = some r ∧ t.ctl.out.getLast? = some (.resp r) ∧
    r.tag = h.tag.toNat ∧ r.opcode = op ∧ r.status = status

/-- `t` follows `s` by one step. -/
abbrev State.StepsTo (s t : State) : Prop := step s = .next t

end Sys2Proof.Machine
end

