-- ==== Sys2Proof/WellFormed.lean ====
section
/-! DEFINITION. Which commands the interfaces of the package can carry: operands that their message, flit, frame or field has room for
(R4, R278, R321, R345, R368, R370, R426). The machine is total on every command; a test or a claim may ask for a well-formed one. -/

namespace Sys2Proof

/-- A number that a field of `w` bits can hold. -/
def fits (w n : Nat) : Bool := decide (n < 2 ^ w)

/-- The largest payload of a control message (R368). -/
abbrev maxMessage : Nat := 573440
/-- The largest chunk of a command that loads bytes (R379). -/
abbrev maxChunk : Nat := 524288

/-- Bytes that one message carries beside its words (R368). -/
def bytesOk (words : Nat) (bs : List Byte) : Bool := decide (4 * words + bs.length ≤ maxMessage)

/-- A list of values of `w` bits that one message carries. -/
def valsOk (w : Nat) (xs : List Nat) : Bool := xs.all (fits w) && decide (4 * xs.length ≤ maxMessage)

/-- A plane has a sample at every position, and no sample is wider than the 12 bits of R295. -/
def Plane.wf (p : Plane) : Bool :=
  decide (p.samples.length = p.width * p.height) && p.samples.all (fits 12)

/-- A memory access names a byte of the 46-bit address map, that of a host core one of 64 virtual bits, and asks for at least one byte or
brings one (R278, R284). -/
def MemOp.wf (bits addr : Nat) (op : MemOp) : Bool := fits bits addr && decide (0 < op.len)

/-- The PMP entries that a hart's registers can hold (R303): 8 bits of configuration, 54 of address. -/
def Hart.wf (h : Hart) : Bool := h.pmp.all fun e => fits 8 e.cfg && fits 54 e.addr

/-- One field of a self-test result: no row or column is named twice (R73). -/
def SelfTest.wf (t : SelfTest) : Bool := decide t.rows.Nodup && decide t.cols.Nodup

/-- A span names a crop rectangle and a target grid that are not empty (R306, R314). -/
def Span.wf (x : Span) : Bool :=
  decide (0 < x.cropW) && decide (0 < x.cropH) && decide (0 < x.gridH) && decide (0 < x.gridW)

/-- The boot sequence reads at most one outcome for each port code. -/
def trainedOk (t : List (PortCode × TrainResult)) : Bool := decide (t.map (·.1)).Nodup

/-- A DATA flit carries 247 B of payload (R321). -/
def Flit.wf (f : Flit) : Bool := decide (f.payload.length = 247)

/-- A segment is a 24-byte header and at most 8,960 B of payload (R368). -/
def Frame.wf (f : Frame) : Bool := decide (f.hdr.length = 6) && decide (f.payload.length ≤ 8960)

/-- What the surroundings bring to a boot sequence: each port code trains once. -/
def BootInput.wf (b : BootInput) : Bool := trainedOk b.trained

/-- A command that its interface can carry. -/
def Instr.wf : Instr → Bool
  | .attest _ nonce => bytesOk 1 nonce
  | .readReg _ _ count => fits 32 count
  | .writeReg _ _ vals => decide (8 + 4 * vals.length ≤ maxMessage)
  | .loadFw _ comp off bytes => fits 32 comp && fits 32 off && bytesOk 3 bytes
  | .loadImage _ _ off bytes _ => fits 32 off && bytesOk 3 bytes
  | .arrayRepair _ arrays => valsOk 32 arrays
  | .arrayRepairDone results => results.all SelfTest.wf && decide (results.map (·.array)).Nodup
  | .portRetrain _ codes => valsOk 32 codes
  | .keysetRotate _ digest sigRsa sigSlh => bytesOk 1 (digest ++ sigRsa ++ sigSlh)
  | .reset _ b => b.wf
  | .recoverLoad _ _ bytes _ => bytesOk 3 bytes
  | .recoverVerifyDone trained => trainedOk trained
  | .segment f => f.wf
  | .ingest off bytes dest consumed => fits 64 off && decide (bytes.length ≤ maxMessage) && fits 46 dest && fits 64 consumed
  | .eventChannelSend n => decide (0 < n)
  | .resetNDeassert b => b.wf
  | .brownoutRecovery b => b.wf
  | .tempWarn _ c => fits 8 c
  | .tempLimit _ c => fits 8 c
  | .hltThermtrip _ c => fits 8 c
  | .memRefreshBand _ c => fits 8 c
  | .tick _ margins => margins.all fun m => fits 8 m.2.2
  | .sync domain sender seq _ _ => fits 8 domain && fits 64 sender && fits 16 seq
  | .followUp domain sender seq _ _ => fits 8 domain && fits 64 sender && fits 16 seq
  | .delayResp domain sender _ _ => fits 8 domain && fits 64 sender
  | .cadLost named => named.all (fits 48)
  | .relock _ named _ => fits 48 named
  | .rotation images => decide (images.map (·.1)).Nodup
  | .patrolScrub _ finds => finds.all fun f => fits 46 f.addr
  | .memoryAccess u addr op _ _ _ => op.wf (match u.unit with | .hostCore _ _ => 64 | _ => 46) addr && u.hart.wf
  | .ingCipViolation _ addr op => op.wf 46 addr
  | .dataFlit _ f => f.wf
  | .bulkReadRequest _ _ len => decide (0 < len)
  | .manifest _ passes spans => decide (1 ≤ passes) && decide (passes ≤ 16) && spans.all Span.wf
  | .streamContextOpen _ _ _ buffers => buffers.all (fits 46)
  | .pictureDecode _ _ _ pic => pic.luma.wf && pic.cb.wf && pic.cr.wf
  | .spanSubmit _ x _ => x.wf
  | .bellowsLoop rails => decide (rails.map (·.1)).Nodup
  | .ringOscSample samples => decide (samples.map fun x => (x.1, x.2.1)).Nodup
  | .fwComplete _ | .fwCompleteDone | .activate _ _ | .swapRequest _ _ | .commitConfig _ | .reactivate _ _ | .run _ | .hold _
  | .resume _ | .stop _ | .fabricFlush _ _ | .cadReacquire _ | .ckptExport _ _ | .ckptImport _ _ | .ckptStop _ | .ledgerAck _ _
  | .cap _ _ _ | .supplyHold _ _ _ | .shed _ _ | .freqDev _ _ _ _ | .supplyMsgTick | .holdExpiry | .cipEnable _ | .cipDisable _
  | .maintEnter _ | .maintExit _ | .debugUnlock _ | .zeroise _ _ | .zeroiseDone | .tamperClear _ | .floorRaise _ _
  | .commandReservedOpcode _ _ | .credit _ _ _ | .nak _ _ _ | .ctlRamtorFailover | .ledgerSend | .eventAdmit _ | .eventHostCopy
  | .resetNAssert | .pwrGoodLoss | .supplyAlert | .pllSwitch | .supplyAlertRelease | .presenceNChange _ | .presence | .secTamper
  | .pwrBrownout _ | .droop _ | .droopEnd _ _ | .stepSeal | .announce _ | .syncTimeout | .cadenceEdge _ | .pulseInconsistent
  | .pulseConsistent | .pulseLoss | .locked | .pwrRampRelaxed | .mode _ | .reqOn _ _ | .domainRampDone _ | .hourlyTrend
  | .retentionCanary _ _ | .registerWrite _ _ | .mbxSel _ _ | .mailboxSnapshot _ | .quiesceReq _ _ | .enable _ _ | .leavenW0Write _ _
  | .drop _ | .abandon _ | .holdLimitExpiry _ | .mpdAccept _ _ | .descriptorRecord _ _ | .tileFetch _ _ _ _ | .preload _ _ _ _
  | .shadowLoadDone _ _ _ _ | .passStart _ _ _ _ | .passAccept _ _ _ _ | .checkFailure _ _ _ _ _ _ | .overflow _ _ _ _
  | .rung3Move _ _ _ _ | .engOperandUncorrectable _ _ _ _ _ | .drain _ _ _ | .epilogueRow _ _ _ | .mpdComplete _ _ _
  | .emptyMpd _ _ _ | .ballastPass _ _ _ | .multicastUnit _ _ _ | .seqMcastStall _ _ _ | .reedFiring _ _ | .counterWrap _ _ _
  | .goToken _ _ | .sel _ _ | .br _ _ | .endToken _ _ | .phaseToken _ _ | .doneToken _ _ | .streamRun _ _ | .streamRunEnd _ _
  | .fabStarve _ _ | .creditAudit _ | .swap _ | .reactivation _ | .stepStart _ | .forwardPhase _ | .backwardPhase _ | .issue _ _
  | .extent _ _ | .go _ _ | .word _ _ | .wait _ _ | .arm _ _ | .send _ _ | .recv _ _ | .doneLayer _ _ | .endProgram _ _
  | .nextComplete _ | .revert _ | .partialRow _ | .contributionComplete _ | .delivery _ | .statePrefetch _ | .chunkApply _
  | .nextCompleteSend _ | .segmentNotice _ | .poison _ | .release _ | .abandonNotice _ | .sealExchange _
  | .divergenceRecovery _ _ _ _ | .exportFrame | .importFrame _ | .nakFlit _ _ | .ackTimeout _ | .lnkLaneRetired _ _
  | .laneMarginLimit _ _ | .lockLoss _ | .fastRetrainEnd _ _ | .trainingEnd _ _ | .heartbeat _ | .lnkPartition _
  | .collectiveData _ | .windowCredit _ _ _ _ | .collectiveAbort _ | .colTimeout _ | .conduitNotice _ | .conduitData _ _
  | .bulkData _ _ | .kvOpen _ | .kvFork _ | .kvAppend _ | .kvFree _ | .kvAdvance _ | .readerClose _ _ | .containerDemux _ _ _ _
  | .fragment _ _ _ _ _ | .generationPublish _ | .generationRetire _ | .ingestQueueEntry
  | .ingestRun _ _ | .sealLoopChange _ | .src _ | .idleFlit _ _ => true

end Sys2Proof
end

