-- ==== Sys2Proof/Certificates/Slice0/Obligations.lean ====
section
/-! DEFINITION. The statements of this model for the provers. -/

open Sys2Proof Sys2Proof.Machine

/-- A step runs the command at the front of the queue (R370, R377). -/
def Obligations.StepRunsTheFront : Prop :=
  (∀ (c : Instr) (rest : List Instr) (s : State),
    step { s with pending := c :: rest } = exec c { s with pending := rest }) ∧
  (∀ s : State, s.pending = [] → step s = .next s)

/-- The state after reset meets the invariants that every step keeps (R370, R407, R421). -/
def Obligations.ResetMeetsTheInvariants : Prop :=
  State.reset.memOk ∧ State.reset.tablesOk ∧ State.reset.boundsOk

/-- Every command answers a next state from every state, and leaves the commands that wait in the queue as they are (R370, R375). -/
def Obligations.EveryCommandCompletes : Prop :=
  ∀ (c : Instr) (s : State), ∃ t, exec c s = .next t ∧ t.pending = s.pending

/-- Every step keeps memory and its poison marks in canonical form (R278, R280, R286). -/
def Obligations.MemoryStaysCanonical : Prop :=
  ∀ s t : State, s.memOk → step s = .next t → t.memOk

/-- Every step keeps every table of the state in strictly rising order of its keys (R407, R399, R412). -/
def Obligations.TablesStayOrdered : Prop :=
  ∀ s t : State, s.tablesOk → step s = .next t → t.tablesOk

/-- Every step keeps the response store, the event ring and the Bellows levels within their bounds (R354, R370, R421). -/
def Obligations.StoresStayBounded : Prop :=
  ∀ s t : State, s.boundsOk → step s = .next t → t.boundsOk

/-- No step lowers the rollback floor, TAMPER_CLEARS, THERMTRIPS or the hours of operation, or frees a key-set slot (R386, R387, R391,
R430). -/
def Obligations.FloorAndClearsNeverFall : Prop :=
  ∀ s t : State, step s = .next t →
    s.fuse.floor ≤ t.fuse.floor ∧ s.fuse.tamperClears ≤ t.fuse.tamperClears ∧ s.fuse.thermtrips ≤ t.fuse.thermtrips ∧
      s.fuse.hours ≤ t.fuse.hours ∧ s.fuse.keySlots <+: t.fuse.keySlots ∧ t.fuse.deviceId = s.fuse.deviceId

/-- Only TAMPER_CLEAR clears TAMPER (R391). -/
def Obligations.TamperClearsOnlyByCommand : Prop :=
  ∀ (c : Instr) (rest : List Instr) (s t : State), (∀ h, c ≠ .tamperClear h) → s.pending = c :: rest → s.fuse.tamper = true →
    step s = .next t → t.fuse.tamper = true

/-- A command whose tag matches a stored response is not executed: it is answered with that response and counted in DUP_CMDS (R370). -/
def Obligations.RepeatedTagIsNotExecuted : Prop :=
  ∀ (c : Instr) (h : Hdr) (op : Nat) (s : State) (r : Resp), Instr.cmd c = some (h, op) → s.takesCommands = true → h.tag ≠ 0 →
    s.ctl.stored.find? (fun x => x.tag = h.tag.toNat) = some r →
    exec c s = .next { s with
      ctl := Ctl.put { s.ctl with msgs := eraseFirst (fun m => m.ch = 0 && m.tag = h.tag.toNat) s.ctl.msgs } (.resp r)
      cnt := s.cnt.upd 0 (regAddr Page.global 0x4C) (· + 1) }

/-- A well-formed command that is not legal in the present state is answered STATE_REFUSED with no side effect (R378, R379). -/
def Obligations.IllegalStateIsRefused : Prop :=
  ∀ (c : Instr) (h : Hdr) (op : Nat) (s : State), Instr.cmd c = some (h, op) → s.takesCommands = true → h.tag ≠ 0 → h.resv = 0 →
    s.ctl.stored.find? (fun x => x.tag = h.tag.toNat) = none → knownOpcode op = true → legalIn op s.ctl.state = .no → s.tablesOk →
    ∃ t, exec c s = .next t ∧ t.responded h op stRefused ∧ s.onlyAnswered t ∧ t.cntAt (regAddr Page.global 0x44) = s.cntAt (regAddr Page.global 0x44) + 1 ∧
      ∀ a, a ≠ regAddr Page.global 0x44 → a / 65536 ≠ Page.event → t.cntAt a = s.cntAt a

/-- A command marked P without presence, or while TAMPER is set, is answered PRESENCE_ABSENT and has no other effect (R389, R390). -/
def Obligations.PresenceIsDemanded : Prop :=
  ∀ (c : Instr) (h : Hdr) (op : Nat) (s : State), Instr.cmd c = some (h, op) → s.takesCommands = true → h.tag ≠ 0 → h.resv = 0 →
    s.ctl.stored.find? (fun x => x.tag = h.tag.toNat) = none → legalIn op s.ctl.state = .presence → s.presenceCause op ≠ 0 →
    ∃ t, exec c s = .next t ∧ t.responded h op stPresence ∧ s.onlyAnswered t ∧
      t.ctl.stored.head?.map (·.cause) = some (if s.fuse.tamper = true ∧ op ≠ 0x0070 ∧ op ≠ 0x0075 then 2 else 1)

/-- A long command whose opcode runs already is answered CMD_INVALID, cause 3, and the one that runs is not disturbed (R381). -/
def Obligations.BusyLongCommand : Prop :=
  ∀ (c : Instr) (h : Hdr) (op : Nat) (s : State), Instr.cmd c = some (h, op) → s.takesCommands = true → h.tag ≠ 0 → h.resv = 0 →
    s.ctl.stored.find? (fun x => x.tag = h.tag.toNat) = none → s.cad.state = .locked → s.busy op false = true → s.isSealed = false →
    (op = 0x0020 → s.runTrial.isSealed = false) →
    (legalIn op s.ctl.state = .yes ∨ (legalIn op s.ctl.state = .presence ∧ s.presenceCause op = 0)) →
    ∃ t, exec c s = .next t ∧ t.responded h op stInvalid ∧ s.onlyAnswered t ∧
      t.ctl.stored.head?.map (·.cause) = some 3

/-- A reserved opcode or a reserved bit is answered CMD_INVALID, cause 1 (R372, R379, R381). -/
def Obligations.ReservedOpcode : Prop :=
  (∀ (h : Hdr) (op : BitVec 16) (s : State), knownOpcode op.toNat = false → s.takesCommands = true → h.tag ≠ 0 →
    s.ctl.stored.find? (fun x => x.tag = h.tag.toNat) = none →
    ∃ t, exec (.commandReservedOpcode h op) s = .next t ∧ t.responded h op.toNat stInvalid ∧ s.onlyAnswered t ∧
      t.ctl.stored.head?.map (·.cause) = some 1) ∧
  (∀ (c : Instr) (h : Hdr) (op : Nat) (s : State), Instr.cmd c = some (h, op) → s.takesCommands = true → h.tag ≠ 0 → h.resv ≠ 0 →
    s.ctl.stored.find? (fun x => x.tag = h.tag.toNat) = none →
    ∃ t, exec c s = .next t ∧ t.responded h op stInvalid ∧ s.onlyAnswered t ∧ t.ctl.stored.head?.map (·.cause) = some 1)

/-- HOLD, STOP, RUN, RESUME, MAINT_ENTER, MAINT_EXIT and COMMIT_CONFIG change the device state as R376 says (R376, R380). -/
def Obligations.DeviceStateCommands : Prop :=
  (∀ h s, s.accepts h 0x0021 = true → ∃ t, exec (.hold h) s = .next t ∧ t.responded h 0x0021 stOk ∧ s.onlyControl t ∧
    t.ctl.holdPending = true ∧ t.ctl.state = s.ctl.state) ∧
  (∀ h s, s.accepts h 0x0023 = true → ∃ t, exec (.stop h) s = .next t ∧ t.responded h 0x0023 stOk ∧ s.onlyControl t ∧
    t.ctl.state = .ready) ∧
  (∀ h s, s.accepts h 0x0020 = true → s.cad.state = .locked → (s.begun h).runChecks = true →
    ∃ t, exec (.run h) s = .next t ∧ t.responded h 0x0020 stOk ∧ t.ctl.state = .running ∧ t.ctl.stepDue = 2 ∧ t.mem = s.mem ∧
      t.fuse = s.fuse) ∧
  (∀ h (s : State), s.tablesOk → s.accepts h 0x0022 = true → s.cad.state = .locked → (s.begun h).runFit = true →
    ∃ t, exec (.resume h) s = .next t ∧ t.responded h 0x0022 stOk ∧ t.ctl.state = .running ∧ t.ctl.stepDue ≠ 0 ∧
      (∀ a, t.shAt a = if a / 65536 = Page.bellows then s.shadowAt a else s.shAt a) ∧
      t = { s with ctl := t.ctl, evt := t.evt, cnt := t.cnt, shAct := t.shAct, shNew := t.shNew, bel := { s.bel with lim := s.bel.draw } }) ∧
  (∀ h s, s.accepts h 0x0022 = true → s.cad.state = .locked → (s.begun h).runFit = false →
    ∃ t, exec (.resume h) s = .next t ∧ t.responded h 0x0022 stInvalid ∧ s.onlyControl t ∧ t.ctl.state = s.ctl.state) ∧
  (∀ h s, s.accepts h 0x0070 = true → ∃ t, exec (.maintEnter h) s = .next t ∧ t.responded h 0x0070 stOk ∧ s.onlyControl t ∧
    t.ctl.state = .maint ∧ t.ctl.maintFrom = s.ctl.state) ∧
  (∀ h s, s.accepts h 0x0071 = true → ∃ t, exec (.maintExit h) s = .next t ∧ t.responded h 0x0071 stOk ∧
    t.ctl.state = (if s.ctl.zeroised then .staged else s.ctl.maintFrom) ∧ t.fuse = s.fuse ∧ t.ctl.zeroised = false) ∧
  (∀ h s, s.accepts h 0x0015 = true → dies.all (fun d => (s.fabD d).placed) = true →
    proofers.all (fun p => !((s.begun h).entryPrf.tableBad p ((s.begun h).entryPrf.ownerMode p)
      ((s.begun h).entryPrf.sealedCommit p))) = true →
    ∃ t, exec (.commitConfig h) s = .next t ∧ t.responded h 0x0015 stOk ∧ s.onlyControl t ∧ t.ctl.state = .ready)

/-- RUN and RESUME are STATE_REFUSED while the cadence unit is not LOCKED (R348, R380). -/
def Obligations.RunNeedsTheCadence : Prop :=
  (∀ h s, s.accepts h 0x0020 = true → s.cad.state ≠ .locked → ∃ t, exec (.run h) s = .next t ∧ t.responded h 0x0020 stRefused ∧
    s.onlyAnswered t) ∧
  (∀ h s, s.accepts h 0x0022 = true → s.cad.state ≠ .locked → ∃ t, exec (.resume h) s = .next t ∧
    t.responded h 0x0022 stRefused ∧ s.onlyAnswered t)

/-- DEBUG_UNLOCK, KEYSET_ROTATE, TAMPER_CLEAR and FLOOR_RAISE do what the security rules say (R386, R387, R391, R393). -/
def Obligations.SecurityCommands : Prop :=
  (∀ h s, s.accepts h 0x0072 = true → ∃ t, exec (.debugUnlock h) s = .next t ∧ t.responded h 0x0072 stOk ∧ s.onlyControl t ∧
    t.ctl.debugSeen = true) ∧
  (∀ h s digest sr ss, s.accepts h 0x0073 = true → digest.length = 48 → s.fuse.keySlots.length < 4 →
    let m := rotateMessage digest s.fuse.deviceId s.fuse.keySlots.length
    ∃ t, exec (.keysetRotate h digest sr ss) s = .next t ∧
      if rsaVerify s.ctl.keyRsa m sr = true ∧ slhVerify s.ctl.keySlh m ss = true then
        t.responded h 0x0073 stOk ∧
          t = { s with ctl := t.ctl, evt := t.evt, cnt := t.cnt, fuse := { s.fuse with keySlots := s.fuse.keySlots ++ [digest] } }
      else t.responded h 0x0073 stSigFail ∧ s.onlyControl t) ∧
  (∀ h s, s.accepts h 0x0075 = true → ∃ t, exec (.tamperClear h) s = .next t ∧ t.responded h 0x0075 stOk ∧
    t = { s with ctl := t.ctl, evt := t.evt, cnt := t.cnt,
                 fuse := { s.fuse with tamper := false, tamperClears := s.fuse.tamperClears + 1 } }) ∧
  (∀ h s (f : Word), s.accepts h 0x0076 = true → s.fuse.floor < f.toNat → f.toNat ≤ 64 →
    s.ctl.running.all (fun c => decide (f.toNat ≤ c.svn)) = true →
    ∃ t, exec (.floorRaise h f) s = .next t ∧ t.responded h 0x0076 stOk ∧
      t = { s with ctl := t.ctl, evt := t.evt, cnt := t.cnt, fuse := { s.fuse with floor := f.toNat } }) ∧
  (∀ h s (f : Word), s.accepts h 0x0076 = true →
    (f.toNat ≤ s.fuse.floor ∨ 64 < f.toNat ∨ s.ctl.running.any (fun c => decide (c.svn < f.toNat)) = true) →
    ∃ t, exec (.floorRaise h f) s = .next t ∧ t.responded h 0x0076 stInvalid ∧ s.onlyControl t ∧
      t.ctl.stored.head?.map (·.cause) = some 5)

/-- ZEROISE sets ZEROISE_PENDING and starts; at its end the granules it covers read 0 and ZEROISE_PENDING is clear (R392). -/
def Obligations.Zeroisation : Prop :=
  (∀ h s (a : Word), s.accepts h 0x0074 = true → a.toNat ≤ 1 → ∃ t, exec (.zeroise h a) s = .next t ∧
    t.responded h 0x0074 stStarted ∧ t.fuse.zeroPending = true ∧ t.mem = s.mem ∧ t.longRuns 0x0074 = true) ∧
  (∀ s l, s.memOk → s.ctl.long.find? (fun x => x.opcode = 0x0074) = some l → ∃ t, exec .zeroiseDone s = .next t ∧
    t.fuse = { s.fuse with zeroPending := false } ∧ t.longRuns 0x0074 = false ∧
    ∀ a, t.mem.get 0 a = if zeroCovers (decide (l.arg.headD 0 = 1)) a then 0#8 else s.mem.get 0 a)

/-- CIP_ENABLE and CIP_DISABLE open and close the customer ingest partition (R312, R313). -/
def Obligations.CustomerPartition : Prop :=
  (∀ h s, s.accepts h 0x0060 = true →
    ((s.begun h).applyShadow (· = hostReg 0x104)).cipCores ≤ 12 →
    ((s.begun h).applyShadow (· = hostReg 0x104)).cipBytes ≤ ((s.begun h).applyShadow (· = hostReg 0x104)).hostTotal 0 →
    ((s.begun h).applyShadow (· = hostReg 0x104)).cipBytes ≤ ((s.begun h).applyShadow (· = hostReg 0x104)).hostTotal 1 →
    ∃ t, exec (.cipEnable h) s = .next t ∧ t.responded h 0x0060 stOk ∧ t.ing.cipEn = true ∧ t.mem = s.mem ∧ t.fuse = s.fuse) ∧
  (∀ h s, s.accepts h 0x0061 = true → s.memOk → s.ing.cipEn = true →
    ∃ t, exec (.cipDisable h) s = .next t ∧ t.responded h 0x0061 stOk ∧ t.ing.cipEn = false ∧ t.fuse = s.fuse ∧
      (∀ k, t.mt.harts.get Hart.bare k = if 16 ≤ k % 16 + s.cipCores then Hart.bare else s.mt.harts.get Hart.bare k) ∧
      ∀ a, t.mem.get 0 a = if s.inWindow 0 a || s.inWindow 1 a then 0#8 else s.mem.get 0 a)

/-- READ_REG answers the words it names, lowest first; WRITE_REG writes its words in ascending order (R379, R402, R403). -/
def Obligations.RegisterCommands : Prop :=
  (∀ h s (a : Word) n, s.accepts h 0x0002 = true → regRangeOk a.toNat n = true →
    ∃ t, exec (.readReg h a n) s = .next t ∧ t.responded h 0x0002 stOk ∧ t = { s with ctl := t.ctl, cnt := t.cnt } ∧
      t.ctl.stored.head?.map (·.data) =
        some ((List.range n).flatMap fun i => leBytes 4 ((s.begun h).readReg (a.toNat + 4 * i)).toNat)) ∧
  (∀ h s (a : Word) vals, s.accepts h 0x0003 = true → regRangeOk a.toNat vals.length = true →
    ∃ t, exec (.writeReg h a vals) s = .next t ∧ t.responded h 0x0003 stOk ∧
      t = { vals.zipIdx.foldl (fun u p => u.writeReg (a.toNat + 4 * p.2) p.1) (s.begun h) with ctl := t.ctl }) ∧
  (∀ h s (a : Word) vals, s.accepts h 0x0003 = true → regRangeOk a.toNat vals.length = false →
    ∃ t, exec (.writeReg h a vals) s = .next t ∧ t.responded h 0x0003 stInvalid ∧ s.onlyControl t ∧
      t.ctl.stored.head?.map (·.cause) = some 2) ∧
  (∀ h s (a : Word) n, s.accepts h 0x0002 = true → regRangeOk a.toNat n = false →
    ∃ t, exec (.readReg h a n) s = .next t ∧ t.responded h 0x0002 stInvalid ∧ s.onlyControl t ∧
      t.ctl.stored.head?.map (·.cause) = some 2)

/-- ATTEST answers the report for a nonce of 32 bytes, signed with both identity keys (R394, R395). -/
def Obligations.AttestationReport : Prop :=
  (∀ h s nonce, s.accepts h 0x0001 = true → nonce.length = 32 →
    ∃ t, exec (.attest h nonce) s = .next t ∧ t.responded h 0x0001 stOk ∧ t = { s with ctl := t.ctl, cnt := t.cnt } ∧
      ∃ body : List Byte, body = (s.begun h).attestBody nonce ∧ body.length = 256 ∧ (body.drop 8).take 32 = nonce ∧
        t.ctl.stored.head?.map (·.data) =
          some (body ++ identitySign s.ctl.identity body)) ∧
  (∀ h s nonce, s.accepts h 0x0001 = true → nonce.length ≠ 32 →
    ∃ t, exec (.attest h nonce) s = .next t ∧ t.responded h 0x0001 stInvalid ∧ s.onlyControl t ∧
      t.ctl.stored.head?.map (·.cause) = some 2)

/-- LOAD_FW and FW_COMPLETE load the firmware: STAGED is entered only when every loaded component is accepted (R379, R382, R384). -/
def Obligations.FirmwareLoad : Prop :=
  (∀ h s comp off bytes, s.accepts h 0x0010 = true → 0 < comp → comp ≤ 255 → bytes.length ≤ 524288 → off < 2 ^ 32 →
    ∃ t, exec (.loadFw h comp off bytes) s = .next t ∧ t.responded h 0x0010 stOk ∧ s.onlyControl t ∧
      t.ctl.loadBuf = s.ctl.loadBuf.upd [] comp (fun b => overwrite b off bytes) ∧ t.ctl.state = s.ctl.state) ∧
  (∀ h s, s.accepts h 0x0011 = true → ∃ t, exec (.fwComplete h) s = .next t ∧ t.responded h 0x0011 stStarted ∧
    s.onlyControl t ∧ t.longRuns 0x0011 = true ∧ t.ctl.state = s.ctl.state) ∧
  (∀ s l, s.ctl.long.find? (fun x => x.opcode = 0x0011) = some l →
    s.ctl.loadBuf.cells.all (fun c => (fwAccept s.fuse.floor s.keySet c.1 c.2).isSome) = true →
    ∃ t, exec .fwCompleteDone s = .next t ∧ s.onlyControl t ∧ t.ctl.state = .staged ∧ t.longRuns 0x0011 = false ∧
      t.ctl.comps = s.ctl.loadBuf.cells.filterMap fun c => fwAccept s.fuse.floor s.keySet c.1 c.2) ∧
  (∀ s l, s.ctl.long.find? (fun x => x.opcode = 0x0011) = some l →
    s.ctl.loadBuf.cells.any (fun c => (fwAccept s.fuse.floor s.keySet c.1 c.2).isNone) = true → s.ctl.loadBuf.ordered →
    ∃ t, exec .fwCompleteDone s = .next t ∧ s.onlyControl t ∧ t.ctl.state = s.ctl.state ∧ t.longRuns 0x0011 = false ∧
      t.ctl.comps = s.ctl.comps ∧
      (∀ c, t.ctl.loadBuf.get [] c = if (fwAccept s.fuse.floor s.keySet c (s.ctl.loadBuf.get [] c)).isSome then s.ctl.loadBuf.get [] c else []) ∧
      ∀ r ∈ t.ctl.stored, r.tag = l.tag → r.status = stSigFail ∧ r.cause = 2)

/-- A component is accepted exactly when its header is well formed, both signatures verify, its digests hold and its SVN lies between the
floor and 64 (R383, R384). -/
def Obligations.ComponentAcceptance : Prop :=
  ∀ floor keySet comp bytes,
    ((fwAccept floor keySet comp bytes).isSome = true ↔
      leAt bytes 0 4 = 0x4642514E ∧ leAt bytes 4 2 = 1 ∧ leAt bytes 6 2 = comp ∧ 17408 + leAt bytes 12 4 ≤ bytes.length ∧
      (∀ b ∈ (bytes.drop 496).take 16, b = 0) ∧ (∀ b ∈ (bytes.drop 17120).take 288, b = 0) ∧
      rsaVerify ((bytes.drop 64).take 384) (bytes.take 512) ((bytes.drop 512).take 384) = true ∧
      slhVerify ((bytes.drop 448).take 48) (bytes.take 512) ((bytes.drop 896).take 16224) = true ∧
      sha384 ((bytes.drop 17408).take (leAt bytes 12 4)) = (bytes.drop 16).take 48 ∧
      sha384 ((bytes.drop 64).take 384 ++ [0, 1, 0, 1] ++ (bytes.drop 448).take 48) = keySet ∧
      floor ≤ leAt bytes 8 4 ∧ leAt bytes 8 4 ≤ 64) ∧
    ((fwAccept floor keySet comp bytes).map fun c => (c.number, c.svn)) =
      (if (fwAccept floor keySet comp bytes).isSome then some (comp, leAt bytes 8 4) else none)

/-- RESET_N, PWR_GOOD and RESET take the package to OFF and to BOOT, and BOOT goes on as R382 says (R375, R376, R382, R385, R421, R438). -/
def Obligations.BootAndOff : Prop :=
  (∀ s, ∃ t, exec .resetNAssert s = .next t ∧ t.ctl.state = .off ∧ t.pins.resetN = false ∧ t.pins.thermtripN = true ∧
    t.mem = .empty ∧ t.evt.ring = [] ∧ t.fuse = s.fuse) ∧
  (∀ s, ∃ t, exec .pwrGoodLoss s = .next t ∧ t.ctl.state = .off ∧ t.pins.pwrGood = false ∧ t.mem = .empty ∧ t.evt.ring = [] ∧
    t.fuse = s.fuse) ∧
  (∀ s b, s.ctl.state = .off → b.cool = false → ∃ t, exec (.resetNDeassert b) s = .next t ∧ t.ctl.state = .boot ∧
    t.ctl.bootStep = 0 ∧ t.pins.resetN = true ∧ t.fuse = s.fuse) ∧
  (∀ s b, s.ctl.state = .off → b.cool = true →
    let judge := fwAccept s.fuse.floor (s.fuse.keySlots.getD (s.fuse.keySlots.length - 1) []) 0
    ∃ t, exec (.resetNDeassert b) s = .next t ∧
      match judge b.primary, judge b.alternate with
      | none, none => t.ctl.state = .safe ∧ t.fuse = s.fuse
      | some c, _ => t.ctl.state = .boot ∧ t.ctl.bootStep = 5 ∧ t.ctl.firstStage = some c ∧
          t.fuse = { s.fuse with softMaps := t.fuse.softMaps, zeroPending := false }
      | none, some c => t.ctl.state = .boot ∧ t.ctl.bootStep = 5 ∧ t.ctl.firstStage = some c ∧
          t.fuse = { s.fuse with softMaps := t.fuse.softMaps, zeroPending := false }) ∧
  (∀ h s b, s.accepts h 0x0080 = true → b.cool = false → ∃ t, exec (.reset h b) s = .next t ∧ t.ctl.state = .boot ∧
    t.ctl.bootStep = 0 ∧ t.ctl.long = [] ∧ t.mem = .empty ∧ t.fuse = s.fuse ∧
    ∃ r : Resp, t.ctl.out.getLast? = some (.resp r) ∧ r.tag = h.tag.toNat ∧ r.status = stOk)

/-- RECOVER_LOAD fills the recovery buffer, and its final chunk verifies and runs the first stage (R385). -/
def Obligations.Recovery : Prop :=
  (∀ h s (off w3 : Word) bytes, s.accepts h 0x0090 = true → w3 = 0 → bytes.length ≤ 524288 → off.toNat + bytes.length ≤ 4194304 →
    ∃ t, exec (.recoverLoad h off bytes w3) s = .next t ∧ t.responded h 0x0090 stOk ∧ s.onlyControl t ∧
      t.ctl.recovery = overwrite s.ctl.recovery off.toNat bytes ∧ t.ctl.state = s.ctl.state) ∧
  (∀ h s (off w3 : Word) bytes, s.accepts h 0x0090 = true → w3 = 1 → s.longRuns 0x0090 = false → bytes.length ≤ 524288 →
    off.toNat + bytes.length ≤ 4194304 →
    ∃ t, exec (.recoverLoad h off bytes w3) s = .next t ∧ t.responded h 0x0090 stStarted ∧ s.onlyControl t ∧
      t.ctl.recovery = overwrite s.ctl.recovery off.toNat bytes ∧ t.longRuns 0x0090 = true) ∧
  (∀ s l trained, s.ctl.long.find? (fun x => x.opcode = 0x0090) = some l → s.ctl.state = .safe →
    ∃ t, exec (.recoverVerifyDone trained) s = .next t ∧
      match fwAccept s.fuse.floor s.keySet 0 s.ctl.recovery with
      | none => s.onlyControl t ∧ t.ctl.state = .safe ∧ t.ctl.recovery = s.ctl.recovery ∧ t.longRuns 0x0090 = false
      | some c => t.ctl.state = .boot ∧ t.ctl.bootStep = 5 ∧ t.ctl.firstStage = some c)

/-- LOAD_IMAGE, ACTIVATE, SWAP_REQUEST, REACTIVATE and FABRIC_FLUSH take a die mask and act on the dies it names (R157, R161, R164, R165,
R166, R167, R170, R179, R379). -/
def Obligations.ImageAndSwapCommands : Prop :=
  (∀ h s (m : Word) off bytes (d : Die), s.accepts h 0x0012 = true → dieMaskOk m = true → bytes.length ≤ 524288 →
    off + bytes.length ≤ 33554432 → m.getLsbD d.val = true → s.tablesOk → (s.begun h).swapPending d.val = false →
    ∃ t, exec (.loadImage h m off bytes false) s = .next t ∧ t.responded h 0x0012 stOk ∧ (t.fabD d.val).shadow = 1 ∧
      t.mem = s.mem ∧ t.ctl.state = s.ctl.state ∧
      ∀ i b, bytes[i]? = some b → t.img.get 0 (imgKey d.val (s.shadowOf d.val) (off + i)) = b) ∧
  (∀ h s (m : Word), s.accepts h 0x0013 = true → dieMaskOk m = true →
    (dieMask m).all (fun d => (s.begun h).quiesced d && decide ((s.fabD d).shadow = 3)) = true →
    ∃ t, exec (.activate h m) s = .next t ∧ t.responded h 0x0013 stOk ∧ s.onlyControl t ∧
      t.ctl.activate = s.ctl.activate ||| m.toNat) ∧
  (∀ h s (m : Word) (d : Die), s.accepts h 0x0014 = true → dieMaskOk m = true → m.getLsbD d.val = true →
    (dieMask m).all (fun d => decide ((s.fabD d).shadow = 2) || decide ((s.fabD d).shadow = 3)) = true →
    s.tablesOk → ∃ t, exec (.swapRequest h m) s = .next t ∧ t.responded h 0x0014 stOk ∧ t.mem = s.mem ∧ (t.fabD d.val).swap = true) ∧
  (∀ h s (m : Word), s.accepts h 0x0016 = true → dieMaskOk m = true →
    (dieMask m).all (fun d => (s.begun h).quiesced d && (s.fabD d).placed) = true →
    ∃ t, exec (.reactivate h m) s = .next t ∧ t.responded h 0x0016 stOk ∧ s.onlyControl t ∧
      t.ctl.reactivate = s.ctl.reactivate ||| m.toNat) ∧
  (∀ h s (m : Word) (d : Die), s.accepts h 0x0031 = true → dieMaskOk m = true → m.getLsbD d.val = true → s.tablesOk →
    ∃ t, exec (.fabricFlush h m) s = .next t ∧ t.responded h 0x0031 stOk ∧ t.ctl.state = s.ctl.state ∧ t.fuse = s.fuse ∧
      t.mem = s.mem ∧ t.img = s.img ∧ t.quiesced d.val = true ∧
      let f := t.fabD d.val
      (f.halted, f.log, f.queues, f.outq, f.rings, f.tokens, f.activeSet, f.shadow) =
        (false, [], .empty, .empty, .empty, [], (s.fabD d.val).activeSet, (s.fabD d.val).shadow)) ∧
  (∀ h s (d : Die) off bytes, s.accepts h 0x0012 = true → bytes.length ≤ 524288 → off + bytes.length ≤ 33554432 → s.tablesOk →
    (s.begun h).swapPending d.val = false →
    let set := s.shadowOf d.val
    let x := State.updFab { s.begun h with img := memWrite s.img (imgKey d.val set off) bytes } d.val fun f => { f with shadow := 1 }
    let n := x.imageReason d.val (off + bytes.length)
    let q := x.programReason d.val set
    ∃ t, exec (.loadImage h (BitVec.ofNat 32 (2 ^ d.val)) off bytes true) s = .next t ∧ t.responded h 0x0012 stOk ∧
      t.ctl.state = s.ctl.state ∧ (t.fabD d.val).shadow = (if n = 0 ∧ q = 0 then 2 else 4) ∧
      (t.fabD d.val).activeSet = (s.fabD d.val).activeSet ∧ (n ≠ 0 → (t.fabD d.val).imageReason = n)) ∧
  (∀ h s (m : Word), s.accepts h 0x0013 = true →
    (dieMaskOk m = false ∨ (dieMask m).any (fun d => !(s.begun h).quiesced d || decide ((s.fabD d).shadow ≠ 3)) = true) →
    ∃ t, exec (.activate h m) s = .next t ∧ t.responded h 0x0013 stInvalid ∧ s.onlyControl t ∧
      t.ctl.stored.head?.map (·.cause) = some (if dieMaskOk m then 4 else 2))

/-- ARRAY_REPAIR, PORT_RETRAIN and CAD_REACQUIRE start; LEDGER_ACK frees records; the end of ARRAY_REPAIR clears the failed halves (R72,
R73, R317, R347, R379, R397). -/
def Obligations.ServiceCommands : Prop :=
  (∀ h s arrays, s.accepts h 0x0030 = true → arrays.all (fun i => decide (i < 288)) = true →
    ∃ t, exec (.arrayRepair h arrays) s = .next t ∧ t.responded h 0x0030 stStarted ∧ s.onlyControl t ∧ t.longRuns 0x0030 = true) ∧
  (∀ s tag (i : Fin 288), s.ctl.long.find? (fun x => x.opcode = 0x0030) = some { opcode := 0x0030, tag := tag, arg := [i.val] } →
    s.tablesOk →
    ∃ t, exec (.arrayRepairDone []) s = .next t ∧ t.longRuns 0x0030 = false ∧
      let x := (t.engD (i.val / 72) (i.val % 72 / 2)).arr (i.val % 2); x.failed = false ∧ x.lowFailed = false ∧ x.highFailed = false) ∧
  (∀ (s : State) tag (i : Fin 288) (r : Fin 128), s.ctl.long.find? (fun x => x.opcode = 0x0030) =
      some { opcode := 0x0030, tag := tag, arg := [i.val] } → s.tablesOk →
    s.fuse.softMaps.get noMap i.val = noMap → s.fuse.factoryMaps.get noMap i.val = noMap →
    ∃ t, exec (.arrayRepairDone [{ array := i, rows := [r], cols := [] }]) s = .next t ∧ t.longRuns 0x0030 = false ∧
      t.fuse = { s.fuse with softMaps := s.fuse.softMaps.set noMap i.val (mapWord [r.val] []) } ∧
      let x := (t.engD (i.val / 72) (i.val % 72 / 2)).arr (i.val % 2)
      (x.retired, x.failed, x.spareRows, x.spareCols, x.repair) = (false, false, 1, 0, mapWord [r.val] [])) ∧
  (∀ (s : State) tag (i : Fin 288) (a b c : Fin 128), s.ctl.long.find? (fun x => x.opcode = 0x0030) =
      some { opcode := 0x0030, tag := tag, arg := [i.val] } → s.tablesOk → a ≠ b → a ≠ c → b ≠ c →
    s.fuse.softMaps.get noMap i.val = noMap → s.fuse.factoryMaps.get noMap i.val = noMap →
    ∃ t, exec (.arrayRepairDone [{ array := i, rows := [a, b, c], cols := [] }]) s = .next t ∧ t.longRuns 0x0030 = false ∧
      t.fuse = { s.fuse with softMaps := s.fuse.softMaps.set noMap i.val (mapWord [a.val, b.val] []) } ∧
      ((t.engD (i.val / 72) (i.val % 72 / 2)).arr (i.val % 2)).retired = true) ∧
  (∀ h s codes, s.accepts h 0x0032 = true → codes.all (s.begun h).codeExists = true →
    ∃ t, exec (.portRetrain h codes) s = .next t ∧ t.mem = s.mem ∧ t.fuse = s.fuse ∧
      ∃ r : Resp, .resp r ∈ t.ctl.out ∧ r.tag = h.tag.toNat ∧ r.status = stStarted) ∧
  (∀ h s, s.accepts h 0x0033 = true → ∃ t, exec (.cadReacquire h) s = .next t ∧ t.responded h 0x0033 stStarted ∧
    t.cad.state = .acquiring ∧ t = { s with ctl := t.ctl, cnt := t.cnt, cad := t.cad }) ∧
  (∀ h s (n : DWord), s.accepts h 0x0043 = true → ∃ t, exec (.ledgerAck h n) s = .next t ∧ t.responded h 0x0043 stOk ∧
    t = { s with ctl := t.ctl, cnt := t.cnt } ∧ n.toNat < t.ctl.ledgerAck ∧ s.ctl.ledgerAck ≤ t.ctl.ledgerAck)

/-- SEGMENT, CREDIT, NAK, CTL_RAMTOR_FAILOVER and LEDGER_SEND move the traffic of the Ramtor port (R367, R368, R371, R372, R373, R397). -/
def Obligations.RamtorPort : Prop :=
  (∀ (s : State) (f : Frame), s.portUp = true → f.port.val = s.activePort → f.fcsOk = true → f.toUs = true → f.vlan = false →
    f.etherType = 0x88B5 → f.hdr.length = 6 →
    let w := fun i => (f.hdr.getD i 0).toNat
    let ch := bitsOf (w 0) 3 0
    let len := bitsOf (w 0) 31 16
    (ch = 0 ∨ ch = 3 ∨ ch = 4) → bitsOf (w 0) 7 4 = 1 → bitsOf (w 0) 13 8 = 0 → bitOf (w 0) 14 = true → 0 < len → len ≤ 8960 →
    len ≤ f.payload.length → (s.ctl.rx.get RxPart.none ch).active = false →
    ∃ t, exec (.segment f) s = .next t ∧ t = { s with ctl := t.ctl } ∧
      t.ctl.msgs = s.ctl.msgs ++ [{ ch := ch, tag := w 2, off := w 3 + 2 ^ 32 * w 4, bytes := f.payload.take len }]) ∧
  (∀ (s : State) (f : Frame), s.portUp = true → f.port.val = s.activePort → f.fcsOk = false →
    exec (.segment f) s = .next { s with cnt := s.cnt.upd 0 (regAddr Page.global 0x50) (· + 1) }) ∧
  (∀ (s : State) (w0 w3 : Word) (off : DWord), s.portUp = true → streamOk 0xF001 w0 w3 = true → fld w0 19 16 = 4 →
    ∃ t, exec (.credit w0 off w3) s = .next t ∧ t = { s with ctl := t.ctl } ∧ t.ctl.ckOutLimit = max s.ctl.ckOutLimit off.toNat) ∧
  (∀ (s : State) (w0 w3 : Word) (off : DWord), s.portUp = true → streamOk 0xF002 w0 w3 = true → fld w0 19 16 = 4 →
    off.toNat < s.ctl.ckOutSent →
    ∃ t, exec (.nak w0 off w3) s = .next t ∧ t = { s with ctl := t.ctl } ∧
      t.ctl.out = s.ctl.out ++ [OutMsg.stream 4 off.toNat (s.spine.frames.flatten.drop off.toNat)]) ∧
  (∀ s : State, s.portUp = true → s.ctl.ramActive = false → s.ctl.standbyLock = true → s.tablesOk →
    ∃ t, exec .ctlRamtorFailover s = .next t ∧ s.onlyControl t ∧ t.ctl.ramActive = true ∧ t.ctl.standbyLock = false ∧
      t.ctl.rx = .empty ∧ t.cntAt (regAddr Page.global 0x58) = s.cntAt (regAddr Page.global 0x58) + 1) ∧
  (∀ (s : State) q rest, s.portUp = true → s.ctl.ledgerDue = q :: rest → s.eventsWait = false → q.2.length ≤ segMaxLen →
    ∃ t, exec .ledgerSend s = .next t ∧ t = { s with ctl := t.ctl } ∧ t.ctl.ledgerDue = rest ∧ t.ctl.ledgerOut = s.ctl.ledgerOut ++ [q.2] ∧
      t.ctl.out = s.ctl.out ∧
      t.ctl.wire = s.ctl.wire ++ [⟨[5 + 16 + 2 ^ 14 + 2 ^ 16 * q.2.length, s.ctl.txSeq.get 0 5, 0, 0, 0, 0], q.2⟩] ∧
      t.ctl.txSeq.get 0 5 = (s.ctl.txSeq.get 0 5 + 1) % 2 ^ 32) ∧
  (∀ s : State, s.eventsWait = true → exec .ledgerSend s = .next s) ∧
  (∀ (c : Ctl) ch tag off bs, ch < 16 → bs ≠ [] → bs.length ≤ segMaxLen * segMax →
    let d := c.sendMessage ch tag off bs
    let l := d.wire.drop c.wire.length
    d = { c with txSeq := d.txSeq, wire := c.wire ++ l } ∧ (l.flatMap TxSegment.payload) = bs ∧ l.length ≤ segMax ∧
      ∀ i g, l[i]? = some g → 0 < g.payload.length ∧ g.payload.length ≤ segMaxLen ∧
        bitsOf (g.hdr.getD 0 0) 3 0 = ch ∧ bitsOf (g.hdr.getD 0 0) 7 4 = 1 ∧ bitsOf (g.hdr.getD 0 0) 13 8 = i ∧
        (bitOf (g.hdr.getD 0 0) 14 = true ↔ i + 1 = l.length) ∧ bitsOf (g.hdr.getD 0 0) 31 16 = g.payload.length ∧
        g.hdr.getD 1 0 = c.txSeq.get 0 ch ∧ g.hdr.getD 2 0 = tag)

/-- INGEST writes bytes that arrive without a gap within the credit, and asks for the first missing byte where there is a gap (R369, R371). -/
def Obligations.IngestStream : Prop :=
  (∀ (s : State) off bytes dest consumed, s.memOk → s.portUp = true → s.firmwareRuns = true → s.ctl.ingGot = off → bytes ≠ [] →
    off + bytes.length ≤ s.ctl.ingLimit → (s.hostPlace s.activePort dest).isSome = true →
    (s.hostPlace s.activePort (dest + bytes.length - 1)).isSome = true →
    ∃ t, exec (.ingest off bytes dest consumed) s = .next t ∧ t = { s with ctl := t.ctl, mem := t.mem, poison := t.poison } ∧
      t.ctl.ingGot = off + bytes.length ∧ s.ctl.ingLimit ≤ t.ctl.ingLimit ∧
      (∀ i b, bytes[i]? = some b → t.byteAt (dest + i) = b) ∧
      ∀ a, a < dest ∨ dest + bytes.length ≤ a → t.byteAt a = s.byteAt a) ∧
  (∀ (s : State) off bytes dest consumed, s.portUp = true → s.firmwareRuns = true → s.ctl.ingGot < off →
    ∃ t, exec (.ingest off bytes dest consumed) s = .next t ∧ t = { s with ctl := t.ctl } ∧ t.ctl.ingGot = s.ctl.ingGot ∧
      t.ctl.out = s.ctl.out ++ [OutMsg.nak 3 s.ctl.ingGot])

/-- The records that a page raises are numbered consecutively from 1, modulo 2^32, and EVT_SEQ holds the newest number (R417). -/
def Obligations.EventsAreNumbered : Prop :=
  (∀ p, State.reset.evt.seqs.get 0 p = 0) ∧ (∀ s p, (State.bootReset s).evt.seqs.get 0 p = 0) ∧
  (∀ (s : State) p code pl, s.tablesOk → s.masked p code = false →
    let n := (s.evt.seqs.get 0 p + 1) % 2 ^ 32
    (s.raise p code pl).evt.seqs.get 0 p = n ∧
    (∀ q, q ≠ p → (s.raise p code pl).evt.seqs.get 0 q = s.evt.seqs.get 0 q) ∧
    ((s.evt.queues.get [] p).length < 16 →
      ∃ r : EvRec, (s.raise p code pl).evt.queues.get [] p = s.evt.queues.get [] p ++ [r] ∧ r.source = p ∧ r.seq = n ∧ r.code = code)) ∧
  (∀ (s : State) (p : Nat), p < 65536 → Page.kind p ≠ 0 → s.regPowered (regAddr p 0x14) = true →
    s.pdHidden p 0x14 = false → (s.readReg (regAddr p 0x14)).toNat = s.evt.seqs.get 0 p % 2 ^ 32)

/-- EVENT_ADMIT, EVENT_CHANNEL_SEND and EVENT_HOST_COPY move records from the sources to the ring and to the consumers (R418, R419, R420,
R421, R422). -/
def Obligations.EventDelivery : Prop :=
  (∀ (s : State) first p r rest, s.tablesOk → s.evt.queues.get [] p = r :: rest →
    s.evt.ring.length + s.evt.queues.cells.length ≤ 4096 →
    ∃ t, exec (.eventAdmit first) s = .next t ∧ t = { s with evt := t.evt } ∧ s.evt.ring <+: t.evt.ring ∧ r ∈ t.evt.ring ∧
      t.evt.queues.get [] p = rest) ∧
  (∀ (s : State) n, s.portEn = true → s.portUp = true → 0 < n → s.evt.ring.drop s.evt.portTaken ≠ [] →
    ∃ t, exec (.eventChannelSend n) s = .next t ∧ t = { s with ctl := t.ctl, evt := t.evt, cnt := t.cnt } ∧
      t.evt.sent = s.evt.sent ++ [(s.evt.ring.drop s.evt.portTaken).take (min n 64)] ∧ t.evt.ring <:+ s.evt.ring) ∧
  (∀ (s : State) r rest, s.bel.stopped = false → s.memOk → s.hostEn = true → s.evt.ring.drop s.evt.hostTaken = r :: rest → s.evt.hostWp < 4096 →
    let base := s.hostBase + 32 * s.evt.hostWp
    s.accessFault (.hostCore 0 0) base true = none →
    ∃ t, exec .eventHostCopy s = .next t ∧ t.evt.hostWp = (s.evt.hostWp + 1) % 4096 ∧
      (∀ i b, r.bytes[i]? = some b → t.byteAt (base + i) = b) ∧
      ∀ a, a < base ∨ base + r.bytes.length ≤ a → t.byteAt a = s.byteAt a) ∧
  (∀ (s : State) p code pl, s.masked p code = true → (s.raise p code pl).evt = s.evt)

/-- PRESENCE_N_CHANGE, PRESENCE, SEAL_LOOP_CHANGE and SEC_TAMPER follow the two signals of the security domain (R388, R389, R391). -/
def Obligations.PinsAndPresence : Prop :=
  (∀ s : State, s.pins.presenceN = false → exec (.presenceNChange true) s =
    .next { s with pins := { s.pins with presenceN := true, presHighSince := some s.nowUs } }) ∧
  (∀ s : State, s.pins.presenceN = true → (∀ u, s.pins.presHighSince = some u → u + 10000 ≤ s.nowUs) →
    exec (.presenceNChange false) s =
      .next { s with pins := { s.pins with presenceN := false, presLowSince := some s.nowUs, presence := false } }) ∧
  (∀ (s : State) u v, s.pins.presenceN = true → s.pins.presHighSince = some u → s.nowUs < u + 10000 → s.pins.presLowSince = some v →
    exec (.presenceNChange false) s = .next { s with pins := { s.pins with presenceN := false } }) ∧
  (∀ (s : State) u, s.pins.presLowSince = some u → s.pins.presenceN = false → s.pins.sealClosed = true → u + 30000000 ≤ s.nowUs →
    s.pins.sealSince + 30000000 ≤ s.nowUs → exec .presence s = .next { s with pins := { s.pins with presence := true } }) ∧
  (∀ (s : State) u, s.pins.presLowSince = some u → s.nowUs < u + 30000000 → exec .presence s = .next s) ∧
  (∀ (s : State) b, b ≠ s.pins.sealClosed → exec (.sealLoopChange b) s =
    .next { s with pins := { s.pins with sealClosed := b, sealSince := s.nowUs, presence := s.pins.presence && b } }) ∧
  (∀ s : State, s.pins.sealClosed = false → s.pins.sealSince + 1000 ≤ s.nowUs → s.fuse.tamper = false →
    ∃ t, exec .secTamper s = .next t ∧ t = { s with evt := t.evt, cnt := t.cnt, fuse := { s.fuse with tamper := true } } ∧
      t.evt = (s.raise Page.security Code.secTamper (ctlPayload 0xFFFF 0 s.ctl.state.code 0 0 0 0)).evt ∧
      t.cntAt (regAddr Page.security 0x48) = s.cntAt (regAddr Page.security 0x48) + 1)

/-- SUPPLY_ALERT, its release, MODE, PLL_SWITCH and the supply messages change the envelope as R353 to R359 say (R353, R358, R359). -/
def Obligations.SupplyAndEnvelope : Prop :=
  (∀ s : State, s.ctl.state ≠ .off → s.alertEn = true → s.bel.stopped = false → s.bel.modeAct ≠ .quiet → s.bel.move = .idle →
    exec .supplyAlert s = .next { s with
      pins := { s.pins with alertN := false },
      bel := { s.bel with narrow := none, widen := none, move := .falling .quiet [1], stretched := true } }) ∧
  (∀ s : State, exec .supplyAlertRelease s = .next { s with pins := { s.pins with alertN := true } }) ∧
  (∀ (s : State) e, s.bel.move = .rising e → ∃ t, exec .pllSwitch s = .next t ∧ t.bel.modeAct = e ∧ t.bel.move = .idle ∧
    t.bel.stretched = false ∧ t = { s with bel := t.bel, dom := t.dom, hlt := t.hlt, evt := t.evt, cnt := t.cnt }) ∧
  (∀ (s : State) e cs, s.bel.move = .falling e cs → ∃ t, exec .pllSwitch s = .next t ∧ t.bel.modeAct = e ∧ t.bel.move = .idle ∧
    t.bel.stretched = false ∧ t = { s with bel := t.bel, dom := t.dom, hlt := t.hlt, evt := t.evt, cnt := t.cnt }) ∧
  (∀ (s : State) (v : Word) e, Envelope.ofCode? (fld v 1 0) = some e → s.bel.move = .idle →
    ∃ t, exec (.mode v) s = .next t ∧ t = { s with rw := t.rw, bel := t.bel } ∧ t.bel.modeAct = s.bel.modeAct ∧
      t.bel.narrow = (if e.code < s.bel.modeAct.code then some e else none) ∧
      t.bel.widen = (if s.bel.modeAct.code < e.code then some e else none)) ∧
  (∀ h s (w : Word) (k : DWord), s.accepts h 0x0050 = true → w.toNat < 8192 → s.cad.tickNo < k.toNat →
    ∃ t, exec (.cap h w k) s = .next t ∧ t.responded h 0x0050 stOk ∧
      t = { s with ctl := t.ctl, cnt := t.cnt, bel := { s.bel with msgs := s.bel.msgs ++ [(k.toNat, .cap w.toNat)] } }) ∧
  (∀ h s (w : Word) (k : DWord), s.accepts h 0x0050 = true → s.tablesOk → w.toNat < 8192 → k.toNat ≤ s.cad.tickNo →
    ∃ t, exec (.cap h w k) s = .next t ∧ t.responded h 0x0050 stOk ∧ t.capW = w.toNat ∧
      t = { s with ctl := t.ctl, evt := t.evt, cnt := t.cnt, rw := t.rw }) ∧
  (∀ h s (n : Word) (k : DWord), s.accepts h 0x0050 = true → k.toNat ≤ s.cad.tickNo →
    ∃ t, exec (.supplyHold h n k) s = .next t ∧ t.responded h 0x0050 stOk ∧
      t = { s with ctl := t.ctl, evt := t.evt, cnt := t.cnt,
                   bel := { s.bel with hold := decide (n.toNat ≠ 0), holdLeft := n.toNat } }) ∧
  (∀ h s (k : DWord), s.accepts h 0x0050 = true → k.toNat ≤ s.cad.tickNo → s.bel.modeAct ≠ .quiet → s.bel.move = .idle →
    ∃ t, exec (.shed h k) s = .next t ∧ t.responded h 0x0050 stOk ∧
      t = { s with ctl := t.ctl, evt := t.evt, cnt := t.cnt,
                   bel := { s.bel with narrow := none, widen := none, move := .falling .quiet [2], stretched := true } }) ∧
  (∀ h s (f a : Word) (k : DWord), s.accepts h 0x0050 = true → a = 1 → k.toNat ≤ s.cad.tickNo →
    ∃ t, exec (.freqDev h f a k) s = .next t ∧ t.responded h 0x0050 stOk ∧
      t = { s with ctl := t.ctl, evt := t.evt, cnt := t.cnt, bel := { s.bel with hold := true, holdLeft := 64 } }) ∧
  (∀ s : State, s.ctl.state ≠ .off → s.alertEn = true → s.bel.stopped = false → s.bel.modeAct = .quiet →
    (∀ e cs, s.bel.move ≠ .falling e cs) →
    ∃ t, exec .supplyAlert s = .next t ∧ t = { s with pins := { s.pins with alertN := false }, evt := t.evt, cnt := t.cnt } ∧
      t.evt = (s.raise Page.bellows Code.pwrShed (cadPayload s 1 0xFFFF 0 0)).evt) ∧
  (∀ h s (n : Word) (k : DWord), s.accepts h 0x0050 = true → s.cad.tickNo < k.toNat →
    ∃ t, exec (.supplyHold h n k) s = .next t ∧ t.responded h 0x0050 stOk ∧
      t = { s with ctl := t.ctl, cnt := t.cnt, bel := { s.bel with msgs := s.bel.msgs ++ [(k.toNat, .hold n.toNat)] } }) ∧
  (∀ h s (k : DWord), s.accepts h 0x0050 = true → s.cad.tickNo < k.toNat →
    ∃ t, exec (.shed h k) s = .next t ∧ t.responded h 0x0050 stOk ∧
      t = { s with ctl := t.ctl, cnt := t.cnt, bel := { s.bel with msgs := s.bel.msgs ++ [(k.toNat, .shed)] } }) ∧
  (∀ h s (f a : Word) (k : DWord), s.accepts h 0x0050 = true → a.toNat ≤ 2 → s.cad.tickNo < k.toNat →
    ∃ t, exec (.freqDev h f a k) s = .next t ∧ t.responded h 0x0050 stOk ∧
      t = { s with ctl := t.ctl, cnt := t.cnt, bel := { s.bel with msgs := s.bel.msgs ++ [(k.toNat, .freqDev f.toNat a.toNat)] } }) ∧
  (∀ (s : State) w k, s.tablesOk → s.bel.msgs.find? (fun m => m.1 ≤ s.cad.tickNo) = some (k, .cap w) → w < 8192 →
    ∃ t, exec .supplyMsgTick s = .next t ∧ t.capW = w ∧
      t = { s with evt := t.evt, cnt := t.cnt, rw := t.rw, bel := { s.bel with msgs := s.bel.msgs.erase (k, .cap w) } }) ∧
  (∀ (s : State) k, s.bel.msgs.find? (fun m => m.1 ≤ s.cad.tickNo) = some (k, .shed) → s.bel.modeAct ≠ .quiet → s.bel.move = .idle →
    ∃ t, exec .supplyMsgTick s = .next t ∧ t = { s with evt := t.evt, cnt := t.cnt, bel := { s.bel with
      msgs := s.bel.msgs.erase (k, .shed), narrow := none, widen := none, move := .falling .quiet [2], stretched := true } }) ∧
  (∀ (s : State) f a k, s.tablesOk → s.bel.msgs.find? (fun m => m.1 ≤ s.cad.tickNo) = some (k, .freqDev f a) → a ≠ 2 →
    ∃ t, exec .supplyMsgTick s = .next t ∧ t = { s with evt := t.evt, cnt := t.cnt, bel := { s.bel with
        msgs := s.bel.msgs.erase (k, .freqDev f a)
        hold := s.bel.hold || decide (a = 1), holdLeft := if a = 1 then 64 else s.bel.holdLeft } } ∧
      t.cntAt (regAddr Page.bellows 0x58) = s.cntAt (regAddr Page.bellows 0x58) + 1) ∧
  (∀ (s : State) n k, s.bel.msgs.find? (fun m => m.1 ≤ s.cad.tickNo) = some (k, .hold n) →
    ∃ t, exec .supplyMsgTick s = .next t ∧
      t.bel = { s.bel with msgs := s.bel.msgs.erase (k, .hold n), hold := decide (n ≠ 0), holdLeft := n } ∧
      t = { s with evt := t.evt, cnt := t.cnt, bel := t.bel }) ∧
  (∀ s : State, s.bel.hold = true → s.bel.holdLeft = 0 →
    exec .holdExpiry s = .next { s with bel := { s.bel with hold := false } })

/-- One pass of the Bellows loop moves each level by at most one, keeps both within 0 to 15, and keeps L within its limits; the relaxation
comes at THR_BUDGET (R354, R355, R356). -/
def Obligations.BellowsLoop : Prop :=
  (∀ (s : State) rails, s.ctl.state ≠ .off → s.bel.stopped = false → s.boundsOk →
    ∃ t, exec (.bellowsLoop rails) s = .next t ∧
      t = { s with bel := t.bel, cnt := t.cnt, hlt := t.hlt, nowUs := s.nowUs + 1, inTick := s.inTick + 1 } ∧
      t.bel.draw = railSum rails ∧
      t.bel.throttle ≤ s.bel.throttle + 1 ∧ s.bel.throttle ≤ t.bel.throttle + 1 ∧
      t.bel.ballast ≤ s.bel.ballast + 1 ∧ s.bel.ballast ≤ t.bel.ballast + 1 ∧
      t.bel.throttle ≤ 15 ∧ t.bel.ballast ≤ 15 ∧
      t.bel.lim ≤ s.bellowsLimits.hi ∧ min s.bellowsLimits.lo s.bellowsLimits.hi ≤ t.bel.lim) ∧
  (∀ s : State, s.bel.relaxed = false → s.thrBudget ≤ s.bel.thrUs → s.ctl.state = .running →
    ∃ t, exec .pwrRampRelaxed s = .next t ∧
      t = { s with evt := t.evt, cnt := t.cnt, bel := { s.bel with relaxed := true } } ∧
      t.evt = (s.raise Page.bellows Code.pwrRampRelaxed (cadPayload s 0 0xFFFF s.bel.thrUs 0)).evt ∧
      t.cntAt (regAddr Page.bellows 0x54) = s.cntAt (regAddr Page.bellows 0x54) + 1)

/-- A tick advances the tick counter by one, modulo 2^48, and every replica counter with it (R342, R343, R350). -/
def Obligations.TickEdge : Prop :=
  ∀ (s : State) trims margins, s.ctl.state ≠ .off → s.cad.omitNext = false → s.cad.numNext = none → s.tablesOk →
    ∃ t, exec (.tick trims margins) s = .next t ∧ t.cad.tickNo = (s.cad.tickNo + 1) % 2 ^ 48 ∧ t.inTick = 0 ∧
      (∀ k, k < 13 → t.cad.replicas.get 0 k = t.cad.tickNo) ∧ t.fuse = s.fuse

/-- SYNC, FOLLOW_UP, ANNOUNCE, DELAY_RESP and SRC steer the cadence unit as R345 and R347 say (R345, R346, R347, R348, R349). -/
def Obligations.CadenceReferences : Prop :=
  (∀ (s : State) dom snd seq rx, dom = fld (s.rwAt (regAddr Page.cadence 0x100)) 8 2 → s.fromMaster snd = true →
    ∃ t, exec (.sync dom snd seq true rx) s = .next t ∧ t = { s with cnt := t.cnt, cad := t.cad } ∧
      t.cad.sync = some { sender := snd, seq := seq, rxHalf := rx } ∧ t.cad.lastSync = some s.nowUs) ∧
  (∀ (s : State) dom snd seq rx, dom = fld (s.rwAt (regAddr Page.cadence 0x100)) 8 2 →
    exec (.sync dom snd seq false rx) s = .next { s with cnt := s.cnt.upd 0 (regAddr Page.cadence 0x54) (· + 1) }) ∧
  (∀ (s : State) dom snd seq org corr rx, dom = fld (s.rwAt (regAddr Page.cadence 0x100)) 8 2 →
    s.cad.sync = some { sender := snd, seq := seq, rxHalf := 2 * rx } →
    ∃ t, exec (.followUp dom snd seq org corr) s = .next t ∧ t = { s with cad := t.cad } ∧ t.cad.ptpOk = true ∧
      t.cad.offsetNs = rx - org - corr - s.cad.delayNs - s.cad.asymNs ∧ t.cad.sync = none) ∧
  (∀ (s : State) m, m.domain.toNat = fld (s.rwAt (regAddr Page.cadence 0x100)) 8 2 →
    (s.master = none ∨ ∃ b, s.master = some b ∧ (b.sender = m.sender ∨ annBetter m b = true)) →
    exec (.announce m) s = .next { s with cad := { s.cad with best := some m, annUs := s.nowUs, gm := m.gmIdentity.toNat } }) ∧
  (∀ (s : State) dom snd rq rx, dom = fld (s.rwAt (regAddr Page.cadence 0x100)) 8 2 → s.fromMaster snd = true →
    exec (.delayResp dom snd (2 * rq) rx) s = .next { s with cad := { s.cad with delayNs := (s.cad.msNs + (rx - rq)) / 2 } }) ∧
  (∀ (s : State) (v : Word), s.tablesOk → fld v 1 0 = 3 → s.cad.state = .free →
    ∃ t, exec (.src v) s = .next t ∧ t = { s with rw := t.rw, cad := t.cad } ∧ t.cad.state = .locked ∧ t.cad.active = .osc) ∧
  (∀ (s : State) (v : Word), s.tablesOk → s.cad.state = .locked → fld v 1 0 = 1 → s.cad.ptpOk = false →
    ∃ t, exec (.src v) s = .next t ∧ t = { s with rw := t.rw, cad := t.cad, cnt := t.cnt } ∧ t.cad.state = .holdover)

/-- Edges, timeouts, loss, holdover and relock move the cadence unit as R346 to R349 say (R346, R347, R348, R349). -/
def Obligations.CadenceLossAndRelock : Prop :=
  (∀ (s : State) off, selPulse s.src = true → s.edgeWindowed = false → off.natAbs ≤ 200 → s.cad.state = .acquiring →
    ∃ t, exec (.cadenceEdge off) s = .next t ∧ t = { s with cad := t.cad } ∧ t.cad.goodEdge = s.cad.goodEdge + 1 ∧
      t.cad.lastEdge = some s.nowUs ∧ t.cad.badEdge = 0 ∧ (s.cad.incons = false → t.cad.pulseOk = true)) ∧
  (∀ (s : State) u, s.src = 1 → s.cad.state = .locked → s.cad.lastSync = some u → s.cad.ptpOk = true →
    u + s.syncTimeoutUs ≤ s.nowUs →
    ∃ t, exec .syncTimeout s = .next t ∧ t = { s with cad := t.cad, evt := t.evt, cnt := t.cnt } ∧ t.cad.ptpOk = false ∧
      t.cad.state = .holdover ∧ t.cad.holdLeft = 64 ∧ t.cad.tickNo = s.cad.tickNo) ∧
  (∀ (s : State) u, s.src = 2 → s.cad.state = .locked → s.cad.lastEdge = some u → s.cad.pulseOk = true →
    u + 2 * s.cad.tickLen ≤ s.nowUs →
    ∃ t, exec .pulseLoss s = .next t ∧ t = { s with cad := t.cad, evt := t.evt, cnt := t.cnt } ∧ t.cad.pulseOk = false ∧
      t.cad.state = .holdover ∧ t.cad.holdLeft = 64) ∧
  (∀ (s : State) u, s.src = 0 → s.cad.state = .locked → s.cad.lastSync = some u → s.cad.ptpOk = true → s.cad.pulseOk = true →
    u + s.syncTimeoutUs ≤ s.nowUs → s.tablesOk →
    ∃ t, exec .syncTimeout s = .next t ∧ t = { s with cad := t.cad, evt := t.evt, cnt := t.cnt } ∧ t.cad.ptpOk = false ∧
      t.cad.state = .locked ∧ t.cad.active = .pulse ∧
      t.cntAt (regAddr Page.cadence 0x5C) = s.cntAt (regAddr Page.cadence 0x5C) + 1) ∧
  (∀ s : State, s.src = 0 → s.cad.incons = false → 4 ≤ s.cad.badEdge → s.cad.ptpOk = true →
    ∃ t, exec .pulseInconsistent s = .next t ∧ t = { s with cad := t.cad, evt := t.evt, cnt := t.cnt } ∧ t.cad.incons = true ∧
      t.cad.active = .ptp ∧ t.cad.state = s.cad.state) ∧
  (∀ s : State, s.cad.incons = true → 16 ≤ s.cad.goodEdge → s.cad.ptpOk = true → s.src = 0 →
    ∃ t, exec .pulseConsistent s = .next t ∧ t = { s with cad := t.cad, evt := t.evt, cnt := t.cnt } ∧ t.cad.incons = false ∧
      t.cad.active = .pulse) ∧
  (∀ s : State, s.cad.state = .acquiring → s.src = 1 → 16 ≤ s.cad.goodSync →
    ∃ t, exec .locked s = .next t ∧ t = { s with cad := t.cad, ctl := t.ctl, evt := t.evt, cnt := t.cnt } ∧ t.cad.state = .locked ∧
      t.longRuns 0x0033 = false) ∧
  (∀ (s : State) off, s.cad.state = .holdover → s.src = 1 → s.cad.ptpOk = true →
    ∃ t, exec (.relock .ptp s.cad.tickNo off) s = .next t ∧ t = { s with cad := t.cad, evt := t.evt, cnt := t.cnt } ∧
      t.cad.state = .locked ∧ t.cad.slewNs = off ∧ t.cad.tickNo = s.cad.tickNo ∧ t.cad.active = .ptp) ∧
  (∀ s : State, s.cad.state = .holdover → s.cad.holdLeft = 0 →
    ∃ t, exec (.cadLost none) s = .next t ∧ t = { s with cad := t.cad, evt := t.evt, cnt := t.cnt } ∧ t.cad.state = .lost) ∧
  (∀ (s : State) n, s.cad.state = .holdover → s.src = 1 → s.cad.ptpOk = true → n ≠ s.cad.tickNo →
    ∃ t, exec (.cadLost (some n)) s = .next t ∧ t = { s with cad := t.cad, evt := t.evt, cnt := t.cnt } ∧ t.cad.state = .lost)

/-- A brown-out, its recovery and a thermal trip stop the package as R360 and R429 say (R360, R376, R429). -/
def Obligations.BrownoutAndTrip : Prop :=
  (∀ (s : State) (k : Fin 9), s.ctl.state = .ready → s.pins.thermtripN = true → s.bel.brown = false → criticalRail k.val = false →
    ∃ t, exec (.pwrBrownout k) s = .next t ∧ t = { s with bel := t.bel, evt := t.evt, cnt := t.cnt } ∧ t.bel.brown = true ∧
      t.bel.stopped = true) ∧
  (∀ (s : State) (k : Fin 9), s.ctl.state = .running → s.pins.thermtripN = true → s.bel.brown = false → criticalRail k.val = false →
    ∃ t, exec (.pwrBrownout k) s = .next t ∧ t.ctl.state = .held ∧ t.bel.stopped = true ∧ t.mem = s.mem ∧ t.fuse = s.fuse) ∧
  (∀ s : State, s.ctl.state = .ready → s.pins.thermtripN = true → s.bel.brown = false →
    ∃ t, exec (.pwrBrownout 7) s = .next t ∧ t.ctl.state = .boot ∧ t.mem = .empty ∧ t.bel.stopped = true ∧ t.fuse = s.fuse) ∧
  (∀ (c : Instr) (s : State), s.bel.stopped = true → Instr.needsClock c = true → exec c s = .next s) ∧
  (∀ (s : State) b, s.bel.brown = true → s.ctl.state = .ready → s.bel.wasRunning = false →
    ∃ t, exec (.brownoutRecovery b) s = .next t ∧ t.bel.brown = false ∧ t.bel.stopped = false ∧ t.bel.modeAct = .quiet ∧
      t.ctl.state = .ready ∧ t.mem = s.mem) ∧
  (∀ (s : State) (k : Fin 9), s.ctl.state = .boot → s.bel.brown = false → criticalRail k.val = false →
    ∃ t, exec (.pwrBrownout k) s = .next t ∧ t.ctl.state = .boot ∧ t.mem = s.mem ∧ t.poison = s.poison ∧ t.bel.stopped = true) ∧
  (∀ s : State, (s.ctl.state = .off ∨ (s.ctl.state = .safe ∧ s.pins.thermtripN = false)) →
    ∃ t, exec (.pwrBrownout 8) s = .next t ∧ t = { s with hlt := t.hlt, pins := { s.pins with thermtripN := true } } ∧
      t.hlt.lifeValid = false ∧ t.hlt.monitors = .empty ∧ t.hlt.temps = s.hlt.temps) ∧
  (∀ (s : State) x c, s.ctl.state ≠ .off → s.ctl.state ≠ .safe → 105 ≤ c →
    ∃ t, exec (.hltThermtrip x c) s = .next t ∧ t.ctl.state = .safe ∧ t.pins.thermtripN = false ∧
      t.fuse = { s.fuse with thermtrips := s.fuse.thermtrips + 1 })

/-- Temperature events, ring-oscillator samples, the retention canary and the hourly trend act as chapter 16 says (R426, R427, R428, R429). -/
def Obligations.HealthMonitors : Prop :=
  (∀ (s : State) x c, s.tempWarn ≤ c → s.hlt.warnArmed = true → s.tablesOk →
    ∃ t, exec (.tempWarn x c) s = .next t ∧ t = { s with hlt := t.hlt, mt := t.mt, evt := t.evt, cnt := t.cnt } ∧
      t.hlt.warnArmed = false ∧
      t.hlt.temps.get 0 (sensorKey x) = c ∧
      t.evt = ((s.readSensor x c).raise Page.health Code.hltTempHigh (hltPayload s 1 0 (sensorIndex (sensorKey x)) c s.tempWarn)).evt ∧
      t.cntAt (regAddr Page.health 0x40) = s.cntAt (regAddr Page.health 0x40) + 1) ∧
  (∀ (s : State) (pd : Pd) c, 95 ≤ c → s.hlt.limitArmed = true → s.bel.modeAct ≠ .quiet → s.bel.move = .idle →
    ∃ t, exec (.tempLimit pd c) s = .next t ∧ t = { s with hlt := t.hlt, evt := t.evt, cnt := t.cnt, bel := t.bel } ∧
      t.hlt.limitArmed = false ∧ t.bel.move = .falling .quiet [4] ∧ t.bel.stretched = true ∧
      t.evt = (s.raise Page.health Code.hltTempHigh (hltPayload s 2 0 pd.val c 95)).evt ∧
      t.cntAt (regAddr Page.health 0x40) = s.cntAt (regAddr Page.health 0x40) + 1 ∧
      t.cntAt (regAddr Page.health 0x44) = s.cntAt (regAddr Page.health 0x44) + 1) ∧
  (∀ (s : State) (k : Fin 16) w, w < 2 * refreshMs (s.mt.band k.val) → s.tablesOk →
    ∃ t, exec (.retentionCanary k w) s = .next t ∧ t = { s with mt := t.mt, evt := t.evt, cnt := t.cnt } ∧
      t.mt.band k.val = min 3 (s.mt.band k.val + 1) ∧
      t.evt = ((State.bandEvent { s with mt := t.mt } k.val (s.mt.band k.val)).raise Page.health Code.hltTrend
        (hltPayload s 1 3 k.val w (2 * refreshMs (s.mt.band k.val)))).evt ∧
      t.cntAt (regAddr Page.health 0x50) = s.cntAt (regAddr Page.health 0x50) + 1) ∧
  (∀ (s : State) samples, ∃ t, exec (.ringOscSample samples) s = .next t ∧ t = { s with hlt := t.hlt }) ∧
  (∀ s : State, ∃ t, exec .hourlyTrend s = .next t ∧
    t = { s with hlt := t.hlt, evt := t.evt, cnt := t.cnt, fuse := { s.fuse with hours := s.fuse.hours + 1 } })

/-- DROOP, DROOP_END, REQ_ON and DOMAIN_RAMP_DONE act on one power domain (R361, R363, R364). -/
def Obligations.DroopAndDomains : Prop :=
  (∀ (s : State) (pd : Pd), s.tablesOk → pdIsVcd pd.val = true → (s.dom.get Domain.off pd.val).state = 2 →
    (s.dom.get Domain.off pd.val).droop = false →
    ∃ t, exec (.droop pd) s = .next t ∧ t = { s with dom := t.dom, cnt := t.cnt } ∧
      t.dom.get Domain.off pd.val = { s.dom.get Domain.off pd.val with droop := true } ∧
      (∀ q, q ≠ pd.val → t.dom.get Domain.off q = s.dom.get Domain.off q) ∧
      t.cntAt (regAddr (Page.dom pd.val) 0x40) = s.cntAt (regAddr (Page.dom pd.val) 0x40) + 1) ∧
  (∀ (s : State) (pd : Pd) ac, s.tablesOk → (s.dom.get Domain.off pd.val).droop = true →
    ∃ t, exec (.droopEnd pd ac) s = .next t ∧ t = { s with dom := t.dom, cnt := t.cnt } ∧
      t.dom.get Domain.off pd.val = { s.dom.get Domain.off pd.val with droop := false } ∧
      t.cntAt (regAddr (Page.dom pd.val) 0x44) = s.cntAt (regAddr (Page.dom pd.val) 0x44) + ac) ∧
  (∀ (s : State) (pd : Pd), s.tablesOk → (s.dom.get Domain.off pd.val).state = 1 →
    ∃ t, exec (.domainRampDone pd) s = .next t ∧ t = { s with dom := t.dom, cnt := t.cnt } ∧
      (t.dom.get Domain.off pd.val).state = 2 ∧ (t.dom.get Domain.off pd.val).setMv = pdNominal pd.val s.bel.modeAct) ∧
  (∀ (s : State) (pd : Pd) on, s.reqOn pd.val = on → exec (.reqOn pd on) s = .next s) ∧
  (∀ (s : State) (pd : Pd) on, s.reqOn pd.val ≠ on → s.reqAllowed pd.val on = false →
    s.regPowered (regAddr (Page.dom pd.val) 0x104) = true → s.pdHidden (Page.dom pd.val) 0x104 = false →
    ∃ t, exec (.reqOn pd on) s = .next t ∧ t = { s with evt := t.evt, cnt := t.cnt } ∧
      t.evt = (s.raise (Page.dom pd.val) Code.pwrDomainRefused (cadPayload s 0 pd.val 0 0)).evt ∧
      t.cntAt (regAddr (Page.dom pd.val) 0x4C) = s.cntAt (regAddr (Page.dom pd.val) 0x4C) + 1) ∧
  (∀ (s : State) (pd : Pd) on, s.tablesOk → s.reqOn pd.val ≠ on → s.reqAllowed pd.val on = true →
    ∃ t, exec (.reqOn pd on) s = .next t ∧ t = { s with rw := t.rw, dom := t.dom, subs := t.subs } ∧ t.reqOn pd.val = on ∧
      (∀ q, pdDie q ≠ pdDie pd.val → t.dom.get Domain.off q = s.dom.get Domain.off q) ∧
      (on = false → t.dom.get Domain.off pd.val = Domain.off) ∧
      (on = true → (s.dom.get Domain.off pd.val).state = 0 →
        ∃ m, m < 72 ∧ pdDie m = pdDie pd.val ∧ (t.dom.get Domain.off m).state = 1))

/-- A register write takes effect on its RW bits and goes to the shadow set on its SH bits; the mailbox snapshots its item (R402, R403,
R407, R408, R410, R412, R414). -/
def Obligations.RegisterPages : Prop :=
  (∀ (s : State) (p off : Nat) r (v : Word), s.tablesOk → 0x100 ≤ off → off < 0x10000 → off % 4 = 0 → p < 0x10000 →
    Page.kind p ≠ 0 → [0x02, 0x03, 0x05, 0x06, 0x08, 0x09, 0x0A, 0x0B, 0x0C, 0x0F, 0x10, 0x11, 0x12].contains (Page.kind p) = false →
    RegMap.find (regAddr p off) = some r → s.regPowered (regAddr p off) = true → s.pdHidden p off = false →
    ∃ t, exec (.registerWrite (BitVec.ofNat 32 (regAddr p off)) v) s = .next t ∧ t = { s with rw := t.rw, shNew := t.shNew } ∧
      t.rwAt (regAddr p off) = (if r.rwm = 0 then s.rwAt (regAddr p off) else v &&& BitVec.ofNat 32 r.rwm) ∧
      t.shadowAt (regAddr p off) = (if r.shm = 0 then s.shadowAt (regAddr p off) else v &&& BitVec.ofNat 32 r.shm) ∧
      ∀ a, a ≠ regAddr p off → t.rwAt a = s.rwAt a ∧ t.shadowAt a = s.shadowAt a) ∧
  (∀ (s : State) (a : Word) v, (Page.kind (a.toNat / 65536) = 0 ∨ a.toNat % 4 ≠ 0) → exec (.registerWrite a v) s = .next s) ∧
  (∀ (s : State) (p : BitVec 16) v, s.tablesOk → Page.kind p.toNat ≠ 0 → s.regPowered (regAddr p.toNat 0x20) = true →
    s.pdHidden p.toNat 0x20 = false →
    ∃ t, exec (.mbxSel p v) s = .next t ∧ t = { s with mbx := t.mbx } ∧ (t.mbxOf p.toNat).valid = false ∧
      (t.mbxOf p.toNat).item = fld v 15 0 ∧ (t.mbxOf p.toNat).pending = true) ∧
  (∀ (s : State) (p : BitVec 16), s.tablesOk → (s.mbxOf p.toNat).pending = true →
    ∃ t, exec (.mailboxSnapshot p) s = .next t ∧ t = { s with mbx := t.mbx } ∧ (t.mbxOf p.toNat).valid = true ∧
      (t.mbxOf p.toNat).snapNo = ((s.mbxOf p.toNat).snapNo + 1) % 256 ∧
      (t.mbxOf p.toNat).noItem = (s.mailboxItem p.toNat (s.mbxOf p.toNat).item).isNone ∧
      (t.mbxOf p.toNat).pending = false) ∧
  (∀ (s : State) (p : BitVec 16) b, s.tablesOk → Page.kind p.toNat = 0x0A ∨ Page.kind p.toNat = 0x0D →
    s.regPowered (regAddr p.toNat 8) = true →
    ∃ t, exec (.quiesceReq p b) s = .next t ∧ t = { s with rw := t.rw } ∧ (t.rwAt (regAddr p.toNat 8)).getLsbD 1 = b ∧
      ∀ a, a ≠ regAddr p.toNat 8 → t.rwAt a = s.rwAt a) ∧
  (∀ (s : State) (p : BitVec 16) b, s.tablesOk → Page.kind p.toNat = 0x0D → s.regPowered (regAddr p.toNat 8) = true →
    ∃ t, exec (.enable p b) s = .next t ∧ t = { s with rw := t.rw } ∧ (t.rwAt (regAddr p.toNat 8)).getLsbD 0 = b ∧
      ∀ a, a ≠ regAddr p.toNat 8 → t.rwAt a = s.rwAt a)

/-- The crust die of a crust offset is picked by bits 9:8 and the Trough stack of a Trough offset by bit 12 (R279). -/
def Obligations.StripesOfMemory : Prop :=
  (∀ (d : Die) (o : BitVec 46), crustDieOf d.val o.toNat = 4 * d.val + (o.extractLsb' 8 2).toNat) ∧
  (∀ (p : Prf) (o : BitVec 46), stackOf p.val o.toNat = 2 * p.val + (o.extractLsb' 12 1).toNat) ∧
  (∀ d q k, k < 256 → crustDieOf d (256 * q + k) = crustDieOf d (256 * q)) ∧
  (∀ p q k, k < 4096 → stackOf p (4096 * q + k) = stackOf p (4096 * q))

/-- MEMORY_ACCESS carries out the reads and writes that the map and the views allow, and turns the others away (R276, R280, R283, R284,
R285, R286, R303, R312, R402). -/
def Obligations.MemoryAccesses : Prop :=
  (∀ (s : State) u va n ecc die mb hart tr, s.bel.stopped = false → s.translate u hart va n .load = .trap tr →
    ∃ t, exec (.memoryAccess ⟨u, hart⟩ va (.read n) ecc die mb) s = .next t ∧ t = { s with cnt := t.cnt, mt := t.mt } ∧
      t.mt = { (s.keepHart u hart).mt with answer := t.mt.answer } ∧
      t.mt.answer.trap = tr ∧ t.mt.answer.data = List.replicate n 0#8) ∧
  (∀ (s : State) u va bs ecc die mb hart tr, s.bel.stopped = false → s.translate u hart va bs.length .store = .trap tr →
    ∃ t, exec (.memoryAccess ⟨u, hart⟩ va (.write bs) ecc die mb) s = .next t ∧ t = { s with cnt := t.cnt, mt := t.mt } ∧
      t.mt = { (s.keepHart u hart).mt with answer := t.mt.answer } ∧ t.mt.answer.trap = tr) ∧
  (∀ (s : State) u va addr bs ecc die mb hart, s.bel.stopped = false → s.memOk → s.translate u hart va bs.length .store = .at addr → s.isCipCore u = false →
    s.spanFault u addr bs.length true = none →
    (∀ a, regionOf addr ≠ .register a) → (∀ p a, regionOf addr ≠ .arrival p a) →
    ∃ t, exec (.memoryAccess ⟨u, hart⟩ va (.write bs) ecc die mb) s = .next t ∧
      t = { s with
        mem := t.mem, poison := t.poison, cnt := t.cnt, mt := { (s.keepHart u hart).mt with answer := MemAnswer.none } } ∧
      (∀ i b, bs[i]? = some b → t.byteAt (addr + i) = b) ∧
      ∀ a, a < addr ∨ addr + bs.length ≤ a → t.byteAt a = s.byteAt a) ∧
  (∀ (s : State) u va addr n die mb hart (fetch : Bool), s.bel.stopped = false → let op := if fetch then MemOp.fetch n else .read n
    s.translate u hart va n op.access = .at addr → s.isCipCore u = false →
    s.spanFault u addr n false = none → (∀ a, regionOf addr ≠ .register a) → (∀ d a, regionOf addr ≠ .table d a) →
    ∃ t, exec (.memoryAccess ⟨u, hart⟩ va op .clean die mb) s = .next t ∧ t = { s with cnt := t.cnt, mt := t.mt } ∧
      t.mt.answer.data = s.bytesAt addr n ∧ t.mt.answer.poison = s.poisonedAt addr n) ∧
  (∀ (s : State) u va addr n ecc die mb hart, s.bel.stopped = false → s.memOk → s.translate u hart va n .load = .at addr → s.isCipCore u = false →
    s.spanFault u addr n false = none → (∀ a, regionOf addr ≠ .register a) → eccResult addr ecc = .uncorrectable →
    ∃ t, exec (.memoryAccess ⟨u, hart⟩ va (.read n) ecc die mb) s = .next t ∧ t.mem = s.mem ∧ t.poison.get false (granule addr) = true ∧
      t = { s with poison := t.poison, evt := t.evt, cnt := t.cnt, mt := t.mt, freeCtr := t.freeCtr } ∧
      (∀ k, eccKey addr die = some k → t.evt = (s.raise (memDiePage k) Code.memUncorrectable
        (memPayload (memDieSource k) addr (memDieNumber k) 0 0 0 mb)).evt) ∧
      (eccKey addr die = none → t.evt = s.evt)) ∧
  (∀ (s : State) u va addr n ecc die mb hart c, s.bel.stopped = false → s.translate u hart va n .load = .at addr → s.isCipCore u = false →
    s.spanFault u addr n false = some c →
    ∃ t, exec (.memoryAccess ⟨u, hart⟩ va (.read n) ecc die mb) s = .next t ∧ t.mem = s.mem ∧ t.poison = s.poison ∧
      t.mt.answer.data = List.replicate n 0#8) ∧
  (∀ (s : State) u va addr bs ecc die mb hart c, s.bel.stopped = false → s.translate u hart va bs.length .store = .at addr → s.isCipCore u = false →
    s.spanFault u addr bs.length true = some c →
    ∃ t, exec (.memoryAccess ⟨u, hart⟩ va (.write bs) ecc die mb) s = .next t ∧ t.mem = s.mem ∧ t.poison = s.poison) ∧
  (∀ (s : State) u va addr op ecc die mb hart, s.bel.stopped = false → s.tablesOk → s.translate u hart va op.len op.access = .at addr →
    s.bars u op.access addr = true →
    ∃ t, exec (.memoryAccess ⟨u, hart⟩ va op ecc die mb) s = .next t ∧ t.mem = s.mem ∧ t.poison = s.poison ∧
      t.cntAt (hostReg 0x54) = s.cntAt (hostReg 0x54) + 1 ∧ t.mt.answer.trap = (if op.writes = true then .none else .access))

/-- MEM_REFRESH_BAND follows the temperature of a memory die, and PATROL_SCRUB counts its pass and the granules it could not correct (R285,
R287, R288). -/
def Obligations.RefreshAndScrub : Prop :=
  (∀ (s : State) m c, s.tablesOk → s.mt.tempBand.get 0 (memDieKey m) ≤ bandOf c →
    ∃ t, exec (.memRefreshBand m c) s = .next t ∧ t = { s with mt := t.mt, hlt := t.hlt, evt := t.evt, cnt := t.cnt } ∧
      t.mt.tempBand.get 0 (memDieKey m) = bandOf c) ∧
  (∀ (s : State) m c, s.tablesOk → bandOf c < s.mt.tempBand.get 0 (memDieKey m) →
    bandLow (s.mt.tempBand.get 0 (memDieKey m)) < c + 3 →
    ∃ t, exec (.memRefreshBand m c) s = .next t ∧ t.mt.tempBand.get 0 (memDieKey m) = s.mt.tempBand.get 0 (memDieKey m)) ∧
  (∀ (s : State) u addr die err, s.bel.stopped = false → s.tablesOk → s.scrubPaused u = false → eccResult addr err = .uncorrectable →
    ∃ t, exec (.patrolScrub u [{ addr := addr, die := die, err := err }]) s = .next t ∧ t.mem = s.mem ∧
      t.poison.get false (granule addr) = true ∧ t = { s with poison := t.poison, mt := t.mt, evt := t.evt, cnt := t.cnt } ∧
      (∀ k, k = scrubDie u { addr := addr, die := die, err := err } →
        t.evt = (s.raise (memDiePage k) Code.memUncorrectable (memPayload (memDieSource k) addr (memDieNumber k) 1 0 0 0xFFFF)).evt ∧
          t.cntAt (memCounter k 1) = s.cntAt (memCounter k 1) + 1 ∧
          t.cntAt (memCounter k 3) = s.cntAt (memCounter k 3) + 1)) ∧
  (∀ (s : State) u finds, s.bel.stopped = false → s.scrubPaused u = true → exec (.patrolScrub u finds) s = .next s)

/-- MPD_ACCEPT checks an offered MPD in the order of R132 and queues it or refuses it; DESCRIPTOR_RECORD fills the descriptor file (R46,
R60, R78, R101, R111, R129, R132, R133). -/
def Obligations.MpdAcceptance : Prop :=
  (∀ (s : State) (d : Die) (e : Eng) (n : Nat), s.bel.stopped = false → s.tablesOk →
    let x := s.engD d e
    let w := x.offer
    let tds := (List.range 8).map fun i => x.tds.get [] i
    w ≠ [] → mpdOpc w ≠ 2 → x.queue.length < 8 →
    (s.seqReason d e tds w = 0 → s.engReason d e tds w = 0 → (s.slotFail x tds w).cause = 0 →
      extentFail w (x.rawExtents w) = none →
      ∃ t, exec (.mpdAccept d ⟨e, n⟩) s = .next t ∧ t = { s with eng := t.eng, ch := t.ch, cnt := t.cnt } ∧
        (t.engD d e).nextSeq = (x.nextSeq + 1) % 2 ^ 32 ∧ (t.engD d e).offer = [] ∧
        t.cntAt (regAddr (Page.eng d e) cntObCorrected) = s.cntAt (regAddr (Page.eng d e) cntObCorrected) + n ∧
        ∃ j : Job, (t.engD d e).queue = x.queue ++ [j] ∧ j.mpd.seq = x.nextSeq ∧ j.mpd.words = w ∧ j.mpd.tds = tds ∧
          j.mpd.raw = x.rawExtents w) ∧
    (s.seqReason d e tds w ≠ 0 →
      ∃ t, exec (.mpdAccept d ⟨e, n⟩) s = .next t ∧ (t.engD d e).queue = x.queue ∧ (t.engD d e).nextSeq = x.nextSeq ∧
        (t.engD d e).offer = [] ∧ (t.engD d e).lastInvalid = s.seqReason d e tds w ∧ t.mem = s.mem) ∧
    (s.seqReason d e tds w = 0 → s.engReason d e tds w ≠ 0 →
      ∃ t, exec (.mpdAccept d ⟨e, n⟩) s = .next t ∧ (t.engD d e).queue = x.queue ∧ (t.engD d e).nextSeq = x.nextSeq ∧
        (t.engD d e).offer = [] ∧ (t.engD d e).lastRefusal = s.engReason d e tds w ∧ t.mem = s.mem) ∧
    (s.seqReason d e tds w = 0 → s.engReason d e tds w = 0 → (s.slotFail x tds w).cause ≠ 0 →
      ∃ t, exec (.mpdAccept d ⟨e, n⟩) s = .next t ∧ (t.engD d e).queue = x.queue ∧ (t.engD d e).nextSeq = x.nextSeq ∧
        (t.engD d e).offer = [] ∧ (t.engD d e).lastPlan = (s.slotFail x tds w).word ∧ t.mem = s.mem) ∧
    (s.seqReason d e tds w = 0 → s.engReason d e tds w = 0 → (s.slotFail x tds w).cause = 0 →
      (extentFail w (x.rawExtents w)).isSome = true →
      ∃ t, exec (.mpdAccept d ⟨e, n⟩) s = .next t ∧ (t.engD d e).queue = x.queue ∧ (t.engD d e).nextSeq = x.nextSeq ∧
        (t.engD d e).offer = [] ∧ t.mem = s.mem ∧
        ((t.engD d e).lastInvalid, (t.engD d e).lastRefusal, (t.engD d e).lastPlan) = (x.lastInvalid, x.lastRefusal, x.lastPlan))) ∧
  (∀ (s : State) (d : Die) (e : Eng), s.bel.stopped = false → s.tablesOk → (s.engD d e).offer ≠ [] → mpdOpc (s.engD d e).offer = 2 →
    ∃ t, exec (.descriptorRecord d e) s = .next t ∧ t = { s with eng := t.eng, ch := t.ch } ∧ (t.engD d e).offer = [] ∧
      (t.engD d e).queue = (s.engD d e).queue ∧ (t.engD d e).nextSeq = (s.engD d e).nextSeq ∧
      (t.engD d e).tds = [0, 1, 2].foldl (fun u k => match recordSlot (s.engD d e).offer k with
        | some p => u.set [] p.1 p.2
        | none => u) (s.engD d e).tds)

/-- TILE_FETCH, SHADOW_LOAD_DONE and PRELOAD bring stationary tiles to an array (R21, R52, R53, R65, R66, R68, R121, R123, R280). -/
def Obligations.StationaryTiles : Prop :=
  (∀ (s : State) (d : Die) (e : Eng) a h j i l pos slots, s.bel.stopped = false → s.tablesOk → s.fetchCand d e (arrNum a) = some (j, i) →
    j.lane? (j.mpd.laneFor a h) = some l → s.fetchPos j.mpd l = some pos → s.fetches d e j l.lane = true →
    s.fetchTurn d e i j l pos = true → mpdReuse j.mpd.words = false →
    slots = ((j.mpd.laneArrays l.lane).filterMap fun q => ((s.engD d e).freeEntry q).map (q, ·)) →
    slots.length = (j.mpd.laneArrays l.lane).length →
    let tile := (s.fetchTile d e j.mpd l.lane (s.passOf j.mpd l.lane pos)).1
    ∃ t, exec (.tileFetch d e a h) s = .next t ∧
      t = { s with eng := t.eng, mem := t.mem, poison := t.poison, evt := t.evt, cnt := t.cnt, freeCtr := t.freeCtr } ∧
      (∀ k, k ≠ 36 * d.val + e.val → t.eng.get Engine.reset k = s.eng.get Engine.reset k) ∧
      (t.engD d e).ring = (s.engD d e).ring ++ [{ seq := j.mpd.seq, lane := l.lane, slots := slots, tile := tile }] ∧
      ((t.engD d e).laneAt i l.lane).map (·.fetched) = some (pos + 1) ∧
      ∀ b, (∀ q ∈ slots.zipIdx, b < ringAddr (36 * d + e) q.1.1 q.1.2 ∨
          ringAddr (36 * d + e) q.1.1 q.1.2 + (packElements tile.bits (tile.part slots.length q.2)).length ≤ b) →
        t.byteAt b = s.byteAt b) ∧
  (∀ (s : State) (d : Die) (e : Eng) a h j i l pos, s.bel.stopped = false → s.tablesOk → s.fetchCand d e (arrNum a) = some (j, i) →
    j.lane? (j.mpd.laneFor a h) = some l → s.fetchPos j.mpd l = some pos → s.fetches d e j l.lane = true →
    s.fetchTurn d e i j l pos = true → mpdReuse j.mpd.words = true →
    let r := s.mcastRec d (s.activeOf d) (mpdList j.mpd.words)
    ((List.range 36).filter (mcMember r)).all (fun k => (s.engD d k).mcFree (mpdList j.mpd.words) (mcDepth r)) = true →
    ∃ t, exec (.tileFetch d e a h) s = .next t ∧
      t = { s with eng := t.eng, evt := t.evt, cnt := t.cnt, freeCtr := t.freeCtr } ∧
      ∃ u : McUnit, u.addr = s.unitAddr j.mpd pos ∧ u.tiles.map Prod.fst = List.range j.lanes.length ∧
        ∀ k, k < 36 → mcMember r k = true →
          (t.engD d k).mcIn.get [] (mpdList j.mpd.words) = (s.engD d k).mcIn.get [] (mpdList j.mpd.words) ++ [u]) ∧
  (∀ (s : State) (d : Die) (e : Eng) a h n i j l pos u x1, s.bel.stopped = false → s.tablesOk →
    let lane := (s.engD d e).laneFor a h
    (s.engD d e).runLane lane = some (i, j, l) → (s.loadQueue d e (lane / 3)).find? (s.loadReady d e j) = some lane →
    l.reload = false → s.loadPos j.mpd l = some pos →
    s.takeTile d e (s.engD d e) j lane pos = some (u, x1) →
    ∃ t, exec (.shadowLoadDone d e a ⟨h, n⟩) s = .next t ∧ t = { s with eng := t.eng, leaven := t.leaven, cnt := t.cnt } ∧
      t.cntAt (regAddr (Page.eng d e) cntObCorrected) = s.cntAt (regAddr (Page.eng d e) cntObCorrected) + n ∧
      ((t.engD d e).laneAt i lane).map (fun q => (q.shadow, q.loaded)) = some (some u, pos + 1)) ∧
  (∀ (s : State) (d : Die) (e : Eng) a h n i j l, s.bel.stopped = false → s.tablesOk →
    let lane := (s.engD d e).laneFor a h
    (s.engD d e).runLane lane = some (i, j, l) → (s.loadQueue d e (lane / 3)).find? (s.loadReady d e j) = some lane →
    l.reload = true →
    ∃ t, exec (.shadowLoadDone d e a ⟨h, n⟩) s = .next t ∧ t = { s with eng := t.eng, cnt := t.cnt } ∧
      t.cntAt (regAddr (Page.eng d e) cntObCorrected) = s.cntAt (regAddr (Page.eng d e) cntObCorrected) + n ∧
      ((t.engD d e).laneAt i lane).map (fun q => (q.reload, q.shadow, q.loaded, q.pos, q.rung)) =
        some (false, l.shadow, l.loaded, l.pos, l.rung)) ∧
  (∀ (s : State) (d : Die) (e : Eng) a h n j k l pos u x1, s.bel.stopped = false → s.tablesOk → (s.engD d e).nextJob (arrNum a) = some (j, k) →
    let lane := j.mpd.laneFor a h
    s.preloadEn d e = true →
    (j.mpd.laneArrays lane).all (fun q => s.shadowFree (s.engD d e) q && ((s.engD d e).nextJob q).map Prod.snd = some k) = true →
    j.lane? lane = some l → l.shadow = none → l.loaded = 0 → s.loadPos j.mpd l = some pos →
    s.takeTile d e (s.engD d e) j lane pos = some (u, x1) →
    ∃ t, exec (.preload d e a ⟨h, n⟩) s = .next t ∧ t = { s with eng := t.eng, leaven := t.leaven, cnt := t.cnt } ∧
      ((t.engD d e).laneAt k lane).map (·.shadow) = some (some u))

/-- PASS_START presents a pass, PASS_ACCEPT commits it, CHECK_FAILURE replays it once and then fails the array, and an unusable operand ends
the lane (R53, R65, R66, R67, R68, R70, R71, R86). -/
def Obligations.PassesAndChecks : Prop :=
  (∀ (s : State) (d : Die) (e : Eng) a h n i j l, s.bel.stopped = false → s.tablesOk →
    let lane := (s.engD d e).laneFor a h
    let rs := (s.streamLanes j lane).filterMap fun q => ((j.lane? q).bind (s.passReady d e j)).map (q, ·)
    (s.engD d e).runLane lane = some (i, j, l) → lane ∈ s.streamLanes j lane → rs.length = (s.streamLanes j lane).length →
    ∃ t, exec (.passStart d e a ⟨h, n⟩) s = .next t ∧ s.onlyEngine t d e ∧
      t.cntAt (regAddr (Page.eng d e) cntObCorrected) = s.cntAt (regAddr (Page.eng d e) cntObCorrected) + n ∧
      ∀ q ∈ rs, ((t.engD d e).laneAt i q.1).map (fun r => (r.started, r.pos, r.active)) = some (true, q.2.pos, some q.2.tile)) ∧
  (∀ (s : State) (d : Die) (e : Eng) a h i j l q, s.bel.stopped = false → s.tablesOk →
    let lane := (s.engD d e).laneFor a h
    (s.engD d e).runLane lane = some (i, j, l) →
    let lp := s.loops j.mpd lane
    let p := passAt (mpdOrder j.mpd.words) lp l.pos
    l.started = true → l.past = none → l.nonfin = none → l.bad = 0 →
    ((s.engD d e).open_ lane).find? (AccTile.at? p) = some q → (p.k + 1 ≠ lp.k ∨ mpdAccEnd j.mpd.words = false) →
    spillsNow j.mpd (q.passes + 1) (decide (p.k + 1 = lp.k)) = false →
    ∃ t, exec (.passAccept d e a h) s = .next t ∧ t = { s with eng := t.eng, leaven := t.leaven, evt := t.evt, cnt := t.cnt } ∧
      ((t.engD d e).laneAt i lane).map (fun r => (r.started, r.chk, r.pos, r.rung)) =
        some (false, none, l.pos + 1, mpdRungStart j.mpd.words) ∧
      ∃ r ∈ (t.engD d e).open_ lane, AccTile.at? p r = true ∧ r.rows = l.work ∧ r.passes = q.passes + 1) ∧
  (∀ (s : State) (d : Die) (e : Eng) a h kind (ix : BitVec 16) i j l, s.bel.stopped = false → s.tablesOk →
    let lane := (s.engD d e).laneFor a h
    (s.engD d e).runLane lane = some (i, j, l) → l.started = true → l.chk = none →
    ∃ t, exec (.checkFailure d e a h kind ix) s = .next t ∧ s.onlyEngine t d e ∧ (t.engD d e).tiles = (s.engD d e).tiles ∧
      (t.engD d e).arrays = (s.engD d e).arrays ∧
      ((t.engD d e).laneAt i lane).map (fun r => (r.started, r.chk, r.reload, r.rung, r.pos, r.work)) =
        some (false, some (arrNum a, checkCode kind, ix.toNat), true, l.rung, l.pos, [])) ∧
  (∀ (s : State) (d : Die) (e : Eng) a h kind ix i j l, s.bel.stopped = false → s.tablesOk →
    let lane := (s.engD d e).laneFor a h
    (s.engD d e).runLane lane = some (i, j, l) → l.started = true → l.chk.isSome = true →
    ∃ t, exec (.checkFailure d e a h kind ix) s = .next t ∧ s.onlyEngine t d e ∧
      ((t.engD d e).laneAt i lane).map (·.stop) = some (if h = .whole then Code.arrayFault else Code.arraySplitFault) ∧
      let r := (t.engD d e).arr (arrNum a)
      (match h with | .whole => r.failed | .low => r.lowFailed | .high => r.highFailed) = true) ∧
  (∀ (s : State) (d : Die) (e : Eng) a h (sh : Bool) i j l, s.bel.stopped = false → s.tablesOk →
    let lane := (s.engD d e).laneFor a h
    (s.engD d e).runLane lane = some (i, j, l) → l.started = true → l.stop = 0 →
    (if l.bad = 0 then sh else l.badRow) = false →
    ∃ t, exec (.engOperandUncorrectable d e a h sh) s = .next t ∧ s.onlyEngine t d e ∧
      (t.engD d e).arrays = (s.engD d e).arrays ∧
      ((t.engD d e).laneAt i lane).map (·.stop) = some Code.engOperandUncorrectable) ∧
  (∀ (s : State) (d : Die) (e : Eng) a h (sh : Bool) i j l, s.bel.stopped = false → s.tablesOk →
    let lane := (s.engD d e).laneFor a h
    (s.engD d e).runLane lane = some (i, j, l) → l.started = true → l.stop = 0 →
    (if l.bad = 0 then sh else l.badRow) = true →
    ∃ t, exec (.engOperandUncorrectable d e a h sh) s = .next t ∧ s.onlyEngine t d e ∧
      (t.engD d e).arrays = (s.engD d e).arrays ∧
      ∀ q ∈ s.rowLanes j l, ((t.engD d e).laneAt i q).map (·.stop) = some Code.engOperandUncorrectable)

/-- OVERFLOW takes a pass back to the next rung, and RUNG_3_MOVE to rung 3, with nothing committed (R69, R88, R89, R90). -/
def Obligations.OverflowLadder : Prop :=
  (∀ (s : State) (d : Die) (e : Eng) a h i j l, s.bel.stopped = false → s.tablesOk →
    let lane := (s.engD d e).laneFor a h
    (s.engD d e).runLane lane = some (i, j, l) → l.started = true → l.overFirst = true → l.rung < 3 →
    ∃ t, exec (.overflow d e a h) s = .next t ∧ s.onlyEngine t d e ∧ (t.engD d e).tiles = (s.engD d e).tiles ∧
      (t.engD d e).arrays = (s.engD d e).arrays ∧
      ((t.engD d e).laneAt i lane).map (fun r => (r.started, r.rung, r.pos, r.work)) = some (false, l.rung + 1, l.pos, []) ∧
      t.cntAt (engCounter d e (lane / 3) 0x130 4) =
        s.cntAt (engCounter d e (lane / 3) 0x130 4) + (if l.rung < 2 then 1 else 0)) ∧
  (∀ (s : State) (d : Die) (e : Eng) a h i j l, s.bel.stopped = false → s.tablesOk →
    let lane := (s.engD d e).laneFor a h
    (s.engD d e).runLane lane = some (i, j, l) → l.started = true → l.nonfin.isSome = true → l.overFirst = false → l.rung < 3 →
    ∃ t, exec (.rung3Move d e a h) s = .next t ∧ s.onlyEngine t d e ∧ (t.engD d e).tiles = (s.engD d e).tiles ∧
      (t.engD d e).arrays = (s.engD d e).arrays ∧
      ((t.engD d e).laneAt i lane).map (fun r => (r.started, r.rung, r.pos, r.work)) = some (false, 3, l.pos, []))

/-- DRAIN begins the oldest tile, EPILOGUE_ROW takes its rows one by one, MPD_COMPLETE reports the MPD, and EMPTY_MPD begins one without
passes (R49, R95, R97, R99, R128). -/
def Obligations.DrainAndCompletion : Prop :=
  (∀ (s : State) (d : Die) (e : Eng) a q ts, s.bel.stopped = false → s.tablesOk → (s.engD d e).draining (arrNum a) = q :: ts → q.begun = false →
    ∃ t, exec (.drain d e a) s = .next t ∧ s.onlyEngine t d e ∧
      ∃ r, (t.engD d e).draining (arrNum a) = r :: ts ∧ r.begun = true ∧ r.next = q.next ∧ r.lane = q.lane ∧ r.mpd = q.mpd) ∧
  (∀ (s : State) (d : Die) (e : Eng) a (n : Nat) q ts, s.bel.stopped = false → s.tablesOk →
    (s.engD d e).draining (arrNum a) = q :: ts → q.begun = true → mpdEpiEn q.mpd.words = false →
    ∃ t, exec (.epilogueRow d e ⟨a, n⟩) s = .next t ∧
      t = { s with
        eng := t.eng, mem := t.mem, poison := t.poison, leaven := t.leaven, evt := t.evt, cnt := t.cnt, freeCtr := t.freeCtr } ∧
      (q.next + 1 < q.tile.rows.length →
        ∃ r, (t.engD d e).draining (arrNum a) = r :: ts ∧ r.next = q.next + 1 ∧ r.tile = q.tile) ∧
      (q.tile.rows.length ≤ q.next + 1 → (t.engD d e).draining (arrNum a) = ts) ∧
      ∀ b, s.epilogueWrites d e q b = false → t.byteAt b = s.byteAt b) ∧
  (∀ (s : State) (d : Die) (e : Eng) a i j, s.bel.stopped = false → s.tablesOk → (s.engD d e).running (arrNum a) = some (i, j) →
    j.lanes.all (fun l => s.laneDone j.mpd l && decide (l.stop = 0) && !(s.loops j.mpd l.lane).empty) = true →
    (s.engD d e).drainedAll j.mpd.seq = true → j.nonfin = [] →
    ∃ t, exec (.mpdComplete d e a) s = .next t ∧ (t.engD d e).report = some (j.mpd.seq, jobStatus j) ∧
      (t.engD d e).queue.length + 1 = (s.engD d e).queue.length ∧
      t = { s with
        eng := t.eng, fab := t.fab, ch := t.ch, mem := t.mem, poison := t.poison, evt := t.evt, cnt := t.cnt
        freeCtr := t.freeCtr }) ∧
  (∀ (s : State) (d : Die) (e : Eng) a i j, s.bel.stopped = false → s.tablesOk → (s.engD d e).running (arrNum a) = some (i, j) → j.begun = false →
    j.lanes.any (fun l => (s.loops j.mpd l.lane).empty) = true →
    ((mpdLanes j.mpd.words).foldl (fun y l => s.emptyLane j.mpd y l) (s.engD d e)).drainedAll j.mpd.seq = false →
    ∃ t, exec (.emptyMpd d e a) s = .next t ∧ s.onlyEngine t d e ∧ ((t.engD d e).job? i).map (·.begun) = some true ∧
      t.cntAt (regAddr (Page.eng d e) 0x288) = s.cntAt (regAddr (Page.eng d e) 0x288) + 1)

/-- BALLAST_PASS presents one ballast row, MULTICAST_UNIT takes in a unit, and SEQ_MCAST_STALL ends a wait that is too long (R76, R122,
R123, R124, R355). -/
def Obligations.BallastAndMulticast : Prop :=
  (∀ (s : State) (d : Die) (e : Eng) a, s.bel.stopped = false → s.tablesOk → 0 < s.bel.ballast → s.ballastOk d e (arrNum a) = true →
    ∃ t, exec (.ballastPass d e a) s = .next t ∧
      t = { s with eng := t.eng, cnt := t.cnt, bel := { s.bel with rows := s.bel.rows + 1 } } ∧
      ((t.engD d e).arr (arrNum a)).ballast = true ∧
      t.cntAt (engCounter d e (arrNum a) 0x54 0x1C) = s.cntAt (engCounter d e (arrNum a) 0x54 0x1C) + 1) ∧
  (∀ (s : State) (d : Die) (e : Eng) (lst : Fin 64) u us, s.bel.stopped = false → s.tablesOk → (s.engD d e).mcIn.get [] lst.val = u :: us →
    s.mcNext d e lst.val = none → (s.fabD d).disabled.contains lst.val = true →
    ∃ t, exec (.multicastUnit d e lst) s = .next t ∧ s.onlyEngine t d e ∧ (t.engD d e).mcRing = (s.engD d e).mcRing ∧
      (t.engD d e).mcCount.get 0 lst.val = (s.engD d e).mcCount.get 0 lst.val + 1 ∧
      t.cntAt (regAddr (Page.eng d e) 0x290) = s.cntAt (regAddr (Page.eng d e) 0x290) + 1) ∧
  (∀ (s : State) (d : Die) (e : Eng) (lst : Fin 64) u us i pos j, s.bel.stopped = false → s.tablesOk → (s.engD d e).mcIn.get [] lst.val = u :: us →
    s.mcNext d e lst.val = some (i, pos) → (s.engD d e).job? i = some j → s.unitAddr j.mpd pos = u.addr →
    let v := { u with
      seq := j.mpd.seq, slot := (s.engD d e).mcCount.get 0 lst.val % mcDepth (s.mcastRec d (s.activeOf d) lst.val)
      tiles := u.tiles.filter fun q =>
        !(((j.lanes.filter fun l : LaneProg => l.stop ≠ 0).map LaneProg.lane).map j.place).contains q.1 }
    v.tiles ≠ [] →
    ∃ t, exec (.multicastUnit d e lst) s = .next t ∧
      t = { s with eng := t.eng, mem := t.mem, poison := t.poison, cnt := t.cnt } ∧
      (t.engD d e).mcRing.get [] lst.val = (s.engD d e).mcRing.get [] lst.val ++ [v] ∧
      ((t.engD d e).job? i).map (·.units) = some (j.units + 1) ∧
      (t.engD d e).mcCount.get 0 lst.val = (s.engD d e).mcCount.get 0 lst.val + 1 ∧
      t.cntAt (regAddr (Page.eng d e) 0x290) = s.cntAt (regAddr (Page.eng d e) 0x290) + 1) ∧
  (∀ (s : State) (d : Die) (e : Eng) (lst : Fin 64) u us i pos j, s.bel.stopped = false → s.tablesOk → (s.engD d e).mcIn.get [] lst.val = u :: us →
    s.mcNext d e lst.val = some (i, pos) → (s.engD d e).job? i = some j → s.unitAddr j.mpd pos ≠ u.addr →
    ∃ t, exec (.multicastUnit d e lst) s = .next t ∧ t = { s with eng := t.eng, fab := t.fab, evt := t.evt, cnt := t.cnt } ∧
      lst.val ∈ (t.fabD d).disabled) ∧
  (∀ (s : State) (d : Die) (e : Eng) (lst : Fin 64) i pos who j, s.bel.stopped = false → s.tablesOk → s.mcWait d e lst.val = some (i, pos, who) →
    s.rwAt (regAddr (Page.eng d e) 0x208) ≠ 0 → (s.engD d e).job? i = some j →
    ∃ t, exec (.seqMcastStall d e lst) s = .next t ∧ t = { s with eng := t.eng, fab := t.fab, evt := t.evt, cnt := t.cnt } ∧
      lst.val ∈ (t.fabD d).disabled)

/-- REED_FIRING, COUNTER_WRAP, SEL and BR: what a firing, a wrap and a steering token do to a reed (R145, R146, R149, R150, R152, R153). -/
def Obligations.ReedFirings : Prop :=
  (∀ (s : State) (d : Die) (r : Reed), s.bel.stopped = false → s.tablesOk →
    let s0 := s.loadLimits d r
    let rec0 := s0.recOf d r
    let x := (s0.fabD d).reed r
    let y := ((s0.body d r (rrMain rec0)).fabD d).reed r
    rrKind rec0 = 1 → armed rec0 x = true → countersReady rec0 x = true → s0.credit d r (rrMain rec0) 0 = true →
    ((firingSet rec0).all fun p => (s0.portHead d r p).isSome) = true → s0.lsPoison d r (rrMain rec0) = false →
    ∃ t, exec (.reedFiring d r) s = .next t ∧ t.ctl = s.ctl ∧ t.fuse = s.fuse ∧ (∀ k, k ≠ d.val → t.fabD k = s.fabD k) ∧
      let z := (t.fabD d).reed r
      z.firings = y.firings + 1 ∧ z.vregs = y.vregs ∧ z.sregs = y.sregs ∧ z.armed = y.armed ∧ z.runPos = y.runPos ∧
      ∀ i, i < 4 → (rrStepOn rec0 i ≠ 0 → z.cnt i = y.cnt i) ∧
        ∀ l, rrStepOn rec0 i = 0 → limitNow rec0 y i = some l → 0 < l → (y.cnt i).due = false →
          (z.cnt i).count = (y.cnt i).count + 1 ∧ (z.cnt i).due = decide (l ≤ (y.cnt i).count + 1)) ∧
  (∀ (s : State) (d : Die) (r : Reed) (c : Fin 4), s.bel.stopped = false → s.tablesOk →
    let s0 := s.loadLimits d r
    let rec0 := s0.recOf d r
    let x := (s0.fabD d).reed r
    hasCounters rec0 = true → armed rec0 x = true → (x.cnt c).due = true →
    s0.credit d r (wrapBody rec0 c) (wrapTokens rec0 c) = true → s0.lsPoison d r (wrapBody rec0 c) = false →
    ∃ t, exec (.counterWrap d r c) s = .next t ∧ t.ctl = s.ctl ∧ t.fuse = s.fuse ∧ (∀ k, k ≠ d.val → t.fabD k = s.fabD k) ∧
      let z := (t.fabD d).reed r
      z.cnt c = Counter.zero ∧ z.firings = x.firings ∧ z.armed = (if endsRun rec0 c then false else x.armed) ∧
      ∀ l, c.val + 1 < 4 → rrStepOn rec0 (c.val + 1) = 1 → limitNow rec0 x (c.val + 1) = some l → 0 < l → (x.cnt (c.val + 1)).due = false →
        (z.cnt (c.val + 1)).count = (x.cnt (c.val + 1)).count + 1) ∧
  (∀ (s : State) (d : Die) (r : Reed) e x, s.bel.stopped = false → s.tablesOk →
    let s0 := s.loadLimits d r
    let rec0 := s0.recOf d r
    let y := (s0.fabD d).reed r
    let n := if rrKind rec0 = 2 then 1 else rrRun rec0
    s0.portHead d r 6 = some e → e.bits / 16 % 16 = 2 → (rrKind rec0 = 2 ∨ rrKind rec0 = 3) → e.bits % 16 < 4 →
    rrVi rec0 (e.bits % 16) ≠ 0 → s0.portHead d r (e.bits % 16) = some x → s0.outCredit d r 7 ≠ 0 → s0.steers d r = true →
    ∃ t u, exec (.sel d (.reed r)) s = .next t ∧ t = State.settle u d ∧ ((u.fabD d).queue (qKey r 5)).items.getLast? = some x ∧
      t.ctl = s.ctl ∧ t.fuse = s.fuse ∧ (∀ k, k ≠ d.val → t.fabD k = s.fabD k) ∧
      let z := (t.fabD d).reed r
      (n ≤ y.runPos + 1 → z.runPos = 0 ∧ z.firings = y.firings + 1 ∧ ∀ i, i < 4 → rrStepOn rec0 i ≠ 0 → z.cnt i = y.cnt i) ∧
      (y.runPos + 1 < n → z.runPos = y.runPos + 1 ∧ z.firings = y.firings ∧ z.cnts = y.cnts)) ∧
  (∀ (s : State) (d : Die) (r : Reed) e x, s.bel.stopped = false → s.tablesOk →
    let s0 := s.loadLimits d r
    let rec0 := s0.recOf d r
    let y := (s0.fabD d).reed r
    s0.portHead d r 6 = some e → e.bits / 16 % 16 = 3 → rrKind rec0 = 4 → e.bits % 16 < 3 → s0.portHead d r 0 = some x →
    (e.bits % 16 < 2 → s0.outCredit d r (7 + e.bits % 16) ≠ 0) → s0.steers d r = true →
    ∃ t u, exec (.br d (.reed r)) s = .next t ∧ t = State.settle u d ∧
      (e.bits % 16 < 2 → ((u.fabD d).queue (qKey r (5 + e.bits % 16))).items.getLast? = some x) ∧
      t.ctl = s.ctl ∧ t.fuse = s.fuse ∧ (∀ k, k ≠ d.val → t.fabD k = s.fabD k) ∧
      let z := (t.fabD d).reed r
      (rrRun rec0 ≤ y.runPos + 1 → z.runPos = 0 ∧ z.firings = y.firings + 1) ∧
      (y.runPos + 1 < rrRun rec0 → z.runPos = y.runPos + 1 ∧ z.firings = y.firings ∧ z.cnts = y.cnts))

/-- GO, END, DONE and PHASE tokens reach reeds, stream ports and the Chanter, and STREAM_RUN and STREAM_RUN_END begin and end a run (R143,
R144, R149, R151, R153, R227). -/
def Obligations.TokensAndRuns : Prop :=
  (∀ (s : State) (d : Die) (r : Reed) e, s.tablesOk →
    let rec0 := s.recOf d r
    let y := (s.fabD d).reed r
    s.portHead d r 6 = some e → rrGoReq rec0 = true → e.bits % 16 = rrGoTag rec0 → y.armed = false →
    ∀ (c : Instr) (kind : Nat), (c, kind) ∈ [(Instr.goToken d (.reed r), 1), (.endToken d (.reed r), 4), (.doneToken d (.reed r), 6)] →
      e.bits / 16 % 16 = kind →
      ∃ t u, exec c s = .next t ∧ t = State.settle u d ∧ t.ctl = s.ctl ∧ t.fuse = s.fuse ∧
        let z := (u.fabD d).reed r
        z.armed = true ∧ z.stopped = false ∧ z.firings = y.firings ∧ z.runPos = y.runPos ∧ z.vregs = y.vregs ∧ z.sregs = y.sregs) ∧
  (∀ (s : State) (d : Die) (p : Sp) e es, s.tablesOk →
    let r := s.spRec d (s.activeOf d) p
    let x := (s.fabD d).port p
    ((s.fabD d).queue (spKey p 2)).items = e :: es → e.bits % 16 = sprGoTag r → sprDir r ≠ 0 → x.go = false → x.active = false →
    ∀ (c : Instr) (kind : Nat), (c, kind) ∈ [(Instr.goToken d (.port p), 1), (.endToken d (.port p), 4), (.doneToken d (.port p), 6)] →
      e.bits / 16 % 16 = kind →
      ∃ t, exec c s = .next t ∧ t.ctl = s.ctl ∧ t.fuse = s.fuse ∧ (t.fabD d).port p = { x with go := true }) ∧
  (∀ (s : State) (d : Die) (p : Cp) e es, s.tablesOk → ((s.fabD d).queue (cpKey p 2)).items = e :: es →
    ∀ (c : Instr) (kind : Nat), (c, kind) ∈ [(Instr.phaseToken d (.chanter p), 5), (.doneToken d (.chanter p), 6)] →
      e.bits / 16 % 16 = kind →
      ∃ t u, exec c s = .next t ∧ t = State.settle u d ∧ t.ctl = s.ctl ∧
        (t.fabD d).tokens = (s.fabD d).tokens ++ [(p.val, e.bits % 256)] ∧ (u.fabD d).reeds = (s.fabD d).reeds) ∧
  (∀ (s : State) (d : Die) (r : Reed) e, s.tablesOk → s.portHead d r 6 = some e →
    ∀ (c : Instr), (c = .goToken d (.reed r) ∧ e.bits / 16 % 16 = 1 ∧ (rrGoReq (s.recOf d r) = false ∨ e.bits % 16 ≠ rrGoTag (s.recOf d r)) ∨
        c = .phaseToken d (.reed r) ∧ e.bits / 16 % 16 = 5) →
      ∃ t u, exec c s = .next t ∧ t = State.settle u d ∧ t.ctl = s.ctl ∧ (u.fabD d).reeds = (s.fabD d).reeds ∧
        (t.chD d).stopped = true ∧
        t.cntAt (regAddr (Page.fab d) 0x54) = s.cntAt (regAddr (Page.fab d) 0x54) + 1) ∧
  (∀ (s : State) (d : Die) (p : Sp) (w : Nat), s.bel.stopped = false → s.tablesOk →
    let r := s.spRec d (s.activeOf d) p
    let x := (s.fabD d).port p
    x.go = true → x.active = false → (s.fabD d).halted = false → (s.fabD d).due = 0 → s.ingBound d p = false → s.kvBind d p = 0 →
    (sprDir r = 1 ∨ sprDir r = 2) →
    (if sprLive r then ((s.fabD d).queue (spKey p 1)).items.head?.map (·.bits) = some w else w = sprL2 r + 0xFFF * 2 ^ 20) →
    (bitsOf w 19 0 ≤ sprL2 r →
      ∃ t, exec (.streamRun d p) s = .next t ∧ t.ctl = s.ctl ∧
        let z := (t.fabD d).port p
        (z.go, z.active, z.live, z.mb, z.index, z.runs) = (false, true, bitsOf w 19 0, bitsOf w 31 20, x.index, x.runs + 1)) ∧
    (sprL2 r < bitsOf w 19 0 →
      ∃ t, exec (.streamRun d p) s = .next t ∧ t.ctl = s.ctl ∧ t.mem = s.mem ∧ (t.fabD d).port p = { x with go := false } ∧
        t.cntAt (regAddr (Page.fab d) 0x58) = s.cntAt (regAddr (Page.fab d) 0x58) + 1)) ∧
  (∀ (s : State) (d : Die) (p : Sp) run word rest, s.bel.stopped = false → s.tablesOk →
    let x := (s.fabD d).port p
    x.go = true → x.active = false → (s.fabD d).halted = false → (s.fabD d).due = 0 → s.ingBound d p = false → (s.kvBind d p = 1 ∨ s.kvBind d p = 2) →
    ((s.fabD d).queue (spKey p 1)).items = run :: word :: rest →
    (bitsOf run.bits 19 0 ≤ sprL2 (s.spRec d (s.activeOf d) p) →
      ∃ t, exec (.streamRun d p) s = .next t ∧ t.ctl = s.ctl ∧
        (t.kvD d).readers = (s.kvD d).readers ++ [⟨p.val, (s.kvD d).epoch, false⟩] ∧
        let z := (t.fabD d).port p
        (z.go, z.active, z.live, z.mb, z.stream, z.first, z.runs) =
          (false, true, bitsOf run.bits 19 0, bitsOf run.bits 31 20, bitsOf word.bits 9 0, bitsOf word.bits 29 10, x.runs + 1)) ∧
    (sprL2 (s.spRec d (s.activeOf d) p) < bitsOf run.bits 19 0 →
      ∃ t, exec (.streamRun d p) s = .next t ∧ t.ctl = s.ctl ∧ (t.kvD d).readers = (s.kvD d).readers ∧
        (t.fabD d).port p = { x with go := false } ∧
        t.cntAt (regAddr (Page.fab d) 0x58) = s.cntAt (regAddr (Page.fab d) 0x58) + 1)) ∧
  (∀ (s : State) (d : Die) (p : Sp), s.bel.stopped = false → s.tablesOk →
    let r := s.spRec d (s.activeOf d) p
    let x := (s.fabD d).port p
    x.active = true → s.runDone d p r x = true →
    (sprDoneEn r = true → ((s.fabD d).queue (qKey (spReed p) (16 + spDir p))).items.length < 16) →
    ∃ t u, exec (.streamRunEnd d p) s = .next t ∧ t = State.settle u d ∧ t.ctl = s.ctl ∧ (u.fabD d).reeds = (s.fabD d).reeds ∧
      (t.fabD d).port p = { x with
        active := false, pos := 0, spos := 0, live := 0,
        index := if sprWrap r ≠ 0 ∧ sprWrap r ≤ x.index + 1 then 0 else x.index + 1 })

/-- FAB_STARVE halts a fabric, CREDIT_AUDIT makes a shadow set READY or REJECTED, SWAP and REACTIVATION put a set to work, and ROTATION
loads the next image (R161, R163, R164, R165, R167, R170, R362). -/
def Obligations.FabricStates : Prop :=
  (∀ (s : State) (d : Die) (r : Reed), s.bel.stopped = false → s.tablesOk → s.wdEn d = true → s.wdLimit d ≠ 0 → (s.wdArm d).testBit (rrGroup (s.recOf d r)) = true →
    (s.stall d r).1 ≠ 0 →
    ∃ t, exec (.fabStarve d r) s = .next t ∧ (t.fabD d).halted = true ∧ (t.chD d).stopped = true ∧
      t.cntAt (regAddr (Page.fab d) 0x50) = s.cntAt (regAddr (Page.fab d) 0x50) + 1 ∧
      (t.fabD d).log.length = (if (s.fabD d).log.length < 16 then (s.fabD d).log.length + 1 else (s.fabD d).log.length) ∧
      (t.fabD d).reeds = (s.fabD d).reeds ∧ (t.fabD d).activeSet = (s.fabD d).activeSet ∧ t.mem = s.mem ∧ t.ctl = s.ctl) ∧
  (∀ (s : State) (d : Die), s.bel.stopped = false → s.tablesOk → (s.fabD d).shadow = 2 →
    ∃ t, exec (.creditAudit d) s = .next t ∧ t = { s with fab := t.fab, evt := t.evt, cnt := t.cnt, freeCtr := t.freeCtr } ∧
      (t.fabD d).activeSet = (s.fabD d).activeSet ∧ (t.fabD d).reeds = (s.fabD d).reeds ∧
      t.cntAt (regAddr (Page.fab d) 0x48) = s.cntAt (regAddr (Page.fab d) 0x48) + 1 ∧
      ((s.creditAudit d (s.shadowOf d)).reason = 0 → (t.fabD d).shadow = 3 ∧ (t.fabD d).swap = (s.fabD d).swap) ∧
      ((s.creditAudit d (s.shadowOf d)).reason ≠ 0 → (t.fabD d).shadow = 4 ∧ (t.fabD d).swap = false ∧
        (t.fabD d).auditReason = (s.creditAudit d (s.shadowOf d)).reason)) ∧
  (∀ (s : State) (d : Die), s.bel.stopped = false → s.tablesOk → (s.fabD d).due = 1 → s.sealFirst = false →
    ∃ t, exec (.swap d) s = .next t ∧ t.ctl = s.ctl ∧ t.fuse = s.fuse ∧
      let f := t.fabD d
      (f.activeSet, f.shadow, f.placed, f.swap, f.due) = (1 - (s.fabD d).activeSet, 0, true, false, 0) ∧
      t.cntAt (regAddr (Page.fab d) 0x40) = s.cntAt (regAddr (Page.fab d) 0x40) + 1 ∧
      ∀ r, (f.reed r).firings = 0 ∧ (f.reed r).armed = false ∧ (f.reed r).runPos = 0 ∧ (f.reed r).cnts = .empty) ∧
  (∀ (s : State) (d : Die), s.bel.stopped = false → s.tablesOk → (s.fabD d).due = 2 → s.sealFirst = false →
    ∃ t, exec (.reactivation d) s = .next t ∧ t.ctl = s.ctl ∧ t.fuse = s.fuse ∧
      let f := t.fabD d
      (f.activeSet, f.shadow, f.placed, f.due) = ((s.fabD d).activeSet, (s.fabD d).shadow, (s.fabD d).placed, 0) ∧
      t.cntAt (regAddr (Page.fab d) 0x40) = s.cntAt (regAddr (Page.fab d) 0x40) + 1 ∧
      ∀ r, (f.reed r).firings = 0 ∧ (f.reed r).armed = false ∧ (f.reed r).runPos = 0 ∧ (f.reed r).cnts = .empty) ∧
  (∀ (s : State) images, s.tablesOk → s.ctl.state = .running → 1 < s.rotCount → s.rotPeriod ≤ s.bel.rotSeals →
    ∃ t, exec (.rotation images) s = .next t ∧ t = { s with
        img := t.img, fab := t.fab, rw := t.rw, mem := t.mem, poison := t.poison, leaven := t.leaven, evt := t.evt, cnt := t.cnt, bel := t.bel } ∧
      t.bel = { s.bel with rotSeals := 0, rotIndex := (s.bel.rotIndex + 1) % s.rotCount } ∧
      ∀ d, d < 4 → (t.fabD d).activeSet = (s.fabD d).activeSet ∧ (t.fabD d).reeds = (s.fabD d).reeds ∧
        ((t.fabD d).swap = true → (s.fabD d).swap = true ∨ (t.fabD d).shadow = 2) ∧
        ((∀ x ∈ images, x.1.val ≠ d) → t.fabD d = s.fabD d))

/-- STEP_START, FORWARD_PHASE, BACKWARD_PHASE and the operations of the phase programs (R177, R178, R180, R181, R182, R183, R186, R187). -/
def Obligations.ChanterPrograms : Prop :=
  (∀ (s : State) (d : Die), s.tablesOk → s.ctl.state = .running → s.ctl.stepDue = 0 → (s.chD d).inStep = false → (s.chD d).abandoned = false →
    (s.fabD d).due = 0 → (s.fabD d).placed = true →
    ∃ t, exec (.stepStart d) s = .next t ∧ t = { s with ch := t.ch } ∧ (∀ k, k ≠ d.val → t.chD k = s.chD k) ∧
      t.chD d = { s.chD d with
        inStep := true, stageOff := fld (s.rwAt (regAddr (Page.die d) 0x108)) 5 0,
        start := some (phaseAt noUnit (s.phaseOff d (s.fabD d).activeSet .start)) }) ∧
  (∀ (s : State) (d : Die) u0 entry, s.tablesOk → s.mayIssue d = true → (s.chD d).start = none → (s.chD d).started = true →
    (s.chD d).fwd = none → ((s.chD d).holds.any fun h => h.past.isSome) = false → (s.stage d ≠ 0 ∨ (s.chD d).formed ≠ []) →
    s.nextForward d = some (u0, entry) →
    let u := if (s.chD d).dropped.contains (urMb u0) && !urDropped u0 then zeroRecord u0 else u0
    s.admits d (s.chD d).fwdNext (urSegCount u) = true → (s.chD d).isHeld (urMb u) = false →
    ∃ t, exec (.forwardPhase d) s = .next t ∧ t = { s with ch := t.ch, spine := t.spine } ∧
      (t.chD d).fwd = some (phaseAt (s.chD d).fwdNext (s.phaseOff d (s.activeOf d) .forward)) ∧
      ((t.chD d).unit (s.chD d).fwdNext).info = u ∧ ((t.chD d).unit (s.chD d).fwdNext).finB = entry ∧ (t.chD d).bwd = (s.chD d).bwd) ∧
  (∀ (s : State) (d : Die), s.tablesOk → s.mayIssue d = true → (s.chD d).start = none → (s.chD d).started = true → (s.chD d).bwd = none →
    let k := (s.chD d).backAt (s.chD d).bwdNext
    let u := (s.chD d).unit k
    u.info ≠ [] → u.fwd = true → u.bwd = false → (s.chD d).isHeld (urMb u.info) = false →
    (s.stagesOf d (s.activeOf d) ≤ s.stage d + 1 ∨ ((s.chD d).entryOf true k).isSome = true) →
    ∃ t, exec (.backwardPhase d) s = .next t ∧ t = { s with ch := t.ch } ∧
      (t.chD d).bwd = some (phaseAt k (s.phaseOff d (s.activeOf d) .backward)) ∧ (t.chD d).fwd = (s.chD d).fwd) ∧
  (∀ (s : State) (d : Die) (p : Phase) r, s.tablesOk → s.atOp d p r 1 →
    let w := s.opAt d (s.activeOf d) r.pc
    let rec0 := s.issueRec d (s.activeOf d) w
    let u := ((s.chD d).unit r.unit).info
    (s.engD d (opTarget w)).offer = [] →
    ∃ t offer, exec (.issue d p) s = .next t ∧ t = { s with eng := t.eng, ch := t.ch, freeCtr := t.freeCtr } ∧
      (t.chD d).phase p = some { r with waiting := true } ∧
      t.engD d (opTarget w) = { s.engD d (opTarget w) with offer := offer } ∧ offer.length = rec0.length ∧
      (bitsOf (rec0.getD 0 0) 3 0 = 2 → offer.take 8 = rec0.take 8) ∧
      (p ≠ .start → bitsOf (rec0.getD 0 0) 3 0 ≠ 2 →
        let mb := if bitOf (opArg2 w) 0 && !bitOf (opFix w) 2 then 0xFFF else urMb u
        let tagged := rec0.set 12 (putBits (rec0.getD 12 0) 11 0 mb)
        let o := orgWord (opOrgLvl w)
        offer = if opOrgLvl w = 0 then tagged else tagged.set o (putBits (tagged.getD o 0) 19 0 (tagged.getD o 0 % 2 ^ 20 + urSegOrg u)))) ∧
  (∀ (s : State) (d : Die) (p : Phase) r, s.tablesOk → s.atOp d p r 2 →
    let w := s.opAt d (s.activeOf d) r.pc
    ∃ t, exec (.extent d p) s = .next t ∧ t = { s with eng := t.eng, ch := t.ch } ∧
      (t.chD d).phase p = some { r with
        pc := r.pc + 16, slots := (opTarget w, opSel w) :: r.slots.filter fun z => z ≠ (opTarget w, opSel w) } ∧
      (t.engD d (opTarget w)).lx =
        (s.engD d (opTarget w)).lx.set 0 (opSel w) (urExtent ((s.chD d).unit r.unit).info (opArg w % 16))) ∧
  (∀ (s : State) (d : Die) (p : Phase) r, s.tablesOk → s.atOp d p r 3 →
    let w := s.opAt d (s.activeOf d) r.pc
    let k := qKey (cpReed (opTarget w)) 16
    ((s.fabD d).queue k).items.length < 16 →
    ∃ t u, exec (.go d p) s = .next t ∧ t = State.settle u d ∧ t.pastOp d p r ∧
      ((u.fabD d).queue k).items = ((s.fabD d).queue k).items ++ [tokenEntry 1 (opSel w)]) ∧
  (∀ (s : State) (d : Die) (p : Phase) r, s.tablesOk → s.atOp d p r 4 →
    let w := s.opAt d (s.activeOf d) r.pc
    let k := qKey (cpReed (opTarget w)) 8
    let v := ((s.chD d).unit r.unit).info
    ((s.fabD d).queue k).items.length < 8 → opArg w ≤ 2 →
    ∃ t u, exec (.word d p) s = .next t ∧ t = State.settle u d ∧ t.pastOp d p r ∧
      ((u.fabD d).queue k).items = ((s.fabD d).queue k).items ++
        [{ bits := if opArg w = 0 then opArg2 w
                   else urExtent v (opArg2 w % 16) + (if opArg w = 1 then 0 else 2 ^ 20 * urMb v), plane := false, last := false }]) ∧
  (∀ (s : State) (d : Die) (p : Phase) r, s.tablesOk → s.atOp d p r 5 →
    let w := s.opAt d (s.activeOf d) r.pc
    (opArg w = 0 → (opTarget w, 0x60 + opSel w) ∈ (s.fabD d).tokens →
      ∃ t, exec (.wait d p) s = .next t ∧ t = { s with fab := t.fab, ch := t.ch } ∧ t.pastOp d p r ∧
        (t.fabD d).tokens = eraseFirst (· = (opTarget w, 0x60 + opSel w)) (s.fabD d).tokens) ∧
    (opArg w ≠ 0 → ((s.chD d).offers.any fun q => q.eng = opTarget w) = false → (s.engD d (opTarget w)).offer = [] →
      ∃ t, exec (.wait d p) s = .next t ∧ t = { s with ch := t.ch } ∧ t.pastOp d p r)) ∧
  (∀ (s : State) (d : Die) (p : Phase) r, s.tablesOk → s.atOp d p r 6 →
    let g := opArg (s.opAt d (s.activeOf d) r.pc) % 256
    ∃ t, exec (.arm d p) s = .next t ∧ t = { s with rw := t.rw, ch := t.ch } ∧ t.wdArm d = g ∧
      (t.chD d).phase p = some { r with pc := r.pc + 16, armed := g }) ∧
  (∀ (s : State) (d : Die) (p : Phase) r, s.bel.stopped = false → s.tablesOk → s.atOp d p r 7 →
    let w := s.opAt d (s.activeOf d) r.pc
    let u := ((s.chD d).unit r.unit).info
    ((opArg w = 1 ∧ s.stage d = 0) ∨ (opArg w ≠ 1 ∧ s.stagesOf d (s.activeOf d) ≤ s.stage d + 1) →
      ∃ t, exec (.send d p) s = .next t ∧ t = { s with ch := t.ch } ∧ t.pastOp d p r ∧ ∀ k, k ≠ d.val → t.chD k = s.chD k) ∧
    (∀ n, opArg w ≠ 1 → s.stage d + 1 < s.stagesOf d (s.activeOf d) → s.dieOfStage (s.stage d + 1) = some n →
      (s.chD n).ringUsed.get 0 0 < s.bndDepth n (s.activeOf n) →
      let i := (s.chD n).ringNext.get 0 0
      ∃ t, exec (.send d p) s = .next t ∧
        t = { s with ch := t.ch, mem := t.mem, poison := t.poison, evt := t.evt, freeCtr := t.freeCtr } ∧ t.pastOp d p r ∧
        (t.chD n).inbox = (s.chD n).inbox ++ [(false, i, u)] ∧ (t.chD n).ringUsed.get 0 0 = (s.chD n).ringUsed.get 0 0 + 1 ∧
        ∀ b, b < s.entryAddr n false i ∨ s.entryAddr n false i + 64 ≤ b → t.byteAt b = s.byteAt b) ∧
    (∀ n, opArg w = 1 → s.stage d ≠ 0 → s.dieOfStage (s.stage d - 1) = some n →
      (s.chD n).ringUsed.get 0 1 < s.bndDepth n (s.activeOf n) →
      let i := (s.chD n).ringNext.get 0 1
      ∃ t, exec (.send d p) s = .next t ∧
        t = { s with ch := t.ch, mem := t.mem, poison := t.poison, evt := t.evt, freeCtr := t.freeCtr } ∧ t.pastOp d p r ∧
        (t.chD n).inbox = (s.chD n).inbox ++ [(true, i, u)] ∧ (t.chD n).ringUsed.get 0 1 = (s.chD n).ringUsed.get 0 1 + 1 ∧
        ∀ b, b < s.entryAddr n true i ∨ s.entryAddr n true i + 64 ≤ b → t.byteAt b = s.byteAt b) ∧
    ((opArg w ≠ 1 ∧ s.stage d + 1 < s.stagesOf d (s.activeOf d) ∧ s.dieOfStage (s.stage d + 1) = none) ∨
        (opArg w = 1 ∧ s.stage d ≠ 0 ∧ s.dieOfStage (s.stage d - 1) = none) →
      ∀ k, (s.conduitsOn 3)[s.choose (s.conduitsOn 3).length]? = some k → (s.cnd k).free.contains (s.cnd k).next = true →
      ∃ t, exec (.send d p) s = .next t ∧ t.pastOp d p r ∧ (t.cnd k).next = ((s.cnd k).next + 1) % s.cndEntries k ∧
        let a := s.cndSend k + (s.cnd k).next * s.cndBytes k
        ∀ b, b < a ∨ a + 64 ≤ b → t.byteAt b = s.byteAt b)) ∧
  (∀ (s : State) (d : Die) (p : Phase) r, s.tablesOk → s.atOp d p r 8 →
    let w := s.opAt d (s.activeOf d) r.pc
    let u := (s.chD d).unit r.unit
    ((opArg w = 0 ∧ u.finB ≠ 0) ∨ (opArg w = 1 ∧ u.binB ≠ 0) ∨ (2 ≤ opArg w ∧ s.stage d = 0 ∧ r.unit ≠ noUnit)) →
    ∃ t, exec (.recv d p) s = .next t ∧ t = { s with ch := t.ch } ∧ t.pastOp d p r) ∧
  (∀ (s : State) (d : Die) (p : Phase) r, s.tablesOk → s.atOp d p r 9 →
    let l := opLayer (s.opAt d (s.activeOf d) r.pc)
    ((s.chD d).offers.any fun q => q.layer = some l) = false → s.offering d l = false →
    ∃ t, exec (.doneLayer d p) s = .next t ∧ t = { s with ch := t.ch, spine := t.spine, cnt := t.cnt } ∧ t.pastOp d p r ∧
      let n := (s.chD d).done.get 0 l + (if urSeg ((s.chD d).unit r.unit).info = 0 then 1 else 0)
      (t.chD d).done.get 0 l = n ∧
      ((t.chD d).released.get false l = true ↔ (s.chD d).released.get false l = true ∨ n = s.mbPlan d (s.activeOf d))) ∧
  (∀ (s : State) (d : Die) r, s.tablesOk → s.atOp d .start r 15 →
    ∃ t, exec (.endProgram d .start) s = .next t ∧ t = { s with ch := t.ch } ∧
      t.chD d = { s.chD d with start := none, started := true }) ∧
  (∀ (s : State) (d : Die) r, s.tablesOk → s.atOp d .forward r 15 →
    ∃ t, exec (.endProgram d .forward) s = .next t ∧ t.mem = s.mem ∧ (t.chD d).fwd = none ∧ (t.chD d).fwdNext = (s.chD d).fwdNext + 1 ∧
      ((t.chD d).unit r.unit).fwd = true ∧ ((t.chD d).unit r.unit).finB = 0 ∧
      t.cntAt (regAddr (Page.die d) 0x40) = s.cntAt (regAddr (Page.die d) 0x40) + 1) ∧
  (∀ (s : State) (d : Die) r, s.tablesOk → s.atOp d .backward r 15 →
    ∃ t, exec (.endProgram d .backward) s = .next t ∧ t.mem = s.mem ∧ (t.chD d).bwd = none ∧ (t.chD d).bwdNext = (s.chD d).bwdNext + 1 ∧
      ((t.chD d).unit r.unit).bwd = true ∧ ((t.chD d).unit r.unit).binB = 0 ∧
      t.cntAt (regAddr (Page.die d) 0x44) = s.cntAt (regAddr (Page.die d) 0x44) + 1)

/-- DROP, HOLD_LIMIT_EXPIRY and ABANDON dispose of a held micro-batch, NEXT_COMPLETE and REVERT move the current slots, and LEAVEN_W0_WRITE
writes a shadow word (R187, R199, R201, R264, R423). -/
def Obligations.HoldsAndNotices : Prop :=
  (∀ (s : State) (d : Die) (h : Hold) (c : Instr), s.tablesOk →
    (c = .drop d ∧ (s.chD d).holds.head? = some h ∨
      c = .holdLimitExpiry d ∧ fld (s.rwAt (regAddr (Page.die d) 0x10C)) 15 0 ≠ 0 ∧
        ((s.chD d).holds.find? fun h => decide (h.since + fld (s.rwAt (regAddr (Page.die d) 0x10C)) 15 0 ≤ s.cad.tickNo)) = some h) →
    ∃ t, exec c s = .next t ∧ t = { s with eng := t.eng, ch := t.ch, evt := t.evt, cnt := t.cnt } ∧ (∀ k, k ≠ d.val → t.chD k = s.chD k) ∧
      (∀ e i, (t.engD d e).lx.get 0 i = (s.engD d e).lx.get 0 i ∨ ((t.engD d e).lx.get 0 i = 0 ∧
        ∃ q, (some q = (s.chD d).fwd ∨ some q = (s.chD d).bwd) ∧ urMb ((s.chD d).unit q.unit).info = h.mb ∧ (e, i) ∈ q.slots)) ∧
      h.mb ∈ (t.chD d).dropped ∧ (t.chD d).holds = (s.chD d).holds.filter (fun x => x.mb ≠ h.mb) ∧
      t.cntAt (regAddr (Page.die d) 0x54) = s.cntAt (regAddr (Page.die d) 0x54) + 1 ∧
      ∀ n, ((s.chD d).unit n).info ≠ [] → ((s.chD d).unit n).bwd = false →
        ((t.chD d).unit n).info = (if urMb ((s.chD d).unit n).info = h.mb then zeroRecord ((s.chD d).unit n).info else ((s.chD d).unit n).info)) ∧
  (∀ (s : State) (d : Die), s.tablesOk → (s.chD d).inStep = true ∨ (s.ctl.state = .running ∧ s.ctl.stepDue = 0) → (s.chD d).stopped = false →
    ∃ t, exec (.abandon d) s = .next t ∧ t = { s with ch := t.ch, spine := t.spine, evt := t.evt, cnt := t.cnt } ∧
      (t.chD d).stopped = true ∧ (t.chD d).holds = [] ∧ ∀ k, k < 4 → (t.chD k).abandoned = true) ∧
  (∀ (s : State) (d : Die) n s1, s.bel.stopped = false → s.tablesOk → s.takeNotice .nextComplete d = some (n, s1) →
    ∃ t, exec (.nextComplete d) s = .next t ∧ t = { s with ch := t.ch, spine := t.spine, cnt := t.cnt } ∧ t.spine = s1.spine ∧
      (t.chD d).nextFrom.get 0 n.a = (s.chD d).nextFrom.get 0 n.a ||| 2 ^ (n.sender % 2) ∧
      (let need := s.layerProofers d (s.activeOf d) n.a % 4
       (s.chD d).released.get false n.a = true → ((s.chD d).nextFrom.get 0 n.a ||| 2 ^ (n.sender % 2)) &&& need = need →
       s.frozen d n.a = false → (s.chD d).swapped.get false n.a = false → (s.chD d).abandoned = false → (s.chD d).stopped = false →
        (t.chD d).cur.get 0 n.a = 1 - (s.chD d).cur.get 0 n.a ∧ (t.chD d).swapped.get false n.a = true) ∧
      ((s.chD d).released.get false n.a = false → (t.chD d).cur = (s.chD d).cur)) ∧
  (∀ (s : State) (d : Die) n s1, s.tablesOk → s.takeNotice .revert d = some (n, s1) →
    ∃ t, exec (.revert d) s = .next t ∧ t.fuse = s.fuse ∧
      ∀ l, l < 64 → (t.chD d).cur.get 0 l = (if bitOf n.a l = true ∧ (s.chD d).swapped.get false l = true then
        1 - (s.chD d).cur.get 0 l else (s.chD d).cur.get 0 l)) ∧
  (∀ (s : State) (d : Die) (v : Word),
    let e := (s.levSel d).1
    (e < s.leaven.count.get 0 d → levW0Ok v.toNat = true →
      ∃ t, exec (.leavenW0Write d v) s = .next t ∧ t = { s with leaven := t.leaven } ∧ t.leaven.act = s.leaven.act ∧
        t.leaven.hist = s.leaven.hist ∧
        t.leaven.shNew.get none (levKey d e 0) =
          some ((BitVec.ofNat 32 (s.levShadow d e 0) &&& 0x0000000F#32) ||| (v &&& 0xFFFFFFF0#32))) ∧
    (s.leaven.count.get 0 d ≤ e ∨ levW0Ok v.toNat = false → exec (.leavenW0Write d v) s = .next s))

/-- PARTIAL_ROW, CONTRIBUTION_COMPLETE, DELIVERY, STATE_PREFETCH, CHUNK_APPLY, NEXT_COMPLETE_SEND and the notices of a Proofer (R239, R240,
R241, R243, R244, R245, R246, R247, R254, R260, R282). -/
def Obligations.ProoferWork : Prop :=
  (∀ (s : State) (p : Prf) a, s.bel.stopped = false → s.tablesOk → (s.spine.arrivals.find? fun a => a.prf = p.val) = some a →
    let x := s.prfP p
    (x.noRoom a.bytes.length = true → ∃ t, exec (.partialRow p) s = .next t ∧ t = { s with prf := t.prf, evt := t.evt, cnt := t.cnt } ∧
      (t.prfP p).full = a.bytes.length ∧ (t.prfP p).fullSeen = true ∧ (t.prfP p).park = x.park) ∧
    (x.noRoom a.bytes.length = false → a.hdr = true →
      ∃ t, exec (.partialRow p) s = .next t ∧ t = { s with prf := t.prf, spine := s.spine.shift p } ∧
      t.prfP p = { x with
        full := 0
        hdrs := x.hdrs.set (0, 2 ^ 32) a.port (bitsOf (leAt a.bytes 8 4) 31 20, leAt a.bytes 12 4) }) ∧
    (∀ q o, x.noRoom a.bytes.length = false → a.hdr = false → regionOf a.addr = .arrival q o → winKind o = false →
      let t0 := s.tt p (winEntry o)
      let i := winByte o / 2
      let es := ((List.range (a.bytes.length / 2)).map fun j => leAt a.bytes (2 * j) 2).take (needElems t0 (winChunk o) - i)
      let h := x.hdrs.get (0, 2 ^ 32) a.port
      ttValid t0 = true → x.idle = false → winChunk o ∈ ttServed t0 p → es ≠ [] → h.2 < 2 ^ 32 →
      ∃ t, exec (.partialRow p) s = .next t ∧ t = { s with prf := t.prf, spine := s.spine.shift p } ∧
        t.prfP p = { x with full := 0 }.addPiece t0
          { entry := winEntry o, chunk := winChunk o, mb := h.1, step := h.2, src := a.port, parts := .empty } i es) ∧
    (∀ q o, x.noRoom a.bytes.length = false → a.hdr = false → regionOf a.addr = .arrival q o → winKind o = true →
      let t0 := s.tt p (winEntry o)
      let i := winByte o / 4
      let es := ((List.range (a.bytes.length / 4)).map fun j => leAt a.bytes (4 * j) 4).take (ttWidth t0 - i)
      let same := fun k : Contribution => decide (k.entry = winEntry o ∧ k.chunk = winChunk o ∧ k.src = a.port)
      let l := joinParts same
        { entry := winEntry o, chunk := winChunk o, mb := 0, step := 0, src := a.port, parts := .empty } i es x.incoming
      ttValid t0 = true → winChunk o ∈ ttServed t0 p → es ≠ [] →
      ((∀ k ∈ l, same k = true → k.has (ttWidth t0) = false) →
        ∃ t, exec (.partialRow p) s = .next t ∧ t = { s with prf := t.prf, spine := s.spine.shift p } ∧
          t.prfP p = { x with full := 0, incoming := l }) ∧
      (∀ k, (l.find? fun k => same k && k.has (ttWidth t0)) = some k →
        ∃ t, exec (.partialRow p) s = .next t ∧ t = { s with prf := t.prf, spine := t.spine } ∧
          t.prfP p = { x with full := 0, incoming := eraseFirst same l } ∧
          t.spine = { s.spine.shift p with deliveries := (s.spine.shift p).deliveries ++ [
            { prf := p, entry := winEntry o, chunk := winChunk o, g := (List.range (ttWidth t0)).map fun j => k.parts.get noElem j
              absent := false, poison := false }] }))) ∧
  (∀ (s : State) (p : Prf) k, s.bel.stopped = false → s.tablesOk → s.firstComplete p = some k →
    let x := s.prfP p
    let t0 := s.tt p k.entry
    let key := chunkKey k.entry k.chunk
    let f0 := x.fold key
    let f1 := if f0.step = k.step then f0 else { Fold.none with step := k.step, src := k.src }
    let ct := x.continuation f1 k.mb
    let counted := ct.1 || decide (ttClass t0 ≠ 0)
    let isHeader := fun a => ttFoldAddr t0 k.chunk + 65536 ≤ a ∧ a < ttFoldAddr t0 k.chunk + 65600
    ∃ t, exec (.contributionComplete p) s = .next t ∧ t.ctl = s.ctl ∧ (t.prfP p).park = eraseFirst (· = k) x.park ∧
      ((x.chunk key).handed = false → ttLayer t0 ∉ x.released → k.step < 2 ^ 32 →
        t.cntAt (prfReg p 0x48) = s.cntAt (prfReg p 0x48) + b2n counted ∧
        t.cntAt (prfReg p 0x4C) = s.cntAt (prfReg p 0x4C) + (if ct.1 then 0 else 1) ∧
        ((t.prfP p).fold key).count = ct.2.count + b2n counted ∧
        (ct.1 = true → ttClass t0 = 0 → ct.2.count + 1 = ttExpect t0 → ((t.prfP p).chunk key).handed = true)) ∧
      (∀ a, isHeader a ∨ (ttFoldAddr t0 k.chunk ≤ a ∧ a < ttFoldAddr t0 k.chunk + 4 * ttWidth t0) ∨ t.byteAt a = s.byteAt a) ∧
      ((x.chunk key).handed = true ∨ ttLayer t0 ∈ x.released ∨ (ct.1 = true ∧ ttClass t0 = 0 ∧ ct.2.count + 1 = ttExpect t0) →
        t.mem = s.mem)) ∧
  (∀ (s : State) (p : Prf) e, s.bel.stopped = false → s.tablesOk → (s.spine.deliveries.find? fun e => e.prf = p.val) = some e →
    let x := s.prfP p
    let c := x.chunk (chunkKey e.entry e.chunk)
    x.idle = false → c.done = false →
    let n := 4 * e.g.length
    let g : Grad := ⟨e.entry, e.chunk, e.g, c.bad || e.poison, e.absent⟩
    let slots := x.park.length + x.readySlots
    (sumSlots ≤ slots → parkBytes < x.parkUsed + n →
      ∃ t, exec (.delivery p) s = .next t ∧ t = { s with prf := t.prf, evt := t.evt, cnt := t.cnt } ∧ (t.prfP p).full = n ∧
        (t.prfP p).fullSeen = true ∧ (t.prfP p).ready = x.ready ∧ (t.prfP p).held = x.held) ∧
    (slots < sumSlots ∨ x.parkUsed + n ≤ parkBytes →
    ∃ t, exec (.delivery p) s = .next t ∧ t = { s with prf := t.prf, spine := t.spine, cnt := t.cnt } ∧
      t.spine = { s.spine with deliveries := eraseFirst (fun q => q.prf = p.val) s.spine.deliveries } ∧
      t.prfP p = (if sumSlots ≤ slots then { x with full := 0, held := x.held ++ [g] } else { x with full := 0, ready := x.ready ++ [g] }) ∧
      t.cntAt (prfReg p 0x60) = s.cntAt (prfReg p 0x60) + 1)) ∧
  (∀ (s : State) (p : Prf) k, s.bel.stopped = false → s.tablesOk → s.prefetchNext p = some k →
    s.cacheUsed p + ttRecBytes (s.tt p (k / 32768)) ≤ cacheBytes →
    ∃ t, exec (.statePrefetch p) s = .next t ∧ t = { s with prf := t.prf } ∧
      t.prfP p = { s.prfP p with cached := (s.prfP p).cached ++ [k] }) ∧
  (∀ (s : State) (p : Prf) g, s.bel.stopped = false → s.tablesOk → (s.prfP p).abandoned = false → (s.prfP p).idle = false →
    (s.prfP p).ready.find? (s.applicable p) = some g →
    ∃ t, exec (.chunkApply p) s = .next t ∧ t.ctl = s.ctl ∧ t.fuse = s.fuse ∧ t.ch = s.ch ∧
      (∃ l, (t.prfP p).ready = eraseFirst (· = g) (s.prfP p).ready ++ l ∧ l ++ (t.prfP p).held = (s.prfP p).held) ∧
      ((t.prfP p).chunk (chunkKey g.entry g.chunk)).done = true ∧ chunkKey g.entry g.chunk ∉ (t.prfP p).cached) ∧
  (∀ (s : State) (p : Prf) l, s.bel.stopped = false → s.tablesOk →
    ((((s.entries p).map fun i => ttLayer (s.tt p i)).eraseDups).find? fun l =>
      !(s.prfP p).notified.contains l && !s.layerIsFrozen p l && s.layerCopied p l) = some l →
    s.ctl.state = .running → s.ctl.stepDue = 0 → (s.prfP p).abandoned = false →
    ∃ t, exec (.nextCompleteSend p) s = .next t ∧ t = { s with prf := t.prf, spine := t.spine } ∧
      t.prfP p = { s.prfP p with notified := (s.prfP p).notified ++ [l] } ∧
      t.spine = { s.spine with notices := s.spine.notices ++ [⟨.nextComplete, p.val / 2, p.val, l, 0, 0⟩] }) ∧
  (∀ (s : State) (p : Prf) n s1, s.bel.stopped = false → s.tablesOk → s.takeNotice .segment p = some (n, s1) →
    ∃ t, exec (.segmentNotice p) s = .next t ∧ t = { s with prf := t.prf, spine := s1.spine, evt := t.evt, cnt := t.cnt } ∧
      (t.prfP p).segs = (if (s.prfP p).segs.length < 64 then (s.prfP p).segs ++ [(n.a, n.b)] else (s.prfP p).segs)) ∧
  (∀ (s : State) (p : Prf) n s1, s.bel.stopped = false → s.tablesOk → s.takeNotice .poison p = some (n, s1) →
    ∃ t, exec (.poison p) s = .next t ∧
      t = { s with prf := t.prf, spine := s1.spine, mem := t.mem, poison := t.poison, evt := t.evt, freeCtr := t.freeCtr } ∧
      (t.prfP p).poisons = (s.prfP p).poisons ++ [(n.a, n.b)] ∧ (t.prfP p).park = (s.prfP p).park ∧
      ((∀ i ∈ s.entries p, ttTensor (s.tt p i) ≠ n.a) → t.mem = s.mem ∧ (t.prfP p).folds = (s.prfP p).folds) ∧
      ∀ i c, i ∈ s.entries p → ttTensor (s.tt p i) = n.a → c ∈ ttServed (s.tt p i) p →
        n.b ∈ ((s.prfP p).chunk (chunkKey i c)).mbs → ((t.prfP p).fold (chunkKey i c)).poison = true) ∧
  (∀ (s : State) (p : Prf) n s1, s.bel.stopped = false → s.tablesOk → s.takeNotice .release p = some (n, s1) →
    ∃ t, exec (.release p) s = .next t ∧ t.ctl = s.ctl ∧ t.fuse = s.fuse ∧ (t.prfP p).released = (s.prfP p).released ++ [n.a]) ∧
  (∀ (s : State) (p : Prf) n s1, s.bel.stopped = false → s.tablesOk → s.takeNotice .abandon p = some (n, s1) →
    ∃ t, exec (.abandonNotice p) s = .next t ∧ t = { s with prf := t.prf, spine := s1.spine } ∧
      t.prfP p = { s.prfP p with abandoned := (s.prfP p).abandoned || decide (n.a = s.ctl.stepNo % 2 ^ 32) })

/-- STEP_SEAL, SEAL_EXCHANGE, DIVERGENCE_RECOVERY, the checkpoint commands and their frames (R41, R263, R265, R268, R269, R270, R271, R272,
R376, R379). -/
def Obligations.SealAndCheckpoints : Prop :=
  (∀ s : State, s.tablesOk → s.spine.sealing = false → s.ctl.state = .running → s.spine.sealDue = true → s.inGroup = false →
    (∀ p, p < 8 → s.sealedCommit p = false) → (s.spine.notices.any fun n => n.kind = .revert) = false → s.spine.exporting = none → s.spine.decided = none →
    (∀ p, p < 8 → ∀ i ∈ s.entries p, ∀ c ∈ s.shardChunks p i, s.poisonedAt (ttHdrAddr (s.tt p i) (s.writeBank p i) c) 64 = false) →
    ∃ t, exec .stepSeal s = .next t ∧ t.ctl.stepNo = s.ctl.stepNo + 1 ∧ t.ctl.sealStep = s.ctl.stepNo ∧ t.spine.sealing = false ∧
      t.spine.decided = none ∧ t.spine.sealDue = false ∧ t.fuse = s.fuse ∧
      (∀ p, p < 8 → (t.prfP p).count = (s.prfP p).count + (if s.stepAbandoned || s.lostForGood then 0 else 1)) ∧
      (s.heldAtSeal = 0x10000 → t.ctl.state = .running) ∧
      (s.heldAtSeal ≠ 0x10000 → t.ctl.state = .held ∧ t.ctl.heldCause = s.heldAtSeal) ∧
      ∀ d i, d < 4 → i < s.leaven.count.get 0 d →
        let g := fun k => (s.levEntry d i).w.getD k 0
        let x := t.levEntry d i
        let ptr := bitsOf (g 12) 5 0
        (g 9 + 2 ^ 32 * bitsOf (g 10) 15 0 = 0 → x = s.levEntry d i) ∧
        (g 9 + 2 ^ 32 * bitsOf (g 10) 15 0 ≠ 0 →
          (∀ k, 6 ≤ k → k < 12 → x.w.getD k 0 = 0) ∧ x.w.getD 13 0 = s.ctl.stepNo % 2 ^ 32 ∧
          bitsOf (x.w.getD 12 0) 5 0 = (ptr + 1) % 64 ∧ x.hist = (s.levEntry d i).hist.set ptr (g 11) ∧
          (bitsOf (g 0) 31 30 ≠ 1 → x.w.getD 2 0 = fp32One ∧ x.w.getD 3 0 = fp32One) ∧
          ∀ base cur, bitsOf (g 0) 31 30 = 1 → Format.ofCode? (bitsOf (g 0) 7 4) = some base →
            Format.ofCode? (bitsOf (x.w.getD 0 0) 3 0) = some cur →
            let win := min (bitsOf (g 0) 21 16 + 1) (min (bitsOf (g 12) 12 6 + 1) 64)
            let sc := (sealScale base cur (bitsOf (g 0) 14 12) ((x.newest ((ptr + 1) % 64) win).foldl max 0)).getD (g 2, g 3)
            x.w.getD 2 0 = sc.1 % 2 ^ 32 ∧ x.w.getD 3 0 = sc.2 % 2 ^ 32)) ∧
  (∀ (s : State) e, s.tablesOk → s.spine.sealing = false → s.ctl.state = .running → s.spine.sealDue = true → s.spine.exporting = some e →
    s.spine.decided = none → (∀ p, p < 8 → s.sealedCommit p = false) →
    ∃ t, exec .stepSeal s = .next t ∧ t.ctl = s.ctl ∧ t.spine.sealing = true ∧ t.spine.exporting = some { e with late := true } ∧
      t.mem = s.mem) ∧
  (∀ (s : State) (m : SealMsg), s.ctl.state = .running → s.inGroup = true → m.member < s.replicas 0 → m.member ≠ s.replicaId 0 →
    ((s.spine.sealIn.any fun x => x.member = m.member) = false → s.spine.sealing = false →
      ∃ t, exec (.sealExchange m) s = .next t ∧ t = { s with spine := t.spine, subs := t.subs, cnt := t.cnt } ∧
        t.spine = { s.spine with sealIn := s.spine.sealIn ++ [m] }) ∧
    ((s.spine.sealIn.any fun x => x.member = m.member) = true → exec (.sealExchange m) s = .next s.takeSeal)) ∧
  (∀ (s : State) (p : Prf) (i : Fin 1024) chunks rep q, s.tablesOk → (p.val, i.val) ∈ s.spine.adopting → q ∈ s.spine.adopting →
    q ≠ (p.val, i.val) → s.spine.sealing = true → s.spine.compared = true → s.spine.decided = none → s.spine.exporting = none →
    s.stepAbandoned = false → s.inGroup = true →
    ∃ t, exec (.divergenceRecovery p i chunks rep) s = .next t ∧ t.ctl = s.ctl ∧ t.spine.sealing = true ∧
      t.spine.adopting = s.spine.adopting.filter (fun r => r ≠ (p.val, i.val)) ∧ ((t.prfP p).tensorRun i).adopted = true ∧
      t.cntAt (prfReg p 0x6C) = s.cntAt (prfReg p 0x6C) + 1) ∧
  (∀ (s : State) h (a : CkptArgs), s.accepts h 0x0040 s.isSealed = true → a.tensorLo ≤ a.tensorHi → s.bulkConduit a.conduit = true →
    ∃ t, exec (.ckptExport h a) s = .next t ∧ t.responded h 0x0040 stStarted ∧ t.ctl.state = s.ctl.state ∧ t.mem = s.mem ∧
      t.spine.frames = [] ∧
      t.spine.exporting = some
        { lo := a.tensorLo.toNat, hi := a.tensorHi.toNat, base := if a.incremental then some a.baseUpd.toNat else none,
          late := false, begun := false, next := 0, conduit := a.conduit.map Fin.val }) ∧
  (∀ (s : State) h k, s.accepts h 0x0041 s.isSealed = true → s.bulkConduit k = true →
    ∃ t, exec (.ckptImport h k) s = .next t ∧ t.ctl.state = s.ctl.state ∧ t.mem = s.mem ∧
      (∃ r : Resp, t.ctl.stored.head? = some r ∧ r.tag = h.tag.toNat ∧ r.opcode = 0x0041 ∧ r.status = stStarted ∧
        t.ctl.out = s.ctl.out ++ .resp r :: (if k = none then [.credit 4 ckptWindow] else [])) ∧
      t.ctl.ckInGot = 0 ∧ t.ctl.ckInLimit = ckptWindow ∧
      t.spine.importing = true ∧ t.spine.runFrame = none ∧ t.spine.impFailed = [] ∧ t.spine.exporting = s.spine.exporting) ∧
  (∀ (s : State) h, s.accepts h 0x0042 s.isSealed = true →
    ∃ t, exec (.ckptStop h) s = .next t ∧ t.spine.exporting = none ∧ t.spine.importing = false ∧ t.fuse = s.fuse ∧
      ∃ r ∈ t.ctl.stored, r.tag = h.tag.toNat ∧ r.opcode = 0x0042 ∧ r.status = stOk) ∧
  (∀ (s : State) e, s.bel.stopped = false → s.memOk → s.tablesOk → s.spine.exporting = some e →
    let l := s.chunkList.drop e.next
    let skip := (l.takeWhile fun q => !s.exports e q).length
    let fits := fun (bs : List Byte) => e.conduit.isSome ∨ s.portHolds bs.length = false
    (e.begun = false → fits (s.runFrameBytes e) →
      ∃ t, exec .exportFrame s = .next t ∧ (e.conduit = none → t = { s with ctl := t.ctl, cnt := t.cnt, spine := t.spine }) ∧
        (∀ k, e.conduit = some k → ∀ a, a < s.cndSend k ∨ s.cndSend k + s.cndArea k ≤ a → t.byteAt a = s.byteAt a) ∧
        t.spine.frames = s.spine.frames ++ [s.runFrameBytes e] ∧ t.spine.exporting = some { e with begun := true }) ∧
    (∀ q, e.begun = true → (l.drop skip).head? = some q → fits (s.chunkFrame e q) →
      ∃ t, exec .exportFrame s = .next t ∧ (e.conduit = none → t = { s with ctl := t.ctl, cnt := t.cnt, spine := t.spine }) ∧
        (∀ k, e.conduit = some k → ∀ a, a < s.cndSend k ∨ s.cndSend k + s.cndArea k ≤ a → t.byteAt a = s.byteAt a) ∧
        t.spine.frames = s.spine.frames ++ [s.chunkFrame e q] ∧ t.spine.exporting = some { e with next := e.next + skip + 1 }) ∧
    (let last := frameBytes 1 0 0 0 s.exportUpd (e.base.getD 0) 0 [] false
     e.begun = true → (l.drop skip).head? = none → fits last →
      ∃ t, exec .exportFrame s = .next t ∧ t.spine.frames = s.spine.frames ++ [last] ∧ t.spine.exporting = none)) ∧
  (∀ (s : State) (f : CkFrame), s.bel.stopped = false → s.spine.importing = true → s.importGap f = true →
    ∃ t, exec (.importFrame f) s = .next t ∧ t = { s with ctl := t.ctl } ∧ t.ctl.ckInGot = s.ctl.ckInGot ∧
      t.ctl.out = s.ctl.out ++ [.nak 4 s.ctl.ckInGot]) ∧
  (∀ (s : State) (f : CkFrame), s.bel.stopped = false → s.tablesOk → s.spine.importing = true → s.importGap f = false → s.importNext f = true →
    let bytes := f.bytes
    let w := fun i => leAt bytes (4 * i) 4
    let kind := bitsOf (w 1) 17 16
    let sum := crc64 (bytes.take 40 ++ List.replicate 8 0 ++ bytes.drop 48)
    (64 ≤ bytes.length → sum ≠ w 10 + 2 ^ 32 * w 11 →
      ∃ t, exec (.importFrame f) s = .next t ∧ t.mem = s.mem ∧ t.prf = s.prf ∧ t.spine.importing = true ∧
        (bitsOf (w 2) 19 0, bitsOf (w 3) 23 0) ∈ t.spine.impFailed) ∧
    (64 ≤ bytes.length → w 0 = 0x4B43514E → bitsOf (w 1) 15 0 = 1 → w 7 = bytes.length - 64 → sum = w 10 + 2 ^ 32 * w 11 →
      (kind = 2 → ∃ t, exec (.importFrame f) s = .next t ∧ t.mem = s.mem ∧ t.spine.runFrame = some (bytes.drop 64) ∧
        t.spine.importing = true) ∧
      (kind = 1 → ∃ t, exec (.importFrame f) s = .next t ∧ t.spine.importing = false ∧
        (s.spine.impFailed = [] → ∀ p, p < 8 → (t.prfP p).count = w 4 + 2 ^ 32 * w 5 + 1)) ∧
      (∀ p i, kind = 0 → s.importView.entryOf (bitsOf (w 2) 19 0) (bitsOf (w 3) 23 0) = some (p, i) →
        b2n (ttCompact (s.importView.tt p i)) = bitsOf (w 1) 18 18 → bytes.length = 128 + ttRecBytes (s.importView.tt p i) →
        crc64 (bytes.drop 128) = w 8 + 2 ^ 32 * w 9 →
        ∃ t, exec (.importFrame f) s = .next t ∧ t.spine.importing = true ∧ t.prf = s.prf ∧
          t.cntAt (prfReg p 0x74) = s.cntAt (prfReg p 0x74) + 1 ∧
          (bitsOf (w 2) 19 0, bitsOf (w 3) 23 0) ∉ t.spine.impFailed)))

/-- Flits, retries, lane retirement, retraining, training and heartbeats change their own sub-port and no other (R317, R318, R319, R321,
R322, R323, R324, R325, R328, R336). -/
def Obligations.LinkLayer : Prop :=
  (∀ (s : State) (c : PortCode) (f : Flit), s.bel.stopped = false → s.tablesOk → (s.subP c).carries = true →
    let x := s.subP c
    (dataGood f = true → f.seq.toNat = x.expect →
      ∃ t, exec (.dataFlit c f) s = .next t ∧ t = { s with subs := t.subs, ports := t.ports, evt := t.evt, cnt := t.cnt } ∧ (∀ k, k ≠ c.val → t.subP k = s.subP k) ∧
        (t.subP c).expect = (x.expect + 1) % 2048 ∧ (t.subP c).nak = false ∧
        (∃ l, (t.subP c).out = x.out ++ l ∧ l ≠ [] ∧ ∀ g ∈ l, g.ack = f.seq.toNat) ∧
        t.cntAt (portReg (portOf c) 0x44) = s.cntAt (portReg (portOf c) 0x44) + 1 ∧
        (f.eom = false → (t.subP c).rx = x.rx) ∧
        (f.som = true → f.eom = true → bitsOf (leAt f.payload 0 4) 3 0 ≤ 7 → leAt f.payload 8 4 + 16 ≤ f.payload.length →
          leAt f.payload 8 4 ≤ 65600 →
          (t.subP c).rx = x.rx ++ [(f.vc.toNat, f.payload.take (16 + leAt f.payload 8 4))])) ∧
    (dataGood f = true → f.seq.toNat ≠ x.expect →
      ∃ t, exec (.dataFlit c f) s = .next t ∧ t = { s with subs := t.subs, ports := t.ports, evt := t.evt, cnt := t.cnt } ∧ (∀ k, k ≠ c.val → t.subP k = s.subP k) ∧ (t.subP c).expect = x.expect ∧ (t.subP c).rx = x.rx ∧
        (t.subP c).nak = (x.nak || decide ((f.seq.toNat + 2048 - x.expect) % 2048 < 1024))) ∧
    (dataGood f = false →
      ∃ t, exec (.dataFlit c f) s = .next t ∧ t = { s with subs := t.subs, ports := t.ports, evt := t.evt, cnt := t.cnt } ∧ (∀ k, k ≠ c.val → t.subP k = s.subP k) ∧
        t.subP c = { x with nak := true, out := (t.subP c).out, returned := (t.subP c).returned } ∧
        (x.nak = false → ∃ g, (t.subP c).out = x.out ++ [g] ∧ g.typ = 2 ∧ g.ack = (x.expect + 2047) % 2048) ∧
        t.cntAt (portReg (portOf c) 0x48) = s.cntAt (portReg (portOf c) 0x48) + (if dataCrcOk f then 0 else 1))) ∧
  (∀ (s : State) (c : PortCode) (h : FlitHdr), s.bel.stopped = false → s.tablesOk → (s.subP c).carries = true →
    let x := s.subP c
    (∀ i, plainGood h 0 = true → (x.replay.findIdx? fun f => f.seq = h.ack.toNat) = some i →
      ∃ t l, exec (.idleFlit c h) s = .next t ∧ t = { s with subs := t.subs, ports := t.ports, evt := t.evt, cnt := t.cnt } ∧ (∀ k, k ≠ c.val → t.subP k = s.subP k) ∧ (t.subP c).replay = x.replay.drop (i + 1) ++ l ∧
        (t.subP c).retries = 0 ∧ (t.subP c).ackUs = s.nowUs ∧ (t.subP c).expect = x.expect ∧ (t.subP c).rx = x.rx) ∧
    (plainGood h 2 = true → (x.replay.findIdx? fun f => f.seq = h.ack.toNat) = none → x.replay ≠ [] →
      ∃ t l, exec (.nakFlit c h) s = .next t ∧ t = { s with subs := t.subs, ports := t.ports, evt := t.evt, cnt := t.cnt } ∧ (∀ k, k ≠ c.val → t.subP k = s.subP k) ∧ (t.subP c).replay = x.replay ++ l ∧
        (t.subP c).retries = min 9 (x.retries + 1) ∧ (t.subP c).expect = x.expect ∧ (t.subP c).rx = x.rx ∧
        (x.retries < 8 → ∀ f ∈ x.replay, ∃ g ∈ (t.subP c).out, g.typ = 1 ∧ g.vc = f.vc ∧ g.seq = f.seq ∧ g.payload = f.payload) ∧
        t.cntAt (portReg (portOf c) 0x4C) = s.cntAt (portReg (portOf c) 0x4C) + (if x.retries < 8 then 1 else 0))) ∧
  (∀ (s : State) (c : PortCode), s.bel.stopped = false → s.tablesOk → (s.subP c).carries = true → (s.subP c).replay ≠ [] → (s.subP c).ackUs + 2 ≤ s.nowUs →
    ∃ t, exec (.ackTimeout c) s = .next t ∧ t = { s with subs := t.subs, ports := t.ports, evt := t.evt, cnt := t.cnt } ∧ (∀ k, k ≠ c.val → t.subP k = s.subP k) ∧
      t.subP c = { s.subP c with
        retries := min 9 ((s.subP c).retries + 1), ackUs := s.nowUs, out := (t.subP c).out, returned := (t.subP c).returned } ∧
      ((s.subP c).retries < 8 →
        ∀ f ∈ (s.subP c).replay, ∃ g ∈ (t.subP c).out, g.typ = 1 ∧ g.vc = f.vc ∧ g.seq = f.seq ∧ g.payload = f.payload)) ∧
  (∀ (s : State) (c : PortCode) (l : Nat) (i : Instr), s.tablesOk → (s.subP c).carries = true →
    let x := s.subP c
    ((∃ uncorr, i = .lnkLaneRetired c uncorr ∧ 9 ≤ x.retries ∧ worstLane x.active uncorr = some l) ∨
      (∃ lane : Fin 32, i = .laneMarginLimit c lane ∧ lane.val = l ∧ 16 ≤ x.low.get 0 l ∧ bitOf x.active l = true)) →
    ∃ t, exec i s = .next t ∧ t = { s with subs := t.subs, ports := t.ports, evt := t.evt, cnt := t.cnt } ∧ (∀ k, k ≠ c.val → t.subP k = s.subP k) ∧ (t.subP c).active = x.active - 2 ^ l ∧ (t.subP c).retired = x.retired ||| 2 ^ l ∧
      (t.subP c).retries = min 8 x.retries ∧ (t.subP c).replay = x.replay ∧
      t.cntAt (portReg (portOf c) 0x58) = s.cntAt (portReg (portOf c) 0x58) + 1 ∧
      (laneCount x.lanes ≤ 4 * laneCount (x.active - 2 ^ l) → (t.subP c).state = .retraining ∧ (t.subP c).retrainUs = s.nowUs) ∧
      (4 * laneCount (x.active - 2 ^ l) < laneCount x.lanes → (t.subP c).state = .down ∧ (t.subP c).downCause = 2)) ∧
  (∀ (s : State) (c : PortCode), s.bel.stopped = false → s.tablesOk → (s.subP c).carries = true →
    ∃ t, exec (.lockLoss c) s = .next t ∧ t = { s with subs := t.subs, ports := t.ports, evt := t.evt, cnt := t.cnt } ∧ (∀ k, k ≠ c.val → t.subP k = s.subP k) ∧ t.subP c = { s.subP c with state := .retraining, retrainUs := s.nowUs } ∧
      t.cntAt (portReg (portOf c) 0x5C) = s.cntAt (portReg (portOf c) 0x5C) + 1) ∧
  (∀ (s : State) (c : PortCode) (ok : Bool), s.bel.stopped = false → s.tablesOk → (s.subP c).state = .retraining →
    let x := s.subP c
    (ok = true ∧ s.nowUs ≤ x.retrainUs + 250 →
      ∃ t, exec (.fastRetrainEnd c ok) s = .next t ∧ t = { s with subs := t.subs, ports := t.ports, evt := t.evt, cnt := t.cnt } ∧ (∀ k, k ≠ c.val → t.subP k = s.subP k) ∧ (t.subP c).retries = x.retries ∧ (t.subP c).active = x.active ∧
        (t.subP c).state = (if laneCount x.active = laneCount x.lanes then .up else .degraded)) ∧
    (ok = false ∨ x.retrainUs + 250 < s.nowUs →
      ∃ t, exec (.fastRetrainEnd c ok) s = .next t ∧ t = { s with subs := t.subs, ports := t.ports, evt := t.evt, cnt := t.cnt } ∧ (∀ k, k ≠ c.val → t.subP k = s.subP k) ∧ t.subP c = { x with state := .down, downCause := 1 })) ∧
  (∀ (s : State) (c : PortCode) (r : TrainResult), s.bel.stopped = false → s.tablesOk → (s.subP c).state = .training →
    ∃ t, exec (.trainingEnd c r) s = .next t ∧ t = { s with subs := t.subs, ctl := t.ctl, evt := t.evt, cnt := t.cnt } ∧
      (∀ k, k ≠ c.val → t.subP k = s.subP k) ∧ t.ctl.state = s.ctl.state ∧
      (∀ peer, r = .up peer → (t.subP c).state = .up ∧ (t.subP c).active = (s.subP c).lanes ∧ (t.subP c).lanes = (s.subP c).lanes ∧
        (t.subP c).nextSeq = 0 ∧ (t.subP c).expect = 0 ∧ (t.subP c).peerLost = false ∧ (t.subP c).lastHb = s.cad.tickNo ∧
        ∀ v : Fin 5, (t.subP c).credits.get 0 (v.val + 1) = (peer[v]).toNat) ∧
      (r = .failed → t.subP c = { s.subP c with state := .down, downCause := 1 }) ∧
      (r = .tooFar → t.subP c = { s.subP c with state := .down, downCause := 3 })) ∧
  (∀ (s : State) (c : PortCode) m s1, s.bel.stopped = false → s.tablesOk → s.takeMsg c 0 = some (m, s1) →
    let x := s1.subP c
    (x.peerLost = false → ∃ t, exec (.heartbeat c) s = .next t ∧ t = { s with subs := t.subs, ports := t.ports, evt := t.evt, cnt := t.cnt } ∧ (∀ k, k ≠ c.val → t.subP k = s.subP k) ∧ t.subP c = { x with lastHb := s.cad.tickNo, peerId := msgSrc m }) ∧
    (x.peerLost = true → ∃ t, exec (.heartbeat c) s = .next t ∧ t = { s with subs := t.subs, ports := t.ports, evt := t.evt, cnt := t.cnt } ∧ (∀ k, k ≠ c.val → t.subP k = s.subP k) ∧ t.subP c = x ∧
      t.cntAt (portReg (portOf c) 0x60) = s.cntAt (portReg (portOf c) 0x60) + 1)) ∧
  (∀ (s : State) (c : PortCode), s.bel.stopped = false → s.tablesOk → (s.subP c).live = true → (s.subP c).peerLost = false →
    (s.subP c).lastHb + 4 ≤ s.cad.tickNo →
    ∃ t, exec (.lnkPartition c) s = .next t ∧ t = { s with subs := t.subs, ports := t.ports, evt := t.evt, cnt := t.cnt } ∧ (∀ k, k ≠ c.val → t.subP k = s.subP k) ∧ t.subP c = { s.subP c with peerLost := true })

/-- COLLECTIVE_DATA, WINDOW_CREDIT, COLLECTIVE_ABORT, COL_TIMEOUT, the conduit messages and bulk transfers (R327, R330, R331, R332, R333,
R337). -/
def Obligations.CollectivesAndConduits : Prop :=
  (∀ (s : State) (c : PortCode) m s0 o, s.bel.stopped = false → s.tablesOk → s.takeMsg c 3 = some (m, s0) → s.col.timedOut = false →
    (((s.subP c).rx.find? fun m => bitsOf (leAt m.2 0 4) 3 0 = 3).map Prod.fst ≠ some 2) →
    s.findOp (msgId m) false = some o →
    let t0 := s.opTable (msgId m) (msgOffset m)
    let k := o.chunks.get ColChunk.none (msgOffset m)
    let v : ColVal :=
      { data := (List.range ((msgData m).length / 4)).map fun i => leAt (msgData m) (4 * i) 4
        absent := bitOf (msgFlags m) 0, poison := bitOf (msgFlags m) 1 }
    ttValid t0 = true → msgOffset m < ttChunks t0 → (msgData m).length ≤ 4 * ttWidth t0 →
    let second := s.cameY o.group c != (s.place o (msgOffset m)).swap
    k.own = none → k.row = none → k.sentX = false → k.sentY = false → k.done = false →
    ∃ t, exec (.collectiveData c) s = .next t ∧ t.mem = s.mem ∧ t.prf = s.prf ∧
      t.col.notices = s.col.notices ++ [.credit (msgId m) (s.cameY o.group c) 1] ∧
      ∃ o', t.findOp (msgId m) false = some o' ∧
        (o'.chunks.get ColChunk.none (msgOffset m)) = (if second then { k with inY := some v.marked } else { k with inX := some v.marked })) ∧
  (∀ (s : State) (c : PortCode) m s0, s.bel.stopped = false → s.tablesOk → s.takeMsg c 3 = some (m, s0) → s.col.timedOut = false →
    (ttValid (s.opTable (msgId m) (msgOffset m)) = false ∨ ttChunks (s.opTable (msgId m) (msgOffset m)) ≤ msgOffset m) →
    ∃ t, exec (.collectiveData c) s = .next t ∧ t = { s with subs := s0.subs, evt := t.evt, cnt := t.cnt } ∧
      t.evt = (s0.raise Page.coll Code.colConfigInvalid (s0.portPayload c.val 4 0xFFFF)).evt ∧
      t.cntAt (portReg (portOf c) 0x64) = s.cntAt (portReg (portOf c) 0x64) + 1) ∧
  (∀ (s : State) (num : Fin 4096) (gather alongY : Bool) (n : Nat) o, s.bel.stopped = false → s.tablesOk → s.col.timedOut = false →
    s.findOp num gather = some o → o.waiting = [] → ((List.range (s.opChunks num)).all fun c => (o.chunks.get ColChunk.none c).done) = false →
    ∃ t, exec (.windowCredit num gather alongY n) s = .next t ∧ t = { s with subs := t.subs, col := t.col } ∧
      t.findOp num gather = some (if alongY then { o with winY := o.winY + n } else { o with winX := o.winX + n })) ∧
  (∀ (s : State) (c : PortCode) m s0, s.bel.stopped = false → s.tablesOk → s.takeMsg c 4 = some (m, s0) →
    ∃ t, exec (.collectiveAbort c) s = .next t ∧ t.mem = s.mem ∧
      t.cntAt (regAddr Page.coll 0x50) = s.cntAt (regAddr Page.coll 0x50) + 1 ∧
      ∀ g, g < 8 → c.val ∈ s.grpAll g → g ∉ s.col.aborted →
        t.col.timedOut = true ∧ g ∈ t.col.aborted ∧ ∀ o ∈ t.col.ops, o.group ≠ g) ∧
  (∀ (s : State) (g : Fin 8), s.bel.stopped = false → s.tablesOk → (∃ o ∈ s.col.ops, o.group = g.val) →
    ((∃ c ∈ s.grpAll g, (s.subP c).peerLost = true) ∨ ∃ o ∈ s.col.ops, o.group = g.val ∧ o.progress + s.colWait ≤ s.cad.tickNo) →
    ∃ t, exec (.colTimeout (.group g)) s = .next t ∧ t.mem = s.mem ∧ t.col.timedOut = true ∧
      t.col.ops = s.col.ops.filter (fun o => o.group ≠ g.val) ∧
      t.cntAt (regAddr Page.coll 0x4C) = s.cntAt (regAddr Page.coll 0x4C) + 1) ∧
  (∀ (s : State) (k : Fin 32), s.bel.stopped = false → s.tablesOk → s.cndValid k = true → k.val ∉ s.col.shut →
    ((s.subP (s.cndPort k)).peerLost = true ∨
      ∃ w, (s.cnd k).waitFrom = some w ∧ w + s.colWait ≤ s.cad.tickNo ∧ ((s.cnd k).handed ≠ [] ∨ ∃ d, d < 4 ∧ s.mayIssue d = true)) →
    ∃ t, exec (.colTimeout (.conduit k)) s = .next t ∧ t.mem = s.mem ∧ t.col.timedOut = true ∧ (t.cnd k).handed = [] ∧ k.val ∈ t.col.shut ∧
      (t.cnd k).waitFrom = none ∧ (t.cnd k).free = (s.cnd k).free) ∧
  (∀ (s : State) (c : PortCode) m s0, s.bel.stopped = false → s.tablesOk → s.takeMsg c 2 = some (m, s0) →
    let k := msgId m % 32
    let i := msgOffset m / max 1 (s.cndBytes k)
    (s.cnd k).handed = [] →
    ∃ t, exec (.conduitNotice c) s = .next t ∧ t = { s with subs := s0.subs, col := t.col } ∧ i ∈ (t.cnd k).free ∧
      ∀ j, j ∈ (t.cnd k).free ↔ j = i ∨ j ∈ (s.cnd k).free) ∧
  (∀ (s : State) (c : PortCode) (dest : BitVec 46) m s0, s.bel.stopped = false → s.memOk → s.tablesOk → s.takeMsg c 1 = some (m, s0) →
    let k := msgId m % 32
    let n := s.cndBytes k
    let a := dest.toNat + msgOffset m
    (s.cndValid k = true → msgOffset m + (msgData m).length ≤ s.cndEntries k * n → msgData m ≠ [] →
      s.spanFault (colUnitOf c) a (msgData m).length true = none →
      ∃ t, exec (.conduitData c dest) s = .next t ∧ t.ctl = s.ctl ∧
        (∀ p o, regionOf a = .arrival p o → t.mem = s.mem ∧ t.poison = s.poison ∧
          t.spine.arrivals = s.spine.arrivals ++ [⟨p, arrivalSender (colUnitOf c), a, msgData m, false⟩]) ∧
        ((∀ p o, regionOf a ≠ .arrival p o) → (∀ i b, (msgData m)[i]? = some b → t.byteAt (a + i) = b) ∧
          ∀ q, q < a ∨ a + (msgData m).length ≤ q → t.byteAt q = s.byteAt q) ∧
        ((s.cnd k).got.get 0 (msgOffset m / max 1 n) + (msgData m).length < n →
          (t.cnd k).got.get 0 (msgOffset m / max 1 n) = (s.cnd k).got.get 0 (msgOffset m / max 1 n) + (msgData m).length)) ∧
    (s.cndValid k = false ∨ s.cndEntries k * n < msgOffset m + (msgData m).length →
      ∃ t, exec (.conduitData c dest) s = .next t ∧ t = { s with subs := s0.subs, evt := t.evt, cnt := t.cnt } ∧
        t.evt = (s0.raise Page.coll Code.colConfigInvalid (s0.portPayload c.val 4 k)).evt ∧
        t.cntAt (portReg (portOf c) 0x64) = s.cntAt (portReg (portOf c) 0x64) + 1)) ∧
  (∀ (s : State) (c : PortCode) (addr : BitVec 46) len m s0, s.bel.stopped = false → s.tablesOk → s.takeMsg c 6 = some (m, s0) →
    ∃ t, exec (.bulkReadRequest c addr len) s = .next t ∧
      (s.mayLeave addr.toNat len = false → leAt (msgData m) 12 4 = 0 →
        t = { s with subs := s0.subs, cnt := t.cnt } ∧
          t.cntAt (portReg (portOf c) 0x64) = s.cntAt (portReg (portOf c) 0x64) + 1) ∧
      t = { s with subs := t.subs, evt := t.evt, cnt := t.cnt, freeCtr := t.freeCtr } ∧
      (∀ k, k ≠ c.val → t.subP k = s.subP k) ∧ (t.subP c).rx = (s0.subP c).rx) ∧
  (∀ (s : State) (c : PortCode) (addr : BitVec 46) m s0, s.bel.stopped = false → s.memOk → s.tablesOk → s.takeMsg c 7 = some (m, s0) →
    let a := addr.toNat + msgOffset m
    ((∃ p q, regionOf a = .trough p q) ∨ ∃ d q, regionOf a = .crust d q) → s.spanFault (colUnitOf c) a (msgData m).length true = none →
    bulkFits a (msgData m).length = true →
    ∃ t, exec (.bulkData c addr) s = .next t ∧ t = { s with subs := s0.subs, mem := t.mem, poison := t.poison, spine := t.spine } ∧
      t.spine = (if s.spine.importing = true ∧ s.spine.impConduit = some (msgId m % 32) then
        { s.spine with impBytes := s.spine.impBytes ++ msgData m } else s.spine) ∧
      (∀ i b, (msgData m)[i]? = some b → t.byteAt (a + i) = b) ∧
      ∀ q, q < a ∨ a + (msgData m).length ≤ q → t.byteAt q = s.byteAt q) ∧
  (∀ (s : State) (c : PortCode) (addr : BitVec 46) m s0, s.bel.stopped = false → s.tablesOk → s.takeMsg c 7 = some (m, s0) →
    bulkFits (addr.toNat + msgOffset m) (msgData m).length = false →
    ∃ t, exec (.bulkData c addr) s = .next t ∧ t = { s with subs := s0.subs, evt := t.evt, cnt := t.cnt } ∧
      t.evt = (s0.raise Page.coll Code.colConfigInvalid (s0.portPayload c.val 4 (msgId m % 32))).evt ∧
      t.cntAt (portReg (portOf c) 0x64) = s.cntAt (portReg (portOf c) 0x64) + 1)

/-- OPEN, FORK, APPEND, FREE, ADVANCE and READER_CLOSE change the directory, the pages, the epoch and the readers of a die's KV unit (R219,
R220, R221, R222, R223, R224, R225, R226). -/
def Obligations.KvCommands : Prop :=
  (∀ (s : State) (d : Die) c rest, s.bel.stopped = false → s.memOk → s.tablesOk → (s.kvD d).cmds = c :: rest → s.kvRoom d c.src = true →
    let f := KvFields.of c.words
    let k := s.kvD d
    f.op = 1 →
    ((k.seq f.seq).isOpen = false → f.streams ≠ 0 → f.jmax ≠ 0 → f.clean = true → tableInCrust d f.ptBase (f.streams * f.jmax) = true →
      ∃ t, exec (.kvOpen d) s = .next t ∧ t.ctl = s.ctl ∧
        (t.kvD d).seq f.seq = { isOpen := true, streams := f.streams, jmax := f.jmax, len := 0, base := f.ptBase } ∧
        (∀ q, q ≠ f.seq → (t.kvD d).seq q = k.seq q) ∧ (t.kvD d).pages = k.pages ∧
        (c.src = 0 → (t.kvD d).resp = 16 * f.seq ∧ (t.kvD d).cmds = rest ∧
          ∀ st j, st < f.streams → j < f.jmax → t.kvEntry ((t.kvD d).seq f.seq) st j = none)) ∧
    ((k.seq f.seq).isOpen = true ∨ f.streams = 0 ∨ f.jmax = 0 ∨ f.clean = false ∨ tableInCrust d f.ptBase (f.streams * f.jmax) = false →
      ∃ t, exec (.kvOpen d) s = .next t ∧ t.ctl = s.ctl ∧ (t.kvD d).seqs = k.seqs ∧ (t.kvD d).pages = k.pages ∧ (t.kvD d).epoch = k.epoch ∧
        (c.src = 0 → (t.kvD d).resp = 2 + 16 * f.seq ∧ t.mem = s.mem))) ∧
  (∀ (s : State) (d : Die) c rest, s.bel.stopped = false → s.tablesOk → (s.kvD d).cmds = c :: rest → s.kvRoom d c.src = true →
    let f := KvFields.of c.words
    let k := s.kvD d
    f.op = 2 →
    let par := k.seq f.parent
    let pages := (s.kvPrefix par f.count).map fun x => x.2.2
    ((k.seq f.seq).isOpen = false → par.isOpen = true → f.count ≤ par.len → f.clean = true →
      tableInCrust d f.ptBase (par.streams * par.jmax) = true → (∀ g ∈ pages, g < s.kvPages d ∧ k.ref g + pages.count g ≤ 65535) →
      ∃ t, exec (.kvFork d) s = .next t ∧ t.ctl = s.ctl ∧
        (t.kvD d).seq f.seq = { isOpen := true, streams := par.streams, jmax := par.jmax, len := f.count, base := f.ptBase } ∧
        ∀ g, (t.kvD d).ref g = k.ref g + pages.count g) ∧
    ((k.seq f.seq).isOpen = true ∨ par.isOpen = false ∨ par.len < f.count ∨ f.clean = false ∨
        tableInCrust d f.ptBase (par.streams * par.jmax) = false →
      ∃ t, exec (.kvFork d) s = .next t ∧ t.ctl = s.ctl ∧ (t.kvD d).seqs = k.seqs ∧ (t.kvD d).pages = k.pages ∧
        (c.src = 0 → (t.kvD d).resp = 2 + 16 * f.seq ∧ t.mem = s.mem))) ∧
  (∀ (s : State) (d : Die) c rest, s.bel.stopped = false → s.tablesOk → (s.kvD d).cmds = c :: rest → s.kvRoom d c.src = true →
    let f := KvFields.of c.words
    let k := s.kvD d
    f.op = 3 →
    let q := k.seq f.seq
    let places := kvPlaces q.streams (q.len / 128) (ceilDiv (q.len + f.count) 128)
    let n := (places.filter (s.kvNeeds d q)).length
    q.isOpen = true → q.len + f.count ≤ q.jmax * 128 → f.clean = true → f.count ≠ 0 →
    (∀ p ∈ places, ∀ g, s.kvEntry q p.1 p.2 = some g → g < s.kvPages d) →
    (n ≤ s.kvFree d →
      ∃ t, exec (.kvAppend d) s = .next t ∧ t.ctl = s.ctl ∧ (t.kvD d).seq f.seq = { q with len := q.len + f.count } ∧
        (∀ r, r ≠ f.seq → (t.kvD d).seq r = k.seq r) ∧
        (c.src = 0 → (t.kvD d).resp = 16 * f.seq + 65536 * min 0xFFFF n)) ∧
    (s.kvFree d < n →
      ∃ t, exec (.kvAppend d) s = .next t ∧ t.ctl = s.ctl ∧ (t.kvD d).seqs = k.seqs ∧ (t.kvD d).pages = k.pages ∧
        t.cntAt (kvReg d 0x8C) = s.cntAt (kvReg d 0x8C) + 1 ∧
        (c.src = 0 → (t.kvD d).resp = 1 + 16 * f.seq ∧ t.mem = s.mem))) ∧
  (∀ (s : State) (d : Die) c rest, s.bel.stopped = false → s.tablesOk → (s.kvD d).cmds = c :: rest → s.kvRoom d c.src = true →
    let f := KvFields.of c.words
    let k := s.kvD d
    f.op = 3 →
    let q := k.seq f.seq
    (q.isOpen = false ∨ q.jmax * 128 < q.len + f.count ∨ f.clean = false ∨
      ∃ p ∈ kvPlaces q.streams (q.len / 128) (ceilDiv (q.len + f.count) 128), ∃ g, s.kvEntry q p.1 p.2 = some g ∧ s.kvPages d ≤ g) →
    ∃ t, exec (.kvAppend d) s = .next t ∧ t.ctl = s.ctl ∧ (t.kvD d).seqs = k.seqs ∧ (t.kvD d).pages = k.pages ∧ (t.kvD d).epoch = k.epoch ∧
      (c.src = 0 → (t.kvD d).resp = 2 + 16 * f.seq ∧ t.mem = s.mem)) ∧
  (∀ (s : State) (d : Die) c rest, s.bel.stopped = false → s.tablesOk → (s.kvD d).cmds = c :: rest → s.kvRoom d c.src = true →
    let f := KvFields.of c.words
    let k := s.kvD d
    f.op = 4 →
    let q := k.seq f.seq
    (q.isOpen = false ∨ f.clean = false ∨ ∃ p ∈ kvPlaces q.streams 0 q.jmax, ∃ g, s.kvEntry q p.1 p.2 = some g ∧ s.kvPages d ≤ g) →
    ∃ t, exec (.kvFree d) s = .next t ∧ t.ctl = s.ctl ∧ (t.kvD d).seqs = k.seqs ∧ (t.kvD d).pages = k.pages ∧ (t.kvD d).epoch = k.epoch ∧
      (c.src = 0 → (t.kvD d).resp = 2 + 16 * f.seq ∧ t.mem = s.mem)) ∧
  (∀ (s : State) (d : Die) c rest, s.bel.stopped = false → s.tablesOk → (s.kvD d).cmds = c :: rest → s.kvRoom d c.src = true →
    let f := KvFields.of c.words
    let k := s.kvD d
    f.op = 4 →
    let q := k.seq f.seq
    q.isOpen = true → f.clean = true →
    (∀ p ∈ kvPlaces q.streams 0 q.jmax, ∀ g, s.kvEntry q p.1 p.2 = some g → g < s.kvPages d) →
    ∃ t, exec (.kvFree d) s = .next t ∧ t.ctl = s.ctl ∧ (t.kvD d).seq f.seq = { q with isOpen := false } ∧
      (∀ r, r ≠ f.seq → (t.kvD d).seq r = k.seq r) ∧ (t.kvD d).epoch = k.epoch ∧ (t.kvD d).freed = k.freed ∧
      ∃ l, (t.kvD d).retire = k.retire ++ l) ∧
  (∀ (s : State) (d : Die) c rest, s.bel.stopped = false → s.tablesOk → (s.kvD d).cmds = c :: rest → s.kvRoom d c.src = true →
    let f := KvFields.of c.words
    let k := s.kvD d
    f.op = 5 →
    let e := (k.epoch + 1) % 2 ^ 14
    f.clean = true →
    ((k.readers.any fun r => r.epoch % 64 = e % 64) = false →
      ∃ t, exec (.kvAdvance d) s = .next t ∧ t.ctl = s.ctl ∧ (t.kvD d).epoch = e ∧ (t.kvD d).seqs = k.seqs ∧ (t.kvD d).readers = k.readers ∧
        (c.src = 0 → (t.kvD d).resp = 16 * f.seq)) ∧
    ((k.readers.any fun r => r.epoch % 64 = e % 64) = true →
      ∃ t, exec (.kvAdvance d) s = .next t ∧ t.ctl = s.ctl ∧ (t.kvD d).epoch = k.epoch ∧ (t.kvD d).seqs = k.seqs ∧
        (t.kvD d).pages = k.pages ∧ t.cntAt (kvReg d 0x90) = s.cntAt (kvReg d 0x90) + 1 ∧
        (c.src = 0 → (t.kvD d).resp = 4 + 16 * f.seq))) ∧
  (∀ (s : State) (d : Die) (p : Sp), s.bel.stopped = false → s.tablesOk → ((s.kvD d).readers.any fun r => r.port = p.val && r.ended) = true →
    ∃ t, exec (.readerClose d p) s = .next t ∧ t = { s with kv := t.kv, cnt := t.cnt } ∧
      (t.kvD d).readers = eraseFirst (fun r => r.port = p.val && r.ended) (s.kvD d).readers ∧ (t.kvD d).seqs = (s.kvD d).seqs ∧
      (t.kvD d).epoch = (s.kvD d).epoch)

/-- MANIFEST, CONTAINER_DEMUX, STREAM_CONTEXT_OPEN, PICTURE_DECODE, FRAGMENT, the generations, the draw, INGEST_RUN and the customer
partition (R295, R296, R299, R300, R302, R305, R306, R307, R309, R311, R312, R313). -/
def Obligations.IngestWork : Prop :=
  (∀ (s : State) gen passes spans, s.firmwareRuns = true → (∀ g, s.ing.lastGen = some g → gen = g + 1) → 1 ≤ passes → passes ≤ 16 →
    exec (.manifest gen passes spans) s = .next { s with ing := { s.ing with
      gens := s.ing.gens ++ [{ num := gen, passes := passes, jobs := spans.map SpanJob.new, published := false, start := 0 }],
      lastGen := some gen } }) ∧
  (∀ (s : State) gen span j r place, s.memOk → s.tablesOk → s.job? gen span = some j → s.firmwareRuns = true → j.state = .waiting →
    (∀ z, demuxFound j.span r = .track z → s.inEs place (s.trackBytes z).length = true → (∀ q ∈ z.pieces, s.inHost q.1 q.2 = true) →
      ∃ t, exec (.containerDemux gen span r place) s = .next t ∧ t = { s with ing := t.ing, mem := t.mem, poison := t.poison, cnt := t.cnt } ∧
        t.job? gen span = some { j with state := .demuxed, essence := some z.essence } ∧ t.cntAt (hostReg 0x48) = s.cntAt (hostReg 0x48) + z.ccErrors ∧
        (∀ i b, (s.trackBytes z)[i]? = some b → t.byteAt (place + i) = b) ∧
        ∀ a, a < place ∨ place + (s.trackBytes z).length ≤ a → t.byteAt a = s.byteAt a) ∧
    (demuxFound j.span r = .unsupported →
      ∃ t, exec (.containerDemux gen span r place) s = .next t ∧ t = { s with ing := t.ing, evt := t.evt, cnt := t.cnt } ∧
        t.job? gen span = some { j with state := .dropped } ∧ t.cntAt (hostReg 0x4C) = s.cntAt (hostReg 0x4C) + 1) ∧
    (demuxFound j.span r = .broken →
      ∃ t, exec (.containerDemux gen span r place) s = .next t ∧ t = { s with ing := t.ing, evt := t.evt, cnt := t.cnt } ∧
        t.job? gen span = some { j with state := .dropped } ∧ t.cntAt (hostReg 0x50) = s.cntAt (hostReg 0x50) + 1)) ∧
  (∀ (s : State) (k : Dec) gen span buffers j e, s.tablesOk → s.job? gen span = some j → j.essence = some e →
    s.firmwareRuns = true → j.state = .demuxed → (s.decK k).contexts.length < 32 → s.decGate k 0 = true →
    let x := s.decK k
    let ok := buffers.length = dpbSize e + 2 ∧ s.buffersFree (pictureBytes e) buffers = true
    (s.slotBytes < fragBytes j.span (jobFp8 (s.jobSet k j.span)) →
      ∃ t, exec (.streamContextOpen k gen span buffers) s = .next t ∧ t = { s with ing := t.ing, evt := t.evt, cnt := t.cnt } ∧
        t.job? gen span = some { j with state := .dropped } ∧ t.cntAt (decReg k 0x54) = s.cntAt (decReg k 0x54) + 1) ∧
    (fragBytes j.span (jobFp8 (s.jobSet k j.span)) ≤ s.slotBytes → ok →
      ∃ t, exec (.streamContextOpen k gen span buffers) s = .next t ∧ t = { s with ing := t.ing } ∧
        t.job? gen span = some { j with state := .decoding, engine := some k.val } ∧
        t.decK k = { x with
          contexts := x.contexts ++ [{ gen := gen, span := span, size := pictureBytes e, buffers := buffers }]
          waiting := x.waiting.filter fun w => w ≠ (gen, span) }) ∧
    (fragBytes j.span (jobFp8 (s.jobSet k j.span)) ≤ s.slotBytes → ¬ok →
      ∃ t, exec (.streamContextOpen k gen span buffers) s = .next t ∧ t = { s with ing := t.ing } ∧ t.job? gen span = some j ∧
        t.decK k = { x with waiting := if (gen, span) ∈ x.waiting then x.waiting else x.waiting ++ [(gen, span)] })) ∧
  (∀ (s : State) (k : Dec) gen span pic j e c b, s.memOk → s.tablesOk → s.job? gen span = some j → j.essence = some e →
    s.firmwareRuns = true → j.state = .decoding → s.servedNext k = some c → (c.gen, c.span) = (gen, span) → c.buffers[pic.buf]? = some b →
    s.decGate k 1 = false →
    let y := s.concealed c e pic 0 pic.luma
    let u := s.concealed c e pic 1 pic.cb
    let v := s.concealed c e pic 2 pic.cr
    let rows := fun i => match pic.kind with | .topField => (planeDims e i).2 / 2 | .bottomField => (planeDims e i).2 / 2 | _ => (planeDims e i).2
    let fits := fun i (q : Plane) => q.width = (planeDims e i).1 ∧ q.height = rows i
    ∃ t, exec (.pictureDecode k gen span pic) s = .next t ∧ t = { s with
        ing := t.ing, mem := t.mem, poison := t.poison, evt := t.evt, cnt := t.cnt, freeCtr := t.freeCtr } ∧
      t.job? gen span = some { j with pics := j.pics ++ rawPics pic e.depth y u v } ∧
      (t.decK k).contexts = ((s.decK k).served c).contexts ∧
      t.cntAt (decReg k 0x40) = s.cntAt (decReg k 0x40) + 1 ∧
      t.cntAt (decReg k 0x44) = s.cntAt (decReg k 0x44) + b2n pic.damaged ∧
      (fits 0 pic.luma → fits 1 pic.cb → fits 2 pic.cr → s.inRefpic b (pictureBytes e) = true →
        (∀ a, a < b ∨ b + pictureBytes e ≤ a → t.byteAt a = s.byteAt a) ∧
        ∀ row col, row < rows 0 → col < pic.luma.width →
          t.natAt (bufAddr e b 0 (frameRow pic.kind row) col) 2 = px y row col % 65536)) ∧
  (∀ (s : State) gen span ended (p : Prf) slot j k e, s.memOk → s.tablesOk → s.job? gen span = some j → s.firmwareRuns = true →
    j.state = .decoding → j.engine = some k → j.essence = some e → k < 16 →
    let outs := outPics (s.jobSet k j.span) j.span.frames j.pics ended
    let damaged := (outs.filter fun x => x.damaged).length
    j.span.frames ≤ outs.length →
    (s.clipCause k damaged = 0 → s.slotOk p slot = true → s.slotInOrder gen span p slot = true →
      ∃ t, exec (.fragment gen span ended p slot) s = .next t ∧
        t = { s with ing := t.ing, mem := t.mem, poison := t.poison, evt := t.evt, cnt := t.cnt } ∧
        t.job? gen span = some { j with state := .done, pics := [], slot := some (p.val, slot) } ∧
        t.natAt (s.slotAddr p slot) 4 = 0x4752514E ∧
        (∀ a, a < s.slotAddr p slot ∨ s.slotAddr p slot + fragBytes j.span (jobFp8 (s.jobSet k j.span)) ≤ a → t.byteAt a = s.byteAt a) ∧
        t.cntAt (decReg k 0x4C) = s.cntAt (decReg k 0x4C) + 1) ∧
    (s.clipCause k damaged ≠ 0 →
      ∃ t, exec (.fragment gen span ended p slot) s = .next t ∧ t = { s with ing := t.ing, evt := t.evt, cnt := t.cnt } ∧
        t.job? gen span = some { j with state := .dropped, pics := [] } ∧ t.cntAt (decReg k 0x54) = s.cntAt (decReg k 0x54) + 1)) ∧
  (∀ (s : State) g, s.tablesOk → s.firmwareRuns = true → (s.ing.gens.find? fun g => !g.published) = some g →
    (g.jobs.all fun j => decide (j.state = .done ∨ j.state = .dropped)) = true →
    ∃ t, exec (.generationPublish g.num) s = .next t ∧ t = { s with ing := t.ing, cnt := t.cnt } ∧
      t.ing.nextStart = s.ing.nextStart + g.passes * g.slots.length ∧ t.cntAt (hostReg 0x58) = s.cntAt (hostReg 0x58) + 1 ∧
      (g.slots ≠ [] → t.ing.gen? g.num = some { g with published := true, start := s.ing.nextStart }) ∧
      (g.slots = [] → t.ing.gen? g.num = none)) ∧
  (∀ (s : State) gen g, s.ing.gen? gen = some g → s.firmwareRuns = true → g.published = true → g.endPos ≤ s.drawPos →
    s.genRead gen = false →
    ∃ t, exec (.generationRetire gen) s = .next t ∧ t = { s with ing := t.ing } ∧ t.ing.gen? gen = none ∧
      ∀ n, n ≠ gen → t.ing.gen? n = s.ing.gen? n) ∧
  (∀ (s : State) d, s.bel.stopped = false → s.tablesOk → s.ingDie = some d → s.ctl.state = .running → (s.chD d).inStep = true → s.drawEn = true →
    s.ing.head.get 0 d < min (s.chD d).ingSeq (s.readFrom d) + s.ingDepth d → s.ing.mb < s.mbPlan d (s.activeOf d) →
    (∀ g, s.ing.covering s.drawPos = some g →
      ∃ t, exec .ingestQueueEntry s = .next t ∧
        t = { s with ing := t.ing, mem := t.mem, poison := t.poison, evt := t.evt, cnt := t.cnt, freeCtr := t.freeCtr } ∧
        t.ing.mb = s.ing.mb + 1 ∧ t.ing.cursor = s.drawPos + 1 ∧ t.ing.drawGen = g.num ∧ t.ing.drawBase = g.start ∧ t.ing.starving = false ∧
        t.ing.head.get 0 d = s.ing.head.get 0 d + 1 ∧ t.cntAt (hostReg 0x40) = s.cntAt (hostReg 0x40) + 1) ∧
    (s.ing.covering s.drawPos = none →
      ∃ t, exec .ingestQueueEntry s = .next t ∧ t = { s with ing := t.ing, evt := t.evt, cnt := t.cnt } ∧
        t.ing = { s.ing with starved := true, starving := true })) ∧
  (∀ (s : State) (d : Die) (p : Sp) w rest, s.bel.stopped = false → s.tablesOk →
    let x := (s.fabD d).port p
    let q := s.ing.portSeq.get 0 (128 * d + p)
    s.ingBound d p = true → x.go = true → x.active = false → (s.fabD d).halted = false → (s.fabD d).due = 0 → sprDir (s.spRec d (s.activeOf d) p) = 1 →
    sprLive (s.spRec d (s.activeOf d) p) = true → q < s.ing.head.get 0 d → ((s.fabD d).queue (spKey p 1)).items = w :: rest →
    bitsOf w.bits 19 0 ≤ sprL2 (s.spRec d (s.activeOf d) p) →
    ∃ t, exec (.ingestRun d p) s = .next t ∧ t.ctl = s.ctl ∧ t.ing.portSeq.get 0 (128 * d + p) = q + 1 ∧
      let z := (t.fabD d).port p
      (z.go, z.active, z.live, z.mb, z.runs, z.zero) = (false, true, bitsOf w.bits 19 0, bitsOf w.bits 31 20, x.runs + 1,
        decide (urMb (s.ingRecord d q) ≠ bitsOf w.bits 31 20))) ∧
  (∀ (s : State) (edge : Fin 2) x r, s.ing.cipEn = true → s.firmwareRuns = true →
    ∃ t, exec (.spanSubmit edge x r) s = .next t ∧ t = { s with ing := t.ing, evt := t.evt, cnt := t.cnt } ∧
      t.ing = { s.ing with submitted := s.ing.submitted ++ [(edge.val, x,
        match demuxFound x r with | .track _ => true | _ => false)] }) ∧
  (∀ (s : State) (edge : Fin 2) addr op, s.tablesOk → s.ing.cipEn = true →
    (s.cipAllowed edge addr op.access = true → exec (.ingCipViolation edge addr op) s = .next s) ∧
    (s.cipAllowed edge addr op.access = false →
      ∃ t, exec (.ingCipViolation edge addr op) s = .next t ∧ t = { s with mt := t.mt, evt := t.evt, cnt := t.cnt } ∧
        t.mt.answer.trap = (if op.writes = true then .none else .access) ∧ t.cntAt (hostReg 0x54) = s.cntAt (hostReg 0x54) + 1))
end

