-- ==== Sys2Proof/Laws/State.lean ====
section
/-! SUPPORT. What each shared operation leaves alone: one equation for each field that it does not touch, and the field that it
writes. -/

namespace Sys2Proof.Machine

/-! `State.setRw` writes rw and nothing else. -/

@[simp] theorem State.setRw_pending (s : State) (a : Nat) (w : Word) : (s.setRw a w).pending = s.pending := rfl
@[simp] theorem State.setRw_ctl (s : State) (a : Nat) (w : Word) : (s.setRw a w).ctl = s.ctl := rfl
@[simp] theorem State.setRw_fuse (s : State) (a : Nat) (w : Word) : (s.setRw a w).fuse = s.fuse := rfl
@[simp] theorem State.setRw_pins (s : State) (a : Nat) (w : Word) : (s.setRw a w).pins = s.pins := rfl
@[simp] theorem State.setRw_evt (s : State) (a : Nat) (w : Word) : (s.setRw a w).evt = s.evt := rfl
@[simp] theorem State.setRw_cad (s : State) (a : Nat) (w : Word) : (s.setRw a w).cad = s.cad := rfl
@[simp] theorem State.setRw_bel (s : State) (a : Nat) (w : Word) : (s.setRw a w).bel = s.bel := rfl
@[simp] theorem State.setRw_dom (s : State) (a : Nat) (w : Word) : (s.setRw a w).dom = s.dom := rfl
@[simp] theorem State.setRw_hlt (s : State) (a : Nat) (w : Word) : (s.setRw a w).hlt = s.hlt := rfl
@[simp] theorem State.setRw_shAct (s : State) (a : Nat) (w : Word) : (s.setRw a w).shAct = s.shAct := rfl
@[simp] theorem State.setRw_shNew (s : State) (a : Nat) (w : Word) : (s.setRw a w).shNew = s.shNew := rfl
@[simp] theorem State.setRw_cnt (s : State) (a : Nat) (w : Word) : (s.setRw a w).cnt = s.cnt := rfl
@[simp] theorem State.setRw_mbx (s : State) (a : Nat) (w : Word) : (s.setRw a w).mbx = s.mbx := rfl
@[simp] theorem State.setRw_mem (s : State) (a : Nat) (w : Word) : (s.setRw a w).mem = s.mem := rfl
@[simp] theorem State.setRw_poison (s : State) (a : Nat) (w : Word) : (s.setRw a w).poison = s.poison := rfl
@[simp] theorem State.setRw_mt (s : State) (a : Nat) (w : Word) : (s.setRw a w).mt = s.mt := rfl
@[simp] theorem State.setRw_leaven (s : State) (a : Nat) (w : Word) : (s.setRw a w).leaven = s.leaven := rfl
@[simp] theorem State.setRw_eng (s : State) (a : Nat) (w : Word) : (s.setRw a w).eng = s.eng := rfl
@[simp] theorem State.setRw_img (s : State) (a : Nat) (w : Word) : (s.setRw a w).img = s.img := rfl
@[simp] theorem State.setRw_fab (s : State) (a : Nat) (w : Word) : (s.setRw a w).fab = s.fab := rfl
@[simp] theorem State.setRw_ch (s : State) (a : Nat) (w : Word) : (s.setRw a w).ch = s.ch := rfl
@[simp] theorem State.setRw_prf (s : State) (a : Nat) (w : Word) : (s.setRw a w).prf = s.prf := rfl
@[simp] theorem State.setRw_spine (s : State) (a : Nat) (w : Word) : (s.setRw a w).spine = s.spine := rfl
@[simp] theorem State.setRw_kv (s : State) (a : Nat) (w : Word) : (s.setRw a w).kv = s.kv := rfl
@[simp] theorem State.setRw_subs (s : State) (a : Nat) (w : Word) : (s.setRw a w).subs = s.subs := rfl
@[simp] theorem State.setRw_ports (s : State) (a : Nat) (w : Word) : (s.setRw a w).ports = s.ports := rfl
@[simp] theorem State.setRw_col (s : State) (a : Nat) (w : Word) : (s.setRw a w).col = s.col := rfl
@[simp] theorem State.setRw_ing (s : State) (a : Nat) (w : Word) : (s.setRw a w).ing = s.ing := rfl
@[simp] theorem State.setRw_nowUs (s : State) (a : Nat) (w : Word) : (s.setRw a w).nowUs = s.nowUs := rfl
@[simp] theorem State.setRw_inTick (s : State) (a : Nat) (w : Word) : (s.setRw a w).inTick = s.inTick := rfl
@[simp] theorem State.setRw_freeCtr (s : State) (a : Nat) (w : Word) : (s.setRw a w).freeCtr = s.freeCtr := rfl

/-! `State.setShadow` writes shNew and nothing else. -/

@[simp] theorem State.setShadow_pending (s : State) (a : Nat) (w : Word) : (s.setShadow a w).pending = s.pending := rfl
@[simp] theorem State.setShadow_ctl (s : State) (a : Nat) (w : Word) : (s.setShadow a w).ctl = s.ctl := rfl
@[simp] theorem State.setShadow_fuse (s : State) (a : Nat) (w : Word) : (s.setShadow a w).fuse = s.fuse := rfl
@[simp] theorem State.setShadow_pins (s : State) (a : Nat) (w : Word) : (s.setShadow a w).pins = s.pins := rfl
@[simp] theorem State.setShadow_evt (s : State) (a : Nat) (w : Word) : (s.setShadow a w).evt = s.evt := rfl
@[simp] theorem State.setShadow_cad (s : State) (a : Nat) (w : Word) : (s.setShadow a w).cad = s.cad := rfl
@[simp] theorem State.setShadow_bel (s : State) (a : Nat) (w : Word) : (s.setShadow a w).bel = s.bel := rfl
@[simp] theorem State.setShadow_dom (s : State) (a : Nat) (w : Word) : (s.setShadow a w).dom = s.dom := rfl
@[simp] theorem State.setShadow_hlt (s : State) (a : Nat) (w : Word) : (s.setShadow a w).hlt = s.hlt := rfl
@[simp] theorem State.setShadow_rw (s : State) (a : Nat) (w : Word) : (s.setShadow a w).rw = s.rw := rfl
@[simp] theorem State.setShadow_shAct (s : State) (a : Nat) (w : Word) : (s.setShadow a w).shAct = s.shAct := rfl
@[simp] theorem State.setShadow_cnt (s : State) (a : Nat) (w : Word) : (s.setShadow a w).cnt = s.cnt := rfl
@[simp] theorem State.setShadow_mbx (s : State) (a : Nat) (w : Word) : (s.setShadow a w).mbx = s.mbx := rfl
@[simp] theorem State.setShadow_mem (s : State) (a : Nat) (w : Word) : (s.setShadow a w).mem = s.mem := rfl
@[simp] theorem State.setShadow_poison (s : State) (a : Nat) (w : Word) : (s.setShadow a w).poison = s.poison := rfl
@[simp] theorem State.setShadow_mt (s : State) (a : Nat) (w : Word) : (s.setShadow a w).mt = s.mt := rfl
@[simp] theorem State.setShadow_leaven (s : State) (a : Nat) (w : Word) : (s.setShadow a w).leaven = s.leaven := rfl
@[simp] theorem State.setShadow_eng (s : State) (a : Nat) (w : Word) : (s.setShadow a w).eng = s.eng := rfl
@[simp] theorem State.setShadow_img (s : State) (a : Nat) (w : Word) : (s.setShadow a w).img = s.img := rfl
@[simp] theorem State.setShadow_fab (s : State) (a : Nat) (w : Word) : (s.setShadow a w).fab = s.fab := rfl
@[simp] theorem State.setShadow_ch (s : State) (a : Nat) (w : Word) : (s.setShadow a w).ch = s.ch := rfl
@[simp] theorem State.setShadow_prf (s : State) (a : Nat) (w : Word) : (s.setShadow a w).prf = s.prf := rfl
@[simp] theorem State.setShadow_spine (s : State) (a : Nat) (w : Word) : (s.setShadow a w).spine = s.spine := rfl
@[simp] theorem State.setShadow_kv (s : State) (a : Nat) (w : Word) : (s.setShadow a w).kv = s.kv := rfl
@[simp] theorem State.setShadow_subs (s : State) (a : Nat) (w : Word) : (s.setShadow a w).subs = s.subs := rfl
@[simp] theorem State.setShadow_ports (s : State) (a : Nat) (w : Word) : (s.setShadow a w).ports = s.ports := rfl
@[simp] theorem State.setShadow_col (s : State) (a : Nat) (w : Word) : (s.setShadow a w).col = s.col := rfl
@[simp] theorem State.setShadow_ing (s : State) (a : Nat) (w : Word) : (s.setShadow a w).ing = s.ing := rfl
@[simp] theorem State.setShadow_nowUs (s : State) (a : Nat) (w : Word) : (s.setShadow a w).nowUs = s.nowUs := rfl
@[simp] theorem State.setShadow_inTick (s : State) (a : Nat) (w : Word) : (s.setShadow a w).inTick = s.inTick := rfl
@[simp] theorem State.setShadow_freeCtr (s : State) (a : Nat) (w : Word) : (s.setShadow a w).freeCtr = s.freeCtr := rfl

/-! `State.applyShadow` writes shAct, shNew and nothing else. -/

@[simp] theorem State.applyShadow_pending (s : State) (p : Nat → Bool) : (s.applyShadow p).pending = s.pending := rfl
@[simp] theorem State.applyShadow_ctl (s : State) (p : Nat → Bool) : (s.applyShadow p).ctl = s.ctl := rfl
@[simp] theorem State.applyShadow_fuse (s : State) (p : Nat → Bool) : (s.applyShadow p).fuse = s.fuse := rfl
@[simp] theorem State.applyShadow_pins (s : State) (p : Nat → Bool) : (s.applyShadow p).pins = s.pins := rfl
@[simp] theorem State.applyShadow_evt (s : State) (p : Nat → Bool) : (s.applyShadow p).evt = s.evt := rfl
@[simp] theorem State.applyShadow_cad (s : State) (p : Nat → Bool) : (s.applyShadow p).cad = s.cad := rfl
@[simp] theorem State.applyShadow_bel (s : State) (p : Nat → Bool) : (s.applyShadow p).bel = s.bel := rfl
@[simp] theorem State.applyShadow_dom (s : State) (p : Nat → Bool) : (s.applyShadow p).dom = s.dom := rfl
@[simp] theorem State.applyShadow_hlt (s : State) (p : Nat → Bool) : (s.applyShadow p).hlt = s.hlt := rfl
@[simp] theorem State.applyShadow_rw (s : State) (p : Nat → Bool) : (s.applyShadow p).rw = s.rw := rfl
@[simp] theorem State.applyShadow_cnt (s : State) (p : Nat → Bool) : (s.applyShadow p).cnt = s.cnt := rfl
@[simp] theorem State.applyShadow_mbx (s : State) (p : Nat → Bool) : (s.applyShadow p).mbx = s.mbx := rfl
@[simp] theorem State.applyShadow_mem (s : State) (p : Nat → Bool) : (s.applyShadow p).mem = s.mem := rfl
@[simp] theorem State.applyShadow_poison (s : State) (p : Nat → Bool) : (s.applyShadow p).poison = s.poison := rfl
@[simp] theorem State.applyShadow_mt (s : State) (p : Nat → Bool) : (s.applyShadow p).mt = s.mt := rfl
@[simp] theorem State.applyShadow_leaven (s : State) (p : Nat → Bool) : (s.applyShadow p).leaven = s.leaven := rfl
@[simp] theorem State.applyShadow_eng (s : State) (p : Nat → Bool) : (s.applyShadow p).eng = s.eng := rfl
@[simp] theorem State.applyShadow_img (s : State) (p : Nat → Bool) : (s.applyShadow p).img = s.img := rfl
@[simp] theorem State.applyShadow_fab (s : State) (p : Nat → Bool) : (s.applyShadow p).fab = s.fab := rfl
@[simp] theorem State.applyShadow_ch (s : State) (p : Nat → Bool) : (s.applyShadow p).ch = s.ch := rfl
@[simp] theorem State.applyShadow_prf (s : State) (p : Nat → Bool) : (s.applyShadow p).prf = s.prf := rfl
@[simp] theorem State.applyShadow_spine (s : State) (p : Nat → Bool) : (s.applyShadow p).spine = s.spine := rfl
@[simp] theorem State.applyShadow_kv (s : State) (p : Nat → Bool) : (s.applyShadow p).kv = s.kv := rfl
@[simp] theorem State.applyShadow_subs (s : State) (p : Nat → Bool) : (s.applyShadow p).subs = s.subs := rfl
@[simp] theorem State.applyShadow_ports (s : State) (p : Nat → Bool) : (s.applyShadow p).ports = s.ports := rfl
@[simp] theorem State.applyShadow_col (s : State) (p : Nat → Bool) : (s.applyShadow p).col = s.col := rfl
@[simp] theorem State.applyShadow_ing (s : State) (p : Nat → Bool) : (s.applyShadow p).ing = s.ing := rfl
@[simp] theorem State.applyShadow_nowUs (s : State) (p : Nat → Bool) : (s.applyShadow p).nowUs = s.nowUs := rfl
@[simp] theorem State.applyShadow_inTick (s : State) (p : Nat → Bool) : (s.applyShadow p).inTick = s.inTick := rfl
@[simp] theorem State.applyShadow_freeCtr (s : State) (p : Nat → Bool) : (s.applyShadow p).freeCtr = s.freeCtr := rfl

/-! `State.applyPage` writes shAct, shNew and nothing else. -/

@[simp] theorem State.applyPage_pending (s : State) (p : Nat) : (s.applyPage p).pending = s.pending := rfl
@[simp] theorem State.applyPage_ctl (s : State) (p : Nat) : (s.applyPage p).ctl = s.ctl := rfl
@[simp] theorem State.applyPage_fuse (s : State) (p : Nat) : (s.applyPage p).fuse = s.fuse := rfl
@[simp] theorem State.applyPage_pins (s : State) (p : Nat) : (s.applyPage p).pins = s.pins := rfl
@[simp] theorem State.applyPage_evt (s : State) (p : Nat) : (s.applyPage p).evt = s.evt := rfl
@[simp] theorem State.applyPage_cad (s : State) (p : Nat) : (s.applyPage p).cad = s.cad := rfl
@[simp] theorem State.applyPage_bel (s : State) (p : Nat) : (s.applyPage p).bel = s.bel := rfl
@[simp] theorem State.applyPage_dom (s : State) (p : Nat) : (s.applyPage p).dom = s.dom := rfl
@[simp] theorem State.applyPage_hlt (s : State) (p : Nat) : (s.applyPage p).hlt = s.hlt := rfl
@[simp] theorem State.applyPage_rw (s : State) (p : Nat) : (s.applyPage p).rw = s.rw := rfl
@[simp] theorem State.applyPage_cnt (s : State) (p : Nat) : (s.applyPage p).cnt = s.cnt := rfl
@[simp] theorem State.applyPage_mbx (s : State) (p : Nat) : (s.applyPage p).mbx = s.mbx := rfl
@[simp] theorem State.applyPage_mem (s : State) (p : Nat) : (s.applyPage p).mem = s.mem := rfl
@[simp] theorem State.applyPage_poison (s : State) (p : Nat) : (s.applyPage p).poison = s.poison := rfl
@[simp] theorem State.applyPage_mt (s : State) (p : Nat) : (s.applyPage p).mt = s.mt := rfl
@[simp] theorem State.applyPage_leaven (s : State) (p : Nat) : (s.applyPage p).leaven = s.leaven := rfl
@[simp] theorem State.applyPage_eng (s : State) (p : Nat) : (s.applyPage p).eng = s.eng := rfl
@[simp] theorem State.applyPage_img (s : State) (p : Nat) : (s.applyPage p).img = s.img := rfl
@[simp] theorem State.applyPage_fab (s : State) (p : Nat) : (s.applyPage p).fab = s.fab := rfl
@[simp] theorem State.applyPage_ch (s : State) (p : Nat) : (s.applyPage p).ch = s.ch := rfl
@[simp] theorem State.applyPage_prf (s : State) (p : Nat) : (s.applyPage p).prf = s.prf := rfl
@[simp] theorem State.applyPage_spine (s : State) (p : Nat) : (s.applyPage p).spine = s.spine := rfl
@[simp] theorem State.applyPage_kv (s : State) (p : Nat) : (s.applyPage p).kv = s.kv := rfl
@[simp] theorem State.applyPage_subs (s : State) (p : Nat) : (s.applyPage p).subs = s.subs := rfl
@[simp] theorem State.applyPage_ports (s : State) (p : Nat) : (s.applyPage p).ports = s.ports := rfl
@[simp] theorem State.applyPage_col (s : State) (p : Nat) : (s.applyPage p).col = s.col := rfl
@[simp] theorem State.applyPage_ing (s : State) (p : Nat) : (s.applyPage p).ing = s.ing := rfl
@[simp] theorem State.applyPage_nowUs (s : State) (p : Nat) : (s.applyPage p).nowUs = s.nowUs := rfl
@[simp] theorem State.applyPage_inTick (s : State) (p : Nat) : (s.applyPage p).inTick = s.inTick := rfl
@[simp] theorem State.applyPage_freeCtr (s : State) (p : Nat) : (s.applyPage p).freeCtr = s.freeCtr := rfl

/-! `State.count` writes cnt and nothing else. -/

@[simp] theorem State.count_pending (s : State) (a n : Nat) : (s.count a n).pending = s.pending := rfl
@[simp] theorem State.count_ctl (s : State) (a n : Nat) : (s.count a n).ctl = s.ctl := rfl
@[simp] theorem State.count_fuse (s : State) (a n : Nat) : (s.count a n).fuse = s.fuse := rfl
@[simp] theorem State.count_pins (s : State) (a n : Nat) : (s.count a n).pins = s.pins := rfl
@[simp] theorem State.count_evt (s : State) (a n : Nat) : (s.count a n).evt = s.evt := rfl
@[simp] theorem State.count_cad (s : State) (a n : Nat) : (s.count a n).cad = s.cad := rfl
@[simp] theorem State.count_bel (s : State) (a n : Nat) : (s.count a n).bel = s.bel := rfl
@[simp] theorem State.count_dom (s : State) (a n : Nat) : (s.count a n).dom = s.dom := rfl
@[simp] theorem State.count_hlt (s : State) (a n : Nat) : (s.count a n).hlt = s.hlt := rfl
@[simp] theorem State.count_rw (s : State) (a n : Nat) : (s.count a n).rw = s.rw := rfl
@[simp] theorem State.count_shAct (s : State) (a n : Nat) : (s.count a n).shAct = s.shAct := rfl
@[simp] theorem State.count_shNew (s : State) (a n : Nat) : (s.count a n).shNew = s.shNew := rfl
@[simp] theorem State.count_mbx (s : State) (a n : Nat) : (s.count a n).mbx = s.mbx := rfl
@[simp] theorem State.count_mem (s : State) (a n : Nat) : (s.count a n).mem = s.mem := rfl
@[simp] theorem State.count_poison (s : State) (a n : Nat) : (s.count a n).poison = s.poison := rfl
@[simp] theorem State.count_mt (s : State) (a n : Nat) : (s.count a n).mt = s.mt := rfl
@[simp] theorem State.count_leaven (s : State) (a n : Nat) : (s.count a n).leaven = s.leaven := rfl
@[simp] theorem State.count_eng (s : State) (a n : Nat) : (s.count a n).eng = s.eng := rfl
@[simp] theorem State.count_img (s : State) (a n : Nat) : (s.count a n).img = s.img := rfl
@[simp] theorem State.count_fab (s : State) (a n : Nat) : (s.count a n).fab = s.fab := rfl
@[simp] theorem State.count_ch (s : State) (a n : Nat) : (s.count a n).ch = s.ch := rfl
@[simp] theorem State.count_prf (s : State) (a n : Nat) : (s.count a n).prf = s.prf := rfl
@[simp] theorem State.count_spine (s : State) (a n : Nat) : (s.count a n).spine = s.spine := rfl
@[simp] theorem State.count_kv (s : State) (a n : Nat) : (s.count a n).kv = s.kv := rfl
@[simp] theorem State.count_subs (s : State) (a n : Nat) : (s.count a n).subs = s.subs := rfl
@[simp] theorem State.count_ports (s : State) (a n : Nat) : (s.count a n).ports = s.ports := rfl
@[simp] theorem State.count_col (s : State) (a n : Nat) : (s.count a n).col = s.col := rfl
@[simp] theorem State.count_ing (s : State) (a n : Nat) : (s.count a n).ing = s.ing := rfl
@[simp] theorem State.count_nowUs (s : State) (a n : Nat) : (s.count a n).nowUs = s.nowUs := rfl
@[simp] theorem State.count_inTick (s : State) (a n : Nat) : (s.count a n).inTick = s.inTick := rfl
@[simp] theorem State.count_freeCtr (s : State) (a n : Nat) : (s.count a n).freeCtr = s.freeCtr := rfl

/-! `State.prfCount` writes cnt and nothing else. -/

@[simp] theorem State.prfCount_pending (s : State) (p off n : Nat) : (s.prfCount p off n).pending = s.pending := rfl
@[simp] theorem State.prfCount_ctl (s : State) (p off n : Nat) : (s.prfCount p off n).ctl = s.ctl := rfl
@[simp] theorem State.prfCount_fuse (s : State) (p off n : Nat) : (s.prfCount p off n).fuse = s.fuse := rfl
@[simp] theorem State.prfCount_pins (s : State) (p off n : Nat) : (s.prfCount p off n).pins = s.pins := rfl
@[simp] theorem State.prfCount_evt (s : State) (p off n : Nat) : (s.prfCount p off n).evt = s.evt := rfl
@[simp] theorem State.prfCount_cad (s : State) (p off n : Nat) : (s.prfCount p off n).cad = s.cad := rfl
@[simp] theorem State.prfCount_bel (s : State) (p off n : Nat) : (s.prfCount p off n).bel = s.bel := rfl
@[simp] theorem State.prfCount_dom (s : State) (p off n : Nat) : (s.prfCount p off n).dom = s.dom := rfl
@[simp] theorem State.prfCount_hlt (s : State) (p off n : Nat) : (s.prfCount p off n).hlt = s.hlt := rfl
@[simp] theorem State.prfCount_rw (s : State) (p off n : Nat) : (s.prfCount p off n).rw = s.rw := rfl
@[simp] theorem State.prfCount_shAct (s : State) (p off n : Nat) : (s.prfCount p off n).shAct = s.shAct := rfl
@[simp] theorem State.prfCount_shNew (s : State) (p off n : Nat) : (s.prfCount p off n).shNew = s.shNew := rfl
@[simp] theorem State.prfCount_mbx (s : State) (p off n : Nat) : (s.prfCount p off n).mbx = s.mbx := rfl
@[simp] theorem State.prfCount_mem (s : State) (p off n : Nat) : (s.prfCount p off n).mem = s.mem := rfl
@[simp] theorem State.prfCount_poison (s : State) (p off n : Nat) : (s.prfCount p off n).poison = s.poison := rfl
@[simp] theorem State.prfCount_mt (s : State) (p off n : Nat) : (s.prfCount p off n).mt = s.mt := rfl
@[simp] theorem State.prfCount_leaven (s : State) (p off n : Nat) : (s.prfCount p off n).leaven = s.leaven := rfl
@[simp] theorem State.prfCount_eng (s : State) (p off n : Nat) : (s.prfCount p off n).eng = s.eng := rfl
@[simp] theorem State.prfCount_img (s : State) (p off n : Nat) : (s.prfCount p off n).img = s.img := rfl
@[simp] theorem State.prfCount_fab (s : State) (p off n : Nat) : (s.prfCount p off n).fab = s.fab := rfl
@[simp] theorem State.prfCount_ch (s : State) (p off n : Nat) : (s.prfCount p off n).ch = s.ch := rfl
@[simp] theorem State.prfCount_prf (s : State) (p off n : Nat) : (s.prfCount p off n).prf = s.prf := rfl
@[simp] theorem State.prfCount_spine (s : State) (p off n : Nat) : (s.prfCount p off n).spine = s.spine := rfl
@[simp] theorem State.prfCount_kv (s : State) (p off n : Nat) : (s.prfCount p off n).kv = s.kv := rfl
@[simp] theorem State.prfCount_subs (s : State) (p off n : Nat) : (s.prfCount p off n).subs = s.subs := rfl
@[simp] theorem State.prfCount_ports (s : State) (p off n : Nat) : (s.prfCount p off n).ports = s.ports := rfl
@[simp] theorem State.prfCount_col (s : State) (p off n : Nat) : (s.prfCount p off n).col = s.col := rfl
@[simp] theorem State.prfCount_ing (s : State) (p off n : Nat) : (s.prfCount p off n).ing = s.ing := rfl
@[simp] theorem State.prfCount_nowUs (s : State) (p off n : Nat) : (s.prfCount p off n).nowUs = s.nowUs := rfl
@[simp] theorem State.prfCount_inTick (s : State) (p off n : Nat) : (s.prfCount p off n).inTick = s.inTick := rfl
@[simp] theorem State.prfCount_freeCtr (s : State) (p off n : Nat) : (s.prfCount p off n).freeCtr = s.freeCtr := rfl

/-! `State.used` writes freeCtr and nothing else. -/

@[simp] theorem State.used_pending (s : State) (n : Nat) : (s.used n).pending = s.pending := rfl
@[simp] theorem State.used_ctl (s : State) (n : Nat) : (s.used n).ctl = s.ctl := rfl
@[simp] theorem State.used_fuse (s : State) (n : Nat) : (s.used n).fuse = s.fuse := rfl
@[simp] theorem State.used_pins (s : State) (n : Nat) : (s.used n).pins = s.pins := rfl
@[simp] theorem State.used_evt (s : State) (n : Nat) : (s.used n).evt = s.evt := rfl
@[simp] theorem State.used_cad (s : State) (n : Nat) : (s.used n).cad = s.cad := rfl
@[simp] theorem State.used_bel (s : State) (n : Nat) : (s.used n).bel = s.bel := rfl
@[simp] theorem State.used_dom (s : State) (n : Nat) : (s.used n).dom = s.dom := rfl
@[simp] theorem State.used_hlt (s : State) (n : Nat) : (s.used n).hlt = s.hlt := rfl
@[simp] theorem State.used_rw (s : State) (n : Nat) : (s.used n).rw = s.rw := rfl
@[simp] theorem State.used_shAct (s : State) (n : Nat) : (s.used n).shAct = s.shAct := rfl
@[simp] theorem State.used_shNew (s : State) (n : Nat) : (s.used n).shNew = s.shNew := rfl
@[simp] theorem State.used_cnt (s : State) (n : Nat) : (s.used n).cnt = s.cnt := rfl
@[simp] theorem State.used_mbx (s : State) (n : Nat) : (s.used n).mbx = s.mbx := rfl
@[simp] theorem State.used_mem (s : State) (n : Nat) : (s.used n).mem = s.mem := rfl
@[simp] theorem State.used_poison (s : State) (n : Nat) : (s.used n).poison = s.poison := rfl
@[simp] theorem State.used_mt (s : State) (n : Nat) : (s.used n).mt = s.mt := rfl
@[simp] theorem State.used_leaven (s : State) (n : Nat) : (s.used n).leaven = s.leaven := rfl
@[simp] theorem State.used_eng (s : State) (n : Nat) : (s.used n).eng = s.eng := rfl
@[simp] theorem State.used_img (s : State) (n : Nat) : (s.used n).img = s.img := rfl
@[simp] theorem State.used_fab (s : State) (n : Nat) : (s.used n).fab = s.fab := rfl
@[simp] theorem State.used_ch (s : State) (n : Nat) : (s.used n).ch = s.ch := rfl
@[simp] theorem State.used_prf (s : State) (n : Nat) : (s.used n).prf = s.prf := rfl
@[simp] theorem State.used_spine (s : State) (n : Nat) : (s.used n).spine = s.spine := rfl
@[simp] theorem State.used_kv (s : State) (n : Nat) : (s.used n).kv = s.kv := rfl
@[simp] theorem State.used_subs (s : State) (n : Nat) : (s.used n).subs = s.subs := rfl
@[simp] theorem State.used_ports (s : State) (n : Nat) : (s.used n).ports = s.ports := rfl
@[simp] theorem State.used_col (s : State) (n : Nat) : (s.used n).col = s.col := rfl
@[simp] theorem State.used_ing (s : State) (n : Nat) : (s.used n).ing = s.ing := rfl
@[simp] theorem State.used_nowUs (s : State) (n : Nat) : (s.used n).nowUs = s.nowUs := rfl
@[simp] theorem State.used_inTick (s : State) (n : Nat) : (s.used n).inTick = s.inTick := rfl

/-! `State.raise` writes evt, cnt and nothing else. -/

@[simp] theorem State.raise_pending (s : State) (page code : Nat) (pl : List Byte) : (s.raise page code pl).pending = s.pending := rfl
@[simp] theorem State.raise_ctl (s : State) (page code : Nat) (pl : List Byte) : (s.raise page code pl).ctl = s.ctl := rfl
@[simp] theorem State.raise_fuse (s : State) (page code : Nat) (pl : List Byte) : (s.raise page code pl).fuse = s.fuse := rfl
@[simp] theorem State.raise_pins (s : State) (page code : Nat) (pl : List Byte) : (s.raise page code pl).pins = s.pins := rfl
@[simp] theorem State.raise_cad (s : State) (page code : Nat) (pl : List Byte) : (s.raise page code pl).cad = s.cad := rfl
@[simp] theorem State.raise_bel (s : State) (page code : Nat) (pl : List Byte) : (s.raise page code pl).bel = s.bel := rfl
@[simp] theorem State.raise_dom (s : State) (page code : Nat) (pl : List Byte) : (s.raise page code pl).dom = s.dom := rfl
@[simp] theorem State.raise_hlt (s : State) (page code : Nat) (pl : List Byte) : (s.raise page code pl).hlt = s.hlt := rfl
@[simp] theorem State.raise_rw (s : State) (page code : Nat) (pl : List Byte) : (s.raise page code pl).rw = s.rw := rfl
@[simp] theorem State.raise_shAct (s : State) (page code : Nat) (pl : List Byte) : (s.raise page code pl).shAct = s.shAct := rfl
@[simp] theorem State.raise_shNew (s : State) (page code : Nat) (pl : List Byte) : (s.raise page code pl).shNew = s.shNew := rfl
@[simp] theorem State.raise_mbx (s : State) (page code : Nat) (pl : List Byte) : (s.raise page code pl).mbx = s.mbx := rfl
@[simp] theorem State.raise_mem (s : State) (page code : Nat) (pl : List Byte) : (s.raise page code pl).mem = s.mem := rfl
@[simp] theorem State.raise_poison (s : State) (page code : Nat) (pl : List Byte) : (s.raise page code pl).poison = s.poison := rfl
@[simp] theorem State.raise_mt (s : State) (page code : Nat) (pl : List Byte) : (s.raise page code pl).mt = s.mt := rfl
@[simp] theorem State.raise_leaven (s : State) (page code : Nat) (pl : List Byte) : (s.raise page code pl).leaven = s.leaven := rfl
@[simp] theorem State.raise_eng (s : State) (page code : Nat) (pl : List Byte) : (s.raise page code pl).eng = s.eng := rfl
@[simp] theorem State.raise_img (s : State) (page code : Nat) (pl : List Byte) : (s.raise page code pl).img = s.img := rfl
@[simp] theorem State.raise_fab (s : State) (page code : Nat) (pl : List Byte) : (s.raise page code pl).fab = s.fab := rfl
@[simp] theorem State.raise_ch (s : State) (page code : Nat) (pl : List Byte) : (s.raise page code pl).ch = s.ch := rfl
@[simp] theorem State.raise_prf (s : State) (page code : Nat) (pl : List Byte) : (s.raise page code pl).prf = s.prf := rfl
@[simp] theorem State.raise_spine (s : State) (page code : Nat) (pl : List Byte) : (s.raise page code pl).spine = s.spine := rfl
@[simp] theorem State.raise_kv (s : State) (page code : Nat) (pl : List Byte) : (s.raise page code pl).kv = s.kv := rfl
@[simp] theorem State.raise_subs (s : State) (page code : Nat) (pl : List Byte) : (s.raise page code pl).subs = s.subs := rfl
@[simp] theorem State.raise_ports (s : State) (page code : Nat) (pl : List Byte) : (s.raise page code pl).ports = s.ports := rfl
@[simp] theorem State.raise_col (s : State) (page code : Nat) (pl : List Byte) : (s.raise page code pl).col = s.col := rfl
@[simp] theorem State.raise_ing (s : State) (page code : Nat) (pl : List Byte) : (s.raise page code pl).ing = s.ing := rfl
@[simp] theorem State.raise_nowUs (s : State) (page code : Nat) (pl : List Byte) : (s.raise page code pl).nowUs = s.nowUs := rfl
@[simp] theorem State.raise_inTick (s : State) (page code : Nat) (pl : List Byte) : (s.raise page code pl).inTick = s.inTick := rfl
@[simp] theorem State.raise_freeCtr (s : State) (page code : Nat) (pl : List Byte) : (s.raise page code pl).freeCtr = s.freeCtr := rfl

/-! `State.enter` writes ctl, evt, cnt and nothing else. -/

@[simp] theorem State.enter_pending (s : State) (st : DevState) (cause opcode tag : Nat) : (s.enter st cause opcode tag).pending = s.pending := rfl
@[simp] theorem State.enter_fuse (s : State) (st : DevState) (cause opcode tag : Nat) : (s.enter st cause opcode tag).fuse = s.fuse := rfl
@[simp] theorem State.enter_pins (s : State) (st : DevState) (cause opcode tag : Nat) : (s.enter st cause opcode tag).pins = s.pins := rfl
@[simp] theorem State.enter_cad (s : State) (st : DevState) (cause opcode tag : Nat) : (s.enter st cause opcode tag).cad = s.cad := rfl
@[simp] theorem State.enter_bel (s : State) (st : DevState) (cause opcode tag : Nat) : (s.enter st cause opcode tag).bel = s.bel := rfl
@[simp] theorem State.enter_dom (s : State) (st : DevState) (cause opcode tag : Nat) : (s.enter st cause opcode tag).dom = s.dom := rfl
@[simp] theorem State.enter_hlt (s : State) (st : DevState) (cause opcode tag : Nat) : (s.enter st cause opcode tag).hlt = s.hlt := rfl
@[simp] theorem State.enter_rw (s : State) (st : DevState) (cause opcode tag : Nat) : (s.enter st cause opcode tag).rw = s.rw := rfl
@[simp] theorem State.enter_shAct (s : State) (st : DevState) (cause opcode tag : Nat) : (s.enter st cause opcode tag).shAct = s.shAct := rfl
@[simp] theorem State.enter_shNew (s : State) (st : DevState) (cause opcode tag : Nat) : (s.enter st cause opcode tag).shNew = s.shNew := rfl
@[simp] theorem State.enter_mbx (s : State) (st : DevState) (cause opcode tag : Nat) : (s.enter st cause opcode tag).mbx = s.mbx := rfl
@[simp] theorem State.enter_mem (s : State) (st : DevState) (cause opcode tag : Nat) : (s.enter st cause opcode tag).mem = s.mem := rfl
@[simp] theorem State.enter_poison (s : State) (st : DevState) (cause opcode tag : Nat) : (s.enter st cause opcode tag).poison = s.poison := rfl
@[simp] theorem State.enter_mt (s : State) (st : DevState) (cause opcode tag : Nat) : (s.enter st cause opcode tag).mt = s.mt := rfl
@[simp] theorem State.enter_leaven (s : State) (st : DevState) (cause opcode tag : Nat) : (s.enter st cause opcode tag).leaven = s.leaven := rfl
@[simp] theorem State.enter_eng (s : State) (st : DevState) (cause opcode tag : Nat) : (s.enter st cause opcode tag).eng = s.eng := rfl
@[simp] theorem State.enter_img (s : State) (st : DevState) (cause opcode tag : Nat) : (s.enter st cause opcode tag).img = s.img := rfl
@[simp] theorem State.enter_fab (s : State) (st : DevState) (cause opcode tag : Nat) : (s.enter st cause opcode tag).fab = s.fab := rfl
@[simp] theorem State.enter_ch (s : State) (st : DevState) (cause opcode tag : Nat) : (s.enter st cause opcode tag).ch = s.ch := rfl
@[simp] theorem State.enter_prf (s : State) (st : DevState) (cause opcode tag : Nat) : (s.enter st cause opcode tag).prf = s.prf := rfl
@[simp] theorem State.enter_spine (s : State) (st : DevState) (cause opcode tag : Nat) : (s.enter st cause opcode tag).spine = s.spine := rfl
@[simp] theorem State.enter_kv (s : State) (st : DevState) (cause opcode tag : Nat) : (s.enter st cause opcode tag).kv = s.kv := rfl
@[simp] theorem State.enter_subs (s : State) (st : DevState) (cause opcode tag : Nat) : (s.enter st cause opcode tag).subs = s.subs := rfl
@[simp] theorem State.enter_ports (s : State) (st : DevState) (cause opcode tag : Nat) : (s.enter st cause opcode tag).ports = s.ports := rfl
@[simp] theorem State.enter_col (s : State) (st : DevState) (cause opcode tag : Nat) : (s.enter st cause opcode tag).col = s.col := rfl
@[simp] theorem State.enter_ing (s : State) (st : DevState) (cause opcode tag : Nat) : (s.enter st cause opcode tag).ing = s.ing := rfl
@[simp] theorem State.enter_nowUs (s : State) (st : DevState) (cause opcode tag : Nat) : (s.enter st cause opcode tag).nowUs = s.nowUs := rfl
@[simp] theorem State.enter_inTick (s : State) (st : DevState) (cause opcode tag : Nat) : (s.enter st cause opcode tag).inTick = s.inTick := rfl
@[simp] theorem State.enter_freeCtr (s : State) (st : DevState) (cause opcode tag : Nat) : (s.enter st cause opcode tag).freeCtr = s.freeCtr := rfl

/-! `State.takeRx` writes ctl and nothing else. -/

@[simp] theorem State.takeRx_pending (s : State) (ch tag : Nat) : (s.takeRx ch tag).pending = s.pending := rfl
@[simp] theorem State.takeRx_fuse (s : State) (ch tag : Nat) : (s.takeRx ch tag).fuse = s.fuse := rfl
@[simp] theorem State.takeRx_pins (s : State) (ch tag : Nat) : (s.takeRx ch tag).pins = s.pins := rfl
@[simp] theorem State.takeRx_evt (s : State) (ch tag : Nat) : (s.takeRx ch tag).evt = s.evt := rfl
@[simp] theorem State.takeRx_cad (s : State) (ch tag : Nat) : (s.takeRx ch tag).cad = s.cad := rfl
@[simp] theorem State.takeRx_bel (s : State) (ch tag : Nat) : (s.takeRx ch tag).bel = s.bel := rfl
@[simp] theorem State.takeRx_dom (s : State) (ch tag : Nat) : (s.takeRx ch tag).dom = s.dom := rfl
@[simp] theorem State.takeRx_hlt (s : State) (ch tag : Nat) : (s.takeRx ch tag).hlt = s.hlt := rfl
@[simp] theorem State.takeRx_rw (s : State) (ch tag : Nat) : (s.takeRx ch tag).rw = s.rw := rfl
@[simp] theorem State.takeRx_shAct (s : State) (ch tag : Nat) : (s.takeRx ch tag).shAct = s.shAct := rfl
@[simp] theorem State.takeRx_shNew (s : State) (ch tag : Nat) : (s.takeRx ch tag).shNew = s.shNew := rfl
@[simp] theorem State.takeRx_cnt (s : State) (ch tag : Nat) : (s.takeRx ch tag).cnt = s.cnt := rfl
@[simp] theorem State.takeRx_mbx (s : State) (ch tag : Nat) : (s.takeRx ch tag).mbx = s.mbx := rfl
@[simp] theorem State.takeRx_mem (s : State) (ch tag : Nat) : (s.takeRx ch tag).mem = s.mem := rfl
@[simp] theorem State.takeRx_poison (s : State) (ch tag : Nat) : (s.takeRx ch tag).poison = s.poison := rfl
@[simp] theorem State.takeRx_mt (s : State) (ch tag : Nat) : (s.takeRx ch tag).mt = s.mt := rfl
@[simp] theorem State.takeRx_leaven (s : State) (ch tag : Nat) : (s.takeRx ch tag).leaven = s.leaven := rfl
@[simp] theorem State.takeRx_eng (s : State) (ch tag : Nat) : (s.takeRx ch tag).eng = s.eng := rfl
@[simp] theorem State.takeRx_img (s : State) (ch tag : Nat) : (s.takeRx ch tag).img = s.img := rfl
@[simp] theorem State.takeRx_fab (s : State) (ch tag : Nat) : (s.takeRx ch tag).fab = s.fab := rfl
@[simp] theorem State.takeRx_ch (s : State) (ch tag : Nat) : (s.takeRx ch tag).ch = s.ch := rfl
@[simp] theorem State.takeRx_prf (s : State) (ch tag : Nat) : (s.takeRx ch tag).prf = s.prf := rfl
@[simp] theorem State.takeRx_spine (s : State) (ch tag : Nat) : (s.takeRx ch tag).spine = s.spine := rfl
@[simp] theorem State.takeRx_kv (s : State) (ch tag : Nat) : (s.takeRx ch tag).kv = s.kv := rfl
@[simp] theorem State.takeRx_subs (s : State) (ch tag : Nat) : (s.takeRx ch tag).subs = s.subs := rfl
@[simp] theorem State.takeRx_ports (s : State) (ch tag : Nat) : (s.takeRx ch tag).ports = s.ports := rfl
@[simp] theorem State.takeRx_col (s : State) (ch tag : Nat) : (s.takeRx ch tag).col = s.col := rfl
@[simp] theorem State.takeRx_ing (s : State) (ch tag : Nat) : (s.takeRx ch tag).ing = s.ing := rfl
@[simp] theorem State.takeRx_nowUs (s : State) (ch tag : Nat) : (s.takeRx ch tag).nowUs = s.nowUs := rfl
@[simp] theorem State.takeRx_inTick (s : State) (ch tag : Nat) : (s.takeRx ch tag).inTick = s.inTick := rfl
@[simp] theorem State.takeRx_freeCtr (s : State) (ch tag : Nat) : (s.takeRx ch tag).freeCtr = s.freeCtr := rfl

/-! `State.answer` writes ctl and nothing else. -/

@[simp] theorem State.answer_pending (s : State) (h : Hdr) (op status cause : Nat) (data : List Byte) : (s.answer h op status cause data).pending = s.pending := rfl
@[simp] theorem State.answer_fuse (s : State) (h : Hdr) (op status cause : Nat) (data : List Byte) : (s.answer h op status cause data).fuse = s.fuse := rfl
@[simp] theorem State.answer_pins (s : State) (h : Hdr) (op status cause : Nat) (data : List Byte) : (s.answer h op status cause data).pins = s.pins := rfl
@[simp] theorem State.answer_evt (s : State) (h : Hdr) (op status cause : Nat) (data : List Byte) : (s.answer h op status cause data).evt = s.evt := rfl
@[simp] theorem State.answer_cad (s : State) (h : Hdr) (op status cause : Nat) (data : List Byte) : (s.answer h op status cause data).cad = s.cad := rfl
@[simp] theorem State.answer_bel (s : State) (h : Hdr) (op status cause : Nat) (data : List Byte) : (s.answer h op status cause data).bel = s.bel := rfl
@[simp] theorem State.answer_dom (s : State) (h : Hdr) (op status cause : Nat) (data : List Byte) : (s.answer h op status cause data).dom = s.dom := rfl
@[simp] theorem State.answer_hlt (s : State) (h : Hdr) (op status cause : Nat) (data : List Byte) : (s.answer h op status cause data).hlt = s.hlt := rfl
@[simp] theorem State.answer_rw (s : State) (h : Hdr) (op status cause : Nat) (data : List Byte) : (s.answer h op status cause data).rw = s.rw := rfl
@[simp] theorem State.answer_shAct (s : State) (h : Hdr) (op status cause : Nat) (data : List Byte) : (s.answer h op status cause data).shAct = s.shAct := rfl
@[simp] theorem State.answer_shNew (s : State) (h : Hdr) (op status cause : Nat) (data : List Byte) : (s.answer h op status cause data).shNew = s.shNew := rfl
@[simp] theorem State.answer_cnt (s : State) (h : Hdr) (op status cause : Nat) (data : List Byte) : (s.answer h op status cause data).cnt = s.cnt := rfl
@[simp] theorem State.answer_mbx (s : State) (h : Hdr) (op status cause : Nat) (data : List Byte) : (s.answer h op status cause data).mbx = s.mbx := rfl
@[simp] theorem State.answer_mem (s : State) (h : Hdr) (op status cause : Nat) (data : List Byte) : (s.answer h op status cause data).mem = s.mem := rfl
@[simp] theorem State.answer_poison (s : State) (h : Hdr) (op status cause : Nat) (data : List Byte) : (s.answer h op status cause data).poison = s.poison := rfl
@[simp] theorem State.answer_mt (s : State) (h : Hdr) (op status cause : Nat) (data : List Byte) : (s.answer h op status cause data).mt = s.mt := rfl
@[simp] theorem State.answer_leaven (s : State) (h : Hdr) (op status cause : Nat) (data : List Byte) : (s.answer h op status cause data).leaven = s.leaven := rfl
@[simp] theorem State.answer_eng (s : State) (h : Hdr) (op status cause : Nat) (data : List Byte) : (s.answer h op status cause data).eng = s.eng := rfl
@[simp] theorem State.answer_img (s : State) (h : Hdr) (op status cause : Nat) (data : List Byte) : (s.answer h op status cause data).img = s.img := rfl
@[simp] theorem State.answer_fab (s : State) (h : Hdr) (op status cause : Nat) (data : List Byte) : (s.answer h op status cause data).fab = s.fab := rfl
@[simp] theorem State.answer_ch (s : State) (h : Hdr) (op status cause : Nat) (data : List Byte) : (s.answer h op status cause data).ch = s.ch := rfl
@[simp] theorem State.answer_prf (s : State) (h : Hdr) (op status cause : Nat) (data : List Byte) : (s.answer h op status cause data).prf = s.prf := rfl
@[simp] theorem State.answer_spine (s : State) (h : Hdr) (op status cause : Nat) (data : List Byte) : (s.answer h op status cause data).spine = s.spine := rfl
@[simp] theorem State.answer_kv (s : State) (h : Hdr) (op status cause : Nat) (data : List Byte) : (s.answer h op status cause data).kv = s.kv := rfl
@[simp] theorem State.answer_subs (s : State) (h : Hdr) (op status cause : Nat) (data : List Byte) : (s.answer h op status cause data).subs = s.subs := rfl
@[simp] theorem State.answer_ports (s : State) (h : Hdr) (op status cause : Nat) (data : List Byte) : (s.answer h op status cause data).ports = s.ports := rfl
@[simp] theorem State.answer_col (s : State) (h : Hdr) (op status cause : Nat) (data : List Byte) : (s.answer h op status cause data).col = s.col := rfl
@[simp] theorem State.answer_ing (s : State) (h : Hdr) (op status cause : Nat) (data : List Byte) : (s.answer h op status cause data).ing = s.ing := rfl
@[simp] theorem State.answer_nowUs (s : State) (h : Hdr) (op status cause : Nat) (data : List Byte) : (s.answer h op status cause data).nowUs = s.nowUs := rfl
@[simp] theorem State.answer_inTick (s : State) (h : Hdr) (op status cause : Nat) (data : List Byte) : (s.answer h op status cause data).inTick = s.inTick := rfl
@[simp] theorem State.answer_freeCtr (s : State) (h : Hdr) (op status cause : Nat) (data : List Byte) : (s.answer h op status cause data).freeCtr = s.freeCtr := rfl

/-! `State.invalid` writes ctl, evt, cnt and nothing else. -/

@[simp] theorem State.invalid_pending (s : State) (h : Hdr) (op cause n : Nat) : (s.invalid h op cause n).pending = s.pending := rfl
@[simp] theorem State.invalid_fuse (s : State) (h : Hdr) (op cause n : Nat) : (s.invalid h op cause n).fuse = s.fuse := rfl
@[simp] theorem State.invalid_pins (s : State) (h : Hdr) (op cause n : Nat) : (s.invalid h op cause n).pins = s.pins := rfl
@[simp] theorem State.invalid_cad (s : State) (h : Hdr) (op cause n : Nat) : (s.invalid h op cause n).cad = s.cad := rfl
@[simp] theorem State.invalid_bel (s : State) (h : Hdr) (op cause n : Nat) : (s.invalid h op cause n).bel = s.bel := rfl
@[simp] theorem State.invalid_dom (s : State) (h : Hdr) (op cause n : Nat) : (s.invalid h op cause n).dom = s.dom := rfl
@[simp] theorem State.invalid_hlt (s : State) (h : Hdr) (op cause n : Nat) : (s.invalid h op cause n).hlt = s.hlt := rfl
@[simp] theorem State.invalid_rw (s : State) (h : Hdr) (op cause n : Nat) : (s.invalid h op cause n).rw = s.rw := rfl
@[simp] theorem State.invalid_shAct (s : State) (h : Hdr) (op cause n : Nat) : (s.invalid h op cause n).shAct = s.shAct := rfl
@[simp] theorem State.invalid_shNew (s : State) (h : Hdr) (op cause n : Nat) : (s.invalid h op cause n).shNew = s.shNew := rfl
@[simp] theorem State.invalid_mbx (s : State) (h : Hdr) (op cause n : Nat) : (s.invalid h op cause n).mbx = s.mbx := rfl
@[simp] theorem State.invalid_mem (s : State) (h : Hdr) (op cause n : Nat) : (s.invalid h op cause n).mem = s.mem := rfl
@[simp] theorem State.invalid_poison (s : State) (h : Hdr) (op cause n : Nat) : (s.invalid h op cause n).poison = s.poison := rfl
@[simp] theorem State.invalid_mt (s : State) (h : Hdr) (op cause n : Nat) : (s.invalid h op cause n).mt = s.mt := rfl
@[simp] theorem State.invalid_leaven (s : State) (h : Hdr) (op cause n : Nat) : (s.invalid h op cause n).leaven = s.leaven := rfl
@[simp] theorem State.invalid_eng (s : State) (h : Hdr) (op cause n : Nat) : (s.invalid h op cause n).eng = s.eng := rfl
@[simp] theorem State.invalid_img (s : State) (h : Hdr) (op cause n : Nat) : (s.invalid h op cause n).img = s.img := rfl
@[simp] theorem State.invalid_fab (s : State) (h : Hdr) (op cause n : Nat) : (s.invalid h op cause n).fab = s.fab := rfl
@[simp] theorem State.invalid_ch (s : State) (h : Hdr) (op cause n : Nat) : (s.invalid h op cause n).ch = s.ch := rfl
@[simp] theorem State.invalid_prf (s : State) (h : Hdr) (op cause n : Nat) : (s.invalid h op cause n).prf = s.prf := rfl
@[simp] theorem State.invalid_spine (s : State) (h : Hdr) (op cause n : Nat) : (s.invalid h op cause n).spine = s.spine := rfl
@[simp] theorem State.invalid_kv (s : State) (h : Hdr) (op cause n : Nat) : (s.invalid h op cause n).kv = s.kv := rfl
@[simp] theorem State.invalid_subs (s : State) (h : Hdr) (op cause n : Nat) : (s.invalid h op cause n).subs = s.subs := rfl
@[simp] theorem State.invalid_ports (s : State) (h : Hdr) (op cause n : Nat) : (s.invalid h op cause n).ports = s.ports := rfl
@[simp] theorem State.invalid_col (s : State) (h : Hdr) (op cause n : Nat) : (s.invalid h op cause n).col = s.col := rfl
@[simp] theorem State.invalid_ing (s : State) (h : Hdr) (op cause n : Nat) : (s.invalid h op cause n).ing = s.ing := rfl
@[simp] theorem State.invalid_nowUs (s : State) (h : Hdr) (op cause n : Nat) : (s.invalid h op cause n).nowUs = s.nowUs := rfl
@[simp] theorem State.invalid_inTick (s : State) (h : Hdr) (op cause n : Nat) : (s.invalid h op cause n).inTick = s.inTick := rfl
@[simp] theorem State.invalid_freeCtr (s : State) (h : Hdr) (op cause n : Nat) : (s.invalid h op cause n).freeCtr = s.freeCtr := rfl

/-! `State.refuse` writes ctl, evt, cnt and nothing else. -/

@[simp] theorem State.refuse_pending (s : State) (h : Hdr) (op : Nat) : (s.refuse h op).pending = s.pending := rfl
@[simp] theorem State.refuse_fuse (s : State) (h : Hdr) (op : Nat) : (s.refuse h op).fuse = s.fuse := rfl
@[simp] theorem State.refuse_pins (s : State) (h : Hdr) (op : Nat) : (s.refuse h op).pins = s.pins := rfl
@[simp] theorem State.refuse_cad (s : State) (h : Hdr) (op : Nat) : (s.refuse h op).cad = s.cad := rfl
@[simp] theorem State.refuse_bel (s : State) (h : Hdr) (op : Nat) : (s.refuse h op).bel = s.bel := rfl
@[simp] theorem State.refuse_dom (s : State) (h : Hdr) (op : Nat) : (s.refuse h op).dom = s.dom := rfl
@[simp] theorem State.refuse_hlt (s : State) (h : Hdr) (op : Nat) : (s.refuse h op).hlt = s.hlt := rfl
@[simp] theorem State.refuse_rw (s : State) (h : Hdr) (op : Nat) : (s.refuse h op).rw = s.rw := rfl
@[simp] theorem State.refuse_shAct (s : State) (h : Hdr) (op : Nat) : (s.refuse h op).shAct = s.shAct := rfl
@[simp] theorem State.refuse_shNew (s : State) (h : Hdr) (op : Nat) : (s.refuse h op).shNew = s.shNew := rfl
@[simp] theorem State.refuse_mbx (s : State) (h : Hdr) (op : Nat) : (s.refuse h op).mbx = s.mbx := rfl
@[simp] theorem State.refuse_mem (s : State) (h : Hdr) (op : Nat) : (s.refuse h op).mem = s.mem := rfl
@[simp] theorem State.refuse_poison (s : State) (h : Hdr) (op : Nat) : (s.refuse h op).poison = s.poison := rfl
@[simp] theorem State.refuse_mt (s : State) (h : Hdr) (op : Nat) : (s.refuse h op).mt = s.mt := rfl
@[simp] theorem State.refuse_leaven (s : State) (h : Hdr) (op : Nat) : (s.refuse h op).leaven = s.leaven := rfl
@[simp] theorem State.refuse_eng (s : State) (h : Hdr) (op : Nat) : (s.refuse h op).eng = s.eng := rfl
@[simp] theorem State.refuse_img (s : State) (h : Hdr) (op : Nat) : (s.refuse h op).img = s.img := rfl
@[simp] theorem State.refuse_fab (s : State) (h : Hdr) (op : Nat) : (s.refuse h op).fab = s.fab := rfl
@[simp] theorem State.refuse_ch (s : State) (h : Hdr) (op : Nat) : (s.refuse h op).ch = s.ch := rfl
@[simp] theorem State.refuse_prf (s : State) (h : Hdr) (op : Nat) : (s.refuse h op).prf = s.prf := rfl
@[simp] theorem State.refuse_spine (s : State) (h : Hdr) (op : Nat) : (s.refuse h op).spine = s.spine := rfl
@[simp] theorem State.refuse_kv (s : State) (h : Hdr) (op : Nat) : (s.refuse h op).kv = s.kv := rfl
@[simp] theorem State.refuse_subs (s : State) (h : Hdr) (op : Nat) : (s.refuse h op).subs = s.subs := rfl
@[simp] theorem State.refuse_ports (s : State) (h : Hdr) (op : Nat) : (s.refuse h op).ports = s.ports := rfl
@[simp] theorem State.refuse_col (s : State) (h : Hdr) (op : Nat) : (s.refuse h op).col = s.col := rfl
@[simp] theorem State.refuse_ing (s : State) (h : Hdr) (op : Nat) : (s.refuse h op).ing = s.ing := rfl
@[simp] theorem State.refuse_nowUs (s : State) (h : Hdr) (op : Nat) : (s.refuse h op).nowUs = s.nowUs := rfl
@[simp] theorem State.refuse_inTick (s : State) (h : Hdr) (op : Nat) : (s.refuse h op).inTick = s.inTick := rfl
@[simp] theorem State.refuse_freeCtr (s : State) (h : Hdr) (op : Nat) : (s.refuse h op).freeCtr = s.freeCtr := rfl

/-! `State.denyPresence` writes ctl, evt, cnt and nothing else. -/

@[simp] theorem State.denyPresence_pending (s : State) (h : Hdr) (op cause : Nat) : (s.denyPresence h op cause).pending = s.pending := rfl
@[simp] theorem State.denyPresence_fuse (s : State) (h : Hdr) (op cause : Nat) : (s.denyPresence h op cause).fuse = s.fuse := rfl
@[simp] theorem State.denyPresence_pins (s : State) (h : Hdr) (op cause : Nat) : (s.denyPresence h op cause).pins = s.pins := rfl
@[simp] theorem State.denyPresence_cad (s : State) (h : Hdr) (op cause : Nat) : (s.denyPresence h op cause).cad = s.cad := rfl
@[simp] theorem State.denyPresence_bel (s : State) (h : Hdr) (op cause : Nat) : (s.denyPresence h op cause).bel = s.bel := rfl
@[simp] theorem State.denyPresence_dom (s : State) (h : Hdr) (op cause : Nat) : (s.denyPresence h op cause).dom = s.dom := rfl
@[simp] theorem State.denyPresence_hlt (s : State) (h : Hdr) (op cause : Nat) : (s.denyPresence h op cause).hlt = s.hlt := rfl
@[simp] theorem State.denyPresence_rw (s : State) (h : Hdr) (op cause : Nat) : (s.denyPresence h op cause).rw = s.rw := rfl
@[simp] theorem State.denyPresence_shAct (s : State) (h : Hdr) (op cause : Nat) : (s.denyPresence h op cause).shAct = s.shAct := rfl
@[simp] theorem State.denyPresence_shNew (s : State) (h : Hdr) (op cause : Nat) : (s.denyPresence h op cause).shNew = s.shNew := rfl
@[simp] theorem State.denyPresence_mbx (s : State) (h : Hdr) (op cause : Nat) : (s.denyPresence h op cause).mbx = s.mbx := rfl
@[simp] theorem State.denyPresence_mem (s : State) (h : Hdr) (op cause : Nat) : (s.denyPresence h op cause).mem = s.mem := rfl
@[simp] theorem State.denyPresence_poison (s : State) (h : Hdr) (op cause : Nat) : (s.denyPresence h op cause).poison = s.poison := rfl
@[simp] theorem State.denyPresence_mt (s : State) (h : Hdr) (op cause : Nat) : (s.denyPresence h op cause).mt = s.mt := rfl
@[simp] theorem State.denyPresence_leaven (s : State) (h : Hdr) (op cause : Nat) : (s.denyPresence h op cause).leaven = s.leaven := rfl
@[simp] theorem State.denyPresence_eng (s : State) (h : Hdr) (op cause : Nat) : (s.denyPresence h op cause).eng = s.eng := rfl
@[simp] theorem State.denyPresence_img (s : State) (h : Hdr) (op cause : Nat) : (s.denyPresence h op cause).img = s.img := rfl
@[simp] theorem State.denyPresence_fab (s : State) (h : Hdr) (op cause : Nat) : (s.denyPresence h op cause).fab = s.fab := rfl
@[simp] theorem State.denyPresence_ch (s : State) (h : Hdr) (op cause : Nat) : (s.denyPresence h op cause).ch = s.ch := rfl
@[simp] theorem State.denyPresence_prf (s : State) (h : Hdr) (op cause : Nat) : (s.denyPresence h op cause).prf = s.prf := rfl
@[simp] theorem State.denyPresence_spine (s : State) (h : Hdr) (op cause : Nat) : (s.denyPresence h op cause).spine = s.spine := rfl
@[simp] theorem State.denyPresence_kv (s : State) (h : Hdr) (op cause : Nat) : (s.denyPresence h op cause).kv = s.kv := rfl
@[simp] theorem State.denyPresence_subs (s : State) (h : Hdr) (op cause : Nat) : (s.denyPresence h op cause).subs = s.subs := rfl
@[simp] theorem State.denyPresence_ports (s : State) (h : Hdr) (op cause : Nat) : (s.denyPresence h op cause).ports = s.ports := rfl
@[simp] theorem State.denyPresence_col (s : State) (h : Hdr) (op cause : Nat) : (s.denyPresence h op cause).col = s.col := rfl
@[simp] theorem State.denyPresence_ing (s : State) (h : Hdr) (op cause : Nat) : (s.denyPresence h op cause).ing = s.ing := rfl
@[simp] theorem State.denyPresence_nowUs (s : State) (h : Hdr) (op cause : Nat) : (s.denyPresence h op cause).nowUs = s.nowUs := rfl
@[simp] theorem State.denyPresence_inTick (s : State) (h : Hdr) (op cause : Nat) : (s.denyPresence h op cause).inTick = s.inTick := rfl
@[simp] theorem State.denyPresence_freeCtr (s : State) (h : Hdr) (op cause : Nat) : (s.denyPresence h op cause).freeCtr = s.freeCtr := rfl

/-! `State.startLong` writes ctl and nothing else. -/

@[simp] theorem State.startLong_pending (s : State) (h : Hdr) (op : Nat) (arg : List Nat) : (s.startLong h op arg).pending = s.pending := rfl
@[simp] theorem State.startLong_fuse (s : State) (h : Hdr) (op : Nat) (arg : List Nat) : (s.startLong h op arg).fuse = s.fuse := rfl
@[simp] theorem State.startLong_pins (s : State) (h : Hdr) (op : Nat) (arg : List Nat) : (s.startLong h op arg).pins = s.pins := rfl
@[simp] theorem State.startLong_evt (s : State) (h : Hdr) (op : Nat) (arg : List Nat) : (s.startLong h op arg).evt = s.evt := rfl
@[simp] theorem State.startLong_cad (s : State) (h : Hdr) (op : Nat) (arg : List Nat) : (s.startLong h op arg).cad = s.cad := rfl
@[simp] theorem State.startLong_bel (s : State) (h : Hdr) (op : Nat) (arg : List Nat) : (s.startLong h op arg).bel = s.bel := rfl
@[simp] theorem State.startLong_dom (s : State) (h : Hdr) (op : Nat) (arg : List Nat) : (s.startLong h op arg).dom = s.dom := rfl
@[simp] theorem State.startLong_hlt (s : State) (h : Hdr) (op : Nat) (arg : List Nat) : (s.startLong h op arg).hlt = s.hlt := rfl
@[simp] theorem State.startLong_rw (s : State) (h : Hdr) (op : Nat) (arg : List Nat) : (s.startLong h op arg).rw = s.rw := rfl
@[simp] theorem State.startLong_shAct (s : State) (h : Hdr) (op : Nat) (arg : List Nat) : (s.startLong h op arg).shAct = s.shAct := rfl
@[simp] theorem State.startLong_shNew (s : State) (h : Hdr) (op : Nat) (arg : List Nat) : (s.startLong h op arg).shNew = s.shNew := rfl
@[simp] theorem State.startLong_cnt (s : State) (h : Hdr) (op : Nat) (arg : List Nat) : (s.startLong h op arg).cnt = s.cnt := rfl
@[simp] theorem State.startLong_mbx (s : State) (h : Hdr) (op : Nat) (arg : List Nat) : (s.startLong h op arg).mbx = s.mbx := rfl
@[simp] theorem State.startLong_mem (s : State) (h : Hdr) (op : Nat) (arg : List Nat) : (s.startLong h op arg).mem = s.mem := rfl
@[simp] theorem State.startLong_poison (s : State) (h : Hdr) (op : Nat) (arg : List Nat) : (s.startLong h op arg).poison = s.poison := rfl
@[simp] theorem State.startLong_mt (s : State) (h : Hdr) (op : Nat) (arg : List Nat) : (s.startLong h op arg).mt = s.mt := rfl
@[simp] theorem State.startLong_leaven (s : State) (h : Hdr) (op : Nat) (arg : List Nat) : (s.startLong h op arg).leaven = s.leaven := rfl
@[simp] theorem State.startLong_eng (s : State) (h : Hdr) (op : Nat) (arg : List Nat) : (s.startLong h op arg).eng = s.eng := rfl
@[simp] theorem State.startLong_img (s : State) (h : Hdr) (op : Nat) (arg : List Nat) : (s.startLong h op arg).img = s.img := rfl
@[simp] theorem State.startLong_fab (s : State) (h : Hdr) (op : Nat) (arg : List Nat) : (s.startLong h op arg).fab = s.fab := rfl
@[simp] theorem State.startLong_ch (s : State) (h : Hdr) (op : Nat) (arg : List Nat) : (s.startLong h op arg).ch = s.ch := rfl
@[simp] theorem State.startLong_prf (s : State) (h : Hdr) (op : Nat) (arg : List Nat) : (s.startLong h op arg).prf = s.prf := rfl
@[simp] theorem State.startLong_spine (s : State) (h : Hdr) (op : Nat) (arg : List Nat) : (s.startLong h op arg).spine = s.spine := rfl
@[simp] theorem State.startLong_kv (s : State) (h : Hdr) (op : Nat) (arg : List Nat) : (s.startLong h op arg).kv = s.kv := rfl
@[simp] theorem State.startLong_subs (s : State) (h : Hdr) (op : Nat) (arg : List Nat) : (s.startLong h op arg).subs = s.subs := rfl
@[simp] theorem State.startLong_ports (s : State) (h : Hdr) (op : Nat) (arg : List Nat) : (s.startLong h op arg).ports = s.ports := rfl
@[simp] theorem State.startLong_col (s : State) (h : Hdr) (op : Nat) (arg : List Nat) : (s.startLong h op arg).col = s.col := rfl
@[simp] theorem State.startLong_ing (s : State) (h : Hdr) (op : Nat) (arg : List Nat) : (s.startLong h op arg).ing = s.ing := rfl
@[simp] theorem State.startLong_nowUs (s : State) (h : Hdr) (op : Nat) (arg : List Nat) : (s.startLong h op arg).nowUs = s.nowUs := rfl
@[simp] theorem State.startLong_inTick (s : State) (h : Hdr) (op : Nat) (arg : List Nat) : (s.startLong h op arg).inTick = s.inTick := rfl
@[simp] theorem State.startLong_freeCtr (s : State) (h : Hdr) (op : Nat) (arg : List Nat) : (s.startLong h op arg).freeCtr = s.freeCtr := rfl

/-! `State.sigFail` writes evt, cnt and nothing else. -/

@[simp] theorem State.sigFail_pending (s : State) (op tag cause comp : Nat) : (s.sigFail op tag cause comp).pending = s.pending := rfl
@[simp] theorem State.sigFail_ctl (s : State) (op tag cause comp : Nat) : (s.sigFail op tag cause comp).ctl = s.ctl := rfl
@[simp] theorem State.sigFail_fuse (s : State) (op tag cause comp : Nat) : (s.sigFail op tag cause comp).fuse = s.fuse := rfl
@[simp] theorem State.sigFail_pins (s : State) (op tag cause comp : Nat) : (s.sigFail op tag cause comp).pins = s.pins := rfl
@[simp] theorem State.sigFail_cad (s : State) (op tag cause comp : Nat) : (s.sigFail op tag cause comp).cad = s.cad := rfl
@[simp] theorem State.sigFail_bel (s : State) (op tag cause comp : Nat) : (s.sigFail op tag cause comp).bel = s.bel := rfl
@[simp] theorem State.sigFail_dom (s : State) (op tag cause comp : Nat) : (s.sigFail op tag cause comp).dom = s.dom := rfl
@[simp] theorem State.sigFail_hlt (s : State) (op tag cause comp : Nat) : (s.sigFail op tag cause comp).hlt = s.hlt := rfl
@[simp] theorem State.sigFail_rw (s : State) (op tag cause comp : Nat) : (s.sigFail op tag cause comp).rw = s.rw := rfl
@[simp] theorem State.sigFail_shAct (s : State) (op tag cause comp : Nat) : (s.sigFail op tag cause comp).shAct = s.shAct := rfl
@[simp] theorem State.sigFail_shNew (s : State) (op tag cause comp : Nat) : (s.sigFail op tag cause comp).shNew = s.shNew := rfl
@[simp] theorem State.sigFail_mbx (s : State) (op tag cause comp : Nat) : (s.sigFail op tag cause comp).mbx = s.mbx := rfl
@[simp] theorem State.sigFail_mem (s : State) (op tag cause comp : Nat) : (s.sigFail op tag cause comp).mem = s.mem := rfl
@[simp] theorem State.sigFail_poison (s : State) (op tag cause comp : Nat) : (s.sigFail op tag cause comp).poison = s.poison := rfl
@[simp] theorem State.sigFail_mt (s : State) (op tag cause comp : Nat) : (s.sigFail op tag cause comp).mt = s.mt := rfl
@[simp] theorem State.sigFail_leaven (s : State) (op tag cause comp : Nat) : (s.sigFail op tag cause comp).leaven = s.leaven := rfl
@[simp] theorem State.sigFail_eng (s : State) (op tag cause comp : Nat) : (s.sigFail op tag cause comp).eng = s.eng := rfl
@[simp] theorem State.sigFail_img (s : State) (op tag cause comp : Nat) : (s.sigFail op tag cause comp).img = s.img := rfl
@[simp] theorem State.sigFail_fab (s : State) (op tag cause comp : Nat) : (s.sigFail op tag cause comp).fab = s.fab := rfl
@[simp] theorem State.sigFail_ch (s : State) (op tag cause comp : Nat) : (s.sigFail op tag cause comp).ch = s.ch := rfl
@[simp] theorem State.sigFail_prf (s : State) (op tag cause comp : Nat) : (s.sigFail op tag cause comp).prf = s.prf := rfl
@[simp] theorem State.sigFail_spine (s : State) (op tag cause comp : Nat) : (s.sigFail op tag cause comp).spine = s.spine := rfl
@[simp] theorem State.sigFail_kv (s : State) (op tag cause comp : Nat) : (s.sigFail op tag cause comp).kv = s.kv := rfl
@[simp] theorem State.sigFail_subs (s : State) (op tag cause comp : Nat) : (s.sigFail op tag cause comp).subs = s.subs := rfl
@[simp] theorem State.sigFail_ports (s : State) (op tag cause comp : Nat) : (s.sigFail op tag cause comp).ports = s.ports := rfl
@[simp] theorem State.sigFail_col (s : State) (op tag cause comp : Nat) : (s.sigFail op tag cause comp).col = s.col := rfl
@[simp] theorem State.sigFail_ing (s : State) (op tag cause comp : Nat) : (s.sigFail op tag cause comp).ing = s.ing := rfl
@[simp] theorem State.sigFail_nowUs (s : State) (op tag cause comp : Nat) : (s.sigFail op tag cause comp).nowUs = s.nowUs := rfl
@[simp] theorem State.sigFail_inTick (s : State) (op tag cause comp : Nat) : (s.sigFail op tag cause comp).inTick = s.inTick := rfl
@[simp] theorem State.sigFail_freeCtr (s : State) (op tag cause comp : Nat) : (s.sigFail op tag cause comp).freeCtr = s.freeCtr := rfl

/-! What the simplest of them write. -/

@[simp] theorem State.setRw_rw (s : State) (a : Nat) (w : Word) : (s.setRw a w).rw = s.rw.set (regReset a) a w := rfl
@[simp] theorem State.setShadow_shNew (s : State) (a : Nat) (w : Word) :
    (s.setShadow a w).shNew = s.shNew.set none a (some w) := rfl
@[simp] theorem State.count_cnt (s : State) (a n : Nat) : (s.count a n).cnt = s.cnt.upd 0 a (· + n) := rfl
@[simp] theorem State.used_freeCtr (s : State) (n : Nat) : (s.used n).freeCtr = s.freeCtr + n := rfl
@[simp] theorem State.answer_ctl_state (s : State) (h : Hdr) (op status cause : Nat) (data : List Byte) :
    (s.answer h op status cause data).ctl.state = s.ctl.state := rfl
@[simp] theorem State.takeRx_ctl_state (s : State) (ch tag : Nat) : (s.takeRx ch tag).ctl.state = s.ctl.state := rfl
@[simp] theorem State.enter_ctl_state (s : State) (st : DevState) (cause opcode tag : Nat) :
    (s.enter st cause opcode tag).ctl.state = st := rfl

end Sys2Proof.Machine
end

