-- ==== Sys2Proof/Laws/Command.lean ====
section
/-! SUPPORT. The course of a command, said once: an accepted command is its action on the state in which it begins; and what a response
leaves behind. -/

namespace Sys2Proof.Machine

/-- An accepted command is executed, and nothing else of the command's course shows (R370, R377). -/
theorem State.command_accepted {s : State} {h : Hdr} {op : Nat} {isSealed : Bool} (act : State → State)
    (ha : s.accepts h op isSealed = true) : s.command h op isSealed act = act (s.begun h) := by
  simp only [State.accepts, Bool.and_eq_true, decide_eq_true_eq, Option.isNone_iff_eq_none, Bool.not_eq_true'] at ha
  obtain ⟨⟨⟨⟨⟨⟨h1, h2⟩, h3⟩, h4⟩, h5⟩, h6⟩, h7⟩ := ha
  simp only [State.command, h1, h2, h3, h4, h5, State.begun, h6]
  cases hq : legalIn op s.ctl.state <;> simp_all

@[simp] theorem State.begun_ctl_state (s : State) (h : Hdr) : (s.begun h).ctl.state = s.ctl.state := rfl

/-- Cutting a message into segments touches the wire and the sequence numbers alone (R368). -/
@[simp] theorem Ctl.sendMessage_out (c : Ctl) (ch tag off : Nat) (bs : List Byte) : (c.sendMessage ch tag off bs).out = c.out := rfl

theorem Ctl.foldl_out (f : Ctl → Nat → Ctl) (h : ∀ c i, (f c i).out = c.out) : ∀ (l : List Nat) (c : Ctl), (l.foldl f c).out = c.out
  | [], _ => rfl
  | i :: l, c => (Ctl.foldl_out f h l (f c i)).trans (h c i)

@[simp] theorem Ctl.sendBytes_out (c : Ctl) (ch off : Nat) (bs : List Byte) : (c.sendBytes ch off bs).out = c.out :=
  Ctl.foldl_out _ (fun d _ => Ctl.sendMessage_out d ch 0 _ _) _ c

/-- A message that leaves is the last of what has been sent (R369). -/
@[simp] theorem Ctl.put_out (c : Ctl) (m : OutMsg) : (c.put m).out = c.out ++ [m] := by
  cases m <;> simp [Ctl.put]

/-- A response is the newest of the store and the last message sent (R370). -/
theorem State.answer_responded (s : State) (h : Hdr) (op status cause : Nat) (data : List Byte) :
    (s.answer h op status cause data).responded h op status :=
  ⟨{ tag := h.tag.toNat, opcode := op, status := status, cause := cause, data := data }, rfl, by simp [State.answer], rfl, rfl, rfl⟩

/-- The store never holds more than 64 responses after an answer (R370). -/
theorem State.answer_stored_length (s : State) (h : Hdr) (op status cause : Nat) (data : List Byte) :
    (s.answer h op status cause data).ctl.stored.length ≤ 64 := by
  simp [State.answer, storeDepth]

/-- A long command that starts is answered STARTED (R381). -/
theorem State.startLong_responded (s : State) (h : Hdr) (op : Nat) (arg : List Nat) :
    (s.startLong h op arg).responded h op stStarted := State.answer_responded s h op stStarted 0 []

end Sys2Proof.Machine
end

