-- ==== Sys2Proof/Laws/Fabric.lean ====
section
/-! SUPPORT. What the movement of entries through a fabric can change, said once: `settle` leaves the control block, the fuses, the
registers and every other part of the state outside the fabrics' reach as it was. -/

namespace Sys2Proof.Machine

/-- `t` differs from `s` at most in what the movement of entries reaches: fabrics, engines, memory and its poison marks, Chanters, spine, KV
units, event block, counters and the number of free values taken. -/
def State.onlyFabric (s t : State) : Prop :=
  t = { s with
    evt := t.evt, cnt := t.cnt, mem := t.mem, poison := t.poison, eng := t.eng, fab := t.fab, ch := t.ch, spine := t.spine, kv := t.kv,
    freeCtr := t.freeCtr }

theorem State.onlyFabric_refl (s : State) : s.onlyFabric s := rfl

theorem State.onlyFabric_trans {s t u : State} (h : s.onlyFabric t) (g : t.onlyFabric u) : s.onlyFabric u := by
  unfold State.onlyFabric at *
  rw [g, h]

section
variable {s t : State}

theorem State.onlyFabric_count (h : s.onlyFabric t) (a n : Nat) : s.onlyFabric (t.count a n) := State.onlyFabric_trans h rfl
theorem State.onlyFabric_raise (h : s.onlyFabric t) (p c : Nat) (pl : List Byte) : s.onlyFabric (t.raise p c pl) := State.onlyFabric_trans h rfl
theorem State.onlyFabric_used (h : s.onlyFabric t) (n : Nat) : s.onlyFabric (t.used n) := State.onlyFabric_trans h rfl
theorem State.onlyFabric_setFab (h : s.onlyFabric t) (d : Nat) (f : FabDie) : s.onlyFabric (t.setFab d f) := State.onlyFabric_trans h rfl
theorem State.onlyFabric_setCh (h : s.onlyFabric t) (d : Nat) (c : ChDie) : s.onlyFabric (t.setCh d c) := State.onlyFabric_trans h rfl
theorem State.onlyFabric_setKv (h : s.onlyFabric t) (d : Nat) (k : KvDie) : s.onlyFabric (t.setKv d k) := State.onlyFabric_trans h rfl
theorem State.onlyFabric_setEng (h : s.onlyFabric t) (d e : Nat) (x : Engine) : s.onlyFabric (t.setEng d e x) := State.onlyFabric_trans h rfl
theorem State.onlyFabric_store (h : s.onlyFabric t) (a : Nat) (bs : List Byte) : s.onlyFabric (t.store a bs) := State.onlyFabric_trans h rfl
theorem State.onlyFabric_notify (h : s.onlyFabric t) (k : NoticeKind) (p q a b : Nat) : s.onlyFabric (t.notify k p q a b) := State.onlyFabric_trans h rfl
theorem State.onlyFabric_notifyBoth (h : s.onlyFabric t) (k : NoticeKind) (d a b : Nat) : s.onlyFabric (t.notifyBoth k d a b) :=
  State.onlyFabric_trans h rfl
theorem State.onlyFabric_unmapped (h : s.onlyFabric t) (u : MemUnit) (a c m : Nat) : s.onlyFabric (t.unmapped u a c m) := State.onlyFabric_trans h rfl

theorem State.onlyFabric_dropMb (h : s.onlyFabric t) (d mb cause : Nat) : s.onlyFabric (t.dropMb d mb cause) := State.onlyFabric_trans h rfl

theorem State.onlyFabric_foldState {α : Type} {g : State → α → State} (hg : ∀ u x, s.onlyFabric u → s.onlyFabric (g u x)) (l : List α) :
    ∀ u : State, s.onlyFabric u → s.onlyFabric (l.foldl g u) := by
  induction l with
  | nil => exact fun u h => h
  | cons x l ih => exact fun u h => ih _ (hg u x h)

theorem State.onlyFabric_pipeRaise (h : s.onlyFabric t) (d code : Nat) (u : Option (List Nat)) (layer cause x : Nat) :
    s.onlyFabric (t.pipeRaise d code u layer cause x) := State.onlyFabric_raise h _ _ _

theorem State.onlyFabric_damageMb (h : s.onlyFabric t) (d : Nat) (u : List Nat) (back : Bool) (ts : List Nat) (eng seq cause layer : Nat) :
    s.onlyFabric (t.damageMb d u back ts eng seq cause layer) := by
  unfold State.damageMb
  dsimp only
  split
  · exact State.onlyFabric_foldState (fun u x hu => State.onlyFabric_notifyBoth hu _ _ _ _) _ _
      (State.onlyFabric_pipeRaise (State.onlyFabric_count h _ _) _ _ _ _ _ _)
  · exact State.onlyFabric_dropMb (State.onlyFabric_pipeRaise (State.onlyFabric_count h _ _) _ _ _ _ _ _) _ _ _

theorem State.onlyFabric_portPoison (h : s.onlyFabric t) (d mb addr : Nat) : s.onlyFabric (t.portPoison d mb addr) := by
  unfold State.portPoison
  split
  · exact State.onlyFabric_raise h _ _ _
  · exact State.onlyFabric_damageMb (State.onlyFabric_raise h _ _ _) _ _ _ _ _ _ _ _

theorem State.onlyFabric_countPoison (h : s.onlyFabric t) (l : List Nat) : s.onlyFabric (t.countPoison l) := by
  refine State.onlyFabric_foldState (fun u g hu => ?_) l t h
  split
  · split
    · exact State.onlyFabric_count hu _ _
    · exact hu
  · exact hu

theorem State.onlyFabric_consume (h : s.onlyFabric t) (u : MemUnit) (a n m : Nat) : s.onlyFabric (t.consume u a n m).2.2 := by
  unfold State.consume
  split
  · exact State.onlyFabric_unmapped h _ _ _ _
  · exact State.onlyFabric_countPoison h _

theorem State.onlyFabric_abandonStep (h : s.onlyFabric t) (d cause : Nat) (stop : Bool) : s.onlyFabric (t.abandonStep d cause stop) := by
  unfold State.abandonStep
  split
  · exact h
  · refine State.onlyFabric_pipeRaise (State.onlyFabric_setCh (State.onlyFabric_foldState (fun u k hu => ?_) [0, 1, 2, 3] t h) _ _) _ _ _ _ _ _
    split
    · exact hu
    · exact State.onlyFabric_notifyBoth (State.onlyFabric_setCh hu _ _) _ _ _ _

theorem State.onlyFabric_lsUncorrectable (h : s.onlyFabric t) (d r : Nat) : s.onlyFabric (t.lsUncorrectable d r) :=
  State.onlyFabric_abandonStep (State.onlyFabric_raise (State.onlyFabric_setFab h _ _) _ _ _) _ _ _

theorem State.onlyFabric_loadFor (h : s.onlyFabric t) (u : MemUnit) (a n m : Nat) : s.onlyFabric (t.loadFor u a n m).2 := by
  refine State.onlyFabric_trans h ?_
  unfold State.loadFor
  split <;> rfl

theorem State.onlyFabric_storeFor (h : s.onlyFabric t) (u : MemUnit) (a : Nat) (bs : List Byte) (m : Nat) : s.onlyFabric (t.storeFor u a bs m) := by
  refine State.onlyFabric_trans h ?_
  unfold State.storeFor
  split
  · rfl
  · unfold State.putAt
    split <;> rfl

theorem State.onlyFabric_portStore (h : s.onlyFabric t) (d p a m : Nat) (bs : List Byte) : s.onlyFabric (t.portStore d p a m bs) := by
  unfold State.portStore
  exact State.onlyFabric_storeFor h _ _ _ _

theorem State.onlyFabric_kvCodes (h : s.onlyFabric t) (d page pos : Nat) (v : Bool) : s.onlyFabric (t.kvCodes d page pos v).2.2 :=
  State.onlyFabric_consume h _ _ _ _

theorem State.onlyFabric_kvCount (h : s.onlyFabric t) (d off n : Nat) : s.onlyFabric (t.kvCount d off n) := State.onlyFabric_trans h rfl

theorem State.onlyFabric_kvRead (h : s.onlyFabric t) (d : Nat) (x : SpRun) : s.onlyFabric (t.kvRead d x).2.2.2.2 := by
  unfold State.kvRead
  dsimp only
  split
  · exact h
  · split
    · dsimp only
      split
      · exact State.onlyFabric_kvCount h _ _ _
      · exact h
    · split
      · exact State.onlyFabric_kvCodes (State.onlyFabric_kvCodes h _ _ _ _) _ _ _ _
      · exact State.onlyFabric_consume h _ _ _ _

theorem State.onlyFabric_kvWrite (h : s.onlyFabric t) (d : Nat) (x : SpRun) (bs : List Byte) : s.onlyFabric (t.kvWrite d x bs).2 := by
  unfold State.kvWrite
  dsimp only
  split
  · exact h
  · split
    · dsimp only
      split
      · exact State.onlyFabric_kvCount h _ _ _
      · exact h
    · split
      · exact State.onlyFabric_storeFor (State.onlyFabric_storeFor h _ _ _ _) _ _ _ _
      · exact State.onlyFabric_storeFor h _ _ _ _

theorem State.onlyFabric_joinQueue (h : s.onlyFabric t) (d r : Nat) (rec0 : List Nat) (c k : Nat) (e : Entry) :
    s.onlyFabric (t.joinQueue d r rec0 c k e) := by
  unfold State.joinQueue
  dsimp only
  split
  · exact State.onlyFabric_store (State.onlyFabric_setFab h _ _) _ _
  · exact State.onlyFabric_setFab h _ _

theorem State.onlyFabric_move {u : State} (h : s.onlyFabric t) (d : Nat) (rec0 : List Nat) (r src c : Nat) (hu : t.move d rec0 r src c = some u) :
    s.onlyFabric u := by
  unfold State.move at hu
  dsimp only at hu
  split at hu
  · split at hu
    · cases hu
      exact State.onlyFabric_joinQueue (State.onlyFabric_setFab h _ _) _ _ _ _ _ _
    · cases hu
  · cases hu

theorem State.onlyFabric_foldl {α : Type} {g : State × Bool → α → State × Bool} (hg : ∀ a x, s.onlyFabric a.1 → s.onlyFabric (g a x).1) (l : List α) :
    ∀ a : State × Bool, s.onlyFabric a.1 → s.onlyFabric (l.foldl g a).1 := by
  induction l with
  | nil => exact fun a h => h
  | cons x l ih => exact fun a h => ih _ (hg a x h)

theorem State.onlyFabric_moveQueue (h : s.onlyFabric t) (d : Nat) (rec0 : List Nat) (r src : Nat) : s.onlyFabric (t.moveQueue d rec0 r src).1 := by
  unfold State.moveQueue
  dsimp only
  split
  · exact State.onlyFabric_setFab h _ _
  · split
    · exact h
    · split
      · exact State.onlyFabric_lsUncorrectable h _ _
      · refine State.onlyFabric_foldl (fun a c ha => ?_) _ (t, false) h
        split
        · exact State.onlyFabric_move ha _ _ _ _ _ ‹_›
        · exact ha

theorem State.onlyFabric_moveReeds (h : s.onlyFabric t) (d : Nat) : s.onlyFabric (t.moveReeds d).1 := by
  delta State.moveReeds
  generalize List.filter _ _ = keys
  dsimp only
  apply State.onlyFabric_foldl
  · intro a k ha
    dsimp only
    exact State.onlyFabric_moveQueue ha d _ _ _
  · exact h
theorem State.onlyFabric_outRows (h : s.onlyFabric t) (d e : Nat) : s.onlyFabric (t.outRows d e) := State.onlyFabric_trans h rfl

theorem State.onlyFabric_inPort {u : State} (h : s.onlyFabric t) (d e i : Nat) (hu : t.inPort d e i = some u) : s.onlyFabric u := by
  refine State.onlyFabric_trans h ?_
  unfold State.inPort at hu
  dsimp only at hu
  split at hu
  · cases hu
  · rw [Option.ite_none_left_eq_some] at hu
    obtain ⟨-, hu⟩ := hu
    cases hu; rfl

theorem State.onlyFabric_ite {a b : State} {c : Prop} [Decidable c] (ha : s.onlyFabric a) (hb : s.onlyFabric b) :
    s.onlyFabric (if c then a else b) := by
  split
  · exact ha
  · exact hb

theorem State.onlyFabric_iteFst {a b : State × Bool} {c : Prop} [Decidable c] (ha : s.onlyFabric a.1) (hb : s.onlyFabric b.1) :
    s.onlyFabric (if c then a else b).1 := by
  split
  · exact ha
  · exact hb

theorem State.onlyFabric_portRead {u : State} (h : s.onlyFabric t) (d p : Nat) (hu : t.portRead d p = some u) : s.onlyFabric u := by
  unfold State.portRead at hu
  dsimp only at hu
  rw [Option.ite_none_left_eq_some] at hu
  obtain ⟨-, hu⟩ := hu
  split at hu
  · have hu := Option.some.inj hu
    subst hu
    exact State.onlyFabric_foldState (fun u a hu => State.onlyFabric_portPoison hu _ _ _) _ _
      (State.onlyFabric_setFab (State.onlyFabric_kvRead h _ _) _ _)
  · split at hu
    · have hu := Option.some.inj hu
      subst hu
      have hv : s.onlyFabric (if (t.ingestEntry ((t.fabD d).port p) (sprL0 (t.spRec d (t.activeOf d) p))).2 = true then
          (List.replicate 64 0, false, t)
          else t.consume (spUnit d p) (t.ingestEntry ((t.fabD d).port p) (sprL0 (t.spRec d (t.activeOf d) p))).1 64 ((t.fabD d).port p).mb).2.2 := by
        split
        · exact h
        · exact State.onlyFabric_consume h _ _ _ _
      exact State.onlyFabric_ite (State.onlyFabric_portPoison (State.onlyFabric_setFab hv _ _) _ _ _) (State.onlyFabric_setFab hv _ _)
    · have hu := Option.some.inj hu
      subst hu
      exact State.onlyFabric_ite (State.onlyFabric_portPoison (State.onlyFabric_setFab (State.onlyFabric_consume h _ _ _ _) _ _) _ _ _)
        (State.onlyFabric_setFab (State.onlyFabric_consume h _ _ _ _) _ _)

theorem State.onlyFabric_portWrite {u : State} (h : s.onlyFabric t) (d p : Nat) (hu : t.portWrite d p = some u) : s.onlyFabric u := by
  refine State.onlyFabric_trans h ?_
  unfold State.portWrite at hu
  dsimp only at hu
  split at hu
  · exact absurd hu (by simp)
  · split at hu
    · have hu := Option.some.inj hu
      subst hu; exact State.onlyFabric_setKv (State.onlyFabric_setFab (State.onlyFabric_refl _) _ _) _ _
    · split at hu
      · rw [Option.ite_none_left_eq_some] at hu
        have hu := Option.some.inj hu.2
        subst hu
        exact State.onlyFabric_setFab (State.onlyFabric_kvWrite (State.onlyFabric_refl _) _ _ _) _ _
      · rw [Option.ite_none_left_eq_some, Option.ite_none_left_eq_some] at hu
        have hu := Option.some.inj hu.2.2
        subst hu
        exact State.onlyFabric_portStore (State.onlyFabric_setFab (State.onlyFabric_refl _) _ _) _ _ _ _ _

theorem State.onlyFabric_tryMove {a : State × Bool} {g : State → Option State} (h : s.onlyFabric a.1)
    (hg : ∀ x u, s.onlyFabric x → g x = some u → s.onlyFabric u) : s.onlyFabric (tryMove a g).1 := by
  unfold tryMove
  split
  · exact hg _ _ h ‹_›
  · exact h

theorem State.onlyFabric_moveRound (h : s.onlyFabric t) (d : Nat) (ps es ks : List Nat) : s.onlyFabric (t.moveRound d ps es ks).1 := by
  unfold State.moveRound
  dsimp only
  refine State.onlyFabric_iteFst (State.onlyFabric_moveReeds h d) ?_
  apply State.onlyFabric_foldl
  · intro a p ha
    exact State.onlyFabric_tryMove (State.onlyFabric_tryMove ha fun x u hx hu => State.onlyFabric_portRead hx d p hu)
      fun x u hx hu => State.onlyFabric_portWrite hx d p hu
  · apply State.onlyFabric_foldl
    · intro a e ha
      apply State.onlyFabric_foldl
      · intro b i hb
        refine State.onlyFabric_tryMove (State.onlyFabric_tryMove hb fun x u hx hu => ?_) fun x u hx hu => State.onlyFabric_inPort hx d e i hu
        obtain ⟨f, -, rfl⟩ := Option.map_eq_some_iff.mp hu
        exact State.onlyFabric_setFab hx d f
      · exact State.onlyFabric_ite ha (State.onlyFabric_outRows ha d e)
    · exact State.onlyFabric_moveReeds h d

end

theorem State.onlyFabric_settleN (d n : Nat) : ∀ {s t : State}, s.onlyFabric t → s.onlyFabric (t.settleN d n) := by
  induction n with
  | zero => exact fun h => h
  | succ n ih =>
    intro s t h
    unfold State.settleN
    dsimp only
    split
    · exact ih (State.onlyFabric_moveRound h d _ _ _)
    · exact State.onlyFabric_moveRound h d _ _ _

/-- However many rounds a fabric is given, its movement changes nothing outside its reach. -/
theorem State.settleN_frame (s : State) (d n : Nat) : s.onlyFabric (s.settleN d n) := State.onlyFabric_settleN d n (State.onlyFabric_refl s)

theorem State.onlyFabric_ctl {s t : State} (h : s.onlyFabric t) : t.ctl = s.ctl := by unfold State.onlyFabric at h; rw [h]
theorem State.onlyFabric_fuse {s t : State} (h : s.onlyFabric t) : t.fuse = s.fuse := by unfold State.onlyFabric at h; rw [h]
theorem State.onlyFabric_rw {s t : State} (h : s.onlyFabric t) : t.rw = s.rw := by unfold State.onlyFabric at h; rw [h]

/-- Settling a fabric changes nothing outside the reach of its movement. -/
theorem State.settle_frame (s : State) (d : Nat) : s.onlyFabric (s.settle d) := by
  delta State.settle
  exact s.settleN_frame d _

end Sys2Proof.Machine
end

