-- ==== Sys2Proof/Laws/Table.lean ====
section
/-! SUPPORT. The laws of the sparse table: reading after writing, and that every operation keeps the canonical form. -/

namespace Sys2Proof

theorem Tbl.get_empty {α : Type} (d : α) (k : Nat) : Tbl.get d (.empty : Tbl α) k = d := rfl

/-- A list whose keys all lie above `lo` reads as unlisted at and below `lo`. -/
theorem Tbl.lookup_below {α : Type} (d : α) (k lo : Nat) (hk : k ≤ lo) :
    ∀ l : List (Nat × α), Tbl.sorted (some lo) l = true → Tbl.lookup d k l = d
  | [], _ => rfl
  | (a, v) :: rest, h => by
    simp only [Tbl.sorted, Bool.and_eq_true, decide_eq_true_eq] at h
    have h1 : ¬ a < k := by omega
    have h2 : ¬ a = k := by omega
    simp [Tbl.lookup, h1, h2]

/-- A lower bound on the keys can be lowered. -/
theorem Tbl.sorted_mono {α : Type} {lo lo' : Nat} (h : lo' ≤ lo) :
    ∀ l : List (Nat × α), Tbl.sorted (some lo) l = true → Tbl.sorted (some lo') l = true
  | [], _ => rfl
  | (a, v) :: rest, hs => by
    simp only [Tbl.sorted, Bool.and_eq_true, decide_eq_true_eq] at hs ⊢
    exact ⟨by omega, hs.2⟩

theorem Tbl.sorted_none {α : Type} {lo : Nat} :
    ∀ l : List (Nat × α), Tbl.sorted (some lo) l = true → Tbl.sorted none l = true
  | [], _ => rfl
  | (a, v) :: rest, hs => by
    simp only [Tbl.sorted, Bool.and_eq_true, decide_eq_true_eq] at hs ⊢
    exact hs.2

/-- What a look-up finds after an insertion, in a list sorted above a bound. -/
theorem Tbl.lookup_insert {α : Type} [DecidableEq α] (d : α) (k j : Nat) (v : α) :
    ∀ (l : List (Nat × α)), Tbl.sorted none l = true →
      Tbl.lookup d j (Tbl.insert d k v l) = if j = k then v else Tbl.lookup d j l
  | [], _ => by
    by_cases hv : v = d <;> simp [Tbl.insert, Tbl.lookup, hv]
    grind
  | (a, u) :: rest, h => by
    have hr : Tbl.sorted (some a) rest = true := h
    have ih := Tbl.lookup_insert d k j v rest (Tbl.sorted_none _ hr)
    have hb : ∀ i, i ≤ a → Tbl.lookup d i rest = d := fun i hi => Tbl.lookup_below d i a hi rest hr
    simp only [Tbl.insert]
    by_cases h1 : a < k
    · simp only [h1, ↓reduceIte, Tbl.lookup, ih]; grind
    · by_cases h2 : a = k
      · subst h2
        by_cases hv : v = d <;> simp only [lt_irrefl, hv, ↓reduceIte, Tbl.lookup] <;> grind
      · by_cases hv : v = d <;> simp only [h1, h2, hv, ↓reduceIte, Tbl.lookup] <;> grind

theorem Tbl.wf_sorted {α : Type} [DecidableEq α] {d : α} {t : Tbl α} (h : t.wf d = true) :
    Tbl.sorted none t.cells = true := by
  simp only [Tbl.wf, Bool.and_eq_true] at h; exact h.1

/-- Reading after writing, for a table in its canonical form. -/
theorem Tbl.get_set {α : Type} [DecidableEq α] {d : α} {t : Tbl α} (h : t.wf d = true) (k j : Nat) (v : α) :
    (t.set d k v).get d j = if j = k then v else t.get d j :=
  Tbl.lookup_insert d k j v t.cells (Tbl.wf_sorted h)

theorem Tbl.get_set_same {α : Type} [DecidableEq α] {d : α} {t : Tbl α} (h : t.wf d = true) (k : Nat) (v : α) :
    (t.set d k v).get d k = v := by simp [Tbl.get_set h]

theorem Tbl.get_set_other {α : Type} [DecidableEq α] {d : α} {t : Tbl α} (h : t.wf d = true) {k j : Nat} (v : α) (hj : j ≠ k) :
    (t.set d k v).get d j = t.get d j := by simp [Tbl.get_set h, hj]

theorem Tbl.sorted_insert_above {α : Type} [DecidableEq α] (d : α) (k lo : Nat) (v : α) (hk : lo < k) :
    ∀ l : List (Nat × α), Tbl.sorted (some lo) l = true → Tbl.sorted (some lo) (Tbl.insert d k v l) = true
  | [], _ => by by_cases hv : v = d <;> simp [Tbl.insert, Tbl.sorted, hv, hk]
  | (a, u) :: rest, h => by
    simp only [Tbl.sorted, Bool.and_eq_true, decide_eq_true_eq] at h
    simp only [Tbl.insert]
    by_cases h1 : a < k
    · simp only [h1, ↓reduceIte, Tbl.sorted, Bool.and_eq_true, decide_eq_true_eq]
      exact ⟨h.1, Tbl.sorted_insert_above d k a v h1 rest h.2⟩
    · by_cases h2 : a = k
      · subst h2
        by_cases hv : v = d
        · simp only [lt_irrefl, hv, ↓reduceIte]
          exact Tbl.sorted_mono (Nat.le_of_lt h.1) _ h.2
        · simp only [lt_irrefl, hv, ↓reduceIte, Tbl.sorted, Bool.and_eq_true, decide_eq_true_eq]
          exact ⟨h.1, h.2⟩
      · by_cases hv : v = d
        · simp only [h1, h2, hv, ↓reduceIte, Tbl.sorted, Bool.and_eq_true, decide_eq_true_eq]; exact h
        · simp only [h1, h2, hv, ↓reduceIte, Tbl.sorted, Bool.and_eq_true, decide_eq_true_eq]
          exact ⟨by omega, by omega, h.2⟩

theorem Tbl.sorted_insert {α : Type} [DecidableEq α] (d : α) (k : Nat) (v : α) :
    ∀ l : List (Nat × α), Tbl.sorted none l = true → Tbl.sorted none (Tbl.insert d k v l) = true
  | [], _ => by by_cases hv : v = d <;> simp [Tbl.insert, Tbl.sorted, hv]
  | (a, u) :: rest, h => by
    have hr : Tbl.sorted (some a) rest = true := h
    simp only [Tbl.insert]
    by_cases h1 : a < k
    · simp only [h1, ↓reduceIte, Tbl.sorted]
      exact Tbl.sorted_insert_above d k a v h1 rest hr
    · by_cases h2 : a = k
      · subst h2
        by_cases hv : v = d
        · simp only [lt_irrefl, hv, ↓reduceIte]; exact Tbl.sorted_none _ hr
        · simp only [lt_irrefl, hv, ↓reduceIte, Tbl.sorted]; exact hr
      · by_cases hv : v = d
        · simp only [h1, h2, hv, ↓reduceIte, Tbl.sorted]; exact hr
        · simp only [h1, h2, hv, ↓reduceIte, Tbl.sorted, Bool.and_eq_true, decide_eq_true_eq]
          exact ⟨by omega, hr⟩

theorem Tbl.all_insert {α : Type} [DecidableEq α] (d : α) (k : Nat) (v : α) :
    ∀ l : List (Nat × α), (l.all fun c => decide (c.2 ≠ d)) = true →
      ((Tbl.insert d k v l).all fun c => decide (c.2 ≠ d)) = true
  | [], _ => by by_cases hv : v = d <;> simp [Tbl.insert, hv]
  | (a, u) :: rest, h => by
    have ih := Tbl.all_insert d k v rest
    simp only [Tbl.insert]
    grind

/-- Writing keeps the canonical form. -/
theorem Tbl.wf_set {α : Type} [DecidableEq α] {d : α} {t : Tbl α} (h : t.wf d = true) (k : Nat) (v : α) :
    (t.set d k v).wf d = true := by
  simp only [Tbl.wf, Bool.and_eq_true] at h ⊢
  exact ⟨Tbl.sorted_insert d k v _ h.1, Tbl.all_insert d k v _ h.2⟩

theorem Tbl.wf_upd {α : Type} [DecidableEq α] {d : α} {t : Tbl α} (h : t.wf d = true) (k : Nat) (f : α → α) :
    (t.upd d k f).wf d = true := Tbl.wf_set h k _

theorem Tbl.wf_empty {α : Type} [DecidableEq α] (d : α) : (Tbl.empty : Tbl α).wf d = true := rfl

theorem Tbl.sorted_filter_above {α : Type} (p : Nat × α → Bool) (lo : Nat) :
    ∀ l : List (Nat × α), Tbl.sorted (some lo) l = true → Tbl.sorted (some lo) (l.filter p) = true
  | [], _ => rfl
  | c :: rest, h => by
    simp only [Tbl.sorted, Bool.and_eq_true, decide_eq_true_eq] at h
    simp only [List.filter]
    split
    · simp only [Tbl.sorted, Bool.and_eq_true, decide_eq_true_eq]
      exact ⟨h.1, Tbl.sorted_filter_above p c.1 rest h.2⟩
    · exact Tbl.sorted_mono (by omega) _ (Tbl.sorted_filter_above p c.1 rest h.2)

/-- Removing entries keeps the canonical form. -/
theorem Tbl.wf_drop {α : Type} [DecidableEq α] {d : α} {t : Tbl α} (h : t.wf d = true) (p : Nat → Bool) :
    (t.drop p).wf d = true := by
  simp only [Tbl.wf, Bool.and_eq_true] at h ⊢
  obtain ⟨hs, ha⟩ := h
  refine ⟨?_, ?_⟩
  · simp only [Tbl.drop]
    match hc : t.cells, hs with
    | [], _ => rfl
    | c :: rest, hs =>
      have hr : Tbl.sorted (some c.1) rest = true := hs
      simp only [List.filter]
      split
      · exact Tbl.sorted_filter_above _ c.1 rest hr
      · exact Tbl.sorted_none _ (Tbl.sorted_filter_above _ c.1 rest hr)
  · simp only [Tbl.drop, List.all_filter, List.all_eq_true] at ha ⊢
    intro x hx
    simp [ha x hx]

end Sys2Proof
end

