-- ==== Sys2Proof/Laws/Memory.lean ====
section
/-! SUPPORT. The laws of memory: a byte read after a write, and that every memory operation keeps the canonical form of memory and of its
poison marks. -/

namespace Sys2Proof.Machine

/-- Writing bytes keeps the canonical form. -/
theorem memWrite_wf (bs : List Byte) : ∀ (m : Tbl Byte) (a : Nat), Memory.wf m = true → Memory.wf (memWrite m a bs) = true := by
  induction bs with
  | nil => exact fun m a h => h
  | cons b bs ih => exact fun m a h => ih _ _ (Tbl.wf_set h a b)

/-- A byte outside the bytes written reads as before. -/
theorem memWrite_outside (bs : List Byte) : ∀ (m : Tbl Byte) (a x : Nat), Memory.wf m = true → x < a ∨ a + bs.length ≤ x →
    (memWrite m a bs).get 0 x = m.get 0 x := by
  induction bs with
  | nil => exact fun m a x _ _ => rfl
  | cons b bs ih =>
    intro m a x h hx
    simp only [List.length_cons] at hx
    exact (ih (m.set 0 a b) (a + 1) x (Tbl.wf_set h a b) (by omega)).trans (Tbl.get_set_other h b (by omega))

/-- A byte that was written reads as it was written. -/
theorem memWrite_inside (bs : List Byte) : ∀ (m : Tbl Byte) (a i : Nat), Memory.wf m = true → (h : i < bs.length) →
    (memWrite m a bs).get 0 (a + i) = bs[i] := by
  induction bs with
  | nil => exact fun m a i _ h => absurd h (by simp)
  | cons b bs ih =>
    intro m a i hw h
    cases i with
    | zero => exact (memWrite_outside bs (m.set 0 a b) (a + 1) a (Tbl.wf_set hw a b) (by omega)).trans (Tbl.get_set_same hw a b)
    | succ i =>
      have := ih (m.set 0 a b) (a + 1) i (Tbl.wf_set hw a b) (by simpa using h)
      rw [memWrite]
      simpa [Nat.add_assoc, Nat.add_comm 1 i] using this

/-- Clearing the marks of granules keeps their canonical form. -/
theorem clearMarks_wf (l : List Nat) : ∀ t : Tbl Bool, t.wf false = true → (l.foldl (fun t g => t.set false g false) t).wf false = true := by
  induction l with
  | nil => exact fun t h => h
  | cons g l ih => exact fun t h => ih _ (Tbl.wf_set h g false)

/-- A store keeps the canonical form. -/
theorem State.store_memOk {s : State} (h : s.memOk) (a : Nat) (bs : List Byte) : (s.store a bs).memOk :=
  ⟨memWrite_wf bs s.mem a h.1, clearMarks_wf _ _ h.2⟩

theorem State.storeNat_memOk {s : State} (h : s.memOk) (a n v : Nat) : (s.storeNat a n v).memOk := State.store_memOk h a _

theorem State.setPoison_memOk {s : State} (h : s.memOk) (a : Nat) : (s.setPoison a).memOk := ⟨h.1, Tbl.wf_set h.2 _ _⟩

/-- A turned-away access reports and leaves memory alone. -/
theorem State.unmapped_memOk {s : State} (h : s.memOk) (u : MemUnit) (addr cause mb : Nat) : (s.unmapped u addr cause mb).memOk := h

/-- What is carried out of a write keeps the canonical form: an arrival window holds no memory. -/
theorem State.putAt_memOk {s : State} (h : s.memOk) (u : MemUnit) (addr : Nat) (bs : List Byte) : (s.putAt u addr bs).memOk := by
  unfold State.putAt
  split
  · exact h
  · exact State.store_memOk h addr bs

theorem State.storeFor_memOk {s : State} (h : s.memOk) (u : MemUnit) (addr : Nat) (bs : List Byte) (mb : Nat) :
    (s.storeFor u addr bs mb).memOk := by
  unfold State.storeFor
  split
  · exact State.unmapped_memOk h u addr _ mb
  · exact State.putAt_memOk h u addr bs

/-- Poison that comes with data keeps the canonical form of the marks. -/
theorem State.setPoisons_memOk {s : State} (h : s.memOk) (addr n : Nat) : (s.setPoisons addr n).memOk := by
  refine ⟨h.1, ?_⟩
  show Tbl.wf false (List.foldl _ s.poison _) = true
  generalize touchedGranules addr n = l
  revert h
  suffices ∀ t : Tbl Bool, t.wf false = true → (l.foldl (fun t g => t.set false g true) t).wf false = true from fun h => this _ h.2
  induction l with
  | nil => exact fun t h => h
  | cons g l ih => exact fun t h => ih _ (Tbl.wf_set h g true)

theorem State.poisonFor_memOk {s : State} (h : s.memOk) (u : MemUnit) (addr n : Nat) : (s.poisonFor u addr n).memOk := by
  unfold State.poisonFor
  split
  · exact h
  · exact h
  · exact State.setPoisons_memOk h addr n

theorem State.loadFor_memOk {s : State} (h : s.memOk) (u : MemUnit) (addr n mb : Nat) : (s.loadFor u addr n mb).2.memOk := by
  unfold State.loadFor
  split
  · exact State.unmapped_memOk h u addr _ mb
  · exact h

/-- Removing entries, as a zeroisation does, keeps the canonical form. -/
theorem State.drop_memOk {s : State} (h : s.memOk) (p q : Nat → Bool) : State.memOk { s with mem := s.mem.drop p, poison := s.poison.drop q } :=
  ⟨Tbl.wf_drop h.1 p, Tbl.wf_drop h.2 q⟩

theorem State.reset_memOk : State.reset.memOk := ⟨rfl, rfl⟩

/-- Reading one byte after a store. -/
theorem State.byteAt_store_outside {s : State} (h : s.memOk) {a x : Nat} {bs : List Byte} (hx : x < a ∨ a + bs.length ≤ x) :
    (s.store a bs).byteAt x = s.byteAt x := memWrite_outside bs s.mem a x h.1 hx

theorem State.byteAt_store_inside {s : State} (h : s.memOk) {a i : Nat} {bs : List Byte} (hi : i < bs.length) :
    (s.store a bs).byteAt (a + i) = bs[i] := memWrite_inside bs s.mem a i h.1 hi

end Sys2Proof.Machine
end

