-- ==== Sys2Proof/Tests/Slice0.lean ====
section
/-! SUPPORT. The author's own tests: the well-formedness smoke, one step on small states, and for every statement with hypotheses a
concrete state and operands that meet them. -/

namespace Sys2Proof.Tests

set_option Elab.async false
set_option linter.unusedVariables false

open Sys2Proof Sys2Proof.Machine

/-- A choice among one is that one. -/
theorem one_choice {α : Type} {l : List α} {a : α} {s : State} (h : l = [a]) : l[s.choose l.length]? = some a := by
  subst h; simp [State.choose, Nat.mod_one]

/-- A hart in U mode under Sv48 whose root table holds nothing, and one in M mode whose one PMP entry is locked and permits nothing. -/
def wHart : Hart := { Hart.bare with priv := .u, satp := BitVec.ofNat 64 (9 * 2 ^ 60) }
def wHartPmp : Hart := { Hart.bare with pmp := [{ cfg := 0x98, addr := 2 ^ 54 - 1 }] }

/-- A hart in S mode without translation. -/
def wHartBareS : Hart := { Hart.bare with priv := .s }

/-- The state after reset, past the boot sequence, in a device state. -/
def wDev (d : DevState) : State := { State.reset with ctl := { Ctl.reset with state := d, bootStep := 6 } }

/-- The same with an event block, a cadence unit and a control block changed. -/
def wCtl (d : DevState) (f : Ctl → Ctl) : State := { wDev d with ctl := f (wDev d).ctl }
def wCad (f : Cad → Cad) : State := { wDev .ready with cad := f Cad.reset }
def wBel (d : DevState) (f : Bellows → Bellows) : State := { wDev d with bel := f Bellows.reset }
def wPins (f : Pins → Pins) : State := { wDev .ready with pins := f Pins.reset }
def wFuse (f : Fuses → Fuses) : State := { wDev .ready with fuse := f Fuses.reset }
def wIng (f : Ingest → Ingest) : State := { wDev .ready with ing := f Ingest.reset }
def wSpine (d : DevState) (f : Spine → Spine) : State := { wDev d with spine := f Spine.reset }
def wLocked (d : DevState) : State := { wDev d with cad := { Cad.reset with state := .locked, active := .osc } }

/-- A state in which presence holds. -/
def wPresent (d : DevState) : State :=
  { wDev d with pins := { Pins.reset with presenceN := false, sealClosed := true, presLowSince := some 0, presence := true }, nowUs := 30000000 }

def wMaint : State := wPresent .maint

/-- A header with a new tag. -/
def wH : Hdr := { tag := 7, resv := 0 }
def wHbad : Hdr := { tag := 7, resv := 1 }

/-- A long command under tag 3. -/
def wLong (d : DevState) (op : Nat) (arg : List Nat) : State :=
  wCtl d fun c => { c with long := [{ opcode := op, tag := 3, arg := arg }] }

/-- Fabric, Chanter, engine, Proofer and KV unit 0 changed. -/
def wFab (d : DevState) (f : FabDie → FabDie) : State := { wDev d with fab := Tbl.set FabDie.reset .empty 0 (f FabDie.reset) }
def wFabs (d : DevState) (f : FabDie → FabDie) : State :=
  { wDev d with fab := ⟨[(0, f FabDie.reset), (1, f FabDie.reset), (2, f FabDie.reset), (3, f FabDie.reset)]⟩ }

def wRec : EvRec := { source := 1, code := 1, seq := 1, time := 0, lostBefore := false, fault := false, payload := List.replicate 16 0 }
def wEvt (f : EvtBlock → EvtBlock) : State := { wDev .ready with evt := f EvtBlock.reset }

def wBoot (cool : Bool) : BootInput := { primary := [], alternate := [], trained := [], cool := cool }

/-- A whole segment on channel 0: one fragment that is the first and the last of its message. -/
def wFrame (fcs : Bool) : Frame :=
  { port := 0, toUs := true, vlan := false, etherType := 0x88B5, fcsOk := fcs
    hdr := [0x00044010, 0, 9, 0, 0, 0], payload := [1, 2, 3, 4] }

/-- READY with a cadence unit that is LOCKED and a ledger ring at the foot of each Proofer's ledger part. -/
def wRun : State :=
  { wLocked .ready with shAct := ⟨(List.range 8).flatMap fun p =>
      [(prfReg p 0x12C, BitVec.ofNat 32 ((troughBase p + 36 * gib) / 64 % 2 ^ 32)),
       (prfReg p 0x130, BitVec.ofNat 32 ((troughBase p + 36 * gib) / 64 / 2 ^ 32 + 2 ^ 16))]⟩ }

/-- The same in HELD. -/
def wHeldFit : State := { wRun with ctl := { wRun.ctl with state := .held } }

/-- The first byte of the host part of Proofer 0's memory. -/
abbrev wHostAt : Nat := 34 * gib

/-- A record waits for the host ring, which stands at the host part. -/
def wHostEvt : State :=
  { wEvt (fun e => { e with ring := [wRec] }) with
    rw := ⟨[(regAddr Page.event 0x100, 3), (regAddr Page.event 0x10C, BitVec.ofNat 32 (wHostAt / 64))]⟩ }

/-- FAB_SWAP_DEFERRED masked on the page of CD0's fabric. -/
abbrev wMaskedPage : Nat := 0x0200
abbrev wMaskedCode : Nat := 0x0404
def wMasked : State := { wDev .ready with rw := ⟨[(regAddr wMaskedPage 0x18, 1)]⟩ }

/-- An Announce message of domain 0 from clock 5. -/
def wAnn : AnnounceMsg :=
  { domain := 0, priority1 := 1, clockClass := 6, accuracy := 0x21, variance := 0, priority2 := 1, gmIdentity := 9, stepsRemoved := 0, sender := 5, logInterval := 0 }

/-- Register words that hold values of their own. -/
def wRw (d : DevState) (c : List (Nat × Word)) : State := { wDev d with rw := ⟨c⟩ }
def wSh (d : DevState) (c : List (Nat × Word)) : State := { wDev d with shAct := ⟨c⟩ }

/-- A power domain with a state and a droop. -/
def wDom (n st : Nat) (droop : Bool) : State := { wDev .ready with dom := ⟨[(n, { state := st, setMv := 750, droop := droop })]⟩ }

theorem crust_only {a d o : Nat} {r : Region} (h : regionOf a = .crust d o) (hr : Region.crust d o ≠ r) : regionOf a ≠ r := by rw [h]; exact hr

def wSpec : RegSpec := ⟨0, 0, 0, 0, 0⟩
/-- Every power domain is on. -/
def wOn : State := { wDev .ready with dom := ⟨(List.range 72).map fun n => (n, { state := 2, setMv := 750, droop := false })⟩ }

/-- Engine 0, or engine `k`, of CD0 changed. -/
def wEngK (k : Nat) (x : Engine) : State := { wOn with eng := ⟨[(k, x)]⟩ }
def wEng (x : Engine) : State := wEngK 0 x

/-- The descriptors of a stationary tile and an output in the crust and of a streamed operand in the engine's own buffer, one element
each, format code 2, no header, no block axis (R112). -/
def wTd (hi : Nat) : List Nat := [0, hi + 2 * 2 ^ 26, 1, 1, 0, 0, 0, 0]
def wTds : List (List Nat) := [wTd 8, wTd 0xC, wTd 8, [], [], [], [], []]
def wTdFile : Tbl (List Nat) := ⟨[(0, wTd 8), (1, wTd 0xC), (2, wTd 8)]⟩

/-- An MPD of shape T0 on array A with every extent 1 (R116): its first word, and its extent sources. -/
def wMpd (w0 src : Nat) : List Nat :=
  [w0, 8 + 2 * 64, 256, src, 1 + 4096, 1, 1, 1] ++ List.replicate 24 0
abbrev wFixed : Nat := 2 ^ 25 - 1
/-- OPC 1 with ACC_BEGIN, and with ACC_END. -/
abbrev wBeg : Nat := 1 + 2 ^ 18
abbrev wBegEnd : Nat := 1 + 2 ^ 18 + 2 ^ 19

def wJobMpd (w0 : Nat) (live : List Nat) : Mpd :=
  { words := wMpd w0 wFixed, seq := 0, tds := wTds, raw := live, live := live, rowMask := [], blkMask := [] }
def wJobOf (m : Mpd) (l : LaneProg) : Job := { mpd := m, lanes := [l], header := [], begun := false, units := 0, nonfin := [] }
def wLane (f : LaneProg → LaneProg) : LaneProg := f (LaneProg.begin 0 0)
def wJob (w0 : Nat) (f : LaneProg → LaneProg) : Job := wJobOf (wJobMpd w0 [1, 1, 1, 1, 1]) (wLane f)
def wQueue (js : List Job) : Engine := { Engine.reset with queue := js, tds := wTdFile }
def wTile : STile := { key := [0, 0, 0, 0], addr := 0, bits := 8, elems := [], inv := 0, bad := 0 }
def wRing : RingTile := { seq := 0, lane := 0, slots := [(0, 0)], tile := wTile }
/-- An MPD word that names multicast list 0. -/
abbrev wReuse : Nat := 2 ^ 15
def wMcUnit (tiles : List (Nat × STile)) (addr : Nat) : McUnit := { seq := 0, addr := addr, shape := 0, slot := 0, tiles := tiles }
def wAcc : AccTile :=
  { b := 0, h := 0, n := 0, m := 0, rows := [[0, 0]], pairs := [], spilt := false, fresh := true, passes := 0, set := 0, slots := 0
    wide := 0, rung := 0, pass := 0 }
def wDrain (begun : Bool) : DrainTile :=
  { mpd := wJobMpd wBegEnd [1, 1, 1, 1, 1], lane := 0, tile := wAcc, bab := 0x3F800000, begun := begun, next := 0, flagged := false }
def wStarted (f : LaneProg → LaneProg) : State := wEng (wQueue [wJob wBeg fun l => f { l with started := true }])

/-- An image of set 0 of CD0 from words at byte offsets, in rising order. -/
def wImg (ws : List (Nat × Nat)) : Tbl Byte :=
  ⟨(ws.flatMap fun p => (List.range 4).map fun i => (p.1 + i, BitVec.ofNat 8 (p.2 / 256 ^ i))).filter fun c => c.2 ≠ 0⟩
/-- One section of such an image: number `k`, at byte 1,024. -/
def wSec (k len : Nat) (ws : List (Nat × Nat)) : Tbl Byte := wImg ([(64 + 8 * k, 1024), (68 + 8 * k, len)] ++ ws.map fun p => (1024 + p.1, p.2))

/-- CD0 RUNNING with the record of reed 0 given by words of it. -/
def wReed (ws : List (Nat × Nat)) (f : FabDie → FabDie) : State := { wFab .running f with img := wSec 1 256 ws }
/-- CD0 RUNNING with the record of stream port 0 given by words of it. -/
def wPort (ws : List (Nat × Nat)) (f : FabDie → FabDie) : State := { wFab .running f with img := wSec 3 64 ws }
/-- Multicast list 0: member and leader engine 0, two entries, VALID. -/
def wMcast : Tbl Byte := wSec secMcast 16 [(0, 1), (4, 2 ^ 31 + 2 ^ 27)]
def wEnt (b : Nat) : Entry := { bits := b, plane := false, last := false }
def wQs (qs : List (Nat × List Entry)) (f : FabDie) : FabDie := { f with queues := ⟨qs.map fun q => (q.1, { items := q.2, taken := [] })⟩ }

/-- CD0 in a step, with a step program given by words and the operation that a phase program stands at, at byte 64 of it. -/
def wProg (op : List Nat) (f : ChDie → ChDie) : State :=
  { wFab .running (fun x => { x with placed := true }) with
    img := wSec 8 4096 ([(12, 1 + 4096 + 65536 + 2 ^ 22), (16, 2 ^ 24), (28, 256), (32, 64), (36, 64), (40, 64)] ++ op.zipIdx.map fun p => (64 + 4 * p.2, p.1))
    ch := ⟨[(0, f { ChDie.reset with inStep := true, started := true })]⟩ }
def wUnit : Machine.PUnit := { info := unitRecord 3 0 1 0 0 0 [16], fwd := false, bwd := false, finB := 0, binB := 0 }
def wAt (u : Nat) : PhaseRun := phaseAt u 64
/-- CD0 with its step-start, or its forward or backward program at that operation. -/
def wStartAt (op : List Nat) : State := wProg op fun c => { c with started := false, start := some (wAt noUnit) }
def wFwdAt (op : List Nat) (f : ChDie → ChDie) : State := wProg op fun c => f { c with fwd := some (wAt 0), units := ⟨[(0, wUnit)]⟩ }
def wBwdAt (op : List Nat) (f : ChDie → ChDie) : State := wProg op fun c => f { c with bwd := some (wAt 0), units := ⟨[(0, { wUnit with fwd := true })]⟩ }
/-- The same on stage `n` of two. -/
def wStages (s : State) (n : Nat) : State :=
  { s with
    img := s.img.set 0 (1024 + 14) 66
    ch := ⟨s.ch.cells.map fun c => (c.1, { c.2 with stageOff := n })⟩ }
def wHold : Hold := { mb := 3, cause := 9, back := false, since := 0, past := none }
/-- A notice that has reached its receiver. -/
def wNote (k : NoticeKind) : Notice := { kind := k, dest_ := 0, sender := 0, a := 0, b := 0, behind := 0 }
def wNoted (k : NoticeKind) : State := { wProg [] id with spine := { Spine.reset with notices := [wNote k] } }

/-- Words of the shadowed registers in force. -/
def wShm (ws : List (Nat × Word)) : Tbl Word := ws.foldl (fun t c => t.set 0 c.1 c.2) .empty

/-- Entry 0 of the tensor table of Proofers 0 and 1: tensor 5, class ROWS, VALID, two rows of 32 elements, in the first bytes of
the Trough of Proofer 0. -/
def wTensor : List (Nat × Word) :=
  [0, 1].flatMap fun p => [(winTable p 0 0, 5 + 2 * 2 ^ 20), (winTable p 0 1, 2 ^ 24), (winTable p 0 2, 2), (winTable p 0 3, 32)]
def wPrf (f : Proofer → Proofer) : State :=
  { wDev .running with shAct := wShm wTensor, prf := ⟨[(0, f { Proofer.reset with hdrs := ⟨[(0, (3, 1))]⟩ })]⟩ }
def wArrBase : Nat := 0x200000000000
def wArrive (a : Arrival) (f : Proofer → Proofer) : State := { wPrf f with spine := { Spine.reset with arrivals := [a] } }
def wWrite (addr : Nat) (bs : List Byte) (hdr : Bool) : Arrival := { prf := 0, port := 0, addr := addr, bytes := bs, hdr := hdr }
def wRow (hdr : Bool) : Arrival := wWrite wArrBase (List.replicate 64 0) hdr
def wContr (parts : Tbl Nat) : Contribution := { entry := 0, chunk := 0, mb := 3, step := 1, src := 0, parts := parts }
def wGrad : Grad := { entry := 0, chunk := 0, g := [], bad := false, absent := false }
def wDelivery : Delivery := { prf := 0, entry := 0, chunk := 0, g := [], absent := false, poison := false }
/-- A delivery of more bytes than the park holds. -/
def wBigDelivery : Delivery := { wDelivery with g := List.replicate 1048577 0 }
theorem wBig_len : wBigDelivery.g.length = 1048577 := List.length_replicate
/-- A table whose keys are all below a key reads as its default there; so a state whose shadowed words are all registers has no tensor
table entry and no chunk. -/
theorem lookup_above {α : Type} (d : α) (k : Nat) : ∀ l : List (Nat × α), (∀ c ∈ l, c.1 < k) → Tbl.lookup d k l = d
  | [], _ => rfl
  | c :: l, h => by
    have h0 : c.1 < k := h c (by simp)
    rw [show Tbl.lookup d k (c :: l) = Tbl.lookup d k l by simp [Tbl.lookup, h0]]
    exact lookup_above d k l fun x hx => h x (by simp [hx])

theorem entries_none {s : State} (h : ∀ c ∈ s.shAct.cells, c.1 < 2 ^ 40) (p : Nat) (hp : p < 8) : s.entries p = [] := by
  refine List.filter_eq_nil_iff.mpr fun i hi => ?_
  have hi' : i < 1024 := List.mem_range.mp hi
  have hw : s.shAt (winTable p i 1) = 0 := by
    have hg : s.shAct.get (regReset (winTable p i 1)) (winTable p i 1) = regReset (winTable p i 1) :=
      lookup_above _ _ _ fun c hc => Nat.lt_of_lt_of_le (h c hc) (by unfold winTable; omega)
    rw [State.shAt, hg, regReset, if_pos (by unfold winTable; omega), winReset]
    exact if_neg (by unfold winTable; omega)
  simp [ttValid, wbits, State.tt, List.range_succ, hw, bitsOf]

theorem chunks_none {s : State} (h : ∀ c ∈ s.shAct.cells, c.1 < 2 ^ 40) : s.chunkList = [] := by
  have he : ∀ p, p < 8 → s.entries p = [] := entries_none h
  simp [State.chunkList, State.dieTensors, dies, he]

/-- Every Proofer has sealed commit set. -/
def wSealed (d : DevState) : State := { wDev d with shAct := wShm ((List.range 8).map fun p => (prfReg p 0x104, 1)) }
def wExp (begun : Bool) (conduit : Option Nat) : Export :=
  { lo := 0, hi := 9, base := none, late := false, begun := begun, next := 0, conduit := conduit }
def wSpineAt (s : State) (f : Spine → Spine) : State := { s with spine := f Spine.reset }
def wGroup : State := { wDev .running with shAct := wShm [(prfReg 0 0x108, 2)] }
def wSealMsg : SealMsg := { member := 1, summary := 0, commit := true, shards := [], reports := [] }
def wExporting (begun : Bool) (s : State) : State := { wSpineAt s (fun x => { x with exporting := some (wExp begun none) }) with
  ctl := { s.ctl with ckOutLimit := 100000 } }
/-- An export over conduit 0. -/
def wExportTo (s : State) : State := wSpineAt s fun x => { x with exporting := some (wExp true (some 0)) }
def wImp (s : State) : State := wSpineAt s fun x => { x with importing := true }

/-- Sub-port 0 in a state. -/
def wSub (st : LinkState) (f : SubPort → SubPort) : State :=
  { wDev .running with subs := ⟨[(0, f { SubPort.reset with state := st, active := 0xFFFF, lanes := 0xFFFF })]⟩, nowUs := 1000 }
/-- A flit's header with the CRC of the whole flit, or with its lowest bit turned. -/
def wHdrOf (typ : Nat) (som : Bool) (seq : Nat) (ack : BitVec 11) (ok : Bool) (payload : List Byte) : FlitHdr :=
  let c := BitVec.ofNat 32 (crc32c (flitBody (flitHead typ 0 som som seq ack.toNat 0 0) payload))
  { ack := ack, crdVc := 0, crd := 0, crc := if ok then c else c ^^^ 1, words := [] }
def wHdr (typ : Nat) (ack : BitVec 11) : FlitHdr := wHdrOf typ false 0 ack true []
def wFlit (seq : BitVec 11) (ok : Bool) : Flit :=
  { hdr := wHdrOf 1 true seq.toNat 2047 ok (List.replicate 247 0), vc := 0, som := true, eom := true, seq := seq, payload := List.replicate 247 0 }
def wTx : TxFlit := { seq := 4, vc := 0, som := true, eom := true, payload := [] }
def wMsg (kind id off : Nat) (data : List Byte) : List Byte := leBytes 4 (kind + 16 * id) ++ leBytes 4 off ++ List.replicate 8 0 ++ data
def wRxF (vc : Nat) (m : List Byte) (f : SubPort → SubPort) (sh : List (Nat × Word)) : State :=
  { wSub .up (fun x => f { x with rx := [(vc, m)] }) with shAct := wShm sh }
def wRx (vc : Nat) (m : List Byte) : State := wRxF vc m id wTensor
def wTaken (sh : List (Nat × Word)) : State := { wSub .up id with shAct := wShm sh }
def wOp : ColOp := { num := 0, kind := .allReduce, group := 0, winX := 0, winY := 0, waiting := [], chunks := .empty, progress := 0 }
def wOps (s : State) : State := { s with col := { Coll.reset with ops := [wOp] } }
/-- Conduit 0: VALID, channel 3, port 0, one entry of 64 bytes. -/
def wCnd : List (Nat × Word) := [(winConduit 0 0, 7), (winConduit 0 3, 64)]

/-- A KV command at the front of the queue of CD0's KV unit, with a pool of four pages. -/
def wKvPages (n : Nat) (words : List Nat) (f : KvDie → KvDie) : State :=
  { wDev .running with shAct := wShm [(kvReg 0 4, BitVec.ofNat 32 (256 * n))], kv := ⟨[(0, f { KvDie.reset with cmds := [⟨0, words⟩] })]⟩ }
def wKv (words : List Nat) (f : KvDie → KvDie) : State := wKvPages 4 words f
def wKvSeq (n : Nat) : KvSeq := { isOpen := true, streams := 1, jmax := 1, len := n, base := 2 ^ 35 }
def wSeq (k n : Nat) (x : KvDie) : KvDie := { x with seqs := ⟨[(k, wKvSeq n)]⟩ }
theorem noEntry {s : State} {d : Nat} {q : KvSeq} {l : List (Nat × Nat)} (h : ∀ p ∈ l, s.kvEntry q p.1 p.2 = none) :
    ∀ p ∈ l, ∀ g, s.kvEntry q p.1 p.2 = some g → g < s.kvPages d :=
  fun p hp g hg => by rw [h p hp] at hg; cases hg

/-- A span of two frames on a grid of one patch, in generation 1. -/
def wSpan (frames : Nat) : Span :=
  { source := 1, track := 0, startPts := 0, frames := frames, cropX := 0, cropY := 0, cropW := 1, cropH := 1, gridH := 1, gridW := 1, variant := 0
    fragId := 7, job := none }
def wEss : EssenceInfo :=
  { std := .h264, profileIx := 0, level10 := 40, chroma := .c420, depth := 8, interlaced := false, width := 16, height := 16 }
/-- A transport stream whose track 0 lies in four bytes of HOST memory. -/
def wTrack : FoundTrack := { track := 0, essence := wEss, pieces := [(2 * gib, 4)], ccErrors := 0 }
def wFound : DemuxResult := .found (.transport 188 false) [wTrack]
def wFoundOther : DemuxResult := .found .other [wTrack]
def wSpanJob (st : SpanState) (n : Nat) : SpanJob :=
  { span := wSpan n, state := st, essence := some wEss, engine := some 0, pics := [], slot := none }
def wGen (published : Bool) (jobs : List SpanJob) : Generation :=
  { num := 1, passes := 1, jobs := jobs, published := published, start := 0 }
/-- Parts of Proofer 0's memory: a reservoir of 1 GiB from byte 0 with an ES area of 1 MiB, slots of 2 KiB, REFPIC of 1 GiB. -/
def wParts : List (Nat × Word) := [(regAddr (Page.prf 0) 0x180, 0x10000), (regAddr (Page.prf 0) 0x184, 0x101), (hostReg 0x108, 2), (hostReg 0x118, 2)]
def wWork (published : Bool) (jobs : List SpanJob) : State :=
  { wDev .ready with ing := { Ingest.reset with gens := [wGen published jobs] }, shAct := wShm wParts, rw := ⟨[(decReg 0 8, 1)]⟩ }
def wPlane : Plane := { width := 2, height := 2, samples := [1, 2, 3, 4] }
def wDec : DecodedPicture :=
  { kind := .progressive, luma := wPlane, cb := wPlane, cr := wPlane, shown := true, areas := [], marked := false, missingRef := false
    headerError := false, nearest := none, buf := 0, filmGrain := false }
/-- The 18 picture buffers of the essence above, at the foot of the REFPIC region. -/
def wBufs : List Nat := (List.range 18).map fun i => gib + 768 * i
def wContext (gen span : Nat) : DecContext := { gen := gen, span := span, size := 768, buffers := wBufs }
def wDec16 : DecodedPicture :=
  { wDec with buf := 1, luma := planeOf 16 16 fun y x => y + x, cb := planeOf 8 8 fun y _ => y, cr := planeOf 8 8 fun _ x => x }
def wPic (damaged : Bool) : RawPic :=
  { interlaced := false, bottom := false, luma := wPlane, cb := wPlane, cr := wPlane, shown := true, damaged := damaged }
def wDecoded (damaged : Bool) : SpanJob := { wSpanJob .decoding 1 with pics := [wPic damaged] }
/-- CD0 in a step whose ingest queue takes entries. -/
def wDraw (gens : List Generation) : State :=
  { wProg [] id with
    ing := { Ingest.reset with gens := gens }, shAct := wShm [(regAddr (Page.die 0) 0x194, 0x10400)], rw := ⟨[(hostReg 0x108, 1)]⟩ }

/-! Well-formedness refuses, for each of its checks, a term that its interface cannot carry. -/

def illFormed : List Instr :=
  [.readReg wH 0 (2 ^ 32),
   .loadFw wH (2 ^ 32) 0 [], .loadFw wH 0 (2 ^ 32) [], .loadImage wH 0 (2 ^ 32) [] false, .arrayRepair wH [2 ^ 32],
   .arrayRepairDone [⟨0, [1, 1], []⟩], .arrayRepairDone [⟨0, [], [2, 2]⟩], .arrayRepairDone [⟨0, [], []⟩, ⟨0, [], []⟩],
   .portRetrain wH [2 ^ 32], .reset wH { wBoot true with trained := [(0, .failed), (0, .tooFar)] },
   .recoverVerifyDone [(5, .failed), (5, .failed)], .segment { wFrame true with hdr := [0] },
   .ingest (2 ^ 64) [] 0 0, .ingest 0 [] (2 ^ 46) 0, .ingest 0 [] 0 (2 ^ 64), .eventChannelSend 0,
   .resetNDeassert { wBoot true with trained := [(0, .failed), (0, .failed)] },
   .brownoutRecovery { wBoot true with trained := [(0, .failed), (0, .failed)] }, .tempWarn (.junction 0) 256, .tempLimit 0 256,
   .hltThermtrip (.junction 0) 256, .memRefreshBand (.crust 0) 256, .tick [] [(0, 0, 256)], .sync 256 0 0 false 0,
   .sync 0 (2 ^ 64) 0 false 0, .sync 0 0 65536 false 0, .followUp 256 0 0 0 0, .followUp 0 (2 ^ 64) 0 0 0, .followUp 0 0 65536 0 0,
   .delayResp 256 0 0 0, .delayResp 0 (2 ^ 64) 0 0, .cadLost (some (2 ^ 48)), .relock .pulse (2 ^ 48) 0,
   .rotation [(0, []), (0, [])], .patrolScrub (.stack 0) [⟨2 ^ 46, 0, .clean⟩], .memoryAccess ⟨.streamPort 0 0, .bare⟩ (2 ^ 46) (.read 1) .clean 0 0,
   .memoryAccess ⟨.streamPort 0 0, .bare⟩ 0 (.read 0) .clean 0 0, .memoryAccess ⟨.streamPort 0 0, .bare⟩ 0 (.write []) .clean 0 0,
   .memoryAccess ⟨.hostCore 0 0, .bare⟩ (2 ^ 64) (.read 1) .clean 0 0,
   .memoryAccess ⟨.hostCore 0 0, { Hart.bare with pmp := [⟨256, 0⟩] }⟩ 0 (.read 1) .clean 0 0,
   .memoryAccess ⟨.hostCore 0 0, { Hart.bare with pmp := [⟨0, 2 ^ 54⟩] }⟩ 0 (.read 1) .clean 0 0, .streamContextOpen 0 1 0 [2 ^ 46],
   .ingCipViolation 0 (2 ^ 46) (.read 1), .dataFlit 0 { wFlit 0 true with payload := [] }, .bulkReadRequest 0 0 0, .manifest 1 0 [],
   .manifest 1 17 [], .manifest 1 1 [{ wSpan 2 with gridH := 0 }],
   .pictureDecode 0 1 0 { wDec with luma := { wPlane with samples := [1] } },
   .spanSubmit 0 { wSpan 2 with cropW := 0 } .broken, .bellowsLoop [(0, 0, 0), (0, 1, 1)], .ringOscSample [(0, 0, 1), (0, 0, 2)]]

theorem test_ill_formed_terms_are_refused : (illFormed.all fun c => !c.wf) = true := by decide +kernel

theorem test_long_payloads_are_refused (h : Hdr) (bs : List Byte) (n : 573440 < bs.length) :
    Instr.wf (.attest h bs) = false ∧ Instr.wf (.recoverLoad h 0 bs 0) = false ∧ Instr.wf (.keysetRotate h bs [] []) = false ∧
      Instr.wf (.segment { wFrame true with payload := bs }) = false ∧ Instr.wf (.ingest 0 bs 0 0) = false := by
  simp [Instr.wf, bytesOk, Frame.wf, maxMessage]; omega

theorem test_long_register_writes_are_refused (h : Hdr) (vs : List Word) (n : 143358 < vs.length) : Instr.wf (.writeReg h 0 vs) = false := by
  simp [Instr.wf, maxMessage]; omega

theorem test_well_formed_terms_pass :
    ([.run wH, .segment (wFrame true), .dataFlit 0 (wFlit 0 true), .manifest 1 16 [wSpan 2], .tempWarn (.junction 71) 255,
      .memoryAccess ⟨.streamPort 3 127, .bare⟩ (2 ^ 46 - 1) (.read 64) .clean 0 0, .streamContextOpen 0 1 0 [2 ^ 46 - 1]] : List Instr).all Instr.wf = true := by decide +kernel

/-! Numbers: the worked examples of chapter 2 (R30, R41, R44). -/

/-- H = 0.046875 at FP4 E2M1 and margin 1 gives E_T = 64 and B_T = 2^-6. -/
theorem test_scale_of_a_history_maximum : sealScale .e2m1 .e2m1 1 0x3D400000 = some (0x42800000, 0x3C800000) := by decide +kernel
/-- G4 with H = 2^-9 runs with E_T = 2,048; promoted to FP6 E3M2 it has E_T = 1,792 and B_T = 0x3A124925. -/
theorem test_scale_before_promotion : (sealScale .g4 .g4 1 0x3B000000).map Prod.fst = some 0x45000000 := by decide +kernel
theorem test_scale_after_promotion : sealScale .g4 .e3m2 1 0x3B000000 = some (0x44E00000, 0x3A124925) := by decide +kernel
/-- The block with 0.0213, -0.0071 and 0.0009: scale 0xF4, codes 7, 12 and 0, one underflow. -/
theorem test_block_scaled_codes :
    let q := encodeNq32 .e2m1 false 0x42800000 (fun _ => .nearest) [0x3CAE7D56, 0xBBE8A71E, 0x3A6BEDFA]
    q.1 = 0xF4 ∧ q.2.1 = [7, 12, 0] ∧ q.2.2.unf = 1 ∧ q.2.2.sat = 0 := by decide +kernel
theorem test_elements_pack_low_first : packElements 4 [7, 12] = [0xC7] := by decide +kernel
/-- The pair of chapter 4: 2^24, 0.75, -2^24, 0.125 and zeros drain as 0.875. -/
theorem test_pair_keeps_small_terms :
    ([0x4B800000, 0x3F400000, 0xCB800000, 0x3E000000, 0, 0, 0].foldl foldPair (0, 0)) = (0x3F600000, 0) := by decide +kernel
/-- The check value of CRC-64/ECMA-182 over one byte 0x80 is the generator's remainder, by hand. -/
theorem test_crc64_of_one_byte : crc64 [0x01] = 0x42F0E1EBA9EA3693 := by decide +kernel

/-! Pages and places: the worked examples of chapters 3, 5, 8, 11 and 15. -/

theorem test_page_of_engine : Page.eng 2 17 = 0x0159 ∧ regAddr (Page.eng 2 17) 0x108 = 0x01590108 := by decide +kernel
theorem test_kv_status_of_CD2 : kvReg 2 0x14 = 0x06100314 := by decide +kernel
theorem test_reed_index : reedCol 1354 = 21 ∧ reedRow 1354 = 10 := by decide +kernel
/-- The pair of arrays CD2.E04 in chapter 5: 512 rows of 128 FP32 values take 4 slots a copy, acc_need is 8. -/
def wMpdT2 : List Nat := [1 + 2 * 16 + 2 ^ 18 + 2 ^ 19, 8 + 2 * 64, 512 * 256, wFixed, 1 + 4096, 256, 4608, 6272, 1280] ++ List.replicate 23 0
def wTd4 (hi : Nat) : List Nat := [0, hi + 4 * 2 ^ 26, 1, 1, 0, 0, 0, 0]
theorem test_accumulator_slots :
    let p := (wDev .ready).planOf [wTd4 8, wTd4 0xC, wTd4 8] wMpdT2 0
    p.acc = 8 ∧ p.rows = 512 ∧ p.tiles = 1 := by decide +kernel
/-- 4,608 and 5,184 tokens of 1,536 bytes and 64 bytes of header. -/
theorem test_fragment_bytes :
    fragBytes { wSpan 16 with gridH := 18, gridW := 32 } false = 7077952 ∧ fragBytes { wSpan 18 with gridH := 18, gridW := 32 } false = 7962688 := by
  decide +kernel
/-- 5,184 tokens with segments of 4,608 make two units. -/
theorem test_segments_of_a_long_clip :
    (segments (unitRecord 37 0 1 0 0 0 [5184]) 5184 4608 2 256).map (fun u => (urSeg u, urSegCount u, urSegOrg u, urOrdinal u, urExtent u 0)) =
      [(0, 2, 0, 256, 4608), (1, 2, 4608, 257, 576)] := by decide +kernel
/-- The starve of reed C21.W10 in chapter 15: the payload that the log returns. -/
def wStarve : State :=
  { wFwdAt [15, 0, 0] (fun c => { c with
      fwd := some { wAt 0 with armed := 1 },
      units := ⟨[(0, { wUnit with info := unitRecord 183 0 1 0 0 0 [16] })]⟩ }) with
    fab := ⟨[(0, wQs [(qKey 1354 0, [wEnt 7])] { FabDie.reset with placed := true })]⟩
    img := wImg [(72, 1024), (76, 1572864), (1024 + 256 * 1354, 1 + 3 * 2 ^ 22), (1024 + 256 * 1354 + 12, 4 + 8)]
    rw := ⟨[(regAddr (Page.fab 0) 0x104, 1), (regAddr (Page.fab 0) 0x110, 65536), (regAddr (Page.fab 0) 0x114, 1)]⟩ }
theorem test_starve_log :
    (match exec (.fabStarve 0 1354) wStarve with | .next t => (t.fabD 0).log | _ => []) =
      [[0x4A, 0x05, 0x00, 0x0C, 0x01, 0, 0, 0, 0x01, 0, 0, 0, 0, 0, 0xB7, 0]] := by decide +kernel

/-! One step of one command, on small states. -/

/-- What a command's next state shows; `d` stands for an outcome that is no next state. -/
def after {α : Type} (c : Instr) (s : State) (d : α) (f : State → α) : α := match exec c s with | .next t => f t | _ => d

theorem test_reset_queue_is_empty : State.reset.pending = [] := by decide +kernel
theorem test_idle_step : (match step State.reset with | .next t => decide (t = State.reset) | _ => false) = true := by decide +kernel
theorem test_step_takes_the_front :
    (match step { wDev .ready with pending := [.presenceNChange false, .secTamper] } with
     | .next t => decide (t.pending = [.secTamper] ∧ t.pins.presenceN = false) | _ => false) = true := by decide +kernel
theorem test_run_enters_running : after (.run wH) wRun none (fun t => some t.ctl.state) = some .running := by decide +kernel
theorem test_run_answers_ok : after (.run wH) wRun none (fun t => t.ctl.stored.head?.map fun r => (r.tag, r.opcode, r.status)) = some (7, 0x20, 0) := by
  decide +kernel
theorem test_hold_in_ready_is_refused :
    after (.hold wH) (wDev .ready) none (fun t => t.ctl.stored.head?.map fun r => (r.opcode, decide (r.status ≠ 0))) = some (0x21, true) := by
  decide +kernel
theorem test_tag_zero_sends_nothing_new : after (.hold { wH with tag := 0 }) (wDev .ready) true (fun t => t.ctl.stored.isEmpty) = true := by decide +kernel
theorem test_register_write_reads_back :
    after (.registerWrite 0x02000110 1234) wOn 0 (fun t => (t.rwAt 0x02000110).toNat) = 1234 := by decide +kernel
theorem test_register_write_keeps_memory : after (.registerWrite 0x02000110 1234) wOn false (fun t => decide (t.mem = wOn.mem)) = true := by decide +kernel
theorem test_store_then_load :
    after (.memoryAccess ⟨.streamPort 0 3, .bare⟩ (crustBase 0 + 64) (.write [1, 2, 0, 4]) .clean 0 0) (wDev .ready) []
      (fun t => t.bytesAt (crustBase 0 + 63) 6) = [0, 1, 2, 0, 4, 0] := by decide +kernel
theorem test_unpopulated_crust_is_unmapped : regionOf (crustBase 0 + 12 * gib) = .unmapped ∧ regionOf (crustBase 0 + 12 * gib - 1) = .crust 0 (12 * gib - 1) := by
  decide +kernel
theorem test_bad_flit_owes_a_nak : after (.dataFlit 0 (wFlit 0 false)) (wSub .up id) false (fun t => (t.subP 0).nak) = true := by decide +kernel
theorem test_kv_open_then_len_is_zero :
    after (.kvOpen 0) (wKv [1 + 16 * 9, 2 ^ 20, 1 + 2 ^ 29, 0] id) none (fun t => some ((t.kvD 0).seq 9).isOpen) = some true := by decide +kernel
theorem test_shed_waits_for_the_pll : after .supplyAlert (wBel .running id) false (fun t => decide (t.ctl.state = .running)) = true := by decide +kernel
theorem test_manifest_keeps_order :
    after (.manifest 3 1 []) { wDev .ready with ing := { Ingest.reset with lastGen := some 1 } } true (fun t => t.ing.gens.isEmpty) = true := by decide +kernel
theorem test_no_table_word_spells_a_command : decodeTableWord 16 0x1234 = none := by decide +kernel

/-! The hypotheses of every statement can be met. Each theorem names the statement and the place of its clause. -/

theorem wit_StepRunsTheFront_2 : ∃ s : State,
    s.pending = [] :=
  ⟨wDev .ready, rfl⟩

theorem wit_MemoryStaysCanonical_1 : ∃ s : State, ∃ t : State,
    s.memOk ∧ step s = .next t :=
  ⟨{ wDev .ready with pending := [.supplyAlertRelease] }, { wDev .ready with pins := { Pins.reset with alertN := true } }, by decide +kernel, rfl⟩

theorem wit_TablesStayOrdered_1 : ∃ s : State, ∃ t : State,
    s.tablesOk ∧ step s = .next t :=
  ⟨{ wDev .ready with pending := [.supplyAlertRelease] }, { wDev .ready with pins := { Pins.reset with alertN := true } }, by decide +kernel, rfl⟩

theorem wit_StoresStayBounded_1 : ∃ s : State, ∃ t : State,
    s.boundsOk ∧ step s = .next t :=
  ⟨{ wDev .ready with pending := [.supplyAlertRelease] }, { wDev .ready with pins := { Pins.reset with alertN := true } }, by decide +kernel, rfl⟩

theorem wit_FloorAndClearsNeverFall_1 : ∃ s : State, ∃ t : State,
    step s = .next t :=
  ⟨{ wDev .ready with pending := [.supplyAlertRelease] }, { wDev .ready with pins := { Pins.reset with alertN := true } }, rfl⟩

theorem wit_TamperClearsOnlyByCommand_1 : ∃ c : Instr, ∃ rest : List Instr, ∃ s : State, ∃ t : State,
    (∀ h, c ≠ .tamperClear h) ∧ s.pending = c :: rest ∧ s.fuse.tamper = true ∧ step s = .next t :=
  ⟨.supplyAlertRelease, [], { wFuse (fun f => { f with tamper := true }) with pending := [.supplyAlertRelease] }, { wFuse (fun f => { f with tamper := true }) with pins := { Pins.reset with alertN := true } }, (fun _ h => nomatch h), rfl, rfl, rfl⟩

theorem wit_RepeatedTagIsNotExecuted_1 : ∃ c : Instr, ∃ h : Hdr, ∃ op : Nat, ∃ s : State, ∃ r : Resp,
    Instr.cmd c = some (h, op) ∧ s.takesCommands = true ∧ h.tag ≠ 0 ∧ s.ctl.stored.find? (fun x => x.tag = h.tag.toNat) = some r :=
  ⟨.hold wH, wH, 0x0021, wCtl .running fun c => { c with stored := [{ tag := 7, opcode := 0x0021, status := 0, cause := 0, data := [] }] }, { tag := 7, opcode := 0x0021, status := 0, cause := 0, data := [] }, by decide +kernel⟩

theorem wit_IllegalStateIsRefused_1 : ∃ c : Instr, ∃ h : Hdr, ∃ op : Nat, ∃ s : State,
    Instr.cmd c = some (h, op) ∧ s.takesCommands = true ∧ h.tag ≠ 0 ∧ h.resv = 0 ∧ s.ctl.stored.find? (fun x => x.tag = h.tag.toNat) = none ∧ knownOpcode op = true ∧ legalIn op s.ctl.state = .no ∧ s.tablesOk :=
  ⟨.run wH, wH, 0x0020, wDev .running, by decide +kernel⟩

theorem wit_PresenceIsDemanded_1 : ∃ c : Instr, ∃ h : Hdr, ∃ op : Nat, ∃ s : State,
    Instr.cmd c = some (h, op) ∧ s.takesCommands = true ∧ h.tag ≠ 0 ∧ h.resv = 0 ∧ s.ctl.stored.find? (fun x => x.tag = h.tag.toNat) = none ∧ legalIn op s.ctl.state = .presence ∧ s.presenceCause op ≠ 0 :=
  ⟨.cipEnable wH, wH, 0x0060, wDev .ready, by decide +kernel⟩

theorem wit_BusyLongCommand_1 : ∃ c : Instr, ∃ h : Hdr, ∃ op : Nat, ∃ s : State,
    Instr.cmd c = some (h, op) ∧ s.takesCommands = true ∧ h.tag ≠ 0 ∧ h.resv = 0 ∧ s.ctl.stored.find? (fun x => x.tag = h.tag.toNat) = none ∧ s.cad.state = .locked ∧ s.busy op false = true ∧ s.isSealed = false ∧ (op = 0x0020 → s.runTrial.isSealed = false) ∧ (legalIn op s.ctl.state = .yes ∨ (legalIn op s.ctl.state = .presence ∧ s.presenceCause op = 0)) :=
  ⟨.run wH, wH, 0x0020, { wLong .ready 0x0030 [] with cad := { Cad.reset with state := .locked } }, by decide +kernel⟩

theorem wit_ReservedOpcode_1 : ∃ h : Hdr, ∃ op : BitVec 16, ∃ s : State,
    knownOpcode op.toNat = false ∧ s.takesCommands = true ∧ h.tag ≠ 0 ∧ s.ctl.stored.find? (fun x => x.tag = h.tag.toNat) = none :=
  ⟨wH, 0x0004, wDev .ready, by decide +kernel⟩

theorem wit_ReservedOpcode_2 : ∃ c : Instr, ∃ h : Hdr, ∃ op : Nat, ∃ s : State,
    Instr.cmd c = some (h, op) ∧ s.takesCommands = true ∧ h.tag ≠ 0 ∧ h.resv ≠ 0 ∧ s.ctl.stored.find? (fun x => x.tag = h.tag.toNat) = none :=
  ⟨.hold wHbad, wHbad, 0x0021, wDev .running, by decide +kernel⟩

theorem wit_DeviceStateCommands_1 : ∃ h : Hdr, ∃ s : State,
    s.accepts h 0x0021 = true :=
  ⟨wH, wDev .running, by decide +kernel⟩

theorem wit_DeviceStateCommands_2 : ∃ h : Hdr, ∃ s : State,
    s.accepts h 0x0023 = true :=
  ⟨wH, wDev .held, by decide +kernel⟩

theorem wit_DeviceStateCommands_3 : ∃ h : Hdr, ∃ s : State,
    s.accepts h 0x0020 = true ∧ s.cad.state = .locked ∧ (s.begun h).runChecks = true :=
  ⟨wH, wRun, by decide +kernel⟩

theorem wit_DeviceStateCommands_4 : ∃ h : Hdr, ∃ s : State,
    s.tablesOk ∧ s.accepts h 0x0022 = true ∧ s.cad.state = .locked ∧ (s.begun h).runFit = true :=
  ⟨wH, wHeldFit, by decide +kernel⟩

theorem wit_DeviceStateCommands_5 : ∃ h : Hdr, ∃ s : State,
    s.accepts h 0x0022 = true ∧ s.cad.state = .locked ∧ (s.begun h).runFit = false :=
  ⟨wH, { wLocked .held with shAct := ⟨[(prfReg 0 0x12C, 1)]⟩ }, by decide +kernel⟩

theorem wit_DeviceStateCommands_6 : ∃ h : Hdr, ∃ s : State,
    s.accepts h 0x0070 = true :=
  ⟨wH, wPresent .staged, by decide +kernel⟩

theorem wit_DeviceStateCommands_7 : ∃ h : Hdr, ∃ s : State,
    s.accepts h 0x0071 = true :=
  ⟨wH, wDev .maint, by decide +kernel⟩

theorem wit_DeviceStateCommands_8 : ∃ h : Hdr, ∃ s : State,
    s.accepts h 0x0015 = true ∧ dies.all (fun d => (s.fabD d).placed) = true ∧ proofers.all (fun p => !((s.begun h).entryPrf.tableBad p ((s.begun h).entryPrf.ownerMode p) ((s.begun h).entryPrf.sealedCommit p))) = true :=
  ⟨wH, wFabs .staged fun f => { f with placed := true }, by decide +kernel⟩

theorem wit_RunNeedsTheCadence_1 : ∃ h : Hdr, ∃ s : State,
    s.accepts h 0x0020 = true ∧ s.cad.state ≠ .locked :=
  ⟨wH, wDev .ready, by decide +kernel⟩

theorem wit_RunNeedsTheCadence_2 : ∃ h : Hdr, ∃ s : State,
    s.accepts h 0x0022 = true ∧ s.cad.state ≠ .locked :=
  ⟨wH, wDev .held, by decide +kernel⟩

theorem wit_SecurityCommands_1 : ∃ h : Hdr, ∃ s : State,
    s.accepts h 0x0072 = true :=
  ⟨wH, wMaint, by decide +kernel⟩

theorem wit_SecurityCommands_2 : ∃ h : Hdr, ∃ s : State, ∃ digest : List Byte, ∃ sr : List Byte, ∃ ss : List Byte,
    s.accepts h 0x0073 = true ∧ digest.length = 48 ∧ s.fuse.keySlots.length < 4 :=
  ⟨wH, wMaint, List.replicate 48 1, [], [], by decide +kernel⟩

theorem wit_SecurityCommands_3 : ∃ h : Hdr, ∃ s : State,
    s.accepts h 0x0075 = true :=
  ⟨wH, { wMaint with fuse := { Fuses.reset with tamper := true } }, by decide +kernel⟩

theorem wit_SecurityCommands_4 : ∃ h : Hdr, ∃ s : State, ∃ f : Word,
    s.accepts h 0x0076 = true ∧ s.fuse.floor < f.toNat ∧ f.toNat ≤ 64 ∧ s.ctl.running.all (fun c => decide (f.toNat ≤ c.svn)) = true :=
  ⟨wH, wDev .ready, 64, by decide +kernel⟩

theorem wit_SecurityCommands_5 : ∃ h : Hdr, ∃ s : State, ∃ f : Word,
    s.accepts h 0x0076 = true ∧ (f.toNat ≤ s.fuse.floor ∨ 64 < f.toNat ∨ s.ctl.running.any (fun c => decide (c.svn < f.toNat)) = true) :=
  ⟨wH, wDev .ready, 65, by decide +kernel⟩

theorem wit_Zeroisation_1 : ∃ h : Hdr, ∃ s : State, ∃ a : Word,
    s.accepts h 0x0074 = true ∧ a.toNat ≤ 1 :=
  ⟨wH, wMaint, 1, by decide +kernel⟩

theorem wit_Zeroisation_2 : ∃ s : State, ∃ l : LongCmd,
    s.memOk ∧ s.ctl.long.find? (fun x => x.opcode = 0x0074) = some l :=
  ⟨{ wLong .maint 0x0074 [1] with mem := ⟨[(5, 1)]⟩ }, { opcode := 0x0074, tag := 3, arg := [1] }, by decide +kernel⟩

theorem wit_CustomerPartition_1 : ∃ h : Hdr, ∃ s : State,
    s.accepts h 0x0060 = true ∧ ((s.begun h).applyShadow (· = hostReg 0x104)).cipCores ≤ 12 ∧ ((s.begun h).applyShadow (· = hostReg 0x104)).cipBytes ≤ ((s.begun h).applyShadow (· = hostReg 0x104)).hostTotal 0 ∧ ((s.begun h).applyShadow (· = hostReg 0x104)).cipBytes ≤ ((s.begun h).applyShadow (· = hostReg 0x104)).hostTotal 1 :=
  ⟨wH, wPresent .ready, by decide +kernel⟩

theorem wit_CustomerPartition_2 : ∃ h : Hdr, ∃ s : State,
    s.accepts h 0x0061 = true ∧ s.memOk ∧ s.ing.cipEn = true :=
  ⟨wH, wIng fun i => { i with cipEn := true }, by decide +kernel⟩

theorem wit_RegisterCommands_1 : ∃ h : Hdr, ∃ s : State, ∃ a : Word, ∃ n : Nat,
    s.accepts h 0x0002 = true ∧ regRangeOk a.toNat n = true :=
  ⟨wH, wDev .ready, 0x00010000, 64, by decide +kernel⟩

theorem wit_RegisterCommands_2 : ∃ h : Hdr, ∃ s : State, ∃ a : Word, ∃ vals : List Word,
    s.accepts h 0x0003 = true ∧ regRangeOk a.toNat vals.length = true :=
  ⟨wH, wDev .ready, 0x00020100, [1, 2], by decide +kernel⟩

theorem wit_RegisterCommands_3 : ∃ h : Hdr, ∃ s : State, ∃ a : Word, ∃ vals : List Word,
    s.accepts h 0x0003 = true ∧ regRangeOk a.toNat vals.length = false :=
  ⟨wH, wDev .ready, 0x00010000, [], by decide +kernel⟩

theorem wit_RegisterCommands_4 : ∃ h : Hdr, ∃ s : State, ∃ a : Word, ∃ n : Nat,
    s.accepts h 0x0002 = true ∧ regRangeOk a.toNat n = false :=
  ⟨wH, wDev .ready, 0x00010000, 65, by decide +kernel⟩

theorem wit_AttestationReport_1 : ∃ h : Hdr, ∃ s : State, ∃ nonce : List Byte,
    s.accepts h 0x0001 = true ∧ nonce.length = 32 :=
  ⟨wH, wDev .ready, List.replicate 32 1, by decide +kernel⟩

theorem wit_AttestationReport_2 : ∃ h : Hdr, ∃ s : State, ∃ nonce : List Byte,
    s.accepts h 0x0001 = true ∧ nonce.length ≠ 32 :=
  ⟨wH, wDev .ready, [], by decide +kernel⟩

theorem wit_FirmwareLoad_1 : ∃ h : Hdr, ∃ s : State, ∃ comp : Nat, ∃ off : Nat, ∃ bytes : List Byte,
    s.accepts h 0x0010 = true ∧ 0 < comp ∧ comp ≤ 255 ∧ bytes.length ≤ 524288 ∧ off < 2 ^ 32 :=
  ⟨wH, wDev .boot, 255, 0, [1, 2], by decide +kernel⟩

theorem wit_FirmwareLoad_2 : ∃ h : Hdr, ∃ s : State,
    s.accepts h 0x0011 = true :=
  ⟨wH, wDev .boot, by decide +kernel⟩

theorem wit_FirmwareLoad_3 : ∃ s : State, ∃ l : LongCmd,
    s.ctl.long.find? (fun x => x.opcode = 0x0011) = some l ∧ s.ctl.loadBuf.cells.all (fun c => (fwAccept s.fuse.floor s.keySet c.1 c.2).isSome) = true :=
  ⟨wLong .boot 0x0011 [], { opcode := 0x0011, tag := 3, arg := [] }, by decide +kernel⟩

theorem wit_FirmwareLoad_4 : ∃ s : State, ∃ l : LongCmd,
    s.ctl.long.find? (fun x => x.opcode = 0x0011) = some l ∧ s.ctl.loadBuf.cells.any (fun c => (fwAccept s.fuse.floor s.keySet c.1 c.2).isNone) = true ∧ s.ctl.loadBuf.ordered :=
  ⟨wCtl .boot fun c => { c with long := [{ opcode := 0x0011, tag := 3, arg := [] }], loadBuf := ⟨[(1, [])]⟩ }, { opcode := 0x0011, tag := 3, arg := [] }, by decide +kernel⟩

theorem wit_BootAndOff_3 : ∃ s : State, ∃ b : BootInput,
    s.ctl.state = .off ∧ b.cool = false :=
  ⟨wDev .off, wBoot false, by decide +kernel⟩

theorem wit_BootAndOff_4 : ∃ s : State, ∃ b : BootInput,
    s.ctl.state = .off ∧ b.cool = true :=
  ⟨wDev .off, wBoot true, by decide +kernel⟩

theorem wit_BootAndOff_5 : ∃ h : Hdr, ∃ s : State, ∃ b : BootInput,
    s.accepts h 0x0080 = true ∧ b.cool = false :=
  ⟨wH, wDev .ready, wBoot false, by decide +kernel⟩

theorem wit_Recovery_1 : ∃ h : Hdr, ∃ s : State, ∃ off : Word, ∃ w3 : Word, ∃ bytes : List Byte,
    s.accepts h 0x0090 = true ∧ w3 = 0 ∧ bytes.length ≤ 524288 ∧ off.toNat + bytes.length ≤ 4194304 :=
  ⟨wH, wDev .safe, 4194302, 0, [1, 2], by decide +kernel⟩

theorem wit_Recovery_2 : ∃ h : Hdr, ∃ s : State, ∃ off : Word, ∃ w3 : Word, ∃ bytes : List Byte,
    s.accepts h 0x0090 = true ∧ w3 = 1 ∧ s.longRuns 0x0090 = false ∧ bytes.length ≤ 524288 ∧ off.toNat + bytes.length ≤ 4194304 :=
  ⟨wH, wDev .safe, 4194302, 1, [1, 2], by decide +kernel⟩

theorem wit_Recovery_3 : ∃ s : State, ∃ l : LongCmd, ∃ trained : List (PortCode × TrainResult),
    s.ctl.long.find? (fun x => x.opcode = 0x0090) = some l ∧ s.ctl.state = .safe :=
  ⟨wLong .safe 0x0090 [], { opcode := 0x0090, tag := 3, arg := [] }, [], by decide +kernel⟩

theorem wit_ImageAndSwapCommands_1 : ∃ h : Hdr, ∃ s : State, ∃ m : Word, ∃ off : Nat, ∃ bytes : List Byte, ∃ d : Die,
    s.accepts h 0x0012 = true ∧ dieMaskOk m = true ∧ bytes.length ≤ 524288 ∧ off + bytes.length ≤ 33554432 ∧ m.getLsbD d.val = true ∧ s.tablesOk ∧ (s.begun h).swapPending d.val = false :=
  ⟨wH, wDev .ready, 15, 33554430, [1, 2], 3, by decide +kernel⟩

theorem wit_ImageAndSwapCommands_2 : ∃ h : Hdr, ∃ s : State, ∃ m : Word,
    s.accepts h 0x0013 = true ∧ dieMaskOk m = true ∧ (dieMask m).all (fun d => (s.begun h).quiesced d && decide ((s.fabD d).shadow = 3)) = true :=
  ⟨wH, wFabs .ready fun f => { f with shadow := 3 }, 15, by decide +kernel⟩

theorem wit_ImageAndSwapCommands_3 : ∃ h : Hdr, ∃ s : State, ∃ m : Word, ∃ d : Die,
    s.accepts h 0x0014 = true ∧ dieMaskOk m = true ∧ m.getLsbD d.val = true ∧ (dieMask m).all (fun d => decide ((s.fabD d).shadow = 2) || decide ((s.fabD d).shadow = 3)) = true ∧ s.tablesOk :=
  ⟨wH, wFabs .running fun f => { f with shadow := 2 }, 15, 3, by decide +kernel⟩

theorem wit_ImageAndSwapCommands_4 : ∃ h : Hdr, ∃ s : State, ∃ m : Word,
    s.accepts h 0x0016 = true ∧ dieMaskOk m = true ∧ (dieMask m).all (fun d => (s.begun h).quiesced d && (s.fabD d).placed) = true :=
  ⟨wH, wFabs .ready fun f => { f with placed := true }, 15, by decide +kernel⟩

theorem wit_ImageAndSwapCommands_5 : ∃ h : Hdr, ∃ s : State, ∃ m : Word, ∃ d : Die,
    s.accepts h 0x0031 = true ∧ dieMaskOk m = true ∧ m.getLsbD d.val = true ∧ s.tablesOk :=
  ⟨wH, wDev .maint, 15, 0, by decide +kernel⟩

theorem wit_ImageAndSwapCommands_6 : ∃ h : Hdr, ∃ s : State, ∃ d : Die, ∃ off : Nat, ∃ bytes : List Byte,
    s.accepts h 0x0012 = true ∧ bytes.length ≤ 524288 ∧ off + bytes.length ≤ 33554432 ∧ s.tablesOk ∧ (s.begun h).swapPending d.val = false :=
  ⟨wH, wDev .ready, 0, 0, [1, 2], by decide +kernel⟩

theorem wit_ImageAndSwapCommands_7 : ∃ h : Hdr, ∃ s : State, ∃ m : Word,
    s.accepts h 0x0013 = true ∧ (dieMaskOk m = false ∨ (dieMask m).any (fun d => !(s.begun h).quiesced d || decide ((s.fabD d).shadow ≠ 3)) = true) :=
  ⟨wH, wDev .ready, 16, by decide +kernel⟩

theorem wit_ServiceCommands_1 : ∃ h : Hdr, ∃ s : State, ∃ arrays : List Nat,
    s.accepts h 0x0030 = true ∧ arrays.all (fun i => decide (i < 288)) = true :=
  ⟨wH, wDev .maint, [287], by decide +kernel⟩

theorem wit_ServiceCommands_2 : ∃ s : State, ∃ tag : Nat, ∃ i : Fin 288,
    s.ctl.long.find? (fun x => x.opcode = 0x0030) = some { opcode := 0x0030, tag := tag, arg := [i.val] } ∧ s.tablesOk :=
  ⟨{ wLong .maint 0x0030 [287] with eng := ⟨[(143, { Engine.reset with arrays := ⟨[(1, { Arr4.fresh with failed := true })]⟩ })]⟩ }, 3, 287, by decide +kernel⟩

theorem wit_ServiceCommands_3 : ∃ s : State, ∃ tag : Nat, ∃ i : Fin 288, ∃ r : Fin 128,
    s.ctl.long.find? (fun x => x.opcode = 0x0030) = some { opcode := 0x0030, tag := tag, arg := [i.val] } ∧ s.tablesOk ∧ s.fuse.softMaps.get noMap i.val = noMap ∧ s.fuse.factoryMaps.get noMap i.val = noMap :=
  ⟨{ wLong .maint 0x0030 [287] with eng := ⟨[(143, { Engine.reset with arrays := ⟨[(1, { Arr4.fresh with failed := true })]⟩ })]⟩ }, 3, 287, 5, by decide +kernel⟩

theorem wit_ServiceCommands_4 : ∃ s : State, ∃ tag : Nat, ∃ i : Fin 288, ∃ a : Fin 128, ∃ b : Fin 128, ∃ c : Fin 128,
    s.ctl.long.find? (fun x => x.opcode = 0x0030) = some { opcode := 0x0030, tag := tag, arg := [i.val] } ∧ s.tablesOk ∧ a ≠ b ∧ a ≠ c ∧ b ≠ c ∧ s.fuse.softMaps.get noMap i.val = noMap ∧ s.fuse.factoryMaps.get noMap i.val = noMap :=
  ⟨{ wLong .maint 0x0030 [287] with eng := ⟨[(143, { Engine.reset with arrays := ⟨[(1, { Arr4.fresh with failed := true })]⟩ })]⟩ }, 3, 287, 5, 6, 127, by decide +kernel⟩

theorem wit_ServiceCommands_5 : ∃ h : Hdr, ∃ s : State, ∃ codes : List Nat,
    s.accepts h 0x0032 = true ∧ codes.all (s.begun h).codeExists = true :=
  ⟨wH, wDev .maint, [0, 92], by decide +kernel⟩

theorem wit_ServiceCommands_6 : ∃ h : Hdr, ∃ s : State,
    s.accepts h 0x0033 = true :=
  ⟨wH, wDev .held, by decide +kernel⟩

theorem wit_ServiceCommands_7 : ∃ h : Hdr, ∃ s : State, ∃ n : DWord,
    s.accepts h 0x0043 = true :=
  ⟨wH, wDev .ready, 5, by decide +kernel⟩

theorem wit_RamtorPort_1 : ∃ s : State, ∃ f : Frame,
    s.portUp = true ∧ f.port.val = s.activePort ∧ f.fcsOk = true ∧ f.toUs = true ∧ f.vlan = false ∧ f.etherType = 0x88B5 ∧ f.hdr.length = 6 ∧ (let w := fun i => (f.hdr.getD i 0).toNat;
    (let ch := bitsOf (w 0) 3 0;
    (let len := bitsOf (w 0) 31 16;
    (ch = 0 ∨ ch = 3 ∨ ch = 4) ∧ bitsOf (w 0) 7 4 = 1 ∧ bitsOf (w 0) 13 8 = 0 ∧ bitOf (w 0) 14 = true ∧ 0 < len ∧ len ≤ 8960 ∧ len ≤ f.payload.length ∧ (s.ctl.rx.get RxPart.none ch).active = false))) :=
  ⟨wDev .ready, wFrame true, by decide +kernel⟩

theorem wit_RamtorPort_2 : ∃ s : State, ∃ f : Frame,
    s.portUp = true ∧ f.port.val = s.activePort ∧ f.fcsOk = false :=
  ⟨wDev .ready, wFrame false, by decide +kernel⟩

theorem wit_RamtorPort_3 : ∃ s : State, ∃ w0 : Word, ∃ w3 : Word, ∃ off : DWord,
    s.portUp = true ∧ streamOk 0xF001 w0 w3 = true ∧ fld w0 19 16 = 4 :=
  ⟨wDev .ready, 0x4F001, 0, 20000000, by decide +kernel⟩

theorem wit_RamtorPort_4 : ∃ s : State, ∃ w0 : Word, ∃ w3 : Word, ∃ off : DWord,
    s.portUp = true ∧ streamOk 0xF002 w0 w3 = true ∧ fld w0 19 16 = 4 ∧ off.toNat < s.ctl.ckOutSent :=
  ⟨wCtl .ready (fun c => { c with ckOutSent := 1 }), 0x4F002, 0, 0, by decide +kernel⟩

theorem wit_RamtorPort_5 : ∃ s : State,
    s.portUp = true ∧ s.ctl.ramActive = false ∧ s.ctl.standbyLock = true ∧ s.tablesOk :=
  ⟨wCtl .ready fun c => { c with standbyLock := true }, by decide +kernel⟩

theorem wit_RamtorPort_6 : ∃ s : State, ∃ q : Nat × List Byte, ∃ rest : List (Nat × List Byte),
    s.portUp = true ∧ s.ctl.ledgerDue = q :: rest ∧ s.eventsWait = false ∧ q.2.length ≤ segMaxLen :=
  ⟨wCtl .running fun c => { c with ledgerDue := [(1, [1])] }, (1, [1]), [], by decide +kernel⟩

theorem wit_RamtorPort_7 : ∃ s : State,
    s.eventsWait = true :=
  ⟨{ wHostEvt with evt := { wHostEvt.evt with queues := ⟨[(1, [wRec])]⟩ } }, by decide +kernel⟩

theorem wit_RamtorPort_8 : ∃ c : Ctl, ∃ ch : Nat, ∃ tag : Nat, ∃ off : Nat, ∃ bs : List Byte,
    ch < 16 ∧ bs ≠ [] ∧ bs.length ≤ segMaxLen * segMax :=
  ⟨Ctl.reset, 1, 7, 0, [1, 2], by decide +kernel⟩

theorem wit_IngestStream_1 : ∃ s : State, ∃ off : Nat, ∃ bytes : List Byte, ∃ dest : Nat, ∃ consumed : Nat,
    s.memOk ∧ s.portUp = true ∧ s.firmwareRuns = true ∧ s.ctl.ingGot = off ∧ bytes ≠ [] ∧ off + bytes.length ≤ s.ctl.ingLimit ∧ (s.hostPlace s.activePort dest).isSome = true ∧ (s.hostPlace s.activePort (dest + bytes.length - 1)).isSome = true :=
  ⟨wDev .ready, 0, [1, 2], wHostAt, 0, by decide +kernel⟩

theorem wit_IngestStream_2 : ∃ s : State, ∃ off : Nat, ∃ bytes : List Byte, ∃ dest : Nat, ∃ consumed : Nat,
    s.portUp = true ∧ s.firmwareRuns = true ∧ s.ctl.ingGot < off :=
  ⟨wDev .ready, 1, [], 0, 0, by decide +kernel⟩

theorem wit_EventsAreNumbered_3 : ∃ s : State, ∃ p : Nat, ∃ code : Nat, ∃ pl : List Byte,
    s.tablesOk ∧ s.masked p code = false :=
  ⟨wDev .ready, 0, 0x8000, [], by decide +kernel⟩

theorem wit_EventsAreNumbered_4 : ∃ s : State, ∃ p : Nat,
    p < 65536 ∧ Page.kind p ≠ 0 ∧ s.regPowered (regAddr p 0x14) = true ∧ s.pdHidden p 0x14 = false :=
  ⟨wOn, 1, by decide +kernel⟩

theorem wit_EventDelivery_1 : ∃ s : State, ∃ first : Nat, ∃ p : Nat, ∃ r : EvRec, ∃ rest : List EvRec,
    s.tablesOk ∧ s.evt.queues.get [] p = r :: rest ∧ s.evt.ring.length + s.evt.queues.cells.length ≤ 4096 :=
  ⟨wEvt fun e => { e with queues := ⟨[(1, [wRec])]⟩ }, 0, 1, wRec, [], by decide +kernel⟩

theorem wit_EventDelivery_2 : ∃ s : State, ∃ n : Nat,
    s.portEn = true ∧ s.portUp = true ∧ 0 < n ∧ s.evt.ring.drop s.evt.portTaken ≠ [] :=
  ⟨wEvt fun e => { e with ring := [wRec] }, 1, by decide +kernel⟩

theorem wit_EventDelivery_3 : ∃ s : State, ∃ r : EvRec, ∃ rest : List EvRec,
    s.bel.stopped = false ∧ s.memOk ∧ s.hostEn = true ∧ s.evt.ring.drop s.evt.hostTaken = r :: rest ∧ s.evt.hostWp < 4096 ∧ (let base := s.hostBase + 32 * s.evt.hostWp;
    s.accessFault (.hostCore 0 0) base true = none) :=
  ⟨wHostEvt, wRec, [], by decide +kernel⟩

theorem wit_EventDelivery_4 : ∃ s : State, ∃ p : Nat, ∃ code : Nat, ∃ pl : List Byte,
    s.masked p code = true :=
  ⟨wMasked, wMaskedPage, wMaskedCode, [], by decide +kernel⟩

theorem wit_PinsAndPresence_1 : ∃ s : State,
    s.pins.presenceN = false :=
  ⟨wPins fun p => { p with presenceN := false }, by decide +kernel⟩

theorem wit_PinsAndPresence_2 : ∃ s : State,
    s.pins.presenceN = true ∧ (∀ u, s.pins.presHighSince = some u → u + 10000 ≤ s.nowUs) :=
  ⟨wPins fun p => { p with presenceN := true }, rfl, fun _ h => nomatch h⟩

theorem wit_PinsAndPresence_3 : ∃ s : State, ∃ u : Nat, ∃ v : Nat,
    s.pins.presenceN = true ∧ s.pins.presHighSince = some u ∧ s.nowUs < u + 10000 ∧ s.pins.presLowSince = some v :=
  ⟨wPins fun p => { p with presHighSince := some 0, presLowSince := some 0 }, 0, 0, by decide +kernel⟩

theorem wit_PinsAndPresence_4 : ∃ s : State, ∃ u : Nat,
    s.pins.presLowSince = some u ∧ s.pins.presenceN = false ∧ s.pins.sealClosed = true ∧ u + 30000000 ≤ s.nowUs ∧ s.pins.sealSince + 30000000 ≤ s.nowUs :=
  ⟨wPresent .ready, 0, by decide +kernel⟩

theorem wit_PinsAndPresence_5 : ∃ s : State, ∃ u : Nat,
    s.pins.presLowSince = some u ∧ s.nowUs < u + 30000000 :=
  ⟨wPins fun p => { p with presLowSince := some 0 }, 0, by decide +kernel⟩

theorem wit_PinsAndPresence_6 : ∃ s : State, ∃ b : Bool,
    b ≠ s.pins.sealClosed :=
  ⟨wDev .ready, true, by decide +kernel⟩

theorem wit_PinsAndPresence_7 : ∃ s : State,
    s.pins.sealClosed = false ∧ s.pins.sealSince + 1000 ≤ s.nowUs ∧ s.fuse.tamper = false :=
  ⟨{ wDev .ready with nowUs := 1000 }, by decide +kernel⟩

theorem wit_SupplyAndEnvelope_1 : ∃ s : State,
    s.ctl.state ≠ .off ∧ s.alertEn = true ∧ s.bel.stopped = false ∧ s.bel.modeAct ≠ .quiet ∧ s.bel.move = .idle :=
  ⟨wDev .ready, by decide +kernel⟩

theorem wit_SupplyAndEnvelope_3 : ∃ s : State, ∃ e : Envelope,
    s.bel.move = .rising e :=
  ⟨wBel .ready (fun b => { b with move := .rising .sprint }), .sprint, by decide +kernel⟩

theorem wit_SupplyAndEnvelope_4 : ∃ s : State, ∃ e : Envelope, ∃ cs : List Nat,
    s.bel.move = .falling e cs :=
  ⟨wBel .ready (fun b => { b with move := .falling .quiet [1, 4] }), .quiet, [1, 4], by decide +kernel⟩

theorem wit_SupplyAndEnvelope_5 : ∃ s : State, ∃ v : Word, ∃ e : Envelope,
    Envelope.ofCode? (fld v 1 0) = some e ∧ s.bel.move = .idle :=
  ⟨wDev .ready, 2, .sprint, by decide +kernel⟩

theorem wit_SupplyAndEnvelope_6 : ∃ h : Hdr, ∃ s : State, ∃ w : Word, ∃ k : DWord,
    s.accepts h 0x0050 = true ∧ w.toNat < 8192 ∧ s.cad.tickNo < k.toNat :=
  ⟨wH, wDev .ready, 8191, 1, by decide +kernel⟩

theorem wit_SupplyAndEnvelope_7 : ∃ h : Hdr, ∃ s : State, ∃ w : Word, ∃ k : DWord,
    s.accepts h 0x0050 = true ∧ s.tablesOk ∧ w.toNat < 8192 ∧ k.toNat ≤ s.cad.tickNo :=
  ⟨wH, wDev .ready, 8191, 0, by decide +kernel⟩

theorem wit_SupplyAndEnvelope_8 : ∃ h : Hdr, ∃ s : State, ∃ n : Word, ∃ k : DWord,
    s.accepts h 0x0050 = true ∧ k.toNat ≤ s.cad.tickNo :=
  ⟨wH, wDev .ready, 5, 0, by decide +kernel⟩

theorem wit_SupplyAndEnvelope_9 : ∃ h : Hdr, ∃ s : State, ∃ k : DWord,
    s.accepts h 0x0050 = true ∧ k.toNat ≤ s.cad.tickNo ∧ s.bel.modeAct ≠ .quiet ∧ s.bel.move = .idle :=
  ⟨wH, wDev .ready, 0, by decide +kernel⟩

theorem wit_SupplyAndEnvelope_10 : ∃ h : Hdr, ∃ s : State, ∃ f : Word, ∃ a : Word, ∃ k : DWord,
    s.accepts h 0x0050 = true ∧ a = 1 ∧ k.toNat ≤ s.cad.tickNo :=
  ⟨wH, wDev .ready, 100, 1, 0, by decide +kernel⟩

theorem wit_SupplyAndEnvelope_11 : ∃ s : State,
    s.ctl.state ≠ .off ∧ s.alertEn = true ∧ s.bel.stopped = false ∧ s.bel.modeAct = .quiet ∧ (∀ e cs, s.bel.move ≠ .falling e cs) :=
  ⟨wBel .ready fun b => { b with modeAct := .quiet }, by decide +kernel, by decide +kernel, by decide +kernel, by decide +kernel, nofun⟩

theorem wit_SupplyAndEnvelope_12 : ∃ h : Hdr, ∃ s : State, ∃ n : Word, ∃ k : DWord,
    s.accepts h 0x0050 = true ∧ s.cad.tickNo < k.toNat :=
  ⟨wH, wDev .ready, 5, 9, by decide +kernel⟩

theorem wit_SupplyAndEnvelope_13 : ∃ h : Hdr, ∃ s : State, ∃ k : DWord,
    s.accepts h 0x0050 = true ∧ s.cad.tickNo < k.toNat :=
  ⟨wH, wDev .ready, 9, by decide +kernel⟩

theorem wit_SupplyAndEnvelope_14 : ∃ h : Hdr, ∃ s : State, ∃ f : Word, ∃ a : Word, ∃ k : DWord,
    s.accepts h 0x0050 = true ∧ a.toNat ≤ 2 ∧ s.cad.tickNo < k.toNat :=
  ⟨wH, wDev .ready, 59900, 2, 9, by decide +kernel⟩

theorem wit_SupplyAndEnvelope_15 : ∃ s : State, ∃ w : Nat, ∃ k : Nat,
    s.tablesOk ∧ s.bel.msgs.find? (fun m => m.1 ≤ s.cad.tickNo) = some (k, .cap w) ∧ w < 8192 :=
  ⟨wBel .ready (fun b => { b with msgs := [(0, .cap 7)] }), 7, 0, by decide +kernel⟩

theorem wit_SupplyAndEnvelope_16 : ∃ s : State, ∃ k : Nat,
    s.bel.msgs.find? (fun m => m.1 ≤ s.cad.tickNo) = some (k, .shed) ∧ s.bel.modeAct ≠ .quiet ∧ s.bel.move = .idle :=
  ⟨wBel .ready (fun b => { b with msgs := [(0, .shed)] }), 0, by decide +kernel⟩

theorem wit_SupplyAndEnvelope_17 : ∃ s : State, ∃ f : Nat, ∃ a : Nat, ∃ k : Nat,
    s.tablesOk ∧ s.bel.msgs.find? (fun m => m.1 ≤ s.cad.tickNo) = some (k, .freqDev f a) ∧ a ≠ 2 :=
  ⟨wBel .ready (fun b => { b with msgs := [(0, .freqDev 59900 1)] }), 59900, 1, 0, by decide +kernel⟩

theorem wit_SupplyAndEnvelope_18 : ∃ s : State, ∃ n : Nat, ∃ k : Nat,
    s.bel.msgs.find? (fun m => m.1 ≤ s.cad.tickNo) = some (k, .hold n) :=
  ⟨wBel .ready (fun b => { b with msgs := [(0, .hold 3)] }), 3, 0, by decide +kernel⟩

theorem wit_SupplyAndEnvelope_19 : ∃ s : State,
    s.bel.hold = true ∧ s.bel.holdLeft = 0 :=
  ⟨wBel .ready fun b => { b with hold := true }, by decide +kernel⟩

theorem wit_BellowsLoop_1 : ∃ s : State, ∃ rails : List (Fin 9 × Nat × Nat),
    s.ctl.state ≠ .off ∧ s.bel.stopped = false ∧ s.boundsOk :=
  ⟨wDev .ready, [(0, 100, 1000)], by decide +kernel⟩

theorem wit_BellowsLoop_2 : ∃ s : State,
    s.bel.relaxed = false ∧ s.thrBudget ≤ s.bel.thrUs ∧ s.ctl.state = .running :=
  ⟨wBel .running fun b => { b with thrUs := 20000 }, by decide +kernel⟩

theorem wit_TickEdge_1 : ∃ s : State, ∃ trims : List (Pd × Trim), ∃ margins : List (Fin 24 × Fin 32 × Nat),
    s.ctl.state ≠ .off ∧ s.cad.omitNext = false ∧ s.cad.numNext = none ∧ s.tablesOk :=
  ⟨{ wCad (fun c => { c with tickNo := 2 ^ 48 - 1 }) with inTick := 1000 }, [], [], by decide +kernel⟩

theorem wit_CadenceReferences_1 : ∃ s : State, ∃ dom : Nat, ∃ snd : Nat, ∃ seq : Nat, ∃ rx : Int,
    dom = fld (s.rwAt (regAddr Page.cadence 0x100)) 8 2 ∧ s.fromMaster snd = true :=
  ⟨wCad (fun c => { c with best := some wAnn }), 0, 5, 3, (-7), by decide +kernel⟩

theorem wit_CadenceReferences_2 : ∃ s : State, ∃ dom : Nat, ∃ snd : Nat, ∃ seq : Nat, ∃ rx : Int,
    dom = fld (s.rwAt (regAddr Page.cadence 0x100)) 8 2 :=
  ⟨wDev .ready, 0, 5, 3, 7, by decide +kernel⟩

theorem wit_CadenceReferences_3 : ∃ s : State, ∃ dom : Nat, ∃ snd : Nat, ∃ seq : Nat, ∃ org : Int, ∃ corr : Int, ∃ rx : Int,
    dom = fld (s.rwAt (regAddr Page.cadence 0x100)) 8 2 ∧ s.cad.sync = some { sender := snd, seq := seq, rxHalf := 2 * rx } :=
  ⟨wCad (fun c => { c with best := some wAnn, sync := some { sender := 5, seq := 3, rxHalf := 200 } }), 0, 5, 3, 40, 10, 100, by decide +kernel⟩

theorem wit_CadenceReferences_4 : ∃ s : State, ∃ m : AnnounceMsg,
    m.domain.toNat = fld (s.rwAt (regAddr Page.cadence 0x100)) 8 2 ∧ (s.master = none ∨ ∃ b, s.master = some b ∧ (b.sender = m.sender ∨ annBetter m b = true)) :=
  ⟨wDev .ready, wAnn, by decide +kernel, Or.inl (by decide +kernel)⟩

theorem wit_CadenceReferences_5 : ∃ s : State, ∃ dom : Nat, ∃ snd : Nat, ∃ rq : Int, ∃ rx : Int,
    dom = fld (s.rwAt (regAddr Page.cadence 0x100)) 8 2 ∧ s.fromMaster snd = true :=
  ⟨wCad (fun c => { c with best := some wAnn, msNs := 50 }), 0, 5, 40, (-10), by decide +kernel⟩

theorem wit_CadenceReferences_6 : ∃ s : State, ∃ v : Word,
    s.tablesOk ∧ fld v 1 0 = 3 ∧ s.cad.state = .free :=
  ⟨wDev .ready, 3, by decide +kernel⟩

theorem wit_CadenceReferences_7 : ∃ s : State, ∃ v : Word,
    s.tablesOk ∧ s.cad.state = .locked ∧ fld v 1 0 = 1 ∧ s.cad.ptpOk = false :=
  ⟨{ wCad (fun c => { c with state := .locked }) with rw := ⟨[(regAddr Page.cadence 0x100, 1)]⟩, nowUs := 0 }, 1, by decide +kernel⟩

theorem wit_CadenceLossAndRelock_1 : ∃ s : State, ∃ off : Int,
    selPulse s.src = true ∧ s.edgeWindowed = false ∧ off.natAbs ≤ 200 ∧ s.cad.state = .acquiring :=
  ⟨wCad (fun c => { c with state := .acquiring }), (-100), by decide +kernel⟩

theorem wit_CadenceLossAndRelock_2 : ∃ s : State, ∃ u : Nat,
    s.src = 1 ∧ s.cad.state = .locked ∧ s.cad.lastSync = some u ∧ s.cad.ptpOk = true ∧ u + s.syncTimeoutUs ≤ s.nowUs :=
  ⟨{ wCad (fun c => { c with state := .locked, lastSync := some 0, ptpOk := true }) with rw := ⟨[(regAddr Page.cadence 0x100, 1)]⟩, nowUs := 1000000 }, 0, by decide +kernel⟩

theorem wit_CadenceLossAndRelock_3 : ∃ s : State, ∃ u : Nat,
    s.src = 2 ∧ s.cad.state = .locked ∧ s.cad.lastEdge = some u ∧ s.cad.pulseOk = true ∧ u + 2 * s.cad.tickLen ≤ s.nowUs :=
  ⟨{ wCad (fun c => { c with state := .locked, lastEdge := some 0, pulseOk := true }) with rw := ⟨[(regAddr Page.cadence 0x100, 2)]⟩, nowUs := 2000 }, 0, by decide +kernel⟩

theorem wit_CadenceLossAndRelock_4 : ∃ s : State, ∃ u : Nat,
    s.src = 0 ∧ s.cad.state = .locked ∧ s.cad.lastSync = some u ∧ s.cad.ptpOk = true ∧ s.cad.pulseOk = true ∧ u + s.syncTimeoutUs ≤ s.nowUs ∧ s.tablesOk :=
  ⟨{ wCad (fun c => { c with state := .locked, lastSync := some 0, ptpOk := true, pulseOk := true }) with nowUs := 1000000 }, 0, by decide +kernel⟩

theorem wit_CadenceLossAndRelock_5 : ∃ s : State,
    s.src = 0 ∧ s.cad.incons = false ∧ 4 ≤ s.cad.badEdge ∧ s.cad.ptpOk = true :=
  ⟨wCad (fun c => { c with state := .locked, badEdge := 4, ptpOk := true }), by decide +kernel⟩

theorem wit_CadenceLossAndRelock_6 : ∃ s : State,
    s.cad.incons = true ∧ 16 ≤ s.cad.goodEdge ∧ s.cad.ptpOk = true ∧ s.src = 0 :=
  ⟨wCad (fun c => { c with state := .locked, incons := true, goodEdge := 16, ptpOk := true }), by decide +kernel⟩

theorem wit_CadenceLossAndRelock_7 : ∃ s : State,
    s.cad.state = .acquiring ∧ s.src = 1 ∧ 16 ≤ s.cad.goodSync :=
  ⟨{ wCad (fun c => { c with state := .acquiring, goodSync := 16 }) with rw := ⟨[(regAddr Page.cadence 0x100, 1)]⟩, nowUs := 0 }, by decide +kernel⟩

theorem wit_CadenceLossAndRelock_8 : ∃ s : State, ∃ off : Int,
    s.cad.state = .holdover ∧ s.src = 1 ∧ s.cad.ptpOk = true :=
  ⟨{ wCad (fun c => { c with state := .holdover, ptpOk := true, tickNo := 9 }) with rw := ⟨[(regAddr Page.cadence 0x100, 1)]⟩, nowUs := 0 }, (-50), by decide +kernel⟩

theorem wit_CadenceLossAndRelock_9 : ∃ s : State,
    s.cad.state = .holdover ∧ s.cad.holdLeft = 0 :=
  ⟨wCad (fun c => { c with state := .holdover, holdLeft := 0 }), by decide +kernel⟩

theorem wit_CadenceLossAndRelock_10 : ∃ s : State, ∃ n : Nat,
    s.cad.state = .holdover ∧ s.src = 1 ∧ s.cad.ptpOk = true ∧ n ≠ s.cad.tickNo :=
  ⟨{ wCad (fun c => { c with state := .holdover, ptpOk := true, tickNo := 9 }) with rw := ⟨[(regAddr Page.cadence 0x100, 1)]⟩, nowUs := 0 }, 8, by decide +kernel⟩

theorem wit_BrownoutAndTrip_1 : ∃ s : State, ∃ k : Fin 9,
    s.ctl.state = .ready ∧ s.pins.thermtripN = true ∧ s.bel.brown = false ∧ criticalRail k.val = false :=
  ⟨wDev .ready, 0, by decide +kernel⟩

theorem wit_BrownoutAndTrip_2 : ∃ s : State, ∃ k : Fin 9,
    s.ctl.state = .running ∧ s.pins.thermtripN = true ∧ s.bel.brown = false ∧ criticalRail k.val = false :=
  ⟨wDev .running, 0, by decide +kernel⟩

theorem wit_BrownoutAndTrip_3 : ∃ s : State,
    s.ctl.state = .ready ∧ s.pins.thermtripN = true ∧ s.bel.brown = false :=
  ⟨wDev .ready, by decide +kernel⟩

theorem wit_BrownoutAndTrip_4 : ∃ c : Instr, ∃ s : State,
    s.bel.stopped = true ∧ Instr.needsClock c = true :=
  ⟨.fabStarve 0 0, wBel .running fun b => { b with stopped := true }, by decide +kernel⟩

theorem wit_BrownoutAndTrip_5 : ∃ s : State, ∃ b : BootInput,
    s.bel.brown = true ∧ s.ctl.state = .ready ∧ s.bel.wasRunning = false :=
  ⟨wBel .ready (fun b => { b with brown := true, stopped := true }), wBoot true, by decide +kernel⟩

theorem wit_BrownoutAndTrip_6 : ∃ s : State, ∃ k : Fin 9,
    s.ctl.state = .boot ∧ s.bel.brown = false ∧ criticalRail k.val = false :=
  ⟨wDev .boot, 1, by decide +kernel⟩

theorem wit_BrownoutAndTrip_7 : ∃ s : State,
    (s.ctl.state = .off ∨ (s.ctl.state = .safe ∧ s.pins.thermtripN = false)) :=
  ⟨wDev .off, Or.inl rfl⟩

theorem wit_BrownoutAndTrip_8 : ∃ s : State, ∃ x : Sensor, ∃ c : Nat,
    s.ctl.state ≠ .off ∧ s.ctl.state ≠ .safe ∧ 105 ≤ c :=
  ⟨wDev .running, .junction 3, 105, by decide +kernel⟩

theorem wit_HealthMonitors_1 : ∃ s : State, ∃ x : Sensor, ∃ c : Nat,
    s.tempWarn ≤ c ∧ s.hlt.warnArmed = true ∧ s.tablesOk :=
  ⟨wDev .ready, .junction 71, 90, by decide +kernel⟩

theorem wit_HealthMonitors_2 : ∃ s : State, ∃ pd : Pd, ∃ c : Nat,
    95 ≤ c ∧ s.hlt.limitArmed = true ∧ s.bel.modeAct ≠ .quiet ∧ s.bel.move = .idle :=
  ⟨wDev .ready, 71, 95, by decide +kernel⟩

theorem wit_HealthMonitors_3 : ∃ s : State, ∃ k : Fin 16, ∃ w : Nat,
    w < 2 * refreshMs (s.mt.band k.val) ∧ s.tablesOk :=
  ⟨wDev .ready, 15, 127, by decide +kernel⟩

theorem wit_DroopAndDomains_1 : ∃ s : State, ∃ pd : Pd,
    s.tablesOk ∧ pdIsVcd pd.val = true ∧ (s.dom.get Domain.off pd.val).state = 2 ∧ (s.dom.get Domain.off pd.val).droop = false :=
  ⟨wDom 9 2 false, 9, by decide +kernel⟩

theorem wit_DroopAndDomains_2 : ∃ s : State, ∃ pd : Pd, ∃ ac : Nat,
    s.tablesOk ∧ (s.dom.get Domain.off pd.val).droop = true :=
  ⟨wDom 9 2 true, 9, 5, by decide +kernel⟩

theorem wit_DroopAndDomains_3 : ∃ s : State, ∃ pd : Pd,
    s.tablesOk ∧ (s.dom.get Domain.off pd.val).state = 1 :=
  ⟨wDom 0 1 false, 0, by decide +kernel⟩

theorem wit_DroopAndDomains_4 : ∃ s : State, ∃ pd : Pd, ∃ on : Bool,
    s.reqOn pd.val = on :=
  ⟨wDev .ready, 3, true, by decide +kernel⟩

theorem wit_DroopAndDomains_5 : ∃ s : State, ∃ pd : Pd, ∃ on : Bool,
    s.reqOn pd.val ≠ on ∧ s.reqAllowed pd.val on = false ∧ s.regPowered (regAddr (Page.dom pd.val) 0x104) = true ∧ s.pdHidden (Page.dom pd.val) 0x104 = false :=
  ⟨wDom 13 2 false, 13, false, by decide +kernel⟩

theorem wit_DroopAndDomains_6 : ∃ s : State, ∃ pd : Pd, ∃ on : Bool,
    s.tablesOk ∧ s.reqOn pd.val ≠ on ∧ s.reqAllowed pd.val on = true :=
  ⟨wOn, 3, false, by decide +kernel⟩

theorem wit_RegisterPages_1 : ∃ s : State, ∃ p : Nat, ∃ off : Nat, ∃ r : RegSpec, ∃ v : Word,
    s.tablesOk ∧ 0x100 ≤ off ∧ off < 0x10000 ∧ off % 4 = 0 ∧ p < 0x10000 ∧ Page.kind p ≠ 0 ∧ [0x02, 0x03, 0x05, 0x06, 0x08, 0x09, 0x0A, 0x0B, 0x0C, 0x0F, 0x10, 0x11, 0x12].contains (Page.kind p) = false ∧ RegMap.find (regAddr p off) = some r ∧ s.regPowered (regAddr p off) = true ∧ s.pdHidden p off = false :=
  ⟨wOn, 0x0100, 0x208, (RegMap.find (regAddr 0x0100 0x208)).getD wSpec, 0xFFFFFFFF, by decide +kernel⟩

theorem wit_RegisterPages_2 : ∃ s : State, ∃ a : Word, ∃ v : Word,
    (Page.kind (a.toNat / 65536) = 0 ∨ a.toNat % 4 ≠ 0) :=
  ⟨wDev .ready, 2, 5, by decide +kernel⟩

theorem wit_RegisterPages_3 : ∃ s : State, ∃ p : BitVec 16, ∃ v : Word,
    s.tablesOk ∧ Page.kind p.toNat ≠ 0 ∧ s.regPowered (regAddr p.toNat 0x20) = true ∧ s.pdHidden p.toNat 0x20 = false :=
  ⟨wOn, 0x0001, 0x1FFFF, by decide +kernel⟩

theorem wit_RegisterPages_4 : ∃ s : State, ∃ p : BitVec 16,
    s.tablesOk ∧ (s.mbxOf p.toNat).pending = true :=
  ⟨{ wDev .ready with mbx := ⟨[(1, { Mailbox.reset with pending := true, snapNo := 255 })]⟩ }, 1, by decide +kernel⟩

theorem wit_RegisterPages_5 : ∃ s : State, ∃ p : BitVec 16, ∃ b : Bool,
    s.tablesOk ∧ (Page.kind p.toNat = 0x0A ∨ Page.kind p.toNat = 0x0D) ∧ s.regPowered (regAddr p.toNat 8) = true :=
  ⟨wOn, 0x0310, true, by decide +kernel⟩

theorem wit_RegisterPages_6 : ∃ s : State, ∃ p : BitVec 16, ∃ b : Bool,
    s.tablesOk ∧ Page.kind p.toNat = 0x0D ∧ s.regPowered (regAddr p.toNat 8) = true :=
  ⟨wOn, 0x0500, false, by decide +kernel⟩

theorem wit_StripesOfMemory_3 : ∃ d : Nat, ∃ q : Nat, ∃ k : Nat,
    k < 256 :=
  ⟨3, 5, 255, by decide +kernel⟩

theorem wit_StripesOfMemory_4 : ∃ p : Nat, ∃ q : Nat, ∃ k : Nat,
    k < 4096 :=
  ⟨7, 5, 4095, by decide +kernel⟩

theorem wit_MemoryAccesses_1 : ∃ s : State, ∃ u : MemUnit, ∃ va : Nat, ∃ n : Nat, ∃ ecc : Ecc, ∃ die : Fin 16, ∃ mb : Nat, ∃ hart : Hart, ∃ tr : MemTrap,
    s.bel.stopped = false ∧ s.translate u hart va n .load = .trap tr :=
  ⟨wDev .ready, .hostCore 1 15, 4096, 8, .clean, 0, 0, wHart, .page, by decide +kernel⟩

theorem wit_MemoryAccesses_2 : ∃ s : State, ∃ u : MemUnit, ∃ va : Nat, ∃ bs : List Byte, ∃ ecc : Ecc, ∃ die : Fin 16, ∃ mb : Nat, ∃ hart : Hart, ∃ tr : MemTrap,
    s.bel.stopped = false ∧ s.translate u hart va bs.length .store = .trap tr :=
  ⟨wDev .ready, .hostCore 0 0, 4096, [1, 2], .clean, 0, 0, wHartPmp, .access, by decide +kernel⟩

theorem wit_MemoryAccesses_3 : ∃ s : State, ∃ u : MemUnit, ∃ va : Nat, ∃ addr : Nat, ∃ bs : List Byte, ∃ ecc : Ecc, ∃ die : Fin 16, ∃ mb : Nat, ∃ hart : Hart,
    s.bel.stopped = false ∧ s.memOk ∧ s.translate u hart va bs.length .store = .at addr ∧ s.isCipCore u = false ∧ s.spanFault u addr bs.length true = none ∧ (∀ a, regionOf addr ≠ .register a) ∧ (∀ p a, regionOf addr ≠ .arrival p a) :=
  ⟨wDev .ready, .streamPort 0 3, crustBase 0 + 12 * gib - 2, crustBase 0 + 12 * gib - 2, [1, 2], .clean, 0, 0, .bare, by decide +kernel, by decide +kernel, by decide +kernel, by decide +kernel, by decide +kernel, fun _ => crust_only (d := 0) (o := 12 * gib - 2) (by decide +kernel) nofun, fun _ _ => crust_only (d := 0) (o := 12 * gib - 2) (by decide +kernel) nofun⟩

theorem wit_MemoryAccesses_4 : ∃ s : State, ∃ u : MemUnit, ∃ va : Nat, ∃ addr : Nat, ∃ n : Nat, ∃ die : Fin 16, ∃ mb : Nat, ∃ hart : Hart, ∃ fetch : Bool,
    s.bel.stopped = false ∧ (let op := if fetch then MemOp.fetch n else .read n;
    s.translate u hart va n op.access = .at addr ∧ s.isCipCore u = false ∧ s.spanFault u addr n false = none ∧ (∀ a, regionOf addr ≠ .register a) ∧ (∀ d a, regionOf addr ≠ .table d a)) :=
  ⟨wDev .ready, .streamPort 0 3, crustBase 0, crustBase 0, 64, 0, 0, .bare, false, by decide +kernel, by decide +kernel, by decide +kernel, by decide +kernel, fun _ => crust_only (d := 0) (o := 0) (by decide +kernel) nofun, fun _ _ => crust_only (d := 0) (o := 0) (by decide +kernel) nofun⟩

theorem wit_MemoryAccesses_5 : ∃ s : State, ∃ u : MemUnit, ∃ va : Nat, ∃ addr : Nat, ∃ n : Nat, ∃ ecc : Ecc, ∃ die : Fin 16, ∃ mb : Nat, ∃ hart : Hart,
    s.bel.stopped = false ∧ s.memOk ∧ s.translate u hart va n .load = .at addr ∧ s.isCipCore u = false ∧ s.spanFault u addr n false = none ∧ (∀ a, regionOf addr ≠ .register a) ∧ eccResult addr ecc = .uncorrectable :=
  ⟨wDev .ready, .streamPort 0 3, crustBase 0, crustBase 0, 64, { bits := 0, symbols := (3, 0), dies := 0 }, 0, 0, .bare, by decide +kernel, by decide +kernel, by decide +kernel, by decide +kernel, by decide +kernel, (fun _ => crust_only (d := 0) (o := 0) (by decide +kernel) nofun), by decide +kernel⟩

theorem wit_MemoryAccesses_6 : ∃ s : State, ∃ u : MemUnit, ∃ va : Nat, ∃ addr : Nat, ∃ n : Nat, ∃ ecc : Ecc, ∃ die : Fin 16, ∃ mb : Nat, ∃ hart : Hart, ∃ c : Nat,
    s.bel.stopped = false ∧ s.translate u hart va n .load = .at addr ∧ s.isCipCore u = false ∧ s.spanFault u addr n false = some c :=
  ⟨wDev .ready, .streamPort 0 3, crustBase 0 + 12 * gib, crustBase 0 + 12 * gib, 64, .clean, 0, 0, .bare, 0, by decide +kernel⟩

theorem wit_MemoryAccesses_7 : ∃ s : State, ∃ u : MemUnit, ∃ va : Nat, ∃ addr : Nat, ∃ bs : List Byte, ∃ ecc : Ecc, ∃ die : Fin 16, ∃ mb : Nat, ∃ hart : Hart, ∃ c : Nat,
    s.bel.stopped = false ∧ s.translate u hart va bs.length .store = .at addr ∧ s.isCipCore u = false ∧ s.spanFault u addr bs.length true = some c :=
  ⟨wDev .ready, .streamPort 0 3, crustBase 0 + 12 * gib - 1, crustBase 0 + 12 * gib - 1, [1, 2], .clean, 0, 0, .bare, 0, by decide +kernel⟩

theorem wit_MemoryAccesses_8 : ∃ s : State, ∃ u : MemUnit, ∃ va : Nat, ∃ addr : Nat, ∃ op : MemOp, ∃ ecc : Ecc, ∃ die : Fin 16, ∃ mb : Nat, ∃ hart : Hart,
    s.bel.stopped = false ∧ s.tablesOk ∧ s.translate u hart va op.len op.access = .at addr ∧ s.bars u op.access addr = true :=
  ⟨{ wDev .ready with ing := { Ingest.reset with cipEn := true }, shAct := ⟨[(hostReg 0x104, 2)]⟩ }, .hostCore 0 15, wHostAt, wHostAt, .read 8, .clean, 0, 0, wHartBareS, by decide +kernel⟩

theorem wit_RefreshAndScrub_1 : ∃ s : State, ∃ m : MemDie, ∃ c : Nat,
    s.tablesOk ∧ s.mt.tempBand.get 0 (memDieKey m) ≤ bandOf c :=
  ⟨wDev .ready, .trough 15 15, 96, by decide +kernel⟩

theorem wit_RefreshAndScrub_2 : ∃ s : State, ∃ m : MemDie, ∃ c : Nat,
    s.tablesOk ∧ bandOf c < s.mt.tempBand.get 0 (memDieKey m) ∧ bandLow (s.mt.tempBand.get 0 (memDieKey m)) < c + 3 :=
  ⟨{ wDev .ready with mt := { MemTier.reset with tempBand := ⟨[(0, 2)]⟩ } }, .crust 0, 84, by decide +kernel⟩

theorem wit_RefreshAndScrub_3 : ∃ s : State, ∃ u : ScrubUnit, ∃ addr : Nat, ∃ die : Fin 16, ∃ err : Ecc,
    s.bel.stopped = false ∧ s.tablesOk ∧ s.scrubPaused u = false ∧ eccResult addr err = .uncorrectable :=
  ⟨wDev .ready, .stack 0, 64, 0, { bits := 0, symbols := (3, 3), dies := 2 }, by decide +kernel⟩

theorem wit_RefreshAndScrub_4 : ∃ s : State, ∃ u : ScrubUnit, ∃ finds : List ScrubFind,
    s.bel.stopped = false ∧ s.scrubPaused u = true :=
  ⟨wRw .ready [(regAddr (Page.stack 0) 0x08, 3)], .stack 0, [], by decide +kernel⟩

theorem wit_MpdAcceptance_1 : ∃ s : State, ∃ d : Die, ∃ e : Eng, ∃ n : Nat,
    s.bel.stopped = false ∧ s.tablesOk ∧ (let x := s.engD d e;
    (let w := x.offer;
    (let tds := (List.range 8).map fun i => x.tds.get [] i;
    w ≠ [] ∧ mpdOpc w ≠ 2 ∧ x.queue.length < 8 ∧ s.seqReason d e tds w = 0 ∧ s.engReason d e tds w = 0 ∧ (s.slotFail x tds w).cause = 0 ∧ extentFail w (x.rawExtents w) = none))) :=
  ⟨wEng { wQueue [] with offer := wMpd wBegEnd wFixed }, 0, 0, 0, by decide +kernel⟩

theorem wit_MpdAcceptance_2 : ∃ s : State, ∃ d : Die, ∃ e : Eng, ∃ n : Nat,
    s.bel.stopped = false ∧ s.tablesOk ∧ (let x := s.engD d e;
    (let w := x.offer;
    (let tds := (List.range 8).map fun i => x.tds.get [] i;
    w ≠ [] ∧ mpdOpc w ≠ 2 ∧ x.queue.length < 8 ∧ s.seqReason d e tds w ≠ 0))) :=
  ⟨wEng { wQueue [] with offer := wMpd 0 wFixed }, 0, 0, 3, by decide +kernel⟩

theorem wit_MpdAcceptance_3 : ∃ s : State, ∃ d : Die, ∃ e : Eng, ∃ n : Nat,
    s.bel.stopped = false ∧ s.tablesOk ∧ (let x := s.engD d e;
    (let w := x.offer;
    (let tds := (List.range 8).map fun i => x.tds.get [] i;
    w ≠ [] ∧ mpdOpc w ≠ 2 ∧ x.queue.length < 8 ∧ s.seqReason d e tds w = 0 ∧ s.engReason d e tds w ≠ 0))) :=
  ⟨wEng { wQueue [] with offer := wMpd (wBegEnd + 3 * 128) wFixed }, 0, 0, 3, by decide +kernel⟩

theorem wit_MpdAcceptance_4 : ∃ s : State, ∃ d : Die, ∃ e : Eng, ∃ n : Nat,
    s.bel.stopped = false ∧ s.tablesOk ∧ (let x := s.engD d e;
    (let w := x.offer;
    (let tds := (List.range 8).map fun i => x.tds.get [] i;
    w ≠ [] ∧ mpdOpc w ≠ 2 ∧ x.queue.length < 8 ∧ s.seqReason d e tds w = 0 ∧ s.engReason d e tds w = 0 ∧ (s.slotFail x tds w).cause ≠ 0))) :=
  ⟨wEng { wQueue [] with offer := wMpd 1 wFixed }, 0, 0, 3, by decide +kernel⟩

theorem wit_MpdAcceptance_5 : ∃ s : State, ∃ d : Die, ∃ e : Eng, ∃ n : Nat,
    s.bel.stopped = false ∧ s.tablesOk ∧ (let x := s.engD d e;
    (let w := x.offer;
    (let tds := (List.range 8).map fun i => x.tds.get [] i;
    w ≠ [] ∧ mpdOpc w ≠ 2 ∧ x.queue.length < 8 ∧ s.seqReason d e tds w = 0 ∧ s.engReason d e tds w = 0 ∧ (s.slotFail x tds w).cause = 0 ∧ (extentFail w (x.rawExtents w)).isSome = true))) :=
  ⟨wEng { wQueue [] with offer := wMpd wBegEnd (wFixed - 31), lx := ⟨[(0, 5)]⟩ }, 0, 0, 3, by decide +kernel⟩

theorem wit_MpdAcceptance_6 : ∃ s : State, ∃ d : Die, ∃ e : Eng,
    s.bel.stopped = false ∧ s.tablesOk ∧ (s.engD d e).offer ≠ [] ∧ mpdOpc (s.engD d e).offer = 2 :=
  ⟨wEng { wQueue [] with offer := [2 + 128, 0, 0, 0, 0, 0, 0, 0] ++ wTd 8 }, 0, 0, by decide +kernel⟩

theorem wit_StationaryTiles_1 : ∃ s : State, ∃ d : Die, ∃ e : Eng, ∃ a : Arr, ∃ h : Half, ∃ j : Job, ∃ i : Nat, ∃ l : LaneProg, ∃ pos : Nat, ∃ slots : List (Nat × Nat),
    s.bel.stopped = false ∧ s.tablesOk ∧ s.fetchCand d e (arrNum a) = some (j, i) ∧ j.lane? (j.mpd.laneFor a h) = some l ∧ s.fetchPos j.mpd l = some pos ∧ s.fetches d e j l.lane = true ∧ s.fetchTurn d e i j l pos = true ∧ mpdReuse j.mpd.words = false ∧ slots = ((j.mpd.laneArrays l.lane).filterMap fun q => ((s.engD d e).freeEntry q).map (q, ·)) ∧ slots.length = (j.mpd.laneArrays l.lane).length :=
  ⟨wEng (wQueue [wJob wBeg id]), 0, 0, .A, .whole, wJob wBeg id, 0, wLane id, 0, [(0, 0)], by decide +kernel⟩

theorem wit_StationaryTiles_2 : ∃ s : State, ∃ d : Die, ∃ e : Eng, ∃ a : Arr, ∃ h : Half, ∃ j : Job, ∃ i : Nat, ∃ l : LaneProg, ∃ pos : Nat,
    s.bel.stopped = false ∧ s.tablesOk ∧ s.fetchCand d e (arrNum a) = some (j, i) ∧ j.lane? (j.mpd.laneFor a h) = some l ∧ s.fetchPos j.mpd l = some pos ∧ s.fetches d e j l.lane = true ∧ s.fetchTurn d e i j l pos = true ∧ mpdReuse j.mpd.words = true ∧ (let r := s.mcastRec d (s.activeOf d) (mpdList j.mpd.words);
    ((List.range 36).filter (mcMember r)).all (fun k => (s.engD d k).mcFree (mpdList j.mpd.words) (mcDepth r)) = true) :=
  ⟨{ wEng (wQueue [wJob (wBeg + wReuse) id]) with img := wMcast, fab := ⟨[(0, { FabDie.reset with placed := true })]⟩ }, 0, 0, .A, .whole, wJob (wBeg + wReuse) id, 0, wLane id, 0, by decide +kernel⟩

theorem wit_StationaryTiles_3 : ∃ s : State, ∃ d : Die, ∃ e : Eng, ∃ a : Arr, ∃ h : Half, ∃ n : Nat, ∃ i : Nat, ∃ j : Job, ∃ l : LaneProg, ∃ pos : Nat, ∃ u : STile, ∃ x1 : Engine,
    s.bel.stopped = false ∧ s.tablesOk ∧ (let lane := (s.engD d e).laneFor a h;
    (s.engD d e).runLane lane = some (i, j, l) ∧ (s.loadQueue d e (lane / 3)).find? (s.loadReady d e j) = some lane ∧ l.reload = false ∧ s.loadPos j.mpd l = some pos ∧ s.takeTile d e (s.engD d e) j lane pos = some (u, x1)) :=
  ⟨wEng { wQueue [wJob wBeg id] with ring := [wRing] }, 0, 0, .A, .whole, 2, 0, wJob wBeg id, wLane id, 0, wTile, wQueue [wJob wBeg id], by decide +kernel⟩

theorem wit_StationaryTiles_4 : ∃ s : State, ∃ d : Die, ∃ e : Eng, ∃ a : Arr, ∃ h : Half, ∃ n : Nat, ∃ i : Nat, ∃ j : Job, ∃ l : LaneProg,
    s.bel.stopped = false ∧ s.tablesOk ∧ (let lane := (s.engD d e).laneFor a h;
    (s.engD d e).runLane lane = some (i, j, l) ∧ (s.loadQueue d e (lane / 3)).find? (s.loadReady d e j) = some lane ∧ l.reload = true) :=
  ⟨wEng (wQueue [wJob wBeg fun l => { l with loaded := 1, lkey := [0, 0, 0, 0], active := some wTile, reload := true }]), 0, 0, .A, .whole, 1, 0, wJob wBeg fun l => { l with loaded := 1, lkey := [0, 0, 0, 0], active := some wTile, reload := true }, wLane fun l => { l with loaded := 1, lkey := [0, 0, 0, 0], active := some wTile, reload := true }, by decide +kernel⟩

theorem wit_StationaryTiles_5 : ∃ s : State, ∃ d : Die, ∃ e : Eng, ∃ a : Arr, ∃ h : Half, ∃ n : Nat, ∃ j : Job, ∃ k : Nat, ∃ l : LaneProg, ∃ pos : Nat, ∃ u : STile, ∃ x1 : Engine,
    s.bel.stopped = false ∧ s.tablesOk ∧ (s.engD d e).nextJob (arrNum a) = some (j, k) ∧ (let lane := j.mpd.laneFor a h;
    s.preloadEn d e = true ∧ (j.mpd.laneArrays lane).all (fun q => s.shadowFree (s.engD d e) q && ((s.engD d e).nextJob q).map Prod.snd = some k) = true ∧ j.lane? lane = some l ∧ l.shadow = none ∧ l.loaded = 0 ∧ s.loadPos j.mpd l = some pos ∧ s.takeTile d e (s.engD d e) j lane pos = some (u, x1)) :=
  ⟨wEng { wQueue [wJob wBeg fun l => { l with loaded := 1, lkey := [0, 0, 0, 0] }, wJob wBeg id] with ring := [wRing] }, 0, 0, .A, .whole, 0, wJob wBeg id, 1, wLane id, 0, wTile, wQueue [wJob wBeg fun l => { l with loaded := 1, lkey := [0, 0, 0, 0] }, wJob wBeg id], by decide +kernel⟩

theorem wit_PassesAndChecks_1 : ∃ s : State, ∃ d : Die, ∃ e : Eng, ∃ a : Arr, ∃ h : Half, ∃ n : Nat, ∃ i : Nat, ∃ j : Job, ∃ l : LaneProg,
    s.bel.stopped = false ∧ s.tablesOk ∧ (let lane := (s.engD d e).laneFor a h;
    (let rs := (s.streamLanes j lane).filterMap fun q => ((j.lane? q).bind (s.passReady d e j)).map (q, ·);
    (s.engD d e).runLane lane = some (i, j, l) ∧ lane ∈ s.streamLanes j lane ∧ rs.length = (s.streamLanes j lane).length)) :=
  ⟨wEng (wQueue [wJob wBeg fun l => { l with active := some wTile }]), 0, 0, .A, .whole, 1, 0, wJob wBeg fun l => { l with active := some wTile }, wLane fun l => { l with active := some wTile }, by decide +kernel⟩

theorem wit_PassesAndChecks_2 : ∃ s : State, ∃ d : Die, ∃ e : Eng, ∃ a : Arr, ∃ h : Half, ∃ i : Nat, ∃ j : Job, ∃ l : LaneProg, ∃ q : AccTile,
    s.bel.stopped = false ∧ s.tablesOk ∧ (let lane := (s.engD d e).laneFor a h;
    (s.engD d e).runLane lane = some (i, j, l) ∧ (let lp := s.loops j.mpd lane;
    (let p := passAt (mpdOrder j.mpd.words) lp l.pos;
    l.started = true ∧ l.past = none ∧ l.nonfin = none ∧ l.bad = 0 ∧ ((s.engD d e).open_ lane).find? (AccTile.at? p) = some q ∧ (p.k + 1 ≠ lp.k ∨ mpdAccEnd j.mpd.words = false) ∧ spillsNow j.mpd (q.passes + 1) (decide (p.k + 1 = lp.k)) = false))) :=
  ⟨wEng { wQueue [wJob wBeg fun l => { l with started := true, work := [[1, 2]] }] with tiles := ⟨[(0, [wAcc])]⟩ }, 0, 0, .A, .whole, 0, wJob wBeg fun l => { l with started := true, work := [[1, 2]] }, wLane fun l => { l with started := true, work := [[1, 2]] }, wAcc, by decide +kernel⟩

theorem wit_PassesAndChecks_3 : ∃ s : State, ∃ d : Die, ∃ e : Eng, ∃ a : Arr, ∃ h : Half, ∃ kind : CheckKind, ∃ ix : BitVec 16, ∃ i : Nat, ∃ j : Job, ∃ l : LaneProg,
    s.bel.stopped = false ∧ s.tablesOk ∧ (let lane := (s.engD d e).laneFor a h;
    (s.engD d e).runLane lane = some (i, j, l) ∧ l.started = true ∧ l.chk = none) :=
  ⟨wStarted id, 0, 0, .A, .whole, .parity, 3, 0, wJob wBeg fun l => (id) { l with started := true }, wLane fun l => (id) { l with started := true }, by decide +kernel⟩

theorem wit_PassesAndChecks_4 : ∃ s : State, ∃ d : Die, ∃ e : Eng, ∃ a : Arr, ∃ h : Half, ∃ kind : CheckKind, ∃ ix : BitVec 16, ∃ i : Nat, ∃ j : Job, ∃ l : LaneProg,
    s.bel.stopped = false ∧ s.tablesOk ∧ (let lane := (s.engD d e).laneFor a h;
    (s.engD d e).runLane lane = some (i, j, l) ∧ l.started = true ∧ l.chk.isSome = true) :=
  ⟨wStarted (fun l => { l with chk := some (0, 1, 9) }), 0, 0, .A, .whole, .residue, 127, 0, wJob wBeg fun l => ((fun l => { l with chk := some (0, 1, 9) })) { l with started := true }, wLane fun l => ((fun l => { l with chk := some (0, 1, 9) })) { l with started := true }, by decide +kernel⟩

theorem wit_PassesAndChecks_5 : ∃ s : State, ∃ d : Die, ∃ e : Eng, ∃ a : Arr, ∃ h : Half, ∃ sh : Bool, ∃ i : Nat, ∃ j : Job, ∃ l : LaneProg,
    s.bel.stopped = false ∧ s.tablesOk ∧ (let lane := (s.engD d e).laneFor a h;
    (s.engD d e).runLane lane = some (i, j, l) ∧ l.started = true ∧ l.stop = 0 ∧ (if l.bad = 0 then sh else l.badRow) = false) :=
  ⟨wStarted id, 0, 0, .A, .whole, false, 0, wJob wBeg fun l => (id) { l with started := true }, wLane fun l => (id) { l with started := true }, by decide +kernel⟩

theorem wit_PassesAndChecks_6 : ∃ s : State, ∃ d : Die, ∃ e : Eng, ∃ a : Arr, ∃ h : Half, ∃ sh : Bool, ∃ i : Nat, ∃ j : Job, ∃ l : LaneProg,
    s.bel.stopped = false ∧ s.tablesOk ∧ (let lane := (s.engD d e).laneFor a h;
    (s.engD d e).runLane lane = some (i, j, l) ∧ l.started = true ∧ l.stop = 0 ∧ (if l.bad = 0 then sh else l.badRow) = true) :=
  ⟨wStarted (fun l => { l with bad := 3, badRow := true }), 0, 0, .A, .whole, false, 0, wJob wBeg fun l => ((fun l => { l with bad := 3, badRow := true })) { l with started := true }, wLane fun l => ((fun l => { l with bad := 3, badRow := true })) { l with started := true }, by decide +kernel⟩

theorem wit_OverflowLadder_1 : ∃ s : State, ∃ d : Die, ∃ e : Eng, ∃ a : Arr, ∃ h : Half, ∃ i : Nat, ∃ j : Job, ∃ l : LaneProg,
    s.bel.stopped = false ∧ s.tablesOk ∧ (let lane := (s.engD d e).laneFor a h;
    (s.engD d e).runLane lane = some (i, j, l) ∧ l.started = true ∧ l.overFirst = true ∧ l.rung < 3) :=
  ⟨wStarted (fun l => { l with past := some (0, 1), rung := 2 }), 0, 0, .A, .whole, 0, wJob wBeg fun l => ((fun l => { l with past := some (0, 1), rung := 2 })) { l with started := true }, wLane fun l => ((fun l => { l with past := some (0, 1), rung := 2 })) { l with started := true }, by decide +kernel⟩

theorem wit_OverflowLadder_2 : ∃ s : State, ∃ d : Die, ∃ e : Eng, ∃ a : Arr, ∃ h : Half, ∃ i : Nat, ∃ j : Job, ∃ l : LaneProg,
    s.bel.stopped = false ∧ s.tablesOk ∧ (let lane := (s.engD d e).laneFor a h;
    (s.engD d e).runLane lane = some (i, j, l) ∧ l.started = true ∧ l.nonfin.isSome = true ∧ l.overFirst = false ∧ l.rung < 3) :=
  ⟨wStarted (fun l => { l with nonfin := some (0, 1), rung := 2 }), 0, 0, .A, .whole, 0, wJob wBeg fun l => ((fun l => { l with nonfin := some (0, 1), rung := 2 })) { l with started := true }, wLane fun l => ((fun l => { l with nonfin := some (0, 1), rung := 2 })) { l with started := true }, by decide +kernel⟩

theorem wit_DrainAndCompletion_1 : ∃ s : State, ∃ d : Die, ∃ e : Eng, ∃ a : Arr, ∃ q : DrainTile, ∃ ts : List DrainTile,
    s.bel.stopped = false ∧ s.tablesOk ∧ (s.engD d e).draining (arrNum a) = q :: ts ∧ q.begun = false :=
  ⟨wEng { wQueue [] with drains := ⟨[(0, [wDrain false])]⟩ }, 0, 0, .A, wDrain false, [], by decide +kernel⟩

theorem wit_DrainAndCompletion_2 : ∃ s : State, ∃ d : Die, ∃ e : Eng, ∃ a : Arr, ∃ n : Nat, ∃ q : DrainTile, ∃ ts : List DrainTile,
    s.bel.stopped = false ∧ s.tablesOk ∧ (s.engD d e).draining (arrNum a) = q :: ts ∧ q.begun = true ∧ mpdEpiEn q.mpd.words = false :=
  ⟨wEng { wQueue [] with drains := ⟨[(0, [wDrain true])]⟩ }, 0, 0, .A, 4, wDrain true, [], by decide +kernel⟩

theorem wit_DrainAndCompletion_3 : ∃ s : State, ∃ d : Die, ∃ e : Eng, ∃ a : Arr, ∃ i : Nat, ∃ j : Job,
    s.bel.stopped = false ∧ s.tablesOk ∧ (s.engD d e).running (arrNum a) = some (i, j) ∧ j.lanes.all (fun l => s.laneDone j.mpd l && decide (l.stop = 0) && !(s.loops j.mpd l.lane).empty) = true ∧ (s.engD d e).drainedAll j.mpd.seq = true ∧ j.nonfin = [] :=
  ⟨wEng (wQueue [wJob wBeg fun l => { l with pos := 1 }]), 0, 0, .A, 0, wJob wBeg fun l => { l with pos := 1 }, by decide +kernel⟩

theorem wit_DrainAndCompletion_4 : ∃ s : State, ∃ d : Die, ∃ e : Eng, ∃ a : Arr, ∃ i : Nat, ∃ j : Job,
    s.bel.stopped = false ∧ s.tablesOk ∧ (s.engD d e).running (arrNum a) = some (i, j) ∧ j.begun = false ∧ j.lanes.any (fun l => (s.loops j.mpd l.lane).empty) = true ∧ ((mpdLanes j.mpd.words).foldl (fun y l => s.emptyLane j.mpd y l) (s.engD d e)).drainedAll j.mpd.seq = false :=
  ⟨wEng (wQueue [wJobOf (wJobMpd wBegEnd [1, 1, 1, 1, 0]) (wLane id)]), 0, 0, .A, 0, wJobOf (wJobMpd wBegEnd [1, 1, 1, 1, 0]) (wLane id), by decide +kernel⟩

theorem wit_BallastAndMulticast_1 : ∃ s : State, ∃ d : Die, ∃ e : Eng, ∃ a : Arr,
    s.bel.stopped = false ∧ s.tablesOk ∧ 0 < s.bel.ballast ∧ s.ballastOk d e (arrNum a) = true :=
  ⟨{ wOn with bel := { Bellows.reset with ballast := 1 } }, 0, 0, .B, by decide +kernel⟩

theorem wit_BallastAndMulticast_2 : ∃ s : State, ∃ d : Die, ∃ e : Eng, ∃ lst : Fin 64, ∃ u : McUnit, ∃ us : List McUnit,
    s.bel.stopped = false ∧ s.tablesOk ∧ (s.engD d e).mcIn.get [] lst.val = u :: us ∧ s.mcNext d e lst.val = none ∧ (s.fabD d).disabled.contains lst.val = true :=
  ⟨{ wEng { wQueue [] with mcIn := ⟨[(63, [wMcUnit [(0, wTile)] 0])]⟩ } with fab := ⟨[(0, { FabDie.reset with disabled := [63] })]⟩ }, 0, 0, 63, wMcUnit [(0, wTile)] 0, [], by decide +kernel⟩

theorem wit_BallastAndMulticast_3 : ∃ s : State, ∃ d : Die, ∃ e : Eng, ∃ lst : Fin 64, ∃ u : McUnit, ∃ us : List McUnit, ∃ i : Nat, ∃ pos : Nat, ∃ j : Job,
    s.bel.stopped = false ∧ s.tablesOk ∧ (s.engD d e).mcIn.get [] lst.val = u :: us ∧ s.mcNext d e lst.val = some (i, pos) ∧ (s.engD d e).job? i = some j ∧ s.unitAddr j.mpd pos = u.addr ∧ (let v := { u with
      seq := j.mpd.seq, slot := (s.engD d e).mcCount.get 0 lst.val % mcDepth (s.mcastRec d (s.activeOf d) lst.val)
      tiles := u.tiles.filter fun q =>
        !(((j.lanes.filter fun l : LaneProg => l.stop ≠ 0).map LaneProg.lane).map j.place).contains q.1 };
    v.tiles ≠ []) :=
  ⟨wEng { wQueue [wJob (wBeg + wReuse) id] with mcIn := ⟨[(0, [wMcUnit [(0, wTile)] (tdPlane (wTd 8))])]⟩ }, 0, 0, 0, wMcUnit [(0, wTile)] (tdPlane (wTd 8)), [], 0, 0, wJob (wBeg + wReuse) id, by decide +kernel⟩

theorem wit_BallastAndMulticast_4 : ∃ s : State, ∃ d : Die, ∃ e : Eng, ∃ lst : Fin 64, ∃ u : McUnit, ∃ us : List McUnit, ∃ i : Nat, ∃ pos : Nat, ∃ j : Job,
    s.bel.stopped = false ∧ s.tablesOk ∧ (s.engD d e).mcIn.get [] lst.val = u :: us ∧ s.mcNext d e lst.val = some (i, pos) ∧ (s.engD d e).job? i = some j ∧ s.unitAddr j.mpd pos ≠ u.addr :=
  ⟨wEng { wQueue [wJob (wBeg + wReuse) id] with mcIn := ⟨[(0, [wMcUnit [(0, wTile)] 9])]⟩ }, 0, 0, 0, wMcUnit [(0, wTile)] 9, [], 0, 0, wJob (wBeg + wReuse) id, by decide +kernel⟩

theorem wit_BallastAndMulticast_5 : ∃ s : State, ∃ d : Die, ∃ e : Eng, ∃ lst : Fin 64, ∃ i : Nat, ∃ pos : Nat, ∃ who : Nat, ∃ j : Job,
    s.bel.stopped = false ∧ s.tablesOk ∧ s.mcWait d e lst.val = some (i, pos, who) ∧ s.rwAt (regAddr (Page.eng d e) 0x208) ≠ 0 ∧ (s.engD d e).job? i = some j :=
  ⟨wEngK 1 (wQueue [wJob (wBeg + wReuse) id]), 0, 1, 0, 0, 0, 0xFF, wJob (wBeg + wReuse) id, by decide +kernel⟩

theorem wit_ReedFirings_1 : ∃ s : State, ∃ d : Die, ∃ r : Reed,
    s.bel.stopped = false ∧ s.tablesOk ∧ (let s0 := s.loadLimits d r;
    (let rec0 := s0.recOf d r;
    (let x := (s0.fabD d).reed r;
    (let y := ((s0.body d r (rrMain rec0)).fabD d).reed r;
    rrKind rec0 = 1 ∧ armed rec0 x = true ∧ countersReady rec0 x = true ∧ s0.credit d r (rrMain rec0) 0 = true ∧ ((firingSet rec0).all fun p => (s0.portHead d r p).isSome) = true ∧ s0.lsPoison d r (rrMain rec0) = false)))) :=
  ⟨wReed [(0, 1)] id, 0, 0, by decide +kernel⟩

theorem wit_ReedFirings_2 : ∃ s : State, ∃ d : Die, ∃ r : Reed, ∃ c : Fin 4,
    s.bel.stopped = false ∧ s.tablesOk ∧ (let s0 := s.loadLimits d r;
    (let rec0 := s0.recOf d r;
    (let x := (s0.fabD d).reed r;
    hasCounters rec0 = true ∧ armed rec0 x = true ∧ (x.cnt c).due = true ∧ s0.credit d r (wrapBody rec0 c) (wrapTokens rec0 c) = true ∧ s0.lsPoison d r (wrapBody rec0 c) = false))) :=
  ⟨wReed [(0, 1), (24, 2)] (fun f => { f with reeds := ⟨[(0, { ReedRun.rest with cnts := ⟨[(0, ⟨2, none, true⟩)]⟩ })]⟩ }), 0, 0, 0, by decide +kernel⟩

theorem wit_ReedFirings_3 : ∃ s : State, ∃ d : Die, ∃ r : Reed, ∃ e : Entry, ∃ x : Entry,
    s.bel.stopped = false ∧ s.tablesOk ∧ (let s0 := s.loadLimits d r;
    (let rec0 := s0.recOf d r;
    (let y := (s0.fabD d).reed r;
    (let n := if rrKind rec0 = 2 then 1 else rrRun rec0;
    s0.portHead d r 6 = some e ∧ e.bits / 16 % 16 = 2 ∧ (rrKind rec0 = 2 ∨ rrKind rec0 = 3) ∧ e.bits % 16 < 4 ∧ rrVi rec0 (e.bits % 16) ≠ 0 ∧ s0.portHead d r (e.bits % 16) = some x ∧ s0.outCredit d r 7 ≠ 0 ∧ s0.steers d r = true)))) :=
  ⟨wReed [(0, 2), (8, 0x60), (12, 4), (20, 4 * 4096)] (wQs [(3, [wEnt 77]), (19, [wEnt 32])]), 0, 0, wEnt 32, wEnt 77, by decide +kernel⟩

theorem wit_ReedFirings_4 : ∃ s : State, ∃ d : Die, ∃ r : Reed, ∃ e : Entry, ∃ x : Entry,
    s.bel.stopped = false ∧ s.tablesOk ∧ (let s0 := s.loadLimits d r;
    (let rec0 := s0.recOf d r;
    (let y := (s0.fabD d).reed r;
    s0.portHead d r 6 = some e ∧ e.bits / 16 % 16 = 3 ∧ rrKind rec0 = 4 ∧ e.bits % 16 < 3 ∧ s0.portHead d r 0 = some x ∧ (e.bits % 16 < 2 → s0.outCredit d r (7 + e.bits % 16) ≠ 0) ∧ s0.steers d r = true))) :=
  ⟨wReed [(0, 4), (8, 0x60), (12, 4), (20, 4 * 4096)] (wQs [(3, [wEnt 77]), (19, [wEnt 48])]), 0, 0, wEnt 48, wEnt 77, by decide +kernel⟩

theorem wit_TokensAndRuns_1 : ∃ s : State, ∃ d : Die, ∃ r : Reed, ∃ e : Entry, ∃ c : Instr, ∃ kind : Nat,
    s.tablesOk ∧ (let rec0 := s.recOf d r;
    (let y := (s.fabD d).reed r;
    s.portHead d r 6 = some e ∧ rrGoReq rec0 = true ∧ e.bits % 16 = rrGoTag rec0 ∧ y.armed = false ∧ (c, kind) ∈ [(Instr.goToken d (.reed r), 1), (.endToken d (.reed r), 4), (.doneToken d (.reed r), 6)] ∧ e.bits / 16 % 16 = kind)) :=
  ⟨wReed [(0, 1 + 2 ^ 28), (4, 5), (20, 4 * 4096)] (wQs [(19, [wEnt 21])]), 0, 0, wEnt 21, .goToken 0 (.reed 0), 1, by decide +kernel⟩

theorem wit_TokensAndRuns_2 : ∃ s : State, ∃ d : Die, ∃ p : Sp, ∃ e : Entry, ∃ es : List Entry, ∃ c : Instr, ∃ kind : Nat,
    s.tablesOk ∧ (let r := s.spRec d (s.activeOf d) p;
    (let x := (s.fabD d).port p;
    ((s.fabD d).queue (spKey p 2)).items = e :: es ∧ e.bits % 16 = sprGoTag r ∧ sprDir r ≠ 0 ∧ x.go = false ∧ x.active = false ∧ (c, kind) ∈ [(Instr.goToken d (.port p), 1), (.endToken d (.port p), 4), (.doneToken d (.port p), 6)] ∧ e.bits / 16 % 16 = kind)) :=
  ⟨wPort [(0, 1 + 5 * 16)] (wQs [(spKey 0 2, [wEnt 21])]), 0, 0, wEnt 21, [], .goToken 0 (.port 0), 1, by decide +kernel⟩

theorem wit_TokensAndRuns_3 : ∃ s : State, ∃ d : Die, ∃ p : Cp, ∃ e : Entry, ∃ es : List Entry, ∃ c : Instr, ∃ kind : Nat,
    s.tablesOk ∧ ((s.fabD d).queue (cpKey p 2)).items = e :: es ∧ (c, kind) ∈ [(Instr.phaseToken d (.chanter p), 5), (.doneToken d (.chanter p), 6)] ∧ e.bits / 16 % 16 = kind :=
  ⟨wReed [] (wQs [(cpKey 0 2, [wEnt 0x61])]), 0, 0, wEnt 0x61, [], .doneToken 0 (.chanter 0), 6, by decide +kernel⟩

theorem wit_TokensAndRuns_4 : ∃ s : State, ∃ d : Die, ∃ r : Reed, ∃ e : Entry, ∃ c : Instr,
    s.tablesOk ∧ s.portHead d r 6 = some e ∧ (c = .goToken d (.reed r) ∧ e.bits / 16 % 16 = 1 ∧ (rrGoReq (s.recOf d r) = false ∨ e.bits % 16 ≠ rrGoTag (s.recOf d r)) ∨ c = .phaseToken d (.reed r) ∧ e.bits / 16 % 16 = 5) :=
  ⟨wReed [(0, 1), (20, 4 * 4096)] (wQs [(19, [wEnt 21])]), 0, 0, wEnt 21, .goToken 0 (.reed 0), by decide +kernel⟩

theorem wit_TokensAndRuns_5 : ∃ s : State, ∃ d : Die, ∃ p : Sp, ∃ w : Nat,
    s.bel.stopped = false ∧ s.tablesOk ∧ (let r := s.spRec d (s.activeOf d) p;
    (let x := (s.fabD d).port p;
    x.go = true ∧ x.active = false ∧ (s.fabD d).halted = false ∧ (s.fabD d).due = 0 ∧ s.ingBound d p = false ∧ s.kvBind d p = 0 ∧ (sprDir r = 1 ∨ sprDir r = 2) ∧ (if sprLive r then ((s.fabD d).queue (spKey p 1)).items.head?.map (·.bits) = some w else w = sprL2 r + 0xFFF * 2 ^ 20) ∧ bitsOf w 19 0 ≤ sprL2 r)) :=
  ⟨wPort [(0, 1 + 8), (24, 9)] (fun f => wQs [(spKey 0 1, [wEnt 9])] { f with ports := ⟨[(0, { SpRun.rest with go := true })]⟩ }), 0, 0, 9, by decide +kernel⟩

theorem wit_TokensAndRuns_6 : ∃ s : State, ∃ d : Die, ∃ p : Sp, ∃ w : Nat,
    s.bel.stopped = false ∧ s.tablesOk ∧ (let r := s.spRec d (s.activeOf d) p;
    (let x := (s.fabD d).port p;
    x.go = true ∧ x.active = false ∧ (s.fabD d).halted = false ∧ (s.fabD d).due = 0 ∧ s.ingBound d p = false ∧ s.kvBind d p = 0 ∧ (sprDir r = 1 ∨ sprDir r = 2) ∧ (if sprLive r then ((s.fabD d).queue (spKey p 1)).items.head?.map (·.bits) = some w else w = sprL2 r + 0xFFF * 2 ^ 20) ∧ sprL2 r < bitsOf w 19 0)) :=
  ⟨wPort [(0, 1 + 8), (24, 8)] (fun f => wQs [(spKey 0 1, [wEnt 9])] { f with ports := ⟨[(0, { SpRun.rest with go := true })]⟩ }), 0, 0, 9, by decide +kernel⟩

theorem wit_TokensAndRuns_7 : ∃ s : State, ∃ d : Die, ∃ p : Sp, ∃ run : Entry, ∃ word : Entry, ∃ rest : List Entry,
    s.bel.stopped = false ∧ s.tablesOk ∧ (let x := (s.fabD d).port p;
    x.go = true ∧ x.active = false ∧ (s.fabD d).halted = false ∧ (s.fabD d).due = 0 ∧ s.ingBound d p = false ∧ (s.kvBind d p = 1 ∨ s.kvBind d p = 2) ∧ ((s.fabD d).queue (spKey p 1)).items = run :: word :: rest ∧ bitsOf run.bits 19 0 ≤ sprL2 (s.spRec d (s.activeOf d) p)) :=
  ⟨{ wFab .running (fun f => wQs [(spKey 60 1, [wEnt 8, wEnt 2])] { f with ports := ⟨[(60, { SpRun.rest with go := true })]⟩ }) with shAct := ⟨[(kvReg 0 0x10, 1)]⟩, img := wSec 3 (64 * 61) [(64 * 60, 1 + 8), (64 * 60 + 24, 8)] }, 0, 60, wEnt 8, wEnt 2, [], by decide +kernel⟩

theorem wit_TokensAndRuns_8 : ∃ s : State, ∃ d : Die, ∃ p : Sp, ∃ run : Entry, ∃ word : Entry, ∃ rest : List Entry,
    s.bel.stopped = false ∧ s.tablesOk ∧ (let x := (s.fabD d).port p;
    x.go = true ∧ x.active = false ∧ (s.fabD d).halted = false ∧ (s.fabD d).due = 0 ∧ s.ingBound d p = false ∧ (s.kvBind d p = 1 ∨ s.kvBind d p = 2) ∧ ((s.fabD d).queue (spKey p 1)).items = run :: word :: rest ∧ sprL2 (s.spRec d (s.activeOf d) p) < bitsOf run.bits 19 0) :=
  ⟨{ wFab .running (fun f => wQs [(spKey 60 1, [wEnt 9, wEnt 2])] { f with ports := ⟨[(60, { SpRun.rest with go := true })]⟩ }) with shAct := ⟨[(kvReg 0 0x10, 1)]⟩, img := wSec 3 (64 * 61) [(64 * 60, 1 + 8), (64 * 60 + 24, 8)] }, 0, 60, wEnt 9, wEnt 2, [], by decide +kernel⟩

theorem wit_TokensAndRuns_9 : ∃ s : State, ∃ d : Die, ∃ p : Sp,
    s.bel.stopped = false ∧ s.tablesOk ∧ (let r := s.spRec d (s.activeOf d) p;
    (let x := (s.fabD d).port p;
    x.active = true ∧ s.runDone d p r x = true ∧ (sprDoneEn r = true → ((s.fabD d).queue (qKey (spReed p) (16 + spDir p))).items.length < 16))) :=
  ⟨wPort [(0, 1 + 2 ^ 12)] (fun f => { f with ports := ⟨[(0, { SpRun.rest with active := true })]⟩ }), 0, 0, by decide +kernel⟩

theorem wit_FabricStates_1 : ∃ s : State, ∃ d : Die, ∃ r : Reed,
    s.bel.stopped = false ∧ s.tablesOk ∧ s.wdEn d = true ∧ s.wdLimit d ≠ 0 ∧ (s.wdArm d).testBit (rrGroup (s.recOf d r)) = true ∧ (s.stall d r).1 ≠ 0 :=
  ⟨{ wReed [(0, 2), (12, 4), (20, 4 * 4096)] (wQs [(19, [wEnt 32])]) with rw := ⟨[(regAddr (Page.fab 0) 0x104, 1), (regAddr (Page.fab 0) 0x110, 100), (regAddr (Page.fab 0) 0x114, 1)]⟩ }, 0, 0, by decide +kernel⟩

theorem wit_FabricStates_2 : ∃ s : State, ∃ d : Die,
    s.bel.stopped = false ∧ s.tablesOk ∧ (s.fabD d).shadow = 2 :=
  ⟨wFab .running (fun f => { f with shadow := 2 }), 0, by decide +kernel⟩

theorem wit_FabricStates_3 : ∃ s : State, ∃ d : Die,
    s.bel.stopped = false ∧ s.tablesOk ∧ (s.fabD d).due = 1 ∧ s.sealFirst = false :=
  ⟨wFab .running (fun f => { f with due := 1 }), 0, by decide +kernel⟩

theorem wit_FabricStates_4 : ∃ s : State, ∃ d : Die,
    s.bel.stopped = false ∧ s.tablesOk ∧ (s.fabD d).due = 2 ∧ s.sealFirst = false :=
  ⟨wFab .running (fun f => { f with due := 2 }), 0, by decide +kernel⟩

theorem wit_FabricStates_5 : ∃ s : State, ∃ images : List (Die × List Byte),
    s.tablesOk ∧ s.ctl.state = .running ∧ 1 < s.rotCount ∧ s.rotPeriod ≤ s.bel.rotSeals :=
  ⟨{ wDev .running with rw := ⟨[(regAddr Page.bellows 0x120, 0x12)]⟩, bel := { Bellows.reset with rotSeals := 1 } }, [], by decide +kernel⟩

theorem wit_ChanterPrograms_1 : ∃ s : State, ∃ d : Die,
    s.tablesOk ∧ s.ctl.state = .running ∧ s.ctl.stepDue = 0 ∧ (s.chD d).inStep = false ∧ (s.chD d).abandoned = false ∧ (s.fabD d).due = 0 ∧ (s.fabD d).placed = true :=
  ⟨wProg [] fun _ => ChDie.reset, 0, by decide +kernel⟩

theorem wit_ChanterPrograms_2 : ∃ s : State, ∃ d : Die, ∃ u0 : List Nat, ∃ entry : Nat,
    s.tablesOk ∧ s.mayIssue d = true ∧ (s.chD d).start = none ∧ (s.chD d).started = true ∧ (s.chD d).fwd = none ∧ ((s.chD d).holds.any fun h => h.past.isSome) = false ∧ (s.stage d ≠ 0 ∨ (s.chD d).formed ≠ []) ∧ s.nextForward d = some (u0, entry) ∧ (let u := if (s.chD d).dropped.contains (urMb u0) && !urDropped u0 then zeroRecord u0 else u0;
    s.admits d (s.chD d).fwdNext (urSegCount u) = true ∧ (s.chD d).isHeld (urMb u) = false) :=
  ⟨wProg [] fun c => { c with formed := [unitRecord 3 0 1 0 0 0 [16]] }, 0, unitRecord 3 0 1 0 0 0 [16], 0, by decide +kernel⟩

theorem wit_ChanterPrograms_3 : ∃ s : State, ∃ d : Die,
    s.tablesOk ∧ s.mayIssue d = true ∧ (s.chD d).start = none ∧ (s.chD d).started = true ∧ (s.chD d).bwd = none ∧ (let k := (s.chD d).backAt (s.chD d).bwdNext;
    (let u := (s.chD d).unit k;
    u.info ≠ [] ∧ u.fwd = true ∧ u.bwd = false ∧ (s.chD d).isHeld (urMb u.info) = false ∧ (s.stagesOf d (s.activeOf d) ≤ s.stage d + 1 ∨ ((s.chD d).entryOf true k).isSome = true))) :=
  ⟨wProg [] fun c => { c with units := ⟨[(0, { wUnit with fwd := true })]⟩ }, 0, by decide +kernel⟩

theorem wit_ChanterPrograms_4 : ∃ s : State, ∃ d : Die, ∃ p : Phase, ∃ r : PhaseRun,
    s.tablesOk ∧ s.atOp d p r 1 ∧ (let w := s.opAt d (s.activeOf d) r.pc;
    (let rec0 := s.issueRec d (s.activeOf d) w;
    (let u := ((s.chD d).unit r.unit).info;
    (s.engD d (opTarget w)).offer = []))) :=
  ⟨wFwdAt [1 + 35 * 16, 128, 0] id, 0, .forward, wAt 0, by decide +kernel⟩

theorem wit_ChanterPrograms_5 : ∃ s : State, ∃ d : Die, ∃ p : Phase, ∃ r : PhaseRun,
    s.tablesOk ∧ s.atOp d p r 2 :=
  ⟨wFwdAt [2 + 35 * 16 + 1024, 0, 0] id, 0, .forward, wAt 0, by decide +kernel⟩

theorem wit_ChanterPrograms_6 : ∃ s : State, ∃ d : Die, ∃ p : Phase, ∃ r : PhaseRun,
    s.tablesOk ∧ s.atOp d p r 3 ∧ (let w := s.opAt d (s.activeOf d) r.pc;
    (let k := qKey (cpReed (opTarget w)) 16;
    ((s.fabD d).queue k).items.length < 16)) :=
  ⟨wFwdAt [3 + 15 * 16 + 5 * 1024, 0, 0] id, 0, .forward, wAt 0, by decide +kernel⟩

theorem wit_ChanterPrograms_7 : ∃ s : State, ∃ d : Die, ∃ p : Phase, ∃ r : PhaseRun,
    s.tablesOk ∧ s.atOp d p r 4 ∧ (let w := s.opAt d (s.activeOf d) r.pc;
    (let k := qKey (cpReed (opTarget w)) 8;
    (let v := ((s.chD d).unit r.unit).info;
    ((s.fabD d).queue k).items.length < 8 ∧ opArg w ≤ 2))) :=
  ⟨wFwdAt [4 + 15 * 16, 2, 0] id, 0, .forward, wAt 0, by decide +kernel⟩

theorem wit_ChanterPrograms_8 : ∃ s : State, ∃ d : Die, ∃ p : Phase, ∃ r : PhaseRun,
    s.tablesOk ∧ s.atOp d p r 5 ∧ (let w := s.opAt d (s.activeOf d) r.pc;
    opArg w = 0 ∧ (opTarget w, 0x60 + opSel w) ∈ (s.fabD d).tokens) :=
  ⟨{ wFwdAt [5 + 2 * 16 + 3 * 1024, 0, 0] id with fab := ⟨[(0, { FabDie.reset with placed := true, tokens := [(1, 0x63), (2, 0x63)] })]⟩ }, 0, .forward, wAt 0, by decide +kernel⟩

theorem wit_ChanterPrograms_9 : ∃ s : State, ∃ d : Die, ∃ p : Phase, ∃ r : PhaseRun,
    s.tablesOk ∧ s.atOp d p r 5 ∧ (let w := s.opAt d (s.activeOf d) r.pc;
    opArg w ≠ 0 ∧ ((s.chD d).offers.any fun q => q.eng = opTarget w) = false ∧ (s.engD d (opTarget w)).offer = []) :=
  ⟨wFwdAt [5 + 2 * 16, 1, 0] id, 0, .forward, wAt 0, by decide +kernel⟩

theorem wit_ChanterPrograms_10 : ∃ s : State, ∃ d : Die, ∃ p : Phase, ∃ r : PhaseRun,
    s.tablesOk ∧ s.atOp d p r 6 :=
  ⟨wStartAt [6, 0xFF, 0], 0, .start, wAt noUnit, by decide +kernel⟩

theorem wit_ChanterPrograms_11 : ∃ s : State, ∃ d : Die, ∃ p : Phase, ∃ r : PhaseRun,
    s.bel.stopped = false ∧ s.tablesOk ∧ s.atOp d p r 7 ∧ (let w := s.opAt d (s.activeOf d) r.pc;
    (let u := ((s.chD d).unit r.unit).info;
    ((opArg w = 1 ∧ s.stage d = 0) ∨ (opArg w ≠ 1 ∧ s.stagesOf d (s.activeOf d) ≤ s.stage d + 1)))) :=
  ⟨wFwdAt [7, 0, 0] id, 0, .forward, wAt 0, by decide +kernel⟩

theorem wit_ChanterPrograms_12 : ∃ s : State, ∃ d : Die, ∃ p : Phase, ∃ r : PhaseRun, ∃ n : Nat,
    s.bel.stopped = false ∧ s.tablesOk ∧ s.atOp d p r 7 ∧ (let w := s.opAt d (s.activeOf d) r.pc;
    (let u := ((s.chD d).unit r.unit).info;
    opArg w ≠ 1 ∧ s.stage d + 1 < s.stagesOf d (s.activeOf d) ∧ s.dieOfStage (s.stage d + 1) = some n ∧ (s.chD n).ringUsed.get 0 0 < s.bndDepth n (s.activeOf n))) :=
  ⟨{ wStages (wFwdAt [7, 0, 0] id) 0 with ch := ⟨[(0, (wStages (wFwdAt [7, 0, 0] id) 0).chD 0), (1, { ChDie.reset with stageOff := 1 })]⟩, img := ⟨(wStages (wFwdAt [7, 0, 0] id) 0).img.cells ++ [(2 ^ 26 + 64 + 8 * 8 + 1, 4), (2 ^ 26 + 68 + 8 * 8 + 1, 16), (2 ^ 26 + 1024 + 14, 64)]⟩ }, 0, .forward, wAt 0, 1, by decide +kernel⟩

theorem wit_ChanterPrograms_13 : ∃ s : State, ∃ d : Die, ∃ p : Phase, ∃ r : PhaseRun, ∃ n : Nat,
    s.bel.stopped = false ∧ s.tablesOk ∧ s.atOp d p r 7 ∧ (let w := s.opAt d (s.activeOf d) r.pc;
    (let u := ((s.chD d).unit r.unit).info;
    opArg w = 1 ∧ s.stage d ≠ 0 ∧ s.dieOfStage (s.stage d - 1) = some n ∧ (s.chD n).ringUsed.get 0 1 < s.bndDepth n (s.activeOf n))) :=
  ⟨{ wStages (wBwdAt [7, 1, 0] id) 1 with ch := ⟨[(0, (wStages (wBwdAt [7, 1, 0] id) 1).chD 0), (1, { ChDie.reset with stageOff := 0 })]⟩, img := ⟨(wStages (wBwdAt [7, 1, 0] id) 1).img.cells ++ [(2 ^ 26 + 64 + 8 * 8 + 1, 4), (2 ^ 26 + 68 + 8 * 8 + 1, 16), (2 ^ 26 + 1024 + 14, 64)]⟩ }, 0, .backward, wAt 0, 1, by decide +kernel⟩

theorem wit_ChanterPrograms_14 : ∃ s : State, ∃ d : Die, ∃ p : Phase, ∃ r : PhaseRun, ∃ k : Nat,
    s.bel.stopped = false ∧ s.tablesOk ∧ s.atOp d p r 7 ∧ (let w := s.opAt d (s.activeOf d) r.pc;
    (let u := ((s.chD d).unit r.unit).info;
    ((opArg w ≠ 1 ∧ s.stage d + 1 < s.stagesOf d (s.activeOf d) ∧ s.dieOfStage (s.stage d + 1) = none) ∨ (opArg w = 1 ∧ s.stage d ≠ 0 ∧ s.dieOfStage (s.stage d - 1) = none)) ∧ (s.conduitsOn 3)[s.choose (s.conduitsOn 3).length]? = some k ∧ (s.cnd k).free.contains (s.cnd k).next = true)) :=
  ⟨{ wStages (wFwdAt [7, 0, 0] id) 0 with shAct := ⟨[(winConduit 0 0, 1 + 3 * 2)]⟩, col := { Coll.reset with conduits := ⟨[(0, { Conduit.none with free := [0] })]⟩ } }, 0, .forward, wAt 0, 0, by decide +kernel, by decide +kernel, by decide +kernel, by decide +kernel, one_choice (by decide +kernel), by decide +kernel⟩

theorem wit_ChanterPrograms_15 : ∃ s : State, ∃ d : Die, ∃ p : Phase, ∃ r : PhaseRun,
    s.tablesOk ∧ s.atOp d p r 8 ∧ (let w := s.opAt d (s.activeOf d) r.pc;
    (let u := (s.chD d).unit r.unit;
    ((opArg w = 0 ∧ u.finB ≠ 0) ∨ (opArg w = 1 ∧ u.binB ≠ 0) ∨ (2 ≤ opArg w ∧ s.stage d = 0 ∧ r.unit ≠ noUnit)))) :=
  ⟨wFwdAt [8, 0, 0] (fun c => { c with units := ⟨[(0, { wUnit with finB := 1 })]⟩ }), 0, .forward, wAt 0, by decide +kernel⟩

theorem wit_ChanterPrograms_16 : ∃ s : State, ∃ d : Die, ∃ p : Phase, ∃ r : PhaseRun,
    s.tablesOk ∧ s.atOp d p r 9 ∧ (let l := opLayer (s.opAt d (s.activeOf d) r.pc);
    ((s.chD d).offers.any fun q => q.layer = some l) = false ∧ s.offering d l = false) :=
  ⟨wBwdAt [9, 0, 0] id, 0, .backward, wAt 0, by decide +kernel⟩

theorem wit_ChanterPrograms_17 : ∃ s : State, ∃ d : Die, ∃ r : PhaseRun,
    s.tablesOk ∧ s.atOp d .start r 15 :=
  ⟨wStartAt [15, 0, 0], 0, wAt noUnit, by decide +kernel⟩

theorem wit_ChanterPrograms_18 : ∃ s : State, ∃ d : Die, ∃ r : PhaseRun,
    s.tablesOk ∧ s.atOp d .forward r 15 :=
  ⟨wFwdAt [15, 0, 0] id, 0, wAt 0, by decide +kernel⟩

theorem wit_ChanterPrograms_19 : ∃ s : State, ∃ d : Die, ∃ r : PhaseRun,
    s.tablesOk ∧ s.atOp d .backward r 15 :=
  ⟨wBwdAt [15, 0, 0] id, 0, wAt 0, by decide +kernel⟩

theorem wit_HoldsAndNotices_1 : ∃ s : State, ∃ d : Die, ∃ h : Hold, ∃ c : Instr,
    s.tablesOk ∧ (c = .drop d ∧ (s.chD d).holds.head? = some h ∨ c = .holdLimitExpiry d ∧ fld (s.rwAt (regAddr (Page.die d) 0x10C)) 15 0 ≠ 0 ∧ ((s.chD d).holds.find? fun h => decide (h.since + fld (s.rwAt (regAddr (Page.die d) 0x10C)) 15 0 ≤ s.cad.tickNo)) = some h) :=
  ⟨wProg [] fun c => { c with holds := [wHold] }, 0, wHold, .drop 0, by decide +kernel, Or.inl ⟨rfl, by decide +kernel⟩⟩

theorem wit_HoldsAndNotices_2 : ∃ s : State, ∃ d : Die,
    s.tablesOk ∧ ((s.chD d).inStep = true ∨ (s.ctl.state = .running ∧ s.ctl.stepDue = 0)) ∧ (s.chD d).stopped = false :=
  ⟨wProg [] fun c => { c with holds := [wHold] }, 0, by decide +kernel⟩

theorem wit_HoldsAndNotices_3 : ∃ s : State, ∃ d : Die, ∃ n : Notice, ∃ s1 : State,
    s.bel.stopped = false ∧ s.tablesOk ∧ s.takeNotice .nextComplete d = some (n, s1) :=
  ⟨wNoted .nextComplete, 0, wNote .nextComplete, { wNoted .nextComplete with spine := Spine.reset }, by decide +kernel⟩

theorem wit_HoldsAndNotices_4 : ∃ s : State, ∃ d : Die, ∃ n : Notice, ∃ s1 : State,
    s.tablesOk ∧ s.takeNotice .revert d = some (n, s1) :=
  ⟨wNoted .revert, 0, wNote .revert, { wNoted .revert with spine := Spine.reset }, by decide +kernel⟩

theorem wit_HoldsAndNotices_5 : ∃ s : State, ∃ d : Die, ∃ v : Word,
    (let e := (s.levSel d).1;
    e < s.leaven.count.get 0 d ∧ levW0Ok v.toNat = true) :=
  ⟨{ wDev .ready with leaven := { (wDev .ready).leaven with count := ⟨[(0, 2)]⟩ }, rw := ⟨[]⟩ }, 0, 0x40000000, by decide +kernel⟩

theorem wit_HoldsAndNotices_6 : ∃ s : State, ∃ d : Die, ∃ v : Word,
    (let e := (s.levSel d).1;
    (s.leaven.count.get 0 d ≤ e ∨ levW0Ok v.toNat = false)) :=
  ⟨{ wDev .ready with leaven := { (wDev .ready).leaven with count := ⟨[(0, 2)]⟩ }, rw := ⟨[]⟩ }, 0, 0x000000F0, by decide +kernel⟩

theorem wit_ProoferWork_1 : ∃ s : State, ∃ p : Prf, ∃ a : Arrival,
    s.bel.stopped = false ∧ s.tablesOk ∧ (s.spine.arrivals.find? fun a => a.prf = p.val) = some a ∧ (let x := s.prfP p;
    x.noRoom a.bytes.length = true) :=
  ⟨wArrive (wWrite wArrBase (List.replicate 4194305 0) false) fun x => { x with ready := List.replicate 192 { wGrad with g := [0] } }, 0, wWrite wArrBase (List.replicate 4194305 0) false, by decide +kernel, by decide +kernel, rfl, by rw [show (wWrite wArrBase (List.replicate 4194305 0) false).bytes.length = 4194305 from List.length_replicate]; decide +kernel⟩

theorem wit_ProoferWork_2 : ∃ s : State, ∃ p : Prf, ∃ a : Arrival,
    s.bel.stopped = false ∧ s.tablesOk ∧ (s.spine.arrivals.find? fun a => a.prf = p.val) = some a ∧ (let x := s.prfP p;
    x.noRoom a.bytes.length = false ∧ a.hdr = true) :=
  ⟨wArrive (wRow true) id, 0, wRow true, by decide +kernel⟩

theorem wit_ProoferWork_3 : ∃ s : State, ∃ p : Prf, ∃ a : Arrival, ∃ q : Nat, ∃ o : Nat,
    s.bel.stopped = false ∧ s.tablesOk ∧ (s.spine.arrivals.find? fun a => a.prf = p.val) = some a ∧ (let x := s.prfP p;
    x.noRoom a.bytes.length = false ∧ a.hdr = false ∧ regionOf a.addr = .arrival q o ∧ winKind o = false ∧ (let t0 := s.tt p (winEntry o);
    (let i := winByte o / 2;
    (let es := ((List.range (a.bytes.length / 2)).map fun j => leAt a.bytes (2 * j) 2).take (needElems t0 (winChunk o) - i);
    (let h := x.hdrs.get (0, 2 ^ 32) a.port;
    ttValid t0 = true ∧ x.idle = false ∧ winChunk o ∈ ttServed t0 p ∧ es ≠ [] ∧ h.2 < 2 ^ 32))))) :=
  ⟨wArrive (wRow false) id, 0, wRow false, 0, 0, by decide +kernel⟩

theorem wit_ProoferWork_4 : ∃ s : State, ∃ p : Prf, ∃ a : Arrival, ∃ q : Nat, ∃ o : Nat,
    s.bel.stopped = false ∧ s.tablesOk ∧ (s.spine.arrivals.find? fun a => a.prf = p.val) = some a ∧ (let x := s.prfP p;
    x.noRoom a.bytes.length = false ∧ a.hdr = false ∧ regionOf a.addr = .arrival q o ∧ winKind o = true ∧ (let t0 := s.tt p (winEntry o);
    (let i := winByte o / 4;
    (let es := ((List.range (a.bytes.length / 4)).map fun j => leAt a.bytes (4 * j) 4).take (ttWidth t0 - i);
    (let same := fun k : Contribution => decide (k.entry = winEntry o ∧ k.chunk = winChunk o ∧ k.src = a.port);
    (let l := joinParts same
        { entry := winEntry o, chunk := winChunk o, mb := 0, step := 0, src := a.port, parts := .empty } i es x.incoming;
    ttValid t0 = true ∧ winChunk o ∈ ttServed t0 p ∧ es ≠ [] ∧ (∀ k ∈ l, same k = true → k.has (ttWidth t0) = false))))))) :=
  ⟨wArrive (wWrite (wArrBase + 2 ^ 41) (List.replicate 64 0) false) id, 0, (wWrite (wArrBase + 2 ^ 41) (List.replicate 64 0) false), 0, 2 ^ 41, by decide +kernel⟩

theorem wit_ProoferWork_5 : ∃ s : State, ∃ p : Prf, ∃ a : Arrival, ∃ q : Nat, ∃ o : Nat, ∃ k : Contribution,
    s.bel.stopped = false ∧ s.tablesOk ∧ (s.spine.arrivals.find? fun a => a.prf = p.val) = some a ∧ (let x := s.prfP p;
    x.noRoom a.bytes.length = false ∧ a.hdr = false ∧ regionOf a.addr = .arrival q o ∧ winKind o = true ∧ (let t0 := s.tt p (winEntry o);
    (let i := winByte o / 4;
    (let es := ((List.range (a.bytes.length / 4)).map fun j => leAt a.bytes (4 * j) 4).take (ttWidth t0 - i);
    (let same := fun k : Contribution => decide (k.entry = winEntry o ∧ k.chunk = winChunk o ∧ k.src = a.port);
    (let l := joinParts same
        { entry := winEntry o, chunk := winChunk o, mb := 0, step := 0, src := a.port, parts := .empty } i es x.incoming;
    ttValid t0 = true ∧ winChunk o ∈ ttServed t0 p ∧ es ≠ [] ∧ (l.find? fun k => same k && k.has (ttWidth t0)) = some k)))))) :=
  ⟨wArrive (wWrite (wArrBase + 2 ^ 41 + 64) (List.replicate 64 0) false) fun x => { x with incoming := [{ wContr ⟨(List.range 16).map fun i => (i, 0)⟩ with mb := 0, step := 0 }] }, 0, (wWrite (wArrBase + 2 ^ 41 + 64) (List.replicate 64 0) false), 0, 2 ^ 41 + 64, Contribution.put { wContr ⟨(List.range 16).map fun i => (i, 0)⟩ with mb := 0, step := 0 } 16 (List.replicate 16 0), by decide +kernel⟩

theorem wit_ProoferWork_6 : ∃ s : State, ∃ p : Prf, ∃ k : Contribution,
    s.bel.stopped = false ∧ s.tablesOk ∧ s.firstComplete p = some k :=
  ⟨wPrf fun x => { x with park := [wContr ⟨(List.range 32).map fun i => (i, 0)⟩] }, 0, wContr ⟨(List.range 32).map fun i => (i, 0)⟩, by decide +kernel⟩

theorem wit_ProoferWork_7 : ∃ s : State, ∃ p : Prf, ∃ e : Delivery,
    s.bel.stopped = false ∧ s.tablesOk ∧ (s.spine.deliveries.find? fun e => e.prf = p.val) = some e ∧ (let x := s.prfP p;
    (let c := x.chunk (chunkKey e.entry e.chunk);
    x.idle = false ∧ c.done = false ∧ (let n := 4 * e.g.length;
    (let g : Grad := ⟨e.entry, e.chunk, e.g, c.bad || e.poison, e.absent⟩;
    (let slots := x.park.length + x.readySlots;
    sumSlots ≤ slots ∧ parkBytes < x.parkUsed + n))))) :=
  ⟨{ wPrf (fun x => { x with ready := List.replicate 192 { wGrad with g := [0] } }) with spine := { Spine.reset with deliveries := [wBigDelivery] } }, 0, wBigDelivery, by decide +kernel, by decide +kernel, List.find?_cons_of_pos (by decide), by decide +kernel, by decide +kernel, by decide +kernel, by show parkBytes < _ + 4 * wBigDelivery.g.length; rw [wBig_len]; exact Nat.lt_of_lt_of_le (by decide) (Nat.le_add_left _ _)⟩

theorem wit_ProoferWork_8 : ∃ s : State, ∃ p : Prf, ∃ e : Delivery,
    s.bel.stopped = false ∧ s.tablesOk ∧ (s.spine.deliveries.find? fun e => e.prf = p.val) = some e ∧ (let x := s.prfP p;
    (let c := x.chunk (chunkKey e.entry e.chunk);
    x.idle = false ∧ c.done = false ∧ (let n := 4 * e.g.length;
    (let g : Grad := ⟨e.entry, e.chunk, e.g, c.bad || e.poison, e.absent⟩;
    (let slots := x.park.length + x.readySlots;
    (slots < sumSlots ∨ x.parkUsed + n ≤ parkBytes)))))) :=
  ⟨{ wPrf id with spine := { Spine.reset with deliveries := [wDelivery] } }, 0, wDelivery, by decide +kernel⟩

theorem wit_ProoferWork_9 : ∃ s : State, ∃ p : Prf, ∃ k : Nat,
    s.bel.stopped = false ∧ s.tablesOk ∧ s.prefetchNext p = some k ∧ s.cacheUsed p + ttRecBytes (s.tt p (k / 32768)) ≤ cacheBytes :=
  ⟨wPrf fun x => { x with ready := [wGrad] }, 0, 0, by decide +kernel⟩

theorem wit_ProoferWork_10 : ∃ s : State, ∃ p : Prf, ∃ g : Grad,
    s.bel.stopped = false ∧ s.tablesOk ∧ (s.prfP p).abandoned = false ∧ (s.prfP p).idle = false ∧ (s.prfP p).ready.find? (s.applicable p) = some g :=
  ⟨wPrf fun x => { x with ready := [wGrad], cached := [0] }, 0, wGrad, by decide +kernel⟩

theorem wit_ProoferWork_11 : ∃ s : State, ∃ p : Prf, ∃ l : Nat,
    s.bel.stopped = false ∧ s.tablesOk ∧ ((((s.entries p).map fun i => ttLayer (s.tt p i)).eraseDups).find? fun l => !(s.prfP p).notified.contains l && !s.layerIsFrozen p l && s.layerCopied p l) = some l ∧ s.ctl.state = .running ∧ s.ctl.stepDue = 0 ∧ (s.prfP p).abandoned = false :=
  ⟨wPrf fun x => { x with chunks := ⟨[(0, { ChunkRun.none with copied := true })]⟩ }, 0, 0, by decide +kernel⟩

theorem wit_ProoferWork_12 : ∃ s : State, ∃ p : Prf, ∃ n : Notice, ∃ s1 : State,
    s.bel.stopped = false ∧ s.tablesOk ∧ s.takeNotice .segment p = some (n, s1) :=
  ⟨wNoted .segment, 0, wNote .segment, { wNoted .segment with spine := Spine.reset }, by decide +kernel⟩

theorem wit_ProoferWork_13 : ∃ s : State, ∃ p : Prf, ∃ n : Notice, ∃ s1 : State,
    s.bel.stopped = false ∧ s.tablesOk ∧ s.takeNotice .poison p = some (n, s1) :=
  ⟨wNoted .poison, 0, wNote .poison, { wNoted .poison with spine := Spine.reset }, by decide +kernel⟩

theorem wit_ProoferWork_14 : ∃ s : State, ∃ p : Prf, ∃ n : Notice, ∃ s1 : State,
    s.bel.stopped = false ∧ s.tablesOk ∧ s.takeNotice .release p = some (n, s1) :=
  ⟨wNoted .release, 0, wNote .release, { wNoted .release with spine := Spine.reset }, by decide +kernel⟩

theorem wit_ProoferWork_15 : ∃ s : State, ∃ p : Prf, ∃ n : Notice, ∃ s1 : State,
    s.bel.stopped = false ∧ s.tablesOk ∧ s.takeNotice .abandon p = some (n, s1) :=
  ⟨wNoted .abandon, 0, wNote .abandon, { wNoted .abandon with spine := Spine.reset }, by decide +kernel⟩

theorem wit_SealAndCheckpoints_1 : ∃ s : State,
    s.tablesOk ∧ s.spine.sealing = false ∧ s.ctl.state = .running ∧ s.spine.sealDue = true ∧ s.inGroup = false ∧ (∀ p, p < 8 → s.sealedCommit p = false) ∧ (s.spine.notices.any fun n => n.kind = .revert) = false ∧ s.spine.exporting = none ∧ s.spine.decided = none ∧ (∀ p, p < 8 → ∀ i ∈ s.entries p, ∀ c ∈ s.shardChunks p i, s.poisonedAt (ttHdrAddr (s.tt p i) (s.writeBank p i) c) 64 = false) :=
  ⟨wSpine .running (fun x => { x with sealDue := true }), by decide +kernel, by decide +kernel, by decide +kernel, by decide +kernel, by decide +kernel, by decide +kernel, by decide +kernel, by decide +kernel, by decide +kernel, fun p hp i hi => by rw [entries_none (by decide +kernel) p hp] at hi; cases hi⟩

theorem wit_SealAndCheckpoints_2 : ∃ s : State, ∃ e : Export,
    s.tablesOk ∧ s.spine.sealing = false ∧ s.ctl.state = .running ∧ s.spine.sealDue = true ∧ s.spine.exporting = some e ∧ s.spine.decided = none ∧ (∀ p, p < 8 → s.sealedCommit p = false) :=
  ⟨wSpine .running (fun x => { x with sealDue := true, exporting := some (wExp true none) }), wExp true none, by decide +kernel⟩

theorem wit_SealAndCheckpoints_3 : ∃ s : State, ∃ m : SealMsg,
    s.ctl.state = .running ∧ s.inGroup = true ∧ m.member < s.replicas 0 ∧ m.member ≠ s.replicaId 0 ∧ (s.spine.sealIn.any fun x => x.member = m.member) = false ∧ s.spine.sealing = false :=
  ⟨wGroup, wSealMsg, by decide +kernel⟩

theorem wit_SealAndCheckpoints_4 : ∃ s : State, ∃ m : SealMsg,
    s.ctl.state = .running ∧ s.inGroup = true ∧ m.member < s.replicas 0 ∧ m.member ≠ s.replicaId 0 ∧ (s.spine.sealIn.any fun x => x.member = m.member) = true :=
  ⟨wSpineAt wGroup fun x => { x with sealIn := [wSealMsg] }, wSealMsg, by decide +kernel⟩

theorem wit_SealAndCheckpoints_5 : ∃ s : State, ∃ p : Prf, ∃ i : Fin 1024, ∃ chunks : List ShardChunk, ∃ rep : LevCounts, ∃ q : Nat × Nat,
    s.tablesOk ∧ (p.val, i.val) ∈ s.spine.adopting ∧ q ∈ s.spine.adopting ∧ q ≠ (p.val, i.val) ∧ s.spine.sealing = true ∧ s.spine.compared = true ∧ s.spine.decided = none ∧ s.spine.exporting = none ∧ s.stepAbandoned = false ∧ s.inGroup = true :=
  ⟨wSpineAt wGroup fun x => { x with adopting := [(0, 0), (0, 1)], sealing := true, compared := true }, 0, 0, [], ⟨0, 0, 0, 0, 0⟩, (0, 1), by decide +kernel⟩

theorem wit_SealAndCheckpoints_6 : ∃ s : State, ∃ h : Hdr, ∃ a : CkptArgs,
    s.accepts h 0x0040 s.isSealed = true ∧ a.tensorLo ≤ a.tensorHi ∧ s.bulkConduit a.conduit = true :=
  ⟨wSealed .ready, wH, { tensorLo := 1, tensorHi := 1, incremental := false, baseUpd := 0, conduit := none }, by decide +kernel⟩

theorem wit_SealAndCheckpoints_7 : ∃ s : State, ∃ h : Hdr, ∃ k : Option (Fin 32),
    s.accepts h 0x0041 s.isSealed = true ∧ s.bulkConduit k = true :=
  ⟨wSealed .ready, wH, none, by decide +kernel⟩

theorem wit_SealAndCheckpoints_8 : ∃ s : State, ∃ h : Hdr,
    s.accepts h 0x0042 s.isSealed = true :=
  ⟨wExporting true (wSealed .ready), wH, by decide +kernel⟩

theorem wit_SealAndCheckpoints_9 : ∃ s : State, ∃ e : Export,
    s.bel.stopped = false ∧ s.memOk ∧ s.tablesOk ∧ s.spine.exporting = some e ∧ (let l := s.chunkList.drop e.next;
    (let skip := (l.takeWhile fun q => !s.exports e q).length;
    (let fits := fun (bs : List Byte) => e.conduit.isSome ∨ s.portHolds bs.length = false;
    e.begun = false ∧ fits (s.runFrameBytes e)))) :=
  ⟨wExporting false (wSealed .ready), wExp false none, by decide +kernel⟩

theorem wit_SealAndCheckpoints_10 : ∃ s : State, ∃ e : Export, ∃ q : Nat × Nat × Nat,
    s.bel.stopped = false ∧ s.memOk ∧ s.tablesOk ∧ s.spine.exporting = some e ∧ (let l := s.chunkList.drop e.next;
    (let skip := (l.takeWhile fun q => !s.exports e q).length;
    (let fits := fun (bs : List Byte) => e.conduit.isSome ∨ s.portHolds bs.length = false;
    e.begun = true ∧ (l.drop skip).head? = some q ∧ fits (s.chunkFrame e q)))) :=
  ⟨wExporting true (wPrf id), wExp true none, (0, 0, 0), by decide +kernel⟩

theorem wit_SealAndCheckpoints_11 : ∃ s : State, ∃ e : Export,
    s.bel.stopped = false ∧ s.memOk ∧ s.tablesOk ∧ s.spine.exporting = some e ∧ (let l := s.chunkList.drop e.next;
    (let skip := (l.takeWhile fun q => !s.exports e q).length;
    (let fits := fun (bs : List Byte) => e.conduit.isSome ∨ s.portHolds bs.length = false;
    (let last := frameBytes 1 0 0 0 s.exportUpd (e.base.getD 0) 0 [] false;
    e.begun = true ∧ (l.drop skip).head? = none ∧ fits last)))) :=
  ⟨wExportTo (wSealed .ready), wExp true (some 0), by decide +kernel, by decide +kernel, by decide +kernel, by decide +kernel, by decide +kernel, by rw [chunks_none (s := wExportTo (wSealed .ready)) (by decide +kernel)]; rfl, Or.inl rfl⟩

theorem wit_SealAndCheckpoints_12 : ∃ s : State, ∃ f : CkFrame,
    s.bel.stopped = false ∧ s.spine.importing = true ∧ s.importGap f = true :=
  ⟨wImp (wSealed .ready), ⟨64, List.replicate 64 1⟩, by decide +kernel⟩

theorem wit_SealAndCheckpoints_13 : ∃ s : State, ∃ f : CkFrame,
    s.bel.stopped = false ∧ s.tablesOk ∧ s.spine.importing = true ∧ s.importGap f = false ∧ s.importNext f = true ∧ (let bytes := f.bytes;
    (let w := fun i => leAt bytes (4 * i) 4;
    (let kind := bitsOf (w 1) 17 16;
    (let sum := crc64 (bytes.take 40 ++ List.replicate 8 0 ++ bytes.drop 48);
    64 ≤ bytes.length ∧ sum ≠ w 10 + 2 ^ 32 * w 11)))) :=
  ⟨wImp (wSealed .ready), ⟨0, List.replicate 64 1⟩, by decide +kernel⟩

set_option maxRecDepth 20000 in
theorem wit_SealAndCheckpoints_14 : ∃ s : State, ∃ f : CkFrame,
    s.bel.stopped = false ∧ s.tablesOk ∧ s.spine.importing = true ∧ s.importGap f = false ∧ s.importNext f = true ∧ (let bytes := f.bytes;
    (let w := fun i => leAt bytes (4 * i) 4;
    (let kind := bitsOf (w 1) 17 16;
    (let sum := crc64 (bytes.take 40 ++ List.replicate 8 0 ++ bytes.drop 48);
    64 ≤ bytes.length ∧ w 0 = 0x4B43514E ∧ bitsOf (w 1) 15 0 = 1 ∧ w 7 = bytes.length - 64 ∧ sum = w 10 + 2 ^ 32 * w 11 ∧ kind = 2)))) :=
  ⟨wImp (wSealed .ready), ⟨0, frameBytes 2 0 0 0 5 0 0 (List.replicate 64 1) false⟩, by decide +kernel⟩

theorem wit_SealAndCheckpoints_15 : ∃ s : State, ∃ f : CkFrame,
    s.bel.stopped = false ∧ s.tablesOk ∧ s.spine.importing = true ∧ s.importGap f = false ∧ s.importNext f = true ∧ (let bytes := f.bytes;
    (let w := fun i => leAt bytes (4 * i) 4;
    (let kind := bitsOf (w 1) 17 16;
    (let sum := crc64 (bytes.take 40 ++ List.replicate 8 0 ++ bytes.drop 48);
    64 ≤ bytes.length ∧ w 0 = 0x4B43514E ∧ bitsOf (w 1) 15 0 = 1 ∧ w 7 = bytes.length - 64 ∧ sum = w 10 + 2 ^ 32 * w 11 ∧ kind = 1)))) :=
  ⟨wImp (wSealed .ready), ⟨0, frameBytes 1 0 0 0 5 0 0 [] false⟩, by decide +kernel⟩

set_option maxRecDepth 20000 in
theorem wit_SealAndCheckpoints_16 : ∃ s : State, ∃ f : CkFrame, ∃ p : Nat, ∃ i : Nat,
    s.bel.stopped = false ∧ s.tablesOk ∧ s.spine.importing = true ∧ s.importGap f = false ∧ s.importNext f = true ∧ (let bytes := f.bytes;
    (let w := fun i => leAt bytes (4 * i) 4;
    (let kind := bitsOf (w 1) 17 16;
    (let sum := crc64 (bytes.take 40 ++ List.replicate 8 0 ++ bytes.drop 48);
    64 ≤ bytes.length ∧ w 0 = 0x4B43514E ∧ bitsOf (w 1) 15 0 = 1 ∧ w 7 = bytes.length - 64 ∧ sum = w 10 + 2 ^ 32 * w 11 ∧ kind = 0 ∧ s.importView.entryOf (bitsOf (w 2) 19 0) (bitsOf (w 3) 23 0) = some (p, i) ∧ b2n (ttCompact (s.importView.tt p i)) = bitsOf (w 1) 18 18 ∧ bytes.length = 128 + ttRecBytes (s.importView.tt p i) ∧ crc64 (bytes.drop 128) = w 8 + 2 ^ 32 * w 9)))) :=
  ⟨wImp { wDev .running with shAct := wShm [(winTable 0 0 0, 5 + 2 * 2 ^ 20), (winTable 0 0 1, 2 ^ 24), (winTable 0 0 2, 2)] }, ⟨0, frameBytes 0 0 5 0 5 0 (crc64 []) (List.replicate 64 0) false⟩, 0, 0, by decide +kernel⟩

theorem wit_LinkLayer_1 : ∃ s : State, ∃ c : PortCode, ∃ f : Flit,
    s.bel.stopped = false ∧ s.tablesOk ∧ (s.subP c).carries = true ∧ (let x := s.subP c;
    dataGood f = true ∧ f.seq.toNat = x.expect) :=
  ⟨wSub .up id, 0, wFlit 0 true, by decide +kernel⟩

theorem wit_LinkLayer_2 : ∃ s : State, ∃ c : PortCode, ∃ f : Flit,
    s.bel.stopped = false ∧ s.tablesOk ∧ (s.subP c).carries = true ∧ (let x := s.subP c;
    dataGood f = true ∧ f.seq.toNat ≠ x.expect) :=
  ⟨wSub .up id, 0, wFlit 1 true, by decide +kernel⟩

theorem wit_LinkLayer_3 : ∃ s : State, ∃ c : PortCode, ∃ f : Flit,
    s.bel.stopped = false ∧ s.tablesOk ∧ (s.subP c).carries = true ∧ (let x := s.subP c;
    dataGood f = false) :=
  ⟨wSub .up id, 0, wFlit 0 false, by decide +kernel⟩

theorem wit_LinkLayer_4 : ∃ s : State, ∃ c : PortCode, ∃ h : FlitHdr, ∃ i : Nat,
    s.bel.stopped = false ∧ s.tablesOk ∧ (s.subP c).carries = true ∧ (let x := s.subP c;
    plainGood h 0 = true ∧ (x.replay.findIdx? fun f => f.seq = h.ack.toNat) = some i) :=
  ⟨wSub .up (fun x => { x with replay := [wTx] }), 0, wHdr 0 4, 0, by decide +kernel⟩

theorem wit_LinkLayer_5 : ∃ s : State, ∃ c : PortCode, ∃ h : FlitHdr,
    s.bel.stopped = false ∧ s.tablesOk ∧ (s.subP c).carries = true ∧ (let x := s.subP c;
    plainGood h 2 = true ∧ (x.replay.findIdx? fun f => f.seq = h.ack.toNat) = none ∧ x.replay ≠ []) :=
  ⟨wSub .up (fun x => { x with replay := [wTx] }), 0, wHdr 2 9, by decide +kernel⟩

theorem wit_LinkLayer_6 : ∃ s : State, ∃ c : PortCode,
    s.bel.stopped = false ∧ s.tablesOk ∧ (s.subP c).carries = true ∧ (s.subP c).replay ≠ [] ∧ (s.subP c).ackUs + 2 ≤ s.nowUs :=
  ⟨wSub .up (fun x => { x with replay := [wTx] }), 0, by decide +kernel⟩

theorem wit_LinkLayer_7 : ∃ s : State, ∃ c : PortCode, ∃ l : Nat, ∃ i : Instr,
    s.tablesOk ∧ (s.subP c).carries = true ∧ (let x := s.subP c;
    ((∃ uncorr, i = .lnkLaneRetired c uncorr ∧ 9 ≤ x.retries ∧ worstLane x.active uncorr = some l) ∨ (∃ lane : Fin 32, i = .laneMarginLimit c lane ∧ lane.val = l ∧ 16 ≤ x.low.get 0 l ∧ bitOf x.active l = true))) :=
  ⟨wSub .up (fun x => { x with low := ⟨[(5, 16)]⟩ }), 0, 5, .laneMarginLimit 0 5, by decide +kernel, by decide +kernel, Or.inr ⟨5, rfl, rfl, by decide +kernel, by decide +kernel⟩⟩

theorem wit_LinkLayer_8 : ∃ s : State, ∃ c : PortCode,
    s.bel.stopped = false ∧ s.tablesOk ∧ (s.subP c).carries = true :=
  ⟨wSub .up id, 0, by decide +kernel⟩

theorem wit_LinkLayer_9 : ∃ s : State, ∃ c : PortCode, ∃ ok : Bool,
    s.bel.stopped = false ∧ s.tablesOk ∧ (s.subP c).state = .retraining ∧ (let x := s.subP c;
    ok = true ∧ s.nowUs ≤ x.retrainUs + 250) :=
  ⟨wSub .retraining fun x => { x with retrainUs := 750 }, 0, true, by decide +kernel⟩

theorem wit_LinkLayer_10 : ∃ s : State, ∃ c : PortCode, ∃ ok : Bool,
    s.bel.stopped = false ∧ s.tablesOk ∧ (s.subP c).state = .retraining ∧ (let x := s.subP c;
    (ok = false ∨ x.retrainUs + 250 < s.nowUs)) :=
  ⟨wSub .retraining fun x => { x with retrainUs := 749 }, 0, true, by decide +kernel⟩

theorem wit_LinkLayer_11 : ∃ s : State, ∃ c : PortCode, ∃ r : TrainResult,
    s.bel.stopped = false ∧ s.tablesOk ∧ (s.subP c).state = .training :=
  ⟨wSub .training id, 0, .tooFar, by decide +kernel⟩

theorem wit_LinkLayer_12 : ∃ s : State, ∃ c : PortCode, ∃ m : List Byte, ∃ s1 : State,
    s.bel.stopped = false ∧ s.tablesOk ∧ s.takeMsg c 0 = some (m, s1) ∧ (let x := s1.subP c;
    x.peerLost = false) :=
  ⟨wRx 0 (wMsg 0 0 0 []), 0, wMsg 0 0 0 [], wTaken wTensor, by decide +kernel⟩

theorem wit_LinkLayer_13 : ∃ s : State, ∃ c : PortCode, ∃ m : List Byte, ∃ s1 : State,
    s.bel.stopped = false ∧ s.tablesOk ∧ s.takeMsg c 0 = some (m, s1) ∧ (let x := s1.subP c;
    x.peerLost = true) :=
  ⟨wRxF 0 (wMsg 0 0 0 []) (fun x => { x with peerLost := true }) [], 0, wMsg 0 0 0 [], wSub .up fun x => { x with peerLost := true }, by decide +kernel⟩

theorem wit_LinkLayer_14 : ∃ s : State, ∃ c : PortCode,
    s.bel.stopped = false ∧ s.tablesOk ∧ (s.subP c).live = true ∧ (s.subP c).peerLost = false ∧ (s.subP c).lastHb + 4 ≤ s.cad.tickNo :=
  ⟨{ wSub .up (fun x => { x with live := true, lastHb := 4 }) with cad := { Cad.reset with tickNo := 8 } }, 0, by decide +kernel⟩

theorem wit_CollectivesAndConduits_1 : ∃ s : State, ∃ c : PortCode, ∃ m : List Byte, ∃ s0 : State, ∃ o : ColOp,
    s.bel.stopped = false ∧ s.tablesOk ∧ s.takeMsg c 3 = some (m, s0) ∧ s.col.timedOut = false ∧ (((s.subP c).rx.find? fun m => bitsOf (leAt m.2 0 4) 3 0 = 3).map Prod.fst ≠ some 2) ∧ s.findOp (msgId m) false = some o ∧ (let t0 := s.opTable (msgId m) (msgOffset m);
    (let k := o.chunks.get ColChunk.none (msgOffset m);
    (let v : ColVal :=
      { data := (List.range ((msgData m).length / 4)).map fun i => leAt (msgData m) (4 * i) 4
        absent := bitOf (msgFlags m) 0, poison := bitOf (msgFlags m) 1 };
    ttValid t0 = true ∧ msgOffset m < ttChunks t0 ∧ (msgData m).length ≤ 4 * ttWidth t0 ∧ (let second := s.cameY o.group c != (s.place o (msgOffset m)).swap;
    k.own = none ∧ k.row = none ∧ k.sentX = false ∧ k.sentY = false ∧ k.done = false)))) :=
  ⟨wOps (wRx 1 (wMsg 3 0 0 [0, 0, 128, 63])), 0, wMsg 3 0 0 [0, 0, 128, 63], wOps (wTaken wTensor), wOp, by decide +kernel, by decide +kernel, by decide +kernel, by decide +kernel, by decide +kernel, by decide +kernel, by decide +kernel, by decide +kernel, by decide +kernel, by decide +kernel, by decide +kernel, by decide +kernel, by decide +kernel, by decide +kernel⟩

theorem wit_CollectivesAndConduits_2 : ∃ s : State, ∃ c : PortCode, ∃ m : List Byte, ∃ s0 : State,
    s.bel.stopped = false ∧ s.tablesOk ∧ s.takeMsg c 3 = some (m, s0) ∧ s.col.timedOut = false ∧ (ttValid (s.opTable (msgId m) (msgOffset m)) = false ∨ ttChunks (s.opTable (msgId m) (msgOffset m)) ≤ msgOffset m) :=
  ⟨wRx 1 (wMsg 3 0 2 []), 0, wMsg 3 0 2 [], wTaken wTensor, by decide +kernel⟩

theorem wit_CollectivesAndConduits_3 : ∃ s : State, ∃ num : Fin 4096, ∃ gather : Bool, ∃ alongY : Bool, ∃ n : Nat, ∃ o : ColOp,
    s.bel.stopped = false ∧ s.tablesOk ∧ s.col.timedOut = false ∧ s.findOp num gather = some o ∧ o.waiting = [] ∧ ((List.range (s.opChunks num)).all fun c => (o.chunks.get ColChunk.none c).done) = false :=
  ⟨wOps (wTaken wTensor), 0, false, true, 3, wOp, by decide +kernel⟩

theorem wit_CollectivesAndConduits_4 : ∃ s : State, ∃ c : PortCode, ∃ m : List Byte, ∃ s0 : State,
    s.bel.stopped = false ∧ s.tablesOk ∧ s.takeMsg c 4 = some (m, s0) :=
  ⟨wRx 0 (wMsg 4 0 0 []), 0, wMsg 4 0 0 [], wTaken wTensor, by decide +kernel⟩

theorem wit_CollectivesAndConduits_5 : ∃ s : State, ∃ g : Fin 8,
    s.bel.stopped = false ∧ s.tablesOk ∧ (∃ o ∈ s.col.ops, o.group = g.val) ∧ ((∃ c ∈ s.grpAll g, (s.subP c).peerLost = true) ∨ ∃ o ∈ s.col.ops, o.group = g.val ∧ o.progress + s.colWait ≤ s.cad.tickNo) :=
  ⟨{ wOps (wTaken []) with cad := { Cad.reset with tickNo := 300 } }, 0, by decide +kernel⟩

theorem wit_CollectivesAndConduits_6 : ∃ s : State, ∃ k : Fin 32,
    s.bel.stopped = false ∧ s.tablesOk ∧ s.cndValid k = true ∧ k.val ∉ s.col.shut ∧ ((s.subP (s.cndPort k)).peerLost = true ∨ ∃ w, (s.cnd k).waitFrom = some w ∧ w + s.colWait ≤ s.cad.tickNo ∧ ((s.cnd k).handed ≠ [] ∨ ∃ d, d < 4 ∧ s.mayIssue d = true)) :=
  ⟨{ wTaken wCnd with subs := ⟨[(0, { SubPort.reset with peerLost := true })]⟩, col := { Coll.reset with conduits := ⟨[(0, { Conduit.none with handed := [0] })]⟩ } }, 0, by decide +kernel, by decide +kernel, by decide +kernel, by decide +kernel, Or.inl (by decide +kernel)⟩

theorem wit_CollectivesAndConduits_7 : ∃ s : State, ∃ c : PortCode, ∃ m : List Byte, ∃ s0 : State,
    s.bel.stopped = false ∧ s.tablesOk ∧ s.takeMsg c 2 = some (m, s0) ∧ (let k := msgId m % 32;
    (let i := msgOffset m / max 1 (s.cndBytes k);
    (s.cnd k).handed = [])) :=
  ⟨wRxF 0 (wMsg 2 0 0 []) id wCnd, 0, wMsg 2 0 0 [], wTaken wCnd, by decide +kernel⟩

theorem wit_CollectivesAndConduits_8 : ∃ s : State, ∃ c : PortCode, ∃ dest : BitVec 46, ∃ m : List Byte, ∃ s0 : State,
    s.bel.stopped = false ∧ s.memOk ∧ s.tablesOk ∧ s.takeMsg c 1 = some (m, s0) ∧ (let k := msgId m % 32;
    (let n := s.cndBytes k;
    (let a := dest.toNat + msgOffset m;
    s.cndValid k = true ∧ msgOffset m + (msgData m).length ≤ s.cndEntries k * n ∧ msgData m ≠ [] ∧ s.spanFault (colUnitOf c) a (msgData m).length true = none))) :=
  ⟨wRxF 3 (wMsg 1 0 60 [1, 2, 3, 4]) id wCnd, 0, 0x020000000000, wMsg 1 0 60 [1, 2, 3, 4], wTaken wCnd, by decide +kernel⟩

theorem wit_CollectivesAndConduits_9 : ∃ s : State, ∃ c : PortCode, ∃ dest : BitVec 46, ∃ m : List Byte, ∃ s0 : State,
    s.bel.stopped = false ∧ s.memOk ∧ s.tablesOk ∧ s.takeMsg c 1 = some (m, s0) ∧ (let k := msgId m % 32;
    (let n := s.cndBytes k;
    (let a := dest.toNat + msgOffset m;
    (s.cndValid k = false ∨ s.cndEntries k * n < msgOffset m + (msgData m).length)))) :=
  ⟨wRxF 3 (wMsg 1 0 61 [1, 2, 3, 4]) id wCnd, 0, 0x020000000000, wMsg 1 0 61 [1, 2, 3, 4], wTaken wCnd, by decide +kernel⟩

theorem wit_CollectivesAndConduits_10 : ∃ s : State, ∃ c : PortCode, ∃ addr : BitVec 46, ∃ len : Nat, ∃ m : List Byte, ∃ s0 : State,
    s.bel.stopped = false ∧ s.tablesOk ∧ s.takeMsg c 6 = some (m, s0) :=
  ⟨wRx 5 (wMsg 6 0 0 []), 0, 0, 4, wMsg 6 0 0 [], wTaken wTensor, by decide +kernel⟩

theorem wit_CollectivesAndConduits_11 : ∃ s : State, ∃ c : PortCode, ∃ addr : BitVec 46, ∃ m : List Byte, ∃ s0 : State,
    s.bel.stopped = false ∧ s.memOk ∧ s.tablesOk ∧ s.takeMsg c 7 = some (m, s0) ∧ (let a := addr.toNat + msgOffset m;
    ((∃ p q, regionOf a = .trough p q) ∨ ∃ d q, regionOf a = .crust d q) ∧ s.spanFault (colUnitOf c) a (msgData m).length true = none ∧ bulkFits a (msgData m).length = true) :=
  ⟨wRx 5 (wMsg 7 0 8 [1, 2]), 0, 16, wMsg 7 0 8 [1, 2], wTaken wTensor, by decide +kernel, by decide +kernel, by decide +kernel, by decide +kernel, Or.inl ⟨0, 24, by decide +kernel⟩, by decide +kernel, by decide +kernel⟩

theorem wit_CollectivesAndConduits_12 : ∃ s : State, ∃ c : PortCode, ∃ addr : BitVec 46, ∃ m : List Byte, ∃ s0 : State,
    s.bel.stopped = false ∧ s.tablesOk ∧ s.takeMsg c 7 = some (m, s0) ∧ bulkFits (addr.toNat + msgOffset m) (msgData m).length = false :=
  ⟨wRx 5 (wMsg 7 0 8 [1, 2]), 0, BitVec.ofNat 46 (crustBase 0 + 12 * gib - 9), wMsg 7 0 8 [1, 2], wTaken wTensor, by decide +kernel⟩

theorem wit_KvCommands_1 : ∃ s : State, ∃ d : Die, ∃ c : KvCmd, ∃ rest : List KvCmd,
    s.bel.stopped = false ∧ s.memOk ∧ s.tablesOk ∧ (s.kvD d).cmds = c :: rest ∧ s.kvRoom d c.src = true ∧ (let f := KvFields.of c.words;
    (let k := s.kvD d;
    f.op = 1 ∧ (k.seq f.seq).isOpen = false ∧ f.streams ≠ 0 ∧ f.jmax ≠ 0 ∧ f.clean = true ∧ tableInCrust d f.ptBase (f.streams * f.jmax) = true)) :=
  ⟨wKvPages 4 [1, 2 ^ 20, 1 + 2 ^ 29, 0] id, 0, ⟨0, [1, 2 ^ 20, 1 + 2 ^ 29, 0]⟩, [], by decide +kernel⟩

theorem wit_KvCommands_2 : ∃ s : State, ∃ d : Die, ∃ c : KvCmd, ∃ rest : List KvCmd,
    s.bel.stopped = false ∧ s.memOk ∧ s.tablesOk ∧ (s.kvD d).cmds = c :: rest ∧ s.kvRoom d c.src = true ∧ (let f := KvFields.of c.words;
    (let k := s.kvD d;
    f.op = 1 ∧ ((k.seq f.seq).isOpen = true ∨ f.streams = 0 ∨ f.jmax = 0 ∨ f.clean = false ∨ tableInCrust d f.ptBase (f.streams * f.jmax) = false))) :=
  ⟨wKvPages 4 [1, 0, 1 + 2 ^ 29, 0] id, 0, ⟨0, [1, 0, 1 + 2 ^ 29, 0]⟩, [], by decide +kernel⟩

theorem wit_KvCommands_3 : ∃ s : State, ∃ d : Die, ∃ c : KvCmd, ∃ rest : List KvCmd,
    s.bel.stopped = false ∧ s.tablesOk ∧ (s.kvD d).cmds = c :: rest ∧ s.kvRoom d c.src = true ∧ (let f := KvFields.of c.words;
    (let k := s.kvD d;
    f.op = 2 ∧ (let par := k.seq f.parent;
    (let pages := (s.kvPrefix par f.count).map fun x => x.2.2;
    (k.seq f.seq).isOpen = false ∧ par.isOpen = true ∧ f.count ≤ par.len ∧ f.clean = true ∧ tableInCrust d f.ptBase (par.streams * par.jmax) = true ∧ (∀ g ∈ pages, g < s.kvPages d ∧ k.ref g + pages.count g ≤ 65535))))) :=
  ⟨wKvPages 4 [2 + 2 ^ 16, 0, 2 ^ 29, 0] (wSeq 1 0), 0, ⟨0, [2 + 2 ^ 16, 0, 2 ^ 29, 0]⟩, [], by decide +kernel⟩

theorem wit_KvCommands_4 : ∃ s : State, ∃ d : Die, ∃ c : KvCmd, ∃ rest : List KvCmd,
    s.bel.stopped = false ∧ s.tablesOk ∧ (s.kvD d).cmds = c :: rest ∧ s.kvRoom d c.src = true ∧ (let f := KvFields.of c.words;
    (let k := s.kvD d;
    f.op = 2 ∧ (let par := k.seq f.parent;
    (let pages := (s.kvPrefix par f.count).map fun x => x.2.2;
    ((k.seq f.seq).isOpen = true ∨ par.isOpen = false ∨ par.len < f.count ∨ f.clean = false ∨ tableInCrust d f.ptBase (par.streams * par.jmax) = false))))) :=
  ⟨wKvPages 4 [2 + 2 ^ 16, 1, 2 ^ 29, 0] (wSeq 1 0), 0, ⟨0, [2 + 2 ^ 16, 1, 2 ^ 29, 0]⟩, [], by decide +kernel⟩

theorem wit_KvCommands_5 : ∃ s : State, ∃ d : Die, ∃ c : KvCmd, ∃ rest : List KvCmd,
    s.bel.stopped = false ∧ s.tablesOk ∧ (s.kvD d).cmds = c :: rest ∧ s.kvRoom d c.src = true ∧ (let f := KvFields.of c.words;
    (let k := s.kvD d;
    f.op = 3 ∧ (let q := k.seq f.seq;
    (let places := kvPlaces q.streams (q.len / 128) (ceilDiv (q.len + f.count) 128);
    (let n := (places.filter (s.kvNeeds d q)).length;
    q.isOpen = true ∧ q.len + f.count ≤ q.jmax * 128 ∧ f.clean = true ∧ f.count ≠ 0 ∧ (∀ p ∈ places, ∀ g, s.kvEntry q p.1 p.2 = some g → g < s.kvPages d) ∧ n ≤ s.kvFree d))))) :=
  ⟨wKvPages 4 [3, 1, 0, 0] (wSeq 0 0), 0, ⟨0, [3, 1, 0, 0]⟩, [], by decide +kernel, by decide +kernel, by decide +kernel, by decide +kernel, by decide +kernel, by decide +kernel, by decide +kernel, by decide +kernel, by decide +kernel, noEntry (by decide +kernel), by decide +kernel⟩

theorem wit_KvCommands_6 : ∃ s : State, ∃ d : Die, ∃ c : KvCmd, ∃ rest : List KvCmd,
    s.bel.stopped = false ∧ s.tablesOk ∧ (s.kvD d).cmds = c :: rest ∧ s.kvRoom d c.src = true ∧ (let f := KvFields.of c.words;
    (let k := s.kvD d;
    f.op = 3 ∧ (let q := k.seq f.seq;
    (let places := kvPlaces q.streams (q.len / 128) (ceilDiv (q.len + f.count) 128);
    (let n := (places.filter (s.kvNeeds d q)).length;
    q.isOpen = true ∧ q.len + f.count ≤ q.jmax * 128 ∧ f.clean = true ∧ f.count ≠ 0 ∧ (∀ p ∈ places, ∀ g, s.kvEntry q p.1 p.2 = some g → g < s.kvPages d) ∧ s.kvFree d < n))))) :=
  ⟨wKvPages 0 [3, 1, 0, 0] (wSeq 0 0), 0, ⟨0, [3, 1, 0, 0]⟩, [], by decide +kernel, by decide +kernel, by decide +kernel, by decide +kernel, by decide +kernel, by decide +kernel, by decide +kernel, by decide +kernel, by decide +kernel, noEntry (by decide +kernel), by decide +kernel⟩

theorem wit_KvCommands_7 : ∃ s : State, ∃ d : Die, ∃ c : KvCmd, ∃ rest : List KvCmd,
    s.bel.stopped = false ∧ s.tablesOk ∧ (s.kvD d).cmds = c :: rest ∧ s.kvRoom d c.src = true ∧ (let f := KvFields.of c.words;
    (let k := s.kvD d;
    f.op = 3 ∧ (let q := k.seq f.seq;
    (q.isOpen = false ∨ q.jmax * 128 < q.len + f.count ∨ f.clean = false ∨ ∃ p ∈ kvPlaces q.streams (q.len / 128) (ceilDiv (q.len + f.count) 128), ∃ g, s.kvEntry q p.1 p.2 = some g ∧ s.kvPages d ≤ g)))) :=
  ⟨wKvPages 4 [3, 1, 0, 0] id, 0, ⟨0, [3, 1, 0, 0]⟩, [], by decide +kernel, by decide +kernel, by decide +kernel, by decide +kernel, by decide +kernel, Or.inl (by decide +kernel)⟩

theorem wit_KvCommands_8 : ∃ s : State, ∃ d : Die, ∃ c : KvCmd, ∃ rest : List KvCmd,
    s.bel.stopped = false ∧ s.tablesOk ∧ (s.kvD d).cmds = c :: rest ∧ s.kvRoom d c.src = true ∧ (let f := KvFields.of c.words;
    (let k := s.kvD d;
    f.op = 4 ∧ (let q := k.seq f.seq;
    (q.isOpen = false ∨ f.clean = false ∨ ∃ p ∈ kvPlaces q.streams 0 q.jmax, ∃ g, s.kvEntry q p.1 p.2 = some g ∧ s.kvPages d ≤ g)))) :=
  ⟨wKvPages 4 [4, 0, 0, 0] id, 0, ⟨0, [4, 0, 0, 0]⟩, [], by decide +kernel, by decide +kernel, by decide +kernel, by decide +kernel, by decide +kernel, Or.inl (by decide +kernel)⟩

theorem wit_KvCommands_9 : ∃ s : State, ∃ d : Die, ∃ c : KvCmd, ∃ rest : List KvCmd,
    s.bel.stopped = false ∧ s.tablesOk ∧ (s.kvD d).cmds = c :: rest ∧ s.kvRoom d c.src = true ∧ (let f := KvFields.of c.words;
    (let k := s.kvD d;
    f.op = 4 ∧ (let q := k.seq f.seq;
    q.isOpen = true ∧ f.clean = true ∧ (∀ p ∈ kvPlaces q.streams 0 q.jmax, ∀ g, s.kvEntry q p.1 p.2 = some g → g < s.kvPages d)))) :=
  ⟨wKvPages 4 [4, 0, 0, 0] (wSeq 0 0), 0, ⟨0, [4, 0, 0, 0]⟩, [], by decide +kernel, by decide +kernel, by decide +kernel, by decide +kernel, by decide +kernel, by decide +kernel, by decide +kernel, noEntry (by decide +kernel)⟩

theorem wit_KvCommands_10 : ∃ s : State, ∃ d : Die, ∃ c : KvCmd, ∃ rest : List KvCmd,
    s.bel.stopped = false ∧ s.tablesOk ∧ (s.kvD d).cmds = c :: rest ∧ s.kvRoom d c.src = true ∧ (let f := KvFields.of c.words;
    (let k := s.kvD d;
    f.op = 5 ∧ (let e := (k.epoch + 1) % 2 ^ 14;
    f.clean = true ∧ (k.readers.any fun r => r.epoch % 64 = e % 64) = false))) :=
  ⟨wKvPages 4 [5, 0, 0, 0] id, 0, ⟨0, [5, 0, 0, 0]⟩, [], by decide +kernel⟩

theorem wit_KvCommands_11 : ∃ s : State, ∃ d : Die, ∃ c : KvCmd, ∃ rest : List KvCmd,
    s.bel.stopped = false ∧ s.tablesOk ∧ (s.kvD d).cmds = c :: rest ∧ s.kvRoom d c.src = true ∧ (let f := KvFields.of c.words;
    (let k := s.kvD d;
    f.op = 5 ∧ (let e := (k.epoch + 1) % 2 ^ 14;
    f.clean = true ∧ (k.readers.any fun r => r.epoch % 64 = e % 64) = true))) :=
  ⟨wKvPages 4 [5, 0, 0, 0] (fun k => { k with readers := [⟨0, 1, false⟩] }), 0, ⟨0, [5, 0, 0, 0]⟩, [], by decide +kernel⟩

theorem wit_KvCommands_12 : ∃ s : State, ∃ d : Die, ∃ p : Sp,
    s.bel.stopped = false ∧ s.tablesOk ∧ ((s.kvD d).readers.any fun r => r.port = p.val && r.ended) = true :=
  ⟨wKv [] fun k => { k with readers := [⟨0, 1, true⟩] }, 0, 0, by decide +kernel⟩

theorem wit_IngestWork_1 : ∃ s : State, ∃ gen : Nat, ∃ passes : Nat, ∃ spans : List Span,
    s.firmwareRuns = true ∧ (∀ g, s.ing.lastGen = some g → gen = g + 1) ∧ 1 ≤ passes ∧ passes ≤ 16 :=
  ⟨wDev .ready, 5, 16, [], by decide +kernel, (fun g h => nomatch h), by decide +kernel, by decide +kernel⟩

theorem wit_IngestWork_2 : ∃ s : State, ∃ gen : Nat, ∃ span : Nat, ∃ j : SpanJob, ∃ r : DemuxResult, ∃ place : Nat, ∃ z : FoundTrack,
    s.memOk ∧ s.tablesOk ∧ s.job? gen span = some j ∧ s.firmwareRuns = true ∧ j.state = .waiting ∧ demuxFound j.span r = .track z ∧ s.inEs place (s.trackBytes z).length = true ∧ (∀ q ∈ z.pieces, s.inHost q.1 q.2 = true) :=
  ⟨wWork false [wSpanJob .waiting 2], 1, 0, wSpanJob .waiting 2, wFound, 1048572, wTrack, by decide +kernel⟩

theorem wit_IngestWork_3 : ∃ s : State, ∃ gen : Nat, ∃ span : Nat, ∃ j : SpanJob, ∃ r : DemuxResult, ∃ place : Nat,
    s.memOk ∧ s.tablesOk ∧ s.job? gen span = some j ∧ s.firmwareRuns = true ∧ j.state = .waiting ∧ demuxFound j.span r = .unsupported :=
  ⟨wWork false [wSpanJob .waiting 2], 1, 0, wSpanJob .waiting 2, wFoundOther, 0, by decide +kernel⟩

theorem wit_IngestWork_4 : ∃ s : State, ∃ gen : Nat, ∃ span : Nat, ∃ j : SpanJob, ∃ r : DemuxResult, ∃ place : Nat,
    s.memOk ∧ s.tablesOk ∧ s.job? gen span = some j ∧ s.firmwareRuns = true ∧ j.state = .waiting ∧ demuxFound j.span r = .broken :=
  ⟨wWork false [wSpanJob .waiting 2], 1, 0, wSpanJob .waiting 2, .broken, 0, by decide +kernel⟩

theorem wit_IngestWork_5 : ∃ s : State, ∃ k : Dec, ∃ gen : Nat, ∃ span : Nat, ∃ buffers : List Nat, ∃ j : SpanJob, ∃ e : EssenceInfo,
    s.tablesOk ∧ s.job? gen span = some j ∧ j.essence = some e ∧ s.firmwareRuns = true ∧ j.state = .demuxed ∧ (s.decK k).contexts.length < 32 ∧ s.decGate k 0 = true ∧ (let x := s.decK k;
    (let ok := buffers.length = dpbSize e + 2 ∧ s.buffersFree (pictureBytes e) buffers = true;
    s.slotBytes < fragBytes j.span (jobFp8 (s.jobSet k j.span)))) :=
  ⟨wWork false [wSpanJob .demuxed 4], 0, 1, 0, [], wSpanJob .demuxed 4, wEss, by decide +kernel⟩

theorem wit_IngestWork_6 : ∃ s : State, ∃ k : Dec, ∃ gen : Nat, ∃ span : Nat, ∃ buffers : List Nat, ∃ j : SpanJob, ∃ e : EssenceInfo,
    s.tablesOk ∧ s.job? gen span = some j ∧ j.essence = some e ∧ s.firmwareRuns = true ∧ j.state = .demuxed ∧ (s.decK k).contexts.length < 32 ∧ s.decGate k 0 = true ∧ (let x := s.decK k;
    (let ok := buffers.length = dpbSize e + 2 ∧ s.buffersFree (pictureBytes e) buffers = true;
    fragBytes j.span (jobFp8 (s.jobSet k j.span)) ≤ s.slotBytes ∧ ok)) :=
  ⟨wWork false [wSpanJob .demuxed 2], 0, 1, 0, wBufs, wSpanJob .demuxed 2, wEss, by decide +kernel⟩

theorem wit_IngestWork_7 : ∃ s : State, ∃ k : Dec, ∃ gen : Nat, ∃ span : Nat, ∃ buffers : List Nat, ∃ j : SpanJob, ∃ e : EssenceInfo,
    s.tablesOk ∧ s.job? gen span = some j ∧ j.essence = some e ∧ s.firmwareRuns = true ∧ j.state = .demuxed ∧ (s.decK k).contexts.length < 32 ∧ s.decGate k 0 = true ∧ (let x := s.decK k;
    (let ok := buffers.length = dpbSize e + 2 ∧ s.buffersFree (pictureBytes e) buffers = true;
    fragBytes j.span (jobFp8 (s.jobSet k j.span)) ≤ s.slotBytes ∧ ¬ok)) :=
  ⟨{ wWork false [wSpanJob .demuxed 2] with ing := { (wWork false [wSpanJob .demuxed 2]).ing with decoders := ⟨[(1, { Decoder.reset with contexts := [wContext 4 4] })]⟩ } }, 0, 1, 0, wBufs, wSpanJob .demuxed 2, wEss, by decide +kernel, by decide +kernel, by decide +kernel, by decide +kernel, by decide +kernel, by decide +kernel, by decide +kernel, by decide +kernel, (by intro h; exact absurd h.2 (by decide +kernel))⟩

theorem wit_IngestWork_8 : ∃ s : State, ∃ k : Dec, ∃ gen : Nat, ∃ span : Nat, ∃ pic : DecodedPicture, ∃ j : SpanJob, ∃ e : EssenceInfo, ∃ c : DecContext, ∃ b : Nat,
    s.memOk ∧ s.tablesOk ∧ s.job? gen span = some j ∧ j.essence = some e ∧ s.firmwareRuns = true ∧ j.state = .decoding ∧ s.servedNext k = some c ∧ (c.gen, c.span) = (gen, span) ∧ c.buffers[pic.buf]? = some b ∧ s.decGate k 1 = false :=
  ⟨{ wWork false [wSpanJob .decoding 2] with ing := { (wWork false [wSpanJob .decoding 2]).ing with decoders := ⟨[(0, { Decoder.reset with contexts := [wContext 1 0] })]⟩ } }, 0, 1, 0, wDec16, wSpanJob .decoding 2, wEss, wContext 1 0, gib + 768, by decide +kernel⟩

theorem wit_IngestWork_9 : ∃ s : State, ∃ gen : Nat, ∃ span : Nat, ∃ ended : Bool, ∃ p : Prf, ∃ slot : Nat, ∃ j : SpanJob, ∃ k : Nat, ∃ e : EssenceInfo,
    s.memOk ∧ s.tablesOk ∧ s.job? gen span = some j ∧ s.firmwareRuns = true ∧ j.state = .decoding ∧ j.engine = some k ∧ j.essence = some e ∧ k < 16 ∧ (let outs := outPics (s.jobSet k j.span) j.span.frames j.pics ended;
    (let damaged := (outs.filter fun x => x.damaged).length;
    j.span.frames ≤ outs.length ∧ s.clipCause k damaged = 0 ∧ s.slotOk p slot = true ∧ s.slotInOrder gen span p slot = true)) :=
  ⟨wWork false [wDecoded false], 1, 0, false, 0, 0, wDecoded false, 0, wEss, by decide +kernel⟩

theorem wit_IngestWork_10 : ∃ s : State, ∃ gen : Nat, ∃ span : Nat, ∃ ended : Bool, ∃ p : Prf, ∃ slot : Nat, ∃ j : SpanJob, ∃ k : Nat, ∃ e : EssenceInfo,
    s.memOk ∧ s.tablesOk ∧ s.job? gen span = some j ∧ s.firmwareRuns = true ∧ j.state = .decoding ∧ j.engine = some k ∧ j.essence = some e ∧ k < 16 ∧ (let outs := outPics (s.jobSet k j.span) j.span.frames j.pics ended;
    (let damaged := (outs.filter fun x => x.damaged).length;
    j.span.frames ≤ outs.length ∧ s.clipCause k damaged ≠ 0)) :=
  ⟨{ wWork false [wDecoded true] with rw := ⟨[(decReg 0 0x104, 2)]⟩ }, 1, 0, false, 0, 0, wDecoded true, 0, wEss, by decide +kernel⟩

theorem wit_IngestWork_11 : ∃ s : State, ∃ g : Generation,
    s.tablesOk ∧ s.firmwareRuns = true ∧ (s.ing.gens.find? fun g => !g.published) = some g ∧ (g.jobs.all fun j => decide (j.state = .done ∨ j.state = .dropped)) = true :=
  ⟨wWork false [wSpanJob .done 2], wGen false [wSpanJob .done 2], by decide +kernel⟩

theorem wit_IngestWork_12 : ∃ s : State, ∃ gen : Nat, ∃ g : Generation,
    s.ing.gen? gen = some g ∧ s.firmwareRuns = true ∧ g.published = true ∧ g.endPos ≤ s.drawPos ∧ s.genRead gen = false :=
  ⟨wWork true [], 1, wGen true [], by decide +kernel⟩

theorem wit_IngestWork_13 : ∃ s : State, ∃ d : Nat, ∃ g : Generation,
    s.bel.stopped = false ∧ s.tablesOk ∧ s.ingDie = some d ∧ s.ctl.state = .running ∧ (s.chD d).inStep = true ∧ s.drawEn = true ∧ s.ing.head.get 0 d < min (s.chD d).ingSeq (s.readFrom d) + s.ingDepth d ∧ s.ing.mb < s.mbPlan d (s.activeOf d) ∧ s.ing.covering s.drawPos = some g :=
  ⟨wDraw [wGen true [{ wSpanJob .done 2 with slot := some (0, 0) }]], 0, wGen true [{ wSpanJob .done 2 with slot := some (0, 0) }], by decide +kernel⟩

theorem wit_IngestWork_14 : ∃ s : State, ∃ d : Nat,
    s.bel.stopped = false ∧ s.tablesOk ∧ s.ingDie = some d ∧ s.ctl.state = .running ∧ (s.chD d).inStep = true ∧ s.drawEn = true ∧ s.ing.head.get 0 d < min (s.chD d).ingSeq (s.readFrom d) + s.ingDepth d ∧ s.ing.mb < s.mbPlan d (s.activeOf d) ∧ s.ing.covering s.drawPos = none :=
  ⟨wDraw [], 0, by decide +kernel⟩

theorem wit_IngestWork_15 : ∃ s : State, ∃ d : Die, ∃ p : Sp, ∃ w : Entry, ∃ rest : List Entry,
    s.bel.stopped = false ∧ s.tablesOk ∧ (let x := (s.fabD d).port p;
    (let q := s.ing.portSeq.get 0 (128 * d + p);
    s.ingBound d p = true ∧ x.go = true ∧ x.active = false ∧ (s.fabD d).halted = false ∧ (s.fabD d).due = 0 ∧ sprDir (s.spRec d (s.activeOf d) p) = 1 ∧ sprLive (s.spRec d (s.activeOf d) p) = true ∧ q < s.ing.head.get 0 d ∧ ((s.fabD d).queue (spKey p 1)).items = w :: rest ∧ bitsOf w.bits 19 0 ≤ sprL2 (s.spRec d (s.activeOf d) p))) :=
  ⟨{ wPort [(0, 1 + 8), (24, 9)] (fun f => wQs [(spKey 0 1, [wEnt 9])] { f with ports := ⟨[(0, { SpRun.rest with go := true })]⟩ }) with shAct := wShm [(regAddr (Page.die 0) 0x198, 1)], ing := { Ingest.reset with head := ⟨[(0, 1)]⟩ } }, 0, 0, wEnt 9, [], by decide +kernel⟩

theorem wit_IngestWork_16 : ∃ s : State, ∃ edge : Fin 2, ∃ x : Span, ∃ r : DemuxResult,
    s.ing.cipEn = true ∧ s.firmwareRuns = true :=
  ⟨wIng fun i => { i with cipEn := true }, 0, wSpan 2, wFoundOther, by decide +kernel⟩

theorem wit_IngestWork_17 : ∃ s : State, ∃ edge : Fin 2, ∃ addr : Nat, ∃ op : MemOp,
    s.tablesOk ∧ s.ing.cipEn = true ∧ s.cipAllowed edge addr op.access = true :=
  ⟨{ wWork false [] with ing := { Ingest.reset with cipEn := true } }, 0, 64, .read 8, by decide +kernel⟩

theorem wit_IngestWork_18 : ∃ s : State, ∃ edge : Fin 2, ∃ addr : Nat, ∃ op : MemOp,
    s.tablesOk ∧ s.ing.cipEn = true ∧ s.cipAllowed edge addr op.access = false :=
  ⟨{ wWork false [] with ing := { Ingest.reset with cipEn := true } }, 0, 64, .write [1], by decide +kernel⟩

end Sys2Proof.Tests
end

section
/-! The sparse table whose keys rise, canonical or not: `State.tablesOk` promises no more of the engines, the counters and memory. -/

namespace Sys2Proof

/-- Reading after writing, for a table in rising order. -/
theorem Tbl.get_set_ordered {α : Type} [DecidableEq α] {d : α} {t : Tbl α} (h : t.ordered) (k j : Nat) (v : α) :
    (t.set d k v).get d j = if j = k then v else t.get d j :=
  Tbl.lookup_insert d k j v t.cells h

theorem Tbl.ordered_set {α : Type} [DecidableEq α] {d : α} {t : Tbl α} (h : t.ordered) (k : Nat) (v : α) : (t.set d k v).ordered :=
  Tbl.sorted_insert d k v t.cells h

/-- A value other than that of the unlisted keys reads back from any table, whatever the order of its keys. -/
theorem Tbl.lookup_insert_self {α : Type} [DecidableEq α] {d v : α} (hv : v ≠ d) (k : Nat) :
    ∀ l : List (Nat × α), Tbl.lookup d k (Tbl.insert d k v l) = v
  | [] => by simp [Tbl.insert, Tbl.lookup, hv]
  | (a, u) :: rest => by
    have ih := Tbl.lookup_insert_self hv k rest
    rcases lt_trichotomy a k with h | h | h
    · simp [Tbl.insert, Tbl.lookup, h, ih]
    · simp [Tbl.insert, Tbl.lookup, h, hv]
    · simp [Tbl.insert, Tbl.lookup, hv, Nat.lt_asymm h, Nat.ne_of_gt h]

theorem Tbl.get_set_self {α : Type} [DecidableEq α] {d v : α} (hv : v ≠ d) (t : Tbl α) (k : Nat) : (t.set d k v).get d k = v :=
  Tbl.lookup_insert_self hv k t.cells

end Sys2Proof
end

section
/-! What an engine, its jobs and their lanes, a counter and a byte of memory read as after they have been written. -/

namespace Sys2Proof.Machine

theorem State.engD_setEng_same {s : State} (h : s.eng.ordered) (d e : Nat) (x : Engine) : (s.setEng d e x).engD d e = x := by
  simp [State.engD, State.setEng, Tbl.get_set_ordered h]

theorem State.setEng_eng_get_other {s : State} (h : s.eng.ordered) {d e k : Nat} (hk : k ≠ 36 * d + e) (x : Engine) :
    (s.setEng d e x).eng.get Engine.reset k = s.eng.get Engine.reset k := by
  simp [State.setEng, Tbl.get_set_ordered h, hk]

theorem State.setEng_eng_ordered {s : State} (h : s.eng.ordered) (d e : Nat) (x : Engine) : (s.setEng d e x).eng.ordered :=
  Tbl.ordered_set h _ _

theorem State.cntAt_count_same {s : State} (h : s.cnt.ordered) (a n : Nat) : (s.count a n).cntAt a = s.cntAt a + n := by
  simp [State.cntAt, Tbl.upd, Tbl.get_set_ordered h]

theorem Job.lane?_lane {j : Job} {lane : Nat} {l : LaneProg} (h : j.lane? lane = some l) : l.lane = lane := by
  simpa using List.find?_some h

theorem Job.lane?_setLane {j : Job} {lane : Nat} {l l' : LaneProg} (h : j.lane? lane = some l) (hl : l'.lane = lane) :
    (j.setLane l').lane? lane = some l' := by
  have hp : (fun q : LaneProg => decide (q.lane = lane)) ∘ (fun q => if q.lane = l'.lane then l' else q) =
      fun q => decide (q.lane = lane) := by
    funext q
    by_cases hq : q.lane = lane <;> simp [hl, hq]
  have hlane := Job.lane?_lane h
  unfold Job.lane? at h ⊢
  rw [Job.setLane, List.find?_map, hp, h]
  simp [hl, hlane]

theorem Engine.laneAt_setJob_setLane {x : Engine} {i lane : Nat} {j : Job} {l l' : LaneProg} (hj : x.job? i = some j)
    (h : j.lane? lane = some l) (hl : l'.lane = lane) : (x.setJob i (j.setLane l')).laneAt i lane = some l' := by
  have hi : i < x.queue.length := (List.getElem?_eq_some_iff.mp hj).1
  simp [Engine.laneAt, Engine.job?, Engine.setJob, hi, Job.lane?_setLane h hl]

theorem getElem?_of_find?_zipIdx {α : Type} {p : α × Nat → Bool} {l : List α} {x : α} {i : Nat} (h : l.zipIdx.find? p = some (x, i)) :
    l[i]? = some x :=
  List.mk_mem_zipIdx_iff_getElem?.mp (List.mem_of_find?_eq_some h)

theorem State.fetchCand_job {s : State} {d e a i : Nat} {j : Job} (h : s.fetchCand d e a = some (j, i)) : (s.engD d e).job? i = some j :=
  getElem?_of_find?_zipIdx h

theorem Engine.nextJob_job {x : Engine} {a k : Nat} {j : Job} (h : x.nextJob a = some (j, k)) : x.job? k = some j :=
  getElem?_of_find?_zipIdx h

theorem Engine.running_job {x : Engine} {a i : Nat} {j : Job} (h : x.running a = some (i, j)) : x.job? i = some j := by
  unfold Engine.running at h
  split at h
  · cases h
  · rename_i p hp
    split at h
    · cases h
    · cases h
      exact getElem?_of_find?_zipIdx hp

theorem Engine.runLane_eq_some {x : Engine} {lane i : Nat} {j : Job} {l : LaneProg} (h : x.runLane lane = some (i, j, l)) :
    x.job? i = some j ∧ j.lane? lane = some l := by
  unfold Engine.runLane at h
  split at h
  · cases h
  · rename_i p hp
    obtain ⟨q, hq, hqe⟩ := Option.map_eq_some_iff.mp h
    cases hqe
    exact ⟨Engine.running_job hp, hq⟩

theorem memWrite_get_outside (bs : List Byte) : ∀ (m : Tbl Byte) (a x : Nat), m.ordered → x < a ∨ a + bs.length ≤ x →
    (memWrite m a bs).get 0 x = m.get 0 x := by
  induction bs with
  | nil => exact fun m a x _ _ => rfl
  | cons b bs ih =>
    intro m a x h hx
    simp only [List.length_cons] at hx
    rw [memWrite, ih _ _ x (Tbl.ordered_set h a b) (by omega), Tbl.get_set_ordered h, if_neg (by omega)]

theorem memWrite_ordered (bs : List Byte) : ∀ (m : Tbl Byte) (a : Nat), m.ordered → (memWrite m a bs).ordered := by
  induction bs with
  | nil => exact fun m a h => h
  | cons b bs ih => exact fun m a h => ih _ _ (Tbl.ordered_set h a b)

theorem State.store_mem_ordered {s : State} (h : s.mem.ordered) (a : Nat) (bs : List Byte) : (s.store a bs).mem.ordered :=
  memWrite_ordered bs s.mem a h

theorem State.byteAt_store_of_outside {s : State} (h : s.mem.ordered) {a b : Nat} {bs : List Byte} (hb : b < a ∨ a + bs.length ≤ b) :
    (s.store a bs).byteAt b = s.byteAt b := memWrite_get_outside bs s.mem a b h hb

end Sys2Proof.Machine
end

section
/-! TILE_FETCH: a tile on its way into the rings of an engine, or, in a unit, to the members of a multicast list (R121, R123). -/

namespace Sys2Proof.Machine

/-- Writing a tile into ring entries touches memory and its poison marks alone. -/
theorem State.putTile_frame (s : State) (addrs : List Nat) (t : STile) :
    s.putTile addrs t = { s with mem := (s.putTile addrs t).mem, poison := (s.putTile addrs t).poison } := by
  unfold State.putTile
  refine List.foldlRecOn (motive := fun u : State => u = { s with mem := u.mem, poison := u.poison }) _ _ rfl ?_
  intro u hu q _
  dsimp only
  split <;> rw [hu] <;> rfl

/-- A byte outside the entries that a tile is written into reads as before. -/
theorem State.byteAt_putTile_of_outside {s : State} (h : s.mem.ordered) {addrs : List Nat} {t : STile} {b : Nat}
    (hb : ∀ q ∈ addrs.zipIdx, b < q.1 ∨ q.1 + (packElements t.bits (t.part addrs.length q.2)).length ≤ b) :
    (s.putTile addrs t).byteAt b = s.byteAt b := by
  unfold State.putTile
  refine (List.foldlRecOn (motive := fun u : State => u.mem.ordered ∧ u.byteAt b = s.byteAt b) _ _ ⟨h, rfl⟩ ?_).2
  rintro u ⟨hu, hub⟩ q hq
  have hstore : (u.store q.1 (packElements t.bits (t.part addrs.length q.2))).mem.ordered ∧
      (u.store q.1 (packElements t.bits (t.part addrs.length q.2))).byteAt b = s.byteAt b :=
    ⟨State.store_mem_ordered hu _ _, (State.byteAt_store_of_outside hu (hb q hq)).trans hub⟩
  dsimp only
  split
  · exact hstore
  · exact hstore

/-- Counting poisoned granules touches the counters alone. -/
theorem State.countPoison_frame (s : State) (grans : List Nat) : s.countPoison grans = { s with cnt := (s.countPoison grans).cnt } := by
  unfold State.countPoison
  refine List.foldlRecOn (motive := fun u : State => u = { s with cnt := u.cnt }) _ _ rfl ?_
  intro u hu g _
  split
  · split
    · rw [hu]; rfl
    · exact hu
  · exact hu

/-- What a fetch leaves behind besides the tile: records of turned-away bytes and counts (R280, R286). -/
theorem State.fetchTile_frame (s : State) (d : Die) (e : Eng) (m : Mpd) (lane : Nat) (p : PassIx) :
    let t := (s.fetchTile d e m lane p).2
    t = { s with evt := t.evt, cnt := t.cnt, freeCtr := t.freeCtr } := by
  unfold State.fetchTile
  dsimp only
  rw [State.countPoison_frame]
  split <;> rfl

/-- TILE_FETCH takes the tile of a lane whose turn it is: into the engine's rings, or as a unit of its multicast list (R121, R123). -/
theorem exec_tileFetch {s : State} {d : Die} {e : Eng} {a : Arr} {h : Half} {j : Job} {i : Nat} {l : LaneProg} {pos : Nat}
    (hs : s.bel.stopped = false) (hc : s.fetchCand d e (arrNum a) = some (j, i)) (hl : j.lane? (j.mpd.laneFor a h) = some l)
    (hp : s.fetchPos j.mpd l = some pos) (hf : s.fetches d e j l.lane = true) (ht : s.fetchTurn d e i j l pos = true) :
    exec (.tileFetch d e a h) s =
      .next (if mpdReuse j.mpd.words then s.fetchUnit d e i j pos else s.fetchRing d e i j l pos) := by
  show execTileFetch d e a h s = _
  simp only [execTileFetch, State.still, hs, hc, hl, hp, hf, ht]
  cases mpdReuse j.mpd.words <;> rfl

/-- The engine after the next tile of a lane has been fetched into ring entries of its own. -/
def Engine.fetched (x : Engine) (i : Nat) (j : Job) (l : LaneProg) (pos : Nat) (key : List Nat) (slots : List (Nat × Nat)) (tile : STile) :
    Engine :=
  { x.setJob i (j.setLane { l with fetched := pos + 1, fkey := key }) with
    ring := x.ring ++ [{ seq := j.mpd.seq, lane := l.lane, slots := slots, tile := tile }] }

/-- With a free entry in the ring of each array of the lane, the tile is read and written there. -/
theorem State.fetchRing_of_slots (s : State) (d : Die) (e : Eng) (i : Nat) (j : Job) (l : LaneProg) (pos : Nat) {slots : List (Nat × Nat)}
    (hs : slots = (j.mpd.laneArrays l.lane).filterMap fun q => ((s.engD d e).freeEntry q).map (q, ·))
    (hn : slots.length = (j.mpd.laneArrays l.lane).length) :
    let p := s.passOf j.mpd l.lane pos
    let f := s.fetchTile d e j.mpd l.lane p
    s.fetchRing d e i j l pos =
      ((f.2.putTile (slots.map fun q => ringAddr (36 * d + e) q.1 q.2) f.1).setEng d e
        ((s.engD d e).fetched i j l pos (statKey j.mpd p) slots f.1)).count (regAddr (Page.eng d e) 0x298) (s.fetchAc j.mpd l.lane) := by
  simp only [State.fetchRing, ← hs, hn, ne_eq, not_true_eq_false, ↓reduceIte]
  rfl

@[simp] theorem State.fetchTile_eng (s : State) (d : Die) (e : Eng) (m : Mpd) (lane : Nat) (p : PassIx) :
    (s.fetchTile d e m lane p).2.eng = s.eng := by
  rw [State.fetchTile_frame]

@[simp] theorem State.fetchTile_mem (s : State) (d : Die) (e : Eng) (m : Mpd) (lane : Nat) (p : PassIx) :
    (s.fetchTile d e m lane p).2.mem = s.mem := by
  rw [State.fetchTile_frame]

@[simp] theorem State.putTile_eng (s : State) (addrs : List Nat) (t : STile) : (s.putTile addrs t).eng = s.eng := by
  rw [State.putTile_frame]

/-- A fetch into the engine's own rings writes the engine, the ring entries, records and counts, and nothing else. -/
theorem State.fetchRing_frame (s : State) (d : Die) (e : Eng) (i : Nat) (j : Job) (l : LaneProg) (pos : Nat) :
    let t := s.fetchRing d e i j l pos
    t = { s with eng := t.eng, mem := t.mem, poison := t.poison, evt := t.evt, cnt := t.cnt, freeCtr := t.freeCtr } := by
  unfold State.fetchRing
  dsimp only
  split
  · rfl
  · rw [State.putTile_frame, State.fetchTile_frame]
    rfl

theorem Engine.fetched_laneAt {x : Engine} {i lane : Nat} {j : Job} {l : LaneProg} (hj : x.job? i = some j) (hl : j.lane? lane = some l)
    (pos : Nat) (key : List Nat) (slots : List (Nat × Nat)) (tile : STile) :
    (x.fetched i j l pos key slots tile).laneAt i lane = some { l with fetched := pos + 1, fkey := key } :=
  have hlane : l.lane = lane := Job.lane?_lane hl
  Engine.laneAt_setJob_setLane hj hl hlane

section
variable {s : State} {d : Die} {e : Eng} {i : Nat} {j : Job} {l : LaneProg} {pos : Nat} {slots : List (Nat × Nat)}
  (hs : slots = (j.mpd.laneArrays l.lane).filterMap fun q => ((s.engD d e).freeEntry q).map (q, ·))
  (hn : slots.length = (j.mpd.laneArrays l.lane).length)
include hs hn

theorem State.fetchRing_engD (he : s.eng.ordered) :
    (s.fetchRing d e i j l pos).engD d e = (s.engD d e).fetched i j l pos (statKey j.mpd (s.passOf j.mpd l.lane pos)) slots
      (s.fetchTile d e j.mpd l.lane (s.passOf j.mpd l.lane pos)).1 := by
  rw [State.fetchRing_of_slots s d e i j l pos hs hn]
  exact State.engD_setEng_same (by simpa using he) _ _ _

theorem State.fetchRing_eng_other (he : s.eng.ordered) {k : Nat} (hk : k ≠ 36 * d.val + e.val) :
    (s.fetchRing d e i j l pos).eng.get Engine.reset k = s.eng.get Engine.reset k := by
  rw [State.fetchRing_of_slots s d e i j l pos hs hn, State.count_eng, State.setEng_eng_get_other (by simpa using he) hk,
    State.putTile_eng, State.fetchTile_eng]

/-- Bytes outside the ring entries that take the tile stay (R121). -/
theorem State.fetchRing_byteAt (hm : s.mem.ordered) {b : Nat}
    (hb : let tile := (s.fetchTile d e j.mpd l.lane (s.passOf j.mpd l.lane pos)).1
      ∀ q ∈ slots.zipIdx, b < ringAddr (36 * d + e) q.1.1 q.1.2 ∨
        ringAddr (36 * d + e) q.1.1 q.1.2 + (packElements tile.bits (tile.part slots.length q.2)).length ≤ b) :
    (s.fetchRing d e i j l pos).byteAt b = s.byteAt b := by
  rw [State.fetchRing_of_slots s d e i j l pos hs hn]
  refine (State.byteAt_putTile_of_outside (by simpa using hm) ?_).trans (congrArg (fun m => Tbl.get 0 m b) (State.fetchTile_mem ..))
  rw [List.zipIdx_map, List.length_map]
  intro q hq
  obtain ⟨z, hz, rfl⟩ := List.mem_map.mp hq
  exact hb z hz

end

theorem State.engD_setEng_other {s : State} (h : s.eng.ordered) {d e k : Nat} (hk : k ≠ e) (x : Engine) :
    (s.setEng d e x).engD d k = s.engD d k :=
  State.setEng_eng_get_other h (by omega) x

/-- A unit joins those that have been sent to member `k` of a list (R123). -/
def State.sendUnit (s : State) (d lst : Nat) (u : McUnit) (k : Nat) : State :=
  let y := s.engD d k
  s.setEng d k { y with mcIn := y.mcIn.set [] lst (y.mcIn.get [] lst ++ [u]) }

theorem State.sendUnit_eng_ordered {s : State} (h : s.eng.ordered) (d lst : Nat) (u : McUnit) (k : Nat) : (s.sendUnit d lst u k).eng.ordered :=
  State.setEng_eng_ordered h _ _ _

theorem State.sendUnit_mcIn {s : State} (h : s.eng.ordered) (d lst : Nat) (u : McUnit) (k : Nat) :
    ((s.sendUnit d lst u k).engD d k).mcIn.get [] lst = (s.engD d k).mcIn.get [] lst ++ [u] := by
  rw [State.sendUnit, State.engD_setEng_same h]
  exact Tbl.get_set_self (by simp) _ _

/-- Each member of a list is sent a unit once. -/
theorem State.sendUnits_mcIn (d lst : Nat) (u : McUnit) (k : Nat) : ∀ (ks : List Nat) (s : State), s.eng.ordered → ks.Nodup →
    ((ks.foldl (fun t k => t.sendUnit d lst u k) s).engD d k).mcIn.get [] lst =
      (s.engD d k).mcIn.get [] lst ++ (if k ∈ ks then [u] else [])
  | [], s, _, _ => by simp
  | q :: ks, s, h, hn => by
    obtain ⟨hq, hks⟩ := List.nodup_cons.mp hn
    rw [List.foldl_cons, State.sendUnits_mcIn d lst u k ks _ (State.sendUnit_eng_ordered h _ _ _ _) hks]
    by_cases hkq : k = q
    · subst hkq
      rw [State.sendUnit_mcIn h]
      simp [hq]
    · rw [State.sendUnit, State.engD_setEng_other h hkq]
      simp [hkq]

theorem State.sendUnits_frame (s : State) (d lst : Nat) (u : McUnit) (ks : List Nat) :
    let t := ks.foldl (fun t k => t.sendUnit d lst u k) s
    t = { s with eng := t.eng } := by
  refine List.foldlRecOn (motive := fun t : State => t = { s with eng := t.eng }) _ _ rfl ?_
  intro t ht k _
  rw [ht]
  rfl

/-- The tiles of a unit, one for each lane in the list's order, and the state after they have been read (R123). -/
def State.readUnit (s : State) (d : Die) (e : Eng) (j : Job) (pos : Nat) : List (Nat × STile) × State :=
  j.lanes.zipIdx.foldl (fun (a : List (Nat × STile) × State) q =>
    let f := a.2.fetchTile d e j.mpd q.1.lane (s.passOf j.mpd q.1.lane pos)
    (a.1 ++ [(q.2, f.1)], f.2)) ([], s)

theorem State.readUnit_frame (s : State) (d : Die) (e : Eng) (j : Job) (pos : Nat) :
    let t := (s.readUnit d e j pos).2
    t = { s with evt := t.evt, cnt := t.cnt, freeCtr := t.freeCtr } := by
  unfold State.readUnit
  refine List.foldlRecOn (motive := fun a : List (Nat × STile) × State =>
    a.2 = { s with evt := a.2.evt, cnt := a.2.cnt, freeCtr := a.2.freeCtr }) _ _ rfl ?_
  intro a ha q _
  dsimp only
  rw [State.fetchTile_frame, ha]

theorem map_fst_foldl_append {α β γ : Type} (f : β → α → γ × β) (l : List (α × Nat)) : ∀ a : List (Nat × γ) × β,
    ((l.foldl (fun a q => (a.1 ++ [(q.2, (f a.2 q.1).1)], (f a.2 q.1).2)) a).1.map Prod.fst) = a.1.map Prod.fst ++ l.map Prod.snd := by
  induction l with
  | nil => simp
  | cons q l ih => intro a; simp [ih]

theorem State.readUnit_places (s : State) (d : Die) (e : Eng) (j : Job) (pos : Nat) :
    (s.readUnit d e j pos).1.map Prod.fst = List.range j.lanes.length := by
  have h := map_fst_foldl_append (fun (u : State) (q : LaneProg) => u.fetchTile d e j.mpd q.lane (s.passOf j.mpd q.lane pos)) j.lanes.zipIdx ([], s)
  rw [List.zipIdx_map_snd, ← List.range_eq_range'] at h
  exact h

/-- The unit that the leader of a list sends to its members (R123). -/
def State.unitOf (s : State) (d : Die) (e : Eng) (j : Job) (pos : Nat) : McUnit :=
  { seq := 0, addr := s.unitAddr j.mpd pos, shape := mpdTile j.mpd.words, slot := 0, tiles := (s.readUnit d e j pos).1 }

/-- A job of which every lane has fetched its tile of a pass. -/
def State.jobFetched (s : State) (j : Job) (pos : Nat) : Job :=
  { j with lanes := j.lanes.map fun q => { q with fetched := pos + 1, fkey := statKey j.mpd (s.passOf j.mpd q.lane pos) } }

/-- With a free entry in every member of the list, the leader reads a unit and sends it to them all. -/
theorem State.fetchUnit_of_free {s : State} {d : Die} {e : Eng} {i : Nat} {j : Job} {pos : Nat}
    (h : let r := s.mcastRec d (s.activeOf d) (mpdList j.mpd.words)
      ((List.range 36).filter (mcMember r)).all (fun k => (s.engD d k).mcFree (mpdList j.mpd.words) (mcDepth r)) = true) :
    s.fetchUnit d e i j pos =
      (((List.range 36).filter (mcMember (s.mcastRec d (s.activeOf d) (mpdList j.mpd.words)))).foldl
        (fun t k => t.sendUnit d (mpdList j.mpd.words) (s.unitOf d e j pos) k)
        ((s.readUnit d e j pos).2.setEng d e ((s.engD d e).setJob i (s.jobFetched j pos)))).count
          (regAddr (Page.eng d e) 0x298) (j.lanes.map fun q => s.fetchAc j.mpd q.lane).sum := by
  simp only [State.fetchUnit, h, Bool.not_true, Bool.false_eq_true, ↓reduceIte]
  rfl

section
variable {s : State} {d : Die} {e : Eng} {i : Nat} {j : Job} {pos : Nat}
  (h : let r := s.mcastRec d (s.activeOf d) (mpdList j.mpd.words)
    ((List.range 36).filter (mcMember r)).all (fun k => (s.engD d k).mcFree (mpdList j.mpd.words) (mcDepth r)) = true)
include h

theorem State.fetchUnit_frame :
    let t := s.fetchUnit d e i j pos
    t = { s with eng := t.eng, evt := t.evt, cnt := t.cnt, freeCtr := t.freeCtr } := by
  rw [State.fetchUnit_of_free h, State.sendUnits_frame, State.readUnit_frame]
  rfl

theorem State.fetchUnit_mcIn (he : s.eng.ordered) {k : Nat} (hk : k < 36)
    (hm : mcMember (s.mcastRec d (s.activeOf d) (mpdList j.mpd.words)) k = true) :
    ((s.fetchUnit d e i j pos).engD d k).mcIn.get [] (mpdList j.mpd.words) =
      (s.engD d k).mcIn.get [] (mpdList j.mpd.words) ++ [s.unitOf d e j pos] := by
  have hread : (s.readUnit d e j pos).2.eng = s.eng := by rw [State.readUnit_frame]
  have hord : (s.readUnit d e j pos).2.eng.ordered := hread ▸ he
  have hself : ∀ x : Engine, x.mcIn = (s.engD d e).mcIn →
      (((s.readUnit d e j pos).2.setEng d e x).engD d k).mcIn = (s.engD d k).mcIn := by
    intro x hx
    by_cases hke : k = e
    · rw [hke, State.engD_setEng_same hord, hx]
    · rw [State.engD_setEng_other hord hke, State.engD, hread]
      rfl
  rw [State.fetchUnit_of_free h]
  refine (State.sendUnits_mcIn d _ _ k _ _ (State.setEng_eng_ordered hord _ _ _) (List.nodup_range.filter _)).trans ?_
  rw [hself ((s.engD d e).setJob i (s.jobFetched j pos)) rfl, if_pos (List.mem_filter.mpr ⟨List.mem_range.mpr hk, hm⟩)]

end

end Sys2Proof.Machine
end

section
/-! SHADOW_LOAD_DONE and PRELOAD: the load path takes a tile out of a ring (R52, R53, R65, R68). Where a proof rewrites with what `State.takeTile`
finds, the function stands as a variable: the kernel, which compares the matches before and after, would run it. -/

namespace Sys2Proof.Machine

/-- What the load path finds for a lane does not depend on the state's own engines and counters. -/
theorem State.takeTile_frame (s : State) (g : Tbl Engine) (c : Tbl Nat) (d e : Nat) (x : Engine) (j : Job) (lane pos : Nat) :
    State.takeTile { s with eng := g, cnt := c } d e x j lane pos = s.takeTile d e x j lane pos := rfl

/-- The order of the loads plays no part in it, and stays as it is. -/
theorem State.takeTile_loads (s : State) (d e : Nat) (x : Engine) (q : Tbl (List Nat)) (j : Job) (lane pos : Nat) :
    s.takeTile d e { x with loads := q } j lane pos =
      (s.takeTile d e x j lane pos).map fun r => (r.1, { r.2 with loads := q }) := by
  simp only [State.takeTile]
  split
  · split <;> rfl
  · split
    · split
      · rfl
      · simp only [Option.map_map, Function.comp_def]
    · simp only [Option.map_map, Function.comp_def]

/-- Taking a tile out of a ring leaves the queue of MPDs. -/
theorem State.takeTile_queue {s : State} {d e : Nat} {x x1 : Engine} {j : Job} {lane pos : Nat} {u : STile}
    (h : s.takeTile d e x j lane pos = some (u, x1)) : x1.queue = x.queue := by
  simp only [State.takeTile] at h
  split at h
  · simp only [Option.ite_none_right_eq_some, Option.some.injEq, Prod.mk.injEq] at h
    rw [← h.2.2]
  · split at h
    · split at h
      · cases h
      · simp only [Option.map_eq_some_iff, Prod.mk.injEq] at h
        obtain ⟨q, -, -, rfl⟩ := h
        rfl
    · simp only [Option.map_eq_some_iff, Prod.mk.injEq] at h
      obtain ⟨q, -, -, rfl⟩ := h
      rfl

/-- A lane whose next tile is at hand is ready for the load path (R65). -/
theorem State.loadReady_of_takeTile {s : State} {d e lane pos : Nat} {j : Job} {l : LaneProg} {r : STile × Engine}
    (hl : j.lane? lane = some l) (hp : s.loadPos j.mpd l = some pos) (ht : s.takeTile d e (s.engD d e) j lane pos = some r) :
    s.loadReady d e j lane = true := by
  unfold State.loadReady
  obtain ⟨take, htake⟩ : ∃ take, take = State.takeTile := ⟨_, rfl⟩
  rw [← htake] at ht ⊢
  simp only [hl, hp, ht, Option.isSome_some, Bool.or_true]

/-- A report writes a Leaven entry alone (R39). -/
theorem State.levReport_frame (s : State) (d t : Nat) (r : RangeReport) :
    s.levReport d t r = { s with leaven := (s.levReport d t r).leaven } := by
  unfold State.levReport
  simp only [State.setLev]

theorem State.reportInv_frame (s : State) (d : Nat) (m : Mpd) (lane n : Nat) :
    s.reportInv d m lane n = { s with leaven := (s.reportInv d m lane n).leaven } :=
  State.levReport_frame s d _ _

theorem State.reportInv_engD (s : State) (d : Nat) (m : Mpd) (lane n d' e : Nat) : (s.reportInv d m lane n).engD d' e = s.engD d' e := by
  unfold State.engD
  rw [State.reportInv_frame]

/-- The progress of a lane whose tile of position `pos` has gone into its shadow tile. -/
def State.laneLoaded (s : State) (j : Job) (l : LaneProg) (pos : Nat) (u : STile) : LaneProg :=
  l.load pos (statKey j.mpd (s.passOf j.mpd l.lane pos)) u

@[simp] theorem State.laneLoaded_lane (s : State) (j : Job) (l : LaneProg) (pos : Nat) (u : STile) :
    (s.laneLoaded j l pos u).lane = l.lane := rfl

section
variable {s : State} {d e i lane pos : Nat} {j : Job} {l : LaneProg} {u : STile} {x1 : Engine}
  (hj : (s.engD d e).job? i = some j) (hl : j.lane? lane = some l) (hp : s.loadPos j.mpd l = some pos)
  (ht : s.takeTile d e (s.engD d e) j lane pos = some (u, x1))
include hj hl hp ht

/-- A lane whose next tile is at hand takes it into its shadow tile, and the tile's invalid inputs are reported (R21, R52). -/
theorem State.loadShadow_of_takeTile :
    s.loadShadow d e i lane = (s.setEng d e (x1.setJob i (j.setLane (s.laneLoaded j l pos u)))).reportInv d j.mpd lane u.inv := by
  unfold State.loadShadow State.laneLoaded
  rw [Job.lane?_lane hl]
  obtain ⟨take, htake⟩ : ∃ take, take = State.takeTile := ⟨_, rfl⟩
  rw [← htake] at ht ⊢
  simp only [hj, hl, hp, ht]

theorem State.loadShadow_laneAt (he : s.eng.ordered) :
    ((s.loadShadow d e i lane).engD d e).laneAt i lane = some (s.laneLoaded j l pos u) := by
  have hj1 : x1.job? i = some j := by
    rw [Engine.job?, State.takeTile_queue ht]
    exact hj
  have heng : (s.loadShadow d e i lane).engD d e = x1.setJob i (j.setLane (s.laneLoaded j l pos u)) := by
    rw [State.loadShadow_of_takeTile hj hl hp ht, State.reportInv_engD, State.engD_setEng_same he]
  rw [heng]
  exact Engine.laneAt_setJob_setLane hj1 hl (by rw [State.laneLoaded_lane, Job.lane?_lane hl])

/-- A load writes the engine and the Leaven entry that takes the report. -/
theorem State.loadShadow_frame :
    let t := s.loadShadow d e i lane
    t = { s with eng := t.eng, leaven := t.leaven } := by
  dsimp only
  rw [State.loadShadow_of_takeTile hj hl hp ht, State.reportInv_frame]
  rfl

end

/-- The state from which SHADOW_LOAD_DONE carries out the load of a lane of array `ar`: the order of the loads is kept, and the corrected errors
of the operand buffer are counted (R65, R66). -/
def State.loadsNoted (s : State) (d e ar n : Nat) : State := (s.noteLoads d e ar).obCorrected d e n

/-- SHADOW_LOAD_DONE serves the lane whose turn it is: it reloads the active tile, or loads the next tile (R52, R65, R68). -/
theorem exec_shadowLoadDone {s : State} {d : Die} {e : Eng} {a : Arr} {h : Half} {n i : Nat} {j : Job} {l : LaneProg}
    (hs : s.bel.stopped = false) (hr : (s.engD d e).runLane ((s.engD d e).laneFor a h) = some (i, j, l))
    (hq : (s.loadQueue d e ((s.engD d e).laneFor a h / 3)).find? (s.loadReady d e j) = some ((s.engD d e).laneFor a h)) :
    exec (.shadowLoadDone d e a ⟨h, n⟩) s =
      .next (if l.reload then (s.loadsNoted d e ((s.engD d e).laneFor a h / 3) n).reloadActive d e i j l
        else (s.loadsNoted d e ((s.engD d e).laneFor a h / 3) n).loadShadow d e i ((s.engD d e).laneFor a h)) := by
  show execShadowLoadDone d e a ⟨h, n⟩ s = _
  simp only [execShadowLoadDone, State.still, hs, hr, hq, ne_eq, not_true_eq_false, Bool.false_eq_true, ↓reduceIte, State.loadsNoted]

/-- PRELOAD loads the first tile of the next MPD of an array that is free for it (R53). -/
theorem exec_preload {s : State} {d : Die} {e : Eng} {a : Arr} {h : Half} {n k : Nat} {j : Job} {l : LaneProg}
    (hs : s.bel.stopped = false) (hn : (s.engD d e).nextJob (arrNum a) = some (j, k)) (hen : s.preloadEn d e = true)
    (hfree : (j.mpd.laneArrays (j.mpd.laneFor a h)).all
      (fun q => s.shadowFree (s.engD d e) q && ((s.engD d e).nextJob q).map Prod.snd = some k) = true)
    (hl : j.lane? (j.mpd.laneFor a h) = some l) (hsh : l.shadow = none) (hld : l.loaded = 0)
    (hr : s.loadReady d e j (j.mpd.laneFor a h) = true) :
    exec (.preload d e a ⟨h, n⟩) s = .next ((s.obCorrected d e n).loadShadow d e k (j.mpd.laneFor a h)) := by
  show execPreload d e a ⟨h, n⟩ s = _
  simp only [execPreload, State.still, hs, hn, hen, hfree, hl, hsh, hld, hr, Bool.false_eq_true, ↓reduceIte, Option.isNone_none, decide_true,
    Bool.and_self]

theorem State.loadsNoted_eq (s : State) (d e ar n : Nat) :
    s.loadsNoted d e ar n = { s with eng := (s.loadsNoted d e ar n).eng, cnt := (s.loadsNoted d e ar n).cnt } := rfl

theorem State.loadsNoted_eng_ordered {s : State} (he : s.eng.ordered) (d e ar n : Nat) : (s.loadsNoted d e ar n).eng.ordered :=
  State.setEng_eng_ordered he d e _

theorem State.loadsNoted_engD {s : State} (he : s.eng.ordered) (d e ar n : Nat) :
    (s.loadsNoted d e ar n).engD d e = { s.engD d e with loads := (s.engD d e).loads.set [] ar (s.loadQueue d e ar) } :=
  State.engD_setEng_same he d e _

theorem State.loadsNoted_cntAt {s : State} (hc : s.cnt.ordered) (d e ar n : Nat) :
    (s.loadsNoted d e ar n).cntAt (regAddr (Page.eng d e) cntObCorrected) = s.cntAt (regAddr (Page.eng d e) cntObCorrected) + n :=
  State.cntAt_count_same (s := s.noteLoads d e ar) hc _ n

/-- The load path finds the same tile there. -/
theorem State.loadsNoted_takeTile {s : State} (he : s.eng.ordered) {d e ar n lane pos : Nat} {j : Job} {u : STile} {x1 : Engine}
    (ht : s.takeTile d e (s.engD d e) j lane pos = some (u, x1)) :
    ∃ x2, (s.loadsNoted d e ar n).takeTile d e ((s.loadsNoted d e ar n).engD d e) j lane pos = some (u, x2) := by
  rw [State.loadsNoted_engD he, State.loadsNoted_eq, State.takeTile_frame, State.takeTile_loads, ht]
  exact ⟨_, rfl⟩

/-- The tile of a load goes into the shadow tile of its lane (R52). -/
theorem State.loadsNoted_loadShadow {s : State} (he : s.eng.ordered) (hc : s.cnt.ordered) {d e ar n i lane pos : Nat} {j : Job} {l : LaneProg}
    {u : STile} {x1 : Engine} (hj : (s.engD d e).job? i = some j) (hl : j.lane? lane = some l) (hp : s.loadPos j.mpd l = some pos)
    (ht : s.takeTile d e (s.engD d e) j lane pos = some (u, x1)) :
    let t := (s.loadsNoted d e ar n).loadShadow d e i lane
    t = { s with eng := t.eng, leaven := t.leaven, cnt := t.cnt } ∧
      t.cntAt (regAddr (Page.eng d e) cntObCorrected) = s.cntAt (regAddr (Page.eng d e) cntObCorrected) + n ∧
      ((t.engD d e).laneAt i lane).map (fun q => (q.shadow, q.loaded)) = some (some u, pos + 1) := by
  obtain ⟨x2, ht2⟩ := State.loadsNoted_takeTile (ar := ar) (n := n) he ht
  have hj2 : ((s.loadsNoted d e ar n).engD d e).job? i = some j := by
    rw [State.loadsNoted_engD he]
    exact hj
  have hframe := State.loadShadow_frame hj2 hl hp ht2
  refine ⟨?_, ?_, ?_⟩
  · rw [hframe, State.loadsNoted_eq]
  · rw [← State.loadsNoted_cntAt hc d e ar n, hframe]
    rfl
  · rw [State.loadShadow_laneAt hj2 hl hp ht2 (State.loadsNoted_eng_ordered he d e ar n)]
    rfl

/-- A reload takes the active tile of a lane again and leaves the lane's other progress (R68). -/
theorem State.loadsNoted_reloadActive {s : State} (he : s.eng.ordered) (hc : s.cnt.ordered) {d e ar n i lane : Nat} {j : Job} {l : LaneProg}
    (hj : (s.engD d e).job? i = some j) (hl : j.lane? lane = some l) :
    let t := (s.loadsNoted d e ar n).reloadActive d e i j l
    t = { s with eng := t.eng, cnt := t.cnt } ∧
      t.cntAt (regAddr (Page.eng d e) cntObCorrected) = s.cntAt (regAddr (Page.eng d e) cntObCorrected) + n ∧
      ((t.engD d e).laneAt i lane).map (fun q => (q.reload, q.shadow, q.loaded, q.pos, q.rung)) =
        some (false, l.shadow, l.loaded, l.pos, l.rung) := by
  have hj2 : ((s.loadsNoted d e ar n).engD d e).job? i = some j := by
    rw [State.loadsNoted_engD he]
    exact hj
  have hlane : l.lane = lane := Job.lane?_lane hl
  refine ⟨rfl, State.loadsNoted_cntAt hc d e ar n, ?_⟩
  rw [State.reloadActive, State.engD_setEng_same (State.loadsNoted_eng_ordered he d e ar n), Engine.laneAt_setJob_setLane hj2 hl]
  · rfl
  · exact hlane

/-- PRELOAD fills the shadow tile of a lane of the next MPD (R53). -/
theorem State.obCorrected_loadShadow {s : State} (he : s.eng.ordered) {d e n k lane pos : Nat} {j : Job} {l : LaneProg}
    {u : STile} {x1 : Engine} (hj : (s.engD d e).job? k = some j) (hl : j.lane? lane = some l) (hp : s.loadPos j.mpd l = some pos)
    (ht : s.takeTile d e (s.engD d e) j lane pos = some (u, x1)) :
    let t := (s.obCorrected d e n).loadShadow d e k lane
    t = { s with eng := t.eng, leaven := t.leaven, cnt := t.cnt } ∧ ((t.engD d e).laneAt k lane).map (·.shadow) = some (some u) := by
  have ht2 : (s.obCorrected d e n).takeTile d e ((s.obCorrected d e n).engD d e) j lane pos = some (u, x1) := ht
  have hframe := State.loadShadow_frame (s := s.obCorrected d e n) hj hl hp ht2
  refine ⟨?_, ?_⟩
  · rw [hframe]
    rfl
  · rw [State.loadShadow_laneAt (s := s.obCorrected d e n) hj hl hp ht2 he]
    rfl

theorem State.tablesOk_ordered {s : State} (h : s.tablesOk) : s.eng.ordered ∧ s.cnt.ordered ∧ s.mem.ordered := by
  obtain ⟨-, -, -, -, hcnt, -, hmem, -, heng, -⟩ := h
  exact ⟨heng, hcnt, hmem⟩

/-- Settles O45: a fetch and a load are taken apart into what the engine, the rings and the load path become; the load path finds the same tile
once the order of the loads has been kept. -/
theorem stationaryTiles : Obligations.StationaryTiles := by
  unfold Obligations.StationaryTiles
  refine ⟨?_, ?_, ?_, ?_, ?_⟩
  · intro s d e a h j i l pos slots hs htab hc hl hp hf hturn hreuse hslots hlen tile
    obtain ⟨heng, -, hmem⟩ := State.tablesOk_ordered htab
    have hjob := State.fetchCand_job hc
    have hlane := Job.lane?_lane hl
    have hexec := exec_tileFetch hs hc hl hp hf hturn
    rw [if_neg (by simp [hreuse])] at hexec
    have hengine := State.fetchRing_engD (i := i) (pos := pos) hslots hlen heng
    refine ⟨_, hexec, State.fetchRing_frame s d e i j l pos, fun k hk => State.fetchRing_eng_other hslots hlen heng hk, ?_, ?_,
      fun b hb => State.fetchRing_byteAt hslots hlen hmem hb⟩
    · rw [hengine]
      rfl
    · rw [hengine, Engine.fetched_laneAt hjob (hlane.symm ▸ hl)]
      rfl
  · intro s d e a h j i l pos hs htab hc hl hp hf hturn hreuse r hfree
    obtain ⟨heng, -, -⟩ := State.tablesOk_ordered htab
    have hexec := exec_tileFetch hs hc hl hp hf hturn
    rw [if_pos hreuse] at hexec
    exact ⟨_, hexec, State.fetchUnit_frame hfree, s.unitOf d e j pos, rfl, State.readUnit_places s d e j pos,
      fun k hk hm => State.fetchUnit_mcIn hfree heng hk hm⟩
  · intro s d e a h n i j l pos u x1 hs htab lane hr hq hreload hp ht
    obtain ⟨heng, hcnt, -⟩ := State.tablesOk_ordered htab
    obtain ⟨hjob, hl⟩ := Engine.runLane_eq_some hr
    have hexec := exec_shadowLoadDone (n := n) hs hr hq
    rw [if_neg (by simp [hreload])] at hexec
    exact ⟨_, hexec, State.loadsNoted_loadShadow heng hcnt hjob hl hp ht⟩
  · intro s d e a h n i j l hs htab lane hr hq hreload
    obtain ⟨heng, hcnt, -⟩ := State.tablesOk_ordered htab
    obtain ⟨hjob, hl⟩ := Engine.runLane_eq_some hr
    have hexec := exec_shadowLoadDone (n := n) hs hr hq
    rw [if_pos hreload] at hexec
    exact ⟨_, hexec, State.loadsNoted_reloadActive heng hcnt hjob hl⟩
  · intro s d e a h n j k l pos u x1 hs htab hn lane hen hfree hl hshadow hloaded hp ht
    obtain ⟨heng, -, -⟩ := State.tablesOk_ordered htab
    exact ⟨_, exec_preload hs hn hen hfree hl hshadow hloaded (State.loadReady_of_takeTile hl hp ht),
      State.obCorrected_loadShadow heng (Engine.nextJob_job hn) hl hp ht⟩

end Sys2Proof.Machine
end

section
/-! O56 fails for a conduit whose ENTRY_BYTES is 0. Such a conduit has an empty send area (R329), and the statement lets a checkpoint stream over
it write no byte of memory; but `State.sendBulk` cuts the bulk data of such a conduit into pieces of 65,536 bytes and puts them at SEND_BASE all
the same. The first clause on EXPORT_FRAME, with the run frame, shows it. -/

namespace Sys2Proof.Machine

/-- EXPORT_FRAME sends the run frame of a checkpoint stream that has not begun (R270). -/
theorem exec_exportFrame_run {s : State} {e : Export} (hs : s.bel.stopped = false) (he : s.spine.exporting = some e)
    (hb : e.begun = false) :
    exec .exportFrame s = .next (s.sendFrame 0 { e with begun := true } (s.runFrameBytes e) true) := by
  show execExportFrame s = _
  simp [execExportFrame, State.still, hs, he, hb]

/-- A full checkpoint stream over conduit 0 of which no frame has been sent. -/
def conduitExport : Export :=
  { lo := 0, hi := 0, base := none, late := false, begun := false, next := 0, conduit := some 0 }

/-- The package after reset, but for that stream and for conduit 0: valid, on VC5 over port code 0, with SEND_BASE at the collectives buffers of
ED0 and ENTRY_BYTES at its reset value 0 (R329). -/
def emptySendArea : State :=
  { State.reset with
    shAct := ⟨[(winConduit 0 0, 0xB), (winConduit 0 4, 0xC0000000), (winConduit 0 5, 0xC)]⟩
    spine := { Spine.reset with exporting := some conduitExport } }

/-- CKPT_EXPORT takes such a conduit (R271), and its send area holds no byte. -/
theorem emptySendArea_conduit :
    emptySendArea.bulkConduit (some 0) = true ∧ emptySendArea.cndSend 0 = collBase 0 ∧ emptySendArea.cndArea 0 = 0 := by
  decide +kernel

set_option maxRecDepth 20000 in
/-- The first byte of the run frame's magic number stands at SEND_BASE once the frame is sent; nothing was written there before. -/
theorem emptySendArea_written :
    (emptySendArea.sendFrame 0 { conduitExport with begun := true } (emptySendArea.runFrameBytes conduitExport) true).byteAt (collBase 0) =
        0x4E#8 ∧
      emptySendArea.byteAt (collBase 0) = 0#8 := by
  decide +kernel

/-- Refutes O56: a checkpoint stream over a conduit whose ENTRY_BYTES is 0 writes its run frame at SEND_BASE, outside the conduit's empty send
area. -/
theorem not_sealAndCheckpoints : ¬ Obligations.SealAndCheckpoints := by
  unfold Obligations.SealAndCheckpoints
  rintro ⟨-, -, -, -, -, -, -, hframes, -⟩
  obtain ⟨hrun, -⟩ := hframes emptySendArea conduitExport rfl ⟨rfl, rfl⟩ (by decide +kernel) rfl
  obtain ⟨t, ht, -, hframe, -⟩ := hrun rfl (Or.inl rfl)
  rw [exec_exportFrame_run rfl rfl rfl] at ht
  obtain rfl := Host.Outcome.next.inj ht
  obtain ⟨-, hsend, harea⟩ := emptySendArea_conduit
  obtain ⟨hafter, hbefore⟩ := emptySendArea_written
  have hsame := hframe 0 rfl (collBase 0) (Or.inr (by rw [hsend, harea]; rfl))
  rw [hafter, hbefore] at hsame
  exact absurd hsame (by decide)

end Sys2Proof.Machine
end

section
/-! What a command of one engine may change, and what a lane, an array and the counters read as afterwards. -/

namespace Sys2Proof.Machine

theorem State.onlyEngine_trans {s t u : State} {d e : Nat} (h : s.onlyEngine t d e) (g : t.onlyEngine u d e) : s.onlyEngine u d e := by
  obtain ⟨h1, h2⟩ := h
  obtain ⟨g1, g2⟩ := g
  refine ⟨?_, fun k hk => (g2 k hk).trans (h2 k hk)⟩
  rw [g1, h1]

theorem State.onlyEngine_setEng {s t : State} {d e : Nat} (ht : t.eng.ordered) (h : s.onlyEngine t d e) (x : Engine) :
    s.onlyEngine (t.setEng d e x) d e :=
  State.onlyEngine_trans h ⟨rfl, fun _ hk => State.setEng_eng_get_other ht hk x⟩

theorem State.onlyEngine_count {s t : State} {d e : Nat} (h : s.onlyEngine t d e) (a n : Nat) : s.onlyEngine (t.count a n) d e :=
  State.onlyEngine_trans h ⟨rfl, fun _ _ => rfl⟩

theorem State.onlyEngine_raise {s t : State} {d e : Nat} (h : s.onlyEngine t d e) (p c : Nat) (pl : List Byte) :
    s.onlyEngine (t.raise p c pl) d e :=
  State.onlyEngine_trans h ⟨rfl, fun _ _ => rfl⟩

theorem State.onlyEngine_refl (s : State) (d e : Nat) : s.onlyEngine s d e := ⟨rfl, fun _ _ => rfl⟩

@[simp] theorem State.engD_count (s : State) (a n d e : Nat) : (s.count a n).engD d e = s.engD d e := rfl
@[simp] theorem State.engD_raise (s : State) (p c : Nat) (pl : List Byte) (d e : Nat) : (s.raise p c pl).engD d e = s.engD d e := rfl

/-- A counter other than the one counted stays. -/
theorem State.cntAt_count_other {s : State} (h : s.cnt.ordered) {a b : Nat} (hb : b ≠ a) (n : Nat) : (s.count a n).cntAt b = s.cntAt b := by
  simp [State.cntAt, Tbl.upd, Tbl.get_set_ordered h, hb]

theorem State.count_cnt_ordered {s : State} (h : s.cnt.ordered) (a n : Nat) : (s.count a n).cnt.ordered := Tbl.ordered_set h _ _

/-- A value other than that of a fresh array reads back. -/
theorem Engine.arr_setArr {x : Engine} {a : Nat} {v : Arr4} (hv : v ≠ Arr4.fresh) : (x.setArr a v).arr a = v := Tbl.get_set_self hv _ _

end Sys2Proof.Machine
end

section
/-! OVERFLOW and RUNG_3_MOVE: a pass goes back to a higher rung of the ladder (R69, R88, R89). -/

namespace Sys2Proof.Machine

/-- A lane of a running MPD whose pass is taken back onto rung `rung`, with the element that moved it there named (R88, R90). -/
def LaneProg.toRung (l : LaneProg) (rung : Nat) (named : Nat × Nat) : LaneProg := { l.replay with rung := rung, named := named }

@[simp] theorem LaneProg.toRung_lane (l : LaneProg) (rung : Nat) (named : Nat × Nat) : (l.toRung rung named).lane = l.lane := rfl

/-- An engine on which a lane of the MPD at place `i` has been taken back onto a rung. -/
def Engine.toRung (x : Engine) (i : Nat) (j : Job) (l : LaneProg) (rung : Nat) (named : Nat × Nat) : Engine :=
  x.setJob i (j.setLane (l.toRung rung named))

/-- The lane stands before the same pass, with nothing of the presentation kept. -/
theorem Engine.toRung_laneAt {x : Engine} {i lane : Nat} {j : Job} {l : LaneProg} (hr : x.runLane lane = some (i, j, l)) (rung : Nat)
    (named : Nat × Nat) :
    ((x.toRung i j l rung named).laneAt i lane).map (fun r => (r.started, r.rung, r.pos, r.work)) = some (false, rung, l.pos, []) := by
  obtain ⟨hj, hl⟩ := Engine.runLane_eq_some hr
  rw [Engine.toRung, Engine.laneAt_setJob_setLane (l' := l.toRung rung named) hj hl ((LaneProg.toRung_lane ..).trans (Job.lane?_lane hl))]
  rfl

/-- OVERFLOW on rung k below 3 takes the pass back onto rung k + 1; a step to rung 1 or 2 is counted (R88, R90). -/
theorem exec_overflow {s : State} {d : Die} {e : Eng} {a : Arr} {h : Half} {i : Nat} {j : Job} {l : LaneProg} (hs : s.bel.stopped = false)
    (hr : (s.engD d e).runLane ((s.engD d e).laneFor a h) = some (i, j, l)) (hst : l.started = true) (ho : l.overFirst = true)
    (hk : l.rung < 3) :
    exec (.overflow d e a h) s = .next
      (let t := s.setEng d e ((s.engD d e).toRung i j l (l.rung + 1) (l.past.getD l.named))
       if l.rung < 2 then t.count (engCounter d e ((s.engD d e).laneFor a h / 3) 0x130 4) 1 else t) := by
  show execOverflow d e a h s = _
  simp only [execOverflow, State.still, hs, hr, hst, ho, Nat.not_le.mpr hk, Bool.not_true, Bool.or_self, decide_false, Bool.false_eq_true,
    ↓reduceIte]
  rfl

/-- RUNG_3_MOVE takes the pass back onto rung 3 (R89). -/
theorem exec_rung3Move {s : State} {d : Die} {e : Eng} {a : Arr} {h : Half} {i : Nat} {j : Job} {l : LaneProg} (hs : s.bel.stopped = false)
    (hr : (s.engD d e).runLane ((s.engD d e).laneFor a h) = some (i, j, l)) (hst : l.started = true) (hn : l.nonfin.isSome = true)
    (ho : l.overFirst = false) (hk : l.rung < 3) :
    exec (.rung3Move d e a h) s = .next (s.setEng d e ((s.engD d e).toRung i j l 3 (l.nonfin.getD l.named))) := by
  show execRung3Move d e a h s = _
  have hnone : l.nonfin.isNone = false := by simpa using hn
  simp only [execRung3Move, State.still, hs, hr, hst, ho, hnone, Nat.not_le.mpr hk, Bool.not_true, Bool.or_self, decide_false,
    Bool.false_eq_true, ↓reduceIte]
  rfl

/-- Settles O47: the lane goes back onto its rung, and the counter of array B, or of the lane's array, steps for a move to rung 1 or 2. -/
theorem overflowLadder : Obligations.OverflowLadder := by
  unfold Obligations.OverflowLadder
  refine ⟨?_, ?_⟩
  · intro s d e a h i j l hs htab lane hr hst ho hk
    obtain ⟨heng, hcnt, -⟩ := State.tablesOk_ordered htab
    have honly := State.onlyEngine_setEng heng (State.onlyEngine_refl s d e) ((s.engD d e).toRung i j l (l.rung + 1) (l.past.getD l.named))
    have heng' := State.engD_setEng_same heng d e ((s.engD d e).toRung i j l (l.rung + 1) (l.past.getD l.named))
    refine ⟨_, exec_overflow hs hr hst ho hk, ?_⟩
    dsimp only
    split
    · rw [State.engD_count, heng']
      exact ⟨State.onlyEngine_count honly _ _, rfl, rfl, Engine.toRung_laneAt hr _ _, State.cntAt_count_same hcnt _ _⟩
    · rw [heng']
      exact ⟨honly, rfl, rfl, Engine.toRung_laneAt hr _ _, rfl⟩
  · intro s d e a h i j l hs htab lane hr hst hn ho hk
    obtain ⟨heng, -, -⟩ := State.tablesOk_ordered htab
    refine ⟨_, exec_rung3Move hs hr hst hn ho hk, State.onlyEngine_setEng heng (State.onlyEngine_refl s d e) _, ?_⟩
    rw [State.engD_setEng_same heng]
    exact ⟨rfl, rfl, Engine.toRung_laneAt hr _ _⟩

end Sys2Proof.Machine
end

section
/-! A lane stops with a fault code (R68, R71, R124). -/

namespace Sys2Proof.Machine

/-- Stopping a lane writes its engine and nothing else. -/
theorem State.stopLane_frame (s : State) (d e i lane code : Nat) :
    s.stopLane d e i lane code = { s with eng := (s.stopLane d e i lane code).eng } := by
  unfold State.stopLane
  dsimp only
  split
  · rfl
  · split <;> rfl

/-- The progress of a lane that has stopped with a fault code. -/
def LaneProg.stopped (l : LaneProg) (code : Nat) : LaneProg :=
  { l.replay with stop := code, shadow := none, active := none, reload := false }

@[simp] theorem LaneProg.stopped_lane (l : LaneProg) (code : Nat) : (l.stopped code).lane = l.lane := rfl

/-- A lane of an MPD of the queue takes the fault code; queue, drains and arrays are otherwise as before. -/
theorem State.stopLane_of_lane {s : State} {d e i lane : Nat} {j : Job} {l : LaneProg} (hj : (s.engD d e).job? i = some j)
    (hl : j.lane? lane = some l) (code : Nat) :
    ∃ x, s.stopLane d e i lane code = s.setEng d e x ∧ x.queue = ((s.engD d e).setJob i (j.setLane (l.stopped code))).queue ∧
      x.arrays = (s.engD d e).arrays := by
  simp only [State.stopLane, hj, hl]
  exact ⟨_, rfl, rfl, rfl⟩

/-- Stopping lanes of one MPD of an engine, one after another. -/
def State.stopLanes (s : State) (d e i code : Nat) (lanes : List Nat) : State := lanes.foldl (fun t q => t.stopLane d e i q code) s

theorem State.stopLanes_frame (s : State) (d e i code : Nat) (lanes : List Nat) :
    s.stopLanes d e i code lanes = { s with eng := (s.stopLanes d e i code lanes).eng } := by
  refine List.foldlRecOn (motive := fun t : State => t = { s with eng := t.eng }) _ _ rfl ?_
  intro t ht q _
  rw [State.stopLane_frame, ht]

end Sys2Proof.Machine
end

section
/-! BALLAST_PASS, MULTICAST_UNIT and SEQ_MCAST_STALL (R76, R122 to R124, R355). -/

namespace Sys2Proof.Machine

/-- An engine that has discarded the units it holds for a list (R124). -/
def Engine.dropUnits (x : Engine) (lst : Nat) : Engine := { x with mcIn := x.mcIn.set [] lst [], mcRing := x.mcRing.set [] lst [] }

/-- A die on which engine `e` has disabled a list (R124). -/
def FabDie.listFault (f : FabDie) (e lst code : Nat) : FabDie :=
  { f with
    disabled := if f.disabled.contains lst then f.disabled else f.disabled ++ [lst], mcFaults := f.mcFaults ++ [(e, lst, code)] }

/-- A multicast fault stops lanes of the MPD, discards the units of the list, disables the list on the die and is reported (R124). -/
theorem State.mcFault_eq (s : State) (d e lst i code : Nat) (pl : List Byte) :
    ∃ lanes, s.mcFault d e lst i code pl =
      (((s.stopLanes d e i code lanes).setEng d e (((s.stopLanes d e i code lanes).engD d e).dropUnits lst)).updFab d
        fun f => f.listFault e lst code).raise (Page.eng d e) code pl :=
  ⟨_, rfl⟩

theorem State.mcFault_frame (s : State) (d e lst i code : Nat) (pl : List Byte) :
    let t := s.mcFault d e lst i code pl
    t = { s with eng := t.eng, fab := t.fab, evt := t.evt, cnt := t.cnt } := by
  obtain ⟨lanes, h⟩ := State.mcFault_eq s d e lst i code pl
  dsimp only
  rw [h, State.stopLanes_frame]
  rfl

/-- A multicast fault disables the list on the die (R124). -/
theorem State.mcFault_disabled {s : State} (hf : s.fab.ordered) (d e lst i code : Nat) (pl : List Byte) :
    lst ∈ ((s.mcFault d e lst i code pl).fabD d).disabled := by
  obtain ⟨lanes, h⟩ := State.mcFault_eq s d e lst i code pl
  have hfab : (s.mcFault d e lst i code pl).fabD d = (s.fabD d).listFault e lst code := by
    rw [h, State.stopLanes_frame]
    exact (Tbl.get_set_ordered hf d d _).trans (if_pos rfl)
  rw [hfab, FabDie.listFault]
  dsimp only
  split
  · rename_i hin
    simpa using hin
  · simp

/-- A multicast unit leaves the way to a member, which counts it (R123). -/
def State.unitTaken (s : State) (d e lst : Nat) (us : List McUnit) : State :=
  (s.setEng d e { s.engD d e with
    mcIn := (s.engD d e).mcIn.set [] lst us, mcCount := (s.engD d e).mcCount.upd 0 lst (· + 1) }).count (regAddr (Page.eng d e) 0x290) 1

section
variable {s : State} {d : Die} {e : Eng} {lst : Fin 64} {u : McUnit} {us : List McUnit} (hs : s.bel.stopped = false)
  (hu : (s.engD d e).mcIn.get [] lst.val = u :: us)
include hs hu

/-- A unit that no accepted MPD needs is discarded on a disabled list (log entry 157). -/
theorem exec_multicastUnit_discarded (hn : s.mcNext d e lst.val = none) (hd : (s.fabD d).disabled.contains lst.val = true) :
    exec (.multicastUnit d e lst) s = .next (s.unitTaken d e lst us) := by
  show execMulticastUnit d e lst s = _
  simp only [execMulticastUnit, State.still, hs, hu, hn, hd, Bool.false_eq_true, ↓reduceIte]
  rfl

/-- A unit of the member's own next pass enters its ring (R123). -/
theorem exec_multicastUnit_held {i pos : Nat} {j : Job} (hn : s.mcNext d e lst.val = some (i, pos)) (hj : (s.engD d e).job? i = some j)
    (ha : s.unitAddr j.mpd pos = u.addr) :
    exec (.multicastUnit d e lst) s = .next ((s.unitTaken d e lst us).holdUnit d e lst i j u) := by
  show execMulticastUnit d e lst s = _
  simp only [execMulticastUnit, State.still, hs, hu, hn, hj, ha, Bool.false_eq_true, ↓reduceIte]
  rfl

/-- A unit with another address is a mismatch (R124). -/
theorem exec_multicastUnit_mismatch {i pos : Nat} {j : Job} (hn : s.mcNext d e lst.val = some (i, pos)) (hj : (s.engD d e).job? i = some j)
    (ha : s.unitAddr j.mpd pos ≠ u.addr) :
    exec (.multicastUnit d e lst) s = .next ((s.unitTaken d e lst us).mcMismatch d e lst i j pos) := by
  show execMulticastUnit d e lst s = _
  simp only [execMulticastUnit, State.still, hs, hu, hn, hj, ha, Bool.false_eq_true, ↓reduceIte]
  rfl

end

/-- A wait on a list beyond MCAST_TIMEOUT is a fault (R124). -/
theorem exec_seqMcastStall {s : State} {d : Die} {e : Eng} {lst : Fin 64} {i pos who : Nat} {j : Job} (hs : s.bel.stopped = false)
    (hw : s.mcWait d e lst.val = some (i, pos, who)) (ht : s.rwAt (regAddr (Page.eng d e) 0x208) ≠ 0) (hj : (s.engD d e).job? i = some j) :
    exec (.seqMcastStall d e lst) s = .next (s.mcFault d e lst i Code.seqMcastStall (s.mcPayload d e lst j pos who)) := by
  show execSeqMcastStall d e lst s = _
  simp only [execSeqMcastStall, State.still, hs, hw, ht, hj, Bool.false_eq_true, ↓reduceIte]

section
variable {s : State} {d e lst : Nat} {us : List McUnit}

theorem State.unitTaken_frame : s.unitTaken d e lst us = { s with eng := (s.unitTaken d e lst us).eng, cnt := (s.unitTaken d e lst us).cnt } := rfl

theorem State.unitTaken_engD (he : s.eng.ordered) :
    (s.unitTaken d e lst us).engD d e = { s.engD d e with
      mcIn := (s.engD d e).mcIn.set [] lst us, mcCount := (s.engD d e).mcCount.upd 0 lst (· + 1) } :=
  State.engD_setEng_same he d e _

theorem State.unitTaken_mcCount (he : s.eng.ordered) :
    ((s.unitTaken d e lst us).engD d e).mcCount.get 0 lst = (s.engD d e).mcCount.get 0 lst + 1 := by
  rw [State.unitTaken_engD he]
  exact Tbl.get_set_self (Nat.succ_ne_zero _) _ _

theorem State.unitTaken_cntAt (hc : s.cnt.ordered) :
    (s.unitTaken d e lst us).cntAt (regAddr (Page.eng d e) 0x290) = s.cntAt (regAddr (Page.eng d e) 0x290) + 1 :=
  State.cntAt_count_same (s := s.setEng d e _) hc _ _

end

/-- The entry of a member's ring that a received unit becomes: the tiles of lanes that have stopped are left out (R122, R123). -/
def State.heldUnit (s : State) (d e lst : Nat) (j : Job) (u : McUnit) : McUnit :=
  { u with
    seq := j.mpd.seq, slot := ((s.engD d e).mcCount.get 0 lst - 1) % mcDepth (s.mcastRec d (s.activeOf d) lst)
    tiles := u.tiles.filter fun q => !(((j.lanes.filter fun l : LaneProg => l.stop ≠ 0).map LaneProg.lane).map j.place).contains q.1 }

/-- The tiles of a unit are written into its entry of the operand buffer. -/
def State.putUnit (s : State) (d e lst : Nat) (v : McUnit) : State :=
  v.tiles.foldl (fun t q => t.putTile (s.mcAddrs d e lst v q.1) q.2) s

theorem State.putUnit_frame (s : State) (d e lst : Nat) (v : McUnit) :
    s.putUnit d e lst v = { s with mem := (s.putUnit d e lst v).mem, poison := (s.putUnit d e lst v).poison } := by
  refine List.foldlRecOn (motive := fun t : State => t = { s with mem := t.mem, poison := t.poison }) _ _ rfl ?_
  intro t ht q _
  rw [State.putTile_frame, ht]

/-- A unit of which tiles are left joins the ring and the count of its MPD. -/
theorem State.holdUnit_of_tiles {s : State} {d e lst i : Nat} {j : Job} {u : McUnit} (hv : (s.heldUnit d e lst j u).tiles ≠ []) :
    s.holdUnit d e lst i j u = (s.putUnit d e lst (s.heldUnit d e lst j u)).setEng d e
      { (s.engD d e).setJob i { j with units := j.units + 1 } with
        mcRing := (s.engD d e).mcRing.set [] lst ((s.engD d e).mcRing.get [] lst ++ [s.heldUnit d e lst j u]) } := by
  have he : (s.heldUnit d e lst j u).tiles.isEmpty = false := by simpa using hv
  unfold State.heldUnit at he
  simp only [State.holdUnit, he, Bool.false_eq_true, ↓reduceIte]
  rfl

section
variable {s : State} {d e lst i : Nat} {j : Job} {u : McUnit} (hv : (s.heldUnit d e lst j u).tiles ≠ [])
include hv

theorem State.holdUnit_frame :
    let t := s.holdUnit d e lst i j u
    t = { s with eng := t.eng, mem := t.mem, poison := t.poison } := by
  dsimp only
  rw [State.holdUnit_of_tiles hv, State.putUnit_frame]
  rfl

theorem State.holdUnit_engD (he : s.eng.ordered) :
    (s.holdUnit d e lst i j u).engD d e = { (s.engD d e).setJob i { j with units := j.units + 1 } with
      mcRing := (s.engD d e).mcRing.set [] lst ((s.engD d e).mcRing.get [] lst ++ [s.heldUnit d e lst j u]) } := by
  rw [State.holdUnit_of_tiles hv]
  refine State.engD_setEng_same ?_ d e _
  rw [State.putUnit_frame]
  exact he

end

/-- An array that presents one ballast row, which the engine and the Bellows count (R76, R355; log entry 138). -/
def State.ballastRow (s : State) (d e a : Nat) : State :=
  { (s.setEng d e ((s.engD d e).setArr a { (s.engD d e).arr a with ballast := true })).count (engCounter d e a 0x54 0x1C) 1 with
    bel := { s.bel with rows := s.bel.rows + 1 } }

theorem State.ballastRow_engD {s : State} (he : s.eng.ordered) (d e a : Nat) :
    (s.ballastRow d e a).engD d e = (s.engD d e).setArr a { (s.engD d e).arr a with ballast := true } :=
  State.engD_setEng_same he d e _

theorem State.ballastRow_cntAt {s : State} (hc : s.cnt.ordered) (d e a : Nat) :
    (s.ballastRow d e a).cntAt (engCounter d e a 0x54 0x1C) = s.cntAt (engCounter d e a 0x54 0x1C) + 1 :=
  State.cntAt_count_same (s := s.setEng d e _) hc _ _

theorem exec_ballastPass {s : State} {d : Die} {e : Eng} {a : Arr} (hs : s.bel.stopped = false) (hb : 0 < s.bel.ballast)
    (ho : s.ballastOk d e (arrNum a) = true) : exec (.ballastPass d e a) s = .next (s.ballastRow d e (arrNum a)) := by
  show execBallastPass d e a s = _
  simp only [execBallastPass, State.still, hs, hb, ho, Bool.false_eq_true, and_self, ↓reduceIte]
  rfl

/-- Settles O49: a ballast row, a unit that is discarded, held or a mismatch, and a stall, each by what it makes of the engine. -/
theorem ballastAndMulticast : Obligations.BallastAndMulticast := by
  unfold Obligations.BallastAndMulticast
  refine ⟨?_, ?_, ?_, ?_, ?_⟩
  · intro s d e a hs htab hb ho
    obtain ⟨heng, hcnt, -⟩ := State.tablesOk_ordered htab
    refine ⟨_, exec_ballastPass hs hb ho, rfl, ?_, State.ballastRow_cntAt hcnt d e _⟩
    rw [State.ballastRow_engD heng, Engine.arr_setArr (by simp [Arr4.fresh])]
  · intro s d e lst u us hs htab hu hn hd
    obtain ⟨heng, hcnt, -⟩ := State.tablesOk_ordered htab
    refine ⟨_, exec_multicastUnit_discarded hs hu hn hd,
      State.onlyEngine_count (State.onlyEngine_setEng heng (State.onlyEngine_refl s d e) _) _ _, ?_, State.unitTaken_mcCount heng,
      State.unitTaken_cntAt hcnt⟩
    rw [State.unitTaken_engD heng]
  · intro s d e lst u us i pos j hs htab hu hn hj ha v hv
    obtain ⟨heng, hcnt, -⟩ := State.tablesOk_ordered htab
    have hx := State.unitTaken_engD (lst := lst.val) (us := us) (d := d) (e := e) heng
    have hheld : (s.unitTaken d e lst us).heldUnit d e lst j u = v := by
      rw [State.heldUnit, State.unitTaken_mcCount heng]
      rfl
    have hheld' : ((s.unitTaken d e lst us).heldUnit d e lst j u).tiles ≠ [] := hheld ▸ hv
    have hi : i < (s.engD d e).queue.length := (List.getElem?_eq_some_iff.mp hj).1
    have heng' := State.holdUnit_engD (i := i) hheld' (State.setEng_eng_ordered heng _ _ _)
    rw [hheld, hx] at heng'
    have hframe := State.holdUnit_frame (i := i) hheld'
    refine ⟨_, exec_multicastUnit_held hs hu hn hj ha, ?_, ?_, ?_, ?_, ?_⟩
    · rw [hframe, State.unitTaken_frame]
    · rw [heng']
      exact Tbl.get_set_self (by simp) _ _
    · rw [heng']
      simp [Engine.job?, Engine.setJob, hi]
    · rw [heng']
      exact Tbl.get_set_self (Nat.succ_ne_zero _) _ _
    · rw [hframe]
      exact State.unitTaken_cntAt hcnt
  · intro s d e lst u us i pos j hs htab hu hn hj ha
    obtain ⟨-, -, -, -, -, -, -, -, -, -, hfab, -⟩ := htab
    refine ⟨_, exec_multicastUnit_mismatch hs hu hn hj ha, ?_, State.mcFault_disabled (s := s.unitTaken d e lst us) hfab _ _ _ _ _ _⟩
    rw [State.mcMismatch, State.mcFault_frame, State.unitTaken_frame]
  · intro s d e lst i pos who j hs htab hw ht hj
    obtain ⟨-, -, -, -, -, -, -, -, -, -, hfab, -⟩ := htab
    exact ⟨_, exec_seqMcastStall hs hw ht hj, State.mcFault_frame s d e _ _ _ _, State.mcFault_disabled hfab _ _ _ _ _ _⟩

end Sys2Proof.Machine
end

section
/-! What the lanes of an MPD read as after one of them has been put back, and the work of an engine that corrects no operand error. -/

namespace Sys2Proof.Machine

theorem Engine.laneAt_eq_some {x : Engine} {i lane : Nat} {l : LaneProg} :
    x.laneAt i lane = some l ↔ ∃ j, x.job? i = some j ∧ j.lane? lane = some l := Option.bind_eq_some_iff

/-- The progress of a lane is read from the queue alone. -/
theorem Engine.laneAt_congr {x y : Engine} (h : x.queue = y.queue) (i lane : Nat) : x.laneAt i lane = y.laneAt i lane := by
  simp only [Engine.laneAt, Engine.job?, h]

theorem Job.lane?_setLane_other (j : Job) {lane : Nat} {l : LaneProg} (hl : l.lane ≠ lane) : (j.setLane l).lane? lane = j.lane? lane := by
  have hp : (fun q : LaneProg => decide (q.lane = lane)) ∘ (fun q => if q.lane = l.lane then l else q) =
      fun q => decide (q.lane = lane) := by
    funext q
    by_cases hq : q.lane = l.lane <;> simp [hq, hl]
  unfold Job.lane? Job.setLane
  rw [List.find?_map, hp]
  cases hf : j.lanes.find? fun q => decide (q.lane = lane) with
  | none => rfl
  | some q =>
    have hq : q.lane = lane := by simpa using List.find?_some hf
    simp [hq, Ne.symm hl]

theorem Engine.laneAt_setJob_setLane_other {x : Engine} {i lane : Nat} {j : Job} (hj : x.job? i = some j) {l : LaneProg} (hl : l.lane ≠ lane) :
    (x.setJob i (j.setLane l)).laneAt i lane = x.laneAt i lane := by
  have hi : i < x.queue.length := (List.getElem?_eq_some_iff.mp hj).1
  have hset : (x.setJob i (j.setLane l)).job? i = some (j.setLane l) := by simp [Engine.job?, Engine.setJob, hi]
  rw [Engine.laneAt, Engine.laneAt, hset, hj]
  exact Job.lane?_setLane_other j hl

/-- `t` follows `s` by work of engine `e` of die `d` that leaves the count of corrected operand errors as it is. -/
structure State.EngineWork (s t : State) (d e : Nat) : Prop where
  only : s.onlyEngine t d e
  eng : s.eng.ordered → t.eng.ordered
  cnt : s.cnt.ordered → t.cnt.ordered
  corrected : s.cnt.ordered → t.cntAt (regAddr (Page.eng d e) cntObCorrected) = s.cntAt (regAddr (Page.eng d e) cntObCorrected)

theorem State.EngineWork.refl (s : State) (d e : Nat) : s.EngineWork s d e := ⟨State.onlyEngine_refl s d e, id, id, fun _ => rfl⟩

theorem State.EngineWork.trans {s t u : State} {d e : Nat} (h : s.EngineWork t d e) (g : t.EngineWork u d e) : s.EngineWork u d e :=
  ⟨State.onlyEngine_trans h.only g.only, fun hs => g.eng (h.eng hs), fun hs => g.cnt (h.cnt hs),
    fun hs => (g.corrected (h.cnt hs)).trans (h.corrected hs)⟩

theorem State.EngineWork.setEng {s t : State} {d e : Nat} (hs : s.eng.ordered) (h : s.EngineWork t d e) (x : Engine) :
    s.EngineWork (t.setEng d e x) d e :=
  ⟨State.onlyEngine_setEng (h.eng hs) h.only x, fun _ => State.setEng_eng_ordered (h.eng hs) d e x, h.cnt, h.corrected⟩

theorem State.EngineWork.count {s t : State} {d e : Nat} (h : s.EngineWork t d e) {a : Nat} (ha : regAddr (Page.eng d e) cntObCorrected ≠ a)
    (n : Nat) : s.EngineWork (t.count a n) d e :=
  ⟨State.onlyEngine_count h.only a n, h.eng, fun hs => State.count_cnt_ordered (h.cnt hs) a n,
    fun hs => (State.cntAt_count_other (h.cnt hs) ha n).trans (h.corrected hs)⟩

/-- A register at an offset that is a whole word is not the half word that counts the corrected operand errors. -/
theorem obCorrected_ne {page off : Nat} (h : off % 4 = 0) : regAddr page cntObCorrected ≠ regAddr page off := by
  unfold regAddr cntObCorrected
  omega

theorem State.EngineWork.foldl_count {α : Type} {s : State} {d e : Nat} (f : α → Nat) (n : α → Nat) (l : List α)
    (hf : ∀ a ∈ l, regAddr (Page.eng d e) cntObCorrected ≠ f a) {t : State} (h : s.EngineWork t d e) :
    s.EngineWork (l.foldl (fun u a => u.count (f a) (n a)) t) d e :=
  List.foldlRecOn (motive := fun u => s.EngineWork u d e) l _ h fun _ hu a ha => hu.count (hf a ha) (n a)

theorem State.engD_foldl_count {α : Type} (f n : α → Nat) (l : List α) (s : State) (d e : Nat) :
    (l.foldl (fun u a => u.count (f a) (n a)) s).engD d e = s.engD d e :=
  List.foldlRecOn (motive := fun u : State => u.engD d e = s.engD d e) l _ rfl fun _ hu _ _ => hu

end Sys2Proof.Machine
end

section
/-! PASS_START: the lanes of one presentation, one after another (R53, R65, R70). -/

namespace Sys2Proof.Machine

theorem State.EngineWork.noteLoads {s t : State} {d e : Nat} (hs : s.eng.ordered) (h : s.EngineWork t d e) (a : Nat) :
    s.EngineWork (t.noteLoads d e a) d e := h.setEng hs _

theorem State.EngineWork.countLane {s t : State} {d e : Nat} (h : s.EngineWork t d e) (m : Mpd) (lane n : Nat) :
    s.EngineWork (t.countLane d e m lane 0x4C 0x1C n) d e :=
  h.foldl_count _ _ _ fun _ _ => obCorrected_ne (by omega)

/-- A lane that presents a pass (R53, R67). -/
def State.lanePresents (s : State) (d e lane : Nat) (r : Ready) (j : Job) (l : LaneProg) : LaneProg :=
  l.presented r.pos r.tile r.took (s.babOf j.mpd lane) (s.present j.mpd lane l.rung r.ix r.tile
    (((s.engD d e).open_ lane |>.find? (AccTile.at? r.ix)).getD (s.newTile j.mpd (s.engD d e) lane r.ix)))

@[simp] theorem State.lanePresents_lane (s : State) (d e lane : Nat) (r : Ready) (j : Job) (l : LaneProg) :
    (s.lanePresents d e lane r j l).lane = l.lane := rfl

/-- The engine of a lane that presents a pass: a new output tile is opened where the pass is its first, and no ballast row runs on the
lane's arrays. -/
def State.engPresents (s : State) (d e i lane : Nat) (r : Ready) (j : Job) (l : LaneProg) : Engine :=
  let x := s.engD d e
  { x.setJob i (j.setLane (s.lanePresents d e lane r j l)) with
    tiles := if (x.open_ lane |>.find? (AccTile.at? r.ix)).isSome then x.tiles
      else x.tiles.set [] lane (x.open_ lane ++
        [(x.open_ lane |>.find? (AccTile.at? r.ix)).getD (s.newTile j.mpd x lane r.ix)])
    arrays := (j.mpd.laneArrays lane).foldl (fun t a => t.upd Arr4.fresh a fun z => { z with ballast := false }) x.arrays
    loads := ((s.noteLoads d e (lane / 3)).engD d e).loads }

theorem State.startLane_of_lane {s : State} {d e i lane : Nat} {r : Ready} {j : Job} {l : LaneProg} (hj : (s.engD d e).job? i = some j)
    (hl : j.lane? lane = some l) :
    s.startLane d e i lane r =
      (let t := (s.setEng d e (s.engPresents d e i lane r j l)).noteLoads d e (lane / 3)
       if s.countsFor j lane then t.countLane d e j.mpd lane 0x4C 0x1C ((r.pos - l.pos) * tileRows j.mpd.words) else t) := by
  simp only [State.startLane, hj, hl]
  rfl

/-- A lane that the queue does not have presents nothing. -/
theorem State.startLane_of_none {s : State} {d e i lane : Nat} (h : (s.engD d e).laneAt i lane = none) (r : Ready) :
    s.startLane d e i lane r = s := by
  cases hj : (s.engD d e).job? i with
  | none => simp only [State.startLane, hj]
  | some j =>
    have hl : j.lane? lane = none := by rwa [Engine.laneAt, hj] at h
    simp only [State.startLane, hj, hl]

theorem State.EngineWork.startLane {s t : State} {d e : Nat} (hs : s.eng.ordered) (h : s.EngineWork t d e) (i lane : Nat) (r : Ready) :
    s.EngineWork (t.startLane d e i lane r) d e := by
  cases hat : (t.engD d e).laneAt i lane with
  | none => rwa [State.startLane_of_none hat]
  | some l =>
    obtain ⟨j, hj, hl⟩ := Engine.laneAt_eq_some.mp hat
    have hwork := (h.setEng hs (t.engPresents d e i lane r j l)).noteLoads hs (lane / 3)
    rw [State.startLane_of_lane hj hl]
    dsimp only
    split
    · exact hwork.countLane _ _ _
    · exact hwork

/-- The queue after a lane has presented a pass. -/
theorem State.startLane_queue {s : State} (he : s.eng.ordered) {d e i lane : Nat} {r : Ready} {j : Job} {l : LaneProg}
    (hj : (s.engD d e).job? i = some j) (hl : j.lane? lane = some l) :
    ((s.startLane d e i lane r).engD d e).queue = ((s.engD d e).setJob i (j.setLane (s.lanePresents d e lane r j l))).queue := by
  have hnote : (((s.setEng d e (s.engPresents d e i lane r j l)).noteLoads d e (lane / 3)).engD d e).queue =
      (s.engPresents d e i lane r j l).queue := by
    rw [State.noteLoads, State.engD_setEng_same (State.setEng_eng_ordered he _ _ _), State.engD_setEng_same he]
  rw [State.startLane_of_lane hj hl]
  dsimp only
  split
  · rw [State.countLane, State.engD_foldl_count, hnote]
    rfl
  · rw [hnote]
    rfl

/-- A lane of the MPD at place `i` presents the pass that it was found ready for. -/
def State.presents (s : State) (d e i lane : Nat) (r : Ready) : Prop :=
  ((s.engD d e).laneAt i lane).map (fun q => (q.started, q.pos, q.active)) = some (true, r.pos, some r.tile)

section
variable {s : State} (he : s.eng.ordered) {d e i : Nat}
include he

theorem State.startLane_laneAt_other {lane a : Nat} (ha : lane ≠ a) (r : Ready) :
    ((s.startLane d e i lane r).engD d e).laneAt i a = (s.engD d e).laneAt i a := by
  cases hat : (s.engD d e).laneAt i lane with
  | none => rw [State.startLane_of_none hat]
  | some l =>
    obtain ⟨j, hj, hl⟩ := Engine.laneAt_eq_some.mp hat
    rw [Engine.laneAt_congr (State.startLane_queue he hj hl)]
    exact Engine.laneAt_setJob_setLane_other hj (fun h => ha ((Job.lane?_lane hl).symm.trans h))

theorem State.startLane_presents {lane : Nat} (h : ((s.engD d e).laneAt i lane).isSome) (r : Ready) :
    (s.startLane d e i lane r).presents d e i lane r := by
  obtain ⟨l, hat⟩ := Option.isSome_iff_exists.mp h
  obtain ⟨j, hj, hl⟩ := Engine.laneAt_eq_some.mp hat
  rw [State.presents, Engine.laneAt_congr (State.startLane_queue he hj hl),
    Engine.laneAt_setJob_setLane (l' := s.lanePresents d e lane r j l) hj hl ((State.lanePresents_lane ..).trans (Job.lane?_lane hl))]
  rfl

end

theorem State.presents_isSome {s : State} {d e i lane : Nat} {r : Ready} (h : s.presents d e i lane r) :
    ((s.engD d e).laneAt i lane).isSome := by
  rw [State.presents] at h
  obtain ⟨l, hl, -⟩ := Option.map_eq_some_iff.mp h
  exact Option.isSome_iff_exists.mpr ⟨l, hl⟩

/-- A presentation of other lanes, or of the same pass of this one, leaves a lane that presents. -/
theorem State.startLanes_presents_of_presents {d e i a : Nat} {r : Ready} (rs : List (Nat × Ready)) :
    ∀ s : State, s.eng.ordered → s.presents d e i a r → (∀ q ∈ rs, q.1 = a → q.2 = r) →
      (rs.foldl (fun t q => t.startLane d e i q.1 q.2) s).presents d e i a r := by
  induction rs with
  | nil => exact fun s _ h _ => h
  | cons p rs ih =>
    intro s he h hrs
    have hwork := (State.EngineWork.refl s d e).startLane he i p.1 p.2
    refine ih _ (hwork.eng he) ?_ fun q hq => hrs q (List.mem_cons_of_mem p hq)
    by_cases hp : p.1 = a
    · have hr : p.2 = r := hrs p List.mem_cons_self hp
      show (s.startLane d e i p.1 p.2).presents d e i a r
      rw [hr, hp]
      exact State.startLane_presents he (State.presents_isSome h) r
    · show (s.startLane d e i p.1 p.2).presents d e i a r
      rw [State.presents, State.startLane_laneAt_other he hp]
      exact h

/-- Every lane of a presentation presents its pass. -/
theorem State.startLanes_presents {d e i : Nat} (rs : List (Nat × Ready)) :
    ∀ s : State, s.eng.ordered → (∀ q ∈ rs, ((s.engD d e).laneAt i q.1).isSome) → (∀ p ∈ rs, ∀ q ∈ rs, p.1 = q.1 → p.2 = q.2) →
      ∀ q ∈ rs, (rs.foldl (fun t q => t.startLane d e i q.1 q.2) s).presents d e i q.1 q.2 := by
  induction rs with
  | nil => exact fun s _ _ _ q hq => absurd hq List.not_mem_nil
  | cons p rs ih =>
    intro s he hsome hfun q hq
    have hord := ((State.EngineWork.refl s d e).startLane he i p.1 p.2).eng he
    by_cases hpq : q.1 = p.1
    · have hr : q.2 = p.2 := hfun q hq p List.mem_cons_self hpq
      rw [hpq, hr]
      exact State.startLanes_presents_of_presents rs _ hord (State.startLane_presents he (hsome p List.mem_cons_self) p.2)
        fun z hz hzp => hfun z (List.mem_cons_of_mem p hz) p List.mem_cons_self hzp
    · rcases List.mem_cons.mp hq with rfl | hq'
      · exact absurd rfl hpq
      · refine ih _ hord (fun z hz => ?_) (fun z hz y hy => hfun z (List.mem_cons_of_mem p hz) y (List.mem_cons_of_mem p hy)) q hq'
        by_cases hz' : p.1 = z.1
        · rw [← hz']
          exact State.presents_isSome (State.startLane_presents he (hsome p List.mem_cons_self) p.2)
        · rw [State.startLane_laneAt_other he hz']
          exact hsome z (List.mem_cons_of_mem p hz)

/-- The lanes of a presentation that can take their pass, each with it. -/
def State.readyLanes (s : State) (d e : Nat) (j : Job) (lane : Nat) : List (Nat × Ready) :=
  (s.streamLanes j lane).filterMap fun q => ((j.lane? q).bind (s.passReady d e j)).map (q, ·)

theorem State.mem_readyLanes {s : State} {d e lane : Nat} {j : Job} {q : Nat × Ready} (h : q ∈ s.readyLanes d e j lane) :
    (j.lane? q.1).bind (s.passReady d e j) = some q.2 := by
  obtain ⟨k, -, hk⟩ := List.mem_filterMap.mp h
  obtain ⟨r, hr, rfl⟩ := Option.map_eq_some_iff.mp hk
  exact hr

theorem State.EngineWork.countBusy {s t : State} {d e : Nat} (h : s.EngineWork t d e) (j : Job) (rs : List (Nat × Ready)) :
    s.EngineWork (t.countBusy d e j rs) d e :=
  h.foldl_count _ _ _ fun _ _ => obCorrected_ne (by omega)

theorem State.EngineWork.engWaits {s t : State} {d e : Nat} (h : s.EngineWork t d e) {offs : List Nat} (ho : ∀ o ∈ offs, o % 4 = 0) :
    s.EngineWork (t.engWaits d e offs) d e :=
  h.foldl_count _ (fun _ => 1) _ fun o hm => obCorrected_ne (ho o hm)

theorem State.engWaits_engD (s : State) (d e : Nat) (offs : List Nat) : (s.engWaits d e offs).engD d e = s.engD d e :=
  State.engD_foldl_count _ (fun _ => 1) _ _ d e

theorem State.countBusy_engD (s : State) (d e : Nat) (j : Job) (rs : List (Nat × Ready)) : (s.countBusy d e j rs).engD d e = s.engD d e :=
  State.engD_foldl_count _ _ _ _ d e

/-- The counters of waiting time are whole words. -/
theorem Engine.passWaits_word (x : Engine) (m : Mpd) (rs : List (Nat × Ready)) : ∀ o ∈ x.passWaits m rs, o % 4 = 0 := by
  intro o ho
  simp only [Engine.passWaits, List.mem_append, List.mem_flatMap, List.mem_map] at ho
  rcases ho with (⟨a, -, ha⟩ | ⟨a, -, rfl⟩) | ho
  · rcases List.mem_cons.mp ha with rfl | ha
    · omega
    · have hao := List.mem_singleton.mp ha
      omega
  · omega
  · split at ho
    · have hoo := List.mem_singleton.mp ho
      omega
    · exact absurd ho List.not_mem_nil

/-- PASS_START: every lane that takes the rows presents its pass; the array's busy time and the waits are counted (R53, R79). -/
theorem exec_passStart {s : State} {d : Die} {e : Eng} {a : Arr} {h : Half} {n i : Nat} {j : Job} {l : LaneProg} (hs : s.bel.stopped = false)
    (hr : (s.engD d e).runLane ((s.engD d e).laneFor a h) = some (i, j, l))
    (hin : (s.engD d e).laneFor a h ∈ s.streamLanes j ((s.engD d e).laneFor a h))
    (hall : (s.readyLanes d e j ((s.engD d e).laneFor a h)).length = (s.streamLanes j ((s.engD d e).laneFor a h)).length) :
    exec (.passStart d e a ⟨h, n⟩) s =
      .next ((((s.readyLanes d e j ((s.engD d e).laneFor a h)).foldl (fun t q => t.startLane d e i q.1 q.2) (s.obCorrected d e n)).countBusy d e j
        (s.readyLanes d e j ((s.engD d e).laneFor a h))).engWaits d e
          ((s.engD d e).passWaits j.mpd (s.readyLanes d e j ((s.engD d e).laneFor a h)))) := by
  have hrun : s.runnable d e j ((s.engD d e).laneFor a h) = some (s.readyLanes d e j ((s.engD d e).laneFor a h)) := by
    have hc : (s.streamLanes j ((s.engD d e).laneFor a h)).contains ((s.engD d e).laneFor a h) = true := List.contains_iff_mem.mpr hin
    unfold State.readyLanes at hall
    simp only [State.runnable, hc, hall, Bool.true_and, decide_true, ↓reduceIte]
    rfl
  show execPassStart d e a ⟨h, n⟩ s = _
  simp only [execPassStart, State.still, hs, hr, hrun, Bool.false_eq_true, ↓reduceIte]

/-- PASS_START presents the pass of every lane that takes the rows (R53, R65, R70). -/
theorem exec_passStart_presents {s : State} (he : s.eng.ordered) (hc : s.cnt.ordered) {d : Die} {e : Eng} {a : Arr} {h : Half} {n i : Nat} {j : Job}
    {l : LaneProg} (hs : s.bel.stopped = false) (hr : (s.engD d e).runLane ((s.engD d e).laneFor a h) = some (i, j, l))
    (hin : (s.engD d e).laneFor a h ∈ s.streamLanes j ((s.engD d e).laneFor a h))
    (hall : (s.readyLanes d e j ((s.engD d e).laneFor a h)).length = (s.streamLanes j ((s.engD d e).laneFor a h)).length) :
    ∃ t, exec (.passStart d e a ⟨h, n⟩) s = .next t ∧ s.onlyEngine t d e ∧
      t.cntAt (regAddr (Page.eng d e) cntObCorrected) = s.cntAt (regAddr (Page.eng d e) cntObCorrected) + n ∧
      ∀ q ∈ s.readyLanes d e j ((s.engD d e).laneFor a h), t.presents d e i q.1 q.2 := by
  obtain ⟨hj, -⟩ := Engine.runLane_eq_some hr
  generalize hrs : s.readyLanes d e j ((s.engD d e).laneFor a h) = rs at hall ⊢
  have hready : ∀ q ∈ rs, (j.lane? q.1).bind (s.passReady d e j) = some q.2 := fun q hq => State.mem_readyLanes (hrs ▸ hq)
  have hord : (s.obCorrected d e n).eng.ordered := he
  have hcnt : (s.obCorrected d e n).cnt.ordered := State.count_cnt_ordered hc _ _
  have hlanes : (s.obCorrected d e n).EngineWork (rs.foldl (fun t q => t.startLane d e i q.1 q.2) (s.obCorrected d e n)) d e :=
    List.foldlRecOn (motive := fun t => (s.obCorrected d e n).EngineWork t d e) _ _ (State.EngineWork.refl _ _ _) fun _ ht q _ =>
      ht.startLane hord i q.1 q.2
  have hwork := (hlanes.countBusy j rs).engWaits (Engine.passWaits_word (s.engD d e) j.mpd rs)
  refine ⟨_, exec_passStart hs hr hin (hrs ▸ hall), ?_⟩
  rw [hrs]
  refine ⟨State.onlyEngine_trans (State.onlyEngine_count (State.onlyEngine_refl s d e) _ _) hwork.only,
    (hwork.corrected hcnt).trans (State.cntAt_count_same hc _ _), ?_⟩
  intro q hq
  rw [State.presents, State.engWaits_engD, State.countBusy_engD]
  refine State.startLanes_presents rs _ hord (fun p hp => ?_) (fun p hp q hq hpq => ?_) q hq
  · obtain ⟨l', hl', -⟩ := Option.bind_eq_some_iff.mp (hready p hp)
    exact Option.isSome_iff_exists.mpr ⟨l', Engine.laneAt_eq_some.mpr ⟨j, hj, hl'⟩⟩
  · have hp' := hready p hp
    rw [hpq, hready q hq] at hp'
    exact (Option.some.inj hp').symm

end Sys2Proof.Machine
end

section
/-! PASS_ACCEPT: the presentation of a pass is committed (R67, R86). -/

namespace Sys2Proof.Machine

/-- `t` differs from `s` at most in the event block and the counters. -/
def State.onlyNoted (s t : State) : Prop := t = { s with evt := t.evt, cnt := t.cnt }

theorem State.onlyNoted_refl (s : State) : s.onlyNoted s := rfl

section
variable {s t : State}

theorem State.onlyNoted_count (h : s.onlyNoted t) (a n : Nat) : s.onlyNoted (t.count a n) := by
  unfold State.onlyNoted at *
  rw [h]
  rfl

theorem State.onlyNoted_raise (h : s.onlyNoted t) (p c : Nat) (pl : List Byte) : s.onlyNoted (t.raise p c pl) := by
  unfold State.onlyNoted at *
  rw [h]
  rfl

theorem State.onlyNoted_ite {u : State} {c : Prop} [Decidable c] (ht : s.onlyNoted t) (hu : s.onlyNoted u) :
    s.onlyNoted (if c then t else u) := by
  split
  · exact ht
  · exact hu

theorem State.onlyNoted_countLane (h : s.onlyNoted t) (d e : Nat) (m : Mpd) (lane off step n : Nat) :
    s.onlyNoted (t.countLane d e m lane off step n) :=
  List.foldlRecOn (motive := fun u => s.onlyNoted u) _ _ h fun _ hu _ _ => State.onlyNoted_count hu _ _

theorem State.onlyNoted_reportReplayed (h : s.onlyNoted t) (d e : Nat) (m : Mpd) (lane no : Nat) (chk : Option (Nat × Nat × Nat)) :
    s.onlyNoted (t.reportReplayed d e m lane no chk) := by
  cases chk with
  | none => exact h
  | some c => exact State.onlyNoted_raise (State.onlyNoted_count h _ _) _ _ _

end

theorem State.onlyNoted_engD {s t : State} (h : s.onlyNoted t) (d e : Nat) : t.engD d e = s.engD d e := by
  unfold State.onlyNoted at h
  rw [h]
  rfl

/-- The engine after a pass has been accepted: its output tile is committed, and the lane stands before its next pass. -/
def Engine.passed (x : Engine) (i : Nat) (j : Job) (l : LaneProg) (p : PassIx) (t : AccTile) : Engine :=
  { x.setJob i (j.setLane (l.accepted (mpdRungStart j.mpd.words))) with
    tiles := x.tiles.set [] l.lane ((x.open_ l.lane).map fun q => if AccTile.at? p q then t else q) }

/-- What an accepted pass of a lane counts and reports beside its invalid inputs: the rows that were masked, a pass on rung 3, a check that
failed once, and a rung other than RUNG_START (R68, R79, R90). `t` is the state in which the pass has been committed. -/
def State.notePass (s t : State) (d e : Nat) (j : Job) (l : LaneProg) (p : PassIx) : State :=
  let m := j.mpd
  let ar := l.lane / 3
  let no := s.passNo m l.lane l.pos
  let rows := tileRows m.words - (m.freeRows (p.m * mpdMch m.words) (tileRows m.words)).length
  let t1 := if s.countsFor j l.lane then t.countLane d e m l.lane 0x4C 0x1C rows else t
  let t2 := if l.rung = 3 then t1.count (engCounter d e ar 0x138 4) 1 else t1
  let t3 := t2.reportReplayed d e m l.lane no l.chk
  if l.rung ≠ mpdRungStart m.words then t3.raise (Page.eng d e) Code.accOvfReplayed
    (accPayload m.seq no ar (laneHalf l.lane) (mpdRungStart m.words) l.rung l.named.1 l.named.2) else t3

theorem State.notePass_onlyNoted (s t : State) (d e : Nat) (j : Job) (l : LaneProg) (p : PassIx) : t.onlyNoted (s.notePass t d e j l p) := by
  have h1 := State.onlyNoted_ite (c := s.countsFor j l.lane = true) (State.onlyNoted_countLane t.onlyNoted_refl d e j.mpd l.lane 0x4C 0x1C
    (tileRows j.mpd.words - (j.mpd.freeRows (p.m * mpdMch j.mpd.words) (tileRows j.mpd.words)).length)) t.onlyNoted_refl
  have h2 := State.onlyNoted_ite (c := l.rung = 3) (State.onlyNoted_count h1 (engCounter d e (l.lane / 3) 0x138 4) 1) h1
  have h3 := State.onlyNoted_reportReplayed h2 d e j.mpd l.lane (s.passNo j.mpd l.lane l.pos) l.chk
  exact State.onlyNoted_ite (State.onlyNoted_raise h3 _ _ _) h3

/-- PASS_ACCEPT commits a presentation that met no fault, where the tile neither spills nor ends (R67, R86). -/
theorem exec_passAccept {s : State} {d : Die} {e : Eng} {a : Arr} {h : Half} {i : Nat} {j : Job} {l : LaneProg} {q : AccTile}
    (hs : s.bel.stopped = false) (hr : (s.engD d e).runLane ((s.engD d e).laneFor a h) = some (i, j, l)) (hst : l.started = true)
    (hpast : l.past = none) (hnon : l.nonfin = none) (hbad : l.bad = 0) {p : PassIx}
    (hp : p = passAt (mpdOrder j.mpd.words) (s.loops j.mpd l.lane) l.pos) (hq : ((s.engD d e).open_ l.lane).find? (AccTile.at? p) = some q)
    (hend : (decide (p.k + 1 = (s.loops j.mpd l.lane).k) && mpdAccEnd j.mpd.words) = false)
    (hspill : spillsNow j.mpd (q.passes + 1) (decide (p.k + 1 = (s.loops j.mpd l.lane).k)) = false) :
    exec (.passAccept d e a h) s = .next (s.notePass
      ((s.setEng d e ((s.engD d e).passed i j l p (q.commit l.work l.rung (s.passNo j.mpd l.lane l.pos)))).reportInv d j.mpd l.lane l.inv)
      d e j l p) := by
  have hlane : (s.engD d e).laneFor a h = l.lane := (Job.lane?_lane (Engine.runLane_eq_some hr).2).symm
  rw [hlane] at hr
  have hcommit : spillsNow j.mpd (q.commit l.work l.rung (s.passNo j.mpd l.lane l.pos)).passes
      (decide (p.k + 1 = (s.loops j.mpd l.lane).k)) = false := hspill
  show execPassAccept d e a h s = _
  simp only [execPassAccept, State.still, hs, hlane, hr, hst, hpast, hnon, hbad, ← hp, hq, hend, hcommit, Option.isSome_none, ne_eq,
    not_true_eq_false, decide_false, Bool.not_true, Bool.or_self, Bool.false_eq_true, ↓reduceIte]
  rfl

/-- A committed tile takes the working sums and counts one pass more; its place is the same (R86). -/
theorem Engine.passed_open {x : Engine} {i : Nat} {j : Job} {l : LaneProg} {p : PassIx} {q : AccTile}
    (hq : (x.open_ l.lane).find? (AccTile.at? p) = some q) (no : Nat) :
    ∃ r ∈ (x.passed i j l p (q.commit l.work l.rung no)).open_ l.lane, AccTile.at? p r = true ∧ r.rows = l.work ∧ r.passes = q.passes + 1 := by
  have hat : AccTile.at? p q = true := List.find?_some hq
  have hmem : q.commit l.work l.rung no ∈
      (x.open_ l.lane).map fun r => if AccTile.at? p r then q.commit l.work l.rung no else r :=
    List.mem_map.mpr ⟨q, List.mem_of_find?_eq_some hq, if_pos hat⟩
  have hopen : (x.passed i j l p (q.commit l.work l.rung no)).open_ l.lane =
      (x.open_ l.lane).map fun r => if AccTile.at? p r then q.commit l.work l.rung no else r :=
    Tbl.get_set_self (List.ne_nil_of_mem hmem) _ _
  exact ⟨q.commit l.work l.rung no, by rw [hopen]; exact hmem, hat, rfl, rfl⟩

theorem Engine.passed_laneAt {x : Engine} {i lane : Nat} {j : Job} {l : LaneProg} (hj : x.job? i = some j) (hl : j.lane? lane = some l)
    (p : PassIx) (t : AccTile) : (x.passed i j l p t).laneAt i lane = some (l.accepted (mpdRungStart j.mpd.words)) :=
  Engine.laneAt_setJob_setLane (l' := l.accepted (mpdRungStart j.mpd.words)) hj hl (Job.lane?_lane (l := l) hl)

end Sys2Proof.Machine
end

section
/-! CHECK_FAILURE and ENG_OPERAND_UNCORRECTABLE: a pass is taken back, or a lane ends (R68, R70, R71). -/

namespace Sys2Proof.Machine

/-- A lane whose pass goes back for its check replay (R68). -/
def LaneProg.checked (l : LaneProg) (chk : Nat × Nat × Nat) : LaneProg := { l.replay with chk := some chk, reload := true }

/-- An engine of which a lane goes back for its check replay: its reload goes ahead of every other load of the array (R65, R68). -/
def State.engChecked (s : State) (d e i : Nat) (j : Job) (l : LaneProg) (chk : Nat × Nat × Nat) : Engine :=
  let x := (s.noteLoads d e (l.lane / 3)).engD d e
  { x.setJob i (j.setLane (l.checked chk)) with
    loads := x.loads.set [] (l.lane / 3) (l.lane :: (x.loads.get [] (l.lane / 3)).filter fun q => q ≠ l.lane) }

section
variable {s : State} {d : Die} {e : Eng} {a : Arr} {h : Half} {i : Nat} {j : Job} {l : LaneProg} (hs : s.bel.stopped = false)
  (hr : (s.engD d e).runLane ((s.engD d e).laneFor a h) = some (i, j, l)) (hst : l.started = true)
include hs hr hst

/-- The first check failure of a pass takes it back (R68). -/
theorem exec_checkFailure_first (hc : l.chk = none) (kind : CheckKind) (ix : BitVec 16) :
    exec (.checkFailure d e a h kind ix) s = .next ((s.noteLoads d e (l.lane / 3)).setEng d e
      (s.engChecked d e i j l (arrNum a, checkCode kind, ix.toNat))) := by
  show execCheckFailure d e a h kind ix s = _
  simp only [execCheckFailure, State.still, hs, hr, hst, hc, Option.isNone_none, Bool.not_true, Bool.false_eq_true, ↓reduceIte]
  rfl

/-- The second ends the lane, and its array or half fails (R68, R107). -/
theorem exec_checkFailure_second (hc : l.chk.isSome = true) (kind : CheckKind) (ix : BitVec 16) :
    ∃ pl, exec (.checkFailure d e a h kind ix) s = .next
      (let code := if (s.engD d e).laneFor a h % 3 = 0 then Code.arrayFault else Code.arraySplitFault
       let t := s.stopLane d e i ((s.engD d e).laneFor a h) code
       (t.setEng d e ((t.engD d e).fail (arrNum a) ((s.engD d e).laneFor a h))).raise (Page.eng d e) code pl) := by
  have hn : l.chk.isNone = false := by simpa using hc
  refine ⟨engPayload j.mpd.seq (s.passNo j.mpd ((s.engD d e).laneFor a h) l.pos) (arrNum a) (laneHalf ((s.engD d e).laneFor a h))
    (checkCode kind) 0 ix.toNat, ?_⟩
  show execCheckFailure d e a h kind ix s = _
  simp only [execCheckFailure, State.still, hs, hr, hst, hn, Bool.not_true, Bool.false_eq_true, ↓reduceIte]

/-- An unusable operand ends the lane, or every lane that took the row (R71). -/
theorem exec_engOperandUncorrectable (hstop : l.stop = 0) (sh : Bool) :
    ∃ pl, exec (.engOperandUncorrectable d e a h sh) s = .next
      ((s.stopLanes d e i Code.engOperandUncorrectable
        (if (if l.bad = 0 then sh else l.badRow) then s.rowLanes j l else [(s.engD d e).laneFor a h])).raise (Page.eng d e)
          Code.engOperandUncorrectable pl) := by
  refine ⟨engPayload j.mpd.seq (s.passNo j.mpd ((s.engD d e).laneFor a h) l.pos) (arrNum a)
    (if 1 < (if (if l.bad = 0 then sh else l.badRow) then s.rowLanes j l else [(s.engD d e).laneFor a h]).length then 3
      else laneHalf ((s.engD d e).laneFor a h)) (if l.bad = 0 then 3 else l.bad) 0 0xFFFF, ?_⟩
  show execEngOperandUncorrectable d e a h sh s = _
  simp only [execEngOperandUncorrectable, State.still, hs, hr, LaneProg.badNow, hst, hstop, State.laneDone, ne_eq, not_true_eq_false,
    decide_false, Bool.not_true, Bool.false_and, Bool.and_false, Bool.or_self, Bool.true_and, Bool.false_eq_true, ↓reduceIte]
  rfl

end

/-- The number of a half within its array's lanes. -/
def halfNum : Half → Nat
  | .whole => 0
  | .low => 1
  | .high => 2

/-- The lane that a command names lies at the half that it names (R106, R107). -/
theorem Engine.laneFor_half (x : Engine) (a : Arr) (h : Half) : x.laneFor a h % 3 = halfNum h := by
  have hof : laneOf a h % 3 = halfNum h := by cases a <;> cases h <;> rfl
  unfold Engine.laneFor
  split
  · unfold Mpd.laneFor
    split
    · rename_i hw
      rw [hw.2]
      rfl
    · exact hof
  · exact hof

/-- An array of which a half, or the whole, has failed (R68, R107). -/
def Arr4.failAt (r : Arr4) : Half → Arr4
  | .whole => { r with failed := true }
  | .low => { r with lowFailed := true }
  | .high => { r with highFailed := true }

/-- The array of a failed lane reads as failed at the lane's half (R68). -/
theorem Engine.fail_arr (x : Engine) (ar : Nat) {lane : Nat} {h : Half} (hl : lane % 3 = halfNum h) :
    (x.fail ar lane).arr ar = (x.arr ar).failAt h := by
  have hne : (x.arr ar).failAt h ≠ Arr4.fresh := by cases h <;> simp [Arr4.failAt, Arr4.fresh]
  have hfail : x.fail ar lane = x.setArr ar ((x.arr ar).failAt h) := by
    unfold Engine.fail
    rw [hl]
    cases h <;> rfl
  rw [hfail, Engine.arr_setArr hne]

/-- The code of a second check failure names a whole array or a half (R107). -/
theorem checkFault_code {lane : Nat} {h : Half} (hl : lane % 3 = halfNum h) :
    (if lane % 3 = 0 then Code.arrayFault else Code.arraySplitFault) = if h = .whole then Code.arrayFault else Code.arraySplitFault := by
  rw [hl]
  cases h <;> rfl

/-- A lane that the queue does not have cannot stop. -/
theorem State.stopLane_of_none {s : State} {d e i lane : Nat} (h : (s.engD d e).laneAt i lane = none) (code : Nat) :
    s.stopLane d e i lane code = s := by
  cases hj : (s.engD d e).job? i with
  | none => simp only [State.stopLane, hj]
  | some j =>
    have hl : j.lane? lane = none := by rwa [Engine.laneAt, hj] at h
    simp only [State.stopLane, hj, hl]

section
variable {s : State} (he : s.eng.ordered) {d e i : Nat}
include he

theorem State.stopLane_onlyEngine (lane code : Nat) :
    s.onlyEngine (s.stopLane d e i lane code) d e ∧ (s.stopLane d e i lane code).eng.ordered ∧
      ((s.stopLane d e i lane code).engD d e).arrays = (s.engD d e).arrays := by
  cases hat : (s.engD d e).laneAt i lane with
  | none =>
    rw [State.stopLane_of_none hat]
    exact ⟨State.onlyEngine_refl s d e, he, rfl⟩
  | some l =>
    obtain ⟨j, hj, hl⟩ := Engine.laneAt_eq_some.mp hat
    obtain ⟨x, hx, -, ha⟩ := State.stopLane_of_lane hj hl code
    rw [hx, State.engD_setEng_same he]
    exact ⟨State.onlyEngine_setEng he (State.onlyEngine_refl s d e) x, State.setEng_eng_ordered he d e x, ha⟩

theorem State.stopLane_laneAt_same {lane : Nat} {l : LaneProg} (h : (s.engD d e).laneAt i lane = some l) (code : Nat) :
    ((s.stopLane d e i lane code).engD d e).laneAt i lane = some (l.stopped code) := by
  obtain ⟨j, hj, hl⟩ := Engine.laneAt_eq_some.mp h
  obtain ⟨x, hx, hq, -⟩ := State.stopLane_of_lane hj hl code
  rw [hx, State.engD_setEng_same he, Engine.laneAt_congr hq]
  exact Engine.laneAt_setJob_setLane hj hl ((LaneProg.stopped_lane l code).trans (Job.lane?_lane hl))

theorem State.stopLane_laneAt_other {lane a : Nat} (ha : lane ≠ a) (code : Nat) :
    ((s.stopLane d e i lane code).engD d e).laneAt i a = (s.engD d e).laneAt i a := by
  cases hat : (s.engD d e).laneAt i lane with
  | none => rw [State.stopLane_of_none hat]
  | some l =>
    obtain ⟨j, hj, hl⟩ := Engine.laneAt_eq_some.mp hat
    obtain ⟨x, hx, hq, -⟩ := State.stopLane_of_lane hj hl code
    rw [hx, State.engD_setEng_same he, Engine.laneAt_congr hq]
    exact Engine.laneAt_setJob_setLane_other hj fun hla => ha ((Job.lane?_lane hl).symm.trans hla)

end

theorem State.stopLanes_onlyEngine {s : State} (he : s.eng.ordered) (d e i code : Nat) (lanes : List Nat) :
    s.onlyEngine (s.stopLanes d e i code lanes) d e ∧ (s.stopLanes d e i code lanes).eng.ordered ∧
      ((s.stopLanes d e i code lanes).engD d e).arrays = (s.engD d e).arrays := by
  refine List.foldlRecOn
    (motive := fun t : State => s.onlyEngine t d e ∧ t.eng.ordered ∧ (t.engD d e).arrays = (s.engD d e).arrays) _ _
    ⟨State.onlyEngine_refl s d e, he, rfl⟩ ?_
  rintro t ⟨h1, h2, h3⟩ q -
  obtain ⟨g1, g2, g3⟩ := State.stopLane_onlyEngine h2 (d := d) (e := e) (i := i) q code
  exact ⟨State.onlyEngine_trans h1 g1, g2, g3.trans h3⟩

/-- A lane that has stopped with a code stays so while other lanes stop with it. -/
theorem State.stopLanes_stays {d e i code a : Nat} (lanes : List Nat) : ∀ s : State, s.eng.ordered →
    ((s.engD d e).laneAt i a).map (·.stop) = some code → (((s.stopLanes d e i code lanes).engD d e).laneAt i a).map (·.stop) = some code := by
  induction lanes with
  | nil => exact fun _ _ h => h
  | cons b lanes ih =>
    intro s he h
    refine ih _ (State.stopLane_onlyEngine he b code).2.1 ?_
    by_cases hb : b = a
    · subst hb
      obtain ⟨l, hl, -⟩ := Option.map_eq_some_iff.mp h
      rw [State.stopLane_laneAt_same he hl]
      rfl
    · rw [State.stopLane_laneAt_other he hb]
      exact h

/-- Lanes of the MPD that are stopped take the code. -/
theorem State.stopLanes_stop {d e i code : Nat} (lanes : List Nat) : ∀ s : State, s.eng.ordered → ∀ a ∈ lanes,
    ((s.engD d e).laneAt i a).isSome → (((s.stopLanes d e i code lanes).engD d e).laneAt i a).map (·.stop) = some code := by
  induction lanes with
  | nil => exact fun _ _ a ha => absurd ha List.not_mem_nil
  | cons b lanes ih =>
    intro s he a ha hsome
    have hord := (State.stopLane_onlyEngine he (d := d) (e := e) (i := i) b code).2.1
    by_cases hb : b = a
    · subst hb
      obtain ⟨l, hl⟩ := Option.isSome_iff_exists.mp hsome
      refine State.stopLanes_stays lanes _ hord ?_
      rw [State.stopLane_laneAt_same he hl]
      rfl
    · refine ih _ hord a ((List.mem_cons.mp ha).resolve_left fun h => hb h.symm) ?_
      rw [State.stopLane_laneAt_other he hb]
      exact hsome

/-- The lanes that took a row are lanes of the MPD (R71). -/
theorem State.rowLanes_lane {s : State} {j : Job} {lane : Nat} {l : LaneProg} (hl : j.lane? lane = some l) {q : Nat} (hq : q ∈ s.rowLanes j l) :
    (j.lane? q).isSome := by
  unfold State.rowLanes at hq
  unfold Job.lane? at hl ⊢
  split at hq
  · obtain ⟨r, hr, rfl⟩ := List.mem_map.mp hq
    exact List.find?_isSome.mpr ⟨r, (List.mem_filter.mp hr).1, by simp⟩
  · rw [List.mem_singleton.mp hq]
    exact List.find?_isSome.mpr ⟨l, List.mem_of_find?_eq_some hl, by simp⟩

theorem Engine.laneAt_isSome {x : Engine} {i lane : Nat} {j : Job} (hj : x.job? i = some j) (h : (j.lane? lane).isSome) :
    (x.laneAt i lane).isSome := by
  rw [Engine.laneAt, hj]
  exact h

/-- Settles O46: a presentation, its commit, the two check failures and an unusable operand, each by what the lanes and the arrays become. -/
theorem passesAndChecks : Obligations.PassesAndChecks := by
  unfold Obligations.PassesAndChecks
  refine ⟨?_, ?_, ?_, ?_, ?_, ?_⟩
  · intro s d e a h n i j l hs htab lane rs hr hin hall
    obtain ⟨heng, hcnt, -⟩ := State.tablesOk_ordered htab
    exact exec_passStart_presents heng hcnt hs hr hin hall
  · intro s d e a h i j l q hs htab lane hr lp p hst hpast hnon hbad hq hend hspill
    obtain ⟨heng, -, -⟩ := State.tablesOk_ordered htab
    obtain ⟨hj, hl⟩ := Engine.runLane_eq_some hr
    have hlane : l.lane = lane := Job.lane?_lane hl
    have hend' : (decide (p.k + 1 = (s.loops j.mpd lane).k) && mpdAccEnd j.mpd.words) = false := by
      rcases hend with hk | hacc
      · exact Bool.and_eq_false_iff.mpr (Or.inl (decide_eq_false hk))
      · exact Bool.and_eq_false_iff.mpr (Or.inr hacc)
    have hexec := exec_passAccept (p := p) hs hr hst hpast hnon hbad (by rw [hlane]) (hlane ▸ hq) (hlane ▸ hend') (hlane ▸ hspill)
    have hnoted := s.notePass_onlyNoted ((s.setEng d e ((s.engD d e).passed i j l p
      (q.commit l.work l.rung (s.passNo j.mpd l.lane l.pos)))).reportInv d j.mpd l.lane l.inv) d e j l p
    refine ⟨_, hexec, ?_, ?_⟩
    · unfold State.onlyNoted at hnoted
      rw [hnoted, State.reportInv_frame]
      rfl
    · rw [State.onlyNoted_engD hnoted, State.reportInv_engD, State.engD_setEng_same heng, Engine.passed_laneAt hj hl]
      exact ⟨rfl, hlane ▸ Engine.passed_open (hlane ▸ hq) _⟩
  · intro s d e a h kind ix i j l hs htab lane hr hst hc
    obtain ⟨heng, -, -⟩ := State.tablesOk_ordered htab
    obtain ⟨hj, hl⟩ := Engine.runLane_eq_some hr
    have hord : (s.noteLoads d e (l.lane / 3)).eng.ordered := State.setEng_eng_ordered heng _ _ _
    refine ⟨_, exec_checkFailure_first hs hr hst hc kind ix,
      State.onlyEngine_setEng hord (State.onlyEngine_setEng heng (State.onlyEngine_refl s d e) _) _, ?_⟩
    rw [State.engD_setEng_same hord, State.engChecked, State.noteLoads, State.engD_setEng_same heng]
    refine ⟨rfl, rfl, ?_⟩
    refine (congrArg _ (Engine.laneAt_setJob_setLane (l' := l.checked (arrNum a, checkCode kind, ix.toNat)) (x := { s.engD d e with
      loads := _ }) hj hl (Job.lane?_lane (l := l) hl))).trans ?_
    rfl
  · intro s d e a h kind ix i j l hs htab lane hr hst hc
    obtain ⟨heng, -, -⟩ := State.tablesOk_ordered htab
    obtain ⟨hj, hl⟩ := Engine.runLane_eq_some hr
    obtain ⟨pl, hexec⟩ := exec_checkFailure_second hs hr hst hc kind ix
    have hhalf : lane % 3 = halfNum h := Engine.laneFor_half _ a h
    rw [checkFault_code hhalf] at hexec
    obtain ⟨honly, hord, -⟩ := State.stopLane_onlyEngine heng (d := d) (e := e) (i := i) lane
      (if h = .whole then Code.arrayFault else Code.arraySplitFault)
    refine ⟨_, hexec, State.onlyEngine_raise (State.onlyEngine_setEng hord honly _) _ _ _, ?_⟩
    rw [State.engD_raise, State.engD_setEng_same hord, Engine.fail_arr _ _ hhalf]
    refine ⟨?_, ?_⟩
    · have hat : (s.engD d e).laneAt i lane = some l := Engine.laneAt_eq_some.mpr ⟨j, hj, hl⟩
      refine (congrArg _ ((Engine.laneAt_congr rfl i lane).trans (State.stopLane_laneAt_same heng hat _))).trans ?_
      rfl
    · cases h <;> rfl
  · intro s d e a h sh i j l hs htab lane hr hst hstop hrow
    obtain ⟨heng, -, -⟩ := State.tablesOk_ordered htab
    obtain ⟨hj, hl⟩ := Engine.runLane_eq_some hr
    obtain ⟨pl, hexec⟩ := exec_engOperandUncorrectable hs hr hst hstop sh
    rw [hrow] at hexec
    obtain ⟨honly, -, harr⟩ := State.stopLanes_onlyEngine heng d e i Code.engOperandUncorrectable [lane]
    exact ⟨_, hexec, State.onlyEngine_raise honly _ _ _, harr,
      State.stopLanes_stop [lane] s heng lane List.mem_cons_self (Engine.laneAt_isSome hj (Option.isSome_of_eq_some hl))⟩
  · intro s d e a h sh i j l hs htab lane hr hst hstop hrow
    obtain ⟨heng, -, -⟩ := State.tablesOk_ordered htab
    obtain ⟨hj, hl⟩ := Engine.runLane_eq_some hr
    obtain ⟨pl, hexec⟩ := exec_engOperandUncorrectable hs hr hst hstop sh
    rw [hrow] at hexec
    obtain ⟨honly, -, harr⟩ := State.stopLanes_onlyEngine heng d e i Code.engOperandUncorrectable (s.rowLanes j l)
    exact ⟨_, hexec, State.onlyEngine_raise honly _ _ _, harr, fun q hq =>
      State.stopLanes_stop _ s heng q hq (Engine.laneAt_isSome hj (State.rowLanes_lane hl hq))⟩

end Sys2Proof.Machine
end

section
/-! What a Chanter does with an engine's answer leaves the engines but for their live extents, and memory (R178, R197 to R201). -/

namespace Sys2Proof.Machine

/-- In `t` memory is that of `s`, and so are the engines but for their live extent slots. -/
structure State.KeepsWork (s t : State) : Prop where
  mem : t.mem = s.mem
  ordered : s.eng.ordered → t.eng.ordered
  eng : s.eng.ordered → ∀ k, ∃ v, t.eng.get Engine.reset k = { s.eng.get Engine.reset k with lx := v }

/-- Steps that touch neither memory nor the engines. -/
theorem State.KeepsWork.of_eq {s t : State} (hm : t.mem = s.mem) (he : t.eng = s.eng) : s.KeepsWork t :=
  ⟨hm, fun h => he ▸ h, fun _ _ => ⟨_, by rw [he]⟩⟩

theorem State.KeepsWork.refl (s : State) : s.KeepsWork s := State.KeepsWork.of_eq rfl rfl

theorem State.KeepsWork.trans {s t u : State} (h : s.KeepsWork t) (g : t.KeepsWork u) : s.KeepsWork u :=
  ⟨g.mem.trans h.mem, fun hs => g.ordered (h.ordered hs), fun hs k => by
    obtain ⟨v, hv⟩ := h.eng hs k
    obtain ⟨w, hw⟩ := g.eng (h.ordered hs) k
    exact ⟨w, by rw [hw, hv]⟩⟩

theorem State.KeepsWork.raise {s t : State} (h : s.KeepsWork t) (p c : Nat) (pl : List Byte) : s.KeepsWork (t.raise p c pl) :=
  h.trans (State.KeepsWork.of_eq rfl rfl)

theorem State.KeepsWork.count {s t : State} (h : s.KeepsWork t) (a n : Nat) : s.KeepsWork (t.count a n) :=
  h.trans (State.KeepsWork.of_eq rfl rfl)

theorem State.KeepsWork.setCh {s t : State} (h : s.KeepsWork t) (d : Nat) (c : ChDie) : s.KeepsWork (t.setCh d c) :=
  h.trans (State.KeepsWork.of_eq rfl rfl)

theorem State.KeepsWork.notifyBoth {s t : State} (h : s.KeepsWork t) (k : NoticeKind) (d a b : Nat) : s.KeepsWork (t.notifyBoth k d a b) :=
  h.trans (State.KeepsWork.of_eq rfl rfl)

theorem State.KeepsWork.disarm {s t : State} (h : s.KeepsWork t) (d g : Nat) : s.KeepsWork (t.disarm d g) :=
  h.trans (State.KeepsWork.of_eq rfl rfl)

theorem State.KeepsWork.foldl {α : Type} {s t : State} {g : State → α → State} (hg : ∀ u x, s.KeepsWork u → s.KeepsWork (g u x)) (l : List α)
    (h : s.KeepsWork t) : s.KeepsWork (l.foldl g t) :=
  List.foldlRecOn (motive := fun u => s.KeepsWork u) l _ h fun u hu x _ => hg u x hu

theorem State.KeepsWork.ite {s t u : State} {c : Prop} [Decidable c] (ht : s.KeepsWork t) (hu : s.KeepsWork u) :
    s.KeepsWork (if c then t else u) := by
  split
  · exact ht
  · exact hu

/-- A live extent slot of an engine is written. -/
theorem State.KeepsWork.setLx {s t : State} (h : s.KeepsWork t) (k : Nat) (v : Tbl Nat → Tbl Nat) :
    s.KeepsWork { t with eng := t.eng.upd Engine.reset k fun x => { x with lx := v x.lx } } := by
  refine h.trans ⟨rfl, fun ht => Tbl.ordered_set ht _ _, fun ht q => ?_⟩
  simp only [Tbl.upd, Tbl.get_set_ordered ht]
  by_cases hq : q = k
  · exact ⟨v (t.eng.get Engine.reset k).lx, by rw [if_pos hq, hq]⟩
  · exact ⟨(t.eng.get Engine.reset q).lx, by rw [if_neg hq]⟩

theorem State.KeepsWork.zeroSlots {s t : State} (h : s.KeepsWork t) (d mb : Nat) : s.KeepsWork (t.zeroSlots d mb) := by
  have hfold : ∀ (l : List (Nat × Nat)) (u : State), s.KeepsWork u → s.KeepsWork { u with
      eng := l.foldl (fun t q => t.upd Engine.reset (36 * d + q.1) fun x => { x with lx := x.lx.set 0 q.2 0 }) u.eng } := by
    intro l
    induction l with
    | nil => exact fun u hu => hu
    | cons q l ih => exact fun u hu => ih _ (hu.setLx (36 * d + q.1) fun x => x.set 0 q.2 0)
  exact hfold _ _ h

theorem State.KeepsWork.dropMb {s t : State} (h : s.KeepsWork t) (d mb cause : Nat) : s.KeepsWork (t.dropMb d mb cause) :=
  (((h.zeroSlots d mb).setCh d _).count _ _).raise _ _ _

theorem State.KeepsWork.holdMb {s t : State} (h : s.KeepsWork t) (d : Nat) (u : List Nat) (cause : Nat) (back past : Bool) (layer : Nat) :
    s.KeepsWork (t.holdMb d u cause back past layer) := by
  unfold State.holdMb
  dsimp only
  split
  · exact h
  · have hheld := fun c g p pl => (((h.setCh d c).disarm d g).count (regAddr (Page.die d) 0x50) 1).raise (Page.die d) p pl
    exact State.KeepsWork.ite ((hheld _ _ _ _).dropMb _ _ _) (hheld _ _ _ _)

theorem State.KeepsWork.abandonStep {s t : State} (h : s.KeepsWork t) (d cause : Nat) (stop : Bool) : s.KeepsWork (t.abandonStep d cause stop) := by
  unfold State.abandonStep
  split
  · exact h
  · refine State.KeepsWork.raise (State.KeepsWork.setCh (State.KeepsWork.foldl (fun u k hu => ?_) _ h) _ _) _ _ _
    split
    · exact hu
    · exact (hu.setCh _ _).notifyBoth _ _ _ _

theorem State.KeepsWork.programFault {s t : State} (h : s.KeepsWork t) (d cause : Nat) (u : Option (List Nat)) (layer : Nat) :
    s.KeepsWork (t.programFault d cause u layer) := by
  unfold State.programFault
  split
  · exact h
  · exact ((h.setCh _ _).raise _ _ _).abandonStep _ _ _

theorem State.KeepsWork.issueAnswer {s t : State} (h : s.KeepsWork t) (d e code : Nat) (seq : Option Nat) :
    s.KeepsWork (t.issueAnswer d e code seq) := by
  unfold State.issueAnswer
  split
  · exact h
  · dsimp only
    split
    · exact h.setCh _ _
    · split
      · exact h.setCh _ _
      · split
        · exact (h.setCh _ _).holdMb _ _ _ _ _ _
        · exact (h.setCh _ _).programFault _ _ _ _

/-- An answer that accepts writes the Chanter alone (R178). -/
theorem State.issueAnswer_accepted (s : State) (d e : Nat) (seq : Option Nat) :
    s.issueAnswer d e 0 seq = { s with ch := (s.issueAnswer d e 0 seq).ch } := by
  unfold State.issueAnswer
  split
  · rfl
  · simp only [↓reduceIte]
    rfl

end Sys2Proof.Machine
end

section
/-! MPD_ACCEPT and DESCRIPTOR_RECORD (R111, R132). -/

namespace Sys2Proof.Machine

/-- The eight descriptor slots of an engine (R111). -/
def Engine.slots (x : Engine) : List (List Nat) := (List.range 8).map fun i => x.tds.get [] i

/-- The engine after an offered MPD has joined the queue (R132). -/
def State.engAccepts (s : State) (d e : Nat) : Engine :=
  let x := s.engD d e
  { x.clearOffer with
    queue := x.queue ++ [{
      mpd := s.mpdCopy d e x x.slots x.offer, lanes := (mpdLanes x.offer).map fun l => LaneProg.begin l (mpdRungStart x.offer)
      header := [], begun := false, units := 0, nonfin := [] }]
    nextSeq := (x.nextSeq + 1) % 2 ^ 32, plans := s.plansAfter x x.slots x.offer }

/-- The engine is left as `x` by a refusal, but for live extents, and memory stays (R132). -/
theorem State.refuseMpd_keeps {s : State} (he : s.eng.ordered) (d e code : Nat) (x : Engine) (pl : List Byte) :
    (∃ v, (s.refuseMpd d e code x pl).engD d e = { x with lx := v }) ∧ (s.refuseMpd d e code x pl).mem = s.mem := by
  have hkeep : (s.setEng d e x).KeepsWork (s.refuseMpd d e code x pl) :=
    (((State.KeepsWork.refl _).count _ _).raise _ _ _).issueAnswer _ _ _ _
  obtain ⟨v, hv⟩ := hkeep.eng (State.setEng_eng_ordered he d e x) (36 * d + e)
  refine ⟨⟨v, hv.trans ?_⟩, hkeep.mem⟩
  rw [← State.engD, State.engD_setEng_same he]

/-- A refusal leaves the engine as it says but for live extents, and memory as it was (R132). -/
theorem State.refuseMpd_outcome {s : State} (he : s.eng.ordered) {o : Host.Outcome State Fault Refusal} {d e code : Nat} {x : Engine}
    (h : ∃ pl, o = .next (s.refuseMpd d e code x pl)) : ∃ t v, o = .next t ∧ t.engD d e = { x with lx := v } ∧ t.mem = s.mem := by
  obtain ⟨pl, rfl⟩ := h
  obtain ⟨⟨v, hv⟩, hmem⟩ := State.refuseMpd_keeps he d e code x pl
  exact ⟨_, v, rfl, hv, hmem⟩

/-- MPD_ACCEPT judges an offer in the order of R132: the structure (R133), R78, the slots (R101), the extents (R129, R131). Each of the first
three leaves its reason in the engine; an MPD that passes them all joins the queue, and the Chanter is answered. -/
theorem exec_mpdAccept {s : State} {d : Die} {e : Eng} {n : Nat} (hs : s.bel.stopped = false) (ho : (s.engD d e).offer ≠ [])
    (hopc : mpdOpc (s.engD d e).offer ≠ 2) (hq : (s.engD d e).queue.length < 8) :
    let x := s.engD d e
    let r1 := s.seqReason d e x.slots x.offer
    let r2 := s.engReason d e x.slots x.offer
    let c := s.slotFail x x.slots x.offer
    (r1 ≠ 0 → ∃ pl, exec (.mpdAccept d ⟨e, n⟩) s = .next (s.refuseMpd d e Code.seqMpdInvalid { x.clearOffer with lastInvalid := r1 } pl)) ∧
    (r1 = 0 → r2 ≠ 0 →
      ∃ pl, exec (.mpdAccept d ⟨e, n⟩) s = .next (s.refuseMpd d e Code.engMpdRefused { x.clearOffer with lastRefusal := r2 } pl)) ∧
    (r1 = 0 → r2 = 0 → c.cause ≠ 0 →
      ∃ pl, exec (.mpdAccept d ⟨e, n⟩) s = .next (s.refuseMpd d e Code.accPlanOver { x.clearOffer with lastPlan := c.word } pl)) ∧
    (r1 = 0 → r2 = 0 → c.cause = 0 → ∀ f, extentFail x.offer (x.rawExtents x.offer) = some f →
      ∃ pl, exec (.mpdAccept d ⟨e, n⟩) s = .next (s.refuseMpd d e f.2 x.clearOffer pl)) ∧
    (r1 = 0 → r2 = 0 → c.cause = 0 → extentFail x.offer (x.rawExtents x.offer) = none →
      exec (.mpdAccept d ⟨e, n⟩) s = .next ((((s.setEng d e (s.engAccepts d e)).count (regAddr (Page.eng d e) cntObCorrected) n).count
        (regAddr (Page.eng d e) 0x78) 1).issueAnswer d e 0 (some x.nextSeq))) := by
  have ho' : (s.engD d e).offer.isEmpty = false := by simpa using ho
  have hexec : exec (.mpdAccept d ⟨e, n⟩) s = execMpdAccept d ⟨e, n⟩ s := rfl
  simp only [execMpdAccept, State.still, hs, ho', hopc, Nat.not_le.mpr hq, decide_false, Bool.or_self, Bool.false_eq_true, ↓reduceIte] at hexec
  dsimp only
  rw [hexec]
  refine ⟨fun h1 => ⟨_, if_pos h1⟩, fun h1 h2 => ⟨_, (if_neg (not_not.mpr h1)).trans (if_pos h2)⟩,
    fun h1 h2 h3 => ⟨_, (if_neg (not_not.mpr h1)).trans ((if_neg (not_not.mpr h2)).trans (if_pos h3))⟩, fun h1 h2 h3 f h4 => ?_,
    fun h1 h2 h3 h4 => ?_⟩
  · unfold Engine.slots at h1 h2 h3
    simp only [h1, h2, h3, h4, ne_eq, not_true_eq_false, ↓reduceIte]
    exact ⟨_, rfl⟩
  · unfold Engine.slots at h1 h2 h3
    simp only [h1, h2, h3, h4, ne_eq, not_true_eq_false, ↓reduceIte]
    rfl

/-- The descriptor file after a record has been applied, in the order of its descriptors (R111). -/
def Engine.recordSlots (x : Engine) : Tbl (List Nat) :=
  [0, 1, 2].foldl (fun u k => match recordSlot x.offer k with
    | some p => u.set [] p.1 p.2
    | none => u) x.tds

/-- DESCRIPTOR_RECORD writes the descriptor file, and the Chanter is answered (R111). -/
theorem exec_descriptorRecord {s : State} {d : Die} {e : Eng} (hs : s.bel.stopped = false) (ho : (s.engD d e).offer ≠ [])
    (hopc : mpdOpc (s.engD d e).offer = 2) :
    exec (.descriptorRecord d e) s =
      .next ((s.setEng d e { (s.engD d e).clearOffer with tds := (s.engD d e).recordSlots }).issueAnswer d e 0 none) := by
  have ho' : (s.engD d e).offer.isEmpty = false := by simpa using ho
  show execDescriptorRecord d e s = _
  simp only [execDescriptorRecord, State.still, hs, ho', hopc, ne_eq, not_true_eq_false, decide_false, Bool.or_self, Bool.false_eq_true, ↓reduceIte]
  rfl

/-- An accepted answer leaves the engines. -/
theorem State.issueAnswer_accepted_engD (s : State) (d e : Nat) (seq : Option Nat) (d' e' : Nat) :
    (s.issueAnswer d e 0 seq).engD d' e' = s.engD d' e' := by
  rw [State.issueAnswer_accepted]
  rfl

/-- Settles O44: each branch of R132 by what it makes of the engine; the answer to the Chanter touches the engines' live extents alone. -/
theorem mpdAcceptance : Obligations.MpdAcceptance := by
  unfold Obligations.MpdAcceptance
  refine ⟨?_, ?_⟩
  · intro s d e n hs htab x w tds ho hopc hq
    obtain ⟨heng, hcnt, -⟩ := State.tablesOk_ordered htab
    obtain ⟨hinvalid, hrefused, hplan, hextent, haccept⟩ := exec_mpdAccept (n := n) hs ho hopc hq
    refine ⟨?_, ?_, ?_, ?_, ?_⟩
    · intro h1 h2 h3 h4
      refine ⟨_, haccept h1 h2 h3 h4, ?_⟩
      rw [State.issueAnswer_accepted_engD, State.engD_count, State.engD_count, State.engD_setEng_same heng]
      refine ⟨?_, rfl, rfl, ?_, _, rfl, rfl, rfl, rfl, rfl⟩
      · rw [State.issueAnswer_accepted]
        rfl
      · rw [State.issueAnswer_accepted]
        have hcnt' := State.count_cnt_ordered (s := s.setEng d e (s.engAccepts d e)) hcnt (regAddr (Page.eng d e) cntObCorrected) n
        exact (State.cntAt_count_other hcnt' (obCorrected_ne (by omega)) 1).trans (State.cntAt_count_same (s := s.setEng d e _) hcnt _ n)
    · intro h1
      obtain ⟨t, v, hexec, hv, hmem⟩ := State.refuseMpd_outcome heng (hinvalid h1)
      refine ⟨t, hexec, ?_⟩
      rw [hv]
      exact ⟨rfl, rfl, rfl, rfl, hmem⟩
    · intro h1 h2
      obtain ⟨t, v, hexec, hv, hmem⟩ := State.refuseMpd_outcome heng (hrefused h1 h2)
      refine ⟨t, hexec, ?_⟩
      rw [hv]
      exact ⟨rfl, rfl, rfl, rfl, hmem⟩
    · intro h1 h2 h3
      obtain ⟨t, v, hexec, hv, hmem⟩ := State.refuseMpd_outcome heng (hplan h1 h2 h3)
      refine ⟨t, hexec, ?_⟩
      rw [hv]
      exact ⟨rfl, rfl, rfl, rfl, hmem⟩
    · intro h1 h2 h3 h4
      obtain ⟨f, hf⟩ := Option.isSome_iff_exists.mp h4
      obtain ⟨t, v, hexec, hv, hmem⟩ := State.refuseMpd_outcome heng (hextent h1 h2 h3 f hf)
      refine ⟨t, hexec, ?_⟩
      rw [hv]
      exact ⟨rfl, rfl, rfl, hmem, rfl⟩
  · intro s d e hs htab ho hopc
    obtain ⟨heng, -, -⟩ := State.tablesOk_ordered htab
    refine ⟨_, exec_descriptorRecord hs ho hopc, ?_⟩
    rw [State.issueAnswer_accepted_engD, State.engD_setEng_same heng]
    refine ⟨?_, rfl, rfl, rfl, rfl⟩
    rw [State.issueAnswer_accepted]
    rfl

end Sys2Proof.Machine
end

section
/-! A long command that ends, and the engine that the self-test of an array leaves (R72, R73, R381). -/

namespace Sys2Proof

/-- What a table reads at a key is a value that it lists, or that of the unlisted keys. -/
theorem Tbl.lookup_eq_or_mem {α : Type} (d : α) (k : Nat) : ∀ l : List (Nat × α), Tbl.lookup d k l = d ∨ ∃ c ∈ l, c.2 = Tbl.lookup d k l
  | [] => Or.inl rfl
  | (a, v) :: rest => by
    simp only [Tbl.lookup]
    split
    · rcases Tbl.lookup_eq_or_mem d k rest with h | ⟨c, hc, hv⟩
      · exact Or.inl h
      · exact Or.inr ⟨c, List.mem_cons_of_mem _ hc, hv⟩
    · split
      · exact Or.inr ⟨(a, v), List.mem_cons_self, rfl⟩
      · exact Or.inl rfl

namespace Machine

/-- The tables of the arrays of every engine rise in their keys. -/
theorem State.engD_arrays_ordered {s : State} (h : s.tablesOk) (d e : Nat) : (s.engD d e).arrays.ordered := by
  obtain ⟨-, -, -, -, -, -, -, -, -, -, -, -, -, -, -, -, -, -, -, -, -, -, -, -, -, -, -, hcells, -⟩ := h
  rcases Tbl.lookup_eq_or_mem Engine.reset (36 * d + e) s.eng.cells with hr | ⟨c, hc, hv⟩
  · rw [State.engD, Tbl.get, hr]
    rfl
  · rw [State.engD, Tbl.get, ← hv]
    exact (hcells c hc).1

theorem Engine.arr_setArr_ordered {x : Engine} (h : x.arrays.ordered) (a : Nat) (v : Arr4) : (x.setArr a v).arr a = v := by
  simp [Engine.arr, Engine.setArr, Tbl.get_set_ordered h]

theorem State.endLong_frame (s : State) (op status cause : Nat) :
    let t := s.endLong op status cause
    t = { s with ctl := t.ctl, evt := t.evt, cnt := t.cnt } := by
  unfold State.endLong
  dsimp only
  split <;> rfl

@[simp] theorem State.endLong_out (s : State) (op status cause : Nat) : (s.endLong op status cause).ctl.out = s.ctl.out := by
  unfold State.endLong
  split <;> rfl

/-- A long command that has ended no longer runs (R381). -/
theorem State.endLong_longRuns (s : State) (op status cause : Nat) : (s.endLong op status cause).longRuns op = false := by
  cases hf : s.ctl.long.find? fun l => decide (l.opcode = op) with
  | none =>
    have hnone := List.find?_eq_none.mp hf
    simp only [State.endLong, hf]
    simpa [State.longRuns] using hnone
  | some l =>
    simp only [State.endLong, hf]
    simp [State.longRuns]

theorem State.onlyNoted_foldl {α : Type} {s t : State} {g : State → α → State} (hg : ∀ u x, s.onlyNoted u → s.onlyNoted (g u x)) (l : List α)
    (h : s.onlyNoted t) : s.onlyNoted (l.foldl g t) :=
  List.foldlRecOn (motive := fun u => s.onlyNoted u) l _ h fun u hu x _ => hg u x hu

/-- The rows, or columns, that a self-test found beside those of the two maps (R73). -/
def newFailed (bad soft fact : List Nat) : List Nat := bad.eraseDups.filter fun r => !(soft ++ fact).contains r

/-- The state in which the self-test has written what the soft map has room for (R73, R428). -/
def State.softWritten (s : State) (i : Nat) (badRows badCols : List Nat) : State :=
  let soft := s.fuse.softMaps.get noMap i
  let fact := s.fuse.factoryMaps.get noMap i
  let addR := (newFailed badRows (mapRows soft) (mapRows fact)).take (2 - (mapRows soft).length)
  let addC := (newFailed badCols (mapCols soft) (mapCols fact)).take (2 - (mapCols soft).length)
  let n := addR.length + addC.length
  if n = 0 then s else s.writeSoft i (mapWord (mapRows soft ++ addR) (mapCols soft ++ addC)) n

/-- An array after its initialisation (R72, R73): no half is failed; the spares replace the rows and columns of both maps, or the array is
retired. -/
def State.initArr (s : State) (i : Nat) (badRows badCols : List Nat) (r : Arr4) : Arr4 :=
  let soft := s.fuse.softMaps.get noMap i
  let fact := s.fuse.factoryMaps.get noMap i
  let rows := (mapRows fact ++ mapRows soft ++ newFailed badRows (mapRows soft) (mapRows fact)).eraseDups
  let cols := (mapCols fact ++ mapCols soft ++ newFailed badCols (mapCols soft) (mapCols fact)).eraseDups
  let retired := decide (2 < rows.length) || decide (2 < cols.length)
  { r with
    lowFailed := false, highFailed := false, failed := false, retired := retired, repair := mapWord (rows.take 2) (cols.take 2)
    spareRows := if retired then 0 else rows.length, spareCols := if retired then 0 else cols.length }

/-- An initialisation writes the soft map and the array; the rest is events. -/
theorem State.initArray_onlyNoted (s : State) (i : Nat) (badRows badCols : List Nat) :
    let t := s.softWritten i badRows badCols
    let x := t.engD (i / 72) (i % 72 / 2)
    (t.setEng (i / 72) (i % 72 / 2) (x.setArr (i % 2) (s.initArr i badRows badCols (x.arr (i % 2))))).onlyNoted
      (s.initArray i badRows badCols) := by
  refine State.onlyNoted_ite ?_ ?_
  · exact State.onlyNoted_raise (State.onlyNoted_refl _) _ _ _
  · exact State.onlyNoted_foldl (fun _ _ hu => State.onlyNoted_raise hu _ _ _) _ (State.onlyNoted_refl _)

/-- The self-test writes the soft map of its array, counts and reports (R428). -/
theorem State.writeSoft_frame (s : State) (i map n : Nat) :
    let t := s.writeSoft i map n
    t = { s with fuse := { s.fuse with softMaps := s.fuse.softMaps.set noMap i map }, evt := t.evt, cnt := t.cnt } :=
  State.onlyNoted_foldl (fun _ _ hu => State.onlyNoted_raise (State.onlyNoted_count hu _ _) _ _ _) _ (State.onlyNoted_refl _)

theorem State.onlyNoted_fuse {s t : State} (h : s.onlyNoted t) : t.fuse = s.fuse := by
  unfold State.onlyNoted at h
  rw [h]

theorem State.softWritten_frame (s : State) (i : Nat) (badRows badCols : List Nat) :
    let t := s.softWritten i badRows badCols
    t = { s with fuse := t.fuse, evt := t.evt, cnt := t.cnt } := by
  unfold State.softWritten
  dsimp only
  split
  · rfl
  · rw [State.writeSoft_frame]

/-- The array reads as the initialisation has left it. -/
theorem State.initArray_arr {s : State} (h : s.tablesOk) (i : Nat) (badRows badCols : List Nat) :
    ((s.initArray i badRows badCols).engD (i / 72) (i % 72 / 2)).arr (i % 2) =
      s.initArr i badRows badCols ((s.engD (i / 72) (i % 72 / 2)).arr (i % 2)) := by
  obtain ⟨heng, -, -⟩ := State.tablesOk_ordered h
  have hsoft : (s.softWritten i badRows badCols).eng = s.eng := by rw [State.softWritten_frame]
  have hx : (s.softWritten i badRows badCols).engD (i / 72) (i % 72 / 2) = s.engD (i / 72) (i % 72 / 2) := by rw [State.engD, hsoft, State.engD]
  rw [State.onlyNoted_engD (s.initArray_onlyNoted i badRows badCols), State.engD_setEng_same (hsoft ▸ heng), hx,
    Engine.arr_setArr_ordered (State.engD_arrays_ordered h _ _)]

theorem State.initArray_fuse (s : State) (i : Nat) (badRows badCols : List Nat) :
    (s.initArray i badRows badCols).fuse = (s.softWritten i badRows badCols).fuse :=
  (State.onlyNoted_fuse (s.initArray_onlyNoted i badRows badCols)).trans rfl

theorem mapRows_noMap : mapRows noMap = [] := by decide
theorem mapCols_noMap : mapCols noMap = [] := by decide

section
variable {s : State} {i : Nat} (hs : s.fuse.softMaps.get noMap i = noMap) (hf : s.fuse.factoryMaps.get noMap i = noMap)
include hs hf

/-- With both maps empty, a failed row is written into the soft map and replaced by a spare row. -/
theorem State.initArr_one (r : Nat) (x : Arr4) :
    s.initArr i [r] [] x = { x with
      lowFailed := false, highFailed := false, failed := false, retired := false, repair := mapWord [r] [], spareRows := 1, spareCols := 0 } := by
  simp [State.initArr, hs, hf, mapRows_noMap, mapCols_noMap, newFailed, List.eraseDups_cons]

theorem State.softWritten_one (r : Nat) :
    (s.softWritten i [r] []).fuse = { s.fuse with softMaps := s.fuse.softMaps.set noMap i (mapWord [r] []) } := by
  have hw : s.softWritten i [r] [] = s.writeSoft i (mapWord [r] []) 1 := by
    simp [State.softWritten, hs, hf, mapRows_noMap, mapCols_noMap, newFailed, List.eraseDups_cons]
  rw [hw, State.writeSoft_frame]

end

section
variable {a b c : Nat} (hab : a ≠ b) (hac : a ≠ c) (hbc : b ≠ c)
include hab hac hbc

theorem eraseDups_three : [a, b, c].eraseDups = [a, b, c] := by
  simp [List.eraseDups_cons, hab.symm, hac.symm, hbc.symm]

variable {s : State} {i : Nat} (hs : s.fuse.softMaps.get noMap i = noMap) (hf : s.fuse.factoryMaps.get noMap i = noMap)
include hs hf

/-- Three failed rows are more than the spares replace. -/
theorem State.initArr_three (x : Arr4) : (s.initArr i [a, b, c] [] x).retired = true := by
  simp [State.initArr, hs, hf, mapRows_noMap, mapCols_noMap, newFailed, eraseDups_three hab hac hbc]

/-- The soft map takes the first two of three. -/
theorem State.softWritten_three :
    (s.softWritten i [a, b, c] []).fuse = { s.fuse with softMaps := s.fuse.softMaps.set noMap i (mapWord [a, b] []) } := by
  have hw : s.softWritten i [a, b, c] [] = s.writeSoft i (mapWord [a, b] []) 2 := by
    simp [State.softWritten, hs, hf, mapRows_noMap, mapCols_noMap, newFailed, eraseDups_three hab hac hbc]
  rw [hw, State.writeSoft_frame]

end

/-- The rows and the columns that failed the self-test of an array (R73). -/
def selfTestOf (results : List SelfTest) (i : Nat) : List Nat × List Nat :=
  match results.find? fun r => r.array.val = i with
  | some r => (r.rows.map Fin.val, r.cols.map Fin.val)
  | none => ([], [])

theorem selfTestOf_nil (i : Nat) : selfTestOf [] i = ([], []) := rfl

theorem selfTestOf_single (r : SelfTest) : selfTestOf [r] r.array.val = (r.rows.map Fin.val, r.cols.map Fin.val) := by
  simp [selfTestOf]

/-- The end of an ARRAY_REPAIR of one array initialises it with what its self-test found, and the command ends (R73). -/
theorem exec_arrayRepairDone {s : State} {tag i : Nat}
    (hl : s.ctl.long.find? (fun x => x.opcode = 0x0030) = some { opcode := 0x0030, tag := tag, arg := [i] }) (results : List SelfTest) :
    exec (.arrayRepairDone results) s =
      .next ((s.initArray i (selfTestOf results i).1 (selfTestOf results i).2).endLong 0x0030 stOk 0) := by
  show execArrayRepairDone results s = _
  simp only [execArrayRepairDone, hl]
  rfl

/-- The command has ended, the fuses are those that the self-test wrote, and the array is as the initialisation left it. -/
theorem State.initArray_endLong {s : State} (h : s.tablesOk) (i : Nat) (badRows badCols : List Nat) :
    let t := (s.initArray i badRows badCols).endLong 0x0030 stOk 0
    t.longRuns 0x0030 = false ∧ t.fuse = (s.softWritten i badRows badCols).fuse ∧
      (t.engD (i / 72) (i % 72 / 2)).arr (i % 2) = s.initArr i badRows badCols ((s.engD (i / 72) (i % 72 / 2)).arr (i % 2)) := by
  refine ⟨State.endLong_longRuns _ _ _ _, ?_, ?_⟩
  · rw [State.endLong_frame]
    exact s.initArray_fuse i badRows badCols
  · rw [State.endLong_frame]
    exact State.initArray_arr h i badRows badCols

/-- `t` differs from `s` at most in the sub-ports and the ports. -/
def State.onlyPorts (s t : State) : Prop := t = { s with subs := t.subs, ports := t.ports }

theorem State.onlyPorts_refl (s : State) : s.onlyPorts s := rfl

theorem State.onlyPorts_setSub {s t : State} (h : s.onlyPorts t) (c : Nat) (x : SubPort) : s.onlyPorts (t.setSub c x) := by
  unfold State.onlyPorts at *
  rw [h]
  rfl

theorem State.onlyPorts_setPorts {s t : State} (h : s.onlyPorts t) (p : Tbl LinkPort) : s.onlyPorts { t with ports := p } := by
  unfold State.onlyPorts at *
  rw [h]

theorem State.onlyPorts_foldl {α : Type} {s t : State} {g : State → α → State} (hg : ∀ u x, s.onlyPorts u → s.onlyPorts (g u x)) (l : List α)
    (h : s.onlyPorts t) : s.onlyPorts (l.foldl g t) :=
  List.foldlRecOn (motive := fun u => s.onlyPorts u) l _ h fun u hu x _ => hg u x hu

theorem State.onlyPorts_formPort {s t : State} (h : s.onlyPorts t) (n : Nat) : s.onlyPorts (t.formPort n) :=
  State.onlyPorts_foldl (fun _ _ hu => State.onlyPorts_setSub hu _ _) _
    (State.onlyPorts_setPorts (State.onlyPorts_foldl (fun _ _ hu => State.onlyPorts_setSub hu _ _) _ h) _)

/-- Retraining a code writes sub-ports and ports alone (R316, R317). -/
theorem State.onlyPorts_retrain {s t : State} (h : s.onlyPorts t) (c : Nat) : s.onlyPorts (t.retrain c) := by
  unfold State.retrain
  dsimp only
  split
  · exact h
  · split
    · exact State.onlyPorts_formPort h _
    · split
      · exact h
      · exact State.onlyPorts_setSub h _ _

/-- The retraining of some codes, with the end of the command where it comes at once, leaves memory, the fuses and what has been sent. -/
theorem State.retrained_frame {s t : State} (h : s.onlyPorts t) :
    t.mem = s.mem ∧ t.fuse = s.fuse ∧ t.ctl = s.ctl := by
  unfold State.onlyPorts at h
  rw [h]
  exact ⟨rfl, rfl, rfl⟩

/-- A response that is the last message sent has been sent. -/
theorem State.responded_mem {t : State} {h : Hdr} {op status : Nat} (hr : t.responded h op status) :
    ∃ r : Resp, .resp r ∈ t.ctl.out ∧ r.tag = h.tag.toNat ∧ r.status = status := by
  obtain ⟨r, -, hlast, htag, -, hst⟩ := hr
  exact ⟨r, List.mem_of_getLast? hlast, htag, hst⟩

section
variable {s : State} {h : Hdr}

/-- ARRAY_REPAIR of array numbers that exist starts (R72, R379). -/
theorem exec_arrayRepair {arrays : List Nat} (ha : s.accepts h 0x0030 = true) (hall : arrays.all (fun i => decide (i < 288)) = true) :
    exec (.arrayRepair h arrays) s = .next ((s.begun h).startLong h 0x0030 arrays) := by
  refine congrArg Host.Outcome.next ((State.command_accepted _ ha).trans ?_)
  exact if_pos hall

/-- PORT_RETRAIN starts, and ends at once where no code is trained (R317, R379). -/
theorem exec_portRetrain {codes : List Nat} (ha : s.accepts h 0x0032 = true) (hall : codes.all (s.begun h).codeExists = true) :
    exec (.portRetrain h codes) s = .next
      (let y := codes.foldl State.retrain ((s.begun h).startLong h 0x0032 codes)
       if (List.range 96).any fun c => (y.subP c).state = .training then y else y.endLong 0x0032 stOk 0) := by
  refine congrArg Host.Outcome.next ((State.command_accepted _ ha).trans ?_)
  exact if_pos hall

/-- CAD_REACQUIRE takes the cadence unit to ACQUIRING (R347). -/
theorem exec_cadReacquire (ha : s.accepts h 0x0033 = true) :
    exec (.cadReacquire h) s = .next (State.startLong { s.begun h with
      cad := { s.cad with state := .acquiring, goodSync := 0, goodEdge := 0, badEdge := 0 } } h 0x0033) :=
  congrArg Host.Outcome.next (State.command_accepted _ ha)

/-- LEDGER_ACK frees the ledger records up to a step (R397). -/
theorem exec_ledgerAck (ha : s.accepts h 0x0043 = true) (n : DWord) :
    exec (.ledgerAck h n) s = .next (State.answer { s.begun h with
      ctl := { (s.begun h).ctl with ledgerAck := max s.ctl.ledgerAck (n.toNat + 1) } } h 0x0043 stOk 0) :=
  congrArg Host.Outcome.next (State.command_accepted _ ha)

end

/-- What a command finds in which it begins: its message has left the queue, and it has been counted (R370). -/
theorem State.begun_frame (s : State) (h : Hdr) : s.begun h = { s with ctl := (s.begun h).ctl, cnt := (s.begun h).cnt } := rfl

@[simp] theorem State.begun_mem (s : State) (h : Hdr) : (s.begun h).mem = s.mem := by rw [State.begun_frame]
@[simp] theorem State.begun_fuse (s : State) (h : Hdr) : (s.begun h).fuse = s.fuse := by rw [State.begun_frame]

theorem State.answer_frame (s : State) (h : Hdr) (op status cause : Nat) (data : List Byte) :
    s.answer h op status cause data = { s with ctl := (s.answer h op status cause data).ctl } := rfl

theorem State.startLong_frame (s : State) (h : Hdr) (op : Nat) (arg : List Nat) :
    s.startLong h op arg = { s with ctl := (s.startLong h op arg).ctl } := rfl

/-- Settles O26: the commands that are accepted by their answer, and the end of ARRAY_REPAIR by the array that it leaves. -/
theorem serviceCommands : Obligations.ServiceCommands := by
  unfold Obligations.ServiceCommands
  refine ⟨?_, ?_, ?_, ?_, ?_, ?_, ?_⟩
  · intro h s arrays ha hall
    refine ⟨_, exec_arrayRepair ha hall, State.startLong_responded _ _ _ _, ?_, by simp [State.longRuns, State.startLong]⟩
    rw [State.startLong_frame, State.begun_frame]
  · intro s tag i hl htab
    obtain ⟨hend, -, harr⟩ := State.initArray_endLong htab i.val [] []
    refine ⟨_, exec_arrayRepairDone hl [], hend, ?_⟩
    rw [selfTestOf_nil]
    dsimp only
    rw [harr]
    exact ⟨rfl, rfl, rfl⟩
  · intro s tag i r hl htab hsoft hfact
    obtain ⟨hend, hfuse, harr⟩ := State.initArray_endLong htab i.val [r.val] []
    have hexec := exec_arrayRepairDone hl [{ array := i, rows := [r], cols := [] }]
    rw [selfTestOf_single { array := i, rows := [r], cols := [] }] at hexec
    simp only [List.map_cons, List.map_nil] at hexec
    refine ⟨_, hexec, hend, hfuse.trans (State.softWritten_one hsoft hfact r.val), ?_⟩
    dsimp only
    rw [harr, State.initArr_one hsoft hfact]
  · intro s tag i a b c hl htab hab hac hbc hsoft hfact
    have hab' := Fin.val_ne_of_ne hab
    have hac' := Fin.val_ne_of_ne hac
    have hbc' := Fin.val_ne_of_ne hbc
    obtain ⟨hend, hfuse, harr⟩ := State.initArray_endLong htab i.val [a.val, b.val, c.val] []
    have hexec := exec_arrayRepairDone hl [{ array := i, rows := [a, b, c], cols := [] }]
    rw [selfTestOf_single { array := i, rows := [a, b, c], cols := [] }] at hexec
    simp only [List.map_cons, List.map_nil] at hexec
    refine ⟨_, hexec, hend, hfuse.trans (State.softWritten_three hab' hac' hbc' hsoft hfact), ?_⟩
    rw [harr, State.initArr_three hab' hac' hbc' hsoft hfact]
  · intro h s codes ha hall
    have hports : ((s.begun h).startLong h 0x0032 codes).onlyPorts (codes.foldl State.retrain ((s.begun h).startLong h 0x0032 codes)) :=
      State.onlyPorts_foldl (fun _ _ hu => State.onlyPorts_retrain hu _) _ (State.onlyPorts_refl _)
    obtain ⟨hmem, hfuse, hctl⟩ := State.retrained_frame hports
    obtain ⟨r, hr, htag, hst⟩ := State.responded_mem (State.startLong_responded (s.begun h) h 0x0032 codes)
    rw [State.startLong_mem, State.begun_mem] at hmem
    rw [State.startLong_fuse, State.begun_fuse] at hfuse
    have hexec := exec_portRetrain ha hall
    generalize codes.foldl State.retrain ((s.begun h).startLong h 0x0032 codes) = y at hmem hfuse hctl hexec
    refine ⟨_, hexec, ?_⟩
    dsimp only
    split
    · refine ⟨hmem, hfuse, r, ?_, htag, hst⟩
      rw [hctl]
      exact hr
    · rw [State.endLong_out, hctl, State.endLong_frame]
      exact ⟨hmem, hfuse, r, hr, htag, hst⟩
  · intro h s ha
    refine ⟨_, exec_cadReacquire ha, State.startLong_responded _ _ _ _, ?_, ?_⟩
    · rw [State.startLong_frame]
    · rw [State.startLong_frame, State.begun_frame]
  · intro h s n ha
    refine ⟨_, exec_ledgerAck ha n, State.answer_responded _ _ _ _ _ _, ?_, ?_, ?_⟩
    · rw [State.answer_frame, State.begun_frame]
    · exact Nat.lt_of_lt_of_le (Nat.lt_succ_self _) (Nat.le_max_right s.ctl.ledgerAck _)
    · exact Nat.le_max_left _ _

end Machine
end Sys2Proof
end

section
/-! O48 fails for an output buffer whose header granule is the last granule that a chunk of a Proofer's arrival window takes. `State.putHeader`
leaves the header to the stream port where the element plane lies in the window, but here the plane would begin 64 bytes further on, where the
window is unmapped (R281); so the epilogue writes the header itself, and the write goes to the Proofer, in the state's spine. The second clause,
on EPILOGUE_ROW, lets the spine be as it was. -/

namespace Sys2Proof.Machine

/-- An output descriptor of one element with a header granule, based at 0x200000007FC0. -/
def edgeOut : List Nat := [0x1FF, 0x100080, 1, 1, 0, 0, 0, 0]

/-- An MPD of one pass on array A, of one row and one column, that begins and ends its tile; its operands lie in the operand buffer. -/
def edgeMpd : Mpd :=
  { words := [0xC0001, 0x88, 0x100, 0x1FFFFFF, 0x1001, 1, 1, 1], seq := 0
    tds := [[0, 0xC, 1, 1, 0, 0, 0, 0], [0, 0xC, 1, 1, 0, 0, 0, 0], edgeOut]
    raw := [1, 1, 1, 1, 1], live := [1, 1, 1, 1, 1], rowMask := [], blkMask := [] }

/-- The output tile of that pass. -/
def edgeTile : AccTile :=
  { b := 0, h := 0, n := 0, m := 0, rows := [[0]], pairs := [], spilt := false, fresh := false, passes := 1, set := 0, slots := 2, wide := 0
    rung := 0, pass := 0 }

/-- The MPD in the queue once its pass is done, with no header written. -/
def edgeJob : Job :=
  { mpd := edgeMpd, lanes := [{ LaneProg.begin 0 0 with pos := 1 }], header := [], begun := false, units := 0, nonfin := [] }

/-- The tile as it drains, before its one row. -/
def edgeDrain : DrainTile := { mpd := edgeMpd, lane := 0, tile := edgeTile, bab := fp32One, begun := true, next := 0, flagged := false }

/-- The package after reset, but for that MPD on the first engine. -/
def edgeState : State :=
  { State.reset with eng := ⟨[(0, { Engine.reset with nextSeq := 1, queue := [edgeJob], drains := ⟨[(0, [edgeDrain])]⟩ })]⟩ }

/-- The engine accepts such an MPD: R133 and R78 have no reason against it. -/
theorem edgeMpd_acceptable :
    State.reset.seqReason 0 0 edgeMpd.tds edgeMpd.words = 0 ∧ State.reset.engReason 0 0 edgeMpd.tds edgeMpd.words = 0 := by
  decide +kernel

/-- The writes under way to the Proofers after a step. -/
def arrivalsAfter : Host.Outcome State Fault Refusal → List Arrival
  | .next t => t.spine.arrivals
  | _ => []

/-- The header granule of the drained tile is under way to PF0. -/
theorem edgeState_arrivals :
    (arrivalsAfter (exec (.epilogueRow 0 0 ⟨.A, 0⟩) edgeState)).map (fun x => (x.prf, x.addr, x.bytes.length)) =
      [(0, 0x200000007FC0, 64)] := by
  decide +kernel

/-- Refutes O48: an epilogue row writes the header of its MPD's output into an arrival window, which the frame of EPILOGUE_ROW excludes. -/
theorem not_drainAndCompletion : ¬ Obligations.DrainAndCompletion := by
  unfold Obligations.DrainAndCompletion
  rintro ⟨-, hrow, -, -⟩
  obtain ⟨t, ht, hframe, -⟩ := hrow edgeState 0 0 .A 0 edgeDrain [] rfl (by decide +kernel) rfl rfl rfl
  have harrivals := edgeState_arrivals
  rw [ht] at harrivals
  have hspine : t.spine = Spine.reset := by rw [hframe]; rfl
  rw [arrivalsAfter, hspine] at harrivals
  exact absurd harrivals (by decide)

end Sys2Proof.Machine
end

section
/-! What a fabric, its reeds, its queues and a reed's counters read as after they have been written, and the order of their tables. -/

namespace Sys2Proof

/-- What holds of the value of unlisted keys and of every value that a table lists holds of every value read. -/
theorem Tbl.get_of_cells {α : Type} {p : α → Prop} {d : α} {t : Tbl α} (hd : p d) (h : ∀ c ∈ t.cells, p c.2) (k : Nat) : p (t.get d k) := by
  rcases Tbl.lookup_eq_or_mem d k t.cells with hk | ⟨c, hc, hk⟩
  · rw [Tbl.get, hk]
    exact hd
  · rw [Tbl.get, ← hk]
    exact h c hc

namespace Machine

section
variable {s : State} (h : s.fab.ordered) {d k : Nat} (f : FabDie)
include h

@[simp] theorem State.fabD_setFab_same : (s.setFab d f).fabD d = f := (Tbl.get_set_ordered h d d f).trans (if_pos rfl)

theorem State.fabD_setFab_other (hk : k ≠ d) : (s.setFab d f).fabD k = s.fabD k := (Tbl.get_set_ordered h d k f).trans (if_neg hk)

theorem State.setFab_ordered : (s.setFab d f).fab.ordered := Tbl.ordered_set h d f

end

section
variable {f : FabDie} (h : f.reeds.ordered) (r : Nat) (x : ReedRun)
include h

@[simp] theorem FabDie.reed_setReed_same : (f.setReed r x).reed r = x := (Tbl.get_set_ordered h r r x).trans (if_pos rfl)

theorem FabDie.reed_setReed_other {k : Nat} (hk : k ≠ r) : (f.setReed r x).reed k = f.reed k :=
  (Tbl.get_set_ordered h r k x).trans (if_neg hk)

theorem FabDie.setReed_ordered : (f.setReed r x).reeds.ordered := Tbl.ordered_set h r x

end

section
variable {f : FabDie} (h : f.queues.ordered) (k : Nat) (q : Queue)
include h

theorem FabDie.queue_setQueue_same : (f.setQueue k q).queue k = q := (Tbl.get_set_ordered h k k q).trans (if_pos rfl)

theorem FabDie.queue_setQueue_other {j : Nat} (hj : j ≠ k) : (f.setQueue k q).queue j = f.queue j :=
  (Tbl.get_set_ordered h k j q).trans (if_neg hj)

theorem FabDie.setQueue_ordered : (f.setQueue k q).queues.ordered := Tbl.ordered_set h k q

end

section
variable {x : ReedRun} (h : x.cnts.ordered) (i : Nat) (c : Counter)
include h

theorem ReedRun.cnt_setCnt_same : (x.setCnt i c).cnt i = c := (Tbl.get_set_ordered h i i c).trans (if_pos rfl)

theorem ReedRun.cnt_setCnt_other {j : Nat} (hj : j ≠ i) : (x.setCnt i c).cnt j = x.cnt j :=
  (Tbl.get_set_ordered h i j c).trans (if_neg hj)

theorem ReedRun.setCnt_ordered : (x.setCnt i c).cnts.ordered := Tbl.ordered_set h i c

end

/-- The tables that the work of reed `r` of die `d` reads and writes list their keys in rising order. -/
structure State.ReedTables (s : State) (d r : Nat) : Prop where
  fabs : s.fab.ordered
  reeds : (s.fabD d).reeds.ordered
  queues : (s.fabD d).queues.ordered
  cnts : ((s.fabD d).reed r).cnts.ordered

theorem State.fabD_ordered {s : State} (h : s.tablesOk) (d : Nat) : (s.fabD d).ordered := by
  obtain ⟨-, -, -, -, -, -, -, -, -, -, -, -, -, -, -, -, -, -, -, -, -, -, -, -, -, -, -, -, hcells, -⟩ := h
  exact Tbl.get_of_cells (p := FabDie.ordered) ⟨rfl, rfl, rfl, fun _ hc => absurd hc List.not_mem_nil⟩ hcells d

theorem State.fab_ordered {s : State} (h : s.tablesOk) : s.fab.ordered := by
  obtain ⟨-, -, -, -, -, -, -, -, -, -, hfab, -⟩ := h
  exact hfab

theorem State.img_ordered {s : State} (h : s.tablesOk) : s.img.ordered := by
  obtain ⟨-, -, -, -, -, -, -, -, -, himg, -⟩ := h
  exact himg

theorem State.ch_ordered {s : State} (h : s.tablesOk) : s.ch.ordered := by
  obtain ⟨-, -, -, -, -, -, -, -, -, -, -, hch, -⟩ := h
  exact hch

theorem State.reedTables {s : State} (h : s.tablesOk) (d r : Nat) : s.ReedTables d r := by
  obtain ⟨hreeds, -, hqueues, hcells⟩ := State.fabD_ordered h d
  exact ⟨State.fab_ordered h, hreeds, hqueues, Tbl.get_of_cells (p := fun x : ReedRun => x.cnts.ordered) rfl hcells r⟩

end Machine
end Sys2Proof
end

section
/-! The movement of entries through the fabric of a die: beside what `State.settle_frame` says, it leaves the other fabrics, which configuration is in
force, what the reeds hold and count, and the counts of swaps, audits and starvations (R139, R167). -/

namespace Sys2Proof.Machine

/-- A fabric `g` has the sets of `f`, and its reeds hold what those of `f` hold, but for reeds that an uncorrectable local store has stopped
(R173). -/
structure FabDie.Keeps (f g : FabDie) : Prop where
  ordered : g.reeds.ordered
  sets : (g.activeSet, g.shadow, g.placed, g.swap, g.due) = (f.activeSet, f.shadow, f.placed, f.swap, f.due)
  reed : ∀ r, g.reed r = { f.reed r with stopped := (g.reed r).stopped }

theorem FabDie.Keeps.refl {f : FabDie} (h : f.reeds.ordered) : f.Keeps f := ⟨h, rfl, fun _ => rfl⟩

theorem FabDie.Keeps.trans {f g k : FabDie} (h : f.Keeps g) (h' : g.Keeps k) : f.Keeps k :=
  ⟨h'.ordered, h'.sets.trans h.sets, fun r => by rw [h'.reed r, h.reed r]⟩

/-- The queues, rings and stream ports of a fabric are no part of what is kept. -/
theorem FabDie.Keeps.of_eq {f g k : FabDie} (h : f.Keeps g) (hr : k.reeds = g.reeds := by rfl)
    (hs : (k.activeSet, k.shadow, k.placed, k.swap, k.due) = (g.activeSet, g.shadow, g.placed, g.swap, g.due) := by rfl) : f.Keeps k :=
  h.trans ⟨hr ▸ h.ordered, hs, fun r => by rw [FabDie.reed, hr]; rfl⟩

/-- `t` follows `s` by movement in the fabric of die `d`. -/
structure State.Moved (s t : State) (d : Nat) : Prop where
  ctl : t.ctl = s.ctl
  fuse : t.fuse = s.fuse
  fabs : t.fab.ordered
  others : ∀ k, k ≠ d → t.fabD k = s.fabD k
  die : (s.fabD d).Keeps (t.fabD d)
  cnts : t.cnt.ordered
  counts : ∀ off, off < 0x54 → t.cntAt (regAddr (Page.fab d) off) = s.cntAt (regAddr (Page.fab d) off)

theorem State.Moved.refl {s : State} {d : Nat} (hf : s.fab.ordered) (hr : (s.fabD d).reeds.ordered) (hc : s.cnt.ordered) : s.Moved s d :=
  ⟨rfl, rfl, hf, fun _ _ => rfl, .refl hr, hc, fun _ _ => rfl⟩

theorem State.Moved.of_tablesOk {s : State} (h : s.tablesOk) (d : Nat) : s.Moved s d := by
  obtain ⟨-, hcnt, -⟩ := State.tablesOk_ordered h
  exact .refl (State.fab_ordered h) (State.fabD_ordered h d).1 hcnt

section
variable {s t : State} {d : Nat}

theorem State.Moved.trans {u : State} (h : s.Moved t d) (g : t.Moved u d) : s.Moved u d :=
  ⟨g.ctl.trans h.ctl, g.fuse.trans h.fuse, g.fabs, fun k hk => (g.others k hk).trans (h.others k hk), h.die.trans g.die, g.cnts,
    fun off ho => (g.counts off ho).trans (h.counts off ho)⟩

/-- What touches neither the fabrics nor the counters. -/
theorem State.Moved.beside {u : State} (h : s.Moved t d) (hctl : u.ctl = t.ctl := by rfl) (hfuse : u.fuse = t.fuse := by rfl)
    (hfab : u.fab = t.fab := by rfl) (hcnt : u.cnt = t.cnt := by rfl) : s.Moved u d := by
  refine ⟨hctl.trans h.ctl, hfuse.trans h.fuse, hfab ▸ h.fabs, fun k hk => ?_, ?_, hcnt ▸ h.cnts, fun off ho => ?_⟩
  · rw [State.fabD, hfab]
    exact h.others k hk
  · rw [State.fabD, State.fabD, hfab]
    exact h.die
  · rw [State.cntAt, hcnt]
    exact h.counts off ho

theorem State.Moved.setFab (h : s.Moved t d) {f : FabDie} (hf : (s.fabD d).Keeps f) : s.Moved (t.setFab d f) d := by
  refine ⟨h.ctl, h.fuse, State.setFab_ordered h.fabs f, fun k hk => ?_, ?_, h.cnts, h.counts⟩
  · rw [State.fabD_setFab_other h.fabs f hk]
    exact h.others k hk
  · rw [State.fabD_setFab_same h.fabs]
    exact hf

/-- Queues, rings and stream ports of the fabric are written. -/
theorem State.Moved.setFab_of_eq (h : s.Moved t d) (f : FabDie) (hr : f.reeds = (t.fabD d).reeds := by rfl)
    (hs : (f.activeSet, f.shadow, f.placed, f.swap, f.due) =
      ((t.fabD d).activeSet, (t.fabD d).shadow, (t.fabD d).placed, (t.fabD d).swap, (t.fabD d).due) := by rfl) : s.Moved (t.setFab d f) d :=
  h.setFab (h.die.of_eq hr hs)

theorem State.Moved.count (h : s.Moved t d) {a : Nat} (ha : ∀ off, off < 0x54 → regAddr (Page.fab d) off ≠ a) (n : Nat) :
    s.Moved (t.count a n) d :=
  ⟨h.ctl, h.fuse, h.fabs, h.others, h.die, State.count_cnt_ordered h.cnts a n,
    fun off ho => (State.cntAt_count_other h.cnts (ha off ho) n).trans (h.counts off ho)⟩

theorem regAddr_fab_ne {d off page b : Nat} (ho : off < 0x54) (hp : page < Page.fab d) (hb : b < 65536) :
    regAddr (Page.fab d) off ≠ regAddr page b := by
  unfold regAddr
  omega

theorem State.Moved.raise (h : s.Moved t d) (p c : Nat) (pl : List Byte) : s.Moved (t.raise p c pl) d := by
  have hevent : ∀ off, off < 0x54 → ∀ b, b < 65536 → regAddr (Page.fab d) off ≠ regAddr Page.event b :=
    fun off ho b hb => regAddr_fab_ne ho (by unfold Page.fab Page.event; omega) hb
  have hcnt : ∀ m full : Bool, s.Moved { t with
      cnt := if m then t.cnt.upd 0 (regAddr Page.event 0x48) (· + 1)
        else if full then t.cnt.upd 0 (regAddr Page.event 0x44) (· + 1) else t.cnt } d := by
    intro m full
    cases m
    · cases full
      · exact h
      · exact h.count (fun off ho => hevent off ho 0x44 (by decide)) 1
    · exact h.count (fun off ho => hevent off ho 0x48 (by decide)) 1
  exact (hcnt (t.masked p c) (decide (queueDepth ≤ (t.evt.queues.get [] p).length))).beside

theorem State.Moved.foldl {α : Type} {g : State → α → State} (hg : ∀ u x, s.Moved u d → s.Moved (g u x) d) (l : List α) (h : s.Moved t d) :
    s.Moved (l.foldl g t) d :=
  List.foldlRecOn (motive := fun u => s.Moved u d) l _ h fun u hu x _ => hg u x hu

theorem State.Moved.ite {u : State} {c : Prop} [Decidable c] (ht : s.Moved t d) (hu : s.Moved u d) : s.Moved (if c then t else u) d := by
  split
  · exact ht
  · exact hu

theorem State.Moved.store (h : s.Moved t d) (a : Nat) (bs : List Byte) : s.Moved (t.store a bs) d := h.beside
theorem State.Moved.setCh (h : s.Moved t d) (k : Nat) (c : ChDie) : s.Moved (t.setCh k c) d := h.beside
theorem State.Moved.setKv (h : s.Moved t d) (k : Nat) (c : KvDie) : s.Moved (t.setKv k c) d := h.beside
theorem State.Moved.setEng (h : s.Moved t d) (k e : Nat) (x : Engine) : s.Moved (t.setEng k e x) d := h.beside
theorem State.Moved.notifyBoth (h : s.Moved t d) (kind : NoticeKind) (k a b : Nat) : s.Moved (t.notifyBoth kind k a b) d := h.beside

theorem State.Moved.unmapped (h : s.Moved t d) (u : MemUnit) (a c m : Nat) : s.Moved (t.unmapped u a c m) d :=
  (h.raise (unitPage u) Code.memUnmapped (memPayload (t.fresh 16).toNat a 0xFF c 0 0 m)).beside

theorem State.Moved.dieCount (h : s.Moved t d) {b : Nat} (hb : b < 65536) (n : Nat) : s.Moved (t.count (regAddr (Page.die d) b) n) d :=
  h.count (fun _ ho => regAddr_fab_ne ho (by unfold Page.fab Page.die; omega) hb) n

theorem State.Moved.dropMb (h : s.Moved t d) (mb cause : Nat) : s.Moved (t.dropMb d mb cause) d := by
  unfold State.dropMb
  refine State.Moved.raise (State.Moved.dieCount (State.Moved.setCh ?_ _ _) (by decide) 1) _ _ _
  exact h.beside

theorem State.Moved.damageMb (h : s.Moved t d) (u : List Nat) (back : Bool) (ts : List Nat) (eng seq cause layer : Nat) :
    s.Moved (t.damageMb d u back ts eng seq cause layer) d := by
  have h1 : s.Moved ((t.count (regAddr (Page.die d) 0x58) 1).pipeRaise d Code.pipeMbDamaged (some u) layer cause (eng % 64 + seq * 64)) d :=
    (h.dieCount (by decide) 1).raise _ _ _
  exact (State.Moved.foldl (fun _ _ hu => hu.notifyBoth _ _ _ _) _ h1).ite (h1.dropMb _ _)

theorem State.Moved.portPoison (h : s.Moved t d) (mb addr : Nat) : s.Moved (t.portPoison d mb addr) d := by
  unfold State.portPoison
  split
  · exact h.raise _ _ _
  · exact (h.raise _ _ _).damageMb _ _ _ _ _ _ _

/-- The pages that count the poison of a memory die are not those of the fabrics (R291). -/
theorem memCounter_ne {d off : Nat} (hd : d < 4) (ho : off < 0x54) (key : Nat) : regAddr (Page.fab d) off ≠ memCounter key 2 := by
  unfold memCounter regAddr Page.fab Page.die Page.stack
  split <;> omega

theorem State.Moved.countPoison (h : s.Moved t d) (hd : d < 4) (l : List Nat) : s.Moved (t.countPoison l) d := by
  refine State.Moved.foldl (fun u g hu => ?_) l h
  split
  · exact State.Moved.ite (hu.count (fun off ho => memCounter_ne hd ho _) 1) hu
  · exact hu

theorem State.Moved.consume (h : s.Moved t d) (hd : d < 4) (u : MemUnit) (a n m : Nat) : s.Moved (t.consume u a n m).2.2 d := by
  unfold State.consume
  split
  · exact h.unmapped _ _ _ _
  · exact h.countPoison hd _

theorem State.Moved.storeFor (h : s.Moved t d) (u : MemUnit) (a : Nat) (bs : List Byte) (m : Nat) : s.Moved (t.storeFor u a bs m) d := by
  unfold State.storeFor
  split
  · exact h.unmapped _ _ _ _
  · unfold State.putAt
    split
    · exact h.beside
    · exact h.store _ _

theorem State.Moved.abandonStep (h : s.Moved t d) (cause : Nat) (stop : Bool) : s.Moved (t.abandonStep d cause stop) d := by
  unfold State.abandonStep
  split
  · exact h
  · refine State.Moved.raise (State.Moved.setCh (State.Moved.foldl (fun u k hu => ?_) [0, 1, 2, 3] h) _ _) _ _ _
    exact hu.ite ((hu.setCh _ _).notifyBoth _ _ _ _)

theorem State.Moved.kvCount (h : s.Moved t d) (off n : Nat) (ho : off < 0x100) : s.Moved (t.kvCount d off n) d :=
  h.count (fun b hb => by unfold regAddr kvReg regAddr Page.fab Page.kv; omega) n

theorem State.Moved.kvRead (h : s.Moved t d) (hd : d < 4) (x : SpRun) : s.Moved (t.kvRead d x).2.2.2.2 d := by
  unfold State.kvRead
  dsimp only
  split
  · exact h
  · split
    · exact (h.kvCount 0x94 1 (by decide)).ite h
    · split
      · exact (h.consume hd _ _ _ _).consume hd _ _ _ _
      · exact h.consume hd _ _ _ _

theorem State.Moved.kvWrite (h : s.Moved t d) (x : SpRun) (bs : List Byte) : s.Moved (t.kvWrite d x bs).2 d := by
  unfold State.kvWrite
  dsimp only
  split
  · exact h
  · split
    · exact (h.kvCount 0x94 1 (by decide)).ite h
    · split
      · exact (h.storeFor _ _ _ _).storeFor _ _ _ _
      · exact h.storeFor _ _ _ _

/-- A reed that its local store stops keeps what it holds (R173). -/
theorem FabDie.Keeps.stopReed {f g : FabDie} (h : f.Keeps g) (r : Nat) (b : Bool) :
    f.Keeps (g.setReed r { g.reed r with stopped := b }) := by
  refine ⟨FabDie.setReed_ordered h.ordered _ _, h.sets, fun k => ?_⟩
  by_cases hk : k = r
  · rw [hk, FabDie.reed_setReed_same h.ordered, h.reed r]
  · rw [FabDie.reed_setReed_other h.ordered _ _ hk]
    exact h.reed k

theorem State.Moved.lsUncorrectable (h : s.Moved t d) (r : Nat) : s.Moved (t.lsUncorrectable d r) d := by
  unfold State.lsUncorrectable
  refine State.Moved.abandonStep (State.Moved.raise (h.setFab ?_) _ _ _) _ _
  exact (h.die.stopReed r true).of_eq

theorem State.Moved.joinQueue (h : s.Moved t d) (r : Nat) (rec0 : List Nat) (c k : Nat) (e : Entry) : s.Moved (t.joinQueue d r rec0 c k e) d := by
  unfold State.joinQueue
  dsimp only
  split
  · exact State.Moved.store (h.setFab_of_eq _) _ _
  · exact h.setFab_of_eq _

theorem State.Moved.move {u : State} (h : s.Moved t d) {rec0 : List Nat} {r src c : Nat} (hu : t.move d rec0 r src c = some u) : s.Moved u d := by
  unfold State.move at hu
  split at hu
  · dsimp only at hu
    split at hu
    · cases hu
      exact State.Moved.joinQueue (h.setFab_of_eq _) _ _ _ _ _
    · cases hu
  · cases hu

theorem State.Moved.foldlFst {α : Type} {g : State × Bool → α → State × Bool} (hg : ∀ a x, s.Moved a.1 d → s.Moved (g a x).1 d)
    (l : List α) {a : State × Bool} (h : s.Moved a.1 d) : s.Moved (l.foldl g a).1 d :=
  List.foldlRecOn (motive := fun a : State × Bool => s.Moved a.1 d) l _ h fun a ha x _ => hg a x ha

theorem State.Moved.moveQueue (h : s.Moved t d) (rec0 : List Nat) (r src : Nat) : s.Moved (t.moveQueue d rec0 r src).1 d := by
  unfold State.moveQueue
  dsimp only
  split
  · exact h.setFab_of_eq _
  · split
    · exact h
    · split
      · exact h.lsUncorrectable r
      · refine State.Moved.foldlFst (fun a c ha => ?_) _ h
        split
        · exact ha.move ‹_›
        · exact ha

theorem State.Moved.moveReeds (h : s.Moved t d) : s.Moved (t.moveReeds d).1 d := by
  delta State.moveReeds
  generalize List.filter _ _ = keys
  dsimp only
  apply State.Moved.foldlFst
  · intro a k ha
    dsimp only
    exact ha.moveQueue _ _ _
  · exact h

theorem State.Moved.outRows (h : s.Moved t d) (e : Nat) : s.Moved (t.outRows d e) d := by
  have hports : ∀ (l : List Nat) (f : FabDie), (s.fabD d).Keeps f → (s.fabD d).Keeps (l.foldl (fun g i =>
      { g with outq := g.outq.upd [] (4 * e + i) (· ++ ((t.engD d e).out.get [] (i / 2)).flatMap rowEntries) }) f) :=
    fun l f hf => List.foldlRecOn (motive := fun g => (s.fabD d).Keeps g) l _ hf fun _ hg _ _ => hg.of_eq
  unfold State.outRows
  exact State.Moved.setEng (h.setFab (hports _ _ h.die)) _ _ _

theorem State.Moved.outPort (h : s.Moved t d) {e i : Nat} {f : FabDie} (hf : (t.fabD d).outPort e i = some f) : s.Moved (t.setFab d f) d := by
  unfold FabDie.outPort at hf
  dsimp only at hf
  split at hf
  · cases hf
  · obtain ⟨-, hf⟩ := Option.ite_none_right_eq_some.mp hf
    cases hf
    exact h.setFab_of_eq _

theorem State.Moved.inPort {u : State} (h : s.Moved t d) {e i : Nat} (hu : t.inPort d e i = some u) : s.Moved u d := by
  unfold State.inPort at hu
  dsimp only at hu
  split at hu
  · cases hu
  · obtain ⟨-, hu⟩ := Option.ite_none_left_eq_some.mp hu
    cases hu
    exact State.Moved.store (h.setFab_of_eq _) _ _

/-- An entry of a run leaves memory in a state `v`, joins its queue, and what was poisoned is reported. -/
theorem State.Moved.portRead {u : State} (h : s.Moved t d) (hd : d < 4) {p : Nat} (hu : t.portRead d p = some u) : s.Moved u d := by
  have hput : ∀ {v : State}, s.Moved v d → ∀ (k : Nat) (q : Queue) (x : SpRun),
      s.Moved (v.setFab d (((t.fabD d).setQueue k q).setPort p x)) d := fun hv _ _ _ => hv.setFab (h.die.of_eq)
  unfold State.portRead at hu
  dsimp only at hu
  obtain ⟨-, hu⟩ := Option.ite_none_left_eq_some.mp hu
  split at hu
  · cases hu
    exact State.Moved.foldl (fun _ _ hw => hw.portPoison _ _) _ (hput (h.kvRead hd _) _ _ _)
  · split at hu
    · cases hu
      refine State.Moved.ite (State.Moved.portPoison (hput ?_ _ _ _) _ _) (hput ?_ _ _ _) <;>
      · split
        · exact h
        · exact h.consume hd _ _ _ _
    · cases hu
      exact State.Moved.ite (State.Moved.portPoison (hput (h.consume hd _ _ _ _) _ _ _) _ _) (hput (h.consume hd _ _ _ _) _ _ _)

theorem State.Moved.portWrite {u : State} (h : s.Moved t d) {p : Nat} (hu : t.portWrite d p = some u) : s.Moved u d := by
  unfold State.portWrite at hu
  dsimp only at hu
  split at hu
  · cases hu
  · split at hu
    · cases hu
      exact State.Moved.setKv (h.setFab_of_eq _) _ _
    · split at hu
      · obtain ⟨-, hu⟩ := Option.ite_none_left_eq_some.mp hu
        cases hu
        exact (h.kvWrite _ _).setFab (h.die.of_eq)
      · obtain ⟨-, hu⟩ := Option.ite_none_left_eq_some.mp hu
        obtain ⟨-, hu⟩ := Option.ite_none_left_eq_some.mp hu
        cases hu
        unfold State.portStore
        exact State.Moved.storeFor (h.setFab_of_eq _) _ _ _ _

theorem State.Moved.tryMove {a : State × Bool} {g : State → Option State} (h : s.Moved a.1 d)
    (hg : ∀ x u, s.Moved x d → g x = some u → s.Moved u d) : s.Moved (tryMove a g).1 d := by
  unfold Machine.tryMove
  split
  · exact hg _ _ h ‹_›
  · exact h

theorem State.Moved.moveRound (h : s.Moved t d) (hd : d < 4) (ps es ks : List Nat) : s.Moved (t.moveRound d ps es ks).1 d := by
  unfold State.moveRound
  dsimp only
  split
  · exact h.moveReeds
  · apply State.Moved.foldlFst
    · intro a p ha
      exact (ha.tryMove fun x u hx hu => hx.portRead hd hu).tryMove fun x u hx hu => hx.portWrite hu
    · refine State.Moved.foldlFst (fun a e ha => ?_) _ h.moveReeds
      apply State.Moved.foldlFst
      · intro b i hb
        refine (hb.tryMove fun x u hx hu => ?_).tryMove fun x u hx hu => hx.inPort hu
        obtain ⟨f, hf, rfl⟩ := Option.map_eq_some_iff.mp hu
        exact hx.outPort hf
      · exact ha.ite (ha.outRows e)

end

theorem State.Moved.settleN {d : Nat} (hd : d < 4) (n : Nat) : ∀ {s t : State}, s.Moved t d → s.Moved (t.settleN d n) d := by
  induction n with
  | zero => exact fun h => h
  | succ n ih =>
    intro s t h
    unfold State.settleN
    dsimp only
    split
    · exact ih (h.moveRound hd _ _ _)
    · exact h.moveRound hd _ _ _

/-- The rounds in which a fabric settles move entries and nothing else. -/
theorem State.Moved.settle {s t : State} {d : Nat} (hd : d < 4) (h : s.Moved t d) : s.Moved (t.settle d) d := by
  delta State.settle
  exact h.settleN hd _

end Sys2Proof.Machine
end

section
/-! What a swap and a reactivation have in common: run state cleared, the KV section in force, phase programs at their beginning (R167, R170). -/

namespace Sys2Proof.Machine

/-- The fabric of a die whose run state has been cleared, before the initial entries are pushed (R167). -/
def FabDie.cleared (f : FabDie) : FabDie :=
  { f with
    disabled := [], mcFaults := [], reeds := .empty, ports := .empty, queues := .empty, bbNext := .empty, rings := .empty, moved := .empty
    outq := .empty, tokens := [] }

@[simp] theorem FabDie.cleared_reed (f : FabDie) (r : Nat) : f.cleared.reed r = ReedRun.rest := rfl

section
variable {s t : State} {d : Nat}

theorem State.Moved.pushOut (h : s.Moved t d) (r p : Nat) (e : Entry) : s.Moved (t.pushOut d r p e) d := h.setFab_of_eq _

/-- The initial entries of a configuration are pushed on the cleared fabric (R154, R167). -/
theorem State.clearRun_moved (hf : s.fab.ordered) (hc : s.cnt.ordered) : (s.setFab d (s.fabD d).cleared).Moved (s.clearRun d) d := by
  have hempty : ((s.setFab d (s.fabD d).cleared).fabD d).reeds.ordered := by
    rw [State.fabD_setFab_same hf]
    rfl
  unfold State.clearRun
  refine State.Moved.foldl (fun _ _ hu => State.Moved.foldl (fun _ _ hw => hw.pushOut _ _ _) _ hu) _ ?_
  exact State.Moved.refl (State.setFab_ordered hf _) hempty hc

theorem State.Moved.kvApply (h : s.Moved t d) (k : Nat) : s.Moved (t.kvApply k) d := by
  unfold State.kvApply
  dsimp only
  split
  · exact State.Moved.setKv h.beside _ _
  · exact h.beside

theorem State.Moved.used (h : s.Moved t d) (n : Nat) : s.Moved (t.used n) d := h.beside

theorem State.Moved.kvRaise (h : s.Moved t d) (k code q op page st n : Nat) : s.Moved (t.kvRaise k code q op page st n) d := h.raise _ _ _

theorem State.Moved.kvSwap (h : s.Moved t d) : s.Moved (t.kvSwap d) d := by
  unfold State.kvSwap
  dsimp only
  split
  · exact State.Moved.kvApply (State.Moved.used (State.Moved.kvRaise h.beside _ _ _ _ _ _ _) _) d
  · exact h.kvApply d

theorem State.Moved.restartPhases (h : s.Moved t d) : s.Moved (t.restartPhases d) d := h.setCh _ _

end

/-- The configuration now active is put to work (R167, R170). -/
def State.putToWork (s : State) (d : Nat) : State :=
  ((((s.clearRun d).kvSwap d).count (regAddr (Page.fab d) 0x40) 1).restartPhases d).settle d

/-- It is counted, and every reed stands unarmed at the start of its run, with its counters and its count of firings at 0 (log entry 212). -/
theorem State.putToWork_spec {s : State} {d : Nat} (hd : d < 4) (hf : s.fab.ordered) (hc : s.cnt.ordered) :
    let t := s.putToWork d
    t.ctl = s.ctl ∧ t.fuse = s.fuse ∧
      ((t.fabD d).activeSet, (t.fabD d).shadow, (t.fabD d).placed, (t.fabD d).swap, (t.fabD d).due) =
        ((s.fabD d).activeSet, (s.fabD d).shadow, (s.fabD d).placed, (s.fabD d).swap, (s.fabD d).due) ∧
      t.cntAt (regAddr (Page.fab d) 0x40) = s.cntAt (regAddr (Page.fab d) 0x40) + 1 ∧
      ∀ r, ((t.fabD d).reed r).firings = 0 ∧ ((t.fabD d).reed r).armed = false ∧ ((t.fabD d).reed r).runPos = 0 ∧
        ((t.fabD d).reed r).cnts = .empty := by
  have h1 : (s.setFab d (s.fabD d).cleared).Moved ((s.clearRun d).kvSwap d) d := (State.clearRun_moved hf hc).kvSwap
  unfold State.putToWork
  generalize (s.clearRun d).kvSwap d = u at h1 ⊢
  have h2 : (u.count (regAddr (Page.fab d) 0x40) 1).Moved (((u.count (regAddr (Page.fab d) 0x40) 1).restartPhases d).settle d) d :=
    State.Moved.settle hd (State.Moved.restartPhases (.refl h1.fabs h1.die.ordered (State.count_cnt_ordered h1.cnts _ _)))
  generalize ((u.count (regAddr (Page.fab d) 0x40) 1).restartPhases d).settle d = t at h2 ⊢
  have hkeeps := h1.die.trans h2.die
  rw [State.fabD_setFab_same hf] at hkeeps
  have hcount := h2.counts 0x40 (by decide)
  rw [State.cntAt_count_same h1.cnts, h1.counts 0x40 (by decide)] at hcount
  refine ⟨h2.ctl.trans h1.ctl, h2.fuse.trans h1.fuse, hkeeps.sets, hcount, fun r => ?_⟩
  rw [hkeeps.reed r, FabDie.cleared_reed]
  exact ⟨rfl, rfl, rfl, rfl⟩

/-- The Leaven alone takes the words of a set (R169). -/
theorem State.levTake_frame (s : State) (d count : Nat) (word : State → Nat → Nat → Nat) :
    s.levTake d count word = { s with leaven := (s.levTake d count word).leaven } := by
  unfold State.levTake
  dsimp only
  have hfold : ∀ l : List Nat, ∀ g : State → Nat → LevEntry, l.foldl (fun t i => t.putLevEntry d i (g t i)) s =
      { s with leaven := (l.foldl (fun t i => t.putLevEntry d i (g t i)) s).leaven } := fun l g =>
    List.foldlRecOn (motive := fun t : State => t = { s with leaven := t.leaven }) l _ rfl fun t ht i _ => by
      rw [State.putLevEntry, ht]
  rw [hfold]

theorem State.levSwap_frame (s : State) (d count : Nat) : s.levSwap d count = { s with leaven := (s.levSwap d count).leaven } := by
  unfold State.levSwap
  dsimp only
  rw [State.levTake_frame]

theorem State.levReactivate_frame (s : State) (d : Nat) : s.levReactivate d = { s with leaven := (s.levReactivate d).leaven } := by
  unfold State.levReactivate
  dsimp only
  rw [State.levTake_frame]

/-- A die whose other set has been made the active one (R167, R169, R184). -/
def State.swapped (s : State) (d : Nat) : State :=
  ((s.levSwap d (s.imgLeavenCount d (1 - (s.fabD d).activeSet))).setFab d { s.fabD d with
    activeSet := 1 - (s.fabD d).activeSet, shadow := 0, placed := true, swap := false, defers := 0, due := 0 }).freezeSlots d

/-- A die whose active set is to be put to work again (R170). -/
def State.reactivated (s : State) (d : Nat) : State := (s.levReactivate d).updFab d fun f => { f with due := 0 }

theorem exec_swap {s : State} {d : Die} (hs : s.bel.stopped = false) (hdue : (s.fabD d).due = 1) (hseal : s.sealFirst = false) :
    exec (.swap d) s = .next ((s.swapped d).putToWork d) := by
  show execSwap d s = _
  simp only [execSwap, State.still, hs, hdue, hseal, decide_true, Bool.not_false, Bool.and_self, Bool.false_eq_true, ↓reduceIte]
  rfl

theorem exec_reactivation {s : State} {d : Die} (hs : s.bel.stopped = false) (hdue : (s.fabD d).due = 2) (hseal : s.sealFirst = false) :
    exec (.reactivation d) s = .next ((s.reactivated d).putToWork d) := by
  show execReactivation d s = _
  simp only [execReactivation, State.still, hs, hdue, hseal, decide_true, Bool.not_false, Bool.and_self, Bool.false_eq_true, ↓reduceIte]
  rfl

section
variable {s : State} (h : s.fab.ordered) (d : Nat)
include h

theorem State.swapped_spec :
    (s.swapped d).ctl = s.ctl ∧ (s.swapped d).fuse = s.fuse ∧ (s.swapped d).fab.ordered ∧ (s.swapped d).cnt = s.cnt ∧
      (s.swapped d).fabD d = { s.fabD d with
        activeSet := 1 - (s.fabD d).activeSet, shadow := 0, placed := true, swap := false, defers := 0, due := 0 } := by
  unfold State.swapped
  rw [State.levSwap_frame]
  exact ⟨rfl, rfl, State.setFab_ordered h _, rfl, State.fabD_setFab_same h _⟩

theorem State.reactivated_spec :
    (s.reactivated d).ctl = s.ctl ∧ (s.reactivated d).fuse = s.fuse ∧ (s.reactivated d).fab.ordered ∧ (s.reactivated d).cnt = s.cnt ∧
      (s.reactivated d).fabD d = { s.fabD d with due := 0 } := by
  unfold State.reactivated
  rw [State.levReactivate_frame]
  exact ⟨rfl, rfl, State.setFab_ordered h _, rfl, State.fabD_setFab_same h _⟩

end

end Sys2Proof.Machine
end

section
/-! The load of an image on a die: what it writes besides the image, and that it leaves the other dies (R155, R157, R165). -/

namespace Sys2Proof.Machine

/-- `t` follows `s` by a load on die `d`: of the fabrics, what the shadow set of that die is judged to be differs at most. -/
structure State.Loads (s t : State) (d : Nat) : Prop where
  frame : t = { s with
    img := t.img, fab := t.fab, mem := t.mem, poison := t.poison, leaven := t.leaven, evt := t.evt, cnt := t.cnt }
  fabs : t.fab.ordered
  others : ∀ k, k ≠ d → t.fabD k = s.fabD k
  die : t.fabD d = { s.fabD d with
    shadow := (t.fabD d).shadow, rejectedBy := (t.fabD d).rejectedBy, imageReason := (t.fabD d).imageReason }

theorem State.Loads.refl {s : State} (h : s.fab.ordered) (d : Nat) : s.Loads s d := ⟨rfl, h, fun _ _ => rfl, rfl⟩

section
variable {s t : State} {d : Nat}

theorem State.Loads.ctl (h : s.Loads t d) : t.ctl = s.ctl := by rw [h.frame]

theorem State.Loads.activeSet (h : s.Loads t d) : (t.fabD d).activeSet = (s.fabD d).activeSet := by rw [h.die]

theorem State.Loads.beside {u : State} (h : s.Loads t d)
    (hu : u = { t with img := u.img, mem := u.mem, poison := u.poison, leaven := u.leaven, evt := u.evt, cnt := u.cnt }) : s.Loads u d := by
  have hfab : u.fab = t.fab := by rw [hu]
  have hdie : ∀ k, u.fabD k = t.fabD k := fun k => by rw [State.fabD, hfab]; rfl
  refine ⟨?_, hfab ▸ h.fabs, fun k hk => (hdie k).trans (h.others k hk), ?_⟩
  · rw [hu, h.frame]
  · rw [hdie]
    exact h.die

theorem State.Loads.updFab (h : s.Loads t d) {g : FabDie → FabDie} (hg : ∀ f, g f =
    { f with shadow := (g f).shadow, rejectedBy := (g f).rejectedBy, imageReason := (g f).imageReason }) : s.Loads (t.updFab d g) d := by
  refine ⟨?_, State.setFab_ordered h.fabs _, fun k hk => ?_, ?_⟩
  · rw [State.updFab, State.setFab, h.frame]
  · rw [State.updFab, State.fabD_setFab_other h.fabs _ hk]
    exact h.others k hk
  · rw [State.updFab, State.fabD_setFab_same h.fabs, hg, h.die]

theorem State.Loads.imageInvalid (h : s.Loads t d) (reason : Nat) : s.Loads (t.imageInvalid d reason) d :=
  (h.updFab fun _ => rfl).beside rfl

/-- The preload segments go to memory (R155). -/
theorem State.loadStores_frame (s : State) (d set : Nat) :
    s.loadStores d set = { s with mem := (s.loadStores d set).mem, poison := (s.loadStores d set).poison } := by
  delta State.loadStores
  generalize s.preloads d set = l
  exact List.foldlRecOn (motive := fun t : State => t = { s with mem := t.mem, poison := t.poison }) l _ rfl fun t ht p _ => by
    rw [State.store, ht]

theorem State.Loads.finishImage (h : s.Loads t d) (len : Nat) : s.Loads (t.finishImage d len) d := by
  unfold State.finishImage
  dsimp only
  split
  · exact (h.imageInvalid _).updFab fun _ => rfl
  · split
    · exact State.Loads.updFab (h.beside rfl) fun _ => rfl
    · refine State.Loads.updFab (State.Loads.beside (t := t.loadStores d (t.shadowOf d)) ?_ rfl) fun _ => rfl
      exact h.beside (by rw [State.loadStores_frame])

theorem State.Loads.loadChunk (h : s.Loads t d) (off : Nat) (bytes : List Byte) (final : Bool) :
    s.Loads (t.loadChunk d off bytes final) d := by
  unfold State.loadChunk
  split
  · exact h.imageInvalid _
  · split
    · exact (h.imageInvalid _).updFab fun _ => rfl
    · have hchunk : s.Loads (State.updFab { t with img := memWrite t.img (imgKey d (t.shadowOf d) off) bytes } d
          fun f => { f with shadow := 1 }) d :=
        State.Loads.updFab (h.beside rfl) fun _ => rfl
      dsimp only
      split
      · exact hchunk.finishImage _
      · exact hchunk

/-- While a swap of the shadow set is pending the set is left as it is (R157). -/
theorem State.loadChunk_shadow_of_pending (hf : s.fab.ordered) (hp : s.swapPending d = true) (off : Nat) (bytes : List Byte) (final : Bool) :
    ((s.loadChunk d off bytes final).fabD d).shadow = (s.fabD d).shadow := by
  have hinv : s.loadChunk d off bytes final = s.imageInvalid d 10 := if_pos hp
  have hdie : (s.imageInvalid d 10).fabD d = { s.fabD d with imageReason := 10 } := State.fabD_setFab_same hf _
  rw [hinv, hdie]

/-- A chunk of an image as the checks find it: in the shadow set, which is LOADING (R157). -/
def State.chunkWritten (s : State) (d off : Nat) (bytes : List Byte) : State :=
  State.updFab { s with img := memWrite s.img (imgKey d (s.shadowOf d) off) bytes } d fun f => { f with shadow := 1 }

section
variable {off : Nat} {bytes : List Byte} (hp : s.swapPending d = false) (hlen : off + bytes.length ≤ imageMax)
include hp hlen

/-- A chunk that may be written is written into the shadow set, which is then LOADING; the final one brings the checks (R157, R165). -/
theorem State.loadChunk_of_free (final : Bool) :
    s.loadChunk d off bytes final =
      if final then (s.chunkWritten d off bytes).finishImage d (off + bytes.length) else s.chunkWritten d off bytes := by
  rw [State.loadChunk, if_neg (by simp [hp]), if_neg (Nat.not_lt.mpr hlen)]
  rfl

end

theorem State.shadowOf_le (s : State) (d : Nat) : s.shadowOf d ≤ 1 := Nat.sub_le _ _

theorem imgKey_add (d a x n : Nat) : imgKey d a (x + n) = imgKey d a x + n := (Nat.add_assoc _ x n).symm

/-- The images of the sets of a die end before those of the next (R155). -/
theorem imgKey_add_le {d k a b x y n : Nat} (h : d < k) (ha : a ≤ 1) (hx : x + n ≤ imageMax) : imgKey d a x + n ≤ imgKey k b y := by
  unfold imgKey
  unfold imageMax at hx
  omega

end

end Sys2Proof.Machine
end

section
/-! FAB_STARVE, CREDIT_AUDIT and ROTATION, and with SWAP and REACTIVATION the states of a fabric (R161 to R170, R362). -/

namespace Sys2Proof.Machine

/-- An abandoned step shows in the Chanters, in notices to the Proofers and in a record (R201). -/
theorem State.abandonStep_frame (s : State) (d cause : Nat) (stop : Bool) :
    let t := s.abandonStep d cause stop
    t = { s with ch := t.ch, spine := t.spine, evt := t.evt, cnt := t.cnt } := by
  unfold State.abandonStep
  dsimp only
  split
  · rfl
  · have hfold : ∀ l : List Nat, let u := l.foldl (fun t k => if (t.chD k).abandoned then t
        else (t.updCh k fun c => { c with abandoned := true }).notifyBoth .abandon k (t.ctl.stepNo % 2 ^ 32) 0) s
        u = { s with ch := u.ch, spine := u.spine } := fun l =>
      List.foldlRecOn (motive := fun u : State => u = { s with ch := u.ch, spine := u.spine }) l _ rfl fun u hu k _ => by
        split
        · exact hu
        · rw [State.updCh, State.setCh, hu]
          rfl
    dsimp only at hfold
    rw [hfold]
    rfl

/-- The die that abandons its step is stopped (R201). -/
theorem State.abandonStep_stopped {s : State} (h : s.ch.ordered) (d cause : Nat) : ((s.abandonStep d cause true).chD d).stopped = true := by
  unfold State.abandonStep
  split
  · assumption
  · have hfold : ∀ l : List Nat, (l.foldl (fun t k => if (t.chD k).abandoned then t
        else (t.updCh k fun c => { c with abandoned := true }).notifyBoth .abandon k (t.ctl.stepNo % 2 ^ 32) 0) s).ch.ordered := fun l =>
      List.foldlRecOn (motive := fun u : State => u.ch.ordered) l _ h fun u hu k _ => by
        split
        · exact hu
        · exact Tbl.ordered_set hu _ _
    exact congrArg ChDie.stopped ((Tbl.get_set_ordered (hfold [0, 1, 2, 3]) d d _).trans (if_pos rfl))

/-- A fabric that a starved reed halts: the record joins a log of at most sixteen (R164). -/
def FabDie.starved (f : FabDie) (pl : List Byte) : FabDie :=
  { f with halted := true, log := if f.log.length < 16 then f.log ++ [pl] else f.log }

/-- A fabric whose shadow set failed its audit (R161). -/
def FabDie.auditFailed (f : FabDie) (reason decl : Nat) : FabDie :=
  { f with shadow := 4, rejectedBy := 2, swap := false, defers := 0, auditReason := reason, auditDecl := decl }

/-- The end of an audit counts it and judges the shadow set (R161). -/
def State.audited (s : State) (d : Nat) (g : FabDie → FabDie) : State := (s.count (regAddr (Page.fab d) 0x48) 1).updFab d g

/-- FAB_STARVE halts the die with the stall in its log, and counts and reports it (R163, R164). -/
theorem exec_fabStarve {s : State} {d : Die} {r : Reed} (hs : s.bel.stopped = false) (hen : s.wdEn d = true) (hlim : s.wdLimit d ≠ 0)
    (harm : (s.wdArm d).testBit (rrGroup (s.recOf d r)) = true) (hst : (s.stall d r).1 ≠ 0) :
    ∃ pl, exec (.fabStarve d r) s = .next ((((s.setFab d ((s.fabD d).starved pl)).count
      (regAddr (Page.fab d) 0x50) 1).raise (Page.fab d) Code.fabStarve pl).abandonStep d Code.fabStarve true) := by
  show ∃ pl, execFabStarve d r s = _
  simp only [execFabStarve, State.still, hs, hen, hlim, harm, hst, Bool.not_true, decide_false, Bool.or_self, Bool.false_eq_true, ↓reduceIte]
  exact ⟨_, rfl⟩

/-- An audit that finds nothing makes the set READY (R161). -/
theorem exec_creditAudit_passed {s : State} {d : Die} (hs : s.bel.stopped = false) (hsh : (s.fabD d).shadow = 2)
    (ho : (s.creditAudit d (s.shadowOf d)).reason = 0) :
    exec (.creditAudit d) s = .next (s.audited d fun f => { f with shadow := 3 }) := by
  show execCreditAudit d s = _
  simp only [execCreditAudit, State.still, hs, hsh, ho, ne_eq, not_true_eq_false, Bool.false_eq_true, ↓reduceIte]
  rfl

/-- An audit that finds a fault makes the set REJECTED and cancels its swap (R161). -/
theorem exec_creditAudit_failed {s : State} {d : Die} (hs : s.bel.stopped = false) (hsh : (s.fabD d).shadow = 2)
    (ho : (s.creditAudit d (s.shadowOf d)).reason ≠ 0) :
    ∃ decl n pl, exec (.creditAudit d) s = .next ((((s.audited d fun f => f.auditFailed (s.creditAudit d (s.shadowOf d)).reason decl).count
      (regAddr (Page.fab d) 0x4C) 1).used n).raise (Page.fab d) Code.fabAuditFail pl) := by
  show ∃ decl n pl, execCreditAudit d s = _
  simp only [execCreditAudit, State.still, hs, hsh, ho, ne_eq, not_true_eq_false, Bool.false_eq_true, ↓reduceIte]
  exact ⟨_, _, _, rfl⟩

/-- A rotation image for one die is loaded, and the swap of the set is requested where the load leaves it to be audited (R362). -/
def State.loadRotation (s : State) (q : Die × List Byte) : State :=
  let u := s.loadChunk q.1.val 0 q.2 true
  if (u.fabD q.1.val).shadow = 2 then u.swapAtSeal q.1.val else u

theorem exec_rotation {s : State} (images : List (Die × List Byte)) (hrun : s.ctl.state = .running) (hcnt : 1 < s.rotCount)
    (hper : s.rotPeriod ≤ s.bel.rotSeals) :
    exec (.rotation images) s = .next
      (let t := (images.filter fun q => decide (q.2.length ≤ imageMax)).foldl State.loadRotation s
       { t with bel := { t.bel with rotSeals := 0, rotIndex := (t.bel.rotIndex + 1) % s.rotCount } }) := by
  have h1 : ¬ s.rotCount ≤ 1 := by omega
  have h2 : ¬ s.bel.rotSeals < s.rotPeriod := by omega
  show execRotation images s = _
  simp only [execRotation, hrun, h1, h2, ne_eq, not_true_eq_false, decide_false, Bool.or_self, Bool.false_eq_true, ↓reduceIte]
  rfl

/-- What the loads of a rotation keep of the fabric `f` of a die, which becomes `g`: a set that they left to be audited may have its swap
requested. -/
structure FabDie.Rotates (f g : FabDie) : Prop where
  activeSet : g.activeSet = f.activeSet
  reeds : g.reeds = f.reeds
  swap : g.swap = true → f.swap = true ∨ g.shadow = 2

theorem State.loadRotation_frame {s : State} (h : s.fab.ordered) (q : Die × List Byte) :
    let t := s.loadRotation q
    t = { s with img := t.img, fab := t.fab, rw := t.rw, mem := t.mem, poison := t.poison, leaven := t.leaven, evt := t.evt, cnt := t.cnt } := by
  have hload := ((State.Loads.refl h q.1.val).loadChunk 0 q.2 true).frame
  unfold State.loadRotation
  dsimp only
  generalize s.loadChunk q.1.val 0 q.2 true = u at hload ⊢
  split
  · rw [State.swapAtSeal, State.updFab, State.setFab, State.setRw, hload]
  · rw [hload]

/-- The other dies are left alone. -/
theorem State.loadRotation_fab {s : State} (h : s.fab.ordered) (q : Die × List Byte) :
    (s.loadRotation q).fab.ordered ∧ ∀ k, k ≠ q.1.val → (s.loadRotation q).fabD k = s.fabD k := by
  have hload := (State.Loads.refl h q.1.val).loadChunk 0 q.2 true
  unfold State.loadRotation
  dsimp only
  split
  · exact ⟨State.setFab_ordered hload.fabs _, fun k hk => (State.fabD_setFab_other hload.fabs _ hk).trans (hload.others k hk)⟩
  · exact ⟨hload.fabs, hload.others⟩

/-- On the die itself a swap that is already requested keeps the set as it is (R157). -/
theorem State.loadRotation_rotates {s : State} (h : s.fab.ordered) (q : Die × List Byte) {f : FabDie} (hf : f.Rotates (s.fabD q.1.val)) :
    f.Rotates ((s.loadRotation q).fabD q.1.val) := by
  have hload := (State.Loads.refl h q.1.val).loadChunk 0 q.2 true
  have hactive := congrArg FabDie.activeSet hload.die
  have hreeds := congrArg FabDie.reeds hload.die
  have hswap := congrArg FabDie.swap hload.die
  unfold State.loadRotation
  dsimp only
  split
  · rename_i hsh
    have hdie : ((s.loadChunk q.1.val 0 q.2 true).swapAtSeal q.1.val).fabD q.1.val =
        { (s.loadChunk q.1.val 0 q.2 true).fabD q.1.val with swap := true, defers := 0 } := State.fabD_setFab_same hload.fabs _
    rw [hdie]
    exact ⟨hactive.trans hf.activeSet, hreeds.trans hf.reeds, fun _ => Or.inr hsh⟩
  · refine ⟨hactive.trans hf.activeSet, hreeds.trans hf.reeds, fun hon => ?_⟩
    have hbefore : (s.fabD q.1.val).swap = true := hswap.symm.trans hon
    rw [State.loadChunk_shadow_of_pending h (by simp [State.swapPending, hbefore])]
    exact hf.swap hbefore

/-- The loads of a rotation, one after another. -/
theorem State.loadRotations (s : State) (h : s.fab.ordered) (l : List (Die × List Byte)) :
    let t := l.foldl State.loadRotation s
    (t = { s with img := t.img, fab := t.fab, rw := t.rw, mem := t.mem, poison := t.poison, leaven := t.leaven, evt := t.evt, cnt := t.cnt }) ∧
      t.fab.ordered ∧ ∀ d, (s.fabD d).Rotates (t.fabD d) ∧ ((∀ q ∈ l, q.1.val ≠ d) → t.fabD d = s.fabD d) := by
  refine List.foldlRecOn (motive := fun t : State =>
    (t = { s with img := t.img, fab := t.fab, rw := t.rw, mem := t.mem, poison := t.poison, leaven := t.leaven, evt := t.evt, cnt := t.cnt }) ∧
      t.fab.ordered ∧ ∀ d, (s.fabD d).Rotates (t.fabD d) ∧ ((∀ q ∈ l, q.1.val ≠ d) → t.fabD d = s.fabD d)) l _
    ⟨rfl, h, fun d => ⟨⟨rfl, rfl, Or.inl⟩, fun _ => rfl⟩⟩ ?_
  rintro t ⟨hframe, hfab, hdies⟩ q hq
  obtain ⟨hord, hothers⟩ := State.loadRotation_fab hfab q
  refine ⟨?_, hord, fun d => ?_⟩
  · rw [State.loadRotation_frame hfab q, hframe]
  · obtain ⟨hrot, hsame⟩ := hdies d
    by_cases hd : d = q.1.val
    · subst hd
      exact ⟨State.loadRotation_rotates hfab q hrot, fun hno => absurd rfl (hno q hq)⟩
    · rw [hothers d hd]
      exact ⟨hrot, hsame⟩

/-- A fault that is reported and abandons the step leaves the fabrics, memory and the control block, and stops the Chanter of its die. -/
theorem State.raise_abandonStep_spec {s : State} {d : Nat} (h : s.Moved s d) (hch : s.ch.ordered) (p c : Nat) (pl : List Byte) (cause : Nat) :
    let t := (s.raise p c pl).abandonStep d cause true
    t.fab = s.fab ∧ t.mem = s.mem ∧ t.ctl = s.ctl ∧ (t.chD d).stopped = true ∧
      ∀ off, off < 0x54 → t.cntAt (regAddr (Page.fab d) off) = s.cntAt (regAddr (Page.fab d) off) := by
  have hmoved := (h.raise p c pl).abandonStep cause true
  have hstopped := State.abandonStep_stopped (s := s.raise p c pl) hch d cause
  have hframe := State.abandonStep_frame (s.raise p c pl) d cause true
  dsimp only at hframe ⊢
  generalize (s.raise p c pl).abandonStep d cause true = t at hmoved hstopped hframe ⊢
  rw [State.onlyNoted_raise s.onlyNoted_refl p c pl] at hframe
  refine ⟨?_, ?_, ?_, hstopped, hmoved.counts⟩ <;> rw [hframe]

/-- FAB_STARVE leaves the log, the reeds and the sets as `FabDie.starved` has them, the Chanter stopped and one expiry more counted. -/
theorem State.starved_spec {s : State} (htab : s.tablesOk) (d : Nat) (pl : List Byte) :
    let t := (((s.setFab d ((s.fabD d).starved pl)).count (regAddr (Page.fab d) 0x50) 1).raise (Page.fab d) Code.fabStarve pl).abandonStep
      d Code.fabStarve true
    t.fabD d = (s.fabD d).starved pl ∧ (t.chD d).stopped = true ∧
      t.cntAt (regAddr (Page.fab d) 0x50) = s.cntAt (regAddr (Page.fab d) 0x50) + 1 ∧ t.mem = s.mem ∧ t.ctl = s.ctl := by
  obtain ⟨-, hcnt, -⟩ := State.tablesOk_ordered htab
  have hdie : (s.setFab d ((s.fabD d).starved pl)).fabD d = (s.fabD d).starved pl := State.fabD_setFab_same (State.fab_ordered htab) _
  have hch := State.ch_ordered htab
  have hord := State.setFab_ordered (d := d) (State.fab_ordered htab) ((s.fabD d).starved pl)
  have hx : s.setFab d ((s.fabD d).starved pl) = { s with fab := (s.setFab d ((s.fabD d).starved pl)).fab } := rfl
  generalize s.setFab d ((s.fabD d).starved pl) = x at hdie hx hord ⊢
  have hxcnt : x.cnt.ordered := by rw [hx]; exact hcnt
  have hxch : x.ch.ordered := by rw [hx]; exact hch
  have hcount := State.cntAt_count_same hxcnt (regAddr (Page.fab d) 0x50) 1
  have hreeds : (x.fabD d).reeds.ordered := by rw [hdie]; exact (State.fabD_ordered htab d).1
  have hrefl : (x.count (regAddr (Page.fab d) 0x50) 1).Moved (x.count (regAddr (Page.fab d) 0x50) 1) d :=
    .refl hord hreeds (State.count_cnt_ordered hxcnt _ 1)
  obtain ⟨hfab, hmem, hctl, hstopped, hcounts⟩ := State.raise_abandonStep_spec hrefl hxch
    (Page.fab d) Code.fabStarve pl Code.fabStarve
  generalize State.abandonStep _ d Code.fabStarve true = t at hfab hmem hctl hstopped hcounts ⊢
  refine ⟨?_, hstopped, ?_, ?_, ?_⟩
  · rw [State.fabD, hfab]
    exact hdie
  · rw [hcounts 0x50 (by decide), hcount, hx]
    rfl
  · rw [hmem, hx]
    rfl
  · rw [hctl, hx]
    rfl

theorem State.audited_spec {s : State} (htab : s.tablesOk) (d : Nat) (g : FabDie → FabDie) :
    s.audited d g = { s with fab := (s.audited d g).fab, cnt := (s.audited d g).cnt } ∧
      (s.audited d g).fab.ordered ∧ (s.audited d g).cnt.ordered ∧ (s.audited d g).fabD d = g (s.fabD d) ∧
      (s.audited d g).cntAt (regAddr (Page.fab d) 0x48) = s.cntAt (regAddr (Page.fab d) 0x48) + 1 := by
  obtain ⟨-, hcnt, -⟩ := State.tablesOk_ordered htab
  have hfab := State.fab_ordered htab
  unfold State.audited State.updFab
  generalize regAddr (Page.fab d) 0x48 = a
  have hfab1 : (s.count a 1).fab.ordered := hfab
  exact ⟨rfl, State.setFab_ordered hfab1 _, State.count_cnt_ordered hcnt a 1, State.fabD_setFab_same hfab1 _, State.cntAt_count_same hcnt a 1⟩

/-- The report of a failed audit changes neither the fabric nor the count of audits. -/
theorem State.auditReported_spec {s : State} {d : Nat} (h : s.Moved s d) (n : Nat) (pl : List Byte) :
    let t := ((s.count (regAddr (Page.fab d) 0x4C) 1).used n).raise (Page.fab d) Code.fabAuditFail pl
    t = { s with evt := t.evt, cnt := t.cnt, freeCtr := t.freeCtr } ∧
      t.cntAt (regAddr (Page.fab d) 0x48) = s.cntAt (regAddr (Page.fab d) 0x48) := by
  have hne : regAddr (Page.fab d) 0x48 ≠ regAddr (Page.fab d) 0x4C := by unfold regAddr; omega
  generalize regAddr (Page.fab d) 0x4C = a at hne ⊢
  have hrefl : (s.count a 1).Moved (s.count a 1) d := .refl h.fabs h.die.ordered (State.count_cnt_ordered h.cnts a 1)
  have hmoved := (hrefl.used n).raise (Page.fab d) Code.fabAuditFail pl
  exact ⟨rfl, (hmoved.counts 0x48 (by decide)).trans (State.cntAt_count_other h.cnts hne 1)⟩

/-- Settles O52: a starved, audited or rotated fabric is read off the writes of its command; a swap and a reactivation by what
`State.putToWork` leaves. -/
theorem fabricStates : Obligations.FabricStates := by
  unfold Obligations.FabricStates
  refine ⟨?_, ?_, ?_, ?_, ?_⟩
  · intro s d r hs htab hen hlim harm hst
    obtain ⟨pl, hexec⟩ := exec_fabStarve hs hen hlim harm hst
    obtain ⟨hdie, hch, hcount, hmem, hctl⟩ := State.starved_spec htab d pl
    refine ⟨_, hexec, ?_⟩
    rw [hdie]
    refine ⟨rfl, hch, hcount, ?_, rfl, rfl, hmem, hctl⟩
    unfold FabDie.starved
    split <;> simp [*]
  · intro s d hs htab hsh
    by_cases ho : (s.creditAudit d (s.shadowOf d)).reason = 0
    · obtain ⟨hframe, -, -, hdie, hcount⟩ := State.audited_spec htab d fun f => { f with shadow := 3 }
      have hexec := exec_creditAudit_passed hs hsh ho
      generalize State.audited s d _ = t at hframe hdie hcount hexec
      refine ⟨_, hexec, by rw [hframe], ?_⟩
      rw [hdie]
      exact ⟨rfl, rfl, hcount, fun _ => ⟨rfl, rfl⟩, fun hno => absurd ho hno⟩
    · obtain ⟨decl, n, pl, hexec⟩ := exec_creditAudit_failed hs hsh ho
      generalize (s.creditAudit d (s.shadowOf d)).reason = reason at ho hexec ⊢
      obtain ⟨hframe, hfab, hcnt, hdie, hcount⟩ := State.audited_spec htab d fun f => f.auditFailed reason decl
      generalize State.audited s d _ = u at hframe hfab hcnt hdie hcount hexec
      have hmoved := State.Moved.refl (d := d) hfab (by rw [hdie]; exact (State.fabD_ordered htab d).1) hcnt
      obtain ⟨hframe', hcount'⟩ := State.auditReported_spec hmoved n pl
      generalize State.raise _ _ _ _ = t at hframe' hcount' hexec
      have hdie' : t.fabD d = u.fabD d := by rw [hframe']; rfl
      refine ⟨_, hexec, ?_, ?_⟩
      · rw [hframe', hframe]
      · rw [hdie', hdie, hcount', hcount]
        exact ⟨rfl, rfl, rfl, fun hyes => absurd hyes ho, fun _ => ⟨rfl, rfl, rfl⟩⟩
  · intro s d hs htab hdue hseal
    obtain ⟨-, hcnt, -⟩ := State.tablesOk_ordered htab
    obtain ⟨hctl, hfuse, hxfab, hxcnt, hxdie⟩ := State.swapped_spec (State.fab_ordered htab) d
    have hexec := exec_swap hs hdue hseal
    generalize State.swapped s d = x at hctl hfuse hxfab hxcnt hxdie hexec
    obtain ⟨hctl', hfuse', hsets, hcount, hreeds⟩ := State.putToWork_spec d.isLt hxfab (hxcnt ▸ hcnt)
    generalize x.putToWork d = t at hctl' hfuse' hsets hcount hreeds hexec
    refine ⟨_, hexec, hctl'.trans hctl, hfuse'.trans hfuse, ?_, ?_, hreeds⟩
    · rw [hsets, hxdie]
    · rw [hcount, State.cntAt, hxcnt]
      rfl
  · intro s d hs htab hdue hseal
    obtain ⟨-, hcnt, -⟩ := State.tablesOk_ordered htab
    obtain ⟨hctl, hfuse, hxfab, hxcnt, hxdie⟩ := State.reactivated_spec (State.fab_ordered htab) d
    have hexec := exec_reactivation hs hdue hseal
    generalize State.reactivated s d = x at hctl hfuse hxfab hxcnt hxdie hexec
    obtain ⟨hctl', hfuse', hsets, hcount, hreeds⟩ := State.putToWork_spec d.isLt hxfab (hxcnt ▸ hcnt)
    generalize x.putToWork d = t at hctl' hfuse' hsets hcount hreeds hexec
    simp only [Prod.mk.injEq] at hsets
    obtain ⟨hset, hshadow, hplaced, -, hdue'⟩ := hsets
    refine ⟨_, hexec, hctl'.trans hctl, hfuse'.trans hfuse, ?_, ?_, hreeds⟩
    · rw [hset, hshadow, hplaced, hdue', hxdie]
    · rw [hcount, State.cntAt, hxcnt]
      rfl
  · intro s images htab hrun hcount hper
    obtain ⟨hframe, -, hdies⟩ := s.loadRotations (State.fab_ordered htab) (images.filter fun q => decide (q.2.length ≤ imageMax))
    refine ⟨_, exec_rotation images hrun hcount hper, ?_⟩
    generalize (images.filter fun q => decide (q.2.length ≤ imageMax)).foldl State.loadRotation s = t at hframe hdies
    have hbel : t.bel = s.bel := by rw [hframe]
    refine ⟨?_, ?_, fun d _ => ?_⟩
    · dsimp only
      rw [hframe]
    · dsimp only
      rw [hbel]
    · obtain ⟨hrot, hsame⟩ := hdies d
      exact ⟨hrot.activeSet, hrot.reeds, hrot.swap, fun hno => hsame fun q hq => hno q (List.mem_filter.mp hq).1⟩

end Sys2Proof.Machine
end

section
/-! LOAD_IMAGE, ACTIVATE, SWAP_REQUEST, REACTIVATE and FABRIC_FLUSH: a command that acts on the dies of a mask, one after another (R379). -/

namespace Sys2Proof

/-- A write to a table lists nothing but what it listed before and what is written. -/
theorem Tbl.cells_insert {α : Type} [DecidableEq α] {p : α → Prop} (d : α) (k : Nat) {v : α} (hv : p v) :
    ∀ l : List (Nat × α), (∀ c ∈ l, p c.2) → ∀ c ∈ Tbl.insert d k v l, p c.2
  | [], _ => by
    intro c hc
    rw [Tbl.insert] at hc
    split at hc
    · cases hc
    · rw [List.mem_singleton.mp hc]
      exact hv
  | (a, u) :: rest, h => by
    have ih := Tbl.cells_insert d k hv rest fun c hc => h c (List.mem_cons_of_mem _ hc)
    intro c hc
    rw [Tbl.insert] at hc
    split at hc
    · rcases List.mem_cons.mp hc with rfl | hc
      · exact h _ List.mem_cons_self
      · exact ih c hc
    · split at hc
      · split at hc
        · exact h c (List.mem_cons_of_mem _ hc)
        · rcases List.mem_cons.mp hc with rfl | hc
          · exact hv
          · exact h c (List.mem_cons_of_mem _ hc)
      · split at hc
        · exact h c hc
        · rcases List.mem_cons.mp hc with rfl | hc
          · exact hv
          · exact h c hc

/-- In a fold over a list without repeats, the step of one element turns `P` into `Q`, and the other steps keep both. -/
theorem foldl_once {α β : Type} {P Q : β → Prop} {g : β → α → β} {a : α} (hP : ∀ t k, k ≠ a → P t → P (g t k))
    (ha : ∀ t, P t → Q (g t a)) (hQ : ∀ t k, k ≠ a → Q t → Q (g t k)) :
    ∀ l : List α, l.Nodup → a ∈ l → ∀ t, P t → Q (l.foldl g t)
  | [], _, hmem, _, _ => absurd hmem List.not_mem_nil
  | k :: l, hnd, hmem, t, ht => by
    obtain ⟨hk, hl⟩ := List.nodup_cons.mp hnd
    by_cases hka : k = a
    · subst hka
      exact List.foldlRecOn (motive := Q) l g (ha t ht) fun u hu j hj => hQ u j (fun hjk => hk (hjk ▸ hj)) hu
    · exact foldl_once hP ha hQ l hl ((List.mem_cons.mp hmem).resolve_left fun h => hka h.symm) _ (hP t k hka ht)

namespace Machine

theorem memWrite_get_inside (bs : List Byte) : ∀ (m : Tbl Byte) (a i : Nat) (b : Byte), m.ordered → bs[i]? = some b →
    (memWrite m a bs).get 0 (a + i) = b := by
  induction bs with
  | nil => exact fun m a i b _ h => absurd h (by simp)
  | cons c bs ih =>
    intro m a i b hm h
    cases i with
    | zero =>
      show (memWrite (m.set 0 a c) (a + 1) bs).get 0 a = b
      rw [memWrite_get_outside bs _ _ a (Tbl.ordered_set hm a c) (Or.inl (Nat.lt_add_one a)), Tbl.get_set_ordered hm, if_pos rfl]
      simpa using h
    | succ i =>
      rw [memWrite, Nat.add_comm i 1, ← Nat.add_assoc]
      exact ih _ _ i b (Tbl.ordered_set hm a c) (by simpa using h)

/-- A command that is accepted without sealed commit is accepted under it. -/
theorem State.accepts_sealed {s : State} {h : Hdr} {op : Nat} (ha : s.accepts h op = true) (b : Bool) : s.accepts h op b = true := by
  cases b with
  | false => exact ha
  | true =>
    have hbusy : s.busy op true = true → s.busy op false = true := by
      unfold State.busy
      simp only [Bool.or_eq_true, Bool.and_eq_true, List.any_eq_true]
      rintro (hlong | ⟨hop, l, hl, -⟩)
      · exact Or.inl hlong
      · exact Or.inr ⟨hop, l, hl, rfl⟩
    simp only [State.accepts, Bool.and_eq_true, Bool.not_eq_true'] at ha ⊢
    obtain ⟨⟨hhead, hfree⟩, hlegal⟩ := ha
    refine ⟨⟨hhead, ?_⟩, ?_⟩
    · cases hb : s.busy op true with
      | false => rfl
      | true => exact absurd (hbusy hb) (by simp [hfree])
    · revert hlegal
      cases legalIn op s.ctl.state <;> simp

@[simp] theorem State.begun_img (s : State) (h : Hdr) : (s.begun h).img = s.img := by rw [State.begun_frame]

@[simp] theorem State.begun_fabD (s : State) (h : Hdr) (d : Nat) : (s.begun h).fabD d = s.fabD d := rfl

/-- A fabric whose swap is requested (R167). -/
def FabDie.swapRequested (f : FabDie) : FabDie := { f with swap := true, defers := if f.swap then f.defers else 0 }

/-- No die of a mask fails a test that every die of it passes. -/
theorem not_any_of_all {l : List Nat} {p q : Nat → Bool} (hpq : ∀ d, p d = true → ¬ q d = true) (h : l.all p = true) : ¬ l.any q = true := by
  intro hany
  obtain ⟨d, hd, hq⟩ := List.any_eq_true.mp hany
  exact hpq d (List.all_eq_true.mp h d hd) hq

section
variable {s : State} {h : Hdr} {m : Word}

theorem exec_loadImage (ha : s.accepts h 0x0012 = true) (hm : dieMaskOk m = true) (off : Nat) {bytes : List Byte}
    (hlen : bytes.length ≤ loadMax) (final : Bool) :
    exec (.loadImage h m off bytes final) s =
      .next (((dieMask m).foldl (fun t d => t.loadChunk d off bytes final) (s.begun h)).answer h 0x0012 stOk 0) := by
  refine congrArg Host.Outcome.next ((State.command_accepted _ ha).trans (if_neg ?_))
  simp [hm, hlen]

theorem exec_activate (ha : s.accepts h 0x0013 = true) (hm : dieMaskOk m = true)
    (hall : (dieMask m).all (fun d => (s.begun h).quiesced d && decide ((s.fabD d).shadow = 3)) = true) :
    exec (.activate h m) s = .next (State.answer { s.begun h with
      ctl := { (s.begun h).ctl with activate := s.ctl.activate ||| m.toNat } } h 0x0013 stOk 0) := by
  refine congrArg Host.Outcome.next ((State.command_accepted _ (State.accepts_sealed ha _)).trans ?_)
  refine (if_neg (by simp [hm])).trans (if_neg (not_any_of_all (fun d hd => ?_) hall))
  show ¬ (!(s.begun h).quiesced d || decide ((s.fabD d).shadow ≠ 3)) = true
  simpa using hd

theorem exec_activate_refused (ha : s.accepts h 0x0013 = true)
    (hno : dieMaskOk m = false ∨ (dieMask m).any (fun d => !(s.begun h).quiesced d || decide ((s.fabD d).shadow ≠ 3)) = true) :
    exec (.activate h m) s = .next ((s.begun h).invalid h 0x0013 (if dieMaskOk m then 4 else 2)) := by
  refine congrArg Host.Outcome.next ((State.command_accepted _ (State.accepts_sealed ha _)).trans ?_)
  cases hm : dieMaskOk m with
  | false => exact if_pos rfl
  | true => exact (if_neg (by simp)).trans (if_pos (hno.resolve_left (by simp [hm])))

theorem exec_swapRequest (ha : s.accepts h 0x0014 = true) (hm : dieMaskOk m = true)
    (hall : (dieMask m).all (fun d => decide ((s.fabD d).shadow = 2) || decide ((s.fabD d).shadow = 3)) = true) :
    exec (.swapRequest h m) s =
      .next (((dieMask m).foldl (fun t d => t.updFab d FabDie.swapRequested) (s.begun h)).answer h 0x0014 stOk 0) := by
  refine congrArg Host.Outcome.next ((State.command_accepted _ ha).trans ?_)
  refine (if_neg (by simp [hm])).trans (if_neg (not_any_of_all (fun d hd => ?_) hall))
  show ¬ (decide ((s.fabD d).shadow ≠ 2) && decide ((s.fabD d).shadow ≠ 3)) = true
  simpa [Decidable.imp_iff_not_or] using hd

theorem exec_reactivate (ha : s.accepts h 0x0016 = true) (hm : dieMaskOk m = true)
    (hall : (dieMask m).all (fun d => (s.begun h).quiesced d && (s.fabD d).placed) = true) :
    exec (.reactivate h m) s = .next (State.answer { s.begun h with
      ctl := { (s.begun h).ctl with reactivate := s.ctl.reactivate ||| m.toNat } } h 0x0016 stOk 0) := by
  refine congrArg Host.Outcome.next ((State.command_accepted _ ha).trans ?_)
  refine (if_neg (by simp [hm])).trans (if_neg (not_any_of_all (fun d hd => ?_) hall))
  simpa using hd

theorem exec_fabricFlush (ha : s.accepts h 0x0031 = true) (hm : dieMaskOk m = true) :
    exec (.fabricFlush h m) s = .next (((dieMask m).foldl State.flush (s.begun h)).answer h 0x0031 stOk 0) := by
  refine congrArg Host.Outcome.next ((State.command_accepted _ ha).trans ?_)
  exact if_pos hm

end

end Machine
end Sys2Proof
end

section
/-! Chunks of an image that are not the last, on the dies of a mask one after another (R157, R165). -/

namespace Sys2Proof.Machine

theorem dieMask_nodup (m : Word) : (dieMask m).Nodup := List.Nodup.filter _ (by decide)

theorem mem_dieMask {m : Word} {d : Die} (h : m.getLsbD d.val = true) : d.val ∈ dieMask m :=
  List.mem_filter.mpr ⟨List.mem_range.mpr d.isLt, h⟩

theorem dieMask_two_pow (d : Die) : dieMask (BitVec.ofNat 32 (2 ^ d.val)) = [d.val] ∧ dieMaskOk (BitVec.ofNat 32 (2 ^ d.val)) = true := by
  revert d
  decide

/-- `t` follows `s` by chunks that are not the last. -/
structure State.Chunked (s t : State) : Prop where
  frame : t = { s with img := t.img, fab := t.fab, evt := t.evt, cnt := t.cnt }
  fabs : t.fab.ordered
  imgs : t.img.ordered

section
variable {s t : State} {off : Nat} {bytes : List Byte}

/-- A chunk that is refused leaves the image as it is, and one that is taken is written into the shadow set. -/
theorem State.loadChunk_img (s : State) (k off : Nat) (bytes : List Byte) :
    (s.loadChunk k off bytes false).img = s.img ∨
    (off + bytes.length ≤ imageMax ∧ (s.loadChunk k off bytes false).img = memWrite s.img (imgKey k (s.shadowOf k) off) bytes) := by
  unfold State.loadChunk
  split
  · exact Or.inl rfl
  · split
    · exact Or.inl rfl
    · exact Or.inr ⟨Nat.le_of_not_lt ‹_›, rfl⟩

theorem State.loadChunk_frame (s : State) (k off : Nat) (bytes : List Byte) :
    s.loadChunk k off bytes false = { s with
      img := (s.loadChunk k off bytes false).img, fab := (s.loadChunk k off bytes false).fab
      evt := (s.loadChunk k off bytes false).evt, cnt := (s.loadChunk k off bytes false).cnt } := by
  unfold State.loadChunk
  split
  · rfl
  · split <;> rfl

theorem State.Chunked.loadChunk (h : s.Chunked t) (k off : Nat) (bytes : List Byte) : s.Chunked (t.loadChunk k off bytes false) := by
  refine ⟨?_, ((State.Loads.refl h.fabs k).loadChunk _ _ _).fabs, ?_⟩
  · rw [State.loadChunk_frame, h.frame]
  · rcases t.loadChunk_img k off bytes with himg | ⟨-, himg⟩ <;> rw [himg]
    · exact h.imgs
    · exact memWrite_ordered _ _ _ h.imgs

/-- A chunk for another die leaves the images of a die. -/
theorem State.Chunked.loadChunk_img_other (h : s.Chunked t) {d k : Nat} (hk : k ≠ d) {a x : Nat} (ha : a ≤ 1) (hx : x < imageMax) :
    (t.loadChunk k off bytes false).img.get 0 (imgKey d a x) = t.img.get 0 (imgKey d a x) := by
  rcases t.loadChunk_img k off bytes with himg | ⟨hlen, himg⟩ <;> rw [himg]
  refine memWrite_get_outside _ _ _ _ h.imgs ?_
  rcases Nat.lt_or_gt_of_ne hk with hlt | hlt
  · exact Or.inr (imgKey_add_le hlt (t.shadowOf_le k) hlen)
  · exact Or.inl (imgKey_add_le (n := 1) hlt ha hx)

/-- A chunk has been taken for die `d`: its shadow set is LOADING and holds the bytes (R157). -/
structure State.ChunkTaken (s t : State) (d off : Nat) (bytes : List Byte) : Prop extends s.Chunked t where
  loading : (t.fabD d).shadow = 1
  bytesAt : ∀ i b, bytes[i]? = some b → t.img.get 0 (imgKey d (s.shadowOf d) (off + i)) = b

/-- After a chunk of an image the shadow set of the die is LOADING and its image holds the bytes. -/
theorem State.loadChunks_taken (hfab : s.fab.ordered) (himg : s.img.ordered) (hlen : off + bytes.length ≤ imageMax) {m : Word} {d : Die}
    (hd : m.getLsbD d.val = true) (hp : s.swapPending d.val = false) :
    s.ChunkTaken ((dieMask m).foldl (fun t k => t.loadChunk k off bytes false) s) d.val off bytes := by
  refine foldl_once (P := fun t => s.Chunked t ∧ t.fabD d.val = s.fabD d.val)
    (Q := fun t => s.ChunkTaken t d.val off bytes) (a := d.val) ?_ ?_ ?_ (dieMask m) (dieMask_nodup m)
    (mem_dieMask hd) s ⟨⟨rfl, hfab, himg⟩, rfl⟩
  · rintro t k hk ⟨ht, hdie⟩
    exact ⟨ht.loadChunk _ _ _, (((State.Loads.refl ht.fabs k).loadChunk _ _ _).others _ hk.symm).trans hdie⟩
  · rintro t ⟨ht, hdie⟩
    have hset : t.shadowOf d.val = s.shadowOf d.val := by simp only [State.shadowOf, hdie]
    have hfree : t.swapPending d.val = false := by
      rw [← hp, State.swapPending, State.swapPending, hdie, ht.frame]
    have hchunk := State.loadChunk_of_free hfree hlen false
    refine ⟨ht.loadChunk _ _ _, ?_, fun i b hb => ?_⟩
    · rw [hchunk]
      exact congrArg FabDie.shadow (State.fabD_setFab_same ht.fabs _)
    · rw [hchunk, ← hset, imgKey_add]
      exact memWrite_get_inside bytes _ _ i b ht.imgs hb
  · rintro t k hk ⟨ht, hshadow, hbytes⟩
    refine ⟨ht.loadChunk _ _ _, ?_, fun i b hb => ?_⟩
    · rw [((State.Loads.refl ht.fabs k).loadChunk _ _ _).others _ hk.symm]
      exact hshadow
    · have hi : i < bytes.length := (List.getElem?_eq_some_iff.mp hb).1
      have hx : off + i < imageMax := Nat.lt_of_lt_of_le (Nat.add_lt_add_left hi off) hlen
      exact (ht.loadChunk_img_other hk (s.shadowOf_le _) hx).trans (hbytes i b hb)

end

end Sys2Proof.Machine
end

section
/-! The fabric flush of one die: its fabric is quiesced, and no other die's is touched (R166, R170). -/

namespace Sys2Proof.Machine

/-- A fabric without its run state. -/
def FabDie.flushed (f : FabDie) : FabDie :=
  { f with
    halted := false, log := [], lsFault := false, reeds := f.restReeds, ports := f.restPorts, queues := .empty, bbNext := .empty
    rings := .empty, outq := .empty, tokens := [] }

/-- An engine without its MPDs. -/
def Engine.flushed (x : Engine) : Engine :=
  { x with
    offer := [], queue := [], tiles := .empty, plans := .empty, drains := .empty, ring := [], loads := .empty, mcIn := .empty
    mcRing := .empty, out := .empty }

theorem FabDie.restReeds_cells (f : FabDie) :
    ∀ c ∈ f.restReeds.cells, c.2.cnts = .empty ∧ c.2.runPos = 0 ∧ c.2.armed = false := by
  unfold FabDie.restReeds
  refine List.foldlRecOn (motive := fun t : Tbl ReedRun => ∀ c ∈ t.cells, c.2.cnts = .empty ∧ c.2.runPos = 0 ∧ c.2.armed = false) _ _
    (fun _ hc => absurd hc List.not_mem_nil) fun t ht c _ => ?_
  exact Tbl.cells_insert (p := fun x : ReedRun => x.cnts = .empty ∧ x.runPos = 0 ∧ x.armed = false) _ _ ⟨rfl, rfl, rfl⟩ t.cells ht

theorem FabDie.restPorts_cells (f : FabDie) : ∀ c ∈ f.restPorts.cells, c.2.active = false ∧ c.2.go = false := by
  unfold FabDie.restPorts
  refine List.foldlRecOn (motive := fun t : Tbl SpRun => ∀ c ∈ t.cells, c.2.active = false ∧ c.2.go = false) _ _
    (fun _ hc => absurd hc List.not_mem_nil) fun t ht c _ => ?_
  exact Tbl.cells_insert (p := fun x : SpRun => x.active = false ∧ x.go = false) _ _ ⟨rfl, rfl⟩ t.cells ht

/-- A die whose fabric and engines have been flushed is quiesced. -/
theorem State.quiesced_of_flushed {t : State} {d : Nat} {f : FabDie} (hf : t.fabD d = f.flushed)
    (he : ∀ e, e < 36 → (t.engD d e).idle = true) : t.quiesced d = true := by
  have hreeds : f.restReeds.cells.all (fun c => c.2.cnts.cells.all (fun k => k.2.count = 0 && !k.2.due) && c.2.runPos = 0 && !c.2.armed) = true := by
    refine List.all_eq_true.mpr fun c hc => ?_
    obtain ⟨hcnts, hpos, harmed⟩ := f.restReeds_cells c hc
    simp [hcnts, hpos, harmed, Tbl.empty]
  have hports : f.restPorts.cells.all (fun c => !c.2.active && !c.2.go) = true := by
    refine List.all_eq_true.mpr fun c hc => ?_
    obtain ⟨hactive, hgo⟩ := f.restPorts_cells c hc
    simp [hactive, hgo]
  have hengs : (List.range 36).all (fun e => (t.engD d e).idle) = true := List.all_eq_true.mpr fun e h => he e (List.mem_range.mp h)
  rw [State.quiesced, hf, hengs]
  simp [FabDie.flushed, hreeds, hports, Tbl.empty]

/-- `t` follows `s` by flushes: fabrics, engines and the ends of runs of bound ports. -/
structure State.Flushes (s t : State) : Prop where
  frame : t = { s with fab := t.fab, eng := t.eng, kv := t.kv, ing := t.ing }
  fabs : t.fab.ordered
  engs : t.eng.ordered

theorem State.boundEnd_frame (s : State) (d p : Nat) :
    s.boundEnd d p = { s with kv := (s.boundEnd d p).kv, ing := (s.boundEnd d p).ing } := by
  unfold State.boundEnd
  dsimp only
  split <;> split <;> rfl

section
variable {s t : State} {d : Nat}

/-- The runs of bound ports end. -/
theorem State.boundEnds_frame (s : State) (d : Nat) (l : List (Nat × SpRun)) :
    l.foldl (fun t c => t.boundEnd d c.1) s = { s with
      kv := (l.foldl (fun t c => t.boundEnd d c.1) s).kv, ing := (l.foldl (fun t c => t.boundEnd d c.1) s).ing } :=
  List.foldlRecOn (motive := fun t : State => t = { s with kv := t.kv, ing := t.ing }) l _ rfl fun t ht c _ => by
    rw [State.boundEnd_frame, ht]

/-- The engines of a die lose their MPDs one after another. -/
def State.flushEngines (s : State) (d : Nat) (l : List Nat) : State := l.foldl (fun t e => t.setEng d e (t.engD d e).flushed) s

theorem State.flushEngines_frame (s : State) (d : Nat) (l : List Nat) : s.flushEngines d l = { s with eng := (s.flushEngines d l).eng } :=
  List.foldlRecOn (motive := fun t : State => t = { s with eng := t.eng }) l _ rfl fun t ht e _ => by
    rw [State.setEng, ht]

theorem State.flushEngines_fab (s : State) (d : Nat) (l : List Nat) : (s.flushEngines d l).fab = s.fab := by
  rw [State.flushEngines_frame]

theorem State.flushEngines_ordered (h : s.eng.ordered) (d : Nat) (l : List Nat) : (s.flushEngines d l).eng.ordered :=
  List.foldlRecOn (motive := fun t : State => t.eng.ordered) l _ h fun _ ht _ _ => State.setEng_eng_ordered ht _ _ _

theorem State.flushEngines_other (h : s.eng.ordered) {d k e : Nat} (hk : k ≠ d) (he : e < 36) :
    (s.flushEngines d (List.range 36)).engD k e = s.engD k e := by
  refine (List.foldlRecOn (motive := fun t : State => t.eng.ordered ∧ t.engD k e = s.engD k e) (List.range 36) _ ⟨h, rfl⟩
    fun t ht j hj => ?_).2
  obtain ⟨hord, hsame⟩ := ht
  have hj : j < 36 := List.mem_range.mp hj
  exact ⟨State.setEng_eng_ordered hord _ _ _, (State.setEng_eng_get_other hord (by omega) _).trans hsame⟩

theorem State.flushEngines_idle (h : s.eng.ordered) (d : Nat) {e : Nat} (he : e < 36) :
    ((s.flushEngines d (List.range 36)).engD d e).idle = true := by
  refine (foldl_once (P := fun t : State => t.eng.ordered) (Q := fun t : State => t.eng.ordered ∧ (t.engD d e).idle = true) (a := e)
    (fun t k _ ht => State.setEng_eng_ordered ht _ _ _) (fun t ht => ⟨State.setEng_eng_ordered ht _ _ _, ?_⟩) (fun t k hk ht => ?_)
    (List.range 36) List.nodup_range (List.mem_range.mpr he) s h).2
  · rw [State.engD_setEng_same ht]
    rfl
  · obtain ⟨hord, hidle⟩ := ht
    exact ⟨State.setEng_eng_ordered hord _ _ _, (congrArg Engine.idle (State.engD_setEng_other hord hk.symm _)).trans hidle⟩

theorem State.flush_eq (s : State) (d : Nat) :
    s.flush d = State.flushEngines
      ((((s.fabD d).ports.cells.filter fun c => c.2.active).foldl (fun t c => t.boundEnd d c.1) s).updFab d FabDie.flushed) d
      (List.range 36) := rfl

/-- What a flush of one die does (R170). -/
theorem State.Flushes.flush (h : s.Flushes t) (d : Nat) : s.Flushes (t.flush d) ∧ (t.flush d).fabD d = (t.fabD d).flushed ∧
    (∀ e, e < 36 → ((t.flush d).engD d e).idle = true) ∧
    ∀ k, k ≠ d → (t.flush d).fabD k = t.fabD k ∧ ∀ e, e < 36 → (t.flush d).engD k e = t.engD k e := by
  have hends := State.boundEnds_frame t d ((t.fabD d).ports.cells.filter fun c => c.2.active)
  rw [State.flush_eq]
  generalize ((t.fabD d).ports.cells.filter fun c => c.2.active).foldl (fun t c => t.boundEnd d c.1) t = u at hends ⊢
  have hfab : u.fab = t.fab := by rw [hends]
  have hfabD : ∀ k, u.fabD k = t.fabD k := fun k => by rw [State.fabD, hfab]; rfl
  have heng : (u.updFab d FabDie.flushed).eng = t.eng := by rw [hends]; rfl
  have hord : u.fab.ordered := hfab ▸ h.fabs
  have hengs : (u.updFab d FabDie.flushed).eng.ordered := heng ▸ h.engs
  have hframe := (u.updFab d FabDie.flushed).flushEngines_frame d (List.range 36)
  have hkeep := (u.updFab d FabDie.flushed).flushEngines_fab d (List.range 36)
  have hkeepD : ∀ k, ((u.updFab d FabDie.flushed).flushEngines d (List.range 36)).fabD k = (u.updFab d FabDie.flushed).fabD k := fun k => by
    rw [State.fabD, hkeep]
    rfl
  refine ⟨⟨?_, ?_, State.flushEngines_ordered hengs _ _⟩, ?_, fun e he => State.flushEngines_idle hengs d he,
    fun k hk => ⟨?_, fun e he => ?_⟩⟩
  · rw [hframe, State.updFab, State.setFab, hends, h.frame]
  · rw [hkeep]
    exact State.setFab_ordered hord _
  · rw [hkeepD, State.updFab, State.fabD_setFab_same hord, hfabD]
  · rw [hkeepD, State.updFab, State.fabD_setFab_other hord _ hk, hfabD]
  · rw [State.flushEngines_other hengs hk he, State.engD, heng]
    rfl

/-- A flush has reached die `d`. -/
structure State.FlushedOf (s t : State) (d : Nat) : Prop extends s.Flushes t where
  die : t.fabD d = (s.fabD d).flushed
  idle : ∀ e, e < 36 → (t.engD d e).idle = true

/-- After FABRIC_FLUSH every die of the mask has been flushed once. -/
theorem State.flushes_done (hfab : s.fab.ordered) (heng : s.eng.ordered) {m : Word} {d : Die} (hd : m.getLsbD d.val = true) :
    s.FlushedOf ((dieMask m).foldl State.flush s) d.val := by
  refine foldl_once (P := fun t => s.Flushes t ∧ t.fabD d.val = s.fabD d.val) (Q := fun t => s.FlushedOf t d.val) (a := d.val) ?_ ?_ ?_
    (dieMask m) (dieMask_nodup m) (mem_dieMask hd) s ⟨⟨rfl, hfab, heng⟩, rfl⟩
  · rintro t k hk ⟨ht, hdie⟩
    obtain ⟨hu, -, -, hothers⟩ := ht.flush k
    exact ⟨hu, (hothers d.val hk.symm).1.trans hdie⟩
  · rintro t ⟨ht, hdie⟩
    obtain ⟨hu, hflushed, hidle, -⟩ := ht.flush d.val
    exact ⟨hu, hdie ▸ hflushed, hidle⟩
  · rintro t k hk ⟨ht, hflushed, hidle⟩
    obtain ⟨hu, -, -, hothers⟩ := ht.flush k
    obtain ⟨hsame, hengs⟩ := hothers d.val hk.symm
    exact ⟨hu, hsame.trans hflushed, fun e he => (congrArg Engine.idle (hengs e he)).trans (hidle e he)⟩

end

end Sys2Proof.Machine
end

section
/-! The final chunk of an image on one die (R157, R161, R165, R179), and the commands of O25 together. -/

namespace Sys2Proof.Machine

section
variable {s : State} {d : Nat}

/-- The set waits for its audit where every check passes and is REJECTED where one fails; IMAGE_RESULT is the first failing check of R157. -/
theorem State.finishImage_judged (hf : s.fab.ordered) (len : Nat) :
    ((s.finishImage d len).fabD d).shadow = (if s.imageReason d len = 0 ∧ s.programReason d (s.shadowOf d) = 0 then 2 else 4) ∧
    (s.imageReason d len ≠ 0 → ((s.finishImage d len).fabD d).imageReason = s.imageReason d len) := by
  unfold State.finishImage
  dsimp only
  generalize s.imageReason d len = n
  generalize s.programReason d (s.shadowOf d) = q
  by_cases hn : n = 0
  · simp only [hn, ne_eq, not_true_eq_false, if_false, true_and, false_imp_iff, and_true]
    by_cases hq : q = 0
    · rw [if_neg (fun h => h hq), if_pos hq]
      have hload : ((s.loadStores d (s.shadowOf d)).loadLeaven d (s.shadowOf d)).fab.ordered := by
        rw [State.loadLeaven, State.loadStores_frame]
        exact hf
      exact congrArg FabDie.shadow (State.fabD_setFab_same hload _)
    · rw [if_pos hq, if_neg hq]
      exact congrArg FabDie.shadow (State.fabD_setFab_same hf _)
  · rw [if_pos hn, if_neg fun h => hn h.1]
    have hinv : (s.imageInvalid d n).fab.ordered := State.setFab_ordered hf _
    have hdie : (s.imageInvalid d n).fabD d = { s.fabD d with imageReason := n } := State.fabD_setFab_same hf _
    rw [State.updFab, State.fabD_setFab_same hinv, hdie]
    exact ⟨rfl, fun _ => rfl⟩

/-- The final chunk of an image that may be written. -/
theorem State.loadChunk_final (hf : s.fab.ordered) (hp : s.swapPending d = false) {off : Nat} {bytes : List Byte}
    (hlen : off + bytes.length ≤ imageMax) :
    (s.loadChunk d off bytes true).ctl = s.ctl ∧
    ((s.loadChunk d off bytes true).fabD d).shadow = (if (s.chunkWritten d off bytes).imageReason d (off + bytes.length) = 0 ∧
      (s.chunkWritten d off bytes).programReason d (s.shadowOf d) = 0 then 2 else 4) ∧
    ((s.loadChunk d off bytes true).fabD d).activeSet = (s.fabD d).activeSet ∧
    ((s.chunkWritten d off bytes).imageReason d (off + bytes.length) ≠ 0 → ((s.loadChunk d off bytes true).fabD d).imageReason =
      (s.chunkWritten d off bytes).imageReason d (off + bytes.length)) := by
  have hchunk : s.loadChunk d off bytes true = (s.chunkWritten d off bytes).finishImage d (off + bytes.length) := by
    rw [State.loadChunk_of_free hp hlen, if_pos rfl]
  have hloads := (State.Loads.refl hf d).loadChunk off bytes true
  have hord : (s.chunkWritten d off bytes).fab.ordered := State.setFab_ordered hf _
  have hdie : (s.chunkWritten d off bytes).fabD d = { s.fabD d with shadow := 1 } := State.fabD_setFab_same hf _
  have hset : (s.chunkWritten d off bytes).shadowOf d = s.shadowOf d := by simp only [State.shadowOf, hdie]
  obtain ⟨hshadow, hreason⟩ := State.finishImage_judged (d := d) hord (off + bytes.length)
  rw [hset] at hshadow
  rw [hchunk] at hloads ⊢
  exact ⟨hloads.ctl, hshadow, hloads.activeSet, hreason⟩

/-- A command refused with CMD_INVALID changes the control side alone, and its answer carries the cause (R381). -/
theorem State.invalid_spec (s : State) (h : Hdr) (op cause : Nat) :
    (s.invalid h op cause).responded h op stInvalid ∧ s.onlyControl (s.invalid h op cause) ∧
      (s.invalid h op cause).ctl.stored.head?.map (·.cause) = some cause :=
  ⟨State.answer_responded _ _ _ _ _ _, rfl, rfl⟩

/-- Requests for a swap write fabrics alone. -/
theorem State.swapRequests_frame (s : State) (l : List Nat) :
    l.foldl (fun t k => t.updFab k FabDie.swapRequested) s =
      { s with fab := (l.foldl (fun t k => t.updFab k FabDie.swapRequested) s).fab } :=
  List.foldlRecOn (motive := fun t : State => t = { s with fab := t.fab }) l _ rfl fun t ht k _ => by
    rw [State.updFab, State.setFab, ht]

/-- A die that the mask names has a swap requested. -/
theorem State.swapRequests_swap (hf : s.fab.ordered) {m : Word} {k : Die} (hk : m.getLsbD k.val = true) :
    (((dieMask m).foldl (fun t k => t.updFab k FabDie.swapRequested) s).fabD k.val).swap = true := by
  refine (foldl_once (P := fun t : State => t.fab.ordered) (Q := fun t : State => t.fab.ordered ∧ (t.fabD k.val).swap = true) (a := k.val)
    (fun t j _ ht => State.setFab_ordered ht _) (fun t ht => ⟨State.setFab_ordered ht _, ?_⟩) (fun t j hj ht => ?_) (dieMask m)
    (dieMask_nodup m) (mem_dieMask hk) s hf).2
  · exact congrArg FabDie.swap (State.fabD_setFab_same ht _)
  · obtain ⟨hord, hswap⟩ := ht
    exact ⟨State.setFab_ordered hord _, (congrArg FabDie.swap (State.fabD_setFab_other hord _ hj.symm)).trans hswap⟩

end

section
variable (s : State) (h : Hdr) (op status cause : Nat) (data : List Byte) (d : Nat)

@[simp] theorem State.answer_fabD : (s.answer h op status cause data).fabD d = s.fabD d := rfl

@[simp] theorem State.answer_quiesced : (s.answer h op status cause data).quiesced d = s.quiesced d := rfl

end

/-- Settles O25: each command is accepted by its equation, and what its fold over the dies of the mask does to a die is a lemma of its own. -/
theorem imageAndSwapCommands : Obligations.ImageAndSwapCommands := by
  unfold Obligations.ImageAndSwapCommands
  refine ⟨?_, ?_, ?_, ?_, ?_, ?_, ?_⟩
  · intro h s m off bytes d ha hm hbytes hlen hd htab hp
    have hfab := State.fab_ordered htab
    have himg := State.img_ordered htab
    obtain ⟨ht, hshadow, hat⟩ := State.loadChunks_taken (s := s.begun h) hfab himg hlen hd hp
    refine ⟨_, exec_loadImage ha hm off hbytes false, State.answer_responded _ _ _ _ _ _, ?_⟩
    rw [State.answer_fabD, State.answer_mem, State.answer_ctl_state, State.answer_img]
    exact ⟨hshadow, by rw [ht.frame, State.begun_mem], by rw [ht.frame, State.begun_ctl_state], hat⟩
  · intro h s m ha hm hall
    exact ⟨_, exec_activate ha hm hall, State.answer_responded _ _ _ _ _ _, rfl, rfl⟩
  · intro h s m d ha hm hd hall htab
    have hfab := State.fab_ordered htab
    refine ⟨_, exec_swapRequest ha hm hall, State.answer_responded _ _ _ _ _ _, ?_⟩
    rw [State.answer_fabD, State.answer_mem]
    exact ⟨by rw [State.swapRequests_frame, State.begun_mem], State.swapRequests_swap (s := s.begun h) hfab hd⟩
  · intro h s m ha hm hall
    exact ⟨_, exec_reactivate ha hm hall, State.answer_responded _ _ _ _ _ _, rfl, rfl⟩
  · intro h s m d ha hm hd htab
    obtain ⟨heng, -, -⟩ := State.tablesOk_ordered htab
    have hfab := State.fab_ordered htab
    obtain ⟨ht, hdie, hidle⟩ := State.flushes_done (s := s.begun h) hfab heng hd
    refine ⟨_, exec_fabricFlush ha hm, State.answer_responded _ _ _ _ _ _, ?_⟩
    rw [State.answer_fabD, State.answer_mem, State.answer_ctl_state, State.answer_img, State.answer_fuse, State.answer_quiesced, hdie]
    exact ⟨by rw [ht.frame, State.begun_ctl_state], by rw [ht.frame, State.begun_fuse], by rw [ht.frame, State.begun_mem],
      by rw [ht.frame, State.begun_img], State.quiesced_of_flushed hdie hidle, rfl⟩
  · intro h s d off bytes ha hbytes hlen htab hp set x n q
    obtain ⟨hmask, hok⟩ := dieMask_two_pow d
    have hfab := State.fab_ordered htab
    have hexec := exec_loadImage ha hok off hbytes true
    rw [hmask, List.foldl_cons, List.foldl_nil] at hexec
    obtain ⟨hctl, hjudged⟩ := State.loadChunk_final (s := s.begun h) hfab hp hlen
    refine ⟨_, hexec, State.answer_responded _ _ _ _ _ _, ?_⟩
    rw [State.answer_fabD, State.answer_ctl_state]
    exact ⟨by rw [hctl, State.begun_ctl_state], hjudged⟩
  · intro h s m ha hno
    obtain ⟨hresp, hframe, hcause⟩ := (s.begun h).invalid_spec h 0x0013 (if dieMaskOk m then 4 else 2)
    exact ⟨_, exec_activate_refused ha hno, hresp, hframe, hcause⟩

end Sys2Proof.Machine
end

section
/-! The work of one reed: what stands while it pops, pushes, loads limits, runs a body and steps its counters (R145 to R151). -/

namespace Sys2Proof.Machine

/-- `t` follows `s` by work of reed `r` of die `d`, which then stands at `z`. -/
structure State.Works (s t : State) (d r : Nat) (z : ReedRun) : Prop where
  ctl : t.ctl = s.ctl
  fuse : t.fuse = s.fuse
  img : t.img = s.img
  cnt : t.cnt.ordered
  fabs : t.fab.ordered
  others : ∀ k, k ≠ d → t.fabD k = s.fabD k
  activeSet : (t.fabD d).activeSet = (s.fabD d).activeSet
  reeds : (t.fabD d).reeds.ordered
  queues : (t.fabD d).queues.ordered
  reed : (t.fabD d).reed r = z
  cnts : z.cnts.ordered

theorem State.Works.of_tablesOk {s : State} (h : s.tablesOk) (d r : Nat) : s.Works s d r ((s.fabD d).reed r) := by
  obtain ⟨-, hcnt, -⟩ := State.tablesOk_ordered h
  obtain ⟨hfabs, hreeds, hqueues, hcnts⟩ := State.reedTables h d r
  exact ⟨rfl, rfl, rfl, hcnt, hfabs, fun _ _ => rfl, rfl, hreeds, hqueues, rfl, hcnts⟩

section
variable {s t : State} {d r : Nat} {z : ReedRun} (h : s.Works t d r z)
include h

theorem State.Works.recOf : t.recOf d r = s.recOf d r := by
  unfold State.recOf State.activeOf
  rw [h.activeSet]
  unfold State.reedRec State.imgSec State.imgWords State.imgWord
  rw [h.img]

/-- What touches no fabric and no image. -/
theorem State.Works.beside {u : State} (hctl : u.ctl = t.ctl) (hfuse : u.fuse = t.fuse) (himg : u.img = t.img) (hfab : u.fab = t.fab)
    (hcnt : u.cnt.ordered) : s.Works u d r z := by
  have hdie : ∀ k, u.fabD k = t.fabD k := fun k => by rw [State.fabD, hfab]; rfl
  refine ⟨hctl.trans h.ctl, hfuse.trans h.fuse, himg.trans h.img, hcnt, hfab ▸ h.fabs, fun k hk => (hdie k).trans (h.others k hk), ?_, ?_,
    ?_, ?_, h.cnts⟩ <;> rw [hdie]
  · exact h.activeSet
  · exact h.reeds
  · exact h.queues
  · exact h.reed

/-- Queues of the fabric are written. -/
theorem State.Works.setFab (f : FabDie) (hq : f.queues.ordered) (hr : f.reeds = (t.fabD d).reeds)
    (ha : f.activeSet = (t.fabD d).activeSet) : s.Works (t.setFab d f) d r z := by
  refine ⟨h.ctl, h.fuse, h.img, h.cnt, State.setFab_ordered h.fabs f, fun k hk => ?_, ?_, ?_, ?_, ?_, h.cnts⟩
  · rw [State.fabD_setFab_other h.fabs f hk]
    exact h.others k hk
  · rw [State.fabD_setFab_same h.fabs, ha]
    exact h.activeSet
  · rw [State.fabD_setFab_same h.fabs, hr]
    exact h.reeds
  · rw [State.fabD_setFab_same h.fabs]
    exact hq
  · rw [State.fabD_setFab_same h.fabs, FabDie.reed, hr]
    exact h.reed

theorem State.Works.setReed {x : ReedRun} (hx : x.cnts.ordered) : s.Works (t.setFab d ((t.fabD d).setReed r x)) d r x := by
  refine ⟨h.ctl, h.fuse, h.img, h.cnt, State.setFab_ordered h.fabs _, fun k hk => ?_, ?_, ?_, ?_, ?_, hx⟩
  · rw [State.fabD_setFab_other h.fabs _ hk]
    exact h.others k hk
  · rw [State.fabD_setFab_same h.fabs]
    exact h.activeSet
  · rw [State.fabD_setFab_same h.fabs]
    exact FabDie.setReed_ordered h.reeds r x
  · rw [State.fabD_setFab_same h.fabs]
    exact h.queues
  · rw [State.fabD_setFab_same h.fabs, FabDie.reed_setReed_same h.reeds]

theorem State.Works.popPort (p : Nat) : s.Works (t.popPort d r p) d r z := by
  unfold State.popPort
  split
  · exact h
  · exact h.setFab _ (FabDie.setQueue_ordered h.queues _ _) rfl rfl

theorem State.Works.pushOut (p : Nat) (e : Entry) : s.Works (t.pushOut d r p e) d r z :=
  h.setFab _ (FabDie.setQueue_ordered h.queues _ _) rfl rfl

/-- An output's newest entry is the one pushed last. -/
theorem State.Works.pushOut_newest (p : Nat) (e : Entry) :
    (((t.pushOut d r p e).fabD d).queue (qKey r (outSrc p))).items.getLast? = some e := by
  rw [State.pushOut, State.fabD_setFab_same h.fabs, FabDie.queue_setQueue_same h.queues, Queue.push]
  exact List.getLast?_concat

/-- Popping an input leaves every other queue. -/
theorem State.Works.popPort_queue {p k : Nat} (hk : ∀ src, portSrc (t.recOf d r) p = some src → k ≠ qKey r src) :
    ((t.popPort d r p).fabD d).queue k = (t.fabD d).queue k := by
  unfold State.popPort
  split
  · rfl
  · rename_i src hsrc
    rw [State.fabD_setFab_same h.fabs, FabDie.queue_setQueue_other h.queues _ _ (hk src hsrc)]

theorem State.Works.setReed_queue (x : ReedRun) (k : Nat) :
    ((t.setFab d ((t.fabD d).setReed r x)).fabD d).queue k = (t.fabD d).queue k := by
  rw [State.fabD_setFab_same h.fabs]
  rfl

/-- What a reed counts of its issues is beside its work (R162). -/
theorem State.Works.noteIssue : ∃ w, s.Works (t.noteIssue d r) d r { z with waits := w } := by
  unfold State.noteIssue
  split
  · refine ⟨z.waits + 1, ?_⟩
    have hz := h.reed
    subst hz
    exact h.setReed (x := { (t.fabD d).reed r with waits := ((t.fabD d).reed r).waits + 1 }) h.cnts
  · exact ⟨z.waits, h⟩

theorem State.Works.noteIssue_queue (k : Nat) : ((t.noteIssue d r).fabD d).queue k = (t.fabD d).queue k := by
  unfold State.noteIssue
  split
  · exact h.setReed_queue _ k
  · rfl

end

end Sys2Proof.Machine
end

section
/-! Limits that are loaded, and a body that is run (R146, R150, R151). -/

namespace Sys2Proof.Machine

theorem State.raise_cnt_ordered {s : State} (h : s.cnt.ordered) (p c : Nat) (pl : List Byte) : (s.raise p c pl).cnt.ordered := by
  unfold State.raise
  dsimp only
  split
  · exact Tbl.ordered_set h _ _
  · split
    · exact Tbl.ordered_set h _ _
    · exact h

/-- No fabric bears on a range report (R39). -/
theorem State.levReport_fab (s : State) (fab : Tbl FabDie) (d t : Nat) (rep : RangeReport) :
    State.levReport { s with fab := fab } d t rep = { s.levReport d t rep with fab := fab } := by
  unfold State.levReport State.setLev
  rfl

/-- The value of an instruction leaves everything but the Leaven. -/
theorem State.instrValue_frame (s : State) (d r : Nat) (i : RInstr) : ∃ l, (s.instrValue d r i).2 = { s with leaven := l } := by
  unfold State.instrValue
  generalize s.operand d r i i.sa = a, s.operand d r i i.sb = b, s.operand d r i i.sc = c
  dsimp only
  split
  case h_10 => exact ⟨_, s.levReport_frame d _ _⟩
  case h_11 => exact ⟨_, s.levReport_frame d _ _⟩
  all_goals exact ⟨s.leaven, rfl⟩

section
variable {s t : State} {d r : Nat} {z : ReedRun} (h : s.Works t d r z)
include h

theorem State.Works.ite {u : State} {c : Prop} [Decidable c] (hu : s.Works u d r z) : s.Works (if c then t else u) d r z := by
  split
  · exact h
  · exact hu

theorem State.Works.raise (p c : Nat) (pl : List Byte) : s.Works (t.raise p c pl) d r z :=
  h.beside rfl rfl rfl rfl (State.raise_cnt_ordered h.cnt p c pl)

theorem State.Works.count (a n : Nat) : s.Works (t.count a n) d r z := h.beside rfl rfl rfl rfl (State.count_cnt_ordered h.cnt a n)

theorem State.Works.dropMb (mb cause : Nat) : s.Works (t.dropMb d mb cause) d r z := by
  unfold State.dropMb
  refine State.Works.raise (State.Works.count ?_ _ _) _ _ _
  exact h.beside rfl rfl rfl rfl h.cnt

theorem State.Works.holdMb (u : List Nat) (cause : Nat) (back past : Bool) (layer : Nat) :
    s.Works (t.holdMb d u cause back past layer) d r z := by
  unfold State.holdMb
  refine State.Works.ite h (State.Works.ite (State.Works.dropMb ?_ _ _) ?_) <;>
  · refine State.Works.raise (State.Works.count ?_ _ _) _ _ _
    exact h.beside rfl rfl rfl rfl h.cnt

/-- A limit over the plan holds a micro-batch and is told (R151). -/
theorem State.Works.limitOver (who port v mb : Nat) : s.Works (t.limitOver d who port v mb) d r z := by
  unfold State.limitOver State.holdRun
  split
  · exact ((h.count _ _).raise _ _ _).holdMb _ _ _ _ _
  · exact (h.count _ _).raise _ _ _

theorem State.Works.loadLimit (i : Nat) : ∃ z', s.Works (t.loadLimit d r i) d r z' := by
  unfold State.loadLimit
  dsimp only
  split
  · exact ⟨z, h⟩
  · split
    · exact ⟨z, h⟩
    · have hpop := h.popPort 5
      have hcnts : ((t.fabD d).reed r).cnts.ordered := h.reed ▸ h.cnts
      split
      · refine ⟨_, State.Works.limitOver (State.Works.setReed hpop ?_) _ _ _ _⟩
        exact hcnts
      · refine ⟨_, State.Works.setReed hpop ?_⟩
        exact ReedRun.setCnt_ordered hcnts _ _

end

theorem State.Works.loadLimits {s : State} (h : s.tablesOk) (d r : Nat) :
    s.Works (s.loadLimits d r) d r (((s.loadLimits d r).fabD d).reed r) := by
  have hall : ∃ z, s.Works (s.loadLimits d r) d r z :=
    List.foldlRecOn (motive := fun t : State => ∃ z, s.Works t d r z) [0, 1, 2, 3] _ ⟨_, .of_tablesOk h d r⟩ fun t ht i _ => by
      obtain ⟨z, hz⟩ := ht
      exact hz.loadLimit i
  obtain ⟨z, hz⟩ := hall
  exact hz.reed ▸ hz

section
variable {s t : State} {d r : Nat} {z : ReedRun} (h : s.Works t d r z)
include h

theorem State.Works.popPorts (l : List Nat) : s.Works (l.foldl (fun u p => u.popPort d r p) t) d r z :=
  List.foldlRecOn (motive := fun u : State => s.Works u d r z) l _ h fun _ hu p _ => hu.popPort p

theorem State.Works.storeNat (a n v : Nat) : s.Works (t.storeNat a n v) d r z := h.beside rfl rfl rfl rfl h.cnt

theorem State.Works.setRegs (vr sr : Tbl Nat) :
    s.Works (t.setFab d ((t.fabD d).setReed r { (t.fabD d).reed r with vregs := vr, sregs := sr })) d r { z with vregs := vr, sregs := sr } := by
  rw [h.reed]
  refine State.Works.setReed h ?_
  exact h.cnts

/-- The result of an instruction goes to a register of the reed, to an output or to the local store (R147). -/
theorem State.Works.writeDst (i : RInstr) (v : Nat) : ∃ vr sr, s.Works (t.writeDst d r i v) d r { z with vregs := vr, sregs := sr } := by
  unfold State.writeDst
  dsimp only
  split
  · exact ⟨_, _, h.setRegs _ _⟩
  · split
    · exact ⟨_, _, (h.pushOut _ _).beside rfl rfl rfl rfl h.cnt⟩
    · split
      · exact ⟨_, _, h.setRegs _ _⟩
      · split
        · exact ⟨_, _, h.pushOut _ _⟩
        · split
          · split <;> exact ⟨_, _, h.storeNat _ _ _⟩
          · exact ⟨_, _, h⟩

theorem State.Works.instr (i : RInstr) : ∃ vr sr, s.Works (t.instr d r i) d r { z with vregs := vr, sregs := sr } := by
  unfold State.instr
  split
  · exact ⟨_, _, h⟩
  · exact ⟨_, _, h.pushOut _ _⟩
  · have hval : s.Works (t.instrValue d r i).2 d r z := by
      obtain ⟨l, hl⟩ := t.instrValue_frame d r i
      rw [hl]
      exact h.beside rfl rfl rfl rfl h.cnt
    exact (hval.popPorts i.pops).writeDst i _

/-- A body leaves the registers of the reed changed, and of what the reed counts nothing (R146). -/
theorem State.Works.body (b : List RInstr) : ∃ vr sr, s.Works (t.body d r b) d r { z with vregs := vr, sregs := sr } := by
  refine List.foldlRecOn (motive := fun u : State => ∃ vr sr, s.Works u d r { z with vregs := vr, sregs := sr }) b _
    ⟨_, _, h⟩ fun u hu i _ => ?_
  obtain ⟨vr, sr, hu⟩ := hu
  exact hu.instr i

/-- What has been pushed then moves on; a reed that its local store stops keeps what it holds (R139, R173). -/
theorem State.Works.settle (hd : d < 4) : (t.settle d).ctl = s.ctl ∧ (t.settle d).fuse = s.fuse ∧
    (∀ k, k ≠ d → (t.settle d).fabD k = s.fabD k) ∧ ∃ b, ((t.settle d).fabD d).reed r = { z with stopped := b } := by
  have hmoved : t.Moved (t.settle d) d := State.Moved.settle hd (.refl h.fabs h.reeds h.cnt)
  refine ⟨hmoved.ctl.trans h.ctl, hmoved.fuse.trans h.fuse, fun k hk => (hmoved.others k hk).trans (h.others k hk),
    (((t.settle d).fabD d).reed r).stopped, ?_⟩
  rw [hmoved.die.reed r, h.reed]

end

end Sys2Proof.Machine
end

section
/-! What a reed counts of its issues bears on no body (R146, R162). -/

namespace Sys2Proof.Machine

/-- Two states that differ in nothing that a body of reed `r` of die `d` reads or writes: the reed may have counted other issues. -/
structure State.Alike (s t : State) (d r : Nat) : Prop where
  frame : t = { s with fab := t.fab }
  fabs : s.fab.ordered ∧ t.fab.ordered
  reeds : (s.fabD d).reeds.ordered ∧ (t.fabD d).reeds.ordered
  activeSet : (t.fabD d).activeSet = (s.fabD d).activeSet
  queues : (t.fabD d).queues = (s.fabD d).queues
  reed : (t.fabD d).reed r = { (s.fabD d).reed r with waits := ((t.fabD d).reed r).waits }

section
variable {s t : State} {d r : Nat} (h : s.Alike t d r)
include h

/-- Both fabrics are written alike. -/
theorem State.Alike.setFab {f g : FabDie} (hreeds : f.reeds.ordered ∧ g.reeds.ordered) (hset : g.activeSet = f.activeSet)
    (hqueues : g.queues = f.queues) (hreed : g.reed r = { f.reed r with waits := (g.reed r).waits }) :
    (s.setFab d f).Alike (t.setFab d g) d r := by
  obtain ⟨hs, ht⟩ := h.fabs
  refine ⟨?_, ⟨State.setFab_ordered hs f, State.setFab_ordered ht g⟩, ?_, ?_, ?_, ?_⟩
  · rw [State.setFab, State.setFab, h.frame]
  all_goals rw [State.fabD_setFab_same hs, State.fabD_setFab_same ht]
  · exact hreeds
  · exact hset
  · exact hqueues
  · exact hreed

/-- Something other than the fabrics is written alike. -/
theorem State.Alike.beside {u v : State} (hu : u.fab = s.fab) (hv : v = { u with fab := t.fab }) : u.Alike v d r := by
  have hdu : ∀ k, u.fabD k = s.fabD k := fun k => by rw [State.fabD, hu]; rfl
  have hvf : v.fab = t.fab := by rw [hv]
  have hdv : ∀ k, v.fabD k = t.fabD k := fun k => by rw [State.fabD, hvf]; rfl
  refine ⟨by rw [hvf]; exact hv, by rw [hu, hvf]; exact h.fabs, ?_, ?_, ?_, ?_⟩
  all_goals rw [hdu, hdv]
  · exact h.reeds
  · exact h.activeSet
  · exact h.queues
  · exact h.reed

theorem State.Alike.recOf : t.recOf d r = s.recOf d r := by
  unfold State.recOf State.activeOf
  rw [h.activeSet, h.frame]
  rfl

theorem State.Alike.queue (k : Nat) : (t.fabD d).queue k = (s.fabD d).queue k := by
  rw [FabDie.queue, h.queues]
  rfl

theorem State.Alike.vregs : ((t.fabD d).reed r).vregs = ((s.fabD d).reed r).vregs := by rw [h.reed]
theorem State.Alike.sregs : ((t.fabD d).reed r).sregs = ((s.fabD d).reed r).sregs := by rw [h.reed]
theorem State.Alike.cnt (i : Nat) : ((t.fabD d).reed r).cnt i = ((s.fabD d).reed r).cnt i := by
  rw [h.reed]
  rfl

theorem State.Alike.portHead (p : Nat) : t.portHead d r p = s.portHead d r p := by
  unfold State.portHead
  rw [h.recOf]
  split
  · rfl
  · rw [h.queue]

theorem State.Alike.natAt (a n : Nat) : t.natAt a n = s.natAt a n := by
  rw [h.frame]
  rfl

theorem State.Alike.levView (k : Nat) : t.levView d k = s.levView d k := by
  rw [h.frame]
  rfl

theorem State.Alike.rounding (sr : Bool) (tensor mb n : Nat) : t.rounding sr tensor mb n = s.rounding sr tensor mb n := by
  rw [h.frame]
  rfl

theorem State.Alike.used : (s.used 1).Alike (t.used 1) d r := by
  refine h.beside rfl ?_
  rw [h.frame]
  rfl

theorem State.Alike.operand (i : RInstr) (c : Nat) : t.operand d r i c = s.operand d r i c := by
  unfold State.operand
  simp only [h.recOf, h.vregs, h.sregs, h.cnt, h.portHead, h.natAt]

theorem State.Alike.popPort (p : Nat) : (s.popPort d r p).Alike (t.popPort d r p) d r := by
  unfold State.popPort
  rw [h.recOf]
  split
  · exact h
  · refine h.setFab h.reeds h.activeSet ?_ h.reed
    simp only [FabDie.setQueue, h.queue, h.queues]

theorem State.Alike.pushOut (p : Nat) (e : Entry) : (s.pushOut d r p e).Alike (t.pushOut d r p e) d r := by
  unfold State.pushOut
  refine h.setFab h.reeds h.activeSet ?_ h.reed
  simp only [FabDie.setQueue, h.queue, h.queues]

theorem State.Alike.setReed {x y : ReedRun} (hxy : y = { x with waits := y.waits }) :
    (s.setFab d ((s.fabD d).setReed r x)).Alike (t.setFab d ((t.fabD d).setReed r y)) d r := by
  obtain ⟨hs, ht⟩ := h.reeds
  refine h.setFab ⟨FabDie.setReed_ordered hs r x, FabDie.setReed_ordered ht r y⟩ h.activeSet h.queues ?_
  rw [FabDie.reed_setReed_same hs, FabDie.reed_setReed_same ht]
  exact hxy

theorem State.Alike.storeNat (a n v : Nat) : (s.storeNat a n v).Alike (t.storeNat a n v) d r := by
  refine h.beside rfl ?_
  rw [h.frame]
  rfl

/-- An instruction has the same value in both, and what it reports is the same. -/
theorem State.Alike.instrValue (i : RInstr) :
    (t.instrValue d r i).1 = (s.instrValue d r i).1 ∧ (s.instrValue d r i).2.Alike (t.instrValue d r i).2 d r := by
  have hvalue : (t.instrValue d r i).1 = (s.instrValue d r i).1 ∧ (t.instrValue d r i).2 = { (s.instrValue d r i).2 with fab := t.fab } := by
    unfold State.instrValue
    simp only [h.operand, h.vregs, h.sregs, h.natAt, h.levView, h.rounding]
    generalize s.operand d r i i.sa = a, s.operand d r i i.sb = b, s.operand d r i i.sc = c
    have hframe := h.frame
    generalize t.fab = fab at hframe ⊢
    subst hframe
    split
    case h_10 => exact ⟨rfl, s.levReport_fab fab d _ _⟩
    case h_11 => exact ⟨rfl, s.levReport_fab fab d _ _⟩
    all_goals exact ⟨rfl, rfl⟩
  obtain ⟨hval, hstate⟩ := hvalue
  obtain ⟨l, hl⟩ := s.instrValue_frame d r i
  exact ⟨hval, h.beside (by rw [hl]) hstate⟩

theorem State.Alike.popPorts (l : List Nat) :
    (l.foldl (fun u p => u.popPort d r p) s).Alike (l.foldl (fun u p => u.popPort d r p) t) d r := by
  induction l generalizing s t with
  | nil => exact h
  | cons p l ih =>
    rw [List.foldl_cons, List.foldl_cons]
    exact ih (h.popPort p)

theorem State.Alike.writeDst (i : RInstr) (v : Nat) : (s.writeDst d r i v).Alike (t.writeDst d r i v) d r := by
  have hfree : ∀ n, t.fresh n = s.fresh n := fun n => by
    rw [h.frame]
    rfl
  unfold State.writeDst
  simp only [h.vregs, h.sregs, hfree]
  split
  · refine h.setReed ?_
    rw [h.reed]
  · split
    · exact (h.pushOut _ _).used
    · split
      · refine h.setReed ?_
        rw [h.reed]
      · split
        · exact h.pushOut _ _
        · split
          · split <;> exact h.storeNat _ _ _
          · exact h

theorem State.Alike.instr (i : RInstr) : (s.instr d r i).Alike (t.instr d r i) d r := by
  obtain ⟨hval, hstate⟩ := h.instrValue i
  unfold State.instr
  split
  · exact h
  · exact h.pushOut _ _
  · dsimp only
    rw [hval]
    exact (hstate.popPorts i.pops).writeDst i _

/-- A body runs alike in both. -/
theorem State.Alike.body (b : List RInstr) : (s.body d r b).Alike (t.body d r b) d r := by
  induction b generalizing s t with
  | nil => exact h
  | cons i b ih => exact ih (h.instr i)

end

end Sys2Proof.Machine
end

section
/-! The counters of a reed that step on a cause (R150). -/

namespace Sys2Proof.Machine

/-- A step of a counter writes counters alone, and of them the one that steps. -/
theorem stepCounter_eq (rec0 : List Nat) (x : ReedRun) (i : Nat) : stepCounter rec0 x i = x ∨ ∃ c, stepCounter rec0 x i = x.setCnt i c := by
  unfold stepCounter
  dsimp only
  split
  · exact Or.inr ⟨_, rfl⟩
  · split
    · exact Or.inl rfl
    · exact Or.inr ⟨_, rfl⟩

section
variable {x : ReedRun} (h : x.cnts.ordered) (rec0 : List Nat) (i : Nat)

theorem stepCounter_frame (x : ReedRun) : stepCounter rec0 x i = { x with cnts := (stepCounter rec0 x i).cnts } := by
  rcases stepCounter_eq rec0 x i with hx | ⟨c, hx⟩ <;> rw [hx]
  rfl

include h

theorem stepCounter_ordered : (stepCounter rec0 x i).cnts.ordered := by
  rcases stepCounter_eq rec0 x i with hx | ⟨c, hx⟩ <;> rw [hx]
  · exact h
  · exact ReedRun.setCnt_ordered h i c

theorem stepCounter_cnt_other {j : Nat} (hj : j ≠ i) : (stepCounter rec0 x i).cnt j = x.cnt j := by
  rcases stepCounter_eq rec0 x i with hx | ⟨c, hx⟩ <;> rw [hx]
  exact ReedRun.cnt_setCnt_other h i c hj

/-- A counter below its limit counts one more, and falls due at the limit. -/
theorem stepCounter_cnt_same {l : Nat} (hl : limitNow rec0 x i = some l) (hpos : 0 < l) (hdue : (x.cnt i).due = false) :
    (stepCounter rec0 x i).cnt i = { x.cnt i with count := (x.cnt i).count + 1, due := decide (l ≤ (x.cnt i).count + 1) } := by
  have hstep : stepCounter rec0 x i =
      x.setCnt i { x.cnt i with count := (x.cnt i).count + 1, due := decide (l ≤ (x.cnt i).count + 1) } := by
    unfold stepCounter
    rw [hl]
    exact if_neg (by simp [hdue, Nat.ne_of_gt hpos])
  rw [hstep, ReedRun.cnt_setCnt_same h]

end

theorem limitNow_congr {rec0 : List Nat} {x y : ReedRun} {i : Nat} (h : y.cnt i = x.cnt i) : limitNow rec0 y i = limitNow rec0 x i := by
  rw [limitNow, limitNow, h]

section
variable {x : ReedRun} (h : x.cnts.ordered) (rec0 : List Nat) (cause : Nat)

theorem stepCounters_frame (x : ReedRun) : stepCounters rec0 x cause = { x with cnts := (stepCounters rec0 x cause).cnts } :=
  List.foldlRecOn (motive := fun y : ReedRun => y = { x with cnts := y.cnts }) [0, 1, 2, 3] _ rfl fun y hy i _ => by
    split
    · rw [stepCounter_frame, hy]
    · exact hy

include h

theorem stepCounters_ordered : (stepCounters rec0 x cause).cnts.ordered :=
  List.foldlRecOn (motive := fun y : ReedRun => y.cnts.ordered) [0, 1, 2, 3] _ h fun y hy i _ => by
    split
    · exact stepCounter_ordered hy rec0 i
    · exact hy

/-- A counter that does not step on the cause keeps its count. -/
theorem stepCounters_cnt_of_ne {i : Nat} (hi : rrStepOn rec0 i ≠ cause) : (stepCounters rec0 x cause).cnt i = x.cnt i :=
  (List.foldlRecOn (motive := fun y : ReedRun => y.cnts.ordered ∧ y.cnt i = x.cnt i) [0, 1, 2, 3] _ ⟨h, rfl⟩ fun y hy j _ => by
    obtain ⟨hord, hsame⟩ := hy
    split
    · refine ⟨stepCounter_ordered hord rec0 j, (stepCounter_cnt_other hord rec0 j fun hij => ?_).trans hsame⟩
      exact hi (hij ▸ ‹_›)
    · exact ⟨hord, hsame⟩).2

/-- A counter that steps on the cause steps once. -/
theorem stepCounters_cnt_of_eq {i l : Nat} (hi : i < 4) (hon : rrStepOn rec0 i = cause) (hl : limitNow rec0 x i = some l) (hpos : 0 < l)
    (hdue : (x.cnt i).due = false) :
    (stepCounters rec0 x cause).cnt i = { x.cnt i with count := (x.cnt i).count + 1, due := decide (l ≤ (x.cnt i).count + 1) } := by
  have hother : ∀ (y : ReedRun) (j : Nat), j ≠ i → y.cnts.ordered →
      (if rrStepOn rec0 j = cause then stepCounter rec0 y j else y).cnts.ordered ∧
        (if rrStepOn rec0 j = cause then stepCounter rec0 y j else y).cnt i = y.cnt i := by
    intro y j hj hy
    split
    · exact ⟨stepCounter_ordered hy rec0 j, stepCounter_cnt_other hy rec0 j hj.symm⟩
    · exact ⟨hy, rfl⟩
  refine (foldl_once (P := fun y : ReedRun => y.cnts.ordered ∧ y.cnt i = x.cnt i)
    (Q := fun y : ReedRun => y.cnts.ordered ∧
      y.cnt i = { x.cnt i with count := (x.cnt i).count + 1, due := decide (l ≤ (x.cnt i).count + 1) })
    (a := i) (fun y j hj hy => ?_) (fun y hy => ?_) (fun y j hj hy => ?_) [0, 1, 2, 3] (by decide) (by simp; omega) x ⟨h, rfl⟩).2
  · obtain ⟨hord, hsame⟩ := hother y j hj hy.1
    exact ⟨hord, hsame.trans hy.2⟩
  · obtain ⟨hord, hsame⟩ := hy
    rw [if_pos hon]
    refine ⟨stepCounter_ordered hord rec0 i, ?_⟩
    rw [stepCounter_cnt_same hord rec0 i ((limitNow_congr hsame).trans hl) hpos (hsame ▸ hdue), hsame]
  · obtain ⟨hord, hsame⟩ := hother y j hj hy.1
    exact ⟨hord, hsame.trans hy.2⟩

end

end Sys2Proof.Machine
end

section
/-! A firing, a wrap and the steering tokens: what they leave before the fabric settles (R145, R146, R150, R152). -/

namespace Sys2Proof.Machine

/-- A reed that has made one firing more, with the counters stepped that step on it. -/
def ReedRun.firedOnce (rec0 : List Nat) (x : ReedRun) : ReedRun := { stepCounters rec0 x 0 with firings := x.firings + 1 }

/-- A reed that has run its main body and stepped its counters. -/
def State.fired (s : State) (d r : Nat) : State :=
  let t := (s.noteIssue d r).body d r (rrMain (s.recOf d r))
  t.setFab d ((t.fabD d).setReed r (ReedRun.firedOnce (s.recOf d r) ((t.fabD d).reed r)))

/-- A reed of which counter `c` is back at 0; the next counter steps where it steps on a wrap. -/
def ReedRun.wrapped (rec0 : List Nat) (x : ReedRun) (c : Nat) : ReedRun :=
  if c + 1 < 4 ∧ rrStepOn rec0 (c + 1) = 1 then stepCounter rec0 (x.setCnt c Counter.zero) (c + 1) else x.setCnt c Counter.zero

/-- The run that GO armed ends, with its DONE (R145). -/
def State.runEnded (s : State) (d r : Nat) (rec0 : List Nat) : State :=
  let t := s.setFab d ((s.fabD d).setReed r { (s.fabD d).reed r with armed := false })
  if rrDoneEn rec0 then t.pushOut d r 10 (tokenEntry 6 (rrDoneTag rec0)) else t

/-- A reed of which a counter has wrapped: the END, the wrap body, and the end of the run. -/
def State.wrapped (s : State) (d r c : Nat) : State :=
  let rec0 := s.recOf d r
  let t := s.setFab d ((s.fabD d).setReed r (ReedRun.wrapped rec0 ((s.fabD d).reed r) c))
  let u := if rrEmitEnd rec0 c then t.pushOut d r 10 (tokenEntry 4 (rrEndTag rec0 c)) else t
  let v := (u.noteIssue d r).body d r (wrapBody rec0 c)
  if endsRun rec0 c then v.runEnded d r rec0 else v

/-- A steering reed that has passed one entry of a run of `n`. -/
def State.passed (s : State) (d r n : Nat) : State :=
  let t := s.noteIssue d r
  let x := (t.fabD d).reed r
  if n ≤ x.runPos + 1 then
    (t.setFab d ((t.fabD d).setReed r { ReedRun.firedOnce (t.recOf d r) x with runPos := 0 })).popPort d r 6
  else t.setFab d ((t.fabD d).setReed r { x with runPos := x.runPos + 1 })

theorem State.steered_eq (s : State) (d r n : Nat) : s.steered d r n = (s.passed d r n).settle d := by
  unfold State.steered State.passed
  dsimp only
  split <;> rfl

section
variable {s : State} {d : Die} {r : Reed} (hs : s.bel.stopped = false)
include hs

theorem exec_reedFiring (hkind : rrKind ((s.loadLimits d r).recOf d r) = 1)
    (harmed : armed ((s.loadLimits d r).recOf d r) (((s.loadLimits d r).fabD d).reed r) = true)
    (hready : countersReady ((s.loadLimits d r).recOf d r) (((s.loadLimits d r).fabD d).reed r) = true)
    (hcredit : (s.loadLimits d r).credit d r (rrMain ((s.loadLimits d r).recOf d r)) 0 = true)
    (hpresent : ((firingSet ((s.loadLimits d r).recOf d r)).all fun p => ((s.loadLimits d r).portHead d r p).isSome) = true)
    (hclean : (s.loadLimits d r).lsPoison d r (rrMain ((s.loadLimits d r).recOf d r)) = false) :
    exec (.reedFiring d r) s = .next (((s.loadLimits d r).fired d r).settle d) := by
  show execReedFiring d r s = _
  unfold execReedFiring
  rw [if_neg (by simp [State.still, hs])]
  dsimp only
  rw [if_neg (by simp [hkind, harmed, hready, hcredit, hpresent]), if_neg (by simp [hclean])]
  rfl

theorem exec_counterWrap {c : Fin 4} (hown : hasCounters ((s.loadLimits d r).recOf d r) = true)
    (harmed : armed ((s.loadLimits d r).recOf d r) (((s.loadLimits d r).fabD d).reed r) = true)
    (hdue : ((((s.loadLimits d r).fabD d).reed r).cnt c).due = true)
    (hcredit : (s.loadLimits d r).credit d r (wrapBody ((s.loadLimits d r).recOf d r) c)
      (wrapTokens ((s.loadLimits d r).recOf d r) c) = true)
    (hclean : (s.loadLimits d r).lsPoison d r (wrapBody ((s.loadLimits d r).recOf d r) c) = false) :
    exec (.counterWrap d r c) s = .next (((s.loadLimits d r).wrapped d r c).settle d) := by
  have hstopped : (((s.loadLimits d r).fabD d).reed r).stopped = false := by
    simp only [armed, Bool.and_eq_true, Bool.not_eq_true'] at harmed
    exact harmed.1
  show execCounterWrap d r c s = _
  unfold execCounterWrap
  rw [if_neg (by simp [State.still, hs])]
  dsimp only
  rw [if_neg (by simp [hown, hstopped, hdue, hcredit]), if_neg (by simp [hclean])]
  rfl

theorem exec_sel {e x : Entry} (he : (s.loadLimits d r).portHead d r 6 = some e) (htoken : e.bits / 16 % 16 = 2)
    (hkind : rrKind ((s.loadLimits d r).recOf d r) = 2 ∨ rrKind ((s.loadLimits d r).recOf d r) = 3) (hi : e.bits % 16 < 4)
    (hvi : rrVi ((s.loadLimits d r).recOf d r) (e.bits % 16) ≠ 0) (hx : (s.loadLimits d r).portHead d r (e.bits % 16) = some x)
    (hout : (s.loadLimits d r).outCredit d r 7 ≠ 0) (hsteers : (s.loadLimits d r).steers d r = true) :
    exec (.sel d (.reed r)) s = .next ((State.passed (((s.loadLimits d r).popPort d r (e.bits % 16)).pushOut d r 7 x) d r
      (if rrKind ((s.loadLimits d r).recOf d r) = 2 then 1 else rrRun ((s.loadLimits d r).recOf d r))).settle d) := by
  show execSel d (.reed r) s = _
  unfold execSel
  rw [if_neg (by simp [State.still, hs])]
  dsimp only
  rw [he]
  dsimp only
  rw [if_neg (fun h => h htoken), if_neg (by rcases hkind with hk | hk <;> simp [hk, hi, hvi])]
  rw [hx]
  dsimp only
  rw [if_neg (by simp [hout, hsteers]), State.steered_eq]

theorem exec_br {e x : Entry} (he : (s.loadLimits d r).portHead d r 6 = some e) (htoken : e.bits / 16 % 16 = 3)
    (hkind : rrKind ((s.loadLimits d r).recOf d r) = 4) (hi : e.bits % 16 < 3) (hx : (s.loadLimits d r).portHead d r 0 = some x)
    (hout : e.bits % 16 < 2 → (s.loadLimits d r).outCredit d r (7 + e.bits % 16) ≠ 0) (hsteers : (s.loadLimits d r).steers d r = true) :
    exec (.br d (.reed r)) s = .next ((State.passed
      (if e.bits % 16 < 2 then ((s.loadLimits d r).popPort d r 0).pushOut d r (7 + e.bits % 16) x else (s.loadLimits d r).popPort d r 0) d r
      (rrRun ((s.loadLimits d r).recOf d r))).settle d) := by
  show execBr d (.reed r) s = _
  unfold execBr
  rw [if_neg (by simp [State.still, hs])]
  dsimp only
  rw [he]
  dsimp only
  rw [if_neg (fun h => h htoken), if_neg (by simp [hkind, hi])]
  rw [hx]
  dsimp only
  rw [if_neg (by simpa [hsteers] using hout), State.steered_eq]

end

end Sys2Proof.Machine
end

section
/-! How a firing, a wrap and a steering token leave their reed (R145, R146, R149, R150, R152). -/

namespace Sys2Proof.Machine

theorem ReedRun.wrapped_frame (rec0 : List Nat) (x : ReedRun) (c : Nat) :
    ReedRun.wrapped rec0 x c = { x with cnts := (ReedRun.wrapped rec0 x c).cnts } := by
  unfold ReedRun.wrapped
  split
  · rw [stepCounter_frame]
    rfl
  · rfl

section
variable {x : ReedRun} (h : x.cnts.ordered) (rec0 : List Nat) (c : Nat)
include h

theorem ReedRun.wrapped_ordered : (ReedRun.wrapped rec0 x c).cnts.ordered := by
  have hzero := ReedRun.setCnt_ordered h c Counter.zero
  unfold ReedRun.wrapped
  split
  · exact stepCounter_ordered hzero rec0 (c + 1)
  · exact hzero

/-- The counter that wraps is back at 0. -/
theorem ReedRun.wrapped_cnt_same : (ReedRun.wrapped rec0 x c).cnt c = Counter.zero := by
  have hzero := ReedRun.setCnt_ordered h c Counter.zero
  unfold ReedRun.wrapped
  split
  · rw [stepCounter_cnt_other hzero rec0 (c + 1) (Nat.ne_of_lt (Nat.lt_add_one c)), ReedRun.cnt_setCnt_same h]
  · exact ReedRun.cnt_setCnt_same h c _

/-- The next counter steps where it steps on a wrap. -/
theorem ReedRun.wrapped_cnt_next {l : Nat} (hc : c + 1 < 4) (hon : rrStepOn rec0 (c + 1) = 1) (hl : limitNow rec0 x (c + 1) = some l)
    (hpos : 0 < l) (hdue : (x.cnt (c + 1)).due = false) :
    ((ReedRun.wrapped rec0 x c).cnt (c + 1)).count = (x.cnt (c + 1)).count + 1 := by
  have hother : (x.setCnt c Counter.zero).cnt (c + 1) = x.cnt (c + 1) :=
    ReedRun.cnt_setCnt_other h c _ (Nat.ne_of_gt (Nat.lt_add_one c))
  rw [ReedRun.wrapped, if_pos ⟨hc, hon⟩, stepCounter_cnt_same (ReedRun.setCnt_ordered h c _) rec0 (c + 1)
    ((limitNow_congr hother).trans hl) hpos (hother ▸ hdue), hother]

end

/-- A token comes from a source of the token network (R154). -/
theorem portSrc_token {rec0 : List Nat} {src : Nat} (h : portSrc rec0 6 = some src) : 16 ≤ src := by
  have hnet : ∀ c, 16 ≤ srcCode 2 c := fun c => by
    show 16 ≤ if c ≤ 4 then 16 + (c - 1) else 20
    split <;> omega
  obtain ⟨-, h⟩ := Option.ite_none_left_eq_some.mp h
  cases h
  exact hnet _

theorem ReedRun.firedOnce_frame (rec0 : List Nat) (x : ReedRun) :
    ReedRun.firedOnce rec0 x = { x with firings := x.firings + 1, cnts := (stepCounters rec0 x 0).cnts } := by
  rw [ReedRun.firedOnce, stepCounters_frame]

theorem ReedRun.firedOnce_ordered {x : ReedRun} (h : x.cnts.ordered) (rec0 : List Nat) : (ReedRun.firedOnce rec0 x).cnts.ordered :=
  stepCounters_ordered h rec0 0

section
variable {s t : State} {d r : Nat} {x : ReedRun} (h : s.Works t d r x)
include h

/-- A reed that has counted an issue is like one that has not. -/
theorem State.Works.alike_noteIssue : t.Alike (t.noteIssue d r) d r := by
  have hrefl : t.Alike t d r := ⟨rfl, ⟨h.fabs, h.fabs⟩, ⟨h.reeds, h.reeds⟩, rfl, rfl, rfl⟩
  unfold State.noteIssue
  split
  · refine ⟨rfl, ⟨h.fabs, State.setFab_ordered h.fabs _⟩, ⟨h.reeds, ?_⟩, ?_, ?_, ?_⟩
    all_goals rw [State.updFab, State.fabD_setFab_same h.fabs]
    · exact FabDie.setReed_ordered h.reeds r _
    · rfl
    · rfl
    · rw [FabDie.reed_setReed_same h.reeds]
  · exact hrefl

/-- A firing leaves what the main body leaves, with the counters stepped that step on it and one firing more. -/
theorem State.Works.fired : (((t.body d r (rrMain (t.recOf d r))).fabD d).reed r).cnts.ordered ∧
    ∃ w, s.Works (t.fired d r) d r
      (ReedRun.firedOnce (t.recOf d r) { ((t.body d r (rrMain (t.recOf d r))).fabD d).reed r with waits := w }) := by
  obtain ⟨w, hissue⟩ := h.noteIssue
  obtain ⟨vr, sr, hbody⟩ := hissue.body (rrMain (t.recOf d r))
  obtain ⟨vr', sr', hplain⟩ := h.body (rrMain (t.recOf d r))
  have hreed := (h.alike_noteIssue.body (rrMain (t.recOf d r))).reed
  unfold State.fired
  dsimp only
  generalize (t.noteIssue d r).body d r (rrMain (t.recOf d r)) = u at hbody hreed ⊢
  generalize t.body d r (rrMain (t.recOf d r)) = v at hplain hreed ⊢
  have hcnts : ((v.fabD d).reed r).cnts.ordered := hplain.reed ▸ h.cnts
  refine ⟨hcnts, ((u.fabD d).reed r).waits, ?_⟩
  rw [← hreed]
  refine State.Works.setReed hbody (ReedRun.firedOnce_ordered ?_ _)
  rw [hreed]
  exact hcnts

/-- The end of a run leaves the reed unarmed. -/
theorem State.Works.runEnded (rec0 : List Nat) : s.Works (t.runEnded d r rec0) d r { x with armed := false } := by
  have hset := State.Works.setReed h (x := { x with armed := false }) h.cnts
  unfold State.runEnded
  dsimp only
  rw [h.reed]
  exact (hset.pushOut _ _).ite hset

/-- A wrap leaves the counters wrapped, and of a run that GO armed the reed unarmed where the wrap ends it. -/
theorem State.Works.wrapped (c : Nat) : ∃ w vr sr, s.Works (t.wrapped d r c) d r { ReedRun.wrapped (t.recOf d r) x c with
    armed := if endsRun (t.recOf d r) c then false else x.armed, waits := w, vregs := vr, sregs := sr } := by
  have hx := h.reed
  subst hx
  have hwrap := ReedRun.wrapped_ordered h.cnts (t.recOf d r) c
  have hframe := ReedRun.wrapped_frame (t.recOf d r) ((t.fabD d).reed r) c
  have hset := h.setReed hwrap
  unfold State.wrapped
  dsimp only
  generalize ReedRun.wrapped (t.recOf d r) ((t.fabD d).reed r) c = z at hset hframe hwrap ⊢
  obtain ⟨w, hissue⟩ := ((hset.pushOut 10 (tokenEntry 4 (rrEndTag (t.recOf d r) c))).ite
    (c := rrEmitEnd (t.recOf d r) c = true) hset).noteIssue
  obtain ⟨vr, sr, hbody⟩ := hissue.body (wrapBody (t.recOf d r) c)
  have harmed : z.armed = ((t.fabD d).reed r).armed := by rw [hframe]
  refine ⟨w, vr, sr, ?_⟩
  by_cases hend : endsRun (t.recOf d r) c = true
  · rw [if_pos hend, if_pos hend]
    exact hbody.runEnded _
  · rw [if_neg hend, if_neg hend, ← harmed]
    exact hbody

/-- An entry that is not the last of a run moves the reed on; with the last it has made one firing more. -/
theorem State.Works.passed (n : Nat) : ∃ w,
    (n ≤ x.runPos + 1 → s.Works (t.passed d r n) d r
      { ReedRun.firedOnce (t.recOf d r) { x with waits := w } with runPos := 0 }) ∧
    (x.runPos + 1 < n → s.Works (t.passed d r n) d r { x with runPos := x.runPos + 1, waits := w }) := by
  obtain ⟨w, hissue⟩ := h.noteIssue
  have hrec : (t.noteIssue d r).recOf d r = t.recOf d r := hissue.recOf.trans h.recOf.symm
  refine ⟨w, fun hn => ?_, fun hn => ?_⟩
  · unfold State.passed
    dsimp only
    rw [hissue.reed, if_pos hn, hrec]
    refine State.Works.popPort (State.Works.setReed hissue ?_) 6
    exact ReedRun.firedOnce_ordered (x := { x with waits := w }) h.cnts _
  · unfold State.passed
    dsimp only
    rw [hissue.reed, if_neg (Nat.not_le.mpr hn)]
    refine State.Works.setReed hissue ?_
    exact h.cnts

/-- The outputs stand as they stood: only the token leaves, which is on no output. -/
theorem State.Works.passed_queue {o : Nat} (ho : o < 16) (n : Nat) :
    ((t.passed d r n).fabD d).queue (qKey r o) = (t.fabD d).queue (qKey r o) := by
  obtain ⟨w, hissue⟩ := h.noteIssue
  unfold State.passed
  dsimp only
  rw [← h.noteIssue_queue (qKey r o)]
  split
  · have hset := hissue.setReed (x := { ReedRun.firedOnce ((t.noteIssue d r).recOf d r) ((t.noteIssue d r).fabD d |>.reed r) with runPos := 0 })
      (ReedRun.firedOnce_ordered (hissue.reed ▸ hissue.cnts) _)
    refine (hset.popPort_queue fun src hsrc => ?_).trans (hissue.setReed_queue _ _)
    have := portSrc_token hsrc
    unfold qKey
    omega
  · exact hissue.setReed_queue _ _

end

end Sys2Proof.Machine
end

section
/-! O50: the commands are those of the lemmas before, and the fabric then settles. -/

namespace Sys2Proof.Machine

/-- An entry that was pushed to an output is still its newest once the steering token has been spent. -/
theorem State.Works.pushed_passed {s t : State} {d r : Nat} {x : ReedRun} (h : s.Works t d r x) {p : Nat} (hp : outSrc p < 16) (e : Entry)
    (n : Nat) : ((((t.pushOut d r p e).passed d r n).fabD d).queue (qKey r (outSrc p))).items.getLast? = some e := by
  rw [(h.pushOut p e).passed_queue hp n]
  exact h.pushOut_newest p e

/-- A steering reed after an entry of a run of `n`: the last one is a firing, with the counters stepped that step on it; another moves the
reed on (R152; log entry 165). -/
theorem State.Works.steered {s t : State} {d r : Nat} {y : ReedRun} (h : s.Works t d r y) (hd : d < 4) (n : Nat) {u : State}
    (hu : u = (t.passed d r n).settle d) :
    u.ctl = s.ctl ∧ u.fuse = s.fuse ∧ (∀ k, k ≠ d → u.fabD k = s.fabD k) ∧
      (n ≤ y.runPos + 1 → ((u.fabD d).reed r).runPos = 0 ∧ ((u.fabD d).reed r).firings = y.firings + 1 ∧
        ∀ i, rrStepOn (t.recOf d r) i ≠ 0 → ((u.fabD d).reed r).cnt i = y.cnt i) ∧
      (y.runPos + 1 < n → ((u.fabD d).reed r).runPos = y.runPos + 1 ∧ ((u.fabD d).reed r).firings = y.firings ∧
        ((u.fabD d).reed r).cnts = y.cnts) := by
  subst hu
  obtain ⟨w, hlast, hgoes⟩ := h.passed n
  rcases Nat.lt_or_ge (y.runPos + 1) n with hn | hn
  · obtain ⟨hctl, hfuse, hothers, b, hz⟩ := (hgoes hn).settle hd
    refine ⟨hctl, hfuse, hothers, fun hle => absurd hn (Nat.not_lt.mpr hle), fun _ => ?_⟩
    rw [hz]
    exact ⟨rfl, rfl, rfl⟩
  · obtain ⟨hctl, hfuse, hothers, b, hz⟩ := (hlast hn).settle hd
    refine ⟨hctl, hfuse, hothers, fun _ => ?_, fun hlt => absurd hlt (Nat.not_lt.mpr hn)⟩
    rw [hz, ReedRun.firedOnce_frame]
    exact ⟨rfl, rfl, fun i hon => stepCounters_cnt_of_ne (x := { y with waits := w }) h.cnts _ 0 hon⟩

/-- Settles O50: what each command leaves before the fabric settles is a lemma of its own, and settling leaves what the reed holds. -/
theorem reedFirings : Obligations.ReedFirings := by
  unfold Obligations.ReedFirings
  refine ⟨?_, ?_, ?_, ?_⟩
  · intro s d r hs htab s0 rec0 x y hkind harmed hready hcredit hpresent hclean
    have h : s.Works s0 d r x := State.Works.loadLimits htab d r
    obtain ⟨hcnts, w, hfired⟩ := h.fired
    obtain ⟨hctl, hfuse, hothers, b, hz⟩ := hfired.settle d.isLt
    have hexec := exec_reedFiring hs hkind harmed hready hcredit hpresent hclean
    refine ⟨_, hexec, hctl, hfuse, hothers, ?_⟩
    rw [hz, ReedRun.firedOnce_frame]
    refine ⟨rfl, rfl, rfl, rfl, rfl, fun i hi => ⟨fun hon => ?_, fun l hon hl hpos hdue => ?_⟩⟩
    · exact stepCounters_cnt_of_ne (x := { y with waits := w }) hcnts rec0 0 hon
    · have hstep := stepCounters_cnt_of_eq (x := { y with waits := w }) hcnts rec0 0 hi hon hl hpos hdue
      exact ⟨congrArg Counter.count hstep, congrArg Counter.due hstep⟩
  · intro s d r c hs htab s0 rec0 x hown harmed hdue hcredit hclean
    have h : s.Works s0 d r x := State.Works.loadLimits htab d r
    obtain ⟨w, vr, sr, hwrapped⟩ := h.wrapped c
    obtain ⟨hctl, hfuse, hothers, b, hz⟩ := hwrapped.settle d.isLt
    have hexec := exec_counterWrap hs hown harmed hdue hcredit hclean
    refine ⟨_, hexec, hctl, hfuse, hothers, ?_⟩
    rw [hz]
    refine ⟨ReedRun.wrapped_cnt_same h.cnts _ c, ?_, rfl, fun l hc hon hl hpos hfree => ?_⟩
    · rw [ReedRun.wrapped_frame]
    · exact ReedRun.wrapped_cnt_next h.cnts _ c hc hon hl hpos hfree
  · intro s d r e x hs htab s0 rec0 y n he htoken hkind hi hvi hx hout hsteers
    have h : s.Works s0 d r y := State.Works.loadLimits htab d r
    have hpop := h.popPort (e.bits % 16)
    have hpush := hpop.pushOut 7 x
    have hrec : (((s0.popPort d r (e.bits % 16)).pushOut d r 7 x).recOf d r) = rec0 := hpush.recOf.trans h.recOf.symm
    have hexec := exec_sel hs he htoken hkind hi hvi hx hout hsteers
    obtain ⟨hctl, hfuse, hothers, hlast, hgoes⟩ := hpush.steered d.isLt n rfl
    rw [hrec] at hlast
    refine ⟨_, _, hexec, rfl, hpop.pushed_passed (p := 7) (by decide) x n, hctl, hfuse, hothers, fun hn => ?_, hgoes⟩
    obtain ⟨hpos, hfirings, hcnts⟩ := hlast hn
    exact ⟨hpos, hfirings, fun i _ => hcnts i⟩
  · intro s d r e x hs htab s0 rec0 y he htoken hkind hi hx hout hsteers
    have h : s.Works s0 d r y := State.Works.loadLimits htab d r
    have hpop := h.popPort 0
    have hpush := (hpop.pushOut (7 + e.bits % 16) x).ite (c := e.bits % 16 < 2) hpop
    have hexec := exec_br hs he htoken hkind hi hx hout hsteers
    obtain ⟨hctl, hfuse, hothers, hlast, hgoes⟩ := hpush.steered d.isLt (rrRun rec0) rfl
    refine ⟨_, _, hexec, rfl, fun hlt => ?_, hctl, hfuse, hothers, fun hn => ?_, hgoes⟩
    · have hsrc : outSrc (7 + e.bits % 16) = 5 + e.bits % 16 := by
        interval_cases e.bits % 16 <;> rfl
      rw [if_pos hlt, ← hsrc]
      exact hpop.pushed_passed (hsrc ▸ by omega) x _
    · obtain ⟨hpos, hfirings, -⟩ := hlast hn
      exact ⟨hpos, hfirings⟩

end Sys2Proof.Machine
end

section
/-! O53 fails for a boundary ring that lies outside what a stream port reaches. R179 checks BND_DEPTH and takes any BND_BASE; SEND then writes
the unit record, the write is turned away, and MEM_UNMAPPED is raised (R280). The frame that the statement gives SEND lets the event block change
and not the counters, but a record that finds the queue of its source full is counted in LOST (R420). -/

namespace Sys2Proof.Machine

/-- LOST of the event page (R420). -/
abbrev lostCounter : Nat := regAddr Page.event 0x44

/-- A fault that finds the queue of its source full is counted in LOST (R420). -/
theorem State.raise_counts_lost {s : State} {page code : Nat} (h : s.cnt.ordered) (hcode : Code.isFault code = true)
    (hfull : queueDepth ≤ (s.evt.queues.get [] page).length) (pl : List Byte) :
    (s.raise page code pl).cntAt lostCounter = s.cntAt lostCounter + 1 := by
  have hraised : (s.raise page code pl).cnt = (s.count lostCounter 1).cnt := by
    simp [State.raise, State.masked, hcode, hfull]
  unfold State.cntAt
  rw [hraised]
  exact State.cntAt_count_same h _ _

/-- So is the report of a write that is turned away (R280, R420). -/
theorem State.storeFor_counts_lost {s : State} {u : MemUnit} {addr c : Nat} {bs : List Byte} (h : s.cnt.ordered)
    (haway : s.spanFault u addr bs.length true = some c) (hfull : queueDepth ≤ (s.evt.queues.get [] (unitPage u)).length) (mb : Nat) :
    (s.storeFor u addr bs mb).cntAt lostCounter = s.cntAt lostCounter + 1 := by
  simp only [State.storeFor, haway]
  exact State.raise_counts_lost h rfl hfull (memPayload (s.fresh 16).toNat addr 0xFF c 0 0 mb)

/-- The record that SEND writes at the start of an entry takes 64 bytes (R177). -/
theorem State.putRecord_counts_lost {s : State} {d addr c : Nat} (h : s.cnt.ordered)
    (haway : s.spanFault (spUnit d 0) addr 64 true = some c)
    (hfull : queueDepth ≤ (s.evt.queues.get [] (unitPage (spUnit d 0))).length) (u : List Nat) :
    (s.putRecord d addr u).cntAt lostCounter = s.cntAt lostCounter + 1 := by
  have hlen : (((List.range 16).map fun i => u.getD i 0).flatMap (leBytes 4)).length = 64 := rfl
  exact State.storeFor_counts_lost h (hlen ▸ haway) hfull 0xFFFF

theorem State.pass_cntAt (s : State) (d : Nat) (p : Phase) (r : PhaseRun) (a : Nat) : (s.pass d p r).cntAt a = s.cntAt a := rfl

/-- Whether an access is turned away does not depend on a Chanter. -/
theorem State.spanFault_setCh (s : State) (n : Nat) (c : ChDie) (u : MemUnit) (addr len : Nat) (write : Bool) :
    (s.setCh n c).spanFault u addr len write = s.spanFault u addr len write := by
  have haccess : (s.setCh n c).accessFault = s.accessFault := rfl
  simp only [State.spanFault, haccess]

/-- SEND to a die counts a lost record where the entry is turned away while the queue of the sender's page is full (R182, R280, R420). -/
theorem State.sendTo_counts_lost {s : State} {d n : Nat} {back : Bool} {c : Nat} (h : s.cnt.ordered)
    (hroom : (s.chD n).ringUsed.get 0 (b2n back) < s.bndDepth n (s.activeOf n))
    (haway : s.spanFault (spUnit d 0) (s.entryAddr n back ((s.chD n).ringNext.get 0 (b2n back))) 64 true = some c)
    (hfull : queueDepth ≤ (s.evt.queues.get [] (unitPage (spUnit d 0))).length) (p : Phase) (r : PhaseRun) (u : List Nat) :
    (s.sendTo d n p r back u).cntAt lostCounter = s.cntAt lostCounter + 1 := by
  simp only [State.sendTo, Nat.not_le.mpr hroom, if_false]
  rw [State.pass_cntAt]
  exact State.putRecord_counts_lost (s := s.setCh n _) h ((State.spanFault_setCh ..).trans haway) hfull u

/-- SEND of a unit forward to a stage of this package (R178, R182). -/
theorem exec_send_forward {s : State} {d : Die} {p : Phase} {r : PhaseRun} {n : Nat} (hs : s.bel.stopped = false) (hop : s.atOp d p r 7)
    (harg : opArg (s.opAt d (s.activeOf d) r.pc) ≠ 1) (hlast : s.stage d + 1 < s.stagesOf d (s.activeOf d))
    (hn : s.dieOfStage (s.stage d + 1) = some n) :
    exec (.send d p) s = .next (s.sendTo d n p r false ((s.chD d).unit r.unit).info) := by
  obtain ⟨hphase, hmay, hwait, hcode, hheld⟩ := hop
  have hissues : ¬(p ≠ .start ∧ (s.chD d).isHeld (urMb ((s.chD d).unit r.unit).info) = true) := by
    rintro ⟨hp, hyes⟩
    exact absurd (hheld.resolve_left hp) (ne_false_of_eq_true hyes)
  show execSend d p s = _
  simp [execSend, State.still, State.chOp, hs, hphase, hmay, hwait, hcode, hissues, harg, Nat.not_le.mpr hlast, hn]

/-- Words of an image that R179 takes, by offset: four stages, one on each die, and boundary rings of one entry from 0x040000000000 on, where no
region lies (R278). The forward program is SEND and END, the other two END alone. -/
def farRingImage : List (Nat × Nat) :=
  [(128, 1024), (132, 208), (1024, 0x5053514E), (1028, 1), (1032, 208), (1036, 0x08441001), (1040, 0x010C2040), (1048, 0x10001),
    (1052, 128), (1056, 160), (1060, 176), (1064, 160), (1072, 0x10), (1076, 64), (1152, 1), (1184, 15), (1200, 7), (1216, 15)]

/-- The bytes of that image in set 0 of a die. -/
def farRingBytes (d : Nat) : List (Nat × Byte) :=
  farRingImage.flatMap fun w => (leBytes 4 w.2).zipIdx.map fun b => (imgKey d 0 (w.1 + b.2), b.1)

/-- A record of CD0 that waits to be admitted. -/
def waitingRecord : EvRec :=
  { source := Page.die 0, code := Code.pipeMbHeld, seq := 1, time := 0, lostBefore := false, fault := true, payload := List.replicate 16 0 }

/-- RUNNING with that image on every die: CD0 stands at the SEND of its first unit, and the queue of its page is full. -/
def farRing : State :=
  { State.reset with
    ctl := { Ctl.reset with state := .running }
    evt := { EvtBlock.reset with queues := ⟨[(Page.die 0, List.replicate queueDepth waitingRecord)]⟩ }
    img := ⟨[0, 1, 2, 3].flatMap farRingBytes⟩
    ch := ⟨[(0, { ChDie.reset with
      inStep := true, started := true, fwd := some (phaseAt 0 176)
      units := ⟨[(0, { PUnit.none with info := unitRecord 0 0 1 0 0 0 [16] })]⟩ })]⟩ }

/-- R179 has no reason against the step program of any die. -/
theorem farRing_acceptable : ∀ d < 4, farRing.programReason d 0 = 0 := by
  decide +kernel

/-- CD0 may carry out its SEND, which goes forward to stage 1. -/
theorem farRing_atOp : farRing.atOp 0 .forward (phaseAt 0 176) 7 ∧ opArg (farRing.opAt 0 (farRing.activeOf 0) 176) ≠ 1 ∧
    farRing.stage 0 + 1 < farRing.stagesOf 0 (farRing.activeOf 0) := by
  decide +kernel

/-- Stage 1 is on CD1, whose forward ring has a free entry. -/
theorem farRing_room : farRing.dieOfStage (farRing.stage 0 + 1) = some 1 ∧
    (farRing.chD 1).ringUsed.get 0 0 < farRing.bndDepth 1 (farRing.activeOf 1) := by
  decide +kernel

/-- That entry is unmapped. -/
theorem farRing_away :
    farRing.spanFault (spUnit 0 0) (farRing.entryAddr 1 false ((farRing.chD 1).ringNext.get 0 0)) 64 true = some 0 := by
  decide +kernel

/-- Refutes O53: a SEND whose boundary entry is unmapped raises MEM_UNMAPPED, and while the queue of the die's page is full the record is counted
in LOST, which the frame of SEND excludes. -/
theorem not_chanterPrograms : ¬ Obligations.ChanterPrograms := by
  unfold Obligations.ChanterPrograms
  rintro ⟨-, -, -, -, -, -, -, -, -, hsend, -⟩
  obtain ⟨hop, harg, hlast⟩ := farRing_atOp
  obtain ⟨hdie, hroom⟩ := farRing_room
  obtain ⟨-, hforward, -, -⟩ := hsend farRing 0 .forward (phaseAt 0 176) rfl (by decide +kernel) hop
  obtain ⟨t, ht, hframe, -⟩ := hforward 1 harg hlast hdie hroom
  rw [exec_send_forward (s := farRing) (d := 0) (r := phaseAt 0 176) rfl hop harg hlast hdie] at ht
  obtain rfl := Host.Outcome.next.inj ht
  have hlost := State.sendTo_counts_lost (s := farRing) (d := 0) rfl hroom farRing_away (by decide +kernel) .forward (phaseAt 0 176)
    ((farRing.chD 0).unit 0).info
  have hsame := congrArg (fun t => t.cntAt lostCounter) hframe
  exact absurd (hlost.symm.trans hsame) (Nat.succ_ne_self _)

end Sys2Proof.Machine
end

section
/-! What the movement of entries through the fabric of a die comes to, for any property of the state: a property that the single acts of movement
keep, the fabric keeps when it settles (R139, R143, R220, R227). -/

namespace Sys2Proof.Machine

/-- `u` differs from `t` at most in memory and its poison marks, engines, fabrics, Chanters, spine, event block and the number of free values
taken: in what movement reaches, but for the counters and the KV units. -/
def State.besideCounts (t u : State) : Prop :=
  u = { t with
    evt := u.evt, mem := u.mem, poison := u.poison, eng := u.eng, fab := u.fab, ch := u.ch, spine := u.spine, freeCtr := u.freeCtr }

/-- The counters that movement on die `d` raises: MASKED and LOST (R419, R420), the dropped and the damaged micro-batches (R199), the poison reads of
a memory die (R291), and the positions of the KV unit that no page holds (R228). -/
inductive MoveCounter (d : Nat) : Nat → Prop
  | masked : MoveCounter d (regAddr Page.event 0x48)
  | lost : MoveCounter d (regAddr Page.event 0x44)
  | dropped : MoveCounter d (regAddr (Page.die d) 0x54)
  | damaged : MoveCounter d (regAddr (Page.die d) 0x58)
  | poisonReads (key : Nat) : MoveCounter d (memCounter key 2)
  | notHeld : MoveCounter d (kvReg d 0x94)

/-- The single acts of movement on die `d` keep `P`. -/
structure State.MovesKeep (P : State → Prop) (d : Nat) : Prop where
  beside : ∀ {t u : State}, P t → t.besideCounts u → P u
  count : ∀ {t : State} {a : Nat}, P t → MoveCounter d a → P (t.count a 1)
  cmds : ∀ {t : State} (cs : List KvCmd), P t → P (t.setKv d { t.kvD d with cmds := cs })

namespace State.MovesKeep

theorem foldl {P : State → Prop} {α : Type} {g : State → α → State} (hg : ∀ u x, P u → P (g u x)) (l : List α) {t : State} (h : P t) :
    P (l.foldl g t) :=
  List.foldlRecOn (motive := P) l _ h fun u hu x _ => hg u x hu

theorem foldlFst {P : State → Prop} {α : Type} {g : State × Bool → α → State × Bool} (hg : ∀ a x, P a.1 → P (g a x).1) (l : List α)
    {a : State × Bool} (h : P a.1) : P (l.foldl g a).1 :=
  List.foldlRecOn (motive := fun a : State × Bool => P a.1) l _ h fun a ha x _ => hg a x ha

theorem ite {P : State → Prop} {t u : State} {c : Prop} [Decidable c] (ht : P t) (hu : P u) : P (if c then t else u) := by
  split
  · exact ht
  · exact hu

theorem tryMove {P : State → Prop} {a : State × Bool} {g : State → Option State} (h : P a.1) (hg : ∀ x u, P x → g x = some u → P u) :
    P (tryMove a g).1 := by
  unfold Machine.tryMove
  split
  · exact hg _ _ h ‹_›
  · exact h

variable {P : State → Prop} {d : Nat} (k : State.MovesKeep P d) {t : State} (h : P t)
include k h

theorem raise (p c : Nat) (pl : List Byte) : P (t.raise p c pl) := by
  have hcnt : ∀ m full : Bool, P { t with
      cnt := if m then t.cnt.upd 0 (regAddr Page.event 0x48) (· + 1)
        else if full then t.cnt.upd 0 (regAddr Page.event 0x44) (· + 1) else t.cnt } := by
    intro m full
    cases m
    · cases full
      · exact h
      · exact k.count h .lost
    · exact k.count h .masked
  exact k.beside (hcnt (t.masked p c) (decide (queueDepth ≤ (t.evt.queues.get [] p).length))) rfl

theorem setFab (i : Nat) (f : FabDie) : P (t.setFab i f) := k.beside h rfl
theorem setCh (i : Nat) (c : ChDie) : P (t.setCh i c) := k.beside h rfl
theorem setEng (i e : Nat) (x : Engine) : P (t.setEng i e x) := k.beside h rfl
theorem store (a : Nat) (bs : List Byte) : P (t.store a bs) := k.beside h rfl
theorem notifyBoth (kind : NoticeKind) (i a b : Nat) : P (t.notifyBoth kind i a b) := k.beside h rfl

theorem unmapped (u : MemUnit) (a c m : Nat) : P (t.unmapped u a c m) := k.beside (k.raise h _ _ _) rfl

theorem dropMb (mb cause : Nat) : P (t.dropMb d mb cause) := by
  unfold State.dropMb
  refine k.raise (k.count (k.beside h ?_) .dropped) _ _ _
  rfl

theorem damageMb (u : List Nat) (back : Bool) (ts : List Nat) (eng seq cause layer : Nat) : P (t.damageMb d u back ts eng seq cause layer) := by
  have h1 : P ((t.count (regAddr (Page.die d) 0x58) 1).pipeRaise d Code.pipeMbDamaged (some u) layer cause (eng % 64 + seq * 64)) :=
    k.raise (k.count h .damaged) _ _ _
  exact ite (foldl (P := P) (fun _ _ hu => k.notifyBoth hu _ _ _ _) _ h1) (k.dropMb h1 _ _)

theorem portPoison (mb addr : Nat) : P (t.portPoison d mb addr) := by
  unfold State.portPoison
  split
  · exact k.raise h _ _ _
  · exact k.damageMb (k.raise h _ _ _) _ _ _ _ _ _ _

theorem countPoison (l : List Nat) : P (t.countPoison l) := by
  refine foldl (fun u g hu => ?_) l h
  split
  · exact ite (k.count hu (.poisonReads _)) hu
  · exact hu

theorem consume (u : MemUnit) (a n m : Nat) : P (t.consume u a n m).2.2 := by
  unfold State.consume
  split
  · exact k.unmapped h _ _ _ _
  · exact k.countPoison h _

theorem storeFor (u : MemUnit) (a : Nat) (bs : List Byte) (m : Nat) : P (t.storeFor u a bs m) := by
  unfold State.storeFor
  split
  · exact k.unmapped h _ _ _ _
  · refine k.beside h ?_
    unfold State.putAt
    split <;> rfl

theorem abandonStep (cause : Nat) (stop : Bool) : P (t.abandonStep d cause stop) := by
  unfold State.abandonStep
  split
  · exact h
  · refine k.raise (k.setCh (foldl (fun u i hu => ?_) [0, 1, 2, 3] h) _ _) _ _ _
    exact ite hu (k.notifyBoth (k.setCh hu _ _) _ _ _ _)

theorem kvRead (x : SpRun) : P (t.kvRead d x).2.2.2.2 := by
  unfold State.kvRead
  dsimp only
  split
  · exact h
  · split
    · exact ite (k.count h .notHeld) h
    · split
      · exact k.consume (k.consume h _ _ _ _) _ _ _ _
      · exact k.consume h _ _ _ _

theorem kvWrite (x : SpRun) (bs : List Byte) : P (t.kvWrite d x bs).2 := by
  unfold State.kvWrite
  dsimp only
  split
  · exact h
  · split
    · exact ite (k.count h .notHeld) h
    · split
      · exact k.storeFor (k.storeFor h _ _ _ _) _ _ _ _
      · exact k.storeFor h _ _ _ _

theorem lsUncorrectable (r : Nat) : P (t.lsUncorrectable d r) := by
  unfold State.lsUncorrectable
  exact k.abandonStep (k.raise (k.setFab h _ _) _ _ _) _ _

theorem joinQueue (r : Nat) (rec0 : List Nat) (c q : Nat) (e : Entry) : P (t.joinQueue d r rec0 c q e) := by
  unfold State.joinQueue
  dsimp only
  split
  · exact k.store (k.setFab h _ _) _ _
  · exact k.setFab h _ _

theorem move {rec0 : List Nat} {r src c : Nat} {u : State} (hu : t.move d rec0 r src c = some u) : P u := by
  unfold State.move at hu
  split at hu
  · obtain ⟨-, hu⟩ := Option.ite_none_right_eq_some.mp hu
    cases hu
    exact k.joinQueue (k.setFab h _ _) _ _ _ _ _
  · cases hu

theorem moveQueue (rec0 : List Nat) (r src : Nat) : P (t.moveQueue d rec0 r src).1 := by
  unfold State.moveQueue
  dsimp only
  split
  · exact k.setFab h _ _
  · split
    · exact h
    · split
      · exact k.lsUncorrectable h r
      · refine foldlFst (fun a c ha => ?_) _ h
        split
        · exact k.move ha ‹_›
        · exact ha

theorem moveReeds : P (t.moveReeds d).1 := by
  delta State.moveReeds
  generalize List.filter _ _ = keys
  dsimp only
  refine foldlFst (P := P) (fun a i ha => ?_) keys h
  dsimp only
  exact k.moveQueue ha _ _ _

theorem inPort {e i : Nat} {u : State} (hu : t.inPort d e i = some u) : P u := by
  unfold State.inPort at hu
  dsimp only at hu
  split at hu
  · cases hu
  · obtain ⟨-, hu⟩ := Option.ite_none_left_eq_some.mp hu
    cases hu
    exact k.store (k.setFab h _ _) _ _

theorem portRead {p : Nat} {u : State} (hu : t.portRead d p = some u) : P u := by
  unfold State.portRead at hu
  dsimp only at hu
  obtain ⟨-, hu⟩ := Option.ite_none_left_eq_some.mp hu
  split at hu
  · cases hu
    exact foldl (P := P) (fun _ _ hw => k.portPoison hw _ _) _ (k.setFab (k.kvRead h _) _ _)
  · split at hu
    · cases hu
      refine ite (k.portPoison (k.setFab ?_ _ _) _ _) (k.setFab ?_ _ _) <;>
      · split
        · exact h
        · exact k.consume h _ _ _ _
    · cases hu
      exact ite (k.portPoison (k.setFab (k.consume h _ _ _ _) _ _) _ _) (k.setFab (k.consume h _ _ _ _) _ _)

/-- A command that a command port takes joins the queue of the KV unit (R220). -/
theorem takeCommand (f : FabDie) (plane : Bool) (c : KvCmd) :
    P ((t.setFab d f).setKv d (if plane then t.kvD d else { t.kvD d with cmds := (t.kvD d).cmds ++ [c] })) := by
  have hf : P (t.setFab d f) := k.setFab h d f
  cases plane
  · exact k.cmds _ hf
  · exact k.cmds (t.kvD d).cmds hf

theorem portWrite {p : Nat} {u : State} (hu : t.portWrite d p = some u) : P u := by
  unfold State.portWrite at hu
  dsimp only at hu
  split at hu
  · cases hu
  · split at hu
    · cases hu
      exact k.takeCommand h _ _ _
    · split at hu
      · obtain ⟨-, hu⟩ := Option.ite_none_left_eq_some.mp hu
        cases hu
        exact k.setFab (k.kvWrite h _ _) _ _
      · obtain ⟨-, hu⟩ := Option.ite_none_left_eq_some.mp hu
        obtain ⟨-, hu⟩ := Option.ite_none_left_eq_some.mp hu
        cases hu
        unfold State.portStore
        exact k.storeFor (k.setFab h _ _) _ _ _ _

theorem moveRound (ps es ks : List Nat) : P (t.moveRound d ps es ks).1 := by
  unfold State.moveRound
  dsimp only
  split
  · exact k.moveReeds h
  · refine foldlFst (fun a p ha => ?_) _ (foldlFst (fun a e ha => foldlFst (fun b i hb => ?_) _ ?_) _ (k.moveReeds h))
    · exact tryMove (tryMove ha fun _ _ hx hu => k.portRead hx hu) fun _ _ hx hu => k.portWrite hx hu
    · refine tryMove (tryMove hb fun x u hx hu => ?_) fun _ _ hx hu => k.inPort hx hu
      obtain ⟨f, -, rfl⟩ := Option.map_eq_some_iff.mp hu
      exact k.setFab hx d f
    · exact ite ha (k.setEng (k.setFab ha _ _) _ _ _)

omit h in
theorem settleN (n : Nat) : ∀ {t : State}, P t → P (t.settleN d n) := by
  induction n with
  | zero => exact fun h => h
  | succ n ih =>
    intro t h
    unfold State.settleN
    dsimp only
    split
    · exact ih (k.moveRound h _ _ _)
    · exact k.moveRound h _ _ _

/-- What the single acts of movement keep holds when the fabric has settled. -/
theorem settle : P (t.settle d) := by
  delta State.settle
  exact k.settleN _ h

end State.MovesKeep

end Sys2Proof.Machine
end

section
/-! A KV unit, its directory and its pages as they read after they have been written (R219), and what movement leaves of a KV unit (R220, R227). -/

namespace Sys2Proof.Machine

section
variable {s : State} (h : s.kv.ordered) (d : Nat) (k : KvDie)
include h

@[simp] theorem State.kvD_setKv_same : (s.setKv d k).kvD d = k := (Tbl.get_set_ordered h d d k).trans (if_pos rfl)

theorem State.setKv_ordered : (s.setKv d k).kv.ordered := Tbl.ordered_set h d k

end

theorem State.kv_ordered {s : State} (h : s.tablesOk) : s.kv.ordered := by
  obtain ⟨-, -, -, -, -, -, -, -, -, -, -, -, -, hkv, -⟩ := h
  exact hkv

theorem State.kvD_ordered {s : State} (h : s.tablesOk) (d : Nat) : (s.kvD d).seqs.ordered ∧ (s.kvD d).pages.ordered := by
  obtain ⟨-, -, -, -, -, -, -, -, -, -, -, -, -, -, -, -, -, -, -, -, -, -, -, -, -, -, -, -, -, -, hcells⟩ := h
  exact Tbl.get_of_cells (p := fun k : KvDie => k.seqs.ordered ∧ k.pages.ordered) ⟨rfl, rfl⟩ hcells d

section
variable {k : KvDie} (h : k.seqs.ordered) (q : Nat) (x : KvSeq)
include h

@[simp] theorem KvDie.seq_setSeq_same : (k.setSeq q x).seq q = x := (Tbl.get_set_ordered h q q x).trans (if_pos rfl)

theorem KvDie.seq_setSeq_other {r : Nat} (hr : r ≠ q) : (k.setSeq q x).seq r = k.seq r := (Tbl.get_set_ordered h q r x).trans (if_neg hr)

end

/-- The word of a page holds REF in its low 16 bits (R219). -/
theorem KvDie.ref_setPage {k : KvDie} (h : k.pages.ordered) {ref : Nat} (href : ref < 65536) (p st tag g : Nat) :
    (k.setPage p ref st tag).ref g = if g = p then ref else k.ref g := by
  unfold KvDie.ref KvDie.setPage
  rw [Tbl.get_set_ordered h]
  split
  · simp only [bitsOf, Nat.shiftRight_zero]
    omega
  · rfl

/-- `t` follows `s` by movement on die `d`, as far as the control block, the die's KV unit and its counters below 0x94 go: commands may have joined
the unit's queue. -/
structure State.KvMoved (s t : State) (d : Nat) : Prop where
  ctl : t.ctl = s.ctl
  kvs : t.kv.ordered
  unit : t.kvD d = { s.kvD d with cmds := (t.kvD d).cmds }
  cnts : t.cnt.ordered
  counts : ∀ off, off < 0x94 → t.cntAt (kvReg d off) = s.cntAt (kvReg d off)

theorem State.KvMoved.refl {s : State} (hkv : s.kv.ordered) (hcnt : s.cnt.ordered) (d : Nat) : s.KvMoved s d :=
  ⟨rfl, hkv, rfl, hcnt, fun _ _ => rfl⟩

/-- Movement raises no counter of a KV section below 0x94. -/
theorem MoveCounter.ne_kvReg {d a off : Nat} (hd : d < 4) (ho : off < 0x94) (h : MoveCounter d a) : kvReg d off ≠ a := by
  cases h with
  | masked | lost | dropped | damaged => simp only [kvReg, regAddr, Page.kv, Page.event, Page.die]; omega
  | poisonReads key =>
    unfold memCounter
    split <;> simp only [kvReg, regAddr, Page.kv, Page.die, Page.stack] <;> omega
  | notHeld => simp only [kvReg, regAddr]; omega

theorem State.KvMoved.movesKeep {s : State} {d : Nat} (hd : d < 4) : State.MovesKeep (s.KvMoved · d) d where
  beside := by
    intro t u h hu
    unfold State.besideCounts at hu
    rw [hu]
    exact ⟨h.ctl, h.kvs, h.unit, h.cnts, h.counts⟩
  count := fun h ha =>
    ⟨h.ctl, h.kvs, h.unit, State.count_cnt_ordered h.cnts _ _,
      fun off ho => (State.cntAt_count_other h.cnts (ha.ne_kvReg hd ho) 1).trans (h.counts off ho)⟩
  cmds := by
    intro t cs h
    refine ⟨h.ctl, State.setKv_ordered h.kvs _ _, ?_, h.cnts, h.counts⟩
    rw [State.kvD_setKv_same h.kvs, h.unit]

end Sys2Proof.Machine
end

section
/-! How a command at the head of a KV unit is executed and answered (R220, R226). -/

namespace Sys2Proof.Machine

/-- Command `c` with fields `f` and operation `op` stands at the head of the KV unit of die `d`, before `rest`, its answer has room, and the clocks
run. -/
structure State.KvHead (s : State) (d : Die) (c : KvCmd) (rest : List KvCmd) (f : KvFields) (op : Nat) : Prop where
  awake : s.bel.stopped = false
  tables : s.tablesOk
  cmds : (s.kvD d).cmds = c :: rest
  room : s.kvRoom d c.src = true
  fields : KvFields.of c.words = f
  op : f.op = op

/-- The state in which the command at the head of a KV unit is carried out: it has left the queue and is counted (R220, R228). -/
def State.kvBegun (s : State) (d : Nat) (rest : List KvCmd) : State := (s.setKv d { s.kvD d with cmds := rest }).kvCount d 0x98 1

/-- `t` is `u` after the answer `w` to `src`: in the register (0), or on its way from the command port, where the fabric moves entries. -/
structure State.KvAnswered (u t : State) (d src w : Nat) : Prop where
  ctl : t.ctl = u.ctl
  unit : t.kvD d = { u.kvD d with cmds := (t.kvD d).cmds, resp := (t.kvD d).resp }
  counts : ∀ off, off < 0x94 → t.cntAt (kvReg d off) = u.cntAt (kvReg d off)
  register : src = 0 → (t.kvD d).resp = w ∧ (t.kvD d).cmds = (u.kvD d).cmds ∧ t.mem = u.mem

theorem State.kvRespond_answered {u : State} {d : Nat} (hd : d < 4) (hkv : u.kv.ordered) (hcnt : u.cnt.ordered) (src w : Nat) :
    u.KvAnswered (u.kvRespond d src w) d src w := by
  unfold State.kvRespond
  split
  · have hunit := State.kvD_setKv_same hkv d { u.kvD d with resp := w }
    exact ⟨rfl, by rw [hunit], fun _ _ => rfl, fun _ => ⟨(congrArg KvDie.resp hunit :), (congrArg KvDie.cmds hunit :), rfl⟩⟩
  · rename_i hsrc
    have k := State.KvMoved.movesKeep (s := u) hd
    have hm := k.settle (k.setFab (.refl hkv hcnt d) d ((u.fabD d).setQueue (qKey (spReed (src - 1)) (8 + spDir (src - 1)))
      (((u.fabD d).queue (qKey (spReed (src - 1)) (8 + spDir (src - 1)))).push { bits := w, plane := false, last := false })))
    exact ⟨hm.ctl, by rw [hm.unit], hm.counts, fun h => absurd h hsrc⟩

section
variable {s : State} {d : Die} {c : KvCmd} {rest : List KvCmd} {f : KvFields} {op : Nat}

/-- A command that is no reserved one waits until it is executed: nothing before it is answered (R226). -/
theorem State.KvHead.kvDrain (h : s.KvHead d c rest f op) (hop : 1 ≤ op ∧ op ≤ 5) : s.kvDrain d = s := by
  refine List.foldl_fixed' (fun _ => ?_) _
  rw [h.cmds]
  dsimp only
  rw [h.fields, if_neg (by rw [h.op]; omega)]

theorem State.KvHead.kvCommand (h : s.KvHead d c rest f op) (hop : 1 ≤ op ∧ op ≤ 5) (act : State → KvFields → KvDone) :
    s.kvCommand d op act = (act (s.kvBegun d rest) f).s.kvRespond d c.src
      (kvResponse f (act (s.kvBegun d rest) f)) := by
  unfold State.kvCommand State.kvRun
  rw [h.kvDrain hop]
  simp only [h.cmds, h.fields, h.op, h.room, ↓reduceIte, Bool.not_true, Bool.false_eq_true]
  rfl

theorem State.KvHead.answered (h : s.KvHead d c rest f op) (hop : 1 ≤ op ∧ op ≤ 5) {act : State → KvFields → KvDone} {r : KvDone}
    (hr : act (s.kvBegun d rest) f = r) (hkv : r.s.kv.ordered) (hcnt : r.s.cnt.ordered) :
    r.s.KvAnswered (s.kvCommand d op act) d c.src (kvResponse f r) := by
  rw [h.kvCommand hop, hr]
  exact State.kvRespond_answered d.isLt hkv hcnt _ _

/-- In `t` a command has been answered with `status`, and has changed no sequence, no page and no epoch (R226). -/
structure State.KvSpared (s t : State) (d : Die) (c : KvCmd) (f : KvFields) (status : Nat) : Prop where
  ctl : t.ctl = s.ctl
  seqs : (t.kvD d).seqs = (s.kvD d).seqs
  pages : (t.kvD d).pages = (s.kvD d).pages
  epoch : (t.kvD d).epoch = (s.kvD d).epoch
  register : c.src = 0 → (t.kvD d).resp = status + 16 * f.seq ∧ t.mem = s.mem

variable (h : s.KvHead d c rest f op)
include h

theorem State.KvHead.still : ¬ s.still = true := by simp [State.still, h.awake]

theorem State.KvHead.begun_kv_ordered : (s.kvBegun d rest).kv.ordered := State.setKv_ordered (State.kv_ordered h.tables) _ _

theorem State.KvHead.begun_cnt_ordered : (s.kvBegun d rest).cnt.ordered :=
  State.count_cnt_ordered (State.tablesOk_ordered h.tables).2.1 _ _

theorem State.KvHead.kvD_begun : (s.kvBegun d rest).kvD d = { s.kvD d with cmds := rest } :=
  State.kvD_setKv_same (State.kv_ordered h.tables) _ _

theorem State.KvHead.cntAt_begun {off : Nat} (ho : off < 0x94) : (s.kvBegun d rest).cntAt (kvReg d off) = s.cntAt (kvReg d off) :=
  State.cntAt_count_other (s := s.setKv d { s.kvD d with cmds := rest }) (State.tablesOk_ordered h.tables).2.1
    (by simp only [kvReg, regAddr]; omega) 1

/-- A command whose act leaves memory and the unit is answered with its status. -/
theorem State.KvHead.spared (hop : 1 ≤ op ∧ op ≤ 5) {act : State → KvFields → KvDone} {r : KvDone}
    (hr : act (s.kvBegun d rest) f = r) (hcnt : r.s.cnt.ordered) (hn : r.n = 0 := by rfl) (hctl : r.s.ctl = s.ctl := by rfl)
    (hkv : r.s.kv = (s.kvBegun d rest).kv := by rfl) (hmem : r.s.mem = s.mem := by rfl) :
    s.KvSpared (s.kvCommand d op act) d c f r.status ∧
      ∀ off, off < 0x94 → (s.kvCommand d op act).cntAt (kvReg d off) = r.s.cntAt (kvReg d off) := by
  have ha := h.answered hop hr (hkv ▸ h.begun_kv_ordered) hcnt
  have hunit : r.s.kvD d = { s.kvD d with cmds := rest } := by rw [← h.kvD_begun, State.kvD, State.kvD, hkv]
  refine ⟨⟨ha.ctl.trans hctl, ?_, ?_, ?_, fun hsrc => ?_⟩, ha.counts⟩
  · rw [ha.unit, hunit]
  · rw [ha.unit, hunit]
  · rw [ha.unit, hunit]
  · obtain ⟨hresp, -, hm⟩ := ha.register hsrc
    refine ⟨hresp.trans ?_, hm.trans hmem⟩
    simp [kvResponse, hn]

omit h in
theorem State.kvInvalid_cnt_ordered {u : State} (hu : u.cnt.ordered) (i : Nat) (f : KvFields) (w : Option (Nat × Nat)) :
    (u.kvInvalid i f w).s.cnt.ordered := by
  unfold State.kvInvalid State.kvRaise
  rw [State.used_cnt]
  exact State.raise_cnt_ordered hu _ _ _

/-- A command that R226 calls invalid. -/
theorem State.KvHead.invalid (hop : 1 ≤ op ∧ op ≤ 5) {act : State → KvFields → KvDone} {w : Option (Nat × Nat)}
    (hr : act (s.kvBegun d rest) f = (s.kvBegun d rest).kvInvalid d f w) :
    s.KvSpared (s.kvCommand d op act) d c f 2 :=
  (h.spared hop hr (State.kvInvalid_cnt_ordered h.begun_cnt_ordered d _ w)).1

/-- A command that is counted and reported, and nothing else. -/
theorem State.KvHead.reported (hop : 1 ≤ op ∧ op ≤ 5) {act : State → KvFields → KvDone} {status off code q o page st n : Nat}
    (hoff : off < 0x94)
    (hr : act (s.kvBegun d rest) f = ⟨status, 0, ((s.kvBegun d rest).kvCount d off 1).kvRaise d code q o page st n⟩) :
    s.KvSpared (s.kvCommand d op act) d c f status ∧
      (s.kvCommand d op act).cntAt (kvReg d off) = s.cntAt (kvReg d off) + 1 := by
  have hcounted := State.count_cnt_ordered h.begun_cnt_ordered (kvReg d off) 1
  have hraised := (State.KvMoved.movesKeep (s := (s.kvBegun d rest).kvCount d off 1) d.isLt).raise
    (State.KvMoved.refl (s := (s.kvBegun d rest).kvCount d off 1) h.begun_kv_ordered hcounted d) Page.kv code
    (((s.kvBegun d rest).kvCount d off 1).kvPayload d q o page st n)
  obtain ⟨hspared, hcounts⟩ := h.spared hop hr hraised.cnts
  refine ⟨hspared, ?_⟩
  calc (s.kvCommand d op act).cntAt (kvReg d off)
      = ((s.kvBegun d rest).kvCount d off 1).cntAt (kvReg d off) := (hcounts off hoff).trans (hraised.counts off hoff)
    _ = (s.kvBegun d rest).cntAt (kvReg d off) + 1 := State.cntAt_count_same h.begun_cnt_ordered _ _
    _ = s.cntAt (kvReg d off) + 1 := by rw [h.cntAt_begun hoff]

end

end Sys2Proof.Machine
end

section
/-! OPEN and FORK (R221). -/

namespace Sys2Proof.Machine

/-- `t` follows `s` by writes of page-table words: the control block, the KV units and the counters are those of `s`. -/
structure State.EntriesWritten (s t : State) : Prop where
  ctl : t.ctl = s.ctl
  kv : t.kv = s.kv
  cnt : t.cnt = s.cnt

theorem State.EntriesWritten.kv_ordered {s t : State} (h : s.EntriesWritten t) (hs : s.kv.ordered) : t.kv.ordered := h.kv ▸ hs
theorem State.EntriesWritten.cnt_ordered {s t : State} (h : s.EntriesWritten t) (hs : s.cnt.ordered) : t.cnt.ordered := h.cnt ▸ hs

/-- For every element of a list a word of the table of `q` is written. -/
theorem State.EntriesWritten.foldl {α : Type} {s t : State} (h : s.EntriesWritten t) (q : KvSeq) (st j : α → Nat) (page : α → Option Nat)
    (l : List α) : s.EntriesWritten (l.foldl (fun u x => u.setKvEntry q (st x) (j x) (page x)) t) :=
  List.foldlRecOn (motive := s.EntriesWritten) l _ h fun _ hu _ _ => ⟨hu.ctl, hu.kv, hu.cnt⟩

theorem State.kvClearTable_written (s : State) (q : KvSeq) : s.EntriesWritten (s.kvClearTable q) :=
  State.EntriesWritten.foldl ⟨rfl, rfl, rfl⟩ q Prod.fst Prod.snd (fun _ => none) _

/-- What a page table says depends on memory alone. -/
theorem State.kvEntry_congr {t u : State} (h : t.mem = u.mem) (q : KvSeq) (st j : Nat) : t.kvEntry q st j = u.kvEntry q st j := by
  have hbyte : t.byteAt = u.byteAt := by
    unfold State.byteAt
    rw [h]
  unfold State.kvEntry State.natAt State.bytesAt
  rw [hbyte]

theorem mem_kvPlaces {streams lo hi st j : Nat} : (st, j) ∈ kvPlaces streams lo hi ↔ st < streams ∧ lo ≤ j ∧ j < hi := by
  simp only [kvPlaces, List.mem_flatMap, List.mem_map, List.mem_range, Prod.mk.injEq]
  constructor
  · rintro ⟨st', hst, i, hi, rfl, rfl⟩
    omega
  · rintro ⟨hst, hlo, hhi⟩
    exact ⟨st, hst, j - lo, by omega, rfl, by omega⟩

/-- A byte that is 0, or belongs to a word that is written as not VALID, is 0 afterwards. -/
theorem State.byteAt_setKvEntry_none {s : State} (h : s.memOk) (q : KvSeq) (st j : Nat) {a : Nat}
    (ha : s.byteAt a = 0 ∨ q.entryAddr st j ≤ a ∧ a < q.entryAddr st j + 4) : (s.setKvEntry q st j none).byteAt a = 0 := by
  have hbytes : leBytes 4 0 = List.replicate 4 0 := rfl
  show (s.store (q.entryAddr st j) (leBytes 4 0)).byteAt a = 0
  rw [hbytes]
  by_cases hin : q.entryAddr st j ≤ a ∧ a < q.entryAddr st j + 4
  · obtain ⟨i, rfl⟩ := Nat.exists_eq_add_of_le hin.1
    rw [State.byteAt_store_inside h (by simp; omega), List.getElem_replicate]
  · rw [State.byteAt_store_outside h (by simp; omega)]
    exact ha.resolve_right hin

theorem State.byteAt_clear (q : KvSeq) (a : Nat) (l : List (Nat × Nat)) : ∀ {s : State}, s.memOk →
    (s.byteAt a = 0 ∨ ∃ p ∈ l, q.entryAddr p.1 p.2 ≤ a ∧ a < q.entryAddr p.1 p.2 + 4) →
    (l.foldl (fun t p => t.setKvEntry q p.1 p.2 none) s).byteAt a = 0 := by
  induction l with
  | nil => exact fun _ ha => ha.resolve_right (by simp)
  | cons p l ih =>
    intro s h ha
    refine ih (State.storeNat_memOk h _ _ _) ?_
    simp only [List.mem_cons, exists_eq_or_imp] at ha
    rcases ha with ha | ha | ha
    · exact .inl (State.byteAt_setKvEntry_none h q _ _ (.inl ha))
    · exact .inl (State.byteAt_setKvEntry_none h q _ _ (.inr ha))
    · exact .inr ha

theorem State.kvEntry_eq_none {s : State} {q : KvSeq} {st j : Nat} (h : ∀ i < 4, s.byteAt (q.entryAddr st j + i) = 0) :
    s.kvEntry q st j = none := by
  have hbytes : s.bytesAt (q.entryAddr st j) 4 = List.replicate 4 0 :=
    List.eq_replicate_iff.mpr ⟨by simp [State.bytesAt], by simpa [State.bytesAt] using h⟩
  have hnat : s.natAt (q.entryAddr st j) 4 = 0 := by
    rw [State.natAt, hbytes]
    rfl
  simp [State.kvEntry, hnat, bitOf]

/-- No entry of a cleared table is VALID (R221). -/
theorem State.kvEntry_kvClearTable {s : State} (h : s.memOk) (q : KvSeq) {st j : Nat} (hst : st < q.streams) (hj : j < q.jmax) :
    (s.kvClearTable q).kvEntry q st j = none :=
  State.kvEntry_eq_none fun _ hi => State.byteAt_clear q _ _ h
    (.inr ⟨(st, j), mem_kvPlaces.mpr ⟨hst, Nat.zero_le j, hj⟩, Nat.le_add_right _ _, Nat.add_lt_add_left hi _⟩)

/-- The sequence that an OPEN makes. -/
def KvFields.opened (f : KvFields) : KvSeq := { isOpen := true, streams := f.streams, jmax := f.jmax, len := 0, base := f.ptBase }

/-- The sequence that a FORK of `par` makes. -/
def KvFields.forked (f : KvFields) (par : KvSeq) : KvSeq :=
  { isOpen := true, streams := par.streams, jmax := par.jmax, len := f.count, base := f.ptBase }

theorem State.kvOpen_of_valid {u : State} {d : Nat} {f : KvFields} (hclosed : ((u.kvD d).seq f.seq).isOpen = false) (hstreams : f.streams ≠ 0)
    (hjmax : f.jmax ≠ 0) (hclean : f.clean = true) (htable : tableInCrust d f.ptBase (f.streams * f.jmax) = true) :
    u.kvOpen d f = ⟨0, 0, (u.kvClearTable f.opened).setKv d ((u.kvD d).setSeq f.seq f.opened)⟩ :=
  if_neg (by simp [hclosed, hstreams, hjmax, hclean, htable])

theorem State.kvOpen_of_invalid {u : State} {d : Nat} {f : KvFields} (h : ((u.kvD d).seq f.seq).isOpen = true ∨ f.streams = 0 ∨ f.jmax = 0 ∨
    f.clean = false ∨ tableInCrust d f.ptBase (f.streams * f.jmax) = false) : u.kvOpen d f = u.kvInvalid d f :=
  if_pos (by simpa [or_assoc] using h)

/-- The first place of a sequence whose entry names a page beyond the pool is none where every entry names one of the pool (R226). -/
theorem State.kvBeyond_eq_none_iff {u : State} {d : Nat} {q : KvSeq} {places : List (Nat × Nat)} :
    u.kvBeyond d q places = none ↔ ∀ p ∈ places, ∀ g, u.kvEntry q p.1 p.2 = some g → g < u.kvPages d := by
  rw [State.kvBeyond, List.findSome?_eq_none_iff]
  refine forall₂_congr fun p _ => ?_
  cases u.kvEntry q p.1 p.2 <;> simp

theorem State.kvBeyond_eq_some {u : State} {d : Nat} {q : KvSeq} {places : List (Nat × Nat)}
    (h : ∃ p ∈ places, ∃ g, u.kvEntry q p.1 p.2 = some g ∧ u.kvPages d ≤ g) : ∃ w, u.kvBeyond d q places = some w := by
  obtain ⟨p, hp, g, hg, hbeyond⟩ := h
  refine Option.ne_none_iff_exists'.mp fun hnone => ?_
  exact Nat.not_lt.mpr hbeyond (State.kvBeyond_eq_none_iff.mp hnone p hp g hg)

/-- A reference more of a page (R221). -/
def KvDie.addRef (k : KvDie) (g : Nat) : KvDie := k.setPage g (k.ref g + 1) (k.pageState g) (k.tag g)

/-- What a FORK adds to the references of the pages that it names, if no count goes beyond 65,535 (R221, R226). -/
theorem KvDie.ref_foldl_addRef (pages : List Nat) (g : Nat) : ∀ {k : KvDie}, k.pages.ordered →
    (∀ p ∈ pages, k.ref p + pages.count p ≤ 65535) → (pages.foldl KvDie.addRef k).ref g = k.ref g + pages.count g := by
  induction pages with
  | nil => exact fun _ _ => rfl
  | cons p pages ih =>
    intro k hk hle
    have hp : k.ref p + 1 ≤ 65535 := by
      have := hle p List.mem_cons_self
      rw [List.count_cons_self] at this
      omega
    have href : ∀ x, (k.addRef p).ref x = if x = p then k.ref p + 1 else k.ref x := KvDie.ref_setPage hk (by omega) p _ _
    have hcount : ∀ x, (k.addRef p).ref x + pages.count x = k.ref x + (p :: pages).count x := by
      intro x
      rw [href, List.count_cons, beq_eq_decide]
      by_cases hx : x = p
      · simp only [hx, ↓reduceIte, decide_true]
        omega
      · simp [hx, Ne.symm hx]
    have hk' : (k.addRef p).pages.ordered := Tbl.ordered_set hk _ _
    rw [List.foldl_cons, ih hk' fun x hx => hcount x ▸ hle x (List.mem_cons_of_mem p hx), hcount]

/-- Pages of a unit are written one after another: nothing else of it changes. -/
theorem KvDie.foldl_pages {α : Type} {g : KvDie → α → KvDie} (hg : ∀ k x, ∃ ps, g k x = { k with pages := ps }) (l : List α) (k : KvDie) :
    ∃ ps, l.foldl g k = { k with pages := ps } :=
  List.foldlRecOn (motive := fun a : KvDie => ∃ ps, a = { k with pages := ps }) l g ⟨k.pages, rfl⟩ fun a ⟨_, ha⟩ x _ => by
    obtain ⟨ps, hx⟩ := hg a x
    exact ⟨ps, hx.trans (by rw [ha])⟩

theorem State.mem_kvPrefix_pages {u : State} {q : KvSeq} {n : Nat} {p : Nat × Nat} {g : Nat} (hp : p ∈ kvPlaces q.streams 0 (ceilDiv n 128))
    (hg : u.kvEntry q p.1 p.2 = some g) : g ∈ (u.kvPrefix q n).map fun x => x.2.2 :=
  List.mem_map.mpr ⟨(p.1, p.2, g), List.mem_filterMap.mpr ⟨p, hp, by rw [hg]; rfl⟩, rfl⟩

theorem State.kvFork_of_valid {u : State} {d : Nat} {f : KvFields} {par : KvSeq} (hpar : (u.kvD d).seq f.parent = par)
    (hclosed : ((u.kvD d).seq f.seq).isOpen = false) (hopen : par.isOpen = true) (hlen : f.count ≤ par.len) (hclean : f.clean = true)
    (htable : tableInCrust d f.ptBase (par.streams * par.jmax) = true) {pages : List Nat}
    (hpages : (u.kvPrefix par f.count).map (fun x => x.2.2) = pages)
    (hfit : ∀ g ∈ pages, g < u.kvPages d ∧ (u.kvD d).ref g + pages.count g ≤ 65535) :
    u.kvFork d f = ⟨0, 0, ((u.kvPrefix par f.count).foldl (fun t x => t.setKvEntry (f.forked par) x.1 x.2.1 (some x.2.2))
      (u.kvClearTable (f.forked par))).setKv d ((pages.foldl KvDie.addRef (u.kvD d)).setSeq f.seq (f.forked par))⟩ := by
  subst hpar hpages
  have hbeyond := State.kvBeyond_eq_none_iff.mpr fun p hp g hg => (hfit g (State.mem_kvPrefix_pages hp hg)).1
  have hover : (u.kvPrefix ((u.kvD d).seq f.parent) f.count).find? (fun x => decide (65535 < (u.kvD d).ref x.2.2 +
      ((u.kvPrefix ((u.kvD d).seq f.parent) f.count).map fun x => x.2.2).count x.2.2)) = none := by
    refine List.find?_eq_none.mpr fun x hx => ?_
    have := (hfit x.2.2 (List.mem_map.mpr ⟨x, hx, rfl⟩)).2
    simpa using this
  unfold State.kvFork
  dsimp only
  rw [if_neg (by simp [hclosed, hopen, hlen, hclean, htable]), hbeyond]
  dsimp only
  rw [hover]
  rfl

theorem State.kvFork_of_invalid {u : State} {d : Nat} {f : KvFields} {par : KvSeq} (hpar : (u.kvD d).seq f.parent = par)
    (h : ((u.kvD d).seq f.seq).isOpen = true ∨ par.isOpen = false ∨ par.len < f.count ∨ f.clean = false ∨
      tableInCrust d f.ptBase (par.streams * par.jmax) = false) : u.kvFork d f = u.kvInvalid d f := by
  subst hpar
  exact if_pos (by simpa [or_assoc] using h)

section
variable {s : State} {d : Die} {c : KvCmd} {rest : List KvCmd} {f : KvFields} {op : Nat} (h : s.KvHead d c rest f op)
include h

theorem State.KvHead.seq_begun (q : Nat) : ((s.kvBegun d rest).kvD d).seq q = (s.kvD d).seq q := by rw [h.kvD_begun]; rfl
theorem State.KvHead.ref_begun (g : Nat) : ((s.kvBegun d rest).kvD d).ref g = (s.kvD d).ref g := by rw [h.kvD_begun]; rfl

/-- What an act that writes the unit `k` beside what `u` holds reads as, once it is answered. -/
theorem State.KvHead.written (hop : 1 ≤ op ∧ op ≤ 5) {act : State → KvFields → KvDone} {status n : Nat} {u : State} {k : KvDie}
    (hr : act (s.kvBegun d rest) f = ⟨status, n, u.setKv d k⟩) (hctl : u.ctl = s.ctl) (hkv : u.kv.ordered)
    (hcnt : u.cnt.ordered) :
    let t := s.kvCommand d op act
    t.ctl = s.ctl ∧ t.kvD d = { k with cmds := (t.kvD d).cmds, resp := (t.kvD d).resp } ∧
      (c.src = 0 → (t.kvD d).resp = kvResponse f ⟨status, n, u⟩ ∧ (t.kvD d).cmds = k.cmds ∧ t.mem = u.mem) := by
  have ha := h.answered hop hr (State.setKv_ordered hkv d k) hcnt
  have hk : (u.setKv d k).kvD d = k := State.kvD_setKv_same hkv d k
  refine ⟨ha.ctl.trans hctl, ?_, fun hsrc => ?_⟩
  · rw [ha.unit, hk]
  · obtain ⟨hresp, hcmds, hmem⟩ := ha.register hsrc
    exact ⟨hresp, hcmds.trans (by rw [hk]), hmem⟩

end

/-- An OPEN that is valid makes its sequence open and empty, with a table that names no page (R221). -/
theorem State.KvHead.open_valid {s : State} {d : Die} {c : KvCmd} {rest : List KvCmd} {f : KvFields} (h : s.KvHead d c rest f 1) (hmem : s.memOk)
    (hclosed : ((s.kvD d).seq f.seq).isOpen = false) (hstreams : f.streams ≠ 0) (hjmax : f.jmax ≠ 0)
    (hclean : f.clean = true) (htable : tableInCrust d f.ptBase (f.streams * f.jmax) = true) :
    ∃ t, exec (.kvOpen d) s = .next t ∧ t.ctl = s.ctl ∧ (t.kvD d).seq f.seq = f.opened ∧
      (∀ q, q ≠ f.seq → (t.kvD d).seq q = (s.kvD d).seq q) ∧ (t.kvD d).pages = (s.kvD d).pages ∧
      (c.src = 0 → (t.kvD d).resp = 16 * f.seq ∧ (t.kvD d).cmds = rest ∧
        ∀ st j, st < f.streams → j < f.jmax → t.kvEntry ((t.kvD d).seq f.seq) st j = none) := by
  have hr := State.kvOpen_of_valid (u := s.kvBegun d rest) (by rw [h.seq_begun]; exact hclosed) hstreams hjmax hclean htable
  have hclear := (s.kvBegun d rest).kvClearTable_written f.opened
  obtain ⟨hctl, hunit, hreg⟩ := h.written (act := fun t f => t.kvOpen d f) (by decide) hr hclear.ctl (hclear.kv_ordered h.begun_kv_ordered)
    (hclear.cnt_ordered h.begun_cnt_ordered)
  rw [h.kvD_begun] at hunit hreg
  have hseqs := (State.kvD_ordered h.tables d).1
  have hseq : ((s.kvCommand d 1 fun t f => t.kvOpen d f).kvD d).seq f.seq = f.opened := by
    rw [hunit]
    exact KvDie.seq_setSeq_same hseqs _ _
  refine ⟨_, if_neg h.still, hctl, hseq, fun q hq => ?_, by rw [hunit]; rfl, fun hsrc => ?_⟩
  · rw [hunit]
    exact KvDie.seq_setSeq_other hseqs _ _ hq
  · obtain ⟨hresp, hcmds, htmem⟩ := hreg hsrc
    refine ⟨hresp.trans (by simp [kvResponse]), hcmds, fun st j hst hj => ?_⟩
    rw [hseq, State.kvEntry_congr htmem]
    exact State.kvEntry_kvClearTable (s := s.kvBegun d rest) hmem _ hst hj

/-- A FORK that is valid opens a sequence over the first positions of its parent, whose pages it references (R221). -/
theorem State.KvHead.fork_valid {s : State} {d : Die} {c : KvCmd} {rest : List KvCmd} {f : KvFields} (h : s.KvHead d c rest f 2)
    {par : KvSeq} (hpar : (s.kvD d).seq f.parent = par) {pages : List Nat}
    (hpages : (s.kvPrefix par f.count).map (fun x => x.2.2) = pages) (hclosed : ((s.kvD d).seq f.seq).isOpen = false)
    (hopen : par.isOpen = true) (hlen : f.count ≤ par.len) (hclean : f.clean = true)
    (htable : tableInCrust d f.ptBase (par.streams * par.jmax) = true)
    (hfit : ∀ g ∈ pages, g < s.kvPages d ∧ (s.kvD d).ref g + pages.count g ≤ 65535) :
    ∃ t, exec (.kvFork d) s = .next t ∧ t.ctl = s.ctl ∧ (t.kvD d).seq f.seq = f.forked par ∧
      ∀ g, (t.kvD d).ref g = (s.kvD d).ref g + pages.count g := by
  have hr := State.kvFork_of_valid (u := s.kvBegun d rest) (par := par) (by rw [h.seq_begun]; exact hpar) (by rw [h.seq_begun]; exact hclosed)
    hopen hlen hclean htable hpages fun g hg => by rw [h.ref_begun]; exact hfit g hg
  have hwritten := ((s.kvBegun d rest).kvClearTable_written (f.forked par)).foldl (f.forked par) Prod.fst (fun x => x.2.1) (fun x => some x.2.2)
    ((s.kvBegun d rest).kvPrefix par f.count)
  obtain ⟨hctl, hunit, -⟩ := h.written (act := fun t f => t.kvFork d f) (by decide) hr hwritten.ctl (hwritten.kv_ordered h.begun_kv_ordered)
    (hwritten.cnt_ordered h.begun_cnt_ordered)
  obtain ⟨hseqs, hpgs⟩ := State.kvD_ordered h.tables d
  refine ⟨_, if_neg h.still, hctl, ?_, fun g => ?_⟩
  · obtain ⟨ps, hps⟩ := KvDie.foldl_pages (g := KvDie.addRef) (fun k x => ⟨_, rfl⟩) pages ((s.kvBegun d rest).kvD d)
    rw [hunit, hps, h.kvD_begun]
    exact KvDie.seq_setSeq_same hseqs _ _
  · rw [hunit]
    refine (KvDie.ref_foldl_addRef pages g ?_ fun p hp => ?_).trans ?_
    · rw [h.kvD_begun]
      exact hpgs
    · rw [h.ref_begun]
      exact (hfit p hp).2
    · rw [h.ref_begun]

section
variable {s : State} {d : Die} {c : KvCmd} {rest : List KvCmd} {f : KvFields}

theorem State.KvHead.open_invalid (h : s.KvHead d c rest f 1) (hbad : ((s.kvD d).seq f.seq).isOpen = true ∨ f.streams = 0 ∨ f.jmax = 0 ∨
    f.clean = false ∨ tableInCrust d f.ptBase (f.streams * f.jmax) = false) : ∃ t, exec (.kvOpen d) s = .next t ∧ s.KvSpared t d c f 2 :=
  ⟨_, if_neg h.still, h.invalid (by decide) (act := fun t f => t.kvOpen d f) (State.kvOpen_of_invalid (by rw [h.seq_begun]; exact hbad))⟩

theorem State.KvHead.fork_invalid (h : s.KvHead d c rest f 2) {par : KvSeq} (hpar : (s.kvD d).seq f.parent = par)
    (hbad : ((s.kvD d).seq f.seq).isOpen = true ∨ par.isOpen = false ∨ par.len < f.count ∨ f.clean = false ∨
      tableInCrust d f.ptBase (par.streams * par.jmax) = false) : ∃ t, exec (.kvFork d) s = .next t ∧ s.KvSpared t d c f 2 :=
  ⟨_, if_neg h.still, h.invalid (by decide) (act := fun t f => t.kvFork d f)
    (State.kvFork_of_invalid ((h.seq_begun _).trans hpar) (by rw [h.seq_begun]; exact hbad))⟩

end

end Sys2Proof.Machine
end

section
/-! APPEND (R222, R225). -/

namespace Sys2Proof.Machine

/-- `t` has the control block of `s` and the directory of its KV unit, and its KV units and counters are in order. -/
structure State.KeepsSeqs (s t : State) (d : Nat) : Prop where
  ctl : t.ctl = s.ctl
  kvs : t.kv.ordered
  cnts : t.cnt.ordered
  seqs : (t.kvD d).seqs = (s.kvD d).seqs

theorem State.KeepsSeqs.setKv {s t : State} {d : Nat} (h : s.KeepsSeqs t d) {k : KvDie} (hk : k.seqs = (t.kvD d).seqs) :
    s.KeepsSeqs (t.setKv d k) d :=
  ⟨h.ctl, State.setKv_ordered h.kvs d k, h.cnts, by rw [State.kvD_setKv_same h.kvs, hk, h.seqs]⟩

theorem State.KeepsSeqs.count {s t : State} {d : Nat} (h : s.KeepsSeqs t d) (a n : Nat) : s.KeepsSeqs (t.count a n) d :=
  ⟨h.ctl, h.kvs, State.count_cnt_ordered h.cnts a n, h.seqs⟩

theorem State.KeepsSeqs.kvCount {s t : State} {d : Nat} (h : s.KeepsSeqs t d) (off n : Nat) : s.KeepsSeqs (t.kvCount d off n) d := h.count _ n

theorem State.KeepsSeqs.movesKeep {s : State} {d : Nat} : State.MovesKeep (s.KeepsSeqs · d) d where
  beside := by
    intro t u h hu
    unfold State.besideCounts at hu
    rw [hu]
    exact ⟨h.ctl, h.kvs, h.cnts, h.seqs⟩
  count := fun h _ => h.count _ 1
  cmds := fun _ h => h.setKv rfl

theorem State.KeepsSeqs.setKvEntry {s t : State} {d : Nat} (h : s.KeepsSeqs t d) (q : KvSeq) (st j : Nat) (page : Option Nat) :
    s.KeepsSeqs (t.setKvEntry q st j page) d := State.KeepsSeqs.movesKeep.store h _ _

/-- Poison that travels with the granules of a page is marked beside the directory (R286; log entry 178). -/
theorem State.KeepsSeqs.poisonFor {s t : State} {d : Nat} (h : s.KeepsSeqs t d) (u : MemUnit) (addr n : Nat) :
    s.KeepsSeqs (t.poisonFor u addr n) d := by
  refine State.KeepsSeqs.movesKeep.beside h ?_
  unfold State.poisonFor
  split <;> rfl

theorem State.KeepsSeqs.kvCopyGranules {s t : State} {d : Nat} (h : s.KeepsSeqs t d) (src dst n : Nat) :
    s.KeepsSeqs (t.kvCopyGranules d src dst n) d := by
  have k := State.KeepsSeqs.movesKeep (s := s) (d := d)
  refine State.MovesKeep.foldl (P := (s.KeepsSeqs · d)) (fun u i hu => ?_) _ h
  exact State.MovesKeep.ite (P := (s.KeepsSeqs · d)) (State.KeepsSeqs.poisonFor (k.storeFor (k.consume hu _ _ _ _) _ _ _ _) _ _ _)
    (k.storeFor (k.consume hu _ _ _ _) _ _ _ _)

theorem State.kvTake_seqs {s : State} {d g : Nat} {k k1 : KvDie} (h : s.kvTake d k = some (g, k1)) : k1.seqs = k.seqs := by
  unfold State.kvTake at h
  split at h
  · cases h
    rfl
  · split at h <;> cases h
    rfl

/-- At one place APPEND takes a page, copies one, or leaves the page in place; the directory stands (R222). -/
theorem State.KeepsSeqs.kvAppendAt {s t : State} {d : Nat} (h : s.KeepsSeqs t d) (q : KvSeq) (p : Nat × Nat) :
    s.KeepsSeqs (t.kvAppendAt d q p) d := by
  unfold State.kvAppendAt
  dsimp only
  split
  · split
    · exact h
    · rename_i g k1 hk
      have htaken := h.setKv (k := k1.setPage g 1 1 (k1.tag g)) (State.kvTake_seqs hk :)
      exact (htaken.setKvEntry _ _ _ _).kvCount _ _
  · split
    · exact h
    · split
      · exact h
      · rename_i old _ _ _ g k1 hk
        have hcopy : s.KeepsSeqs (t.kvCopy d old g) d := (h.kvCopyGranules _ _ _).kvCopyGranules _ _ _
        have htaken := hcopy.setKv (k := (k1.setPage g 1 1 (k1.tag g)).setPage old ((t.kvD d).ref old - 1) ((t.kvD d).pageState old)
          ((t.kvD d).tag old)) (((State.kvTake_seqs hk).trans h.seqs).trans hcopy.seqs.symm)
        exact ((htaken.setKvEntry _ _ _ _).kvCount _ _).kvCount _ _

/-- The places at which an APPEND to `q` needs a page to write, and how many pages it takes (R222). -/
def KvFields.places (f : KvFields) (q : KvSeq) : List (Nat × Nat) := kvPlaces q.streams (q.len / 128) (ceilDiv (q.len + f.count) 128)
def State.kvWanted (s : State) (d : Nat) (q : KvSeq) (f : KvFields) : Nat := ((f.places q).filter (s.kvNeeds d q)).length

section
variable {u : State} {d : Nat} {f : KvFields} {q : KvSeq} (hq : (u.kvD d).seq f.seq = q)
include hq

theorem State.kvAppend_of_invalid (h : q.isOpen = false ∨ q.jmax * 128 < q.len + f.count ∨ f.clean = false) :
    u.kvAppend d f = u.kvInvalid d f := by
  subst hq
  exact if_pos (by simpa [or_assoc] using h)

section
variable (hopen : q.isOpen = true) (hlen : q.len + f.count ≤ q.jmax * 128) (hclean : f.clean = true)
include hopen hlen hclean

theorem State.kvAppend_of_beyond {w : Nat × Nat} (hw : u.kvBeyond d q (f.places q) = some w) : u.kvAppend d f = u.kvInvalid d f (some w) := by
  subst hq
  unfold State.kvAppend
  dsimp only
  unfold KvFields.places at hw
  rw [if_neg (by simp [hopen, hlen, hclean]), hw]

variable (hw : u.kvBeyond d q (f.places q) = none) (hcount : f.count ≠ 0)
include hw hcount

theorem State.kvAppend_of_lacking (hfree : u.kvFree d < u.kvWanted d q f) :
    u.kvAppend d f =
      ⟨1, 0, (u.kvCount d 0x8C 1).kvRaise d Code.kvPageExhausted f.seq f.op 0xFFFFFFFF 0xFFFF (u.kvWanted d q f)⟩ := by
  subst hq
  unfold State.kvAppend
  dsimp only
  unfold KvFields.places at hw
  rw [if_neg (by simp [hopen, hlen, hclean]), hw]
  dsimp only
  rw [if_neg hcount]
  exact if_pos hfree

theorem State.kvAppend_of_sufficient (hfree : u.kvWanted d q f ≤ u.kvFree d) :
    let u1 := (f.places q).foldl (fun t p => t.kvAppendAt d q p) u
    u.kvAppend d f = ⟨0, u.kvWanted d q f, u1.setKv d ((u1.kvD d).setSeq f.seq { q with len := q.len + f.count })⟩ := by
  subst hq
  unfold State.kvAppend
  dsimp only
  unfold KvFields.places at hw
  rw [if_neg (by simp [hopen, hlen, hclean]), hw]
  dsimp only
  rw [if_neg hcount]
  exact if_neg (Nat.not_lt.mpr hfree)

end

end

section
variable {s : State} {d : Die} {c : KvCmd} {rest : List KvCmd} {f : KvFields} (h : s.KvHead d c rest f 3) {q : KvSeq}
include h

/-- The pages that an APPEND wants and those that are free do not depend on the command's place in the queue. -/
theorem State.KvHead.kvWanted_begun : (s.kvBegun d rest).kvWanted d q f = s.kvWanted d q f := by
  unfold State.kvWanted State.kvNeeds
  simp only [h.ref_begun]
  rfl

theorem State.KvHead.kvFree_begun : (s.kvBegun d rest).kvFree d = s.kvFree d := by
  unfold State.kvFree
  rw [h.kvD_begun]
  rfl

variable (hq : (s.kvD d).seq f.seq = q)
include hq

/-- An APPEND to a sequence that is not open, beyond its pages, or over an entry beyond the pool is invalid (R226; log entry 45). -/
theorem State.KvHead.append_invalid (hbad : q.isOpen = false ∨ q.jmax * 128 < q.len + f.count ∨ f.clean = false ∨
    ∃ p ∈ f.places q, ∃ g, s.kvEntry q p.1 p.2 = some g ∧ s.kvPages d ≤ g) :
    ∃ t, exec (.kvAppend d) s = .next t ∧ s.KvSpared t d c f 2 := by
  have hqb : ((s.kvBegun d rest).kvD d).seq f.seq = q := (h.seq_begun _).trans hq
  have hr : ∃ w, (s.kvBegun d rest).kvAppend d f = (s.kvBegun d rest).kvInvalid d f w := by
    by_cases hfields : q.isOpen = false ∨ q.jmax * 128 < q.len + f.count ∨ f.clean = false
    · exact ⟨none, State.kvAppend_of_invalid hqb hfields⟩
    · simp only [not_or, Bool.not_eq_false, Nat.not_lt] at hfields
      obtain ⟨hopen, hlen, hclean⟩ := hfields
      have hbeyond : ∃ p ∈ f.places q, ∃ g, s.kvEntry q p.1 p.2 = some g ∧ s.kvPages d ≤ g := by
        simpa [hopen, Nat.not_lt.mpr hlen, hclean] using hbad
      obtain ⟨w, hw⟩ := State.kvBeyond_eq_some (u := s.kvBegun d rest) hbeyond
      exact ⟨some w, State.kvAppend_of_beyond hqb hopen hlen hclean hw⟩
  obtain ⟨w, hr⟩ := hr
  exact ⟨_, if_neg h.still, h.invalid (by decide) (act := fun t f => t.kvAppend d f) hr⟩

variable (hopen : q.isOpen = true) (hlen : q.len + f.count ≤ q.jmax * 128) (hclean : f.clean = true) (hcount : f.count ≠ 0)
  (hpool : ∀ p ∈ f.places q, ∀ g, s.kvEntry q p.1 p.2 = some g → g < s.kvPages d)
include hopen hlen hclean hcount hpool

/-- An APPEND for which pages suffice lengthens its sequence (R222). -/
theorem State.KvHead.append_valid (hfree : s.kvWanted d q f ≤ s.kvFree d) :
    ∃ t, exec (.kvAppend d) s = .next t ∧ t.ctl = s.ctl ∧ (t.kvD d).seq f.seq = { q with len := q.len + f.count } ∧
      (∀ r, r ≠ f.seq → (t.kvD d).seq r = (s.kvD d).seq r) ∧
      (c.src = 0 → (t.kvD d).resp = 16 * f.seq + 65536 * min 0xFFFF (s.kvWanted d q f)) := by
  have hr := State.kvAppend_of_sufficient (u := s.kvBegun d rest) ((h.seq_begun _).trans hq) hopen hlen hclean
    (State.kvBeyond_eq_none_iff.mpr hpool) hcount (by rw [h.kvWanted_begun, h.kvFree_begun]; exact hfree)
  have hbegun : s.KeepsSeqs (s.kvBegun d rest) d := ⟨rfl, h.begun_kv_ordered, h.begun_cnt_ordered, by rw [h.kvD_begun]⟩
  have hkeep : s.KeepsSeqs ((f.places q).foldl (fun t p => t.kvAppendAt d q p) (s.kvBegun d rest)) d :=
    State.MovesKeep.foldl (P := (s.KeepsSeqs · d)) (fun _ _ hu => hu.kvAppendAt q _) _ hbegun
  obtain ⟨hctl, hunit, hreg⟩ := h.written (act := fun t f => t.kvAppend d f) (by decide) hr hkeep.ctl hkeep.kvs hkeep.cnts
  have hseqs := hkeep.seqs ▸ (State.kvD_ordered h.tables d).1
  refine ⟨_, if_neg h.still, hctl, ?_, fun r hne => ?_, fun hsrc => (hreg hsrc).1.trans ?_⟩
  · rw [hunit]
    exact KvDie.seq_setSeq_same hseqs _ _
  · rw [hunit]
    refine (KvDie.seq_setSeq_other hseqs _ _ hne).trans ?_
    rw [KvDie.seq, KvDie.seq, hkeep.seqs]
  · rw [h.kvWanted_begun]
    simp [kvResponse]

/-- An APPEND that lacks pages is counted, and changes nothing (R225). -/
theorem State.KvHead.append_lacking (hfree : s.kvFree d < s.kvWanted d q f) :
    ∃ t, exec (.kvAppend d) s = .next t ∧ s.KvSpared t d c f 1 ∧ t.cntAt (kvReg d 0x8C) = s.cntAt (kvReg d 0x8C) + 1 := by
  have hr := State.kvAppend_of_lacking (u := s.kvBegun d rest) ((h.seq_begun _).trans hq) hopen hlen hclean
    (State.kvBeyond_eq_none_iff.mpr hpool) hcount (by rw [h.kvWanted_begun, h.kvFree_begun]; exact hfree)
  exact ⟨_, if_neg h.still, h.reported (by decide) (act := fun t f => t.kvAppend d f) (by decide) hr⟩

end

end Sys2Proof.Machine
end

section
/-! FREE, ADVANCE and READER_CLOSE (R223, R224). -/

namespace Sys2Proof.Machine

/-- The entries of `q` that are VALID, each with its page (R219). -/
def State.kvHeld (s : State) (q : KvSeq) : List ((Nat × Nat) × Nat) :=
  (kvPlaces q.streams 0 q.jmax).filterMap fun p => (s.kvEntry q p.1 p.2).map fun g => (p, g)

/-- A page of a FREE loses a reference; with its last one it joins the retire queue and counts as released (R223; log entry 45). -/
def KvDie.release (a : KvDie × Nat) (x : (Nat × Nat) × Nat) : KvDie × Nat :=
  let n := a.1.ref x.2 - 1
  if n = 0 then ({ a.1.setPage x.2 0 2 a.1.epoch with retire := a.1.retire ++ [x.2] }, a.2 + 1)
  else (a.1.setPage x.2 n (a.1.pageState x.2) (a.1.tag x.2), a.2)

/-- What the pages of a FREE do to their unit: page words are written, and pages join the retire queue. -/
theorem KvDie.foldl_release (k : KvDie) (n : Nat) (l : List ((Nat × Nat) × Nat)) :
    ∃ ps rs, (l.foldl KvDie.release (k, n)).1 = { k with pages := ps, retire := k.retire ++ rs } :=
  List.foldlRecOn (motive := fun a : KvDie × Nat => ∃ ps rs, a.1 = { k with pages := ps, retire := k.retire ++ rs }) l _
    ⟨k.pages, [], by simp⟩ fun a ⟨ps, rs, ha⟩ x _ => by
      unfold KvDie.release
      dsimp only
      split
      · exact ⟨_, rs ++ [x.2], by rw [ha]; simp only [KvDie.setPage, List.append_assoc]; rfl⟩
      · exact ⟨_, rs, by rw [ha]; rfl⟩

section
variable {u : State} {d : Nat} {f : KvFields} {q : KvSeq} (hq : (u.kvD d).seq f.seq = q)
include hq

theorem State.kvFreeSeq_of_invalid (h : q.isOpen = false ∨ f.clean = false) : u.kvFreeSeq d f = u.kvInvalid d f := by
  subst hq
  exact if_pos (by simpa using h)

variable (hopen : q.isOpen = true) (hclean : f.clean = true)
include hopen hclean

theorem State.kvFreeSeq_of_beyond {w : Nat × Nat} (hw : u.kvBeyond d q (kvPlaces q.streams 0 q.jmax) = some w) :
    u.kvFreeSeq d f = u.kvInvalid d f (some w) := by
  subst hq
  unfold State.kvFreeSeq
  dsimp only
  rw [if_neg (by simp [hopen, hclean]), hw]

theorem State.kvFreeSeq_of_valid (hw : u.kvBeyond d q (kvPlaces q.streams 0 q.jmax) = none) :
    let u1 := (u.kvHeld q).foldl (fun t x => t.setKvEntry q x.1.1 x.1.2 none) u
    let r := (u.kvHeld q).foldl KvDie.release (u1.kvD d, 0)
    u.kvFreeSeq d f = ⟨0, r.2, u1.setKv d (r.1.setSeq f.seq { q with isOpen := false })⟩ := by
  subst hq
  unfold State.kvFreeSeq
  dsimp only
  rw [if_neg (by simp [hopen, hclean]), hw]
  rfl

end

section
variable {s : State} {d : Die} {c : KvCmd} {rest : List KvCmd} {f : KvFields} (h : s.KvHead d c rest f 4) {q : KvSeq}
  (hq : (s.kvD d).seq f.seq = q)
include h hq

/-- A FREE of a sequence that is not open, or that names a page beyond the pool, is invalid (R226; log entry 45). -/
theorem State.KvHead.free_invalid (hbad : q.isOpen = false ∨ f.clean = false ∨
    ∃ p ∈ kvPlaces q.streams 0 q.jmax, ∃ g, s.kvEntry q p.1 p.2 = some g ∧ s.kvPages d ≤ g) :
    ∃ t, exec (.kvFree d) s = .next t ∧ s.KvSpared t d c f 2 := by
  have hqb : ((s.kvBegun d rest).kvD d).seq f.seq = q := (h.seq_begun _).trans hq
  have hr : ∃ w, (s.kvBegun d rest).kvFreeSeq d f = (s.kvBegun d rest).kvInvalid d f w := by
    by_cases hfields : q.isOpen = false ∨ f.clean = false
    · exact ⟨none, State.kvFreeSeq_of_invalid hqb hfields⟩
    · simp only [not_or, Bool.not_eq_false] at hfields
      obtain ⟨hopen, hclean⟩ := hfields
      have hbeyond : ∃ p ∈ kvPlaces q.streams 0 q.jmax, ∃ g, s.kvEntry q p.1 p.2 = some g ∧ s.kvPages d ≤ g := by
        simpa [hopen, hclean] using hbad
      obtain ⟨w, hw⟩ := State.kvBeyond_eq_some (u := s.kvBegun d rest) hbeyond
      exact ⟨some w, State.kvFreeSeq_of_beyond hqb hopen hclean hw⟩
  obtain ⟨w, hr⟩ := hr
  exact ⟨_, if_neg h.still, h.invalid (by decide) (act := fun t f => t.kvFreeSeq d f) hr⟩

/-- A FREE that is valid closes its sequence; pages join the retire queue, none the free list (R223). -/
theorem State.KvHead.free_valid (hopen : q.isOpen = true) (hclean : f.clean = true)
    (hpool : ∀ p ∈ kvPlaces q.streams 0 q.jmax, ∀ g, s.kvEntry q p.1 p.2 = some g → g < s.kvPages d) :
    ∃ t, exec (.kvFree d) s = .next t ∧ t.ctl = s.ctl ∧ (t.kvD d).seq f.seq = { q with isOpen := false } ∧
      (∀ r, r ≠ f.seq → (t.kvD d).seq r = (s.kvD d).seq r) ∧ (t.kvD d).epoch = (s.kvD d).epoch ∧ (t.kvD d).freed = (s.kvD d).freed ∧
      ∃ l, (t.kvD d).retire = (s.kvD d).retire ++ l := by
  have hr := State.kvFreeSeq_of_valid (u := s.kvBegun d rest) ((h.seq_begun _).trans hq) hopen hclean (State.kvBeyond_eq_none_iff.mpr hpool)
  have hwritten := State.EntriesWritten.foldl (s := s.kvBegun d rest) ⟨rfl, rfl, rfl⟩ q (fun x => x.1.1) (fun x => x.1.2) (fun _ => none)
    ((s.kvBegun d rest).kvHeld q)
  obtain ⟨hctl, hunit, -⟩ := h.written (act := fun t f => t.kvFreeSeq d f) (by decide) hr hwritten.ctl
    (hwritten.kv_ordered h.begun_kv_ordered) (hwritten.cnt_ordered h.begun_cnt_ordered)
  have hkvD : (((s.kvBegun d rest).kvHeld q).foldl (fun t x => t.setKvEntry q x.1.1 x.1.2 none) (s.kvBegun d rest)).kvD d =
      { s.kvD d with cmds := rest } := by
    rw [← h.kvD_begun, State.kvD, hwritten.kv]
    rfl
  obtain ⟨ps, rs, hrelease⟩ := KvDie.foldl_release { s.kvD d with cmds := rest } 0 ((s.kvBegun d rest).kvHeld q)
  rw [hkvD, hrelease] at hunit
  have hseqs := (State.kvD_ordered h.tables d).1
  refine ⟨_, if_neg h.still, hctl, ?_, fun r hne => ?_, ?_, ?_, rs, ?_⟩ <;> rw [hunit]
  · exact KvDie.seq_setSeq_same hseqs _ _
  · exact KvDie.seq_setSeq_other hseqs _ _ hne
  · rfl
  · rfl
  · rfl

end

/-- The check of the retire queue moves pages to the free list, and changes nothing else of the unit (R224). -/
theorem State.kvReclaim_unit {u : State} (h : u.kv.ordered) (d : Nat) :
    ∃ ps rt fr, (u.kvReclaim d).kvD d = { u.kvD d with pages := ps, retire := rt, freed := fr } := by
  obtain ⟨ps, hps⟩ := KvDie.foldl_pages (g := fun k g => k.setPage g 0 0 (k.tag g)) (fun _ _ => ⟨_, rfl⟩)
    ((u.kvD d).retire.filter (u.kvD d).reclaimable) (u.kvD d)
  refine ⟨ps, (u.kvD d).retire.filter fun g => !(u.kvD d).reclaimable g, (u.kvD d).freed ++ (u.kvD d).retire.filter (u.kvD d).reclaimable,
    (State.kvD_setKv_same h d _).trans ?_⟩
  rw [hps]

theorem State.kvReclaim_setKv_ctl (u : State) (d : Nat) (k : KvDie) : ((u.setKv d k).kvReclaim d).ctl = u.ctl := rfl
theorem State.kvReclaim_kv_ordered {u : State} (h : u.kv.ordered) (d : Nat) : (u.kvReclaim d).kv.ordered := State.setKv_ordered h d _
theorem State.kvReclaim_cnt_ordered {u : State} (h : u.cnt.ordered) (d : Nat) : (u.kvReclaim d).cnt.ordered := State.count_cnt_ordered h _ _

section
variable {u : State} {d : Nat} {f : KvFields} (hclean : f.clean = true)
include hclean

theorem State.kvAdvance_of_free {e : Nat} (he : ((u.kvD d).epoch + 1) % 2 ^ 14 = e)
    (h : ((u.kvD d).readers.any fun r => r.epoch % 64 = e % 64) = false) :
    u.kvAdvance d f = ⟨0, 0, (u.setKv d { u.kvD d with epoch := e }).kvReclaim d⟩ := by
  subst he
  unfold State.kvAdvance
  dsimp only
  rw [if_neg (by simp [hclean]), if_neg (by rw [h]; exact Bool.false_ne_true)]

theorem State.kvAdvance_of_shared {e : Nat} (he : ((u.kvD d).epoch + 1) % 2 ^ 14 = e)
    (h : ((u.kvD d).readers.any fun r => r.epoch % 64 = e % 64) = true) :
    u.kvAdvance d f = ⟨4, 0, (u.kvCount d 0x90 1).kvRaise d Code.kvEpochDefer 0xFFFF f.op 0xFFFFFFFF 0xFFFF (u.kvD d).epoch⟩ := by
  subst he
  unfold State.kvAdvance
  dsimp only
  rw [if_neg (by simp [hclean]), if_pos h]

end

section
variable {s : State} {d : Die} {c : KvCmd} {rest : List KvCmd} {f : KvFields} (h : s.KvHead d c rest f 5) (hclean : f.clean = true)
  {e : Nat} (he : ((s.kvD d).epoch + 1) % 2 ^ 14 = e)
include h hclean he

/-- ADVANCE moves the epoch on where no reader shares the low six bits of the next (R224). -/
theorem State.KvHead.advance_free (hfree : ((s.kvD d).readers.any fun r => r.epoch % 64 = e % 64) = false) :
    ∃ t, exec (.kvAdvance d) s = .next t ∧ t.ctl = s.ctl ∧ (t.kvD d).epoch = e ∧ (t.kvD d).seqs = (s.kvD d).seqs ∧
      (t.kvD d).readers = (s.kvD d).readers ∧ (c.src = 0 → (t.kvD d).resp = 16 * f.seq) := by
  have hr := State.kvAdvance_of_free (u := s.kvBegun d rest) (d := d) (e := e) hclean (by rw [h.kvD_begun]; exact he)
    (by rw [h.kvD_begun]; exact hfree)
  have hset := State.setKv_ordered h.begun_kv_ordered d { (s.kvBegun d rest).kvD d with epoch := e }
  obtain ⟨ps, rt, fr, hreclaim⟩ := State.kvReclaim_unit hset d
  rw [State.kvD_setKv_same h.begun_kv_ordered, h.kvD_begun] at hreclaim
  have ha := h.answered (act := fun t f => t.kvAdvance d f) (by decide) hr (State.kvReclaim_kv_ordered hset d)
    (State.kvReclaim_cnt_ordered (u := (s.kvBegun d rest).setKv d { (s.kvBegun d rest).kvD d with epoch := e }) h.begun_cnt_ordered d)
  have hunit := ha.unit
  rw [h.kvD_begun, hreclaim] at hunit
  have hctl := ha.ctl.trans (State.kvReclaim_setKv_ctl (s.kvBegun d rest) d _)
  refine ⟨_, if_neg h.still, hctl, by rw [hunit], by rw [hunit], by rw [hunit], fun hsrc => (ha.register hsrc).1.trans ?_⟩
  simp [kvResponse]

/-- A reader that shares them defers the epoch (R224). -/
theorem State.KvHead.advance_shared (hshared : ((s.kvD d).readers.any fun r => r.epoch % 64 = e % 64) = true) :
    ∃ t, exec (.kvAdvance d) s = .next t ∧ s.KvSpared t d c f 4 ∧ t.cntAt (kvReg d 0x90) = s.cntAt (kvReg d 0x90) + 1 := by
  have hr := State.kvAdvance_of_shared (u := s.kvBegun d rest) (d := d) (e := e) hclean (by rw [h.kvD_begun]; exact he)
    (by rw [h.kvD_begun]; exact hshared)
  exact ⟨_, if_neg h.still, h.reported (by decide) (act := fun t f => t.kvAdvance d f) (by decide) hr⟩

end

/-- The first ended reader of a port closes, and the unit checks its retire queue (R224). -/
theorem exec_readerClose_ended {s : State} {d : Die} {p : Sp} (hs : s.bel.stopped = false) (hkv : s.kv.ordered)
    (h : ((s.kvD d).readers.any fun r => r.port = p.val && r.ended) = true) :
    ∃ t, exec (.readerClose d p) s = .next t ∧ t = { s with kv := t.kv, cnt := t.cnt } ∧
      (t.kvD d).readers = eraseFirst (fun r => r.port = p.val && r.ended) (s.kvD d).readers ∧ (t.kvD d).seqs = (s.kvD d).seqs ∧
      (t.kvD d).epoch = (s.kvD d).epoch := by
  have hunit := State.kvD_setKv_same hkv d { s.kvD d with readers := eraseFirst (fun r => r.port = p.val && r.ended) (s.kvD d).readers }
  obtain ⟨ps, rt, fr, hreclaim⟩ := State.kvReclaim_unit (State.setKv_ordered hkv d
    { s.kvD d with readers := eraseFirst (fun r => r.port = p.val && r.ended) (s.kvD d).readers }) d
  rw [hunit] at hreclaim
  refine ⟨_, (if_neg (by simp [State.still, hs])).trans (if_pos h), rfl, ?_⟩
  rw [hreclaim]
  exact ⟨rfl, rfl, rfl⟩

end Sys2Proof.Machine
end

section
/-! O59: each command by the clause that its operation and its validity select. -/

namespace Sys2Proof.Machine

/-- Settles O59: what the act of each command makes of the unit is a lemma of its own, and the answer, which on a command port lets the fabric
settle, leaves the unit but for its queue and its response. -/
theorem kvCommands : Obligations.KvCommands := by
  unfold Obligations.KvCommands
  refine ⟨?_, ?_, ?_, ?_, ?_, ?_, ?_, ?_⟩
  · intro s d c rest hs hmem ht hc hroom f k hop
    have h : s.KvHead d c rest f 1 := ⟨hs, ht, hc, hroom, rfl, hop⟩
    refine ⟨fun hclosed hstreams hjmax hclean htable => h.open_valid hmem hclosed hstreams hjmax hclean htable, fun hbad => ?_⟩
    obtain ⟨t, hexec, hctl, hseqs, hpages, hepoch, hreg⟩ := h.open_invalid hbad
    exact ⟨t, hexec, hctl, hseqs, hpages, hepoch, hreg⟩
  · intro s d c rest hs ht hc hroom f k hop par pages
    have h : s.KvHead d c rest f 2 := ⟨hs, ht, hc, hroom, rfl, hop⟩
    refine ⟨fun hclosed hopen hlen hclean htable hfit => h.fork_valid rfl rfl hclosed hopen hlen hclean htable hfit, fun hbad => ?_⟩
    obtain ⟨t, hexec, hctl, hseqs, hpages, -, hreg⟩ := h.fork_invalid rfl hbad
    exact ⟨t, hexec, hctl, hseqs, hpages, hreg⟩
  · intro s d c rest hs ht hc hroom f k hop q places n hopen hlen hclean hcount hpool
    have h : s.KvHead d c rest f 3 := ⟨hs, ht, hc, hroom, rfl, hop⟩
    refine ⟨fun hfree => h.append_valid rfl hopen hlen hclean hcount hpool hfree, fun hfree => ?_⟩
    obtain ⟨t, hexec, ⟨hctl, hseqs, hpages, -, hreg⟩, hcnt⟩ := h.append_lacking rfl hopen hlen hclean hcount hpool hfree
    exact ⟨t, hexec, hctl, hseqs, hpages, hcnt, hreg⟩
  · intro s d c rest hs ht hc hroom f k hop q hbad
    have h : s.KvHead d c rest f 3 := ⟨hs, ht, hc, hroom, rfl, hop⟩
    obtain ⟨t, hexec, hctl, hseqs, hpages, hepoch, hreg⟩ := h.append_invalid rfl hbad
    exact ⟨t, hexec, hctl, hseqs, hpages, hepoch, hreg⟩
  · intro s d c rest hs ht hc hroom f k hop q hbad
    have h : s.KvHead d c rest f 4 := ⟨hs, ht, hc, hroom, rfl, hop⟩
    obtain ⟨t, hexec, hctl, hseqs, hpages, hepoch, hreg⟩ := h.free_invalid rfl hbad
    exact ⟨t, hexec, hctl, hseqs, hpages, hepoch, hreg⟩
  · intro s d c rest hs ht hc hroom f k hop q hopen hclean hpool
    have h : s.KvHead d c rest f 4 := ⟨hs, ht, hc, hroom, rfl, hop⟩
    exact h.free_valid rfl hopen hclean hpool
  · intro s d c rest hs ht hc hroom f k hop e hclean
    have h : s.KvHead d c rest f 5 := ⟨hs, ht, hc, hroom, rfl, hop⟩
    refine ⟨fun hfree => h.advance_free hclean rfl hfree, fun hshared => ?_⟩
    obtain ⟨t, hexec, ⟨hctl, hseqs, hpages, hepoch, hreg⟩, hcnt⟩ := h.advance_shared hclean rfl hshared
    exact ⟨t, hexec, hctl, hepoch, hseqs, hpages, hcnt, fun hsrc => (hreg hsrc).1⟩
  · intro s d p hs ht hended
    exact exec_readerClose_ended hs (State.kv_ordered ht) hended

end Sys2Proof.Machine
end

section
/-! O55 fails for a fold whose header lies beyond the part of the Trough that its Proofer reaches. R238 and R290 check the base of a tensor's folds
and not their end; POISON then writes the header of a fold that its micro-batch is already in, the write is turned away, and MEM_UNMAPPED is raised
(R240, R280, R283). The frame that the statement gives POISON lets the event block change and not the counters, but a record that finds the queue of
its source full is counted in LOST (R420). -/

namespace Sys2Proof.Machine

/-- Whether an access is turned away does not depend on a Proofer. -/
theorem State.spanFault_updPrf (s : State) (p : Nat) (g : Proofer → Proofer) (u : MemUnit) (addr n : Nat) (write : Bool) :
    (s.updPrf p g).spanFault u addr n write = s.spanFault u addr n write := by
  have haccess : (s.updPrf p g).accessFault = s.accessFault := rfl
  simp only [State.spanFault, haccess]

theorem leBytes_length (n : Nat) : ∀ v, (leBytes n v).length = n := by
  induction n with
  | zero => exact fun _ => rfl
  | succ n ih => exact fun v => congrArg Nat.succ (ih (v / 256))

theorem Fold.bytes_length (f : Fold) : f.bytes.length = 64 := leBytes_length 64 _

theorem State.updPrf_cntAt (s : State) (p : Nat) (g : Proofer → Proofer) (a : Nat) : (s.updPrf p g).cntAt a = s.cntAt a := rfl

/-- The 64 bytes of a fold header that are turned away while the queue of the Proofer's page is full are counted in LOST (R240, R280, R420). -/
theorem State.putFold_counts_lost {s : State} {p i c cause : Nat} (h : s.cnt.ordered)
    (haway : s.spanFault (prfUnit p) (ttFoldAddr (s.tt p i) c + 65536) 64 true = some cause)
    (hfull : queueDepth ≤ (s.evt.queues.get [] (unitPage (prfUnit p))).length) (f : Fold) :
    (s.putFold p i c f).cntAt lostCounter = s.cntAt lostCounter + 1 := by
  have hkept : (s.keepFold p i c f).spanFault (prfUnit p) (ttFoldAddr (s.tt p i) c + 65536) f.bytes.length true = some cause := by
    rw [Fold.bytes_length]
    exact (State.spanFault_updPrf ..).trans haway
  exact State.storeFor_counts_lost (s := s.keepFold p i c f) h hkept hfull 0xFFFF

/-- POISON marks the fold of a chunk that holds its micro-batch and is not handed on by writing the header (R200, R240; log entry 172). -/
theorem State.poisonChunk_counts_lost {s : State} {p i c mb cause : Nat} (h : s.cnt.ordered)
    (hmb : ((s.prfP p).chunk (chunkKey i c)).mbs.contains mb = true) (hopen : ((s.prfP p).chunk (chunkKey i c)).handed = false)
    (haway : s.spanFault (prfUnit p) (ttFoldAddr (s.tt p i) c + 65536) 64 true = some cause)
    (hfull : queueDepth ≤ (s.evt.queues.get [] (unitPage (prfUnit p))).length) :
    (s.poisonChunk p i c mb).cntAt lostCounter = s.cntAt lostCounter + 1 := by
  simp only [State.poisonChunk, hmb, hopen, Bool.not_true, Bool.false_eq_true, if_false, State.updPrf_cntAt]
  exact State.putFold_counts_lost h haway hfull { (s.prfP p).fold (chunkKey i c) with poison := true }

/-- A Proofer with a POISON notice noted (R246). -/
def Proofer.notePoison (n : Notice) (x : Proofer) : Proofer := { x with poisons := x.poisons ++ [(n.a, n.b)] }

/-- POISON for a tensor that has one entry, of which the Proofer serves one chunk (R200, R246). -/
theorem exec_poison_one_chunk {s s1 : State} {p : Prf} {n : Notice} {i c : Nat} (hs : s.bel.stopped = false)
    (hnotice : s.takeNotice .poison p = some (n, s1))
    (hentry : ((s1.entries p).filter fun j => ttTensor (s1.tt p j) = n.a) = [i]) (hchunk : ttServed (s1.tt p i) p = [c]) :
    exec (.poison p) s = .next ((s1.updPrf p (Proofer.notePoison n)).poisonChunk p i c n.b) := by
  have hentry' : (((s1.updPrf p (Proofer.notePoison n)).entries p).filter fun j =>
      ttTensor ((s1.updPrf p (Proofer.notePoison n)).tt p j) = n.a) = [i] := hentry
  have hchunk' : ttServed ((s1.updPrf p (Proofer.notePoison n)).tt p i) p = [c] := hchunk
  have hnoted : (fun x : Proofer => { x with poisons := x.poisons ++ [(n.a, n.b)] }) = Proofer.notePoison n := rfl
  show execPoison p s = _
  simp only [execPoison, State.still, hs, hnotice, hnoted, hentry', hchunk', List.foldl_cons, List.foldl_nil, Bool.false_eq_true, if_false]

/-- A POISON notice to PF0 that no write stands before: tensor 0, micro-batch 3. -/
def edgePoison : Notice := { kind := .poison, dest_ := 0, sender := 0, a := 0, b := 3, behind := 0 }

/-- A record of PF0 that waits to be admitted. -/
def waitingPrfRecord : EvRec :=
  { source := Page.prf 0, code := Code.prfArrivalFull, seq := 1, time := 0, lostBefore := false, fault := false, payload := List.replicate 16 0 }

/-- RUNNING, with 1 GiB each of STATE and FOLD in the Trough of PF0 and no other region, and one VALID entry in its tensor table: tensor 0,
stream-applied, EXPECT 1, of one chunk, with FOLD_BASE at the last granule of FOLD. The chunk's fold holds a contribution of micro-batch 3, and the
queue of PF0's page is full. -/
def edgeFold (notices : List Notice) : State :=
  { State.reset with
    ctl := { Ctl.reset with state := .running }
    evt := { EvtBlock.reset with queues := ⟨[(Page.prf 0, List.replicate queueDepth waitingPrfRecord)]⟩ }
    shAct := ⟨[(prfReg 0 0x180, 0x0101), (prfReg 0 0x184, 0), (winTable 0 0 1, 0x01001000), (winTable 0 0 2, 128), (winTable 0 0 3, 128),
      (winTable 0 0 8, 0x01FFFFFF)]⟩
    prf := ⟨[(0, { Proofer.reset with chunks := ⟨[(0, { ChunkRun.none with mbs := [3] })]⟩ })]⟩
    spine := { Spine.reset with notices := notices } }

/-- R238 and R290 have no reason against that table and that partition. -/
theorem edgeFold_acceptable :
    let s := edgeFold [edgePoison]
    s.tableBad 0 (s.ownerMode 0) (s.sealedCommit 0) = false ∧ s.partReason 0 = 0 := by
  decide +kernel

/-- The notice names that entry and its one chunk. -/
theorem edgeFold_named : (((edgeFold []).entries 0).filter fun j => ttTensor ((edgeFold []).tt 0 j) = edgePoison.a) = [0] ∧
    ttServed ((edgeFold []).tt 0 0) 0 = [0] := by
  decide +kernel

/-- The chunk's fold holds the micro-batch and is still open, the notice noted or not. -/
theorem edgeFold_holds :
    let x := ((edgeFold []).updPrf 0 (Proofer.notePoison edgePoison)).prfP 0
    (x.chunk (chunkKey 0 0)).mbs.contains edgePoison.b = true ∧ (x.chunk (chunkKey 0 0)).handed = false := by
  decide +kernel

/-- Its header lies outside every region of the Trough, which PF0 does not reach. -/
theorem edgeFold_away : (edgeFold []).spanFault (prfUnit 0) (ttFoldAddr ((edgeFold []).tt 0 0) 0 + 65536) 64 true = some 1 := by
  decide +kernel

/-- Refutes O55: a POISON notice for a fold whose header PF0 does not reach raises MEM_UNMAPPED, and while the queue of PF0's page is full the record
is counted in LOST, which the frame of POISON excludes. -/
theorem not_prooferWork : ¬ Obligations.ProoferWork := by
  unfold Obligations.ProoferWork
  rintro ⟨-, -, -, -, -, -, -, hpoison, -, -⟩
  have hnotice : (edgeFold [edgePoison]).takeNotice .poison 0 = some (edgePoison, edgeFold []) := rfl
  obtain ⟨hentry, hchunk⟩ := edgeFold_named
  obtain ⟨hmb, hopen⟩ := edgeFold_holds
  obtain ⟨t, ht, hframe, -⟩ := hpoison (edgeFold [edgePoison]) 0 edgePoison (edgeFold []) rfl (by decide +kernel) hnotice
  rw [exec_poison_one_chunk (p := 0) rfl hnotice hentry hchunk] at ht
  obtain rfl := Host.Outcome.next.inj ht
  have hlost := State.poisonChunk_counts_lost (s := (edgeFold []).updPrf 0 (Proofer.notePoison edgePoison)) rfl hmb hopen
    ((State.spanFault_updPrf ..).trans edgeFold_away) (by decide +kernel)
  have hsame := congrArg (fun t => t.cntAt lostCounter) hframe
  exact absurd (hlost.symm.trans hsame) (Nat.succ_ne_self _)

end Sys2Proof.Machine
end

section
/-! The canonical form of memory and of its poison marks, followed through the operations of the state (R278, R280, R286). Only the stores, the
poisonings and the clearing of memory write the two; every other operation rebuilds the state around them (`State.MemCanon.upd`). Each lemma
`State.MemCanon.f` says that the operation `f` keeps the form, and is cited as `h.f`. -/

namespace Sys2Proof.Machine

/-- Memory and its poison marks are in canonical form. A definition of its own: an abbreviation would let the kernel compare two states by evaluating
the operations that made them. -/
def State.MemCanon (s : State) : Prop := s.memOk

/-- The next state of an answer has memory in canonical form. -/
def NextCanon : Host.Outcome State Fault Refusal → Prop
  | .next t => t.MemCanon
  | _ => True

namespace State.MemCanon

theorem next {s : State} (h : s.MemCanon) : NextCanon (.next s) := h

theorem iteNext {o o' : Host.Outcome State Fault Refusal} {c : Prop} {_ : Decidable c} (ho : NextCanon o) (ho' : NextCanon o') :
    NextCanon (if c then o else o') := by
  split
  · exact ho
  · exact ho'

/-- A state with the same memory and poison marks, whatever stands in its other fields. -/
theorem upd {pending ctl fuse pins evt cad bel dom hlt rw shAct shNew cnt mbx mem poison mt leaven eng img fab ch prf spine kv subs ports col ing
    nowUs inTick freeCtr} (h : Memory.wf mem = true ∧ poison.wf false = true) :
    State.MemCanon ⟨pending, ctl, fuse, pins, evt, cad, bel, dom, hlt, rw, shAct, shNew, cnt, mbx, mem, poison, mt, leaven, eng, img, fab, ch, prf,
      spine, kv, subs, ports, col, ing, nowUs, inTick, freeCtr⟩ := h

theorem ite {t u : State} {c : Prop} {_ : Decidable c} (ht : t.MemCanon) (hu : u.MemCanon) : State.MemCanon (if c then t else u) :=
  State.MovesKeep.ite ht hu

theorem foldl {α : Type} {g : State → α → State} {l : List α} {t : State} (hg : ∀ u x, u.MemCanon → (g u x).MemCanon) (h : t.MemCanon) :
    (l.foldl g t).MemCanon :=
  State.MovesKeep.foldl hg l h

theorem foldlFst {α β : Type} {g : State × β → α → State × β} {l : List α} {a : State × β}
    (hg : ∀ a x, a.1.MemCanon → (g a x).1.MemCanon) (h : a.1.MemCanon) : (l.foldl g a).1.MemCanon :=
  List.foldlRecOn (motive := fun a : State × β => a.1.MemCanon) l _ h fun a ha x _ => hg a x ha

theorem foldlSnd {α β : Type} {g : β × State → α → β × State} {l : List α} {a : β × State}
    (hg : ∀ a x, a.2.MemCanon → (g a x).2.MemCanon) (h : a.2.MemCanon) : (l.foldl g a).2.MemCanon :=
  List.foldlRecOn (motive := fun a : β × State => a.2.MemCanon) l _ h fun a ha x _ => hg a x ha

theorem tryMove {a : State × Bool} {g : State → Option State} (h : a.1.MemCanon) (hg : ∀ u t, u.MemCanon → g u = some t → t.MemCanon) :
    (Machine.tryMove a g).1.MemCanon :=
  State.MovesKeep.tryMove h hg

variable {s : State} (h : s.MemCanon)
include h

theorem store {a : Nat} {bs : List Byte} : (s.store a bs).MemCanon :=
  State.store_memOk h a bs

theorem storeNat {a n v : Nat} : (s.storeNat a n v).MemCanon :=
  State.storeNat_memOk h a n v

theorem setPoison {a : Nat} : (s.setPoison a).MemCanon :=
  State.setPoison_memOk h a

theorem setPoisons {a n : Nat} : (s.setPoisons a n).MemCanon :=
  State.setPoisons_memOk h a n

theorem putAt {u : MemUnit} {a : Nat} {bs : List Byte} : (s.putAt u a bs).MemCanon :=
  State.putAt_memOk h u a bs

theorem unmapped {u : MemUnit} {a c mb : Nat} : (s.unmapped u a c mb).MemCanon :=
  State.unmapped_memOk h u a c mb

theorem storeFor {u : MemUnit} {a mb : Nat} {bs : List Byte} : (s.storeFor u a bs mb).MemCanon :=
  State.storeFor_memOk h u a bs mb

theorem poisonFor {u : MemUnit} {a n : Nat} : (s.poisonFor u a n).MemCanon :=
  State.poisonFor_memOk h u a n

theorem loadFor {u : MemUnit} {a n mb : Nat} : (s.loadFor u a n mb).2.MemCanon :=
  State.loadFor_memOk h u a n mb

end State.MemCanon
end Sys2Proof.Machine
end


section
/-! Memory stays canonical: the registers, the cadence, the control channel, the memories and the event ring (R278, R280, R286). -/

namespace Sys2Proof.Machine
namespace State.MemCanon
variable {s : State} (h : s.MemCanon)
include h

theorem setRw {a : Nat} {w : Word} : (s.setRw a w).MemCanon :=
  upd h

theorem setShadow {a : Nat} {w : Word} : (s.setShadow a w).MemCanon :=
  upd h

theorem applyShadow {p : Nat → Bool} : (s.applyShadow p).MemCanon :=
  upd h

theorem applyPage {page : Nat} : (s.applyPage page).MemCanon :=
  h.applyShadow

theorem count {a n : Nat} : (s.count a n).MemCanon :=
  upd h

theorem waited {a : Nat} : (s.waited a).MemCanon :=
  h.count

theorem used {n : Nat} : (s.used n).MemCanon :=
  upd h

theorem raise {page code : Nat} {pl : List Byte} : (s.raise page code pl).MemCanon :=
  upd h

theorem enter {st : DevState} {cause opcode tag : Nat} : (s.enter st cause opcode tag).MemCanon :=
  raise (upd h)

theorem prfCount {p off n : Nat} : (s.prfCount p off n).MemCanon :=
  h.count

theorem refChange {cause : Nat} {offNs : Int} : (s.refChange cause offNs).MemCanon :=
  h.count.raise

theorem keepLock : s.keepLock.MemCanon :=
  ite h (ite (count (upd h)) (upd h))

theorem cadLoss {cause : Nat} : (s.cadLoss cause).MemCanon :=
  ite h (ite h.keepLock.raise (ite h h.keepLock.refChange))

theorem execSync {domain sender seq : Nat} {twoStep : Bool} {rxHalf : Int} :
    NextCanon (Machine.execSync domain sender seq twoStep rxHalf s) :=
  iteNext h.next (iteNext h.count.next (iteNext (next (upd h.count)) h.count.next))

theorem execFollowUp {domain sender seq : Nat} {originNs corrNs : Int} :
    NextCanon (Machine.execFollowUp domain sender seq originNs corrNs s) := by
  unfold Machine.execFollowUp
  split
  · exact h.next
  · exact iteNext h.next (next (upd h))

theorem execAnnounce {m : AnnounceMsg} : NextCanon (Machine.execAnnounce m s) :=
  iteNext h.next (iteNext (next (upd h)) h.next)

theorem execDelayResp {domain sender : Nat} {reqHalf rxNs : Int} : NextCanon (Machine.execDelayResp domain sender reqHalf rxNs s) :=
  iteNext h.next (next (upd h))

theorem execSyncTimeout : NextCanon (Machine.execSyncTimeout s) := by
  unfold Machine.execSyncTimeout
  split
  · exact h.next
  · exact iteNext (next (cadLoss (upd h))) h.next

theorem execCadenceEdge {offHalf : Int} : NextCanon (Machine.execCadenceEdge offHalf s) :=
  iteNext (next (upd h)) (iteNext (next (count (upd h))) (next (upd h)))

theorem execPulseInconsistent : NextCanon (Machine.execPulseInconsistent s) :=
  iteNext (iteNext (next (refChange (upd h))) (next (cadLoss (upd h)))) h.next

theorem execPulseConsistent : NextCanon (Machine.execPulseConsistent s) :=
  iteNext (next (refChange (upd h))) h.next

theorem execPulseLoss : NextCanon (Machine.execPulseLoss s) := by
  unfold Machine.execPulseLoss
  split
  · exact h.next
  · exact iteNext (next (cadLoss (upd h))) h.next

theorem execRelock {ref : Reference} {named : Nat} {offNs : Int} : NextCanon (Machine.execRelock ref named offNs s) :=
  iteNext (next (refChange (upd h))) h.next

theorem execCadLost {named : Option Nat} : NextCanon (Machine.execCadLost named s) :=
  iteNext (next (raise (upd h))) h.next

theorem answer {hd : Hdr} {op status cause : Nat} {data : List Byte} : (s.answer hd op status cause data).MemCanon :=
  upd h

theorem invalid {hd : Hdr} {op cause n : Nat} : (s.invalid hd op cause n).MemCanon :=
  h.count.raise.answer

theorem takeRx {ch tag : Nat} : (s.takeRx ch tag).MemCanon :=
  upd h

theorem command {hd : Hdr} {op : Nat} {isSealed fit : Bool} {act : State → State} (hact : ∀ u, u.MemCanon → (act u).MemCanon) :
    (s.command hd op isSealed act fit).MemCanon := by
  have hran : ((s.takeRx 0 hd.tag.toNat).count (regAddr Page.global 0x40) 1 |> act).MemCanon := hact _ h
  unfold State.command
  dsimp only
  refine ite h (ite h ?_)
  split
  · exact h
  · refine ite h ?_
    split
    · exact h
    · exact ite h (ite h hran)
    · exact ite h (ite h hran)
    · exact ite h (ite h hran)

theorem startLong {hd : Hdr} {op : Nat} {arg : List Nat} : (s.startLong hd op arg).MemCanon :=
  upd h.answer

theorem endLong {op status cause : Nat} : (s.endLong op status cause).MemCanon := by
  unfold State.endLong
  split
  · exact h
  · exact raise (upd h)

theorem execCommandReservedOpcode {hd : Hdr} {opcode : BitVec 16} : NextCanon (Machine.execCommandReservedOpcode hd opcode s) :=
  iteNext h.next (next (h.command fun _ hu => hu))

theorem execHold {hd : Hdr} : NextCanon (Machine.execHold hd s) :=
  next (h.command fun _ hu => answer (upd hu))

theorem execStop {hd : Hdr} : NextCanon (Machine.execStop hd s) :=
  next (h.command fun _ hu => hu.enter.answer)

theorem execMaintEnter {hd : Hdr} : NextCanon (Machine.execMaintEnter hd s) :=
  next (h.command fun _ hu => answer (enter (upd hu)))

theorem execDebugUnlock {hd : Hdr} : NextCanon (Machine.execDebugUnlock hd s) :=
  next (h.command fun _ hu => answer (raise (upd hu)))

theorem sigFail {op tag cause comp : Nat} : (s.sigFail op tag cause comp).MemCanon :=
  h.count.raise

theorem execKeysetRotate {hd : Hdr} {digest sigRsa sigSlh : List Byte} : NextCanon (Machine.execKeysetRotate hd digest sigRsa sigSlh s) :=
  next (h.command fun _ hu => ite hu.invalid (ite hu.invalid (ite (answer (upd hu)) hu.sigFail.answer)))

theorem execTamperClear {hd : Hdr} : NextCanon (Machine.execTamperClear hd s) :=
  next (h.command fun _ hu => answer (upd hu))

theorem execFloorRaise {hd : Hdr} {floor : Word} : NextCanon (Machine.execFloorRaise hd floor s) :=
  next (h.command fun _ hu => ite (answer (upd hu)) hu.invalid)

theorem execCadReacquire {hd : Hdr} : NextCanon (Machine.execCadReacquire hd s) :=
  next (h.command fun _ hu => startLong (upd hu))

theorem execLocked : NextCanon (Machine.execLocked s) :=
  iteNext (next (endLong (upd h))) h.next

theorem writeSrc {v : Word} : (s.writeSrc v).MemCanon :=
  ite (upd h.setRw) h.setRw.keepLock

theorem execSrc {v : Word} : NextCanon (Machine.execSrc v s) :=
  h.writeSrc.next

theorem execLedgerAck {hd : Hdr} {step : DWord} : NextCanon (Machine.execLedgerAck hd step s) :=
  next (h.command fun _ hu => answer (upd hu))

theorem execPresenceNChange {level : Bool} : NextCanon (Machine.execPresenceNChange level s) :=
  iteNext h.next (iteNext (next (upd h)) (next (upd h)))

theorem execPresence : NextCanon (Machine.execPresence s) := by
  unfold Machine.execPresence
  split
  · exact h.next
  · exact iteNext (next (upd h)) h.next

theorem execSealLoopChange {closed : Bool} : NextCanon (Machine.execSealLoopChange closed s) :=
  iteNext h.next (next (upd h))

theorem execSecTamper : NextCanon (Machine.execSecTamper s) :=
  iteNext (next (raise (count (upd h)))) h.next

theorem countPoison {grans : List Nat} : (s.countPoison grans).MemCanon := by
  unfold State.countPoison
  refine foldl (fun _ _ hu => ?_) h
  split
  · exact ite hu.count hu
  · exact hu

theorem consume {u : MemUnit} {addr n mb : Nat} : (s.consume u addr n mb).2.2.MemCanon := by
  unfold State.consume
  split
  · exact h.unmapped
  · exact h.countPoison

theorem bandEvent {key old : Nat} : (s.bandEvent key old).MemCanon :=
  ite h h.raise

theorem corrected {key addr : Nat} : (s.corrected key addr).MemCanon :=
  ite (raise (upd (count (upd h)))) (count (upd h))

theorem uncorrectable {key addr cause mb : Nat} : (s.uncorrectable key addr cause mb).MemCanon :=
  h.count.setPoison.raise

theorem scrubbed {u : ScrubUnit} {f : ScrubFind} : (s.scrubbed u f).MemCanon := by
  unfold State.scrubbed
  dsimp only
  split
  · exact corrected (ite h.used h)
  · exact ite h.used h
  · exact uncorrectable (ite h.used h)

theorem execPatrolScrub {u : ScrubUnit} {finds : List ScrubFind} : NextCanon (Machine.execPatrolScrub u finds s) :=
  iteNext h.next (iteNext h.next (next (count (upd (foldl (fun _ _ hu => hu.scrubbed) h)))))

theorem execEventAdmit {first : BitVec 16} : NextCanon (Machine.execEventAdmit first s) :=
  next (upd h)

theorem release : s.release.MemCanon :=
  upd h

theorem execEventChannelSend {n : Nat} : NextCanon (Machine.execEventChannelSend n s) :=
  iteNext (next (release (upd h))) h.next

theorem execEventHostCopy : NextCanon (Machine.execEventHostCopy s) := by
  unfold Machine.execEventHostCopy
  refine iteNext h.next ?_
  split
  · exact h.next
  · exact iteNext (next (release (upd h.storeFor))) h.next

theorem setLev {d t w v : Nat} : (s.setLev d t w v).MemCanon :=
  upd h

theorem levReport {d t : Nat} {r : RangeReport} : (s.levReport d t r).MemCanon :=
  h.setLev.setLev.setLev.setLev.setLev.setLev

theorem putLevEntry {d t : Nat} {e : LevEntry} : (s.putLevEntry d t e).MemCanon :=
  upd h

theorem levSeal {d step : Nat} : (s.levSeal d step).MemCanon :=
  foldl (fun _ _ hu => ite (count (ite hu.putLevEntry.count hu.putLevEntry)) (ite hu.putLevEntry.count hu.putLevEntry)) h

theorem writeLev {d t w : Nat} {v : Word} : (s.writeLev d t w v).MemCanon :=
  ite h (ite h (upd h))

theorem execLeavenW0Write {d : Die} {v : Word} : NextCanon (Machine.execLeavenW0Write d v s) :=
  h.writeLev.next

end State.MemCanon
end Sys2Proof.Machine
end


section
/-! Memory stays canonical: the links, the conduits and the configuration images. -/

namespace Sys2Proof.Machine
namespace State.MemCanon
variable {s : State} (h : s.MemCanon)
include h

theorem setSub {code : Nat} {x : SubPort} : (s.setSub code x).MemCanon :=
  upd h

theorem updSub {code : Nat} {g : SubPort → SubPort} : (s.updSub code g).MemCanon :=
  h.setSub

theorem portCount {code off n : Nat} : (s.portCount code off n).MemCanon :=
  h.count

theorem badMessage {code group : Nat} : (s.badMessage code group).MemCanon :=
  h.portCount.raise

theorem linkRaise {code ev lane cause : Nat} : (s.linkRaise code ev lane cause).MemCanon :=
  h.raise

theorem portDown {code cause : Nat} : (s.portDown code cause).MemCanon :=
  h.updSub.linkRaise

theorem trained {code : Nat} {r : TrainResult} : (s.trained code r).MemCanon := by
  unfold State.trained
  dsimp only
  split
  · exact h.portDown
  · exact h.portDown
  · exact h.setSub

theorem formPort {n : Nat} : (s.formPort n).MemCanon :=
  foldl (fun _ _ hu => hu.updSub) (upd (foldl (fun _ _ hv => hv.setSub) h))

theorem execTrainingEnd {code : PortCode} {r : TrainResult} : NextCanon (Machine.execTrainingEnd code r s) :=
  iteNext h.next (iteNext h.next (iteNext h.trained.next h.trained.endLong.next))

theorem putPlain {code typ : Nat} : (s.putPlain code typ).MemCanon :=
  h.updSub.portCount

theorem putReplay {code : Nat} : (s.putReplay code).MemCanon :=
  h.setSub.portCount

theorem sendFlit {code v : Nat} : (s.sendFlit code v).MemCanon := by
  unfold State.sendFlit
  dsimp only
  split
  · exact h
  · exact h.setSub.portCount

theorem pump {code : Nat} : (s.pump code).MemCanon := by
  unfold State.pump
  refine foldl (fun _ _ hu => ?_) h
  dsimp only
  refine ite hu ?_
  split
  · exact hu
  · exact hu.sendFlit

theorem sendMsg {code vc kind id src flags off : Nat} {data : List Byte} : (s.sendMsg code vc kind id src flags off data).MemCanon :=
  h.updSub.pump

theorem heartbeat {code : Nat} : (s.heartbeat code).MemCanon :=
  ite h.sendMsg h

theorem takeAck {code : Nat} {hd : FlitHdr} : (s.takeAck code hd).MemCanon :=
  h.setSub

theorem fec {code : Nat} {hd : FlitHdr} : (s.fec code hd).MemCanon :=
  portCount (portCount (upd h))

theorem resend {code : Nat} : (s.resend code).MemCanon :=
  ite h (ite h.setSub h.setSub.portCount.putReplay)

theorem sendNak {code : Nat} : (s.sendNak code).MemCanon :=
  ite h h.updSub.putPlain

theorem tellPeer {code : Nat} : (s.tellPeer code).MemCanon := by
  unfold State.tellPeer
  exact ite (putPlain h.pump) h.pump

theorem receive {code vc : Nat} {bs : List Byte} : (s.receive code vc bs).MemCanon :=
  ite h.badMessage h.updSub

theorem countFlit {code : Nat} {hd : FlitHdr} {crcOk : Bool} : (s.countFlit code hd crcOk).MemCanon :=
  ite h.fec.portCount h.fec.portCount.portCount

theorem execDataFlit {code : PortCode} {f : Flit} : NextCanon (Machine.execDataFlit code f s) :=
  iteNext h.next (iteNext h.next (iteNext h.countFlit.sendNak.next
    (iteNext (next (tellPeer (ite h.countFlit.takeAck.sendNak h.countFlit.takeAck)))
    (next (tellPeer (ite h.countFlit.takeAck.setSub.receive h.countFlit.takeAck.setSub))))))

theorem execNakFlit {code : PortCode} {hd : FlitHdr} : NextCanon (Machine.execNakFlit code hd s) :=
  iteNext h.next (iteNext h.next (iteNext h.countFlit.takeAck.resend.pump.next h.countFlit.next))

theorem execIdleFlit {code : PortCode} {hd : FlitHdr} : NextCanon (Machine.execIdleFlit code hd s) :=
  iteNext h.next (iteNext h.next (iteNext h.countFlit.takeAck.pump.next h.countFlit.next))

theorem execAckTimeout {code : PortCode} : NextCanon (Machine.execAckTimeout code s) :=
  iteNext h.next (iteNext h.resend.next h.next)

theorem retireLane {code lane cause : Nat} : (s.retireLane code lane cause).MemCanon :=
  ite h (ite h.setSub.portCount.linkRaise.portDown h.setSub.portCount.linkRaise.updSub.portCount)

theorem execLnkLaneRetired {code : PortCode} {uncorr : List (Fin 32 × Nat)} : NextCanon (Machine.execLnkLaneRetired code uncorr s) := by
  unfold Machine.execLnkLaneRetired
  refine iteNext h.next ?_
  dsimp only
  refine iteNext ?_ h.next
  split
  · exact h.retireLane.next
  · exact h.next

theorem execLaneMarginLimit {code : PortCode} {lane : Fin 32} : NextCanon (Machine.execLaneMarginLimit code lane s) :=
  iteNext h.next (iteNext h.retireLane.next h.next)

theorem takeMargin {n lane m : Nat} : (s.takeMargin n lane m).MemCanon :=
  foldl (fun _ _ hu => ite hu.setSub hu) (upd h)

theorem execLockLoss {code : PortCode} : NextCanon (Machine.execLockLoss code s) :=
  iteNext h.next (iteNext h.setSub.portCount.next h.next)

theorem execFastRetrainEnd {code : PortCode} {ok : Bool} : NextCanon (Machine.execFastRetrainEnd code ok s) :=
  iteNext h.next (iteNext h.next (iteNext h.setSub.putReplay.pump.next h.portDown.next))

theorem takeMsg {code kind : Nat} {m : List Byte} {t : State} (ht : s.takeMsg code kind = some (m, t)) : t.MemCanon := by
  unfold State.takeMsg at ht
  dsimp only at ht
  split at ht <;> cases ht
  exact h

theorem execHeartbeat {code : PortCode} : NextCanon (Machine.execHeartbeat code s) := by
  unfold Machine.execHeartbeat
  refine iteNext h.next ?_
  split
  · exact h.next
  · exact iteNext (next (portCount (h.takeMsg ‹_›))) (next (updSub (h.takeMsg ‹_›)))

theorem execLnkPartition {code : PortCode} : NextCanon (Machine.execLnkPartition code s) :=
  iteNext h.next (iteNext h.setSub.linkRaise.next h.next)

theorem setCnd {k : Nat} {c : Conduit} : (s.setCnd k c).MemCanon :=
  upd h

theorem sendFrom {code vc kind id src off : Nat} {bs : List Byte} {poison : Bool} :
    (s.sendFrom code vc kind id src off bs poison).MemCanon :=
  foldl (fun _ _ hu => hu.sendMsg) h

theorem sendBytes {code vc kind id off : Nat} {bs : List Byte} {poison : Bool} : (s.sendBytes code vc kind id off bs poison).MemCanon :=
  h.sendFrom

theorem cndStep {k : Nat} : (s.cndStep k).MemCanon := by
  unfold State.cndStep
  dsimp only
  split
  · exact h
  · exact ite h h.loadFor.countPoison.setCnd.sendBytes

theorem cndPump {k : Nat} : (s.cndPump k).MemCanon :=
  foldl (fun _ _ hu => hu.cndStep) h

theorem handToConduit {k : Nat} : (s.handToConduit k).MemCanon :=
  h.setCnd.cndPump

theorem announceFree {k i : Nat} : (s.announceFree k i).MemCanon :=
  sendMsg (upd h)

theorem setFab {d : Nat} {f : FabDie} : (s.setFab d f).MemCanon :=
  upd h

theorem updFab {d : Nat} {g : FabDie → FabDie} : (s.updFab d g).MemCanon :=
  h.setFab

theorem setEng {d e : Nat} {x : Engine} : (s.setEng d e x).MemCanon :=
  upd h

end State.MemCanon
end Sys2Proof.Machine
end


section
/-! Memory stays canonical: the Chanters, the audits, the health monitors and the Bellows. -/

namespace Sys2Proof.Machine
namespace State.MemCanon
variable {s : State} (h : s.MemCanon)
include h

theorem setCh {d : Nat} {c : ChDie} : (s.setCh d c).MemCanon :=
  upd h

theorem updCh {d : Nat} {g : ChDie → ChDie} : (s.updCh d g).MemCanon :=
  h.setCh

theorem pipeRaise {d code : Nat} {u : Option (List Nat)} {layer cause extra : Nat} : (s.pipeRaise d code u layer cause extra).MemCanon :=
  h.raise

theorem notify {kind : NoticeKind} {dest_ sender a b : Nat} : (s.notify kind dest_ sender a b).MemCanon :=
  upd h

theorem notifyBoth {kind : NoticeKind} {d a b : Nat} : (s.notifyBoth kind d a b).MemCanon :=
  h.notify.notify

theorem abandonStep {d cause : Nat} {stop : Bool} : (s.abandonStep d cause stop).MemCanon :=
  ite h (pipeRaise (updCh (foldl (fun _ _ hu => ite hu hu.updCh.notifyBoth) h)))

theorem programFault {d cause : Nat} {u : Option (List Nat)} {layer : Nat} : (s.programFault d cause u layer).MemCanon :=
  ite h h.updCh.pipeRaise.abandonStep

theorem zeroSlots {d mb : Nat} : (s.zeroSlots d mb).MemCanon :=
  upd h

theorem dropMb {d mb cause : Nat} : (s.dropMb d mb cause).MemCanon :=
  h.zeroSlots.setCh.count.pipeRaise

theorem disarm {d groups : Nat} : (s.disarm d groups).MemCanon :=
  h.setRw

theorem holdMb {d : Nat} {u : List Nat} {cause : Nat} {back past : Bool} {layer : Nat} : (s.holdMb d u cause back past layer).MemCanon :=
  ite h (ite h.setCh.disarm.count.pipeRaise.dropMb h.setCh.disarm.count.pipeRaise)

theorem damageStart {d eng seq cause layer : Nat} : (s.damageStart d eng seq cause layer).MemCanon :=
  h.count.pipeRaise

theorem damageMb {d : Nat} {u : List Nat} {back : Bool} {tensors : List Nat} {eng seq cause layer : Nat} :
    (s.damageMb d u back tensors eng seq cause layer).MemCanon :=
  ite (foldl (fun _ _ hu => hu.notifyBoth) h.count.pipeRaise) h.count.pipeRaise.dropMb

theorem issueAnswer {d e code : Nat} {seq : Option Nat} : (s.issueAnswer d e code seq).MemCanon := by
  unfold State.issueAnswer
  split
  · exact h
  · exact ite h.setCh (ite h.setCh (ite h.setCh.holdMb h.setCh.programFault))

theorem execCreditAudit {d : Die} : NextCanon (Machine.execCreditAudit d s) := by
  unfold Machine.execCreditAudit
  refine iteNext h.next (iteNext h.next ?_)
  generalize s.creditAudit d (s.shadowOf d) = o
  exact iteNext h.count.updFab.next h.count.updFab.count.used.raise.next

theorem recomputeLife : s.recomputeLife.MemCanon :=
  ite (raise (upd h)) (upd h)

theorem monSample {kind index : Nat} {v : ℚ} : (s.monSample kind index v).MemCanon :=
  upd h

theorem execRingOscSample {samples : List (Pd × Fin 4 × Nat)} : NextCanon (Machine.execRingOscSample samples s) :=
  next (foldl (fun _ _ hu => hu.monSample) h)

theorem execRetentionCanary {crust : Fin 16} {windowMs : Nat} : NextCanon (Machine.execRetentionCanary crust windowMs s) :=
  iteNext (next (raise (count (bandEvent (upd h))))) (next (upd h))

theorem execHourlyTrend : NextCanon (Machine.execHourlyTrend s) := by
  unfold Machine.execHourlyTrend
  dsimp only
  refine next (recomputeLife (upd ?_))
  refine foldl (fun _ _ hu => ite (raise (count (upd hu))) (upd hu)) (foldl (fun _ _ hu => ?_) h)
  split
  · exact hu
  · exact ite (raise (count (upd hu))) (upd hu)

theorem setTemp {key c : Nat} : (s.setTemp key c).MemCanon :=
  upd h

theorem followBand {die : MemDie} {c : Nat} : (s.followBand die c).MemCanon :=
  bandEvent (upd h)

theorem readSensor {x : Sensor} {c : Nat} : (s.readSensor x c).MemCanon := by
  unfold State.readSensor
  split
  · exact h.setTemp
  · exact h.setTemp.followBand

theorem execMemRefreshBand {die : MemDie} {c : Nat} : NextCanon (Machine.execMemRefreshBand die c s) :=
  h.readSensor.next

theorem execTempWarn {sensor : Sensor} {c : Nat} : NextCanon (Machine.execTempWarn sensor c s) :=
  iteNext (next (raise (count (upd h.readSensor)))) h.readSensor.next

theorem setMode {e : Envelope} : (s.setMode e).MemCanon :=
  recomputeLife (upd h)

theorem raiseShed {cause : Nat} : (s.raiseShed cause).MemCanon :=
  h.count.raise

theorem shed {cause : Nat} : (s.shed cause).MemCanon := by
  unfold State.shed
  dsimp only
  split
  · exact upd h
  · exact ite h.raiseShed (upd h)

theorem execSupplyAlert : NextCanon (Machine.execSupplyAlert s) :=
  iteNext (next (shed (upd h))) (next (upd h))

theorem execSupplyAlertRelease : NextCanon (Machine.execSupplyAlertRelease s) :=
  next (upd h)

theorem execPllSwitch : NextCanon (Machine.execPllSwitch s) := by
  unfold Machine.execPllSwitch
  split
  · exact h.next
  · exact h.setMode.next
  · exact next (foldl (fun _ _ hu => hu.raiseShed) h.setMode)

theorem writeMode {v : Word} : (s.writeMode v).MemCanon := by
  unfold State.writeMode
  dsimp only
  split
  · exact h.setRw
  · exact upd h.setRw

theorem execMode {v : Word} : NextCanon (Machine.execMode v s) :=
  h.writeMode.next

theorem startNarrow : s.startNarrow.MemCanon := by
  unfold State.startNarrow
  split
  · exact upd h
  · exact upd h
  · exact h

theorem startWiden : s.startWiden.MemCanon := by
  unfold State.startWiden
  split
  · exact ite (upd h) h
  · exact h

theorem bellowsPass {rails : List (Fin 9 × Nat × Nat)} {nElig : Nat} : (s.bellowsPass rails nElig).MemCanon :=
  upd h

theorem microsecond : s.microsecond.MemCanon :=
  upd h

theorem execPwrRampRelaxed : NextCanon (Machine.execPwrRampRelaxed s) :=
  iteNext (next (raise (count (upd h)))) h.next

theorem supplyEvent {cause value last : Nat} : (s.supplyEvent cause value last).MemCanon :=
  h.raise

theorem setHold {n : Nat} : (s.setHold n).MemCanon :=
  upd h

theorem supplyEffect {m : SupplyMsg} : (s.supplyEffect m).MemCanon := by
  unfold State.supplyEffect
  split
  · exact h.setRw.supplyEvent
  · exact h.setHold.supplyEvent
  · exact h.shed.supplyEvent
  · dsimp only
    refine supplyEvent ?_
    split
    · exact h.count.setHold
    · exact h.count.shed
    · exact h.count

theorem supplyCommand {hd : Hdr} {tick : DWord} {ok : Bool} {m : SupplyMsg} : (s.supplyCommand hd tick ok m).MemCanon :=
  h.command fun _ hu => ite hu.invalid (ite hu.supplyEffect.answer (answer (upd hu)))

theorem execCap {hd : Hdr} {watts : Word} {tick : DWord} : NextCanon (Machine.execCap hd watts tick s) :=
  h.supplyCommand.next

theorem execSupplyHold {hd : Hdr} {ticks : Word} {tick : DWord} : NextCanon (Machine.execSupplyHold hd ticks tick s) :=
  h.supplyCommand.next

theorem execShed {hd : Hdr} {tick : DWord} : NextCanon (Machine.execShed hd tick s) :=
  h.supplyCommand.next

theorem execFreqDev {hd : Hdr} {mHz action : Word} {tick : DWord} : NextCanon (Machine.execFreqDev hd mHz action tick s) :=
  h.supplyCommand.next

theorem execSupplyMsgTick : NextCanon (Machine.execSupplyMsgTick s) := by
  unfold Machine.execSupplyMsgTick
  split
  · exact h.next
  · exact next (supplyEffect (upd h))

theorem execHoldExpiry : NextCanon (Machine.execHoldExpiry s) :=
  iteNext (next (upd h)) h.next

theorem execDroop {pd : Pd} : NextCanon (Machine.execDroop pd s) :=
  iteNext (next (count (upd h))) h.next

theorem execDroopEnd {pd : Pd} {ac : Nat} : NextCanon (Machine.execDroopEnd pd ac s) :=
  iteNext (next (count (upd h))) h.next

theorem rampDone {n : Nat} : (s.rampDone n).MemCanon :=
  ite (count (upd h)) h

theorem trim {n : Nat} {t : Trim} : (s.trim n t).MemCanon :=
  ite (upd h) h

theorem execTempLimit {pd : Pd} {c : Nat} : NextCanon (Machine.execTempLimit pd c s) :=
  iteNext (next (shed (raise (count (count (upd h.setTemp)))))) h.setTemp.next

end State.MemCanon
end Sys2Proof.Machine
end


section
/-! Memory stays canonical: the engines. -/

namespace Sys2Proof.Machine
namespace State.MemCanon
variable {s : State} (h : s.MemCanon)
include h

theorem refuseMpd {d e code : Nat} {x : Engine} {pl : List Byte} : (s.refuseMpd d e code x pl).MemCanon :=
  h.setEng.count.raise.issueAnswer

theorem execMpdAccept {d : Die} {r : EngRead} : NextCanon (Machine.execMpdAccept d r s) := by
  unfold Machine.execMpdAccept
  refine iteNext h.next ?_
  dsimp only
  refine iteNext h.next ?_
  refine iteNext h.refuseMpd.next ?_
  refine iteNext h.refuseMpd.next ?_
  refine iteNext h.refuseMpd.next ?_
  split
  · exact h.refuseMpd.next
  · exact h.setEng.count.count.issueAnswer.next

theorem execDescriptorRecord {d : Die} {e : Eng} : NextCanon (Machine.execDescriptorRecord d e s) :=
  iteNext h.next (iteNext h.next h.setEng.issueAnswer.next)

theorem putTile {addrs : List Nat} {t : STile} : (s.putTile addrs t).MemCanon :=
  foldl (fun _ _ hu => ite hu.store.setPoisons hu.store) h

theorem stopLane {d e i lane code : Nat} : (s.stopLane d e i lane code).MemCanon := by
  unfold State.stopLane
  dsimp only
  split
  · exact h
  · split
    · exact h
    · exact h.setEng

theorem mcFault {d e lst i code : Nat} {pl : List Byte} : (s.mcFault d e lst i code pl).MemCanon :=
  raise (updFab (setEng (foldl (fun _ _ hu => hu.stopLane) h)))

theorem mcMismatch {d e lst i : Nat} {j : Job} {pos : Nat} : (s.mcMismatch d e lst i j pos).MemCanon :=
  h.mcFault

theorem fetchTile {d : Die} {e : Eng} {m : Mpd} {lane : Nat} {p : PassIx} : (s.fetchTile d e m lane p).2.MemCanon := by
  unfold State.fetchTile
  dsimp only
  split
  · exact h.countPoison.unmapped
  · exact h.countPoison

theorem fetchUnit {d : Die} {e : Eng} {i : Nat} {j : Job} {pos : Nat} : (s.fetchUnit d e i j pos).MemCanon := by
  unfold State.fetchUnit
  dsimp only
  refine ite h (count (foldl (fun _ _ hu => hu.setEng) (setEng ?_)))
  exact foldlSnd (fun _ _ ha => ha.fetchTile) h

theorem fetchRing {d : Die} {e : Eng} {i : Nat} {j : Job} {l : LaneProg} {pos : Nat} : (s.fetchRing d e i j l pos).MemCanon :=
  ite h h.fetchTile.putTile.setEng.count

theorem execTileFetch {d : Die} {e : Eng} {a : Arr} {hd : Half} : NextCanon (Machine.execTileFetch d e a hd s) := by
  unfold Machine.execTileFetch
  refine iteNext h.next ?_
  split
  · exact h.next
  · split
    · exact h.next
    · split
      · exact h.next
      · exact iteNext h.next (iteNext h.fetchUnit.next h.fetchRing.next)

theorem freeRings {d e : Nat} {m : Mpd} {keep : List Mpd} : (s.freeRings d e m keep).MemCanon :=
  foldl (fun _ _ hu => hu.updFab) h

theorem reportInv {d : Nat} {m : Mpd} {lane n : Nat} : (s.reportInv d m lane n).MemCanon :=
  h.levReport

theorem loadShadow {d e i lane : Nat} : (s.loadShadow d e i lane).MemCanon := by
  unfold State.loadShadow
  obtain ⟨take, htake⟩ : ∃ take, take = State.takeTile := ⟨_, rfl⟩
  rw [← htake]
  clear htake
  extract_lets x
  split
  · exact h
  · split
    · exact h
    · split
      · exact h
      · split
        · exact h
        · exact h.setEng.reportInv

theorem noteLoads {d e a : Nat} : (s.noteLoads d e a).MemCanon :=
  h.setEng

theorem reloadActive {d e i : Nat} {j : Job} {l : LaneProg} : (s.reloadActive d e i j l).MemCanon :=
  h.setEng

theorem obCorrected {d e n : Nat} : (s.obCorrected d e n).MemCanon :=
  h.count

theorem execShadowLoadDone {d : Die} {e : Eng} {a : Arr} {hd : HalfRead} : NextCanon (Machine.execShadowLoadDone d e a hd s) := by
  unfold Machine.execShadowLoadDone
  refine iteNext h.next ?_
  dsimp only
  split
  · exact h.next
  · exact iteNext h.next (next (ite h.noteLoads.obCorrected.reloadActive h.noteLoads.obCorrected.loadShadow))

theorem execPreload {d : Die} {e : Eng} {a : Arr} {hd : HalfRead} : NextCanon (Machine.execPreload d e a hd s) := by
  unfold Machine.execPreload
  refine iteNext h.next ?_
  dsimp only
  split
  · exact h.next
  · exact iteNext h.obCorrected.loadShadow.next h.next

theorem storeBits {plane off n v : Nat} : (s.storeBits plane off n v).MemCanon :=
  h.storeNat

theorem storeBitsFor {u : MemUnit} {plane off n v : Nat} : (s.storeBitsFor u plane off n v).MemCanon :=
  ite h h.storeBits

theorem rowFaults {u : MemUnit} {mb : Nat} {addrs : List Nat} : (s.rowFaults u mb addrs).MemCanon := by
  unfold State.rowFaults
  refine foldl (fun _ _ hu => ?_) h
  split
  · exact hu.unmapped
  · exact hu

theorem putHeader {d e seq lane0 : Nat} : (s.putHeader d e seq lane0).MemCanon := by
  unfold State.putHeader
  dsimp only
  split
  · exact h
  · refine ite h ?_
    split
    · exact h.setEng
    · exact h.setEng.storeFor

theorem countLane {d e : Nat} {m : Mpd} {lane off step n : Nat} : (s.countLane d e m lane off step n).MemCanon :=
  foldl (fun _ _ hu => hu.count) h

theorem skipRest {d e : Nat} {j : Job} : (s.skipRest d e j).MemCanon :=
  foldl (fun _ _ hu => ite hu.countLane hu) h

theorem chanterStatus {d e : Nat} {j : Job} : (s.chanterStatus d e j).MemCanon := by
  unfold State.chanterStatus
  extract_lets c s1
  split
  · exact h
  · extract_lets u layer unit s2
    have h2 : s2.MemCanon := by
      unfold s2
      split
      · exact ite h.setCh.holdMb h.setCh
      · exact h.setCh
    split
    · exact h2
    · exact ite h2.damageStart h2.damageMb

theorem completeJob {d e i : Nat} : (s.completeJob d e i).MemCanon := by
  unfold State.completeJob
  split
  · exact h
  · exact chanterStatus (count (count (count (freeRings (setEng (ite h (foldl (fun _ _ hu => hu.putHeader) h.skipRest)))))))

theorem execMpdComplete {d : Die} {e : Eng} {a : Arr} : NextCanon (Machine.execMpdComplete d e a s) := by
  unfold Machine.execMpdComplete
  refine iteNext h.next ?_
  dsimp only
  split
  · exact h.next
  · exact iteNext h.completeJob.next h.next

theorem execEmptyMpd {d : Die} {e : Eng} {a : Arr} : NextCanon (Machine.execEmptyMpd d e a s) := by
  unfold Machine.execEmptyMpd
  refine iteNext h.next ?_
  dsimp only
  split
  · exact h.next
  · exact iteNext h.next (iteNext h.setEng.count.completeJob.next h.setEng.count.next)

theorem startLane {d e i lane : Nat} {r : Ready} : (s.startLane d e i lane r).MemCanon := by
  unfold State.startLane
  dsimp only
  split
  · exact h
  · split
    · exact h
    · exact ite h.setEng.noteLoads.countLane h.setEng.noteLoads

theorem countBusy {d e : Nat} {j : Job} {rs : List (Nat × Ready)} : (s.countBusy d e j rs).MemCanon :=
  foldl (fun _ _ hu => hu.count) h

theorem engWaits {d e : Nat} {offs : List Nat} : (s.engWaits d e offs).MemCanon :=
  foldl (fun _ _ hu => hu.waited) h

theorem execPassStart {d : Die} {e : Eng} {a : Arr} {hd : HalfRead} : NextCanon (Machine.execPassStart d e a hd s) := by
  unfold Machine.execPassStart
  refine iteNext h.next ?_
  dsimp only
  split
  · exact h.next
  · split
    · exact h.next
    · exact next (engWaits (countBusy (foldl (fun _ _ hu => hu.startLane) h.obCorrected)))

theorem reportReplayed {d e : Nat} {m : Mpd} {lane no : Nat} {chk : Option (Nat × Nat × Nat)} :
    (s.reportReplayed d e m lane no chk).MemCanon := by
  unfold State.reportReplayed
  split
  · exact h
  · exact h.count.raise

theorem execPassAccept {d : Die} {e : Eng} {a : Arr} {hd : Half} : NextCanon (Machine.execPassAccept d e a hd s) := by
  unfold Machine.execPassAccept
  refine iteNext h.next ?_
  extract_lets x lane ar
  split
  · exact h.next
  · extract_lets m lp p no last rows
    refine iteNext h.next ?_
    split
    · exact h.next
    · extract_lets t1 sp t2 x1 x2 s1 s2 s3 s4 s5
      have h1 : s1.MemCanon := h.setEng.reportInv
      have h2 : s2.MemCanon := ite h1.countLane h1
      have h3 : s3.MemCanon := ite h2.count h2
      have h4 : s4.MemCanon := ite h3.count h3
      exact next (ite h4.reportReplayed.raise h4.reportReplayed)

theorem idleCheck {d e ar : Nat} : (s.idleCheck d e ar).MemCanon :=
  ite h.count h

theorem checkReplay {d e i : Nat} {j : Job} {l : LaneProg} {chk : Nat × Nat × Nat} : (s.checkReplay d e i j l chk).MemCanon :=
  h.noteLoads.setEng

theorem execCheckFailure {d : Die} {e : Eng} {a : Arr} {hd : Half} {kind : CheckKind} {index : BitVec 16} :
    NextCanon (Machine.execCheckFailure d e a hd kind index s) := by
  unfold Machine.execCheckFailure
  refine iteNext h.next ?_
  dsimp only
  split
  · exact h.idleCheck.next
  · exact iteNext h.idleCheck.next (iteNext h.checkReplay.next h.stopLane.setEng.raise.next)

theorem execOverflow {d : Die} {e : Eng} {a : Arr} {hd : Half} : NextCanon (Machine.execOverflow d e a hd s) := by
  unfold Machine.execOverflow
  refine iteNext h.next ?_
  dsimp only
  split
  · exact h.next
  · exact iteNext h.next (next (ite h.setEng.count h.setEng))

theorem execRung3Move {d : Die} {e : Eng} {a : Arr} {hd : Half} : NextCanon (Machine.execRung3Move d e a hd s) := by
  unfold Machine.execRung3Move
  refine iteNext h.next ?_
  dsimp only
  split
  · exact h.next
  · exact iteNext h.next h.setEng.next

theorem execEngOperandUncorrectable {d : Die} {e : Eng} {a : Arr} {hd : Half} {shared : Bool} :
    NextCanon (Machine.execEngOperandUncorrectable d e a hd shared s) := by
  unfold Machine.execEngOperandUncorrectable
  refine iteNext h.next ?_
  dsimp only
  split
  · exact h.next
  · exact iteNext h.next (next (raise (foldl (fun _ _ hu => hu.stopLane) h)))

theorem execDrain {d : Die} {e : Eng} {a : Arr} : NextCanon (Machine.execDrain d e a s) := by
  unfold Machine.execDrain
  refine iteNext h.next ?_
  dsimp only
  split
  · exact h.next
  · exact iteNext h.next h.setEng.next

theorem writeRow {d mb : Nat} {t : List Nat} {v : LevView} {c0 : Coord} {bs : List (Nat × List Nat)} :
    (s.writeRow d mb t v c0 bs).MemCanon := by
  unfold State.writeRow
  split
  · exact h
  · exact foldl (fun _ _ hu => ite (storeBitsFor (foldl (fun _ _ hv => hv.storeBitsFor) hu))
      (foldl (fun _ _ hw => hw.storeBitsFor) hu)) h.rowFaults

theorem execEpilogueRow {d : Die} {e : Eng} {a : ArrRead} : NextCanon (Machine.execEpilogueRow d e a s) := by
  unfold Machine.execEpilogueRow
  refine iteNext h.next ?_
  dsimp only
  split
  · exact h.next
  · refine iteNext h.next ?_
    split
    · exact next (setEng (writeRow (levReport (putHeader (ite h.obCorrected.engWaits h)))))
    · exact next (raise (count (setEng (writeRow (levReport (putHeader (ite h.obCorrected.engWaits h)))))))

theorem execBallastPass {d : Die} {e : Eng} {a : Arr} : NextCanon (Machine.execBallastPass d e a s) :=
  iteNext h.next (iteNext (next (upd h.setEng.count)) h.next)

theorem holdUnit {d e lst i : Nat} {j : Job} {u : McUnit} : (s.holdUnit d e lst i j u).MemCanon :=
  setEng (foldl (fun _ _ hu => hu.putTile) h)

theorem execMulticastUnit {d : Die} {e : Eng} {lst : Fin 64} : NextCanon (Machine.execMulticastUnit d e lst s) := by
  unfold Machine.execMulticastUnit
  refine iteNext h.next ?_
  dsimp only
  split
  · exact h.next
  · split
    · exact next (ite h.setEng.count h)
    · split
      · exact h.next
      · exact iteNext h.setEng.count.holdUnit.next h.setEng.count.mcMismatch.next

theorem execSeqMcastStall {d : Die} {e : Eng} {lst : Fin 64} : NextCanon (Machine.execSeqMcastStall d e lst s) := by
  unfold Machine.execSeqMcastStall
  refine iteNext h.next ?_
  split
  · exact h.next
  · refine iteNext h.next ?_
    split
    · exact h.next
    · exact h.mcFault.next

end State.MemCanon
end Sys2Proof.Machine
end


section
/-! Memory stays canonical: the fabric, the phase programs, the swaps and the KV streams. -/

namespace Sys2Proof.Machine
namespace State.MemCanon
variable {s : State} (h : s.MemCanon)
include h

theorem setKv {d : Nat} {k : KvDie} : (s.setKv d k).MemCanon :=
  upd h

theorem kvCount {d off n : Nat} : (s.kvCount d off n).MemCanon :=
  h.count

theorem setKvEntry {q : KvSeq} {st j : Nat} {page : Option Nat} : (s.setKvEntry q st j page).MemCanon :=
  h.storeNat

theorem kvRaise {d code q op page st n : Nat} : (s.kvRaise d code q op page st n).MemCanon :=
  h.raise

theorem kvCodes {d page pos : Nat} {v : Bool} : (s.kvCodes d page pos v).2.2.MemCanon :=
  h.consume

theorem kvRead {d : Nat} {x0 : SpRun} : (s.kvRead d x0).2.2.2.2.MemCanon := by
  unfold State.kvRead
  dsimp only
  split
  · exact h
  · split
    · exact ite h.kvCount h
    · split
      · exact h.kvCodes.kvCodes
      · exact h.consume

theorem kvWrite {d : Nat} {x0 : SpRun} {bs : List Byte} : (s.kvWrite d x0 bs).2.MemCanon := by
  unfold State.kvWrite
  dsimp only
  split
  · exact h
  · split
    · exact ite h.kvCount h
    · split
      · exact h.storeFor.storeFor
      · exact h.storeFor

theorem lsUncorrectable {d r : Nat} : (s.lsUncorrectable d r).MemCanon :=
  h.setFab.raise.abandonStep

theorem joinQueue {d r : Nat} {rec0 : List Nat} {c k : Nat} {e : Entry} : (s.joinQueue d r rec0 c k e).MemCanon :=
  ite h.setFab.storeNat h.setFab

theorem move {d : Nat} {rec0 : List Nat} {r src c : Nat} {t : State} (ht : s.move d rec0 r src c = some t) : t.MemCanon := by
  unfold State.move at ht
  split at ht
  · obtain ⟨-, ht⟩ := Option.ite_none_right_eq_some.mp ht
    cases ht
    exact h.setFab.joinQueue
  · cases ht

theorem moveQueue {d : Nat} {rec0 : List Nat} {r src : Nat} : (s.moveQueue d rec0 r src).1.MemCanon := by
  unfold State.moveQueue
  dsimp only
  split
  · exact h.setFab
  · split
    · exact h
    · split
      · exact h.lsUncorrectable
      · refine foldlFst (fun _ _ hu => ?_) h
        split
        · exact hu.move ‹_›
        · exact hu

theorem moveReeds {d : Nat} : (s.moveReeds d).1.MemCanon := by
  delta State.moveReeds
  generalize List.filter _ _ = keys
  refine foldlFst (l := keys) (fun _ _ ha => ?_) h
  dsimp only
  exact ha.moveQueue

theorem inPort {d e i : Nat} {t : State} (ht : s.inPort d e i = some t) : t.MemCanon := by
  unfold State.inPort at ht
  dsimp only at ht
  split at ht
  · cases ht
  · obtain ⟨-, ht⟩ := Option.ite_none_left_eq_some.mp ht
    cases ht
    exact h.store

theorem portPoison {d mb addr : Nat} : (s.portPoison d mb addr).MemCanon := by
  unfold State.portPoison
  dsimp only
  split
  · exact h.raise
  · exact h.raise.damageMb

theorem portRead {d p : Nat} {t : State} (ht : s.portRead d p = some t) : t.MemCanon := by
  unfold State.portRead at ht
  dsimp only at ht
  obtain ⟨-, ht⟩ := Option.ite_none_left_eq_some.mp ht
  split at ht
  · cases ht
    exact foldl (fun _ _ hu => hu.portPoison) h.kvRead.setFab
  · split at ht
    · cases ht
      refine ite (portPoison (setFab ?_)) (setFab ?_) <;>
      · split
        · exact h
        · exact h.consume
    · cases ht
      exact ite h.consume.setFab.portPoison h.consume.setFab

theorem portHeader {d p addr mb : Nat} {bs : List Byte} : (s.portHeader d p addr mb bs).MemCanon := by
  unfold State.portHeader
  split
  · exact upd h
  · exact h.storeFor

theorem portStore {d p addr mb : Nat} {bs : List Byte} : (s.portStore d p addr mb bs).MemCanon :=
  h.storeFor

theorem portWrite {d p : Nat} {t : State} (ht : s.portWrite d p = some t) : t.MemCanon := by
  unfold State.portWrite at ht
  dsimp only at ht
  split at ht
  · cases ht
  · split at ht
    · cases ht
      exact h.setFab.setKv
    · split at ht
      · obtain ⟨-, ht⟩ := Option.ite_none_left_eq_some.mp ht
        cases ht
        exact h.kvWrite.setFab
      · obtain ⟨-, ht⟩ := Option.ite_none_left_eq_some.mp ht
        obtain ⟨-, ht⟩ := Option.ite_none_left_eq_some.mp ht
        cases ht
        exact h.setFab.portStore

theorem moveRound {d : Nat} {ports engines places : List Nat} : (s.moveRound d ports engines places).1.MemCanon := by
  unfold State.moveRound
  dsimp only
  split
  · exact h.moveReeds
  · refine foldlFst (fun _ _ ha => ?_) (foldlFst (fun _ _ ha => foldlFst (fun _ _ hb => ?_) (ite ha ha)) h.moveReeds)
    · exact tryMove (tryMove ha fun _ _ hu ht => hu.portRead ht) fun _ _ hu ht => hu.portWrite ht
    · refine tryMove (tryMove hb fun _ _ hu ht => ?_) fun _ _ hu ht => hu.inPort ht
      obtain ⟨f, -, rfl⟩ := Option.map_eq_some_iff.mp ht
      exact hu

theorem moveOnce {d : Nat} : (s.moveOnce d).1.MemCanon :=
  h.moveRound

theorem settleN {d n : Nat} : (s.settleN d n).MemCanon := by
  induction n generalizing s with
  | zero => exact h
  | succ n ih => exact ite (ih h.moveOnce) h.moveOnce

theorem settle {d : Nat} : (s.settle d).MemCanon :=
  h.settleN

theorem tokenInvalid {d who port token : Nat} : (s.tokenInvalid d who port token).MemCanon :=
  h.count.raise.programFault

theorem holdRun {d mb code : Nat} : (s.holdRun d mb code).MemCanon := by
  unfold State.holdRun
  split
  · exact h.holdMb
  · exact h

theorem limitOver {d who port v mb : Nat} : (s.limitOver d who port v mb).MemCanon :=
  h.count.raise.holdRun

theorem kvRunStart {d p run word : Nat} {f : FabDie} : (s.kvRunStart d p run word f).MemCanon :=
  ite h.setFab.limitOver (ite h.setFab.setKv.kvRaise h.setFab.setKv)

theorem execStreamRun {d : Die} {p : Sp} : NextCanon (Machine.execStreamRun d p s) := by
  unfold Machine.execStreamRun
  refine iteNext h.next ?_
  dsimp only
  refine iteNext h.next ?_
  refine iteNext ?_ ?_
  · split
    · exact h.kvRunStart.settle.next
    · exact h.next
  · refine iteNext h.next ?_
    split
    · exact h.next
    · exact iteNext h.setFab.limitOver.next (next (settle (ite h.setFab.portHeader h.setFab)))

theorem boundEnd {d p : Nat} : (s.boundEnd d p).MemCanon :=
  ite (upd (ite h h.setKv)) (ite h h.setKv)

theorem ringEntry {d p : Nat} : (s.ringEntry d p).MemCanon := by
  unfold State.ringEntry
  dsimp only
  refine ite h ?_
  split
  · exact h.handToConduit
  · exact h

theorem execStreamRunEnd {d : Die} {p : Sp} : NextCanon (Machine.execStreamRunEnd d p s) :=
  iteNext h.next (iteNext h.next h.ringEntry.setFab.boundEnd.settle.next)

theorem popPort {d r p : Nat} : (s.popPort d r p).MemCanon := by
  unfold State.popPort
  split
  · exact h
  · exact h.setFab

theorem pushOut {d r p : Nat} {e : Entry} : (s.pushOut d r p e).MemCanon :=
  h.setFab

theorem instrValue {d r : Nat} {i : RInstr} : (s.instrValue d r i).2.MemCanon := by
  unfold State.instrValue
  dsimp only
  split
  · exact h
  · exact h
  · exact h
  · exact h
  · exact h
  · exact h
  · exact h
  · exact h
  · exact h
  · exact h.levReport
  · exact h.levReport
  · exact h
  · exact h
  · exact h
  · exact h

theorem writeDst {d r : Nat} {i : RInstr} {v : Nat} : (s.writeDst d r i v).MemCanon :=
  ite h.setFab (ite h.pushOut.used (ite h.setFab (ite h.pushOut (ite (ite h.storeNat h.storeNat) h))))

theorem instr {d r : Nat} {i : RInstr} : (s.instr d r i).MemCanon := by
  unfold State.instr
  split
  · exact h
  · exact h.pushOut
  · exact writeDst (foldl (fun _ _ hu => hu.popPort) h.instrValue)

theorem body {d r : Nat} {b : List RInstr} : (s.body d r b).MemCanon :=
  foldl (fun _ _ hu => hu.instr) h

theorem loadLimit {d r i : Nat} : (s.loadLimit d r i).MemCanon := by
  unfold State.loadLimit
  dsimp only
  refine ite h ?_
  split
  · exact h
  · exact ite h.popPort.setFab.limitOver h.popPort.setFab

theorem loadLimits {d r : Nat} : (s.loadLimits d r).MemCanon :=
  foldl (fun _ _ hu => hu.loadLimit) h

theorem noteIssue {d r : Nat} : (s.noteIssue d r).MemCanon :=
  ite h.updFab h

theorem execReedFiring {d : Die} {r : Reed} : NextCanon (Machine.execReedFiring d r s) :=
  iteNext h.next (iteNext h.loadLimits.next (iteNext h.loadLimits.lsUncorrectable.next h.loadLimits.noteIssue.body.setFab.settle.next))

theorem execCounterWrap {d : Die} {r : Reed} {c : Fin 4} : NextCanon (Machine.execCounterWrap d r c s) := by
  unfold Machine.execCounterWrap
  refine iteNext h.next ?_
  extract_lets s0 rec0 x b x1 x2 s1 s2 s3 reed s5 s4
  have h0 : s0.MemCanon := h.loadLimits
  have h2 : s2.MemCanon := ite h0.setFab.pushOut h0.setFab
  have h3 : s3.MemCanon := h2.noteIssue.body
  have h4 : s4.MemCanon := ite (ite h3.setFab.pushOut h3.setFab) h3
  exact iteNext h0.next (iteNext h0.lsUncorrectable.next h4.settle.next)

theorem goAtReed {d r kind : Nat} : (s.goAtReed d r kind).MemCanon := by
  unfold State.goAtReed
  split
  · exact h
  · exact ite h (ite h.popPort.tokenInvalid.settle (ite h h.popPort.setFab.settle))

theorem goAtPort {d p kind : Nat} : (s.goAtPort d p kind).MemCanon := by
  unfold State.goAtPort
  dsimp only
  split
  · exact h
  · exact ite h (ite h.setFab.tokenInvalid.settle (ite h h.setFab.settle))

theorem tokenAtChanter {d c kind : Nat} : (s.tokenAtChanter d c kind).MemCanon := by
  unfold State.tokenAtChanter
  dsimp only
  split
  · exact h
  · exact ite h (ite h.setFab.settle h.setFab.tokenInvalid.settle)

theorem wrongKind {d : Nat} {t : TokenTarget} {kind : Nat} : (s.wrongKind d t kind).MemCanon := by
  unfold State.wrongKind
  split
  · split
    · exact h
    · exact ite h.popPort.tokenInvalid.settle h
  · dsimp only
    split
    · exact h
    · exact ite h.setFab.tokenInvalid.settle h
  · exact h.tokenAtChanter

theorem goToken {d : Nat} {t : TokenTarget} {kind : Nat} : (s.goToken d t kind).MemCanon := by
  unfold State.goToken
  split
  · exact h.goAtReed
  · exact h.goAtPort
  · exact h.tokenAtChanter

theorem execGoToken {d : Die} {t : TokenTarget} : NextCanon (Machine.execGoToken d t s) :=
  iteNext h.next h.goToken.next

theorem execEndToken {d : Die} {t : TokenTarget} : NextCanon (Machine.execEndToken d t s) :=
  iteNext h.next h.goToken.next

theorem execDoneToken {d : Die} {t : TokenTarget} : NextCanon (Machine.execDoneToken d t s) :=
  iteNext h.next h.goToken.next

theorem execPhaseToken {d : Die} {t : TokenTarget} : NextCanon (Machine.execPhaseToken d t s) :=
  iteNext h.next h.wrongKind.next

theorem steered {d r n : Nat} : (s.steered d r n).MemCanon :=
  ite h.noteIssue.setFab.popPort.settle h.noteIssue.setFab.settle

theorem execSel {d : Die} {t : TokenTarget} : NextCanon (Machine.execSel d t s) := by
  unfold Machine.execSel
  refine iteNext h.next ?_
  split
  · dsimp only
    split
    · exact h.loadLimits.next
    · refine iteNext h.loadLimits.next ?_
      refine iteNext h.loadLimits.wrongKind.next ?_
      split
      · exact h.loadLimits.next
      · exact iteNext h.loadLimits.next h.loadLimits.popPort.pushOut.steered.next
  · exact h.wrongKind.next

theorem execBr {d : Die} {t : TokenTarget} : NextCanon (Machine.execBr d t s) := by
  unfold Machine.execBr
  refine iteNext h.next ?_
  split
  · dsimp only
    split
    · exact h.loadLimits.next
    · refine iteNext h.loadLimits.next ?_
      refine iteNext h.loadLimits.wrongKind.next ?_
      split
      · exact h.loadLimits.next
      · exact iteNext h.loadLimits.next (next (steered (ite h.loadLimits.popPort.pushOut h.loadLimits.popPort)))
  · exact h.wrongKind.next

theorem execFabStarve {d : Die} {r : Reed} : NextCanon (Machine.execFabStarve d r s) :=
  iteNext h.next (iteNext h.next h.setFab.count.raise.abandonStep.next)

theorem execStepStart {d : Die} : NextCanon (Machine.execStepStart d s) :=
  iteNext h.next h.setCh.next

theorem takeIngest {d : Nat} : (s.takeIngest d).MemCanon :=
  ite h (ite h.setCh (ite (ite h.setCh.pipeRaise.holdMb h.setCh.count.pipeRaise) (ite h.setCh h.setCh.count.pipeRaise)))

theorem noteSegments {d : Nat} {u : List Nat} : (s.noteSegments d u).MemCanon :=
  ite h.setCh.notifyBoth h

theorem execForwardPhase {d : Die} : NextCanon (Machine.execForwardPhase d s) := by
  unfold Machine.execForwardPhase
  dsimp only
  refine iteNext h.next ?_
  split
  · exact next (ite h.takeIngest h)
  · exact iteNext (next (ite h.takeIngest h)) (next (noteSegments (setCh (ite h.takeIngest h))))

theorem execBackwardPhase {d : Die} : NextCanon (Machine.execBackwardPhase d s) := by
  unfold Machine.execBackwardPhase
  dsimp only
  refine iteNext h.next ?_
  split
  · exact h.next
  · exact iteNext h.next h.setCh.next

theorem chOp {d code : Nat} {p : Phase} {act : PhaseRun → List Nat → State} (hact : ∀ r w, (act r w).MemCanon) :
    (s.chOp d p code act).MemCanon := by
  unfold State.chOp
  dsimp only
  split
  · exact h
  · exact ite h (hact _ _)

theorem pass {d : Nat} {p : Phase} {r : PhaseRun} : (s.pass d p r).MemCanon :=
  h.updCh

theorem execIssue {d : Die} {p : Phase} : NextCanon (Machine.execIssue d p s) :=
  next (h.chOp fun _ _ => ite h (ite h.setEng.updCh.used h.setEng.updCh))

theorem execExtent {d : Die} {p : Phase} : NextCanon (Machine.execExtent d p s) :=
  next (h.chOp fun _ _ => h.setEng.updCh.pass)

theorem execGo {d : Die} {p : Phase} : NextCanon (Machine.execGo d p s) :=
  next (h.chOp fun _ _ => ite h h.setFab.pass.settle)

theorem execWord {d : Die} {p : Phase} : NextCanon (Machine.execWord d p s) :=
  next (h.chOp fun _ _ => ite h h.setFab.pass.settle.used)

theorem execWait {d : Die} {p : Phase} : NextCanon (Machine.execWait d p s) :=
  next (h.chOp fun _ _ => ite (ite h.setFab.pass h) (ite h h.pass))

theorem execArm {d : Die} {p : Phase} : NextCanon (Machine.execArm d p s) :=
  next (h.chOp fun _ _ => h.setRw.pass)

theorem execRecv {d : Die} {p : Phase} : NextCanon (Machine.execRecv d p s) :=
  next (h.chOp fun _ _ => ite h.pass h)

theorem trySwapLayer {d l : Nat} : (s.trySwapLayer d l).MemCanon :=
  ite h.setCh.count h

theorem releaseLayer {d l : Nat} : (s.releaseLayer d l).MemCanon :=
  trySwapLayer (foldl (fun _ _ hu => ite hu.notify hu) h)

theorem execDoneLayer {d : Die} {p : Phase} : NextCanon (Machine.execDoneLayer d p s) :=
  next (h.chOp fun _ _ => ite h (ite h.setCh.pass.releaseLayer h.setCh.pass))

theorem freeEntry {d : Nat} {back : Bool} {entry : Nat} : (s.freeEntry d back entry).MemCanon := by
  unfold State.freeEntry
  refine ite h ?_
  dsimp only
  split
  · exact h.updCh
  · exact announceFree (upd h.updCh)

theorem execEnd {d : Die} {p : Phase} : NextCanon (Machine.execEnd d p s) := by
  unfold Machine.execEnd
  refine next ?_
  refine h.chOp fun _ _ => ?_
  dsimp only
  split
  · exact h.setCh
  · exact h.setCh.freeEntry.count
  · exact h.setCh.freeEntry.count

theorem takeNotice {kind : NoticeKind} {dest_ : Nat} {n : Notice} {t : State}
  (ht : s.takeNotice kind dest_ = some (n, t)) : t.MemCanon := by
  unfold State.takeNotice at ht
  split at ht
  · cases ht
  · obtain ⟨-, ht⟩ := Option.ite_none_left_eq_some.mp ht
    cases ht
    exact h

theorem execNextComplete {d : Die} : NextCanon (Machine.execNextComplete d s) := by
  unfold Machine.execNextComplete
  refine iteNext h.next ?_
  split
  · exact h.next
  · exact next (trySwapLayer (updCh (h.takeNotice ‹_›)))

theorem dispose {d action : Nat} : (s.dispose d action).MemCanon := by
  unfold State.dispose
  dsimp only
  refine ite ?_ (ite h.updCh.abandonStep h)
  split
  · exact h
  · exact h.dropMb

theorem execDrop {d : Die} : NextCanon (Machine.execDrop d s) :=
  h.dispose.next

theorem execAbandon {d : Die} : NextCanon (Machine.execAbandon d s) :=
  h.dispose.next

theorem execHoldLimitExpiry {d : Die} : NextCanon (Machine.execHoldLimitExpiry d s) := by
  unfold Machine.execHoldLimitExpiry
  refine iteNext h.next ?_
  dsimp only
  split
  · exact h.next
  · exact iteNext h.next h.dropMb.next

theorem swapPoint {d : Nat} : (s.swapPoint d).MemCanon :=
  ite h (ite h.setFab h.setFab.count.raise)

theorem activationPoint {d : Nat} : (s.activationPoint d).MemCanon :=
  ite (setFab (upd h)) (ite (setFab (upd h)) (upd h))

theorem levTake {d count : Nat} {word : State → Nat → Nat → Nat} : (s.levTake d count word).MemCanon :=
  foldl (fun _ _ hu => hu) h

theorem levSwap {d count : Nat} : (s.levSwap d count).MemCanon :=
  h.levTake

theorem levReactivate {d : Nat} : (s.levReactivate d).MemCanon :=
  h.levTake

theorem clearRun {d : Nat} : (s.clearRun d).MemCanon :=
  foldl (fun _ _ hu => foldl (fun _ _ hv => hv.pushOut) hu) h.setFab

theorem kvApply {d : Nat} : (s.kvApply d).MemCanon :=
  ite h.applyShadow.setKv h.applyShadow

theorem kvSwap {d : Nat} : (s.kvSwap d).MemCanon :=
  ite (kvApply (used (kvRaise (upd h)))) h.kvApply

theorem restartPhases {d : Nat} : (s.restartPhases d).MemCanon :=
  h.updCh

theorem freezeSlots {d : Nat} : (s.freezeSlots d).MemCanon :=
  h.updCh

theorem doSwap {d : Nat} : (s.doSwap d).MemCanon :=
  h.levSwap.setFab.freezeSlots.clearRun.kvSwap.count.restartPhases

theorem execSwap {d : Die} : NextCanon (Machine.execSwap d s) :=
  iteNext h.next (iteNext h.doSwap.settle.next h.next)

theorem execReactivation {d : Die} : NextCanon (Machine.execReactivation d s) :=
  iteNext h.next (iteNext h.levReactivate.updFab.clearRun.kvSwap.count.restartPhases.settle.next h.next)

theorem flush {d : Nat} : (s.flush d).MemCanon :=
  foldl (fun _ _ hu => hu.setEng) (updFab (foldl (fun _ _ hv => hv.boundEnd) h))

theorem kvClearTable {q : KvSeq} : (s.kvClearTable q).MemCanon :=
  foldl (fun _ _ hu => hu.setKvEntry) h

theorem kvCopyGranules {d src dst n : Nat} : (s.kvCopyGranules d src dst n).MemCanon :=
  foldl (fun _ _ hu => ite hu.consume.storeFor.poisonFor hu.consume.storeFor) h

theorem kvCopy {d old new : Nat} : (s.kvCopy d old new).MemCanon :=
  h.kvCopyGranules.kvCopyGranules

theorem kvAppendAt {d : Nat} {q : KvSeq} {p : Nat × Nat} : (s.kvAppendAt d q p).MemCanon := by
  unfold State.kvAppendAt
  dsimp only
  split
  · split
    · exact h
    · exact h.setKv.setKvEntry.kvCount
  · refine ite h ?_
    split
    · exact h
    · exact h.kvCopy.setKv.setKvEntry.kvCount.kvCount

theorem kvReclaim {d : Nat} : (s.kvReclaim d).MemCanon :=
  h.setKv.kvCount

theorem kvRespond {d src w : Nat} : (s.kvRespond d src w).MemCanon :=
  ite h.setKv h.setFab.settle

theorem kvOpen {d : Nat} {f : KvFields} : (s.kvOpen d f).s.MemCanon := by
  unfold State.kvOpen
  dsimp only
  split
  · exact h
  · exact h.kvClearTable

theorem kvFork {d : Nat} {f : KvFields} : (s.kvFork d f).s.MemCanon := by
  unfold State.kvFork
  dsimp only
  split
  · exact h
  · split
    · exact h
    · split
      · exact h
      · exact foldl (fun _ _ hu => hu.setKvEntry) h.kvClearTable

theorem kvAppend {d : Nat} {f : KvFields} : (s.kvAppend d f).s.MemCanon := by
  unfold State.kvAppend
  dsimp only
  split
  · exact h
  · split
    · exact h
    · split
      · exact h
      · split
        · exact h
        · exact foldl (fun _ _ hu => hu.kvAppendAt) h

theorem kvFreeSeq {d : Nat} {f : KvFields} : (s.kvFreeSeq d f).s.MemCanon := by
  unfold State.kvFreeSeq
  dsimp only
  split
  · exact h
  · split
    · exact h
    · exact foldl (fun _ _ hu => hu.setKvEntry) h

theorem kvAdvance {d : Nat} {f : KvFields} : (s.kvAdvance d f).s.MemCanon := by
  unfold State.kvAdvance
  dsimp only
  split
  · exact h
  · split <;> exact h

theorem kvRun {d : Nat} {act : State → KvFields → KvDone} (hact : ∀ u f, u.MemCanon → (act u f).s.MemCanon) : (s.kvRun d act).MemCanon := by
  unfold State.kvRun
  split
  · exact h
  · exact ite h (hact _ _ h.setKv.kvCount).kvRespond

theorem kvDrain {d : Nat} : (s.kvDrain d).MemCanon := by
  unfold State.kvDrain
  refine foldl (fun _ _ hu => ?_) h
  split
  · exact hu
  · exact ite (hu.kvRun fun _ _ hv => hv) hu

theorem kvCommand {d op : Nat} {act : State → KvFields → KvDone} (hact : ∀ u f, u.MemCanon → (act u f).s.MemCanon) :
    (s.kvCommand d op act).MemCanon := by
  unfold State.kvCommand
  dsimp only
  split
  · exact h.kvDrain
  · exact ite (h.kvDrain.kvRun hact) h.kvDrain

theorem execOpen {d : Die} : NextCanon (Machine.execOpen d s) :=
  iteNext h.next (next (h.kvCommand fun _ _ hu => hu.kvOpen))

theorem execFork {d : Die} : NextCanon (Machine.execFork d s) :=
  iteNext h.next (next (h.kvCommand fun _ _ hu => hu.kvFork))

theorem execAppend {d : Die} : NextCanon (Machine.execAppend d s) :=
  iteNext h.next (next (h.kvCommand fun _ _ hu => hu.kvAppend))

theorem execFree {d : Die} : NextCanon (Machine.execFree d s) :=
  iteNext h.next (next (h.kvCommand fun _ _ hu => hu.kvFreeSeq))

theorem execAdvance {d : Die} : NextCanon (Machine.execAdvance d s) :=
  iteNext h.next (next (h.kvCommand fun _ _ hu => hu.kvAdvance))

theorem execReaderClose {d : Die} {p : Sp} : NextCanon (Machine.execReaderClose d p s) :=
  iteNext h.next (iteNext h.setKv.kvReclaim.next h.next)

end State.MemCanon
end Sys2Proof.Machine
end


section
/-! Memory stays canonical: the Proofers and the collectives. -/

namespace Sys2Proof.Machine
namespace State.MemCanon
variable {s : State} (h : s.MemCanon)
include h

theorem setPrf {p : Nat} {x : Proofer} : (s.setPrf p x).MemCanon :=
  upd h

theorem updPrf {p : Nat} {g : Proofer → Proofer} : (s.updPrf p g).MemCanon :=
  h.setPrf

theorem prfRaise {p code i chunk mb cause n : Nat} : (s.prfRaise p code i chunk mb cause n).MemCanon :=
  h.raise

theorem countSpans {l : List (Nat × Nat)} : (s.countSpans l).MemCanon :=
  foldl (fun _ _ hu => hu.countPoison) h

theorem workingCopyTo {p i c slot : Nat} {ws : List Nat} : (s.workingCopyTo p i c slot ws).1.MemCanon := by
  unfold State.workingCopyTo
  dsimp only
  refine ite ?_ ?_
  · refine storeFor ?_
    refine levReport ?_
    refine foldl (fun _ _ hu => ?_) h
    split
    · exact hu.storeFor
    · exact hu.storeFor.storeFor
  · refine levReport ?_
    refine foldl (fun _ _ hv => ?_) h
    split
    · exact hv.storeFor
    · exact hv.storeFor.storeFor

theorem finishChunk {p i c : Nat} {hd ws : List Nat} : (s.finishChunk p i c hd ws).MemCanon := by
  unfold State.finishChunk
  dsimp only
  refine updPrf ?_
  refine storeFor ?_
  split
  · exact h
  · exact h.workingCopyTo

theorem copyRecs {p : Nat} {t : List Nat} {rb wb c : Nat} : (s.copyRecs p t rb wb c).MemCanon :=
  foldl (fun _ _ hu => hu.setPoison) h.storeFor

theorem keepChunk {p i c : Nat} {hd : List Nat} : (s.keepChunk p i c hd).MemCanon :=
  finishChunk (ite h h.copyRecs)

theorem noteSkipped {p i c : Nat} : (s.noteSkipped p i c).MemCanon :=
  h.prfCount.updPrf

theorem stateLost {p i c : Nat} : (s.stateLost p i c).MemCanon :=
  h.updPrf.prfRaise

theorem untouchedChunk {p i c : Nat} : (s.untouchedChunk p i c).MemCanon :=
  ite h.countSpans.stateLost (keepChunk (ite h.noteSkipped h))

theorem applyChunk {p i c : Nat} {g : List Nat} {bad : Bool} : (s.applyChunk p i c g bad).MemCanon :=
  ite h.countSpans.stateLost (ite h.prfCount.keepChunk (finishChunk
    (ite (noteSkipped (ite h.prfCount h.prfCount.storeFor)) (prfCount (prfCount (ite h.prfCount h.prfCount.storeFor))))))

theorem carryOver {p : Nat} : (s.carryOver p).MemCanon :=
  ite h (foldl (fun _ _ hu => foldl (fun _ _ hv => ite hv.countSpans.stateLost hv.copyRecs.storeFor) hu) h)

theorem checkHdrs {p : Nat} : (s.checkHdrs p).MemCanon :=
  foldl (fun _ _ hu => foldl (fun _ _ hv => ite hv.countSpans.stateLost hv) hu) h

theorem putCopy {p i c slot : Nat} {bs : List Byte} : (s.putCopy p i c slot bs).MemCanon := by
  unfold State.putCopy
  dsimp only
  split
  · exact foldlFst (fun _ _ hu => hu.storeFor) h
  · exact foldlFst (fun _ _ hv => hv.storeFor) (foldlFst (fun _ _ hw => hw.storeFor) h)

theorem colCount {off n : Nat} : (s.colCount off n).MemCanon :=
  h.count

theorem putOp {o : ColOp} : (s.putOp o).MemCanon :=
  upd h

theorem grant {g num : Nat} {gather alongY : Bool} {n : Nat} : (s.grant g num gather alongY n).MemCanon := by
  unfold State.grant
  dsimp only
  split
  · exact upd h
  · exact sendMsg (upd h)

theorem startOp {num : Nat} {gather : Bool} : (s.startOp num gather).MemCanon :=
  ite h (ite (grant (ite (grant (upd h)) (upd h))) (ite (grant (upd h)) (upd h)))

theorem opSend {num : Nat} {gather : Bool} : (s.opSend num gather).MemCanon := by
  unfold State.opSend
  split
  · exact h
  · dsimp only
    split
    · exact h
    · exact h.putOp.sendMsg

theorem opPump {num : Nat} {gather : Bool} : (s.opPump num gather).MemCanon := by
  unfold State.opPump
  split
  · exact h
  · exact foldl (fun _ _ hu => hu.opSend) h

theorem opDeliver {o : ColOp} {c : Nat} {v : ColVal} : (s.opDeliver o c v).MemCanon := by
  unfold State.opDeliver
  extract_lets p i s1 t slot s4 s2 s3
  have h4 : s4.MemCanon := h.colCount.putCopy
  have h2 : s2.MemCanon := ite (foldl (fun _ _ hu => hu.setPoisons) h4) h4
  have h3 : s3.MemCanon := ite h2.storeFor h2
  exact ite h3.updPrf (upd h.colCount)

theorem opClose {num : Nat} {gather : Bool} : (s.opClose num gather).MemCanon := by
  unfold State.opClose
  split
  · exact h
  · exact ite (colCount (upd h)) h

theorem opReduce {o : ColOp} {c : Nat} {k : ColChunk} : (s.opReduce o c k).MemCanon := by
  unfold State.opReduce
  dsimp only
  split
  · exact h.putOp.opPump
  · exact h.putOp.colCount.opDeliver.opPump

theorem opFinished {o : ColOp} {c : Nat} {viaX : Bool} {v : ColVal} : (s.opFinished o c viaX v).MemCanon :=
  h.putOp.opDeliver.opPump

theorem colExport {p i c : Nat} {v : ColVal} : (s.colExport p i c v).MemCanon := by
  unfold State.colExport
  dsimp only
  split
  · exact h.startOp
  · exact h.startOp.opReduce.opClose

theorem colGather {p i c : Nat} {bytes : List Byte} {poison : Bool} : (s.colGather p i c bytes poison).MemCanon := by
  unfold State.colGather
  dsimp only
  split
  · exact h.startOp
  · exact h.startOp.putOp.opPump.opClose

theorem gatherAfter {p i c : Nat} : (s.gatherAfter p i c).MemCanon :=
  ite h.countSpans.colGather h

theorem execCollectiveData {code : PortCode} : NextCanon (Machine.execCollectiveData code s) := by
  unfold Machine.execCollectiveData
  refine iteNext h.next ?_
  dsimp only
  split
  · exact h.next
  · refine iteNext (next (h.takeMsg ‹_›)) ?_
    refine iteNext (next (badMessage (h.takeMsg ‹_›))) ?_
    split
    · exact next (startOp (h.takeMsg ‹_›))
    · exact next (opClose (ite (grant (startOp (h.takeMsg ‹_›)))
        (ite (opFinished (grant (startOp (h.takeMsg ‹_›)))) (opReduce (grant (startOp (h.takeMsg ‹_›)))))))

theorem takeCredit {num : Nat} {gather alongY : Bool} {n : Nat} : (s.takeCredit num gather alongY n).MemCanon := by
  unfold State.takeCredit
  dsimp only
  split
  · exact h
  · exact h.updSub

theorem execWindowCredit {num : Fin 4096} {gather alongY : Bool} {n : Nat} :
    NextCanon (Machine.execWindowCredit num gather alongY n s) := by
  unfold Machine.execWindowCredit
  refine iteNext h.next ?_
  dsimp only
  refine iteNext h.takeCredit.next ?_
  split
  · exact h.takeCredit.startOp.next
  · exact h.takeCredit.startOp.putOp.opPump.opClose.next

theorem sendAbort {g : Nat} : (s.sendAbort g).MemCanon :=
  ite h (foldl (fun _ _ hu => hu.sendMsg) (upd h))

theorem timeOut {code cause which since : Nat} : (s.timeOut code cause which since).MemCanon :=
  foldl (fun _ _ hu => hu.dispose) (raise (colCount (upd h)))

theorem endOps {g : Nat} : (s.endOps g).MemCanon :=
  upd h.sendAbort

theorem endGroup {g code cause : Nat} : (s.endGroup g code cause).MemCanon :=
  h.endOps.timeOut

theorem execCollectiveAbort {code : PortCode} : NextCanon (Machine.execCollectiveAbort code s) := by
  unfold Machine.execCollectiveAbort
  refine iteNext h.next ?_
  split
  · exact h.next
  · dsimp only
    split
    · exact next (colCount (h.takeMsg ‹_›))
    · exact next (timeOut (foldl (fun _ _ hu => hu.endOps) (colCount (h.takeMsg ‹_›))))

theorem execColTimeout {t : ColTarget} : NextCanon (Machine.execColTimeout t s) := by
  unfold Machine.execColTimeout
  refine iteNext h.next ?_
  split
  · dsimp only
    refine iteNext h.next ?_
    split
    · exact h.endGroup.next
    · exact iteNext h.endGroup.next h.next
  · dsimp only
    refine iteNext h.next ?_
    refine iteNext (next (timeOut (setCnd (upd h)))) ?_
    refine iteNext h.next ?_
    split
    · exact h.next
    · exact iteNext (next (timeOut (setCnd (upd h)))) h.next

theorem execConduitNotice {code : PortCode} : NextCanon (Machine.execConduitNotice code s) := by
  unfold Machine.execConduitNotice
  refine iteNext h.next ?_
  split
  · exact h.next
  · exact next (cndPump (setCnd (h.takeMsg ‹_›)))

theorem storeMsg {code : Nat} {m : List Byte} {a : Nat} : (s.storeMsg code m a).MemCanon :=
  ite h.storeFor.poisonFor h.storeFor

theorem execConduitData {code : PortCode} {dest : BitVec 46} : NextCanon (Machine.execConduitData code dest s) := by
  unfold Machine.execConduitData
  refine iteNext h.next ?_
  split
  · exact h.next
  · dsimp only
    refine iteNext (next (badMessage (h.takeMsg ‹_›))) ?_
    refine iteNext (next (setCnd (storeMsg (h.takeMsg ‹_›)))) ?_
    split
    · exact next (setCnd (storeMsg (h.takeMsg ‹_›)))
    · exact next (upd (updCh (setCnd (storeMsg (h.takeMsg ‹_›)))))

theorem askBulk {a n ask : Nat} : (s.askBulk a n ask).MemCanon := by
  unfold State.askBulk
  split
  · exact h
  · exact h.sendMsg

theorem execBulkReadRequest {code : PortCode} {addr : BitVec 46} {len : Nat} : NextCanon (Machine.execBulkReadRequest code addr len s) := by
  unfold Machine.execBulkReadRequest
  refine iteNext h.next ?_
  split
  · exact h.next
  · have hm := h.takeMsg ‹_›
    refine iteNext hm.sendBytes.next ?_
    generalize State.mayLeave _ _ _ = leaves
    refine iteNext hm.portCount.next ?_
    refine next ?_
    refine sendBytes ?_
    refine countPoison ?_
    exact hm.loadFor

theorem execBulkData {code : PortCode} {addr : BitVec 46} : NextCanon (Machine.execBulkData code addr s) := by
  unfold Machine.execBulkData
  refine iteNext h.next ?_
  split
  · exact h.next
  · dsimp only
    refine iteNext (next (badMessage (h.takeMsg ‹_›))) ?_
    split
    · exact next (storeMsg (ite (upd (h.takeMsg ‹_›)) (h.takeMsg ‹_›)))
    · exact next (storeMsg (ite (upd (h.takeMsg ‹_›)) (h.takeMsg ‹_›)))
    · exact next (unmapped (ite (upd (h.takeMsg ‹_›)) (h.takeMsg ‹_›)))

theorem putRecord {d addr : Nat} {u : List Nat} : (s.putRecord d addr u).MemCanon :=
  h.storeFor

theorem sendTo {d n : Nat} {p : Phase} {r : PhaseRun} {back : Bool} {u : List Nat} : (s.sendTo d n p r back u).MemCanon :=
  ite h h.setCh.putRecord.pass

theorem sendOver {d k : Nat} {p : Phase} {r : PhaseRun} {u : List Nat} : (s.sendOver d k p r u).MemCanon :=
  ite h.setCnd h.putRecord.handToConduit.used.pass

theorem execSend {d : Die} {p : Phase} : NextCanon (Machine.execSend d p s) := by
  unfold Machine.execSend
  refine iteNext h.next ?_
  refine next ?_
  refine h.chOp fun _ _ => ?_
  dsimp only
  split
  · exact h.pass
  · split
    · exact h.sendTo
    · split
      · exact h
      · exact h.sendOver

theorem fillSlots {p : Nat} : (s.fillSlots p).MemCanon :=
  foldl (fun _ _ hu => ite hu hu.waited) h.setPrf

theorem withhold {p n : Nat} : (s.withhold p n).MemCanon :=
  ite h.setPrf.waited h.setPrf.waited.prfRaise

theorem takeRow {p port i c byte : Nat} {bs : List Byte} : (s.takeRow p port i c byte bs).MemCanon :=
  ite h (ite h.setPrf h.setPrf.used)

theorem takeDelivered {p port i c byte : Nat} {bs : List Byte} : (s.takeDelivered p port i c byte bs).MemCanon := by
  unfold State.takeDelivered
  dsimp only
  refine ite h ?_
  split
  · exact h.setPrf
  · exact upd h.setPrf

theorem execPartialRow {p : Prf} : NextCanon (Machine.execPartialRow p s) := by
  unfold Machine.execPartialRow
  refine iteNext h.next ?_
  split
  · exact h.next
  · exact iteNext h.withhold.next (iteNext (next (setPrf (setPrf (upd h))))
      (iteNext (next (takeDelivered (setPrf (upd h)))) (next (takeRow (setPrf (upd h))))))

theorem countFold {t : List Nat} {c : Nat} : (s.countFold t c).MemCanon :=
  h.countSpans

theorem keepFold {p i c : Nat} {f : Fold} : (s.keepFold p i c f).MemCanon :=
  h.updPrf

theorem putFold {p i c : Nat} {f : Fold} : (s.putFold p i c f).MemCanon :=
  h.keepFold.storeFor

theorem exportSum {p i c : Nat} {g : List Nat} {absent poison : Bool} : (s.exportSum p i c g absent poison).MemCanon :=
  h.prfCount.colExport

theorem handOn {p i c : Nat} {g : List Nat} {bad : Bool} : (s.handOn p i c g bad).MemCanon :=
  ite h.updPrf.exportSum (updPrf (ite h.updPrf h.updPrf.waited))

theorem countMismatch {p i c mb cause n : Nat} : (s.countMismatch p i c mb cause n).MemCanon :=
  prfRaise (ite h.updPrf h)

theorem lateContribution {p : Nat} {k : Contribution} {fresh counted : Bool} {f : Fold} :
    (s.lateContribution p k fresh counted f).MemCanon :=
  ite (countMismatch (ite h h.keepFold)) (ite h h.keepFold)

theorem contribute {p : Nat} {k : Contribution} : (s.contribute p k).MemCanon := by
  unfold State.contribute
  extract_lets t key x f0 fresh none f1 ct counted got conflict marked sum src f s0 s1 s2 s3 s4
  have h0 : s0.MemCanon := keepFold (ite h h.countFold)
  have h2 : s2.MemCanon := ite h0.updPrf.prfCount h0.updPrf
  have h3 : s3.MemCanon := ite h2 h2.prfCount
  have h4 : s4.MemCanon := ite h3.updPrf.prfCount.prfRaise h3
  exact ite h.lateContribution (ite h4.handOn h4.storeFor.putFold)

theorem takeContribution {p : Nat} : (s.takeContribution p).MemCanon := by
  unfold State.takeContribution
  split
  · exact h
  · exact h.updPrf.contribute.fillSlots

theorem execContributionComplete {p : Prf} : NextCanon (Machine.execContributionComplete p s) :=
  iteNext h.next h.takeContribution.next

theorem execDelivery {p : Prf} : NextCanon (Machine.execDelivery p s) := by
  unfold Machine.execDelivery
  refine iteNext h.next ?_
  split
  · exact h.next
  · exact iteNext (next (prfCount (upd h))) (iteNext (next (countMismatch (prfCount (upd h))))
      (iteNext h.withhold.next (iteNext (next (setPrf (prfCount (upd h))))
      (next (setPrf (ite (prfCount (upd h)) (waited (prfCount (upd h)))))))))

theorem execStatePrefetch {p : Prf} : NextCanon (Machine.execStatePrefetch p s) := by
  unfold Machine.execStatePrefetch
  refine iteNext h.next ?_
  dsimp only
  split
  · exact h.next
  · refine iteNext h.setPrf.next ?_
    split
    · exact iteNext h.setPrf.next h.setPrf.next
    · exact h.next

theorem execChunkApply {p : Prf} : NextCanon (Machine.execChunkApply p s) := by
  unfold Machine.execChunkApply
  refine iteNext h.next ?_
  dsimp only
  refine iteNext h.next ?_
  refine iteNext ?_ ?_
  · split
    · exact h.next
    · exact h.untouchedChunk.gatherAfter.next
  · split
    · exact next (fillSlots (gatherAfter (ite h.setPrf.untouchedChunk h.setPrf.applyChunk)))
    · split
      · exact h.next
      · exact iteNext h.setPrf.countFold.applyChunk.gatherAfter.next h.setPrf.untouchedChunk.gatherAfter.next

theorem execNextCompleteSend {p : Prf} : NextCanon (Machine.execNextCompleteSend p s) := by
  unfold Machine.execNextCompleteSend
  refine iteNext h.next ?_
  dsimp only
  split
  · exact h.next
  · exact iteNext h.next h.setPrf.notify.next

theorem execSegmentNotice {p : Prf} : NextCanon (Machine.execSegmentNotice p s) := by
  unfold Machine.execSegmentNotice
  refine iteNext h.next ?_
  split
  · exact h.next
  · exact iteNext (next (countMismatch (h.takeNotice ‹_›))) (next (setPrf (h.takeNotice ‹_›)))

theorem poisonChunk {p i c mb : Nat} : (s.poisonChunk p i c mb).MemCanon :=
  ite h (updPrf (ite h.keepFold h.putFold))

theorem execPoison {p : Prf} : NextCanon (Machine.execPoison p s) := by
  unfold Machine.execPoison
  refine iteNext h.next ?_
  split
  · exact h.next
  · exact next (foldl (fun _ _ hu => foldl (fun _ _ hv => hv.poisonChunk) hu) (updPrf (h.takeNotice ‹_›)))

theorem releaseStream {p i c : Nat} : (s.releaseStream p i c).1.MemCanon := by
  unfold State.releaseStream
  dsimp only
  split
  · exact foldl (fun _ _ hu => hu.countMismatch) h.setPrf
  · split
    · split
      · exact h.setPrf
      · exact h.setPrf.handOn
    · split
      · exact h.setPrf
      · exact h.setPrf.handOn

theorem releaseStaged {p i : Nat} : (s.releaseStaged p i).MemCanon :=
  ite h.updPrf (foldl (fun _ _ hu => ite hu.countFold.exportSum hu.exportSum) h.updPrf)

theorem releaseEntry {p i : Nat} : (s.releaseEntry p i).MemCanon := by
  unfold State.releaseEntry
  dsimp only
  refine ite h.releaseStaged ?_
  generalize hr : List.foldl _ _ _ = r
  have hreleased : r.1.MemCanon := hr ▸ foldlFst (fun _ _ hu => hu.releaseStream) h
  split
  · exact hreleased
  · exact ite hreleased hreleased.countMismatch

theorem drainPark {p : Nat} : (s.drainPark p).MemCanon :=
  foldl (fun _ _ hu => hu.takeContribution) h

theorem execRelease {p : Prf} : NextCanon (Machine.execRelease p s) := by
  unfold Machine.execRelease
  refine iteNext h.next ?_
  split
  · exact h.next
  · exact iteNext (next (updPrf (drainPark (h.takeNotice ‹_›))))
      (next (fillSlots (updPrf (foldl (fun _ _ hu => hu.releaseEntry) (drainPark (h.takeNotice ‹_›))))))

theorem execAbandonNotice {p : Prf} : NextCanon (Machine.execAbandonNotice p s) := by
  unfold Machine.execAbandonNotice
  refine iteNext h.next ?_
  split
  · exact h.next
  · exact next (updPrf (h.takeNotice ‹_›))

end State.MemCanon
end Sys2Proof.Machine
end


section
/-! Memory stays canonical: the ledger, the seal, the checkpoints and the ingest. -/

namespace Sys2Proof.Machine
namespace State.MemCanon
variable {s : State} (h : s.MemCanon)
include h

theorem ledgerWrite {p : Nat} {lost : List Nat} {bs : List Byte} : (s.ledgerWrite p lost bs).1.MemCanon := by
  unfold State.ledgerWrite
  dsimp only
  split
  · exact h
  · exact h.setPrf.storeFor

theorem ledgerSeal {recs : List (Nat × List (List Byte))} : (s.ledgerSeal recs).MemCanon := by
  unfold State.ledgerSeal
  dsimp only
  split
  · exact upd (foldlFst (fun _ _ hu => foldlFst (fun _ _ hv => hv.ledgerWrite) hu) h)
  · exact raise (count (upd (foldlFst (fun _ _ hw => foldlFst (fun _ _ hx => hx.ledgerWrite) hw) h)))

theorem sealEdge : s.sealEdge.MemCanon :=
  ite h (upd h)

theorem formDigests : s.formDigests.MemCanon :=
  foldl (fun _ _ hu => hu.updPrf) h

theorem reportSkipped : s.reportSkipped.MemCanon :=
  foldl (fun _ _ hu => foldl (fun _ _ hv => ite hv hv.prfRaise) hu) h

theorem reportSlip : s.reportSlip.MemCanon :=
  ite h h.count.count.raise

theorem sendSeal {src : Nat} {bs : List Byte} : (s.sendSeal src bs).MemCanon := by
  unfold State.sendSeal
  dsimp only
  refine foldl (fun _ _ hu => ?_) h
  split
  · exact hu.sendFrom
  · exact hu

theorem askShard {p i : Nat} : (s.askShard p i).MemCanon :=
  askBulk (askBulk (foldl (fun _ _ hu => hu.askBulk.askBulk) h))

theorem compareSeal : s.compareSeal.MemCanon :=
  ite (ite (sendSeal (upd h)) (upd h)) (foldl (fun _ _ hu => hu.askShard)
    (upd (foldl (fun _ _ hv => hv.raise) (ite (sendSeal (upd h)) (upd h)))))

theorem commitPrf {commit : Bool} {p : Nat} : (s.commitPrf commit p).MemCanon :=
  ite h.setPrf (ite h.notify.prfCount.prfRaise h)

theorem noteNorms {d : Nat} : (s.noteNorms d).MemCanon :=
  foldl (fun _ _ hu => foldl (fun _ _ hv => hv.updPrf) hu) h

theorem decideSeal : s.decideSeal.MemCanon :=
  upd (ledgerSeal (foldl (fun _ _ hu => hu.levSeal) (foldl (fun _ _ hv => hv.commitPrf)
    (foldl (fun _ _ hw => hw.noteNorms) (ite h h.formDigests)))))

theorem prfApply {p : Nat} : (s.prfApply p).MemCanon :=
  foldl (fun _ _ hu => hu.prfRaise) (ite h.applyShadow.updPrf.prfRaise h.applyShadow.updPrf)

theorem phaseSeal : s.phaseSeal.MemCanon :=
  ite (upd h.applyShadow) (ite (count (upd h.applyShadow)) h.applyShadow)

theorem beginStep : s.beginStep.MemCanon :=
  upd (foldl (fun _ _ hu => hu.updPrf) (foldl (fun _ _ hv => hv.updCh) h))

theorem drawSeal : s.drawSeal.MemCanon := by
  unfold State.drawSeal
  split
  · exact h
  · exact upd h

theorem endSeal {held : Nat} : (s.endSeal held).MemCanon := by
  unfold State.endSeal
  extract_lets s1 s2 ctl bel spine s3 s4
  have h1 : s1.MemCanon := foldl (fun _ _ hu => hu.prfApply) h.drawSeal.phaseSeal
  have h2 : s2.MemCanon := foldl (fun _ _ hu => ite hu hu.swapPoint) h1
  have h3 : s3.MemCanon := upd h2
  exact ite h3.beginStep (enter (upd (foldl (fun _ _ hu => hu.updCh) h3)))

theorem settleSeal : s.settleSeal.MemCanon := by
  unfold State.settleSeal
  split
  · exact h
  · exact ite h h.endSeal

theorem exportDelay {e : Export} : (s.exportDelay e).MemCanon :=
  ite h (raise (upd h))

theorem sealProgress : s.sealProgress.MemCanon := by
  unfold State.sealProgress
  refine ite h (ite h.settleSeal ?_)
  split
  · exact h.exportDelay
  · refine ite h.decideSeal.settleSeal ?_
    extract_lets own spine s1 s2
    have h1 : s1.MemCanon := ite h (sendSeal (upd h))
    have h2 : s2.MemCanon := ite h1 h1.compareSeal
    exact ite h1 (ite h2.decideSeal.settleSeal h2)

theorem execStepSeal : NextCanon (Machine.execStepSeal s) :=
  iteNext h.sealProgress.next (iteNext (next (sealProgress (upd
    (ite h.applyPage.startWiden.reportSlip.reportSkipped (formDigests
    (foldl (fun _ _ hu => hu.checkHdrs) (foldl (fun _ _ hv => hv.carryOver) h.applyPage.startWiden.reportSlip.reportSkipped))))))) h.next)

theorem execRevert {d : Die} : NextCanon (Machine.execRevert d s) := by
  unfold Machine.execRevert
  split
  · exact h.next
  · exact next (settleSeal (updCh (h.takeNotice ‹_›)))

theorem takeSeal : s.takeSeal.MemCanon := by
  unfold State.takeSeal
  split
  · obtain ⟨c, -, hc⟩ := List.exists_of_findSome?_eq_some ‹_›
    exact h.takeMsg hc
  · exact h

theorem execSealExchange {m : SealMsg} : NextCanon (Machine.execSealExchange m s) :=
  iteNext h.takeSeal.next (next (sealProgress (upd h.takeSeal.sendSeal)))

theorem substituteReport {d e : Nat} {r : LevCounts} : (s.substituteReport d e r).MemCanon :=
  h.setLev.setLev.setLev.setLev.setLev.setLev

theorem execDivergenceRecovery {p : Prf} {entry : Fin 1024} {chunks : List ShardChunk} {rep : LevCounts} :
    NextCanon (Machine.execDivergenceRecovery p entry chunks rep s) :=
  iteNext h.next (next (sealProgress (upd (updPrf (prfCount (substituteReport (foldl (fun _ _ hu => hu.storeFor.storeFor.putCopy) h)))))))

theorem sendBulk {k off : Nat} {bs : List Byte} : (s.sendBulk k off bs).MemCanon :=
  foldl (fun _ _ hu => hu.storeFor.sendBytes) h

theorem sendFrame {p : Nat} {e : Export} {bs : List Byte} {more : Bool} : (s.sendFrame p e bs more).MemCanon := by
  unfold State.sendFrame
  refine ite h ?_
  extract_lets s0
  have h0 : s0.MemCanon := by
    unfold s0
    split
    · exact h
    · exact h.sendBulk
  clear_value s0
  exact ite (prfCount (upd h0)) (sealProgress (endLong (prfCount (upd h0))))

theorem countChunk {q : Nat × Nat × Nat} : (s.countChunk q).MemCanon :=
  h.countSpans

theorem execExportFrame : NextCanon (Machine.execExportFrame s) := by
  unfold Machine.execExportFrame
  refine iteNext h.next ?_
  split
  · exact h.next
  · refine iteNext h.sendFrame.next ?_
    dsimp only
    split
    · exact h.countChunk.sendFrame.next
    · exact h.sendFrame.next

theorem importView : s.importView.MemCanon :=
  ite h.applyShadow h

theorem inView {f : State → State} (hf : ∀ u, u.MemCanon → (f u).MemCanon) : (s.inView f).MemCanon := hf _ h.importView

theorem rebuildLost {z : (Nat × Nat) × Nat} {spans : List (Nat × Nat)} : (s.rebuildLost z spans).MemCanon :=
  h.countSpans.prfRaise

theorem rebuildTensor {d : Nat} {x : DieTensor} : (s.rebuildTensor d x).MemCanon := by
  unfold State.rebuildTensor
  split
  · exact h
  · dsimp only
    refine foldl (fun _ _ hu => storeFor (upd hu.workingCopyTo)) ?_
    refine ite ?_ (setLev (foldl (fun _ _ hv => hv.rebuildLost) h))
    split
    · exact setLev (setLev (setLev (foldl (fun _ _ hw => hw.rebuildLost) h)))
    · exact setLev (foldl (fun _ _ hx => hx.rebuildLost) h)

theorem restoreRun : s.restoreRun.MemCanon := by
  unfold State.restoreRun
  refine ite h ?_
  dsimp only
  split
  · refine foldl (fun _ _ hu => hu.updPrf) ?_
    split
    · exact upd h
    · exact h
  · split
    · exact upd h
    · exact h

theorem endImport : s.endImport.MemCanon := by
  unfold State.endImport
  refine endLong (upd ?_)
  exact h.restoreRun.inView fun _ hu => foldl (fun _ _ hv => foldl (fun _ _ hw => hw.rebuildTensor) hv) hu

theorem importBad {p i tensor chunk : Nat} : (s.importBad p i tensor chunk).MemCanon :=
  prfRaise (upd h)

theorem importChunk {tensor chunk rec recCrc : Nat} {body : List Byte} : (s.importChunk tensor chunk rec recCrc body).MemCanon := by
  unfold State.importChunk
  split
  · exact h
  · exact ite h.importBad (prfCount (upd h.storeFor.storeFor))

theorem ckptCredit {n : Nat} : (s.ckptCredit n).MemCanon :=
  ite h (upd h)

theorem importFrame {bytes : List Byte} : (s.importFrame bytes).MemCanon := by
  unfold State.importFrame
  dsimp only
  refine ite ?_ ?_
  · refine h.inView fun _ hu => ?_
    split <;> exact hu.importBad
  · split
    · exact inView (upd h) fun _ hv => hv.importChunk
    · exact prfCount (upd h)
    · exact endImport (prfCount (upd h))

theorem execImportFrame {f : CkFrame} : NextCanon (Machine.execImportFrame f s) :=
  iteNext h.next (iteNext h.next (iteNext (next (upd (ite h.takeRx h)))
    (iteNext (next (ite h.takeRx h)) (next (importFrame (ckptCredit (upd (ite h.takeRx h))))))))

theorem execCkptExport {hd : Hdr} {a : CkptArgs} : NextCanon (Machine.execCkptExport hd a s) :=
  next (h.command fun _ hu => ite hu.invalid (upd hu.startLong))

theorem execCkptImport {hd : Hdr} {conduit : Option (Fin 32)} : NextCanon (Machine.execCkptImport hd conduit s) :=
  next (h.command fun _ hu => ite hu.invalid (upd hu.startLong))

theorem execCkptStop {hd : Hdr} : NextCanon (Machine.execCkptStop hd s) :=
  next (h.command fun _ hu => ite (endImport (ite (sealProgress (endLong (upd hu.answer))) hu.answer))
    (ite (sealProgress (endLong (upd hu.answer))) hu.answer))

theorem setDec {k : Nat} {x : Decoder} : (s.setDec k x).MemCanon :=
  upd h

theorem updGen {g : Nat} {f : Generation → Generation} : (s.updGen g f).MemCanon :=
  upd h

theorem setJob {g k : Nat} {j : SpanJob} : (s.setJob g k j).MemCanon :=
  h.updGen

theorem execManifest {gen passes : Nat} {spans : List Span} : NextCanon (Machine.execManifest gen passes spans s) :=
  iteNext (next (upd h)) h.next

theorem skipSource {x : Span} {gen : Nat} : (s.skipSource x gen).MemCanon :=
  h.count.raise

theorem skipSpan {x : Span} {gen : Nat} : (s.skipSpan x gen).MemCanon :=
  h.count.raise

theorem execContainerDemux {gen span : Nat} {r : DemuxResult} {place : Nat} :
    NextCanon (Machine.execContainerDemux gen span r place s) := by
  unfold Machine.execContainerDemux
  split
  · exact h.next
  · refine iteNext h.next ?_
    dsimp only
    split
    · exact h.setJob.skipSource.next
    · exact h.setJob.skipSpan.next
    · exact iteNext h.next h.countPoison.setJob.store.count.next

theorem unwait {gen span : Nat} : (s.unwait gen span).MemCanon :=
  foldl (fun _ _ hu => ite hu.setDec hu) h

theorem dropClip {k gen : Nat} {x : Span} {cause n : Nat} : (s.dropClip k gen x cause n).MemCanon :=
  h.count.raise

theorem execStreamContextOpen {dec : Dec} {gen span : Nat} {buffers : List Nat} :
    NextCanon (Machine.execStreamContextOpen dec gen span buffers s) := by
  unfold Machine.execStreamContextOpen
  dsimp only
  split
  · exact h.next
  · split
    · exact h.next
    · exact iteNext h.next (iteNext h.unwait.setJob.dropClip.next (iteNext (next (ite h h.setDec)) h.unwait.setJob.setDec.next))

theorem putPlane {dec : Dec} {e : EssenceInfo} {base k : Nat} {kind : PicKind} {q : Plane} : (s.putPlane dec e base k kind q).MemCanon :=
  foldl (fun _ _ hu => hu.storeFor) h

theorem execPictureDecode {dec : Dec} {gen span : Nat} {pic : DecodedPicture} :
    NextCanon (Machine.execPictureDecode dec gen span pic s) := by
  unfold Machine.execPictureDecode
  dsimp only
  split
  · split
    · exact iteNext h.next h.countPoison.putPlane.putPlane.putPlane.setJob.setDec.count.count.count.next
    · exact h.next
  · exact h.next

theorem closeContext {k gen span : Nat} : (s.closeContext k gen span).MemCanon :=
  h.setDec

theorem execFragment {gen span : Nat} {ended : Bool} {p : Prf} {slot : Nat} : NextCanon (Machine.execFragment gen span ended p slot s) := by
  unfold Machine.execFragment
  split
  · exact h.next
  · split
    · exact iteNext h.next (iteNext (next (dropClip (setJob (ite h.closeContext h.closeContext.count.raise))))
        (iteNext h.next (next (count (count (store (setJob (ite h.closeContext h.closeContext.count.raise))))))))
    · exact h.next

theorem execGenerationPublish {gen : Nat} : NextCanon (Machine.execGenerationPublish gen s) := by
  unfold Machine.execGenerationPublish
  split
  · exact h.next
  · exact iteNext h.next (next (count (upd h)))

theorem execGenerationRetire {gen : Nat} : NextCanon (Machine.execGenerationRetire gen s) := by
  unfold Machine.execGenerationRetire
  split
  · exact h.next
  · exact iteNext (next (upd h)) h.next

theorem writeEntry {d q mb frag : Nat} : (s.writeEntry d q mb frag).MemCanon :=
  h.storeFor.storeFor

theorem execIngestQueueEntry : NextCanon (Machine.execIngestQueueEntry s) := by
  unfold Machine.execIngestQueueEntry
  refine iteNext h.next ?_
  split
  · exact h.next
  · dsimp only
    refine iteNext h.next ?_
    split
    · exact iteNext (next (upd h)) (next (raise (upd h)))
    · exact next (count (upd h.writeEntry))

theorem execIngestRun {d : Die} {p : Sp} : NextCanon (Machine.execIngestRun d p s) := by
  unfold Machine.execIngestRun
  refine iteNext h.next ?_
  dsimp only
  refine iteNext h.next ?_
  split
  · exact h.next
  · exact iteNext h.setFab.limitOver.next (next (settle (ite (holdRun (raise (upd h.setFab))) (upd h.setFab))))

theorem execSpanSubmit {edge : Fin 2} {x : Span} {r : DemuxResult} : NextCanon (Machine.execSpanSubmit edge x r s) := by
  unfold Machine.execSpanSubmit
  refine iteNext h.next ?_
  dsimp only
  split
  · exact next (skipSource (upd h))
  · exact next (skipSpan (upd h))
  · exact next (count (upd h))

theorem cipViolation {op : MemOp} : (s.cipViolation op).MemCanon :=
  raise (count (upd h))

theorem execIngCipViolation {edge : Fin 2} {addr : Nat} {op : MemOp} : NextCanon (Machine.execIngCipViolation edge addr op s) :=
  iteNext h.next h.cipViolation.next

theorem ingestUs : s.ingestUs.MemCanon :=
  foldl (fun _ _ hu => hu.count) h.count

end State.MemCanon
end Sys2Proof.Machine
end


section
/-! Memory stays canonical: the registers of the pages, the accesses of the units and harts, the boot and the tick. -/

namespace Sys2Proof.Machine
namespace State.MemCanon
variable {s : State} (h : s.MemCanon)
include h

theorem startRamp {die : Nat} : (s.startRamp die).MemCanon := by
  unfold State.startRamp
  split
  · exact h
  · exact upd h

theorem execDomainRampDone {pd : Pd} : NextCanon (Machine.execDomainRampDone pd s) :=
  iteNext h.rampDone.startRamp.next h.next

theorem writePortEn {n : Nat} {en : Bool} : (s.writePortEn n en).MemCanon :=
  ite h.setRw.setRw (foldl (fun _ _ hu => hu.setSub) h.setRw.setRw)

theorem writeReqOn {n : Nat} {on : Bool} : (s.writeReqOn n on).MemCanon :=
  ite h (ite h.count.raise (startRamp (ite (ite (foldl (fun _ _ hu => hu.writePortEn) h.setRw) h.setRw)
    (upd (ite (foldl (fun _ _ hv => hv.writePortEn) h.setRw) h.setRw)))))

theorem writePageCtrl {p : Nat} {v : Word} : (s.writePageCtrl p v).MemCanon :=
  ite h.setRw (ite (foldl (fun _ _ hu => hu.pump) (ite h.setRw h.setRw.writePortEn)) (ite h.setRw h.setRw.writePortEn))

theorem writeMbxSel {p : Nat} {v : Word} : (s.writeMbxSel p v).MemCanon :=
  upd h

theorem snapshot {p : Nat} : (s.snapshot p).MemCanon :=
  ite h (upd h)

theorem writeHeader {p off : Nat} {v : Word} : (s.writeHeader p off v).MemCanon :=
  ite h.writePageCtrl (ite h.setRw (ite h.writeMbxSel h))

theorem writeMapped {p off : Nat} {v : Word} : (s.writeMapped p off v).MemCanon := by
  unfold State.writeMapped
  split
  · exact h
  · exact ite (ite h h.setRw) (setShadow (ite h h.setRw))

theorem writePrf {p off : Nat} {v : Word} : (s.writePrf p off v).MemCanon :=
  ite (ite h h.setShadow) (ite h.setShadow (ite h.setShadow h.writeMapped))

theorem writeColl {off : Nat} {v : Word} : (s.writeColl off v).MemCanon :=
  ite h.setShadow (ite h.setShadow h.writeMapped)

theorem writeKv {off : Nat} {v : Word} : (s.writeKv off v).MemCanon :=
  ite (ite h.setKv h.setKv) h.writeMapped

theorem writeBlock {p off : Nat} {v : Word} : (s.writeBlock p off v).MemCanon := by
  unfold State.writeBlock
  dsimp only
  split
  · exact ite h.writeSrc (ite h h.writeMapped)
  · exact ite h.writeMode h.writeMapped
  · exact ite h.writeMapped.release (ite h h.writeMapped)
  · exact ite h.dispose h.writeMapped
  · exact ite h.writeMapped h.writeMapped
  · exact h.writePrf
  · exact ite h.writeMapped h.writeMapped
  · exact ite (ite h.writeMapped h.writeMapped.writePortEn) h.writeMapped
  · exact h.writeColl
  · exact ite h.writeLev h.writeMapped
  · exact h.writeKv
  · exact ite h.writeMapped h.writeMapped
  · exact ite h.writeReqOn h.writeMapped
  · exact h.writeMapped

theorem writeReg {a : Nat} {v : Word} : (s.writeReg a v).MemCanon :=
  ite h (ite h.writeHeader h.writeBlock)

theorem execRegisterWrite {addr v : Word} : NextCanon (Machine.execRegisterWrite addr v s) :=
  h.writeReg.next

theorem execMbxSel {page : BitVec 16} {item : Word} : NextCanon (Machine.execMbxSel page item s) :=
  h.writeReg.next

theorem execMailboxSnapshot {page : BitVec 16} : NextCanon (Machine.execMailboxSnapshot page s) :=
  h.snapshot.next

theorem execQuiesceReq {page : BitVec 16} {v : Bool} : NextCanon (Machine.execQuiesceReq page v s) :=
  h.writeReg.next

theorem execEnable {page : BitVec 16} {v : Bool} : NextCanon (Machine.execEnable page v s) :=
  h.writeReg.next

theorem execReqOn {pd : Pd} {on : Bool} : NextCanon (Machine.execReqOn pd on s) :=
  h.writeReg.next

theorem correctedRead {addr : Nat} {die : Fin 16} : (s.correctedRead addr die).MemCanon := by
  unfold State.correctedRead
  split
  · exact h.corrected
  · exact h.count
  · exact h.count
  · exact h

theorem uncorrectableRead {addr : Nat} {die : Fin 16} {mb : Nat} : (s.uncorrectableRead addr die mb).MemCanon := by
  unfold State.uncorrectableRead
  split
  · exact h.uncorrectable
  · exact h.setPoison

theorem answerAccess {data : List Byte} {poison : Bool} {trap : MemTrap} : (s.answerAccess data poison trap).MemCanon :=
  upd h

theorem meetErrors {addr : Nat} {ecc : Ecc} {die : Fin 16} {mb : Nat} : (s.meetErrors addr ecc die mb).MemCanon := by
  unfold State.meetErrors
  dsimp only
  split
  · exact ite h.used h
  · exact correctedRead (ite h.used h)
  · exact uncorrectableRead (ite h.used h)

theorem readAccess {u : MemUnit} {addr n : Nat} {ecc : Ecc} {die : Fin 16} {mb : Nat} : (s.readAccess u addr n ecc die mb).MemCanon :=
  answerAccess (countPoison (ite h.meetErrors.used h.meetErrors))

theorem writeAccess {u : MemUnit} {addr : Nat} {bs : List Byte} : (s.writeAccess u addr bs).MemCanon :=
  h.putAt.answerAccess

theorem loadRegs {a n : Nat} : (s.loadRegs a n).MemCanon :=
  ite h.answerAccess (ite h.answerAccess h.answerAccess.used)

theorem storeRegs {a : Nat} {bs : List Byte} : (s.storeRegs a bs).MemCanon :=
  ite h.answerAccess (ite h.writeReg.answerAccess (ite h.writeReg.writeReg.answerAccess h.answerAccess))

theorem keepHart {u : MemUnit} {hd : Hart} : (s.keepHart u hd).MemCanon := by
  unfold State.keepHart
  split
  · exact upd h
  · exact h

theorem turnAway {op : MemOp} {trap : MemTrap} : (s.turnAway op trap).MemCanon :=
  h.answerAccess

theorem accessAt {u : MemUnit} {pa : Nat} {op : MemOp} {ecc : Ecc} {die : Fin 16} {mb : Nat} :
    (s.accessAt u pa op ecc die mb).MemCanon := by
  unfold State.accessAt
  split
  · exact h.cipViolation
  · split
    · exact h.unmapped.turnAway
    · split
      · exact h.storeRegs
      · exact h.loadRegs
      · exact h.writeAccess
      · exact h.readAccess

theorem accessParts {u : MemUnit} {op : MemOp} {ecc : Ecc} {die : Fin 16} {mb : Nat} {l : List (Nat × Nat × Nat)} :
    (s.accessParts u op ecc die mb l).MemCanon :=
  foldl (fun _ _ hu => upd hu.accessAt) h.answerAccess

theorem execMemoryAccess {unit : Requester} {addr : Nat} {op : MemOp} {ecc : Ecc} {die : Fin 16} {mb : Nat} :
    NextCanon (Machine.execMemoryAccess unit addr op ecc die mb s) := by
  unfold Machine.execMemoryAccess
  refine iteNext h.next ?_
  dsimp only
  split
  · exact h.keepHart.countPoison.turnAway.next
  · exact h.keepHart.countPoison.cipViolation.next
  · exact h.keepHart.countPoison.accessAt.next
  · exact h.keepHart.countPoison.accessParts.next

omit h in
theorem bootReset : s.bootReset.MemCanon :=
  State.reset_memOk

theorem lifeReset {old : Envelope} : (s.lifeReset old).MemCanon :=
  ite h h.recomputeLife

omit h in
theorem enterBoot {cause opcode tag : Nat} : (s.enterBoot cause opcode tag).MemCanon :=
  lifeReset (ite bootReset (raise bootReset))

omit h in
theorem enterOff : s.enterOff.MemCanon :=
  upd bootReset

omit h in
theorem enterSafe {cause opcode tag : Nat} : (s.enterSafe cause opcode tag).MemCanon :=
  State.reset_memOk

theorem writeSoft {array map n : Nat} : (s.writeSoft array map n).MemCanon :=
  foldl (fun _ _ hu => hu.count.raise) (upd h)

theorem initArray {array : Nat} {badRows badCols : List Nat} : (s.initArray array badRows badCols).MemCanon :=
  ite (raise (setEng (ite h h.writeSoft))) (foldl (fun _ _ hu => hu.raise) (setEng (ite h h.writeSoft)))

theorem powerUp {n : Nat} : (s.powerUp n).MemCanon :=
  ite h (count (upd h))

theorem trainPorts {trained : List (PortCode × TrainResult)} : (s.trainPorts trained).MemCanon :=
  foldl (fun _ _ hu => ite hu.trained hu) (foldl (fun _ _ hv => ite hv.formPort hv) h)

theorem bringUp {trained : List (PortCode × TrainResult)} : (s.bringUp trained).MemCanon :=
  upd (trainPorts (foldl (fun _ _ hu => hu.initArray) (foldl (fun _ _ hv => hv.powerUp) h)))

theorem derive : s.derive.MemCanon :=
  upd h

theorem takeStage {c : FwComp} {bytes : List Byte} : (s.takeStage c bytes).MemCanon :=
  upd h

theorem bootRun {b : BootInput} : (s.bootRun b).MemCanon := by
  unfold State.bootRun
  refine ite h ?_
  dsimp only
  split
  · exact bringUp (takeStage (derive (foldl (fun _ _ hu => hu.powerUp) (upd h))))
  · exact bringUp (takeStage (derive (foldl (fun _ _ hv => hv.powerUp) (upd h))))
  · exact enterSafe

theorem execResetNDeassert {b : BootInput} : NextCanon (Machine.execResetNDeassert b s) := by
  unfold Machine.execResetNDeassert
  dsimp only
  split
  · exact next (bootRun enterBoot)
  · exact iteNext (next (bootRun (upd h))) (next (upd h))
  · exact next (upd h)

omit h in
theorem execResetNAssert : NextCanon (Machine.execResetNAssert s) :=
  next enterOff

omit h in
theorem execPwrGoodLoss : NextCanon (Machine.execPwrGoodLoss s) :=
  next enterOff

theorem vauxLost {k : Nat} : (s.vauxLost k).MemCanon :=
  ite (upd h) h

theorem brownBoot {k : Nat} : (s.brownBoot k).MemCanon :=
  ite (upd (vauxLost enterBoot)) (upd h)

theorem execPwrBrownout {rail : Fin 9} : NextCanon (Machine.execPwrBrownout rail s) :=
  iteNext h.vauxLost.next (iteNext (next (brownBoot (raise (ite h h.count))))
    (iteNext (next (enter (upd (foldl (fun _ _ hu => hu.updCh) (upd (raise (ite h h.count))))))) (next (upd (raise (ite h h.count))))))

theorem closeStep : s.closeStep.MemCanon :=
  upd (drawSeal (foldl (fun _ _ hu => hu.updCh) (ledgerSeal (foldl (fun _ _ hv => ite hv.prfCount.prfRaise hv) h))))

theorem brownAbandon : s.brownAbandon.MemCanon :=
  ite (foldl (fun _ _ hu => hu.updCh) h) (closeStep (foldl (fun _ _ hv => hv.abandonStep) (foldl (fun _ _ hw => hw.updCh) h)))

theorem execBrownoutRecovery {b : BootInput} : NextCanon (Machine.execBrownoutRecovery b s) := by
  unfold Machine.execBrownoutRecovery
  refine iteNext h.next ?_
  dsimp only
  split
  · exact iteNext (next (bootRun (upd h))) (next (upd h))
  · exact next (upd h)
  · exact next (upd h)
  · exact next (ite (brownAbandon (setMode (upd h))) (setMode (upd h)))

theorem execHltThermtrip {sensor : Sensor} {c : Nat} : NextCanon (Machine.execHltThermtrip sensor c s) :=
  iteNext (next (ite (ite (raise (upd h.readSensor)) (upd h.readSensor)) enterSafe)) h.readSensor.next

theorem execAttest {hd : Hdr} {nonce : List Byte} : NextCanon (Machine.execAttest hd nonce s) :=
  next (h.command fun _ hu => ite hu.invalid hu.count.answer)

theorem execReadReg {hd : Hdr} {addr : Word} {count : Nat} : NextCanon (Machine.execReadReg hd addr count s) :=
  next (h.command fun _ hu => ite hu.answer hu.invalid)

theorem execWriteReg {hd : Hdr} {addr : Word} {vals : List Word} : NextCanon (Machine.execWriteReg hd addr vals s) :=
  next (h.command fun _ hu => ite (answer (foldl (fun _ _ hv => hv.writeReg) hu)) hu.invalid)

theorem execLoadFw {hd : Hdr} {comp off : Nat} {bytes : List Byte} : NextCanon (Machine.execLoadFw hd comp off bytes s) :=
  next (h.command fun _ hu => ite hu.invalid (answer (upd hu)))

theorem execFwComplete {hd : Hdr} : NextCanon (Machine.execFwComplete hd s) :=
  next (h.command fun _ hu => hu.startLong)

theorem execFwCompleteDone : NextCanon (Machine.execFwCompleteDone s) := by
  unfold Machine.execFwCompleteDone
  split
  · exact h.next
  · exact iteNext (next (enter (endLong (upd h)))) (next (endLong (upd (foldl (fun _ _ hu => hu.sigFail) h))))

theorem execArrayRepair {hd : Hdr} {arrays : List Nat} : NextCanon (Machine.execArrayRepair hd arrays s) :=
  next (h.command fun _ hu => ite hu.startLong hu.invalid)

theorem execArrayRepairDone {results : List SelfTest} : NextCanon (Machine.execArrayRepairDone results s) := by
  unfold Machine.execArrayRepairDone
  split
  · exact h.next
  · exact next (endLong (foldl (fun _ _ hu => hu.initArray) h))

theorem execFabricFlush {hd : Hdr} {mask : Word} : NextCanon (Machine.execFabricFlush hd mask s) :=
  next (h.command fun _ hu => ite (answer (foldl (fun _ _ hv => hv.flush) hu)) hu.invalid)

theorem retrain {c : Nat} : (s.retrain c).MemCanon :=
  ite h (ite h.formPort (ite h h.updSub))

theorem execPortRetrain {hd : Hdr} {codes : List Nat} : NextCanon (Machine.execPortRetrain hd codes s) :=
  next (h.command fun _ hu => ite (ite (foldl (fun _ _ hv => hv.retrain) hu.startLong)
    (endLong (foldl (fun _ _ hw => hw.retrain) hu.startLong))) hu.invalid)

theorem execCipEnable {hd : Hdr} : NextCanon (Machine.execCipEnable hd s) :=
  next (h.command fun _ hu => ite hu.invalid (answer (upd hu.applyShadow)))

theorem cipClose : s.cipClose.MemCanon := State.drop_memOk h _ _

theorem execCipDisable {hd : Hdr} : NextCanon (Machine.execCipDisable hd s) :=
  next (h.command fun _ hu => answer (ite hu.cipClose hu))

theorem discardSets : s.discardSets.MemCanon :=
  upd (foldl (fun _ _ hu => hu.flush.updFab) h)

theorem execMaintExit {hd : Hdr} : NextCanon (Machine.execMaintExit hd s) :=
  next (h.command fun _ hu => answer (upd (ite hu.discardSets.enter hu.enter)))

theorem execZeroise {hd : Hdr} {arg : Word} : NextCanon (Machine.execZeroise hd arg s) :=
  next (h.command fun _ hu => ite hu.invalid (startLong (upd hu)))

theorem zeroise {all : Bool} : (s.zeroise all).MemCanon :=
  foldl (fun _ _ hu => hu) (State.drop_memOk h _ _)

theorem execZeroiseDone : NextCanon (Machine.execZeroiseDone s) := by
  unfold Machine.execZeroiseDone
  split
  · exact h.next
  · exact next (endLong (upd h.zeroise))

theorem execReset {hd : Hdr} {b : BootInput} : NextCanon (Machine.execReset hd b s) :=
  next (h.command fun _ _ => bootRun enterBoot)

theorem execRecoverLoad {hd : Hdr} {off : Word} {bytes : List Byte} {word3 : Word} :
    NextCanon (Machine.execRecoverLoad hd off bytes word3 s) :=
  next (h.command fun _ hu => ite hu.invalid (ite hu.invalid (ite hu.invalid (ite (startLong (upd hu)) (answer (upd hu))))))

theorem execRecoverVerifyDone {trained : List (PortCode × TrainResult)} : NextCanon (Machine.execRecoverVerifyDone trained s) := by
  unfold Machine.execRecoverVerifyDone
  split
  · exact h.next
  · split
    · exact h.sigFail.endLong.next
    · exact next (bringUp (takeStage (derive (foldl (fun _ _ hu => hu.powerUp) (endLong (upd enterBoot))))))

theorem imageInvalid {d reason : Nat} : (s.imageInvalid d reason).MemCanon :=
  h.updFab.raise

theorem loadLeaven {d set : Nat} : (s.loadLeaven d set).MemCanon :=
  upd h

theorem loadStores {d set : Nat} : (s.loadStores d set).MemCanon :=
  foldl (fun _ _ hu => hu.store) h

theorem finishImage {d len : Nat} : (s.finishImage d len).MemCanon :=
  ite h.imageInvalid.updFab (ite h.pipeRaise.updFab h.loadStores.loadLeaven.updFab)

theorem loadChunk {d off : Nat} {bytes : List Byte} {final : Bool} : (s.loadChunk d off bytes final).MemCanon :=
  ite h.imageInvalid (ite h.imageInvalid.updFab (ite (finishImage (updFab (upd h))) (updFab (upd h))))

theorem execLoadImage {hd : Hdr} {mask : Word} {off : Nat} {bytes : List Byte} {final : Bool} :
    NextCanon (Machine.execLoadImage hd mask off bytes final s) :=
  next (h.command fun _ hu => ite hu.invalid (answer (foldl (fun _ _ hv => hv.loadChunk) hu)))

theorem execActivate {hd : Hdr} {mask : Word} : NextCanon (Machine.execActivate hd mask s) :=
  next (h.command fun _ hu => ite hu.invalid (ite hu.invalid (answer (upd hu))))

theorem execSwapRequest {hd : Hdr} {mask : Word} : NextCanon (Machine.execSwapRequest hd mask s) :=
  next (h.command fun _ hu => ite hu.invalid (ite hu.invalid (answer (foldl (fun _ _ hv => hv.updFab) hu))))

theorem execReactivate {hd : Hdr} {mask : Word} : NextCanon (Machine.execReactivate hd mask s) :=
  next (h.command fun _ hu => ite hu.invalid (ite hu.invalid (answer (upd hu))))

theorem entryPrf : s.entryPrf.MemCanon :=
  h.applyShadow

theorem execCommitConfig {hd : Hdr} : NextCanon (Machine.execCommitConfig hd s) :=
  next (h.command fun _ hu => ite hu.invalid hu.enter.answer)

theorem raiseFaults {t : State} : (s.raiseFaults t).MemCanon :=
  foldl (fun _ _ hu => hu.raise) (foldl (fun _ _ hv => ite hv hv.raise) h)

theorem raiseRunFaults : s.raiseRunFaults.MemCanon :=
  h.raiseFaults

theorem entryCadence : s.entryCadence.MemCanon :=
  upd h.applyShadow

theorem applyEntry : s.applyEntry.MemCanon :=
  foldl (fun _ _ hu => hu.kvApply) h.entryPrf.applyShadow.applyPage.entryCadence

theorem execRun {hd : Hdr} : NextCanon (Machine.execRun hd s) :=
  next (h.command fun _ hu => ite hu.raiseRunFaults.invalid (answer (enter (upd hu.applyEntry))))

theorem execResume {hd : Hdr} : NextCanon (Machine.execResume hd s) :=
  next (h.command fun _ hu => ite hu.raiseFaults.invalid (answer (enter (upd hu.applyPage))))

theorem discardFrame : s.discardFrame.MemCanon :=
  h.count

theorem discardSegment : s.discardSegment.MemCanon :=
  h.count

theorem setRx {ch : Nat} {p : RxPart} : (s.setRx ch p).MemCanon :=
  upd h

theorem takeSegment {f : Frame} : (s.takeSegment f).MemCanon :=
  ite h.discardSegment (ite h.setRx.discardSegment (ite h.setRx.discardSegment
    (ite (upd (setRx (ite h.discardSegment h))) (setRx (ite h.discardSegment h)))))

theorem execSegment {f : Frame} : NextCanon (Machine.execSegment f s) :=
  iteNext h.next (iteNext h.discardFrame.next (iteNext h.next (iteNext h.discardFrame.next (iteNext h.next h.takeSegment.next))))

theorem execCredit {word0 : Word} {offset : DWord} {word3 : Word} : NextCanon (Machine.execCredit word0 offset word3 s) :=
  iteNext h.next (iteNext h.takeRx.discardSegment.next (iteNext (next (upd h.takeRx)) h.takeRx.next))

theorem execNak {word0 : Word} {offset : DWord} {word3 : Word} : NextCanon (Machine.execNak word0 offset word3 s) :=
  iteNext h.next (iteNext h.takeRx.discardSegment.next (iteNext (next (upd h.takeRx)) h.takeRx.next))

theorem execIngest {off : Nat} {bytes : List Byte} {dest consumed : Nat} : NextCanon (Machine.execIngest off bytes dest consumed s) :=
  iteNext h.next (iteNext (next (upd h.takeRx)) (iteNext h.takeRx.next (iteNext h.next (next (upd h.takeRx.store)))))

theorem execCtlRamtorFailover : NextCanon (Machine.execCtlRamtorFailover s) :=
  iteNext h.next (next (raise (count (upd h))))

theorem execLedgerSend : NextCanon (Machine.execLedgerSend s) := by
  unfold Machine.execLedgerSend
  split
  · exact h.next
  · exact iteNext (next (upd h)) h.next

theorem toEdge : s.toEdge.MemCanon :=
  upd h

theorem countTick : s.countTick.MemCanon :=
  upd h

theorem takeMargins {margins : List (Fin 24 × Fin 32 × Nat)} : (s.takeMargins margins).MemCanon :=
  foldl (fun _ _ hu => hu.takeMargin.monSample) h

theorem heartbeats : s.heartbeats.MemCanon :=
  foldl (fun _ _ hu => hu.heartbeat) h

theorem tickSwaps : s.tickSwaps.MemCanon :=
  foldl (fun _ _ hu => activationPoint (ite hu.swapPoint hu)) h

theorem startDue : s.startDue.MemCanon := by
  unfold State.startDue
  refine ite h ?_
  split
  · exact h
  · exact beginStep (foldl (fun _ _ hu => hu.prfApply) h)
  · exact h.beginStep

theorem execTick {trims : List (Pd × Trim)} {margins : List (Fin 24 × Fin 32 × Nat)} : NextCanon (Machine.execTick trims margins s) :=
  iteNext h.next (iteNext h.toEdge.countTick.next (next (startDue
    (sealEdge (tickSwaps (heartbeats (takeMargins (foldl (fun _ _ hu => hu.trim) h.toEdge.countTick.startNarrow))))))))

theorem execBellowsLoop {rails : List (Fin 9 × Nat × Nat)} : NextCanon (Machine.execBellowsLoop rails s) :=
  iteNext h.next (iteNext h.microsecond.next h.bellowsPass.microsecond.ingestUs.next)

theorem swapAtSeal {d : Nat} : (s.swapAtSeal d).MemCanon :=
  h.setRw.updFab

theorem execRotation {images : List (Die × List Byte)} : NextCanon (Machine.execRotation images s) :=
  iteNext h.next (next (upd (foldl (fun _ _ hu => ite hu.loadChunk.swapAtSeal hu.loadChunk) h)))

end State.MemCanon
end Sys2Proof.Machine
end


section
/-! Memory stays canonical: the table of the commands and the step (R278, R280, R286). -/

namespace Sys2Proof.Machine

/-- Every command leads from a canonical memory to a canonical one. -/
theorem State.MemCanon.exec {s : State} (h : s.MemCanon) (i : Instr) : NextCanon (Machine.exec i s) := by
  unfold Machine.exec
  split
  · exact h.execAttest
  · exact h.execReadReg
  · exact h.execWriteReg
  · exact h.execLoadFw
  · exact h.execFwComplete
  · exact h.execFwCompleteDone
  · exact h.execLoadImage
  · exact h.execActivate
  · exact h.execSwapRequest
  · exact h.execCommitConfig
  · exact h.execReactivate
  · exact h.execRun
  · exact h.execHold
  · exact h.execResume
  · exact h.execStop
  · exact h.execArrayRepair
  · exact h.execArrayRepairDone
  · exact h.execFabricFlush
  · exact h.execPortRetrain
  · exact h.execCadReacquire
  · exact h.execCkptExport
  · exact h.execCkptImport
  · exact h.execCkptStop
  · exact h.execLedgerAck
  · exact h.execCap
  · exact h.execSupplyHold
  · exact h.execShed
  · exact h.execFreqDev
  · exact h.execSupplyMsgTick
  · exact h.execHoldExpiry
  · exact h.execCipEnable
  · exact h.execCipDisable
  · exact h.execMaintEnter
  · exact h.execMaintExit
  · exact h.execDebugUnlock
  · exact h.execKeysetRotate
  · exact h.execZeroise
  · exact h.execZeroiseDone
  · exact h.execTamperClear
  · exact h.execFloorRaise
  · exact h.execReset
  · exact h.execRecoverLoad
  · exact h.execRecoverVerifyDone
  · exact h.execCommandReservedOpcode
  · exact h.execSegment
  · exact h.execCredit
  · exact h.execNak
  · exact h.execIngest
  · exact h.execCtlRamtorFailover
  · exact h.execLedgerSend
  · exact h.execEventAdmit
  · exact h.execEventChannelSend
  · exact h.execEventHostCopy
  · exact h.execResetNDeassert
  · exact execResetNAssert
  · exact execPwrGoodLoss
  · exact h.execSupplyAlert
  · exact h.execPllSwitch
  · exact h.execSupplyAlertRelease
  · exact h.execPresenceNChange
  · exact h.execPresence
  · exact h.execSecTamper
  · exact h.execPwrBrownout
  · exact h.execBrownoutRecovery
  · exact h.execTempWarn
  · exact h.execTempLimit
  · exact h.execHltThermtrip
  · exact h.execMemRefreshBand
  · exact h.execDroop
  · exact h.execDroopEnd
  · exact h.execTick
  · exact h.execStepSeal
  · exact h.execSync
  · exact h.execFollowUp
  · exact h.execAnnounce
  · exact h.execDelayResp
  · exact h.execSyncTimeout
  · exact h.execCadenceEdge
  · exact h.execPulseInconsistent
  · exact h.execPulseConsistent
  · exact h.execPulseLoss
  · exact h.execLocked
  · exact h.execCadLost
  · exact h.execRelock
  · exact h.execBellowsLoop
  · exact h.execPwrRampRelaxed
  · exact h.execMode
  · exact h.execRotation
  · exact h.execReqOn
  · exact h.execDomainRampDone
  · exact h.execHourlyTrend
  · exact h.execRingOscSample
  · exact h.execRetentionCanary
  · exact h.execPatrolScrub
  · exact h.execMemoryAccess
  · exact h.execRegisterWrite
  · exact h.execMbxSel
  · exact h.execMailboxSnapshot
  · exact h.execQuiesceReq
  · exact h.execEnable
  · exact h.execLeavenW0Write
  · exact h.execDrop
  · exact h.execAbandon
  · exact h.execHoldLimitExpiry
  · exact h.execMpdAccept
  · exact h.execDescriptorRecord
  · exact h.execTileFetch
  · exact h.execPreload
  · exact h.execShadowLoadDone
  · exact h.execPassStart
  · exact h.execPassAccept
  · exact h.execCheckFailure
  · exact h.execOverflow
  · exact h.execRung3Move
  · exact h.execEngOperandUncorrectable
  · exact h.execDrain
  · exact h.execEpilogueRow
  · exact h.execMpdComplete
  · exact h.execEmptyMpd
  · exact h.execBallastPass
  · exact h.execMulticastUnit
  · exact h.execSeqMcastStall
  · exact h.execReedFiring
  · exact h.execCounterWrap
  · exact h.execGoToken
  · exact h.execSel
  · exact h.execBr
  · exact h.execEndToken
  · exact h.execPhaseToken
  · exact h.execDoneToken
  · exact h.execStreamRun
  · exact h.execStreamRunEnd
  · exact h.execFabStarve
  · exact h.execCreditAudit
  · exact h.execSwap
  · exact h.execReactivation
  · exact h.execStepStart
  · exact h.execForwardPhase
  · exact h.execBackwardPhase
  · exact h.execIssue
  · exact h.execExtent
  · exact h.execGo
  · exact h.execWord
  · exact h.execWait
  · exact h.execArm
  · exact h.execSend
  · exact h.execRecv
  · exact h.execDoneLayer
  · exact h.execEnd
  · exact h.execNextComplete
  · exact h.execRevert
  · exact h.execPartialRow
  · exact h.execContributionComplete
  · exact h.execDelivery
  · exact h.execStatePrefetch
  · exact h.execChunkApply
  · exact h.execNextCompleteSend
  · exact h.execSegmentNotice
  · exact h.execPoison
  · exact h.execRelease
  · exact h.execAbandonNotice
  · exact h.execSealExchange
  · exact h.execDivergenceRecovery
  · exact h.execExportFrame
  · exact h.execImportFrame
  · exact h.execDataFlit
  · exact h.execNakFlit
  · exact h.execAckTimeout
  · exact h.execLnkLaneRetired
  · exact h.execLaneMarginLimit
  · exact h.execLockLoss
  · exact h.execFastRetrainEnd
  · exact h.execTrainingEnd
  · exact h.execHeartbeat
  · exact h.execLnkPartition
  · exact h.execCollectiveData
  · exact h.execWindowCredit
  · exact h.execCollectiveAbort
  · exact h.execColTimeout
  · exact h.execConduitNotice
  · exact h.execConduitData
  · exact h.execBulkReadRequest
  · exact h.execBulkData
  · exact h.execOpen
  · exact h.execFork
  · exact h.execAppend
  · exact h.execFree
  · exact h.execAdvance
  · exact h.execReaderClose
  · exact h.execManifest
  · exact h.execContainerDemux
  · exact h.execStreamContextOpen
  · exact h.execPictureDecode
  · exact h.execFragment
  · exact h.execGenerationPublish
  · exact h.execGenerationRetire
  · exact h.execIngestQueueEntry
  · exact h.execIngestRun
  · exact h.execSpanSubmit
  · exact h.execIngCipViolation
  · exact h.execSealLoopChange
  · exact h.execSrc
  · exact h.execIdleFlit

theorem State.MemCanon.step {s : State} (h : s.MemCanon) : NextCanon (Machine.step s) := by
  unfold Machine.step
  split
  · exact h.next
  · exact State.MemCanon.exec (upd h) _

/-- Settles O4: every operation of the state keeps memory and its poison marks in canonical form, hence every command does, hence the step does. -/
theorem memoryStaysCanonical : Obligations.MemoryStaysCanonical := by
  unfold Obligations.MemoryStaysCanonical
  intro s t hs ht
  have hnext : NextCanon (step s) := State.MemCanon.step hs
  rw [ht] at hnext
  exact hnext

end Sys2Proof.Machine
end

section
/-! The dies of the crust and the Trough (R279). -/

namespace Sys2Proof.Machine

/-- Settles O41: a field of an offset is its quotient by the stripe, modulo the number of dies, and a stripe has one quotient. -/
theorem stripesOfMemory : Obligations.StripesOfMemory := by
  unfold Obligations.StripesOfMemory crustDieOf stackOf
  refine ⟨?_, ?_, ?_, ?_⟩
  · intro d o
    rw [BitVec.extractLsb'_toNat, Nat.shiftRight_eq_div_pow]
  · intro p o
    rw [BitVec.extractLsb'_toNat, Nat.shiftRight_eq_div_pow]
  · intro d q k hk
    omega
  · intro p q k hk
    omega

end Sys2Proof.Machine
end

section
/-! What a raised record, a mark of poison and a count leave of the counters and the event block (R286, R416 to R420). -/

namespace Sys2Proof.Machine

/-- A register is told from another by its page and its offset. -/
theorem regAddr_inj {p q a b : Nat} (ha : a < 65536) (hb : b < 65536) (h : regAddr p a = regAddr q b) : p = q ∧ a = b := by
  unfold regAddr at h
  omega

theorem regAddr_ne_of_page {p q a b : Nat} (ha : a < 65536) (hb : b < 65536) (h : p ≠ q) : regAddr p a ≠ regAddr q b :=
  fun heq => h (regAddr_inj ha hb heq).1

/-- A record counts at most in MASKED or LOST, both of the event page (R419, R420). -/
theorem State.raise_cntAt_of_page {s : State} (h : s.cnt.ordered) {q off : Nat} (hq : q ≠ Page.event) (hoff : off < 65536) (p c : Nat)
    (pl : List Byte) : (s.raise p c pl).cntAt (regAddr q off) = s.cntAt (regAddr q off) := by
  have hother : ∀ n, n < 65536 → (s.count (regAddr Page.event n) 1).cntAt (regAddr q off) = s.cntAt (regAddr q off) := fun n hn =>
    State.cntAt_count_other h (regAddr_ne_of_page hoff hn hq) 1
  unfold State.raise
  dsimp only
  split
  · exact hother 0x48 (by decide)
  · split
    · exact hother 0x44 (by decide)
    · rfl

/-- A mark of poison stands where it was set (R286). -/
theorem State.setPoison_marked (s : State) (a : Nat) : (s.setPoison a).poison.get false (granule a) = true :=
  Tbl.get_set_self (by decide) s.poison (granule a)

theorem State.uncorrectable_cnt_ordered {s : State} (h : s.cnt.ordered) (key addr cause mb : Nat) :
    (s.uncorrectable key addr cause mb).cnt.ordered :=
  State.raise_cnt_ordered (s := (s.count (memCounter key 1) 1).setPoison addr) (State.count_cnt_ordered h _ _) _ _ _

theorem State.uncorrectable_marked (s : State) (key addr cause mb : Nat) :
    (s.uncorrectable key addr cause mb).poison.get false (granule addr) = true :=
  State.setPoison_marked (s.count (memCounter key 1) 1) addr

theorem State.uncorrectable_evt (s : State) (key addr cause mb : Nat) :
    (s.uncorrectable key addr cause mb).evt = (s.raise (memDiePage key) Code.memUncorrectable
      (memPayload (memDieSource key) addr (memDieNumber key) cause 0 0 mb)).evt := rfl

end Sys2Proof.Machine
end

section
/-! MEM_REFRESH_BAND and PATROL_SCRUB (R285, R287, R288). -/

namespace Sys2Proof.Machine

/-- A die that follows its sensor takes the step of R288 from its band, and reports it at most. -/
theorem State.followBand_spec (s : State) (m : MemDie) (c : Nat) :
    let t := s.followBand m c
    t = { s with mt := t.mt, evt := t.evt, cnt := t.cnt } ∧
      t.mt.tempBand = s.mt.tempBand.set 0 (memDieKey m) (bandStep (s.mt.tempBand.get 0 (memDieKey m)) c) := by
  unfold State.followBand State.bandEvent
  dsimp only
  split <;> exact ⟨rfl, rfl⟩

/-- So does MEM_REFRESH_BAND, which takes the reading besides. -/
theorem exec_memRefreshBand {s : State} (h : s.mt.tempBand.ordered) (m : MemDie) (c : Nat) :
    ∃ t, exec (.memRefreshBand m c) s = .next t ∧ t = { s with mt := t.mt, hlt := t.hlt, evt := t.evt, cnt := t.cnt } ∧
      t.mt.tempBand.get 0 (memDieKey m) = bandStep (s.mt.tempBand.get 0 (memDieKey m)) c := by
  obtain ⟨hframe, hband⟩ := (s.setTemp (sensorKey (.memory m)) c).followBand_spec m c
  refine ⟨(s.setTemp (sensorKey (.memory m)) c).followBand m c, rfl, ?_, ?_⟩
  · rw [hframe]
    rfl
  · rw [hband]
    exact (Tbl.get_set_ordered h _ _ _).trans (if_pos rfl)

theorem bandStep_of_le {old c : Nat} (h : old ≤ bandOf c) : bandStep old c = bandOf c := if_pos h

theorem bandStep_of_near {old c : Nat} (h : bandOf c < old) (hnear : bandLow old < c + 3) : bandStep old c = old := by
  unfold bandStep
  rw [if_neg (Nat.not_le.mpr h), if_neg (Nat.not_le.mpr hnear)]

theorem State.tempBand_ordered {s : State} (h : s.tablesOk) : s.mt.tempBand.ordered := by
  obtain ⟨-, -, -, -, -, -, -, -, -, -, -, -, -, -, -, -, -, -, -, -, hband, -⟩ := h
  exact hband

/-- What the one finding of a pass is taken for where its code detects it and cannot correct it (R285, R287). -/
theorem State.scrubbed_uncorrectable (s : State) (u : ScrubUnit) {f : ScrubFind} (h : eccResult f.addr f.err = .uncorrectable) :
    s.scrubbed u f = s.uncorrectable (scrubDie u f) f.addr 1 0xFFFF := by
  simp [State.scrubbed, State.eccOf, h]

/-- The counters of a memory die stand on the page that reports for it (R291, R292). -/
theorem memCounter_eq (key i : Nat) : memCounter key i = regAddr (memDiePage key) ((if key < 16 then 0x60 else 0x40) + 4 * i) := by
  unfold memCounter memDiePage
  split <;> rfl

/-- The DRAM dies of a stack share the counters of its page (R291). -/
theorem memCounter_stack (k : Nat) {n : Nat} (hn : n < 16) (i : Nat) : memCounter (16 + 16 * k + n) i = regAddr (Page.stack k) (0x40 + 4 * i) := by
  have hkey : ¬ 16 + 16 * k + n < 16 := by omega
  have hstack : (16 + 16 * k + n - 16) / 16 = k := by omega
  rw [memCounter, if_neg hkey, hstack]

theorem memCounter_ne_of_index {i j : Nat} (hij : i ≠ j) (key : Nat) : memCounter key i ≠ memCounter key j := by
  rw [memCounter_eq, memCounter_eq]
  intro h
  unfold regAddr at h
  omega

theorem memDiePage_ne_event (key : Nat) : memDiePage key ≠ Page.event := by
  unfold memDiePage Page.die Page.stack Page.event
  split <;> omega

/-- A granule that is found uncorrectable is counted once, in UE of its page (R291). -/
theorem State.uncorrectable_cntAt {s : State} (h : s.cnt.ordered) (key addr cause mb : Nat) {i : Nat} (hi : i < 4) :
    (s.uncorrectable key addr cause mb).cntAt (memCounter key i) = s.cntAt (memCounter key i) + (if i = 1 then 1 else 0) := by
  have hc : (s.count (memCounter key 1) 1).cnt.ordered := State.count_cnt_ordered h _ _
  have hraise : (s.uncorrectable key addr cause mb).cntAt (memCounter key i) = (s.count (memCounter key 1) 1).cntAt (memCounter key i) := by
    rw [memCounter_eq key i]
    exact State.raise_cntAt_of_page (s := (s.count (memCounter key 1) 1).setPoison addr) hc (memDiePage_ne_event key)
      (by split <;> omega) _ _ _
  rw [hraise]
  split
  · next hone =>
    rw [hone]
    exact State.cntAt_count_same h _ _
  · next hone => exact State.cntAt_count_other h (memCounter_ne_of_index hone key) 1

/-- The state after a scrub pass of a unit has met one granule: the corrections of the period are handed on and the pass is counted (R287). -/
theorem exec_patrolScrub_one {s : State} (u : ScrubUnit) {f : ScrubFind} (hs : s.bel.stopped = false) (hp : s.scrubPaused u = false)
    (h : eccResult f.addr f.err = .uncorrectable) :
    ∃ mt, exec (.patrolScrub u [f]) s =
      .next (State.count { s.uncorrectable (scrubDie u f) f.addr 1 0xFFFF with mt := mt } (memCounter (scrubDie u f) 3) 1) := by
  have hpass : exec (.patrolScrub u [f]) s = execPatrolScrub u [f] s := rfl
  rw [hpass]
  unfold execPatrolScrub
  rw [if_neg (by simp [State.still, hs]), if_neg (by simp [hp]), List.foldl_cons, List.foldl_nil, State.scrubbed_uncorrectable s u h]
  cases u with
  | stack k =>
    have hcounter : memCounter (16 + 16 * k.val + f.die.val) 3 = memCounter (16 + 16 * k.val + 0) 3 :=
      (memCounter_stack k f.die.isLt 3).trans (memCounter_stack k (by decide) 3).symm
    unfold scrubDie
    dsimp only
    rw [hcounter]
    exact ⟨_, rfl⟩
  | crust n => exact ⟨_, rfl⟩

/-- A pass that QUIESCE_REQ pauses does nothing (R410). -/
theorem exec_patrolScrub_paused {s : State} {u : ScrubUnit} (finds : List ScrubFind) (hs : s.bel.stopped = false)
    (hp : s.scrubPaused u = true) : exec (.patrolScrub u finds) s = .next s := by
  change execPatrolScrub u finds s = _
  simp [execPatrolScrub, State.still, hs, hp]

/-- Settles O43: the band after a reading is the step of R288 from the band before, and the one finding of a pass is charged to its die before
the pass is counted. -/
theorem refreshAndScrub : Obligations.RefreshAndScrub := by
  unfold Obligations.RefreshAndScrub
  refine ⟨?_, ?_, ?_, ?_⟩
  · intro s m c htab hup
    obtain ⟨t, ht, hframe, hband⟩ := exec_memRefreshBand (State.tempBand_ordered htab) m c
    exact ⟨t, ht, hframe, hband.trans (bandStep_of_le hup)⟩
  · intro s m c htab hdown hnear
    obtain ⟨t, ht, -, hband⟩ := exec_memRefreshBand (State.tempBand_ordered htab) m c
    exact ⟨t, ht, hband.trans (bandStep_of_near hdown hnear)⟩
  · intro s u addr die err hs htab hp herr
    obtain ⟨-, hcnt, -⟩ := State.tablesOk_ordered htab
    obtain ⟨mt, ht⟩ := exec_patrolScrub_one (f := { addr := addr, die := die, err := err }) u hs hp herr
    refine ⟨_, ht, rfl, State.uncorrectable_marked s _ addr 1 0xFFFF, rfl, ?_⟩
    rintro k rfl
    generalize scrubDie u { addr := addr, die := die, err := err } = k
    have hc : (s.uncorrectable k addr 1 0xFFFF).cnt.ordered := State.uncorrectable_cnt_ordered hcnt ..
    have hue := State.uncorrectable_cntAt hcnt k addr 1 0xFFFF (i := 1) (by decide)
    have hpasses := State.uncorrectable_cntAt hcnt k addr 1 0xFFFF (i := 3) (by decide)
    have hother := State.cntAt_count_other hc (memCounter_ne_of_index (i := 1) (j := 3) (by decide) k) 1
    have hsame := State.cntAt_count_same hc (memCounter k 3) 1
    exact ⟨State.uncorrectable_evt s k addr 1 0xFFFF, hother.trans hue, hsame.trans (congrArg (· + 1) hpasses)⟩
  · intro s u finds hs hp
    exact exec_patrolScrub_paused finds hs hp

end Sys2Proof.Machine
end


section
/-! How an access begins: the hart's registers are kept and the poison of the page-table entries is counted (R284, R286, R303). -/

namespace Sys2Proof.Machine

/-- The state in which the addresses of an access have been found: the hart's registers are kept, and the poisoned page-table entries that the
walk read are counted (R286, R303). -/
def State.resolved (s : State) (u : MemUnit) (h : Hart) (va : Nat) (op : MemOp) : State :=
  (s.keepHart u h).countPoison ((s.resolve u h va op.len op.access).2.map granule)

theorem State.keepHart_frame (s : State) (u : MemUnit) (h : Hart) : s.keepHart u h = { s with mt := (s.keepHart u h).mt } := by
  unfold State.keepHart
  split <;> rfl

theorem State.resolved_frame (s : State) (u : MemUnit) (h : Hart) (va : Nat) (op : MemOp) :
    s.resolved u h va op = { s with cnt := (s.resolved u h va op).cnt, mt := (s.keepHart u h).mt } := by
  have hcount := (s.keepHart u h).countPoison_frame ((s.resolve u h va op.len op.access).2.map granule)
  have hkeep := s.keepHart_frame u h
  unfold State.resolved
  generalize (s.keepHart u h).countPoison _ = t at hcount ⊢
  generalize s.keepHart u h = k at hkeep hcount ⊢
  rw [hcount, hkeep]

variable {s : State} {u : MemUnit} {hart : Hart} {va pa : Nat} {op : MemOp}

theorem exec_memoryAccess_trap {tr : MemTrap} (hs : s.bel.stopped = false) (ht : s.translate u hart va op.len op.access = .trap tr)
    (ecc : Ecc) (die : Fin 16) (mb : Nat) :
    exec (.memoryAccess ⟨u, hart⟩ va op ecc die mb) s = .next ((s.resolved u hart va op).turnAway op tr) := by
  have hexec : exec (.memoryAccess ⟨u, hart⟩ va op ecc die mb) s = execMemoryAccess ⟨u, hart⟩ va op ecc die mb s := rfl
  rw [hexec]
  unfold State.translate at ht
  simp only [execMemoryAccess, State.still, hs, ht, Bool.false_eq_true, if_false, State.resolved]

theorem exec_memoryAccess_at (hs : s.bel.stopped = false) (ht : s.translate u hart va op.len op.access = .at pa)
    (ecc : Ecc) (die : Fin 16) (mb : Nat) :
    exec (.memoryAccess ⟨u, hart⟩ va op ecc die mb) s = .next ((s.resolved u hart va op).accessAt u pa op ecc die mb) := by
  have hexec : exec (.memoryAccess ⟨u, hart⟩ va op ecc die mb) s = execMemoryAccess ⟨u, hart⟩ va op ecc die mb s := rfl
  rw [hexec]
  unfold State.translate at ht
  simp only [execMemoryAccess, State.still, hs, ht, Bool.false_eq_true, if_false, State.resolved]

theorem State.resolved_mem : (s.resolved u hart va op).mem = s.mem := by
  rw [State.resolved_frame]

theorem State.resolved_poison : (s.resolved u hart va op).poison = s.poison := by
  rw [State.resolved_frame]

/-- The firewall is closed to the cores of the partition alone (R312). -/
theorem State.bars_of_not_cip (hu : s.isCipCore u = false) (k : Access) (a : Nat) : s.bars u k a = false := by
  unfold State.bars
  split
  · rw [hu, Bool.false_and]
  · rfl

/-- Neither the firewall nor a view reads the counters or the registers of the harts. -/
theorem State.resolved_bars (k : Access) : (s.resolved u hart va op).bars u k = s.bars u k := by
  rw [State.resolved_frame]
  rfl

theorem State.resolved_open (hu : s.isCipCore u = false) (k : Access) (a : Nat) : (s.resolved u hart va op).bars u k a = false := by
  rw [State.resolved_bars, State.bars_of_not_cip hu]

theorem State.resolved_spanFault (a n : Nat) (w : Bool) : (s.resolved u hart va op).spanFault u a n w = s.spanFault u a n w := by
  rw [State.resolved_frame]
  rfl

theorem State.accessAt_barred (hb : s.bars u op.access pa = true) (ecc : Ecc) (die : Fin 16) (mb : Nat) :
    s.accessAt u pa op ecc die mb = s.cipViolation op := by
  simp [State.accessAt, hb]

theorem State.accessAt_away {c : Nat} (hb : ∀ a, s.bars u op.access a = false) (hf : s.spanFault u pa op.len op.writes = some c)
    (ecc : Ecc) (die : Fin 16) (mb : Nat) : s.accessAt u pa op ecc die mb = (s.unmapped u pa c mb).turnAway op .none := by
  simp [State.accessAt, hb, hf]

theorem State.accessAt_write {bs : List Byte} (hb : ∀ a, s.bars u .store a = false) (hf : s.spanFault u pa bs.length true = none)
    (hr : ∀ a, regionOf pa ≠ .register a) (ecc : Ecc) (die : Fin 16) (mb : Nat) :
    s.accessAt u pa (.write bs) ecc die mb = s.writeAccess u pa bs := by
  have hopen : [pa, pa + (bs.length - 1)].find? (s.bars u .store) = none := List.find?_eq_none.mpr (by simp [hb])
  simp only [State.accessAt, MemOp.len, MemOp.access, MemOp.writes, hopen, hf]

theorem State.accessAt_read (hw : op.writes = false) (hb : ∀ a, s.bars u op.access a = false) (hf : s.spanFault u pa op.len false = none)
    (hr : ∀ a, regionOf pa ≠ .register a) (ecc : Ecc) (die : Fin 16) (mb : Nat) :
    s.accessAt u pa op ecc die mb = s.readAccess u pa op.len ecc die mb := by
  have hopen : [pa, pa + (op.len - 1)].find? (s.bars u op.access) = none := List.find?_eq_none.mpr (by simp [hb])
  simp only [State.accessAt, hopen, hw, hf]
  split
  · exact absurd hw (by simp [MemOp.writes])
  · next hreg _ => exact absurd hreg (hr _)
  · exact absurd hw (by simp [MemOp.writes])
  · rfl

/-- An address that its translation turns away takes the trap and changes nothing (R284, R303). -/
theorem exec_memoryAccess_trapped {tr : MemTrap} (hs : s.bel.stopped = false) (ht : s.translate u hart va op.len op.access = .trap tr)
    (ecc : Ecc) (die : Fin 16) (mb : Nat) :
    ∃ t, exec (.memoryAccess ⟨u, hart⟩ va op ecc die mb) s = .next t ∧ t = { s with cnt := t.cnt, mt := t.mt } ∧
      t.mt = { (s.keepHart u hart).mt with answer := t.mt.answer } ∧
      t.mt.answer.trap = tr ∧ t.mt.answer.data = if op.writes = true then [] else List.replicate op.len 0#8 := by
  refine ⟨_, exec_memoryAccess_trap hs ht ecc die mb, ?_, ?_, rfl, rfl⟩
  · rw [State.resolved_frame]
    rfl
  · rw [State.resolved_frame]
    rfl

/-- An access that the map or the view of its unit turns away changes no byte and no mark, and a read gets zeros (R280, R283). -/
theorem exec_memoryAccess_away {c : Nat} (hs : s.bel.stopped = false) (ht : s.translate u hart va op.len op.access = .at pa)
    (hu : s.isCipCore u = false) (hf : s.spanFault u pa op.len op.writes = some c) (ecc : Ecc) (die : Fin 16) (mb : Nat) :
    ∃ t, exec (.memoryAccess ⟨u, hart⟩ va op ecc die mb) s = .next t ∧ t.mem = s.mem ∧ t.poison = s.poison ∧
      t.mt.answer.data = if op.writes = true then [] else List.replicate op.len 0#8 := by
  refine ⟨_, exec_memoryAccess_at hs ht ecc die mb, ?_⟩
  rw [State.accessAt_away (State.resolved_open hu _) ((State.resolved_spanFault ..).trans hf), State.resolved_frame]
  exact ⟨rfl, rfl, rfl⟩

end Sys2Proof.Machine
end

section
/-! What a write and a read that may be made do (R280, R281, R285, R286). -/

namespace Sys2Proof.Machine

variable {s : State} {u : MemUnit} {hart : Hart} {va pa : Nat} {op : MemOp}

/-- A write that may be made is answered after the write (R280). -/
theorem exec_memoryAccess_write {bs : List Byte} (hs : s.bel.stopped = false) (ht : s.translate u hart va bs.length .store = .at pa)
    (hu : s.isCipCore u = false) (hf : s.spanFault u pa bs.length true = none) (hr : ∀ a, regionOf pa ≠ .register a)
    (ecc : Ecc) (die : Fin 16) (mb : Nat) :
    exec (.memoryAccess ⟨u, hart⟩ va (.write bs) ecc die mb) s = .next ((s.resolved u hart va (.write bs)).writeAccess u pa bs) := by
  rw [exec_memoryAccess_at (op := .write bs) hs ht, State.accessAt_write (State.resolved_open hu _) ((State.resolved_spanFault ..).trans hf) hr]

/-- A read that may be made is carried out (R280). -/
theorem exec_memoryAccess_read (hw : op.writes = false) (hs : s.bel.stopped = false)
    (ht : s.translate u hart va op.len op.access = .at pa) (hu : s.isCipCore u = false) (hf : s.spanFault u pa op.len false = none)
    (hr : ∀ a, regionOf pa ≠ .register a) (ecc : Ecc) (die : Fin 16) (mb : Nat) :
    exec (.memoryAccess ⟨u, hart⟩ va op ecc die mb) s = .next ((s.resolved u hart va op).readAccess u pa op.len ecc die mb) := by
  rw [exec_memoryAccess_at hs ht, State.accessAt_read hw (State.resolved_open hu _) ((State.resolved_spanFault ..).trans hf) hr]

/-- Outside the arrival windows a write is a store (R281). -/
theorem State.writeAccess_memory {bs : List Byte} (hr : ∀ p a, regionOf pa ≠ .arrival p a) :
    s.writeAccess u pa bs = (s.store pa bs).answerAccess [] false .none := by
  unfold State.writeAccess State.putAt
  split
  · next harr => exact absurd harr (hr _ _)
  · rfl

/-- A code takes a read without errors for what it is (R285). -/
theorem eccResult_clean (a : Nat) : eccResult a .clean = .clean := by
  unfold eccResult
  split <;> rfl

theorem State.meetErrors_clean (s : State) (a : Nat) (die : Fin 16) (mb : Nat) : s.meetErrors a .clean die mb = s := by
  simp [State.meetErrors, State.eccOf, eccResult_clean]

theorem State.meetErrors_uncorrectable {a : Nat} {ecc : Ecc} (h : eccResult a ecc = .uncorrectable) (s : State) (die : Fin 16) (mb : Nat) :
    s.meetErrors a ecc die mb = s.uncorrectableRead a die mb := by
  simp [State.meetErrors, State.eccOf, h]

/-- A clean read delivers the bytes and tells whether a granule of theirs is poisoned (R280, R286). -/
theorem State.readAccess_clean (ht : ∀ d a, regionOf pa ≠ .table d a) (n : Nat) (die : Fin 16) (mb : Nat) :
    ∃ tr, s.readAccess u pa n .clean die mb =
      (s.countPoison (touchedGranules pa n)).answerAccess (s.bytesAt pa n) (s.poisonedAt pa n) tr := by
  have hbytes : s.regionBytes pa n = (s.bytesAt pa n, false) := by
    unfold State.regionBytes
    split
    · next htable => exact absurd htable (ht _ _)
    · rfl
  simp only [State.readAccess, State.meetErrors_clean, eccResult_clean, hbytes, reduceCtorEq, if_false, Bool.false_eq_true]
  exact ⟨_, rfl⟩

/-- A read of free values counts their poison as any other does. -/
theorem State.countPoison_used_frame (s : State) (b : Bool) (l : List Nat) :
    let t := (if b = true then s.used else s).countPoison l
    t = { s with cnt := t.cnt, freeCtr := t.freeCtr } := by
  dsimp only
  rw [State.countPoison_frame]
  cases b <;> rfl

/-- What a read does beside its errors touches the counters, the answer and the free values alone. -/
theorem State.readAccess_frame (s : State) (u : MemUnit) (a n : Nat) (ecc : Ecc) (die : Fin 16) (mb : Nat) :
    let t := s.readAccess u a n ecc die mb
    t = { s.meetErrors a ecc die mb with cnt := t.cnt, mt := t.mt, freeCtr := t.freeCtr } := by
  unfold State.readAccess
  extract_lets s1 bad v s2 host t
  have h2 : s2 = { s1 with cnt := s2.cnt, freeCtr := s2.freeCtr } := s1.countPoison_used_frame v.2 (touchedGranules a n)
  clear_value s2
  unfold t
  rw [h2]
  rfl

/-- A read that its code cannot correct marks its granule; a memory die counts and reports it (R286). -/
theorem State.uncorrectableRead_spec (s : State) (a : Nat) (die : Fin 16) (mb : Nat) :
    let t := s.uncorrectableRead a die mb
    t = { s with poison := t.poison, evt := t.evt, cnt := t.cnt } ∧ t.poison.get false (granule a) = true ∧
      (∀ k, eccKey a die = some k → t.evt = (s.raise (memDiePage k) Code.memUncorrectable
        (memPayload (memDieSource k) a (memDieNumber k) 0 0 0 mb)).evt) ∧
      (eccKey a die = none → t.evt = s.evt) := by
  unfold State.uncorrectableRead
  rcases hkey : eccKey a die with _ | k
  · exact ⟨rfl, s.setPoison_marked a, nofun, fun _ => rfl⟩
  · refine ⟨rfl, State.uncorrectable_marked .., ?_, nofun⟩
    rintro _ ⟨⟩
    exact State.uncorrectable_evt ..

end Sys2Proof.Machine
end

section
/-! What the firewall of the customer partition refuses is counted on the page of the host cores (R291, R312). -/

namespace Sys2Proof.Machine

variable {s : State} {u : MemUnit} {hart : Hart} {va : Nat} {op : MemOp}

/-- The Trough belongs to 8 Proofers and the crust to 4 compute dies (R278). -/
theorem regionOf_trough {a p o : Nat} (h : regionOf a = .trough p o) : p < 8 := by
  unfold regionOf at h
  dsimp only at h
  split_ifs at h with _ hp
  cases h
  exact hp.1

theorem regionOf_crust {a d o : Nat} (h : regionOf a = .crust d o) : d < 4 := by
  unfold regionOf at h
  dsimp only at h
  split_ifs at h with _ _ _ hd
  cases h
  exact hd.1

/-- A memory die reports on the page of a compute die or of a stack (R292). -/
theorem memDiePage_lt {a k : Nat} (h : memKeyOf a = some k) : memDiePage k < Page.host := by
  have hk : k < 272 := by
    unfold memKeyOf at h
    split at h
    · next p o hr =>
      have := regionOf_trough hr
      cases h
      unfold stackOf
      omega
    · next d o hr =>
      have := regionOf_crust hr
      cases h
      unfold crustDieOf
      omega
    · cases h
  unfold memDiePage Page.die Page.stack Page.host
  split <;> omega

/-- Poison that a read meets is counted on the pages of the memory dies, not on that of the host cores (R286, R291). -/
theorem State.countPoison_host (h : s.cnt.ordered) (l : List Nat) {off : Nat} (ho : off < 65536) :
    (s.countPoison l).cnt.ordered ∧ (s.countPoison l).cntAt (hostReg off) = s.cntAt (hostReg off) := by
  unfold State.countPoison
  refine List.foldlRecOn (motive := fun t : State => t.cnt.ordered ∧ t.cntAt (hostReg off) = s.cntAt (hostReg off)) _ _ ⟨h, rfl⟩ ?_
  rintro t ⟨hord, hsame⟩ g -
  split
  · next k hk =>
    split
    · have hne : hostReg off ≠ memCounter k 2 := by
        rw [memCounter_eq]
        exact regAddr_ne_of_page ho (by split <;> omega) (memDiePage_lt hk).ne'
      exact ⟨State.count_cnt_ordered hord _ _, (State.cntAt_count_other hord hne 1).trans hsame⟩
    · exact ⟨hord, hsame⟩
  · exact ⟨hord, hsame⟩

theorem State.resolved_host (h : s.cnt.ordered) :
    (s.resolved u hart va op).cnt.ordered ∧ (s.resolved u hart va op).cntAt (hostReg 0x54) = s.cntAt (hostReg 0x54) := by
  have hkeep : (s.keepHart u hart).cnt = s.cnt := by rw [State.keepHart_frame]
  obtain ⟨hord, hsame⟩ := State.countPoison_host (s := s.keepHart u hart) (hkeep ▸ h)
    ((s.resolve u hart va op.len op.access).2.map granule) (off := 0x54) (by decide)
  exact ⟨hord, hsame.trans (congrArg (·.get 0 (hostReg 0x54)) hkeep)⟩

/-- An access that the firewall refuses is counted and reported, and a load or a fetch takes an access fault (R312). -/
theorem State.cipViolation_spec (h : s.cnt.ordered) (op : MemOp) :
    let t := s.cipViolation op
    t.mem = s.mem ∧ t.poison = s.poison ∧ t.cntAt (hostReg 0x54) = s.cntAt (hostReg 0x54) + 1 ∧
      t.mt.answer.trap = (if op.writes = true then .none else .access) := by
  refine ⟨rfl, rfl, ?_, rfl⟩
  unfold State.cipViolation
  extract_lets mt s1
  have hraise := State.raise_cntAt_of_page (s := s1.count (hostReg 0x54) 1) (q := Page.host) (off := 0x54) (State.count_cnt_ordered h _ _)
    (by decide) (by decide) Page.host Code.ingCipViolation (ingPayload 0 0xFF 0 0 0)
  exact hraise.trans (State.cntAt_count_same (s := s1) h _ _)

end Sys2Proof.Machine
end

section
/-! MEMORY_ACCESS (R276, R280, R283 to R286, R303, R312, R402). -/

namespace Sys2Proof.Machine

/-- Settles O42: the state in which the addresses of an access have been found differs from that before it in the counters and the hart's registers,
and each clause is what the access then makes of it: turned away, written, read clean, read with errors, or refused by the firewall. -/
theorem memoryAccesses : Obligations.MemoryAccesses := by
  unfold Obligations.MemoryAccesses
  refine ⟨?_, ?_, ?_, ?_, ?_, ?_, ?_, ?_⟩
  · intro s u va n ecc die mb hart tr hs ht
    exact exec_memoryAccess_trapped (op := .read n) hs ht ecc die mb
  · intro s u va bs ecc die mb hart tr hs ht
    obtain ⟨t, hexec, hframe, hmt, htrap, -⟩ := exec_memoryAccess_trapped (op := .write bs) hs ht ecc die mb
    exact ⟨t, hexec, hframe, hmt, htrap⟩
  · intro s u va addr bs ecc die mb hart hs hmem ht hu hf hreg harr
    refine ⟨_, exec_memoryAccess_write hs ht hu hf hreg ecc die mb, ?_⟩
    rw [State.writeAccess_memory harr, State.resolved_frame]
    refine ⟨rfl, ?_, fun a ha => State.byteAt_store_outside hmem ha⟩
    intro i b hb
    obtain ⟨hi, rfl⟩ := List.getElem?_eq_some_iff.mp hb
    exact State.byteAt_store_inside hmem hi
  · intro s u va addr n die mb hart fetch hs op ht hu hf hreg htable
    have hw : op.writes = false := by cases fetch <;> rfl
    have hlen : op.len = n := by cases fetch <;> rfl
    rw [← hlen] at ht hf ⊢
    obtain ⟨tr, hread⟩ := State.readAccess_clean (s := s.resolved u hart va op) (u := u) htable op.len die mb
    refine ⟨_, exec_memoryAccess_read hw hs ht hu hf hreg .clean die mb, ?_⟩
    rw [hread, State.countPoison_frame, State.resolved_frame]
    exact ⟨rfl, rfl, rfl⟩
  · intro s u va addr n ecc die mb hart hs hmem ht hu hf hreg herr
    have hframe := (s.resolved u hart va (.read n)).readAccess_frame u addr (MemOp.read n).len ecc die mb
    refine ⟨_, exec_memoryAccess_read (op := .read n) rfl hs ht hu hf hreg ecc die mb, ?_⟩
    rw [State.meetErrors_uncorrectable herr] at hframe
    obtain ⟨hread, hmark, hevt, hquiet⟩ := (s.resolved u hart va (.read n)).uncorrectableRead_spec addr die mb
    generalize (s.resolved u hart va (.read n)).readAccess u addr (MemOp.read n).len ecc die mb = t at hframe ⊢
    generalize (s.resolved u hart va (.read n)).uncorrectableRead addr die mb = v at hframe hread hmark hevt hquiet
    rw [State.resolved_frame] at hread hevt hquiet
    rw [hframe]
    refine ⟨?_, hmark, ?_, hevt, hquiet⟩
    · rw [hread]
    · rw [hread]
  · intro s u va addr n ecc die mb hart c hs ht hu hf
    exact exec_memoryAccess_away (op := .read n) hs ht hu hf ecc die mb
  · intro s u va addr bs ecc die mb hart c hs ht hu hf
    obtain ⟨t, hexec, hmem, hpoison, -⟩ := exec_memoryAccess_away (op := .write bs) hs ht hu hf ecc die mb
    exact ⟨t, hexec, hmem, hpoison⟩
  · intro s u va addr op ecc die mb hart hs htab ht hb
    obtain ⟨-, hcnt, -⟩ := State.tablesOk_ordered htab
    have hbar : (s.resolved u hart va op).bars u op.access addr = true := by rw [State.resolved_bars, hb]
    refine ⟨_, exec_memoryAccess_at hs ht ecc die mb, ?_⟩
    rw [State.accessAt_barred hbar]
    obtain ⟨hord, hsame⟩ := State.resolved_host (u := u) (hart := hart) (va := va) (op := op) hcnt
    obtain ⟨hmem, hpoison, hcount, htrap⟩ := State.cipViolation_spec hord op
    rw [hsame] at hcount
    exact ⟨hmem.trans State.resolved_mem, hpoison.trans State.resolved_poison, hcount, htrap⟩

end Sys2Proof.Machine
end

section
/-! CIP_ENABLE and CIP_DISABLE (R312, R313). What O18 says of CIP_ENABLE holds, and what it says of CIP_DISABLE holds where the table of the harts lists
its keys in rising order, as `State.tablesOk` has it. O18 asks `State.memOk` alone, and fails for a hart that the table lists behind one of a higher
number: a look-up does not reach it before the command, and does once the entry before it, a hart of the partition, is gone. -/

namespace Sys2Proof

/-- What a look-up finds once the entries whose key satisfies `p` are gone. -/
theorem Tbl.get_drop {α : Type} (d : α) {t : Tbl α} (h : t.ordered) (p : Nat → Bool) (k : Nat) :
    (t.drop p).get d k = if p k then d else t.get d k := by
  obtain ⟨l⟩ := t
  show Tbl.lookup d k (l.filter fun c => !p c.1) = if p k then d else Tbl.lookup d k l
  induction l with
  | nil => simp [Tbl.lookup]
  | cons c l ih =>
    have hrest : Tbl.sorted (some c.1) l = true := h
    have ih := ih (Tbl.sorted_none _ hrest)
    rcases lt_trichotomy c.1 k with hlt | rfl | hgt
    · by_cases hc : p c.1 = true <;> simp [hc, Tbl.lookup, hlt, ih]
    · by_cases hc : p c.1 = true
      · simp [hc, ih]
      · simp [hc, Tbl.lookup]
    · have hkeep : Tbl.sorted (some c.1) (l.filter fun c => !p c.1) = true := Tbl.sorted_filter_above _ _ _ hrest
      have hbelow := Tbl.lookup_below d k c.1 hgt.le _ hkeep
      by_cases hc : p c.1 = true <;> simp [hc, Tbl.lookup, hgt.not_gt, hgt.ne', hbelow]

namespace Machine

variable {s : State} {h : Hdr}

/-- CIP_ENABLE with both fields in range opens the partition (R312). -/
theorem exec_cipEnable_spec (ha : s.accepts h 0x0060 = true)
    (hcores : ((s.begun h).applyShadow (· = hostReg 0x104)).cipCores ≤ 12)
    (hwin : ∀ edge < 2, ((s.begun h).applyShadow (· = hostReg 0x104)).cipBytes ≤ ((s.begun h).applyShadow (· = hostReg 0x104)).hostTotal edge) :
    ∃ t, exec (.cipEnable h) s = .next t ∧ t.responded h 0x0060 stOk ∧ t.ing.cipEn = true ∧ t.mem = s.mem ∧ t.fuse = s.fuse := by
  refine ⟨_, rfl, ?_⟩
  rw [State.command_accepted _ ha]
  extract_lets y
  have hrange : ¬(12 < y.cipCores ∨ y.hostTotal 0 < y.cipBytes ∨ y.hostTotal 1 < y.cipBytes) :=
    not_or.mpr ⟨hcores.not_gt, not_or.mpr ⟨(hwin 0 (by decide)).not_gt, (hwin 1 (by decide)).not_gt⟩⟩
  rw [if_neg hrange]
  exact ⟨State.answer_responded .., rfl, rfl, rfl⟩

/-- CIP_DISABLE of a partition that runs is its end and the answer (R313). -/
theorem exec_cipDisable_running (ha : s.accepts h 0x0061 = true) (hen : s.ing.cipEn = true) :
    exec (.cipDisable h) s = .next ((s.begun h).cipClose.answer h 0x0061 stOk 0) := by
  have hen' : (s.begun h).ing.cipEn = true := hen
  show Host.Outcome.next _ = _
  rw [State.command_accepted _ ha, if_pos hen']

/-- CIP_DISABLE resets the harts of the partition and zeroes its windows (R313), where the table of the harts is in order. -/
theorem exec_cipDisable_spec (ha : s.accepts h 0x0061 = true) (hm : s.memOk) (hh : s.mt.harts.ordered) (hen : s.ing.cipEn = true) :
    ∃ t, exec (.cipDisable h) s = .next t ∧ t.responded h 0x0061 stOk ∧ t.ing.cipEn = false ∧ t.fuse = s.fuse ∧
      (∀ k, t.mt.harts.get Hart.bare k = if 16 ≤ k % 16 + s.cipCores then Hart.bare else s.mt.harts.get Hart.bare k) ∧
      ∀ a, t.mem.get 0 a = if s.inWindow 0 a || s.inWindow 1 a then 0#8 else s.mem.get 0 a := by
  refine ⟨_, exec_cipDisable_running ha hen, State.answer_responded .., rfl, rfl, fun k => ?_, fun a => ?_⟩
  · exact (Tbl.get_drop _ hh _ k).trans (ite_cond_congr (decide_eq_true_iff (p := 16 ≤ k % 16 + s.cipCores)).eq)
  · exact Tbl.get_drop _ (Tbl.wf_sorted hm.1) _ a

/-- READY, with a partition of one core on each edge die, and a table of the harts that lists hart 15 of ED0, the partition's, before hart 0: both
in S mode. -/
def harts15And0 : State :=
  { State.reset with
    ctl := { Ctl.reset with state := .ready }
    ing := { Ingest.reset with cipEn := true }
    shAct := ⟨[(hostReg 0x104, 2)]⟩
    mt := { MemTier.reset with harts := ⟨[(15, { Hart.bare with priv := .s }), (0, { Hart.bare with priv := .s })]⟩ } }

/-- A command of a new tag. -/
def newTag : Hdr := { tag := 1, resv := 0 }

/-- Hart 0 is no hart of the partition, and a look-up does not find it; once hart 15 is gone it does. -/
theorem harts15And0_closed : harts15And0.cipCores = 1 ∧ harts15And0.mt.harts.get Hart.bare 0 = Hart.bare ∧
    ((harts15And0.begun newTag).cipClose.answer newTag 0x0061 stOk 0).mt.harts.get Hart.bare 0 ≠ Hart.bare := by
  decide +kernel

/-- Refutes O18: with the table of the harts out of order, which `State.memOk` does not exclude, a hart outside the partition reads otherwise after
CIP_DISABLE than before it. -/
theorem not_customerPartition : ¬ Obligations.CustomerPartition := by
  unfold Obligations.CustomerPartition
  rintro ⟨-, hdisable⟩
  have haccepts : harts15And0.accepts newTag 0x0061 = true := by decide +kernel
  obtain ⟨t, ht, -, -, -, hharts, -⟩ := hdisable newTag harts15And0 haccepts ⟨rfl, rfl⟩ rfl
  rw [exec_cipDisable_running haccepts rfl] at ht
  obtain rfl := Host.Outcome.next.inj ht
  obtain ⟨hcores, hbefore, hafter⟩ := harts15And0_closed
  refine hafter ((hharts 0).trans ?_)
  rw [hcores, hbefore]
  rfl

end Machine
end Sys2Proof
end

section
/-! O60 fails for an ingest queue whose ring lies in a Proofer's arrival window. R310 puts the ring in the crust of its die, but the registers hold any
ING_BASE of 46 bits, and a host core may write to an arrival window (R283). The window takes such a write to its Proofer and holds no memory (R281): it
is under way in the state's spine, which the clause on INGEST_QUEUE_ENTRY lets be as it was. -/

namespace Sys2Proof.Machine

/-- A span that has become the fragment in slot 0 of PF0's reservoir. -/
def farJob : SpanJob :=
  { SpanJob.new { source := 1, track := 0, startPts := 0, frames := 2, cropX := 0, cropY := 0, cropW := 16, cropH := 16, gridH := 1, gridW := 1
                  variant := 0, fragId := 7, job := none } with state := .done, slot := some (0, 0) }

/-- The published generation of that one fragment. -/
def farGen : Generation := { num := 0, passes := 1, jobs := [farJob], published := true, start := 0 }

/-- RUNNING, CD0 in a step with the step program of `farRing`, which R179 takes; the draw is enabled, and CD0 takes units from a queue of four entries
from 0x200000000000 on, the first address of PF0's arrival window. -/
def farQueue : State :=
  { State.reset with
    ctl := { Ctl.reset with state := .running }
    img := ⟨farRingBytes 0⟩
    shAct := ⟨[(regAddr (Page.die 0) 0x194, 0x10480)]⟩
    rw := ⟨[(hostReg 0x108, 1)]⟩
    ch := ⟨[(0, { ChDie.reset with inStep := true, started := true })]⟩
    ing := { Ingest.reset with gens := [farGen] } }

/-- The firmware may write the next entry of the queue: there is room, the step has a micro-batch left, and the generation covers its position. -/
theorem farQueue_draws : farQueue.ingDie = some 0 ∧ (farQueue.chD 0).inStep = true ∧ farQueue.drawEn = true ∧
    farQueue.ing.head.get 0 0 < min (farQueue.chD 0).ingSeq (farQueue.readFrom 0) + farQueue.ingDepth 0 ∧
    farQueue.ing.mb < farQueue.mbPlan 0 (farQueue.activeOf 0) ∧ farQueue.ing.covering farQueue.drawPos = some farGen := by
  decide +kernel

/-- The unit record and the descriptor of the entry are under way to PF0. -/
theorem farQueue_arrivals :
    (arrivalsAfter (exec .ingestQueueEntry farQueue)).map (fun x => (x.prf, x.addr, x.bytes.length)) =
      [(0, 0x200000000040, 64), (0, 0x200000000000, 64)] := by
  decide +kernel

/-- Refutes O60: an entry of an ingest queue in an arrival window goes to its Proofer, which the frame of INGEST_QUEUE_ENTRY excludes. -/
theorem not_ingestWork : ¬ Obligations.IngestWork := by
  unfold Obligations.IngestWork
  rintro ⟨-, -, -, -, -, -, -, hdraw, -⟩
  obtain ⟨hdie, hstep, hen, hroom, hmb, hgen⟩ := farQueue_draws
  obtain ⟨hcovered, -⟩ := hdraw farQueue 0 rfl (by decide +kernel) hdie rfl hstep hen hroom hmb
  obtain ⟨t, ht, hframe, -⟩ := hcovered farGen hgen
  have harrivals := farQueue_arrivals
  have hspine : t.spine = Spine.reset := by rw [hframe]; rfl
  rw [ht, arrivalsAfter, hspine] at harrivals
  exact absurd harrivals (by decide)

end Sys2Proof.Machine
end

section
/-! A message that leaves on a sub-port: it is queued there, and flits that credit and the replay buffer admit go out at once (R322, R326, R328). -/

namespace Sys2Proof.Machine

/-- What two acts keep, a sub-port written with its received messages as they are and a flit counted, a message that leaves keeps. -/
theorem State.sendMsg_keeps {P : State → Prop} {code : Nat} (hset : ∀ {t x}, P t → x.rx = (t.subP code).rx → P (t.setSub code x))
    (hcount : ∀ {t}, P t → P (t.portCount code 0x40 1)) {s : State} (h : P s) (vc kind id src flags off : Nat) (data : List Byte) :
    P (s.sendMsg code vc kind id src flags off data) := by
  have hflit : ∀ t v, P t → P (t.sendFlit code v) := by
    intro t v ht
    unfold State.sendFlit
    dsimp only
    split
    · exact ht
    · exact hcount (hset ht rfl)
  have hround : ∀ t, P t → ∀ _i ∈ List.range replayFlits, P
      (if !(t.subP code).carries || decide (replayFlits ≤ (t.subP code).replay.length) then t
        else match t.nextVc code with
          | none => t
          | some v => t.sendFlit code v) := by
    intro t ht _ _
    split
    · exact ht
    · split
      · exact ht
      · exact hflit _ _ ht
  exact List.foldlRecOn (motive := P) _ _ (hset h rfl) hround

/-- A message that leaves changes the sub-ports and the counters alone. -/
theorem State.sendMsg_frame (s : State) (code vc kind id src flags off : Nat) (data : List Byte) :
    ∃ subs cnt, s.sendMsg code vc kind id src flags off data = { s with subs := subs, cnt := cnt } := by
  refine State.sendMsg_keeps (P := fun t => ∃ subs cnt, t = { s with subs := subs, cnt := cnt }) ?_ ?_ ⟨_, _, rfl⟩ vc kind id src flags off data
  · rintro _ x ⟨subs, cnt, rfl⟩ -
    exact ⟨_, _, rfl⟩
  · rintro _ ⟨subs, cnt, rfl⟩
    exact ⟨_, _, rfl⟩

/-- `t` follows `s` by messages that leave on the sub-port `c`: beside the counters, only what waits and has left there differs. -/
structure State.SentOn (s t : State) (c : Nat) : Prop where
  frame : t = { s with subs := t.subs, cnt := t.cnt }
  ordered : t.subs.ordered
  others : ∀ k, k ≠ c → t.subP k = s.subP k
  received : (t.subP c).rx = (s.subP c).rx

namespace State.SentOn
variable {s t : State} {c : Nat}

theorem refl (h : s.subs.ordered) : s.SentOn s c := ⟨rfl, h, fun _ _ => rfl, rfl⟩

theorem setSub (h : s.SentOn t c) {x : SubPort} (hx : x.rx = (t.subP c).rx) : s.SentOn (t.setSub c x) c := by
  have hget : ∀ k, (t.setSub c x).subP k = if k = c then x else t.subP k := fun k => Tbl.get_set_ordered h.ordered c k x
  refine ⟨by rw [h.frame]; rfl, Tbl.ordered_set h.ordered c x, fun k hk => ?_, ?_⟩
  · rw [hget, if_neg hk, h.others k hk]
  · rw [hget, if_pos rfl, hx, h.received]

theorem portCount (h : s.SentOn t c) (p off n : Nat) : s.SentOn (t.portCount p off n) c :=
  ⟨by rw [h.frame]; rfl, h.ordered, h.others, h.received⟩

theorem sendMsg (h : s.SentOn t c) (vc kind id src flags off : Nat) (data : List Byte) :
    s.SentOn (t.sendMsg c vc kind id src flags off data) c :=
  State.sendMsg_keeps (P := fun u => s.SentOn u c) (fun ht hx => ht.setSub hx) (fun ht => ht.portCount _ _ _) h vc kind id src flags off data

/-- Bytes go out in as many messages as they need (R328). -/
theorem sendBytes (h : s.SentOn t c) (vc kind id off : Nat) (bs : List Byte) (poison : Bool) :
    s.SentOn (t.sendBytes c vc kind id off bs poison) c :=
  List.foldlRecOn (motive := fun u => s.SentOn u c) _ _ h fun _ hu _ _ => hu.sendMsg ..

end State.SentOn

/-- A message that is taken leaves the sub-port that received it. -/
theorem State.takeMsg_eq {s s0 : State} {code kind : Nat} {m : List Byte} (h : s.takeMsg code kind = some (m, s0)) :
    ∃ x, s0 = s.setSub code x := by
  unfold State.takeMsg at h
  dsimp only at h
  split at h
  · cases h
  · cases h
    exact ⟨_, rfl⟩

/-- A message that is taken changes nothing but its sub-port. -/
theorem State.takeMsg_frame {s s0 : State} {code kind : Nat} {m : List Byte} (h : s.takeMsg code kind = some (m, s0)) :
    s0 = { s with subs := s0.subs } := by
  obtain ⟨x, rfl⟩ := State.takeMsg_eq h
  rfl

theorem Page.port_ne_event (n : Nat) : Page.port n ≠ Page.event := by
  unfold Page.port Page.event
  omega

/-- A message that cannot be taken is counted on its port and reported (R328, R341). -/
theorem State.badMessage_spec {s : State} (h : s.cnt.ordered) (code group : Nat) :
    let t := s.badMessage code group
    t = { s with evt := t.evt, cnt := t.cnt } ∧
      t.evt = (s.raise Page.coll Code.colConfigInvalid (s.portPayload code 4 group)).evt ∧
      t.cntAt (portReg (portOf code) 0x64) = s.cntAt (portReg (portOf code) 0x64) + 1 := by
  have hraise := State.raise_cntAt_of_page (s := s.portCount code 0x64 1) (q := Page.port (portOf code)) (off := 0x64)
    (State.count_cnt_ordered h _ _) (Page.port_ne_event _) (by decide) Page.coll Code.colConfigInvalid (s.portPayload code 4 group)
  exact ⟨rfl, rfl, hraise.trans (State.cntAt_count_same h _ 1)⟩

/-- A message that cannot be taken is discarded with nothing else. -/
theorem State.taken_badMessage_spec {s s0 : State} {code kind : Nat} {m : List Byte} (hc : s.cnt.ordered)
    (h : s.takeMsg code kind = some (m, s0)) (group : Nat) :
    let t := s0.badMessage code group
    t = { s with subs := s0.subs, evt := t.evt, cnt := t.cnt } ∧
      t.evt = (s0.raise Page.coll Code.colConfigInvalid (s0.portPayload code 4 group)).evt ∧
      t.cntAt (portReg (portOf code) 0x64) = s.cntAt (portReg (portOf code) 0x64) + 1 := by
  obtain ⟨x, rfl⟩ := State.takeMsg_eq h
  obtain ⟨hframe, hevt, hcnt⟩ := State.badMessage_spec (s := s.setSub code x) hc code group
  exact ⟨hframe, hevt, hcnt⟩

end Sys2Proof.Machine
end

section
/-! What a collective operation does with the messages that it has, and how it reads after it has been written (R332 to R334). -/

namespace Sys2Proof.Machine

theorem State.findOp_spec {s : State} {num : Nat} {gather : Bool} {o : ColOp} (h : s.findOp num gather = some o) :
    o.num = num ∧ o.isGather = gather := by
  simpa using List.find?_some h

/-- An operation reads as it has been written. -/
theorem State.findOp_putOp {s : State} {num : Nat} {gather : Bool} {o o' : ColOp} (h : s.findOp num gather = some o) (hnum : o'.num = num)
    (hgather : o'.isGather = gather) : (s.putOp o').findOp num gather = some o' := by
  have hp : (fun q : ColOp => decide (q.num = num) && decide (q.isGather = gather)) ∘
      (fun q => if (decide (q.num = o'.num) && decide (q.isGather = o'.isGather)) = true then o' else q) =
      fun q => decide (q.num = num) && decide (q.isGather = gather) := by
    funext q
    by_cases hq : q.num = num <;> by_cases hg : q.isGather = gather <;> simp [hq, hg, hnum, hgather]
  obtain ⟨honum, hogather⟩ := State.findOp_spec h
  unfold State.findOp at h ⊢
  unfold State.putOp
  dsimp only
  rw [List.find?_map, hp, h]
  simp [hnum, hgather, honum, hogather]

/-- `t` follows `s` by messages of one operation that leave: what the operation knows of its chunks, `chunks`, and what has been granted stand. -/
structure State.Pumped (s t : State) (num : Nat) (gather : Bool) (chunks : Tbl ColChunk) : Prop where
  frame : t = { s with subs := t.subs, cnt := t.cnt, col := t.col }
  notices : t.col.notices = s.col.notices
  op : ∃ o, t.findOp num gather = some o ∧ o.chunks = chunks

namespace State.Pumped
variable {s t : State} {num : Nat} {gather : Bool} {chunks : Tbl ColChunk}

/-- The operation is written, with its chunks as `after`. -/
theorem putOp {before after : Tbl ColChunk} (h : s.Pumped t num gather before) {o : ColOp} (hnum : o.num = num) (hgather : o.isGather = gather)
    (hchunks : o.chunks = after) : s.Pumped (t.putOp o) num gather after := by
  obtain ⟨p, hp, -⟩ := h.op
  exact ⟨by rw [h.frame]; rfl, h.notices, o, State.findOp_putOp hp hnum hgather, hchunks⟩

theorem sendMsg (h : s.Pumped t num gather chunks) (code vc kind id src flags off : Nat) (data : List Byte) :
    s.Pumped (t.sendMsg code vc kind id src flags off data) num gather chunks := by
  obtain ⟨subs, cnt, hsend⟩ := t.sendMsg_frame code vc kind id src flags off data
  rw [hsend]
  exact ⟨by rw [h.frame], h.notices, h.op⟩

theorem opSend (h : s.Pumped t num gather chunks) : s.Pumped (t.opSend num gather) num gather chunks := by
  obtain ⟨o, ho, hchunks⟩ := h.op
  obtain ⟨hnum, hgather⟩ := State.findOp_spec ho
  unfold State.opSend
  rw [ho]
  dsimp only
  split
  · exact h
  · refine sendMsg ?_ ..
    exact h.putOp hnum hgather hchunks

theorem opPump (h : s.Pumped t num gather chunks) : s.Pumped (t.opPump num gather) num gather chunks := by
  obtain ⟨o, ho, -⟩ := h.op
  unfold State.opPump
  rw [ho]
  refine List.foldlRecOn (motive := fun u => s.Pumped u num gather chunks) _ _ h ?_
  intro u hu _ _
  exact hu.opSend

/-- An operation with a chunk whose part is not over goes on (R332). -/
theorem opClose (h : s.Pumped t num gather chunks) {c : Nat} (hc : c < s.opChunks num) (hdone : (chunks.get ColChunk.none c).done = false) :
    t.opClose num gather = t := by
  obtain ⟨o, ho, hchunks⟩ := h.op
  obtain ⟨hnum, -⟩ := State.findOp_spec ho
  have hcount : t.opChunks o.num = s.opChunks num := by
    rw [h.frame, hnum]
    rfl
  have hopen : t.opOver o = false := by
    refine Bool.and_eq_false_imp.mpr fun _ => List.all_eq_false.mpr ⟨c, List.mem_range.mpr (hc.trans_eq hcount.symm), ?_⟩
    rw [hchunks, hdone]
    decide
  unfold State.opClose
  rw [ho]
  dsimp only
  rw [hopen]
  rfl

end State.Pumped

/-- The table entries of a tensor that its two Proofers hold give its number of chunks (R232). -/
theorem State.lt_opChunks {s : State} {num c : Nat} (h : c < ttChunks (s.opTable num c)) : c < s.opChunks num := by
  have htable : s.opTable num c = s.opTable num (c % 2) := by
    unfold State.opTable opPrf
    rw [Nat.mod_mod]
  rw [htable] at h
  unfold State.opChunks
  rcases Nat.mod_two_eq_zero_or_one c with hc | hc <;> rw [hc] at h
  · exact lt_max_of_lt_left h
  · exact lt_max_of_lt_right h

/-- A partial waits with its chunk until the member's own sum has come (R333, R334). -/
theorem State.opReduce_waits (s : State) (o : ColOp) (c : Nat) {k : ColChunk} (hown : k.own = none) (hrow : k.row = none)
    (hsentX : k.sentX = false) (hsentY : k.sentY = false) (hdone : k.done = false) :
    s.opReduce o c k = (s.putOp (o.note c k [] s.cad.tickNo)).opPump o.num o.isGather := by
  have hx : colAlongX (s.place o c) k = ⟨k, [], none⟩ := by simp [colAlongX, hown, hrow, hsentX]
  have hy : colAlongY (s.place o c) k = ⟨k, [], none⟩ := by simp [colAlongY, hrow, hsentY, hdone]
  have hk : ({ k with done := false } : ColChunk) = k := by rw [← hdone]
  have hpast : (decide (o.kind = .reduceScatter) && (k.sentX || k.sentY)) = false := by rw [hsentX, hsentY, Bool.or_self, Bool.and_false]
  simp only [State.opReduce, hx, hy, hpast, hk]
  rfl

/-- An operation that runs does not start again (R332). -/
theorem State.startOp_running {s : State} {num : Nat} {gather : Bool} {o : ColOp} (h : s.findOp num gather = some o) :
    s.startOp num gather = s := by
  simp [State.startOp, h]

/-- A credit is noted, and a message goes to the neighbour where the group has a port there (R332). -/
theorem State.grant_frame (s : State) (g num : Nat) (gather alongY : Bool) (n : Nat) :
    ∃ subs cnt, s.grant g num gather alongY n =
      { s with subs := subs, cnt := cnt, col := { s.col with notices := s.col.notices ++ [.credit num alongY n] } } := by
  unfold State.grant
  dsimp only
  split
  · exact ⟨s.subs, s.cnt, rfl⟩
  · exact State.sendMsg_frame _ _ _ _ _ _ _ _ _

end Sys2Proof.Machine
end

section
/-! COLLECTIVE_DATA of a reduction that waits for the member's own sum, and WINDOW_CREDIT (R332 to R334). -/

namespace Sys2Proof.Machine

/-- The part of a reduction that a message carries (R328, R335). -/
def partialOf (m : List Byte) : ColVal :=
  { data := (List.range ((msgData m).length / 4)).map fun i => leAt (msgData m) (4 * i) 4
    absent := bitOf (msgFlags m) 0, poison := bitOf (msgFlags m) 1 }

/-- A chunk with a partial that has come along the second dimension or along the first. -/
def ColChunk.taking (k : ColChunk) (second : Bool) (v : ColVal) : ColChunk :=
  if second then { k with inY := some v.marked } else { k with inX := some v.marked }

/-- A partial that comes changes nothing else of a chunk. -/
theorem ColChunk.taking_spec (k : ColChunk) (second : Bool) (v : ColVal) :
    (k.taking second v).own = k.own ∧ (k.taking second v).row = k.row ∧ (k.taking second v).sentX = k.sentX ∧
      (k.taking second v).sentY = k.sentY ∧ (k.taking second v).done = k.done := by
  cases second <;> exact ⟨rfl, rfl, rfl, rfl, rfl⟩

/-- Something is known of a chunk with a partial. -/
theorem ColChunk.taking_ne_none (k : ColChunk) (second : Bool) (v : ColVal) : k.taking second v ≠ ColChunk.none := by
  cases second <;> simp [ColChunk.taking, ColChunk.none]

section
variable {s s0 : State} {c : PortCode} {m : List Byte}

/-- Whether a partial of the message's operation has come along the dimension that its chunk is summed along second (R334). -/
def State.cameSecond (s : State) (o : ColOp) (code chunk : Nat) : Bool := s.cameY o.group code != (s.place o chunk).swap

/-- A partial of a chunk that has not been sent on goes into the reduction, after its place has been granted anew (R332 to R334). -/
theorem exec_collectiveData_partial {o : ColOp} (hs : s.bel.stopped = false) (ht : s.takeMsg c 3 = some (m, s0))
    (hopen : s.col.timedOut = false)
    (hvc : ((s.subP c).rx.find? fun m => bitsOf (leAt m.2 0 4) 3 0 = 3).map Prod.fst ≠ some 2)
    (hop : s.findOp (msgId m) false = some o) (hvalid : ttValid (s.opTable (msgId m) (msgOffset m)) = true)
    (hchunk : msgOffset m < ttChunks (s.opTable (msgId m) (msgOffset m)))
    (hlen : (msgData m).length ≤ 4 * ttWidth (s.opTable (msgId m) (msgOffset m)))
    (hsentX : (o.chunks.get ColChunk.none (msgOffset m)).sentX = false) (hsentY : (o.chunks.get ColChunk.none (msgOffset m)).sentY = false)
    (hdone : (o.chunks.get ColChunk.none (msgOffset m)).done = false) :
    exec (.collectiveData c) s = .next
      (((s0.grant o.group (msgId m) false (s.cameY o.group c) 1).opReduce o (msgOffset m)
        ((o.chunks.get ColChunk.none (msgOffset m)).taking (s.cameSecond o c (msgOffset m)) (partialOf m))).opClose (msgId m) false) := by
  have hbad : (!ttValid (s.opTable (msgId m) (msgOffset m)) || decide (ttChunks (s.opTable (msgId m) (msgOffset m)) ≤ msgOffset m) ||
      decide (4 * ttWidth (s.opTable (msgId m) (msgOffset m)) < (msgData m).length)) = false := by
    simp [hvalid, hchunk, hlen]
  have hop0 : s0.findOp (msgId m) false = some o := by rw [State.takeMsg_frame ht]; exact hop
  have hcame : s0.cameY o.group c = s.cameY o.group c := by rw [State.takeMsg_frame ht]; rfl
  have hplace : (s0.grant o.group (msgId m) false (s.cameY o.group c) 1).place o (msgOffset m) = s.place o (msgOffset m) := by
    obtain ⟨subs, cnt, hgrant⟩ := s0.grant_frame o.group (msgId m) false (s.cameY o.group c) 1
    rw [hgrant, State.takeMsg_frame ht]
    rfl
  show execCollectiveData c s = _
  unfold execCollectiveData
  rw [if_neg (ne_true_of_eq_false hs : ¬s.still = true)]
  extract_lets gather
  have hgather : gather = false := by
    unfold gather
    split
    · next p hp =>
      rw [hp] at hvc
      exact decide_eq_false fun h => hvc (congrArg some h)
    · rfl
  clear_value gather
  subst hgather
  simp only [ht, hopen, hbad, State.startOp_running hop0, hop0, hcame, hplace, hsentX, hsentY, hdone, Bool.false_eq_true, if_false,
    Bool.false_or, ite_self, ColChunk.taking, State.cameSecond, partialOf]

/-- Collective data for no table entry, or beyond its chunks, is discarded (R328). -/
theorem exec_collectiveData_bad (hs : s.bel.stopped = false) (ht : s.takeMsg c 3 = some (m, s0)) (hopen : s.col.timedOut = false)
    (hbad : ttValid (s.opTable (msgId m) (msgOffset m)) = false ∨ ttChunks (s.opTable (msgId m) (msgOffset m)) ≤ msgOffset m) :
    exec (.collectiveData c) s = .next (s0.badMessage c 0xFFFF) := by
  have hcond : (!ttValid (s.opTable (msgId m) (msgOffset m)) || decide (ttChunks (s.opTable (msgId m) (msgOffset m)) ≤ msgOffset m)) = true := by
    simpa using hbad
  show execCollectiveData c s = _
  unfold execCollectiveData
  rw [if_neg (ne_true_of_eq_false hs : ¬s.still = true)]
  simp only [ht, hopen, hcond, Bool.true_or, Bool.false_eq_true, if_false, if_true]

/-- A partial that waits stands in its chunk, and its place is granted anew (R332 to R334). -/
theorem State.keptPartial_spec {num c : Nat} {o : ColOp} {k : ColChunk} (hop : s.findOp num false = some o) (hc : c < s.opChunks num)
    (hown : k.own = none) (hrow : k.row = none) (hsentX : k.sentX = false) (hsentY : k.sentY = false) (hdone : k.done = false)
    (hk : k ≠ ColChunk.none) (alongY : Bool) :
    let t := ((s.grant o.group num false alongY 1).opReduce o c k).opClose num false
    t.mem = s.mem ∧ t.prf = s.prf ∧ t.col.notices = s.col.notices ++ [.credit num alongY 1] ∧
      ∃ o', t.findOp num false = some o' ∧ o'.chunks.get ColChunk.none c = k := by
  obtain ⟨hnum, hgather⟩ := State.findOp_spec hop
  obtain ⟨subs, cnt, hgrant⟩ := s.grant_frame o.group num false alongY 1
  have hget : (o.chunks.set ColChunk.none c k).get ColChunk.none c = k := Tbl.get_set_self hk _ _
  dsimp only
  rw [State.opReduce_waits _ o c hown hrow hsentX hsentY hdone, hgrant, hnum, hgather]
  generalize hu : ({ s with
    subs := subs, cnt := cnt, col := { s.col with notices := s.col.notices ++ [.credit num alongY 1] } } : State) = u
  have hstart : u.Pumped u num false o.chunks := ⟨rfl, rfl, o, by rw [← hu]; exact hop, rfl⟩
  have hpump := (hstart.putOp (o := o.note c k [] u.cad.tickNo) hnum hgather rfl).opPump
  rw [hpump.opClose (c := c) (by rw [← hu]; exact hc) (by rw [ColOp.note, hget, hdone])]
  obtain ⟨o', hop', hchunks⟩ := hpump.op
  refine ⟨?_, ?_, ?_, o', hop', ?_⟩
  · rw [hpump.frame, ← hu]
  · rw [hpump.frame, ← hu]
  · rw [hpump.notices, ← hu]
  · rw [hchunks]
    exact hget

end

section
variable {s : State} {num : Fin 4096} {gather alongY : Bool} {n : Nat} {o : ColOp}

/-- The notice of a credit is taken where it was received. -/
theorem State.takeCredit_frame (s : State) (num : Nat) (gather alongY : Bool) (n : Nat) :
    ∃ subs, s.takeCredit num gather alongY n = { s with subs := subs } := by
  unfold State.takeCredit
  dsimp only
  split
  · exact ⟨s.subs, rfl⟩
  · exact ⟨_, rfl⟩

/-- An operation with the credit of a neighbour (R332). -/
def ColOp.credited (o : ColOp) (alongY : Bool) (n : Nat) : ColOp :=
  if alongY then { o with winY := o.winY + n } else { o with winX := o.winX + n }

/-- Credit changes nothing else of an operation. -/
theorem ColOp.credited_spec (o : ColOp) (alongY : Bool) (n : Nat) :
    (o.credited alongY n).num = o.num ∧ (o.credited alongY n).isGather = o.isGather ∧ (o.credited alongY n).waiting = o.waiting ∧
      (o.credited alongY n).chunks = o.chunks := by
  cases alongY <;> exact ⟨rfl, rfl, rfl, rfl⟩

/-- Window credit is added in its direction (R332). -/
theorem exec_windowCredit_idle (hs : s.bel.stopped = false) (hopen : s.col.timedOut = false) (hop : s.findOp num gather = some o)
    (hwaiting : o.waiting = []) (hdone : ((List.range (s.opChunks num)).all fun c => (o.chunks.get ColChunk.none c).done) = false) :
    ∃ t, exec (.windowCredit num gather alongY n) s = .next t ∧ t = { s with subs := t.subs, col := t.col } ∧
      t.findOp num gather = some (o.credited alongY n) := by
  obtain ⟨hnum, hgather⟩ := State.findOp_spec hop
  obtain ⟨hcnum, hcgather, hcwaiting, hcchunks⟩ := o.credited_spec alongY n
  obtain ⟨subs, htake⟩ := s.takeCredit_frame num gather alongY n
  have hop0 : ({ s with subs := subs } : State).findOp num gather = some o := hop
  generalize hu : ({ s with subs := subs } : State).putOp (o.credited alongY n) = u
  have hwritten : u.findOp num gather = some (o.credited alongY n) :=
    hu ▸ State.findOp_putOp hop0 (hcnum.trans hnum) (hcgather.trans hgather)
  have hpump : u.opPump num gather = u := by simp [State.opPump, hwritten, hcwaiting, hwaiting]
  have hchunks : u.opChunks num = s.opChunks num := by rw [← hu]; rfl
  have hclose : u.opClose num gather = u := by
    simp [State.opClose, hwritten, State.opOver, hcnum, hnum, hchunks, hcchunks, hdone]
  refine ⟨u, ?_, by rw [← hu]; rfl, hwritten⟩
  show execWindowCredit num gather alongY n s = _
  unfold execWindowCredit
  rw [if_neg (ne_true_of_eq_false hs : ¬s.still = true), htake]
  simp only [hopen, State.startOp_running hop0, hop0, Bool.false_eq_true, if_false]
  rw [← ColOp.credited, hu, hpump, hclose]

end

end Sys2Proof.Machine
end

section
/-! The end of operations and conduits: the abort that leaves, COL_TIMEOUT and the Chanters that abandon the step (R337, R338). -/

namespace Sys2Proof.Machine

/-- `t` follows `s` by messages that leave, records that are raised and notices of the Chanters: memory and the collectives engine stand, and so do
the counters of the collectives page. -/
structure State.Tells (s t : State) : Prop where
  frame : t = { s with ch := t.ch, spine := t.spine, evt := t.evt, subs := t.subs, cnt := t.cnt }
  ordered : t.cnt.ordered
  counts : ∀ off, off < 65536 → t.cntAt (regAddr Page.coll off) = s.cntAt (regAddr Page.coll off)

namespace State.Tells
variable {s t u : State}

theorem refl (h : s.cnt.ordered) : s.Tells s := ⟨rfl, h, fun _ _ => rfl⟩

theorem mem (h : s.Tells t) : t.mem = s.mem := by rw [h.frame]
theorem col (h : s.Tells t) : t.col = s.col := by rw [h.frame]

theorem trans (h : s.Tells t) (g : t.Tells u) : s.Tells u :=
  ⟨by rw [g.frame, h.frame], g.ordered, fun off ho => (g.counts off ho).trans (h.counts off ho)⟩

theorem foldl {α : Type} {g : State → α → State} {l : List α} (hg : ∀ u, ∀ x ∈ l, s.Tells u → s.Tells (g u x)) (h : s.Tells t) :
    s.Tells (l.foldl g t) :=
  List.foldlRecOn (motive := fun u => s.Tells u) l _ h fun u hu x hx => hg u x hx hu

theorem raise (h : s.Tells t) (p c : Nat) (pl : List Byte) : s.Tells (t.raise p c pl) :=
  h.trans ⟨rfl, State.raise_cnt_ordered h.ordered p c pl, fun _ ho => State.raise_cntAt_of_page h.ordered (by decide) ho p c pl⟩

theorem updCh (h : s.Tells t) (d : Nat) (g : ChDie → ChDie) : s.Tells (t.updCh d g) := h.trans ⟨rfl, h.ordered, fun _ _ => rfl⟩

theorem notifyBoth (h : s.Tells t) (kind : NoticeKind) (d a b : Nat) : s.Tells (t.notifyBoth kind d a b) :=
  h.trans ⟨rfl, h.ordered, fun _ _ => rfl⟩

theorem setSub (h : s.Tells t) (code : Nat) (x : SubPort) : s.Tells (t.setSub code x) := h.trans ⟨rfl, h.ordered, fun _ _ => rfl⟩

/-- The pages of the 24 ports lie before the page of the collectives engine (R425). -/
theorem portCount (h : s.Tells t) {code off : Nat} (hcode : code < 96) (ho : off < 65536) (n : Nat) : s.Tells (t.portCount code off n) := by
  have hpage : Page.coll ≠ Page.port (portOf code) := by
    unfold Page.coll Page.port portOf
    omega
  exact h.trans ⟨rfl, State.count_cnt_ordered h.ordered _ _, fun b hb =>
    State.cntAt_count_other h.ordered (regAddr_ne_of_page hb ho hpage) n⟩

theorem sendMsg (h : s.Tells t) {code : Nat} (hcode : code < 96) (vc kind id src flags off : Nat) (data : List Byte) :
    s.Tells (t.sendMsg code vc kind id src flags off data) :=
  State.sendMsg_keeps (P := fun u => s.Tells u) (fun hu _ => hu.setSub _ _) (fun hu => hu.portCount hcode (by decide) 1) h vc kind id src flags off
    data

theorem abandonStep (h : s.Tells t) (d cause : Nat) (stop : Bool) : s.Tells (t.abandonStep d cause stop) := by
  unfold State.abandonStep
  split
  · exact h
  · refine raise (updCh (foldl (fun u k _ hu => ?_) h) _ _) _ _ _
    split
    · exact hu
    · exact (hu.updCh _ _).notifyBoth _ _ _ _

/-- A Chanter that acts as on ABANDON tells its Proofers and reports (R201, R338). -/
theorem abandon (h : s.Tells t) (d : Nat) : s.Tells (t.dispose d 2) := by
  unfold State.dispose
  dsimp only
  rw [if_neg (by decide)]
  split
  · exact (h.updCh _ _).abandonStep _ _ _
  · exact h

end State.Tells

/-- COL_TIMEOUT is noted, counted and reported, and leaves memory and the rest of the collectives engine (R337, R338). -/
theorem State.timeOut_spec {s : State} (h : s.cnt.ordered) (code cause which since : Nat) :
    let t := s.timeOut code cause which since
    t.mem = s.mem ∧ t.col = { s.col with timedOut := true } ∧
      t.cntAt (regAddr Page.coll 0x4C) = s.cntAt (regAddr Page.coll 0x4C) + 1 ∧
      t.cntAt (regAddr Page.coll 0x50) = s.cntAt (regAddr Page.coll 0x50) := by
  have hord := State.count_cnt_ordered (s := { s with col := { s.col with timedOut := true } }) h (regAddr Page.coll 0x4C) 1
  have htells := State.Tells.foldl (l := [0, 1, 2, 3]) (fun _ d _ hu => hu.abandon d) ((State.Tells.refl hord).raise Page.coll Code.colTimeout
    (s.linkPayload code 0xFF cause which since (if code < 96 then laneCount (s.subP code).active else 0)))
  refine ⟨htells.mem, htells.col, ?_, ?_⟩
  · exact (htells.counts 0x4C (by decide)).trans (State.cntAt_count_same (s := { s with col := { s.col with timedOut := true } }) h _ 1)
  · exact (htells.counts 0x50 (by decide)).trans
      (State.cntAt_count_other (s := { s with col := { s.col with timedOut := true } }) h (by decide) 1)

/-- A port code of a group is one of 96 (R331). -/
theorem State.grpAll_lt {s : State} {g c : Nat} (h : c ∈ s.grpAll g) : c < 96 := by
  obtain ⟨dir, -, hc⟩ := List.mem_flatMap.mp h
  unfold State.grpPorts at hc
  split at hc
  · exact of_decide_eq_true (List.mem_filter.mp hc).2
  · cases hc

/-- What the end of a group's operations makes of the collectives engine (R337). -/
structure State.Ended (s t : State) (g : Nat) : Prop where
  mem : t.mem = s.mem
  ordered : t.cnt.ordered
  counts : ∀ off, off < 65536 → t.cntAt (regAddr Page.coll off) = s.cntAt (regAddr Page.coll off)
  ops : t.col.ops = s.col.ops.filter fun o => o.group ≠ g
  aborted : ∀ k, k ∈ t.col.aborted ↔ k = g ∨ k ∈ s.col.aborted

theorem State.sendAbort_spec {s : State} (h : s.cnt.ordered) (g : Nat) :
    let t := s.sendAbort g
    t.mem = s.mem ∧ t.cnt.ordered ∧ (∀ off, off < 65536 → t.cntAt (regAddr Page.coll off) = s.cntAt (regAddr Page.coll off)) ∧
      t.col.ops = s.col.ops ∧ ∀ k, k ∈ t.col.aborted ↔ k = g ∨ k ∈ s.col.aborted := by
  unfold State.sendAbort
  split
  · next hin =>
    refine ⟨rfl, h, fun _ _ => rfl, rfl, fun k => (or_iff_right_of_imp ?_).symm⟩
    rintro rfl
    simpa using hin
  · have hbegun := State.Tells.refl (s := { s with
      col := { s.col with aborted := s.col.aborted ++ [g], notices := s.col.notices ++ [.abort g] } }) h
    have htells := State.Tells.foldl (l := (s.grpAll g).eraseDups)
      (g := fun t c => t.sendMsg c 0 4 (((s.col.ops.find? fun o => o.group = g).map fun o => o.num).getD 0) (s.grpPos g) 0 0 [0])
      (fun _ c hc hu => hu.sendMsg (State.grpAll_lt (List.mem_eraseDups.mp hc)) _ _ _ _ _ _ _) hbegun
    have haborted := congrArg Coll.aborted htells.col
    refine ⟨htells.mem, htells.ordered, htells.counts, (congrArg Coll.ops htells.col :), fun k => ?_⟩
    exact (iff_of_eq (congrArg (k ∈ ·) haborted)).trans (by simp [or_comm])

theorem State.endOps_spec {s : State} (h : s.cnt.ordered) (g : Nat) : s.Ended (s.endOps g) g := by
  obtain ⟨hmem, hord, hcounts, hops, haborted⟩ := State.sendAbort_spec h g
  exact ⟨hmem, hord, hcounts, congrArg (List.filter _) hops, haborted⟩

end Sys2Proof.Machine
end

section
/-! COLLECTIVE_ABORT and COL_TIMEOUT (R337, R338). -/

namespace Sys2Proof.Machine

/-- The operations of several groups end one group after the other. -/
theorem State.foldl_endOps_spec (l : List Nat) : ∀ {s : State}, s.cnt.ordered →
    let t := l.foldl State.endOps s
    t.mem = s.mem ∧ t.cnt.ordered ∧ (∀ off, off < 65536 → t.cntAt (regAddr Page.coll off) = s.cntAt (regAddr Page.coll off)) ∧
      (∀ o ∈ t.col.ops, o ∈ s.col.ops ∧ o.group ∉ l) ∧ ∀ k, k ∈ l ∨ k ∈ s.col.aborted → k ∈ t.col.aborted := by
  induction l with
  | nil => exact fun h => ⟨rfl, h, fun _ _ => rfl, fun o ho => ⟨ho, List.not_mem_nil⟩, fun k hk => hk.resolve_left List.not_mem_nil⟩
  | cons g l ih =>
    intro s h
    have hended := State.endOps_spec h g
    obtain ⟨hmem, hord, hcounts, hops, haborted⟩ := ih hended.ordered
    refine ⟨hmem.trans hended.mem, hord, fun off ho => (hcounts off ho).trans (hended.counts off ho), fun o ho => ?_, fun k hk => ?_⟩
    · obtain ⟨hin, hl⟩ := hops o ho
      rw [hended.ops, List.mem_filter] at hin
      exact ⟨hin.1, List.not_mem_cons_of_ne_of_not_mem (of_decide_eq_true hin.2) hl⟩
    · refine haborted k ?_
      rw [hended.aborted]
      rw [List.mem_cons] at hk
      tauto

/-- The groups that an abort ends: those that name its port and have not been aborted in the step (R337). -/
def State.abortHits (s : State) (code : Nat) : List Nat :=
  (List.range 8).filter fun g => (s.grpAll g).contains code && !s.col.aborted.contains g

theorem State.mem_abortHits {s : State} {code g : Nat} : g ∈ s.abortHits code ↔ g < 8 ∧ code ∈ s.grpAll g ∧ g ∉ s.col.aborted := by
  simp [State.abortHits]

section
variable {s s0 : State} {c : PortCode} {m : List Byte}

theorem exec_collectiveAbort_none (hs : s.bel.stopped = false) (ht : s.takeMsg c 4 = some (m, s0))
    (hhits : (s0.colCount 0x50 1).abortHits c = []) : exec (.collectiveAbort c) s = .next (s0.colCount 0x50 1) := by
  show execCollectiveAbort c s = _
  unfold execCollectiveAbort
  rw [if_neg (ne_true_of_eq_false hs : ¬s.still = true)]
  unfold State.abortHits at hhits
  simp only [ht, hhits]

theorem exec_collectiveAbort_some (hs : s.bel.stopped = false) (ht : s.takeMsg c 4 = some (m, s0)) {g : Nat} {l : List Nat}
    (hhits : (s0.colCount 0x50 1).abortHits c = g :: l) :
    exec (.collectiveAbort c) s = .next
      (((g :: l).foldl State.endOps (s0.colCount 0x50 1)).timeOut c 2 g ((s0.colCount 0x50 1).lastProgress g)) := by
  show execCollectiveAbort c s = _
  unfold execCollectiveAbort
  rw [if_neg (ne_true_of_eq_false hs : ¬s.still = true)]
  unfold State.abortHits at hhits
  simp only [ht, hhits]

/-- An abort is counted, and ends every operation of the groups that name its port and have not been aborted in the step (R337). -/
theorem exec_collectiveAbort_spec (hs : s.bel.stopped = false) (hcnt : s.cnt.ordered) (ht : s.takeMsg c 4 = some (m, s0)) :
    ∃ t, exec (.collectiveAbort c) s = .next t ∧ t.mem = s.mem ∧
      t.cntAt (regAddr Page.coll 0x50) = s.cntAt (regAddr Page.coll 0x50) + 1 ∧
      ∀ g, g < 8 → c.val ∈ s.grpAll g → g ∉ s.col.aborted →
        t.col.timedOut = true ∧ g ∈ t.col.aborted ∧ ∀ o ∈ t.col.ops, o.group ≠ g := by
  obtain ⟨x, rfl⟩ := State.takeMsg_eq ht
  have hcounted : ((s.setSub c x).colCount 0x50 1).cntAt (regAddr Page.coll 0x50) = s.cntAt (regAddr Page.coll 0x50) + 1 :=
    State.cntAt_count_same hcnt _ 1
  have hord : ((s.setSub c x).colCount 0x50 1).cnt.ordered := State.count_cnt_ordered hcnt _ 1
  have hmem : ∀ g, g < 8 → c.val ∈ s.grpAll g → g ∉ s.col.aborted → g ∈ ((s.setSub c x).colCount 0x50 1).abortHits c :=
    fun g hg hin hnew => State.mem_abortHits.mpr ⟨hg, hin, hnew⟩
  rcases hhits : ((s.setSub c x).colCount 0x50 1).abortHits c with _ | ⟨g, l⟩ <;> rw [hhits] at hmem
  · exact ⟨_, exec_collectiveAbort_none hs ht hhits, rfl, hcounted, fun g hg hin hnew => absurd (hmem g hg hin hnew) List.not_mem_nil⟩
  · obtain ⟨hmem1, hord1, hcounts1, hops1, haborted1⟩ := State.foldl_endOps_spec (g :: l) hord
    obtain ⟨hmem2, hcol2, -, hcount2⟩ := State.timeOut_spec hord1 c 2 g (((s.setSub c x).colCount 0x50 1).lastProgress g)
    refine ⟨_, exec_collectiveAbort_some hs ht hhits, hmem2.trans hmem1, ?_, fun k hk hin hnew => ?_⟩
    · rw [hcount2, hcounts1 _ (by decide), hcounted]
    · rw [hcol2]
      exact ⟨rfl, haborted1 k (.inl (hmem k hk hin hnew)), fun o ho hgroup => (hops1 o ho).2 (hgroup ▸ hmem k hk hin hnew)⟩

end

section
variable {s : State}

/-- A group whose operations end with COL_TIMEOUT loses them all, and the timeout is counted (R337). -/
theorem State.endGroup_spec (h : s.cnt.ordered) (g code cause : Nat) :
    let t := s.endGroup g code cause
    t.mem = s.mem ∧ t.col.timedOut = true ∧ t.col.ops = s.col.ops.filter (fun o => o.group ≠ g) ∧
      t.cntAt (regAddr Page.coll 0x4C) = s.cntAt (regAddr Page.coll 0x4C) + 1 := by
  have hended := State.endOps_spec h g
  obtain ⟨hmem, hcol, hcount, -⟩ := State.timeOut_spec hended.ordered code cause g (s.lastProgress g)
  refine ⟨hmem.trans hended.mem, (congrArg Coll.timedOut hcol :), (congrArg Coll.ops hcol).trans hended.ops, ?_⟩
  exact hcount.trans (congrArg (· + 1) (hended.counts 0x4C (by decide)))

/-- A group times out by a port whose peer is lost, or by an operation that has made no progress (R337). -/
theorem exec_colTimeout_group {g : Fin 8} (hs : s.bel.stopped = false) (hany : ∃ o ∈ s.col.ops, o.group = g.val)
    (hend : (∃ c ∈ s.grpAll g, (s.subP c).peerLost = true) ∨ ∃ o ∈ s.col.ops, o.group = g.val ∧ o.progress + s.colWait ≤ s.cad.tickNo) :
    ∃ code cause, exec (.colTimeout (.group g)) s = .next (s.endGroup g code cause) := by
  have hmine : (s.col.ops.filter fun o => decide (o.group = g.val)).isEmpty = false := by
    obtain ⟨o, ho, hg⟩ := hany
    simpa using ⟨o, ho, hg⟩
  show ∃ code cause, execColTimeout (.group g) s = _
  unfold execColTimeout
  rw [if_neg (ne_true_of_eq_false hs : ¬s.still = true)]
  dsimp only
  rw [hmine, if_neg (by decide)]
  split
  · next c hc => exact ⟨c, 1, rfl⟩
  · next hnone =>
    refine ⟨0xFFFF, 3, if_pos (List.any_eq_true.mpr ?_)⟩
    obtain ⟨c, hc, hlost⟩ | ⟨o, ho, hg, hwait⟩ := hend
    · exact absurd hlost (List.find?_eq_none.mp hnone c hc)
    · exact ⟨o, List.mem_filter.mpr ⟨ho, decide_eq_true hg⟩, decide_eq_true hwait⟩

/-- The state in which a conduit that has timed out hands over nothing and waits for nothing (R337). -/
def State.shutCnd (s : State) (k : Nat) : State :=
  State.setCnd { s with col := { s.col with shut := s.col.shut ++ [k] } } k { s.cnd k with handed := [], waitFrom := none }

/-- A conduit times out by its port's lost peer, or by its wait for a free entry (R337). -/
theorem exec_colTimeout_conduit {k : Fin 32} (hs : s.bel.stopped = false) (hvalid : s.cndValid k = true) (hopen : k.val ∉ s.col.shut)
    (hend : (s.subP (s.cndPort k)).peerLost = true ∨ ∃ w, (s.cnd k).waitFrom = some w ∧ w + s.colWait ≤ s.cad.tickNo ∧
      ((s.cnd k).handed ≠ [] ∨ ∃ d, d < 4 ∧ s.mayIssue d = true)) :
    ∃ cause since, exec (.colTimeout (.conduit k)) s = .next ((s.shutCnd k).timeOut (s.cndPort k) cause k since) := by
  have hgo : (!s.cndValid k || s.col.shut.contains k.val) = false := by simp [hvalid, hopen]
  show ∃ cause since, execColTimeout (.conduit k) s = _
  unfold execColTimeout
  rw [if_neg (ne_true_of_eq_false hs : ¬s.still = true)]
  dsimp only
  rw [hgo, if_neg (by decide)]
  by_cases hlost : (s.subP (s.cndPort k)).peerLost = true
  · rw [if_pos hlost]
    exact ⟨1, _, rfl⟩
  · obtain ⟨w, hw, hwait, hbusy⟩ := hend.resolve_left hlost
    have hbusy' : (!(s.cnd k).handed.isEmpty || (true && (List.range 4).any s.mayIssue)) = true := by
      simpa using hbusy
    rw [if_neg hlost]
    simp only [hw, Option.isSome_some, hbusy', hwait, Bool.not_true, Bool.false_eq_true, if_false, if_true]
    exact ⟨3, _, rfl⟩

/-- A conduit that has timed out has nothing to send, and what it may send into stands (R337). -/
theorem State.shutCnd_timeOut_spec (hcnt : s.cnt.ordered) (hcnd : s.col.conduits.ordered) (k code cause since : Nat) :
    let t := (s.shutCnd k).timeOut code cause k since
    t.mem = s.mem ∧ t.col.timedOut = true ∧ (t.cnd k).handed = [] ∧ k ∈ t.col.shut ∧ (t.cnd k).waitFrom = none ∧
      (t.cnd k).free = (s.cnd k).free := by
  obtain ⟨hmem, hcol, -, -⟩ := State.timeOut_spec (s := s.shutCnd k) hcnt code cause k since
  have hget := (Tbl.get_set_ordered (d := Conduit.none) hcnd k k { s.cnd k with handed := [], waitFrom := none }).trans (if_pos rfl)
  have hk := (congrArg (fun x : Coll => x.conduits.get Conduit.none k) hcol).trans hget
  exact ⟨hmem, (congrArg Coll.timedOut hcol :), (congrArg Conduit.handed hk :), by
    rw [hcol]
    exact List.mem_append_right _ (List.mem_singleton_self k), (congrArg Conduit.waitFrom hk :), (congrArg Conduit.free hk :)⟩

end

end Sys2Proof.Machine
end

section
/-! The data of a message in memory, and the conduit that it belongs to (R280, R281, R286, R330). -/

namespace Sys2Proof.Machine

section
variable {s s0 : State} {code a : Nat} {m : List Byte}

/-- The data of a message that may be written is written, with the poison that came with it. -/
theorem State.storeMsg_open (hf : s.spanFault (colUnitOf code) a (msgData m).length true = none) :
    s.storeMsg code m a = if bitOf (msgFlags m) 1 then (s.putAt (colUnitOf code) a (msgData m)).poisonFor (colUnitOf code) a (msgData m).length
      else s.putAt (colUnitOf code) a (msgData m) := by
  unfold State.storeMsg State.storeFor
  simp only [hf]

/-- Outside the arrival windows the data of a message is a store, with the poison that came with it (R286). -/
theorem State.storeMsg_store (hf : s.spanFault (colUnitOf code) a (msgData m).length true = none) (hr : ∀ p o, regionOf a ≠ .arrival p o) :
    ∃ poison, s.storeMsg code m a = { s.store a (msgData m) with poison := poison } := by
  have hput : s.putAt (colUnitOf code) a (msgData m) = s.store a (msgData m) := by
    unfold State.putAt
    split
    · next hreg => exact absurd hreg (hr _ _)
    · rfl
  rw [State.storeMsg_open hf, hput]
  unfold State.poisonFor
  split
  · split
    · exact ⟨_, rfl⟩
    · exact ⟨_, rfl⟩
    · exact ⟨_, rfl⟩
  · exact ⟨_, rfl⟩

/-- An arrival window takes the data of a message to its Proofer, and holds no memory and no poison (R281, R286). -/
theorem State.storeMsg_arrival (hf : s.spanFault (colUnitOf code) a (msgData m).length true = none) {p o : Nat}
    (hr : regionOf a = .arrival p o) :
    s.storeMsg code m a = { s with
      spine := { s.spine with arrivals := s.spine.arrivals ++ [⟨p, arrivalSender (colUnitOf code), a, msgData m, false⟩] } } := by
  have hpoison : ∀ t : State, t.poisonFor (colUnitOf code) a (msgData m).length = t := by
    intro t
    unfold State.poisonFor
    rw [hr]
    split
    · rfl
    · rfl
    · next hno => exact absurd rfl (hno p o)
  rw [State.storeMsg_open hf, hpoison, ite_self, State.putAt, hr]

/-- The bytes of a message stand at their place, and no other byte has changed (R327, R330). -/
theorem State.storeMsg_bytes (hmem : s.memOk) (hf : s.spanFault (colUnitOf code) a (msgData m).length true = none)
    (hr : ∀ p o, regionOf a ≠ .arrival p o) :
    (∀ i b, (msgData m)[i]? = some b → (s.storeMsg code m a).byteAt (a + i) = b) ∧
      ∀ q, q < a ∨ a + (msgData m).length ≤ q → (s.storeMsg code m a).byteAt q = s.byteAt q := by
  obtain ⟨poison, hstore⟩ := State.storeMsg_store hf hr
  rw [hstore]
  refine ⟨fun i b hb => ?_, fun q hq => State.byteAt_store_outside hmem hq⟩
  obtain ⟨hi, rfl⟩ := List.getElem?_eq_some_iff.mp hb
  exact State.byteAt_store_inside hmem hi

/-- The data of a message that reaches memory or an arrival window changes memory, poison and the spine alone. -/
theorem State.storeMsg_frame (hf : s.spanFault (colUnitOf code) a (msgData m).length true = none) :
    ∃ mem poison spine, s.storeMsg code m a = { s with mem := mem, poison := poison, spine := spine } := by
  by_cases hr : ∃ p o, regionOf a = .arrival p o
  · obtain ⟨p, o, hr⟩ := hr
    exact ⟨_, _, _, State.storeMsg_arrival hf hr⟩
  · obtain ⟨poison, hstore⟩ := State.storeMsg_store hf fun p o h => hr ⟨p, o, h⟩
    exact ⟨_, _, _, hstore⟩

end

section
variable {s s0 : State} {c : PortCode} {m : List Byte}

/-- A conduit that has handed over nothing sends nothing (R330). -/
theorem State.cndPump_idle {s : State} {k : Nat} (h : (s.cnd k).handed = []) : s.cndPump k = s := by
  have hstep : s.cndStep k = s := by simp [State.cndStep, h]
  exact List.foldlRecOn (motive := fun u => u = s) _ _ rfl fun u hu _ _ => by rw [hu, hstep]

theorem State.cnd_setCnd {s : State} (h : s.col.conduits.ordered) (k : Nat) (x : Conduit) : (s.setCnd k x).cnd k = x :=
  (Tbl.get_set_ordered h k k x).trans (if_pos rfl)

/-- A notice frees its entry, and nothing leaves where nothing has been handed over (R330). -/
theorem exec_conduitNotice_idle (hs : s.bel.stopped = false) (hcnd : s.col.conduits.ordered) (ht : s.takeMsg c 2 = some (m, s0))
    (hidle : (s.cnd (msgId m % 32)).handed = []) :
    ∃ t, exec (.conduitNotice c) s = .next t ∧ t = { s with subs := s0.subs, col := t.col } ∧
      ∀ j, j ∈ (t.cnd (msgId m % 32)).free ↔
        j = msgOffset m / max 1 (s.cndBytes (msgId m % 32)) ∨ j ∈ (s.cnd (msgId m % 32)).free := by
  obtain ⟨x, rfl⟩ := State.takeMsg_eq ht
  show ∃ t, execConduitNotice c s = _ ∧ _
  unfold execConduitNotice
  rw [if_neg (ne_true_of_eq_false hs : ¬s.still = true)]
  simp only [ht]
  have hget := State.cnd_setCnd (s := s.setSub c x) hcnd (msgId m % 32)
  have hpump : ∀ free wait, ((s.setSub c x).setCnd (msgId m % 32)
      { (s.setSub c x).cnd (msgId m % 32) with free := free, waitFrom := wait }).cndPump (msgId m % 32) = (s.setSub c x).setCnd (msgId m % 32)
      { (s.setSub c x).cnd (msgId m % 32) with free := free, waitFrom := wait } := fun _ _ =>
    State.cndPump_idle ((congrArg Conduit.handed (hget _)).trans hidle)
  rw [hpump]
  refine ⟨_, rfl, rfl, fun j => ?_⟩
  rw [hget]
  dsimp only
  split
  · next hin =>
    refine (or_iff_right_of_imp ?_).symm
    rintro rfl
    exact List.contains_iff_mem.mp hin
  · rw [List.mem_append, List.mem_singleton, or_comm]
    exact Iff.rfl

/-- Conduit data beyond its object, or of no conduit, is discarded (R328, R330). -/
theorem exec_conduitData_bad (hs : s.bel.stopped = false) (ht : s.takeMsg c 1 = some (m, s0))
    (hbad : s.cndValid (msgId m % 32) = false ∨
      s.cndEntries (msgId m % 32) * s.cndBytes (msgId m % 32) < msgOffset m + (msgData m).length) (dest : BitVec 46) :
    exec (.conduitData c dest) s = .next (s0.badMessage c (msgId m % 32)) := by
  obtain ⟨x, rfl⟩ := State.takeMsg_eq ht
  have hcond : (!s.cndValid (msgId m % 32) ||
      decide (s.cndEntries (msgId m % 32) * s.cndBytes (msgId m % 32) < msgOffset m + (msgData m).length)) = true := by
    simpa using hbad
  show execConduitData c dest s = _
  unfold execConduitData
  rw [if_neg (ne_true_of_eq_false hs : ¬s.still = true)]
  simp only [ht]
  exact if_pos hcond

/-- Conduit data within its object is stored and counted; an entry that it completes goes to its Chanter (R330). -/
theorem exec_conduitData_stored (hs : s.bel.stopped = false) (ht : s.takeMsg c 1 = some (m, s0))
    (hvalid : s.cndValid (msgId m % 32) = true)
    (hin : msgOffset m + (msgData m).length ≤ s.cndEntries (msgId m % 32) * s.cndBytes (msgId m % 32)) (hne : msgData m ≠ [])
    (hcnd : s.col.conduits.ordered) (dest : BitVec 46)
    (hf : s.spanFault (colUnitOf c) (dest.toNat + msgOffset m) (msgData m).length true = none) :
    let n := s.cndBytes (msgId m % 32)
    let got := (s.cnd (msgId m % 32)).got.get 0 (msgOffset m / max 1 n) + (msgData m).length
    let s1 := s0.storeMsg c m (dest.toNat + msgOffset m)
    ∃ t, exec (.conduitData c dest) s = .next t ∧ t = { s1 with ch := t.ch, col := t.col } ∧
      (got < n → (t.cnd (msgId m % 32)).got.get 0 (msgOffset m / max 1 n) = got) := by
  obtain ⟨x, rfl⟩ := State.takeMsg_eq ht
  obtain ⟨mem, poison, spine, hstore⟩ := State.storeMsg_frame (s := s.setSub c x) hf
  have hcond : ¬(!(s.setSub c x).cndValid (msgId m % 32) ||
      decide ((s.setSub c x).cndEntries (msgId m % 32) * (s.setSub c x).cndBytes (msgId m % 32) < msgOffset m + (msgData m).length)) = true := by
    simpa using ⟨hvalid, hin⟩
  have hgot : (s.cnd (msgId m % 32)).got.get 0 (msgOffset m / max 1 (s.cndBytes (msgId m % 32))) + (msgData m).length ≠ 0 := by
    have := List.length_pos_iff.mpr hne
    omega
  dsimp only
  show ∃ t, execConduitData c dest s = _ ∧ _
  unfold execConduitData
  rw [if_neg (ne_true_of_eq_false hs : ¬s.still = true)]
  simp only [ht]
  rw [if_neg hcond, hstore]
  split
  · refine ⟨_, rfl, rfl, fun _ => ?_⟩
    exact (congrArg (fun q : Conduit => q.got.get 0 _) (State.cnd_setCnd hcnd _ _)).trans (Tbl.get_set_self hgot _ _)
  · next hfull =>
    split
    · exact ⟨_, rfl, rfl, fun h => absurd h hfull⟩
    · exact ⟨_, rfl, rfl, fun h => absurd h hfull⟩

/-- Conduit data within its object stands at its place in memory, or is under way to the Proofer whose arrival window it lies in (R281, R330). -/
theorem exec_conduitData_spec (hs : s.bel.stopped = false) (hmem : s.memOk) (hcnd : s.col.conduits.ordered)
    (ht : s.takeMsg c 1 = some (m, s0)) (hvalid : s.cndValid (msgId m % 32) = true)
    (hin : msgOffset m + (msgData m).length ≤ s.cndEntries (msgId m % 32) * s.cndBytes (msgId m % 32)) (hne : msgData m ≠ [])
    (dest : BitVec 46) (hf : s.spanFault (colUnitOf c) (dest.toNat + msgOffset m) (msgData m).length true = none) :
    let k := msgId m % 32
    let n := s.cndBytes k
    let a := dest.toNat + msgOffset m
    ∃ t, exec (.conduitData c dest) s = .next t ∧ t.ctl = s.ctl ∧
      (∀ p o, regionOf a = .arrival p o → t.mem = s.mem ∧ t.poison = s.poison ∧
        t.spine.arrivals = s.spine.arrivals ++ [⟨p, arrivalSender (colUnitOf c), a, msgData m, false⟩]) ∧
      ((∀ p o, regionOf a ≠ .arrival p o) → (∀ i b, (msgData m)[i]? = some b → t.byteAt (a + i) = b) ∧
        ∀ q, q < a ∨ a + (msgData m).length ≤ q → t.byteAt q = s.byteAt q) ∧
      ((s.cnd k).got.get 0 (msgOffset m / max 1 n) + (msgData m).length < n →
        (t.cnd k).got.get 0 (msgOffset m / max 1 n) = (s.cnd k).got.get 0 (msgOffset m / max 1 n) + (msgData m).length) := by
  obtain ⟨t, hexec, hframe, hgot⟩ := exec_conduitData_stored hs ht hvalid hin hne hcnd dest hf
  obtain ⟨x, rfl⟩ := State.takeMsg_eq ht
  refine ⟨t, hexec, ?_, fun p o hr => ?_, fun hr => ?_, hgot⟩
  · obtain ⟨mem, poison, spine, hstore⟩ := State.storeMsg_frame (s := s.setSub c x) hf
    rw [hframe, hstore]
    rfl
  · rw [hframe, State.storeMsg_arrival (s := s.setSub c x) hf hr]
    exact ⟨rfl, rfl, rfl⟩
  · rw [hframe]
    exact State.storeMsg_bytes (s := s.setSub c x) hmem hf hr

end

end Sys2Proof.Machine
end

section
/-! Bulk transfers (R14, R269, R270, R327, R328). -/

namespace Sys2Proof.Machine

variable {s s0 : State} {c : PortCode} {m : List Byte} {addr : BitVec 46}

/-- A request for data that stays inside the package is counted and has no answer (R14; log entry 170). -/
theorem exec_bulkReadRequest_kept (hs : s.bel.stopped = false) (ht : s.takeMsg c 6 = some (m, s0)) {len : Nat}
    (hstay : s.mayLeave addr.toNat len = false) (hask : leAt (msgData m) 12 4 = 0) :
    exec (.bulkReadRequest c addr len) s = .next (s0.portCount c 0x64 1) := by
  obtain ⟨x, rfl⟩ := State.takeMsg_eq ht
  have hstay' : (s.setSub c x).mayLeave addr.toNat len = false := hstay
  show execBulkReadRequest c addr len s = _
  unfold execBulkReadRequest
  rw [if_neg (ne_true_of_eq_false hs : ¬s.still = true)]
  simp only [ht, hask, ne_eq, not_true_eq_false, if_false, hstay', Bool.not_false, if_true]

/-- A read for a unit changes no memory: at most a record of it is raised (R280). -/
theorem State.loadFor_frame (s : State) (u : MemUnit) (a n mb : Nat) :
    ∃ evt cnt freeCtr, (s.loadFor u a n mb).2 = { s with evt := evt, cnt := cnt, freeCtr := freeCtr } := by
  unfold State.loadFor
  split
  · exact ⟨_, _, _, rfl⟩
  · exact ⟨s.evt, s.cnt, s.freeCtr, rfl⟩

/-- A bulk read is answered, if at all, on its own sub-port (R269, R327). -/
theorem exec_bulkReadRequest_sentOn (hs : s.bel.stopped = false) (hsubs : s.subs.ordered) (ht : s.takeMsg c 6 = some (m, s0)) (len : Nat) :
    ∃ evt cnt freeCtr t, exec (.bulkReadRequest c addr len) s = .next t ∧
      ({ s0 with evt := evt, cnt := cnt, freeCtr := freeCtr } : State).SentOn t c := by
  have hord : s0.subs.ordered := by
    obtain ⟨x, rfl⟩ := State.takeMsg_eq ht
    exact Tbl.ordered_set hsubs c x
  have hstart : ∀ evt cnt freeCtr, ({ s0 with evt := evt, cnt := cnt, freeCtr := freeCtr } : State).SentOn
      { s0 with evt := evt, cnt := cnt, freeCtr := freeCtr } c := fun _ _ _ => .refl hord
  show ∃ evt cnt freeCtr t, execBulkReadRequest c addr len s = _ ∧ _
  unfold execBulkReadRequest
  rw [if_neg (ne_true_of_eq_false hs : ¬s.still = true)]
  simp only [ht]
  split
  · exact ⟨s0.evt, s0.cnt, s0.freeCtr, _, rfl, (hstart ..).sendBytes ..⟩
  · split
    · exact ⟨s0.evt, s0.cnt, s0.freeCtr, _, rfl, (hstart ..).portCount ..⟩
    · obtain ⟨evt, cnt, freeCtr, hload⟩ := s0.loadFor_frame (colUnitOf c) addr.toNat len 0xFFFF
      rw [hload, State.countPoison_frame]
      exact ⟨evt, _, freeCtr, _, rfl, (hstart ..).sendBytes ..⟩

/-- A bulk read changes no memory, and leaves the other sub-ports and what its own has received (R269, R327). -/
theorem exec_bulkReadRequest_spec (hs : s.bel.stopped = false) (hsubs : s.subs.ordered) (ht : s.takeMsg c 6 = some (m, s0)) (len : Nat) :
    ∃ t, exec (.bulkReadRequest c addr len) s = .next t ∧ t = { s with subs := t.subs, evt := t.evt, cnt := t.cnt, freeCtr := t.freeCtr } ∧
      (∀ k, k ≠ c.val → t.subP k = s.subP k) ∧ (t.subP c).rx = (s0.subP c).rx := by
  obtain ⟨evt, cnt, freeCtr, t, hexec, hsent⟩ := exec_bulkReadRequest_sentOn (addr := addr) hs hsubs ht len
  obtain ⟨x, rfl⟩ := State.takeMsg_eq ht
  refine ⟨t, hexec, by rw [hsent.frame]; rfl, fun k hk => ?_, hsent.received⟩
  exact (hsent.others k hk).trans ((Tbl.get_set_ordered hsubs c k x).trans (if_neg hk))

/-- Bulk data that runs beyond the object that it begins in is discarded (R328). -/
theorem exec_bulkData_bad (hs : s.bel.stopped = false) (ht : s.takeMsg c 7 = some (m, s0))
    (hfit : bulkFits (addr.toNat + msgOffset m) (msgData m).length = false) :
    exec (.bulkData c addr) s = .next (s0.badMessage c (msgId m % 32)) := by
  show execBulkData c addr s = _
  unfold execBulkData
  rw [if_neg (ne_true_of_eq_false hs : ¬s.still = true)]
  simp only [ht, hfit, Bool.not_false, if_true]

/-- The spine with the data of a message that belongs to the stream of a running import (R270). -/
def Spine.streamed (x : Spine) (m : List Byte) : Spine :=
  if x.importing = true ∧ x.impConduit = some (msgId m % 32) then { x with impBytes := x.impBytes ++ msgData m } else x

/-- Bulk data within its object is stored, and joins the stream of an import on its conduit (R270, R327). -/
theorem exec_bulkData_stored (hs : s.bel.stopped = false) (ht : s.takeMsg c 7 = some (m, s0))
    (hfit : bulkFits (addr.toNat + msgOffset m) (msgData m).length = true)
    (hreg : (∃ p q, regionOf (addr.toNat + msgOffset m) = .trough p q) ∨ ∃ d q, regionOf (addr.toNat + msgOffset m) = .crust d q) :
    exec (.bulkData c addr) s = .next
      (State.storeMsg { s0 with spine := s0.spine.streamed m } c m (addr.toNat + msgOffset m)) := by
  have hspine : (if (s0.spine.importing && decide (s0.spine.impConduit = some (msgId m % 32))) = true then
      { s0 with spine := { s0.spine with impBytes := s0.spine.impBytes ++ msgData m } } else s0) =
      ({ s0 with spine := s0.spine.streamed m } : State) := by
    unfold Spine.streamed
    by_cases h : s0.spine.importing = true ∧ s0.spine.impConduit = some (msgId m % 32)
    · simp [h]
    · rw [if_neg h, if_neg (by simpa using h)]
  show execBulkData c addr s = _
  unfold execBulkData
  rw [if_neg (ne_true_of_eq_false hs : ¬s.still = true)]
  simp only [ht, hfit, Bool.not_true, Bool.false_eq_true, if_false, hspine]
  obtain ⟨p, q, hr⟩ | ⟨d, q, hr⟩ := hreg
  · simp only [hr]
  · simp only [hr]

theorem Spine.streamed_spanFault (s : State) (m : List Byte) (u : MemUnit) (a n : Nat) (w : Bool) :
    ({ s with spine := s.spine.streamed m } : State).spanFault u a n w = s.spanFault u a n w := by
  unfold Spine.streamed
  split <;> rfl

/-- Bulk data in a Trough or in crust stands at its place, and no other byte has changed (R327). -/
theorem exec_bulkData_written (hs : s.bel.stopped = false) (hmem : s.memOk) (ht : s.takeMsg c 7 = some (m, s0))
    (hfit : bulkFits (addr.toNat + msgOffset m) (msgData m).length = true)
    (hreg : (∃ p q, regionOf (addr.toNat + msgOffset m) = .trough p q) ∨ ∃ d q, regionOf (addr.toNat + msgOffset m) = .crust d q)
    (hf : s.spanFault (colUnitOf c) (addr.toNat + msgOffset m) (msgData m).length true = none) :
    ∃ t, exec (.bulkData c addr) s = .next t ∧ t = { s with subs := s0.subs, mem := t.mem, poison := t.poison, spine := t.spine } ∧
      t.spine = s.spine.streamed m ∧ (∀ i b, (msgData m)[i]? = some b → t.byteAt (addr.toNat + msgOffset m + i) = b) ∧
      ∀ q, q < addr.toNat + msgOffset m ∨ addr.toNat + msgOffset m + (msgData m).length ≤ q → t.byteAt q = s.byteAt q := by
  have harr : ∀ p o, regionOf (addr.toNat + msgOffset m) ≠ .arrival p o := by
    intro p o
    obtain ⟨_, _, hr⟩ | ⟨_, _, hr⟩ := hreg <;> simp [hr]
  refine ⟨_, exec_bulkData_stored hs ht hfit hreg, ?_⟩
  obtain ⟨x, rfl⟩ := State.takeMsg_eq ht
  have hf' := (Spine.streamed_spanFault (s.setSub c x) m (colUnitOf c) (addr.toNat + msgOffset m) (msgData m).length true).trans hf
  obtain ⟨hbytes, houtside⟩ := State.storeMsg_bytes (s := { s.setSub c x with spine := (s.setSub c x).spine.streamed m }) hmem hf' harr
  obtain ⟨poison, hstore⟩ := State.storeMsg_store hf' harr
  refine ⟨?_, ?_, hbytes, houtside⟩
  · rw [hstore]
    rfl
  · rw [hstore]
    rfl

end Sys2Proof.Machine
end

section
/-! The collectives, the conduits and bulk transfers (R327, R330 to R333, R337). -/

namespace Sys2Proof.Machine

theorem State.tablesOk_links {s : State} (h : s.tablesOk) : s.subs.ordered ∧ s.col.conduits.ordered := by
  obtain ⟨-, -, -, -, -, -, -, -, -, -, -, -, -, -, hsubs, -, -, -, -, -, -, -, -, hcnd, -⟩ := h
  exact ⟨hsubs, hcnd⟩

/-- Settles O58: a message by what the command makes of it once it has been taken; what leaves on the links in answer changes sub-ports and counters
alone, and a timeout ends operations and conduits before the Chanters abandon the step. -/
theorem collectivesAndConduits : Obligations.CollectivesAndConduits := by
  unfold Obligations.CollectivesAndConduits
  refine ⟨?_, ?_, ?_, ?_, ?_, ?_, ?_, ?_, ?_, ?_, ?_⟩
  · intro s c m s0 o hs _ ht hopen hvc hop t0 k v hvalid hchunk hlen second hown hrow hsentX hsentY hdone
    refine ⟨_, exec_collectiveData_partial hs ht hopen hvc hop hvalid hchunk hlen hsentX hsentY hdone, ?_⟩
    obtain ⟨howns, hrows, hsentXs, hsentYs, hdones⟩ := k.taking_spec second v
    obtain ⟨x, rfl⟩ := State.takeMsg_eq ht
    exact State.keptPartial_spec (s := s.setSub c x) hop (State.lt_opChunks hchunk) (howns.trans hown) (hrows.trans hrow) (hsentXs.trans hsentX)
      (hsentYs.trans hsentY) (hdones.trans hdone) (k.taking_ne_none second v) _
  · intro s c m s0 hs htab ht hopen hbad
    obtain ⟨-, hcnt, -⟩ := State.tablesOk_ordered htab
    exact ⟨_, exec_collectiveData_bad hs ht hopen hbad, State.taken_badMessage_spec hcnt ht 0xFFFF⟩
  · intro s num gather alongY n o hs _ hopen hop hwaiting hdone
    exact exec_windowCredit_idle hs hopen hop hwaiting hdone
  · intro s c m s0 hs htab ht
    obtain ⟨-, hcnt, -⟩ := State.tablesOk_ordered htab
    exact exec_collectiveAbort_spec hs hcnt ht
  · intro s g hs htab hany hend
    obtain ⟨-, hcnt, -⟩ := State.tablesOk_ordered htab
    obtain ⟨code, cause, hexec⟩ := exec_colTimeout_group hs hany hend
    exact ⟨_, hexec, State.endGroup_spec hcnt g code cause⟩
  · intro s k hs htab hvalid hopen hend
    obtain ⟨-, hcnt, -⟩ := State.tablesOk_ordered htab
    obtain ⟨-, hcnd⟩ := State.tablesOk_links htab
    obtain ⟨cause, since, hexec⟩ := exec_colTimeout_conduit hs hvalid hopen hend
    exact ⟨_, hexec, State.shutCnd_timeOut_spec hcnt hcnd k (s.cndPort k) cause since⟩
  · intro s c m s0 hs htab ht k i hidle
    obtain ⟨-, hcnd⟩ := State.tablesOk_links htab
    obtain ⟨t, hexec, hframe, hfree⟩ := exec_conduitNotice_idle hs hcnd ht hidle
    exact ⟨t, hexec, hframe, (hfree i).mpr (.inl rfl), hfree⟩
  · intro s c dest m s0 hs hmem htab ht k n a
    obtain ⟨-, hcnt, -⟩ := State.tablesOk_ordered htab
    obtain ⟨-, hcnd⟩ := State.tablesOk_links htab
    constructor
    · intro hvalid hin hne hf
      exact exec_conduitData_spec hs hmem hcnd ht hvalid hin hne dest hf
    · intro hbad
      exact ⟨_, exec_conduitData_bad hs ht hbad dest, State.taken_badMessage_spec hcnt ht k⟩
  · intro s c addr len m s0 hs htab ht
    obtain ⟨-, hcnt, -⟩ := State.tablesOk_ordered htab
    obtain ⟨hsubs, -⟩ := State.tablesOk_links htab
    obtain ⟨t, hexec, hrest⟩ := exec_bulkReadRequest_spec (addr := addr) hs hsubs ht len
    refine ⟨t, hexec, fun hstay hask => ?_, hrest⟩
    obtain rfl := Host.Outcome.next.inj (hexec.symm.trans (exec_bulkReadRequest_kept hs ht hstay hask))
    obtain ⟨x, rfl⟩ := State.takeMsg_eq ht
    exact ⟨rfl, State.cntAt_count_same hcnt _ 1⟩
  · intro s c addr m s0 hs hmem _ ht a hreg hf hfit
    exact exec_bulkData_written hs hmem ht hfit hreg hf
  · intro s c addr m s0 hs htab ht hfit
    obtain ⟨-, hcnt, -⟩ := State.tablesOk_ordered htab
    exact ⟨_, exec_bulkData_bad hs ht hfit, State.taken_badMessage_spec hcnt ht _⟩

end Sys2Proof.Machine
end

section
/-! The control side of the state, and what one act of a command can do to it: the stored responses (R370), the event ring and its consumers
(R421), the Bellows levels (R354), the fuses (R386, R387, R391, R392, R428 to R430), the tick counter with its replicas, and the time in the tick
(R342, R343). Every command leads from one control side to the next by these moves alone (`exec_reaches`), and the acts of all but a few commands make
quiet moves at most (`Control.Quiet`): a property of the control side needs to be followed through the moves only. -/

namespace Sys2Proof.Machine

/-- What the control side holds: the commands that wait, and what answers, events, levels and fuses move. -/
structure Control where
  pending    : List Instr
  stored     : List Resp
  ring       : List EvRec
  portTaken  : Nat
  hostTaken  : Nat
  throttle   : Nat
  ballast    : Nat
  fuse       : Fuses
  tickNo     : Nat
  replicas   : Tbl Nat
  inTick     : Nat

/-- The control side of a state. -/
def State.control (s : State) : Control :=
  ⟨s.pending, s.ctl.stored, s.evt.ring, s.evt.portTaken, s.evt.hostTaken, s.bel.throttle, s.bel.ballast, s.fuse,
    s.cad.tickNo, s.cad.replicas, s.inTick⟩

/-- What blows a fuse or writes fuse-backed storage. -/
inductive Fuses.Move (f : Fuses) : Fuses → Prop
  | rotate (digest : List Byte) : Move f { f with keySlots := f.keySlots ++ [digest] }
  | tamper : Move f { f with tamper := true }
  | tamperClear : Move f { f with tamper := false, tamperClears := f.tamperClears + 1 }
  | floorRaise {n : Nat} (h : f.floor < n) : Move f { f with floor := n }
  | zeroPending (b : Bool) : Move f { f with zeroPending := b }
  | softMaps (m : Tbl Nat) : Move f { f with softMaps := m }
  | thermtrip : Move f { f with thermtrips := f.thermtrips + 1 }
  | hour : Move f { f with hours := f.hours + 1 }

/-- The moves that commands of every kind make: they leave the fuses, the levels, the tick counter and the time alone, and bring nothing into the
ring. -/
inductive Control.Quiet (c : Control) : Control → Prop
  /-- A response is stored, and the oldest beyond 64 goes (R370). -/
  | answer (r : Resp) : Quiet c { c with stored := (r :: c.stored).take storeDepth }
  /-- Stored responses get their final status (R381). -/
  | amend (g : Resp → Resp) : Quiet c { c with stored := c.stored.map g }
  /-- The oldest records leave the ring (R421). -/
  | release (n : Nat) : Quiet c { c with ring := c.ring.drop n, portTaken := c.portTaken - n, hostTaken := c.hostTaken - n }

/-- One move of the control side. -/
inductive Control.Move (c : Control) : Control → Prop
  | quiet {d : Control} (h : c.Quiet d) : Move c d
  /-- A record enters the ring while it has room (R421). -/
  | takeIn (r : EvRec) (h : c.ring.length < ringDepth) : Move c { c with ring := c.ring ++ [r] }
  /-- The event channel takes records that the ring holds. -/
  | send {n : Nat} (h : c.portTaken + n ≤ c.ring.length) : Move c { c with portTaken := c.portTaken + n }
  /-- The host copy takes the next record that the ring holds. -/
  | copy (h : c.hostTaken < c.ring.length) : Move c { c with hostTaken := c.hostTaken + 1 }
  /-- The levels move, and not past 15 (R354). -/
  | levels {k b : Nat} (hk : k ≤ max c.throttle 15) (hb : b ≤ max c.ballast 15) : Move c { c with throttle := k, ballast := b }
  /-- Time passes, or the tick counter and its replicas take a number (R342, R343). -/
  | time (no : Nat) (replicas : Tbl Nat) (us : Nat) : Move c { c with tickNo := no, replicas := replicas, inTick := us }
  /-- BOOT leaves no response, no record and no level (R421, R438). -/
  | boot : Move c { c with
      stored := [], ring := [], portTaken := 0, hostTaken := 0, throttle := 0, ballast := 0, tickNo := 0, replicas := .empty, inTick := 0 }
  /-- A fuse is blown, or fuse-backed storage is written. -/
  | blow {f : Fuses} (h : c.fuse.Move f) : Move c { c with fuse := f }

/-- Steps of the relation `R`, the quiet moves among them, lead from the control side `c` to that of `s`. -/
structure State.ReachedFrom (s : State) (R : Control → Control → Prop) (c : Control) : Prop where
  quiet : ∀ {c d : Control}, c.Quiet d → R c d
  path : Relation.ReflTransGen R c s.control

/-- The answer is a next state whose control side is reached. -/
def NextReached (R : Control → Control → Prop) (c : Control) : Host.Outcome State Fault Refusal → Prop
  | .next t => t.ReachedFrom R c
  | _ => False

/-- What `Ctl.put` sends leaves the stored responses alone. -/
theorem Ctl.sendBytes_stored (c : Ctl) (ch off : Nat) (bs : List Byte) : (c.sendBytes ch off bs).stored = c.stored := by
  unfold Ctl.sendBytes
  exact List.foldlRecOn (motive := fun d : Ctl => d.stored = c.stored) _ _ rfl fun d hd _ _ => hd

theorem Ctl.put_stored (c : Ctl) (m : OutMsg) : (c.put m).stored = c.stored := by
  cases m with
  | stream ch off bs => exact Ctl.sendBytes_stored _ ch off bs
  | _ => rfl

/-- Where one element is left after `n` have been dropped, there were more than `n`. -/
theorem lt_length_of_drop_eq_cons {α : Type} {l rest : List α} {n : Nat} {x : α} (h : l.drop n = x :: rest) : n < l.length :=
  Nat.lt_of_not_le fun hle => List.cons_ne_nil x rest (h.symm.trans (List.drop_eq_nil_iff.mpr hle))

/-- A record joins the queue of its source, and not the ring (R420, R421). -/
theorem State.control_raise (s : State) (page code : Nat) (pl : List Byte) : (s.raise page code pl).control = s.control := by
  unfold State.raise State.control
  cases s.masked page code <;> rfl

/-- An access that is turned away raises an event, and a write that is carried out reaches memory or an arrival window. -/
theorem State.control_storeFor (s : State) (u : MemUnit) (a : Nat) (bs : List Byte) (mb : Nat) : (s.storeFor u a bs mb).control = s.control := by
  unfold State.storeFor
  split
  · exact State.control_raise s _ _ _
  · unfold State.putAt
    split <;> rfl

theorem State.hostLeft_storeFor {s : State} (u : MemUnit) (a : Nat) (bs : List Byte) (mb : Nat) (h : s.evt.hostTaken < s.evt.ring.length) :
    (s.storeFor u a bs mb).evt.hostTaken < (s.storeFor u a bs mb).evt.ring.length := by
  have hsame := State.control_storeFor s u a bs mb
  have htaken : (s.storeFor u a bs mb).evt.hostTaken = s.evt.hostTaken := congrArg Control.hostTaken hsame
  have hring : (s.storeFor u a bs mb).evt.ring = s.evt.ring := congrArg Control.ring hsame
  rw [htaken, hring]
  exact h

/-- One comparison of the loop moves a level by at most one, and not past 15 (R354). -/
theorem State.bellowsLevels_le (s : State) (p n : Nat) :
    (s.bellowsLevels p n).1 ≤ max s.bel.throttle 15 ∧ (s.bellowsLevels p n).2 ≤ max s.bel.ballast 15 := by
  unfold State.bellowsLevels
  grind

/-- The cadence unit shows on the control side as its counter and the replicas alone. -/
theorem State.control_cad {s : State} {c : Cad} (hno : c.tickNo = s.cad.tickNo) (hrep : c.replicas = s.cad.replicas) :
    State.control { s with cad := c } = s.control := by
  unfold State.control
  rw [hno, hrep]

theorem Cad.firstInput_tickNo (c : Cad) : c.firstInput.tickNo = c.tickNo := by
  unfold Cad.firstInput
  split <;> rfl

theorem Cad.firstInput_replicas (c : Cad) : c.firstInput.replicas = c.replicas := by
  unfold Cad.firstInput
  split <;> rfl

namespace State.ReachedFrom

theorem next {R : Control → Control → Prop} {c₀ : Control} {s : State} (h : s.ReachedFrom R c₀) : NextReached R c₀ (.next s) := h

theorem iteNext {R : Control → Control → Prop} {c₀ : Control} {o o' : Host.Outcome State Fault Refusal} {c : Prop}
    {_ : Decidable c} (ho : NextReached R c₀ o) (ho' : NextReached R c₀ o') : NextReached R c₀ (if c then o else o') := by
  split
  · exact ho
  · exact ho'

/-- A state with the same control side, whatever stands in its other fields. -/
theorem upd {R : Control → Control → Prop} {c₀ : Control} {s t : State} (h : s.ReachedFrom R c₀) (ht : t.control = s.control) :
    t.ReachedFrom R c₀ :=
  ⟨h.quiet, ht ▸ h.path⟩

theorem ite {R : Control → Control → Prop} {c₀ : Control} {t u : State} {c : Prop} {_ : Decidable c}
    (ht : t.ReachedFrom R c₀) (hu : u.ReachedFrom R c₀) :
    State.ReachedFrom (if c then t else u) R c₀ :=
  State.MovesKeep.ite (P := fun v => v.ReachedFrom R c₀) ht hu

theorem foldl {R : Control → Control → Prop} {c₀ : Control} {α : Type} {g : State → α → State} {l : List α} {t : State}
    (hg : ∀ u x, u.ReachedFrom R c₀ → (g u x).ReachedFrom R c₀) (h : t.ReachedFrom R c₀) : (l.foldl g t).ReachedFrom R c₀ :=
  State.MovesKeep.foldl (P := fun v => v.ReachedFrom R c₀) hg l h

theorem foldlFst {R : Control → Control → Prop} {c₀ : Control} {α β : Type} {g : State × β → α → State × β} {l : List α} {a : State × β}
    (hg : ∀ a x, a.1.ReachedFrom R c₀ → (g a x).1.ReachedFrom R c₀) (h : a.1.ReachedFrom R c₀) : (l.foldl g a).1.ReachedFrom R c₀ :=
  List.foldlRecOn (motive := fun a : State × β => a.1.ReachedFrom R c₀) l _ h fun a ha x _ => hg a x ha

theorem foldlSnd {R : Control → Control → Prop} {c₀ : Control} {α β : Type} {g : β × State → α → β × State} {l : List α} {a : β × State}
    (hg : ∀ a x, a.2.ReachedFrom R c₀ → (g a x).2.ReachedFrom R c₀) (h : a.2.ReachedFrom R c₀) : (l.foldl g a).2.ReachedFrom R c₀ :=
  List.foldlRecOn (motive := fun a : β × State => a.2.ReachedFrom R c₀) l _ h fun a ha x _ => hg a x ha

theorem tryMove {R : Control → Control → Prop} {c₀ : Control} {a : State × Bool} {g : State → Option State} (h : a.1.ReachedFrom R c₀)
    (hg : ∀ u t, u.ReachedFrom R c₀ → g u = some t → t.ReachedFrom R c₀) : (Machine.tryMove a g).1.ReachedFrom R c₀ :=
  State.MovesKeep.tryMove (P := fun v => v.ReachedFrom R c₀) h hg

theorem quietly {R : Control → Control → Prop} {c₀ : Control} {s t : State} (h : s.ReachedFrom R c₀) (hq : s.control.Quiet t.control) :
    t.ReachedFrom R c₀ :=
  ⟨h.quiet, h.path.tail (h.quiet hq)⟩

/-- A further move. -/
theorem step {c₀ : Control} {s t : State} (h : s.ReachedFrom Control.Move c₀) (hm : s.control.Move t.control) : t.ReachedFrom Control.Move c₀ :=
  ⟨.quiet, h.path.tail hm⟩

/-- A fuse is blown, or fuse-backed storage is written. -/
theorem blow {c₀ : Control} {s : State} {f : Fuses} (h : s.ReachedFrom Control.Move c₀) (hf : s.fuse.Move f) :
    State.ReachedFrom { s with fuse := f } Control.Move c₀ :=
  h.step (.blow hf)

end State.ReachedFrom
end Sys2Proof.Machine
end


section
/-! The control side: the registers, the cadence, the control channel, the memories and the event ring. -/

namespace Sys2Proof.Machine
namespace State.ReachedFrom
variable {R : Control → Control → Prop} {c₀ : Control} {s : State} (h : s.ReachedFrom R c₀)
include h

theorem store {a : Nat} {bs : List Byte} : (s.store a bs).ReachedFrom R c₀ :=
  upd h (by rfl)

theorem storeNat {a n v : Nat} : (s.storeNat a n v).ReachedFrom R c₀ :=
  h.store

theorem setPoison {a : Nat} : (s.setPoison a).ReachedFrom R c₀ :=
  upd h (by rfl)

theorem setPoisons {a n : Nat} : (s.setPoisons a n).ReachedFrom R c₀ :=
  upd h (by rfl)

theorem putAt {u : MemUnit} {a : Nat} {bs : List Byte} : (s.putAt u a bs).ReachedFrom R c₀ := by
  unfold State.putAt
  split
  · exact upd h (by rfl)
  · exact h.store

theorem setRw {a : Nat} {w : Word} : (s.setRw a w).ReachedFrom R c₀ :=
  upd h (by rfl)

theorem setShadow {a : Nat} {w : Word} : (s.setShadow a w).ReachedFrom R c₀ :=
  upd h (by rfl)

theorem applyShadow {p : Nat → Bool} : (s.applyShadow p).ReachedFrom R c₀ :=
  upd h (by rfl)

theorem applyPage {page : Nat} : (s.applyPage page).ReachedFrom R c₀ :=
  h.applyShadow

theorem count {a n : Nat} : (s.count a n).ReachedFrom R c₀ :=
  upd h (by rfl)

theorem waited {a : Nat} : (s.waited a).ReachedFrom R c₀ :=
  h.count

theorem used {n : Nat} : (s.used n).ReachedFrom R c₀ :=
  upd h (by rfl)

theorem raise {page code : Nat} {pl : List Byte} : (s.raise page code pl).ReachedFrom R c₀ :=
  upd h (State.control_raise s page code pl)

theorem unmapped {u : MemUnit} {a c mb : Nat} : (s.unmapped u a c mb).ReachedFrom R c₀ :=
  h.raise.used

theorem storeFor {u : MemUnit} {a mb : Nat} {bs : List Byte} : (s.storeFor u a bs mb).ReachedFrom R c₀ :=
  upd h (State.control_storeFor s u a bs mb)

theorem poisonFor {u : MemUnit} {a n : Nat} : (s.poisonFor u a n).ReachedFrom R c₀ := by
  unfold State.poisonFor
  split
  · exact h
  · exact h
  · exact h.setPoisons

theorem loadFor {u : MemUnit} {a n mb : Nat} : (s.loadFor u a n mb).2.ReachedFrom R c₀ := by
  unfold State.loadFor
  split
  · exact h.unmapped
  · exact h

theorem enter {st : DevState} {cause opcode tag : Nat} : (s.enter st cause opcode tag).ReachedFrom R c₀ :=
  raise (upd h (by rfl))

theorem prfCount {p off n : Nat} : (s.prfCount p off n).ReachedFrom R c₀ :=
  h.count

theorem refChange {cause : Nat} {offNs : Int} : (s.refChange cause offNs).ReachedFrom R c₀ :=
  h.count.raise

theorem keepLock : s.keepLock.ReachedFrom R c₀ :=
  ite h (ite (count (upd h (by rfl))) (upd h (by rfl)))

theorem cadLoss {cause : Nat} : (s.cadLoss cause).ReachedFrom R c₀ :=
  ite h (ite h.keepLock.raise (ite h h.keepLock.refChange))

theorem execSync {domain sender seq : Nat} {twoStep : Bool} {rxHalf : Int} :
    NextReached R c₀ (Machine.execSync domain sender seq twoStep rxHalf s) :=
  iteNext h.next (iteNext h.count.next (iteNext (next (upd h (by rfl))) h.count.next))

theorem execFollowUp {domain sender seq : Nat} {originNs corrNs : Int} :
    NextReached R c₀ (Machine.execFollowUp domain sender seq originNs corrNs s) := by
  unfold Machine.execFollowUp
  split
  · exact h.next
  · refine iteNext h.next (next (upd h (State.control_cad ?_ ?_)))
    · dsimp only
      split
      · exact Cad.firstInput_tickNo s.cad
      · rfl
    · dsimp only
      split
      · exact Cad.firstInput_replicas s.cad
      · rfl

theorem execAnnounce {m : AnnounceMsg} : NextReached R c₀ (Machine.execAnnounce m s) :=
  iteNext h.next (iteNext (next (upd h (by rfl))) h.next)

theorem execDelayResp {domain sender : Nat} {reqHalf rxNs : Int} : NextReached R c₀ (Machine.execDelayResp domain sender reqHalf rxNs s) :=
  iteNext h.next (next (upd h (by rfl)))

theorem execSyncTimeout : NextReached R c₀ (Machine.execSyncTimeout s) := by
  unfold Machine.execSyncTimeout
  split
  · exact h.next
  · exact iteNext (next (cadLoss (upd h (by rfl)))) h.next

theorem execCadenceEdge {offHalf : Int} : NextReached R c₀ (Machine.execCadenceEdge offHalf s) :=
  iteNext (next (upd h (by rfl))) (iteNext (next (count (upd h (by rfl))))
    (next (upd h (State.control_cad (Cad.firstInput_tickNo _) (Cad.firstInput_replicas _)))))

theorem execPulseInconsistent : NextReached R c₀ (Machine.execPulseInconsistent s) :=
  iteNext (iteNext (next (refChange (upd h (by rfl)))) (next (cadLoss (upd h (by rfl))))) h.next

theorem execPulseConsistent : NextReached R c₀ (Machine.execPulseConsistent s) :=
  iteNext (next (refChange (upd h (by rfl)))) h.next

theorem execPulseLoss : NextReached R c₀ (Machine.execPulseLoss s) := by
  unfold Machine.execPulseLoss
  split
  · exact h.next
  · exact iteNext (next (cadLoss (upd h (by rfl)))) h.next

theorem execRelock {ref : Reference} {named : Nat} {offNs : Int} : NextReached R c₀ (Machine.execRelock ref named offNs s) :=
  iteNext (next (refChange (upd h (by rfl)))) h.next

theorem execCadLost {named : Option Nat} : NextReached R c₀ (Machine.execCadLost named s) :=
  iteNext (next (raise (upd h (by rfl)))) h.next

theorem answer {hd : Hdr} {op status cause : Nat} {data : List Byte} : (s.answer hd op status cause data).ReachedFrom R c₀ :=
  h.quietly (.answer _)

theorem invalid {hd : Hdr} {op cause n : Nat} : (s.invalid hd op cause n).ReachedFrom R c₀ :=
  h.count.raise.answer

theorem refuse {hd : Hdr} {op : Nat} : (s.refuse hd op).ReachedFrom R c₀ :=
  h.count.raise.answer

theorem denyPresence {hd : Hdr} {op cause : Nat} : (s.denyPresence hd op cause).ReachedFrom R c₀ :=
  h.count.raise.answer

theorem takeRx {ch tag : Nat} : (s.takeRx ch tag).ReachedFrom R c₀ :=
  upd h (by rfl)

theorem command {hd : Hdr} {op : Nat} {isSealed fit : Bool} {act : State → State} (hact : ∀ u, u.ReachedFrom R c₀ → (act u).ReachedFrom R c₀) :
    (s.command hd op isSealed act fit).ReachedFrom R c₀ := by
  have hran : ((s.takeRx 0 hd.tag.toNat).count (regAddr Page.global 0x40) 1 |> act).ReachedFrom R c₀ := hact _ h.takeRx.count
  unfold State.command
  dsimp only
  refine ite h (ite h.takeRx.count ?_)
  split
  · exact upd h (by rfl)
  · refine ite h.takeRx.invalid ?_
    split
    · exact h.takeRx.refuse
    · exact ite h.takeRx.refuse (ite h.takeRx.invalid hran)
    · exact ite h.takeRx.denyPresence (ite h.takeRx.invalid hran)
    · exact ite h.takeRx.refuse (ite h.takeRx.invalid hran)

theorem startLong {hd : Hdr} {op : Nat} {arg : List Nat} : (s.startLong hd op arg).ReachedFrom R c₀ :=
  upd h.answer (by rfl)

theorem endLong {op status cause : Nat} : (s.endLong op status cause).ReachedFrom R c₀ := by
  unfold State.endLong
  split
  · exact h
  · exact raise (h.quietly (.amend _))

theorem execCommandReservedOpcode {hd : Hdr} {opcode : BitVec 16} : NextReached R c₀ (Machine.execCommandReservedOpcode hd opcode s) :=
  iteNext h.next (next (h.command fun _ hu => hu))

theorem execHold {hd : Hdr} : NextReached R c₀ (Machine.execHold hd s) :=
  next (h.command fun _ hu => answer (upd hu (by rfl)))

theorem execStop {hd : Hdr} : NextReached R c₀ (Machine.execStop hd s) :=
  next (h.command fun _ hu => hu.enter.answer)

theorem execMaintEnter {hd : Hdr} : NextReached R c₀ (Machine.execMaintEnter hd s) :=
  next (h.command fun _ hu => answer (enter (upd hu (by rfl))))

theorem execDebugUnlock {hd : Hdr} : NextReached R c₀ (Machine.execDebugUnlock hd s) :=
  next (h.command fun _ hu => answer (raise (upd hu (by rfl))))

theorem sigFail {op tag cause comp : Nat} : (s.sigFail op tag cause comp).ReachedFrom R c₀ :=
  h.count.raise

theorem execCadReacquire {hd : Hdr} : NextReached R c₀ (Machine.execCadReacquire hd s) :=
  next (h.command fun _ hu => startLong (upd hu (by rfl)))

theorem execLocked : NextReached R c₀ (Machine.execLocked s) :=
  iteNext (next (endLong (upd h (by rfl)))) h.next

theorem writeSrc {v : Word} : (s.writeSrc v).ReachedFrom R c₀ :=
  ite (upd h (by rfl)) h.setRw.keepLock

theorem execSrc {v : Word} : NextReached R c₀ (Machine.execSrc v s) :=
  h.writeSrc.next

theorem execLedgerAck {hd : Hdr} {step : DWord} : NextReached R c₀ (Machine.execLedgerAck hd step s) :=
  next (h.command fun _ hu => answer (upd hu (by rfl)))

theorem execPresenceNChange {level : Bool} : NextReached R c₀ (Machine.execPresenceNChange level s) :=
  iteNext h.next (iteNext (next (upd h (by rfl))) (next (upd h (by rfl))))

theorem execPresence : NextReached R c₀ (Machine.execPresence s) := by
  unfold Machine.execPresence
  split
  · exact h.next
  · exact iteNext (next (upd h (by rfl))) h.next

theorem execSealLoopChange {closed : Bool} : NextReached R c₀ (Machine.execSealLoopChange closed s) :=
  iteNext h.next (next (upd h (by rfl)))

theorem countPoison {grans : List Nat} : (s.countPoison grans).ReachedFrom R c₀ := by
  unfold State.countPoison
  refine foldl (fun _ _ hu => ?_) h
  split
  · exact ite hu.count hu
  · exact hu

theorem consume {u : MemUnit} {addr n mb : Nat} : (s.consume u addr n mb).2.2.ReachedFrom R c₀ := by
  unfold State.consume
  split
  · exact h.unmapped
  · exact h.countPoison

theorem bandEvent {key old : Nat} : (s.bandEvent key old).ReachedFrom R c₀ :=
  ite h h.raise

theorem corrected {key addr : Nat} : (s.corrected key addr).ReachedFrom R c₀ :=
  ite (raise (upd h (by rfl))) (upd h (by rfl))

theorem uncorrectable {key addr cause mb : Nat} : (s.uncorrectable key addr cause mb).ReachedFrom R c₀ :=
  h.count.setPoison.raise

theorem scrubbed {u : ScrubUnit} {f : ScrubFind} : (s.scrubbed u f).ReachedFrom R c₀ := by
  unfold State.scrubbed
  dsimp only
  split
  · exact corrected (ite h.used h)
  · exact ite h.used h
  · exact uncorrectable (ite h.used h)

theorem execPatrolScrub {u : ScrubUnit} {finds : List ScrubFind} : NextReached R c₀ (Machine.execPatrolScrub u finds s) :=
  iteNext h.next (iteNext h.next (next (count (upd (foldl (fun _ _ hu => hu.scrubbed) h) (by rfl)))))

theorem release : s.release.ReachedFrom R c₀ :=
  h.quietly (.release _)

theorem setLev {d t w v : Nat} : (s.setLev d t w v).ReachedFrom R c₀ :=
  upd h (by rfl)

theorem levReport {d t : Nat} {r : RangeReport} : (s.levReport d t r).ReachedFrom R c₀ :=
  h.setLev.setLev.setLev.setLev.setLev.setLev

theorem putLevEntry {d t : Nat} {e : LevEntry} : (s.putLevEntry d t e).ReachedFrom R c₀ :=
  upd h (by rfl)

theorem levSeal {d step : Nat} : (s.levSeal d step).ReachedFrom R c₀ :=
  foldl (fun _ _ hu => ite (count (ite hu.putLevEntry.count hu.putLevEntry)) (ite hu.putLevEntry.count hu.putLevEntry)) h

theorem writeLev {d t w : Nat} {v : Word} : (s.writeLev d t w v).ReachedFrom R c₀ :=
  ite h (ite h (upd h (by rfl)))

theorem execLeavenW0Write {d : Die} {v : Word} : NextReached R c₀ (Machine.execLeavenW0Write d v s) :=
  h.writeLev.next

end State.ReachedFrom
end Sys2Proof.Machine
end

section
/-! The control side: the links, the conduits and the configuration images. -/

namespace Sys2Proof.Machine
namespace State.ReachedFrom
variable {R : Control → Control → Prop} {c₀ : Control} {s : State} (h : s.ReachedFrom R c₀)
include h

theorem setSub {code : Nat} {x : SubPort} : (s.setSub code x).ReachedFrom R c₀ :=
  upd h (by rfl)

theorem updSub {code : Nat} {g : SubPort → SubPort} : (s.updSub code g).ReachedFrom R c₀ :=
  h.setSub

theorem portCount {code off n : Nat} : (s.portCount code off n).ReachedFrom R c₀ :=
  h.count

theorem badMessage {code group : Nat} : (s.badMessage code group).ReachedFrom R c₀ :=
  h.portCount.raise

theorem linkRaise {code ev lane cause : Nat} : (s.linkRaise code ev lane cause).ReachedFrom R c₀ :=
  h.raise

theorem portDown {code cause : Nat} : (s.portDown code cause).ReachedFrom R c₀ :=
  h.updSub.linkRaise

theorem trained {code : Nat} {r : TrainResult} : (s.trained code r).ReachedFrom R c₀ := by
  unfold State.trained
  dsimp only
  split
  · exact h.portDown
  · exact h.portDown
  · exact h.setSub

theorem formPort {n : Nat} : (s.formPort n).ReachedFrom R c₀ :=
  foldl (fun _ _ hu => hu.updSub) (upd (foldl (fun _ _ hv => hv.setSub) h) (by rfl))

theorem execTrainingEnd {code : PortCode} {r : TrainResult} : NextReached R c₀ (Machine.execTrainingEnd code r s) :=
  iteNext h.next (iteNext h.next (iteNext h.trained.next h.trained.endLong.next))

theorem putPlain {code typ : Nat} : (s.putPlain code typ).ReachedFrom R c₀ :=
  h.updSub.portCount

theorem putReplay {code : Nat} : (s.putReplay code).ReachedFrom R c₀ :=
  h.setSub.portCount

theorem sendFlit {code v : Nat} : (s.sendFlit code v).ReachedFrom R c₀ := by
  unfold State.sendFlit
  dsimp only
  split
  · exact h
  · exact h.setSub.portCount

theorem pump {code : Nat} : (s.pump code).ReachedFrom R c₀ := by
  unfold State.pump
  refine foldl (fun _ _ hu => ?_) h
  dsimp only
  refine ite hu ?_
  split
  · exact hu
  · exact hu.sendFlit

theorem sendMsg {code vc kind id src flags off : Nat} {data : List Byte} : (s.sendMsg code vc kind id src flags off data).ReachedFrom R c₀ :=
  h.updSub.pump

theorem heartbeat {code : Nat} : (s.heartbeat code).ReachedFrom R c₀ :=
  ite h.sendMsg h

theorem takeAck {code : Nat} {hd : FlitHdr} : (s.takeAck code hd).ReachedFrom R c₀ :=
  h.setSub

theorem fec {code : Nat} {hd : FlitHdr} : (s.fec code hd).ReachedFrom R c₀ :=
  portCount (portCount (upd h (by rfl)))

theorem resend {code : Nat} : (s.resend code).ReachedFrom R c₀ :=
  ite h (ite h.setSub h.setSub.portCount.putReplay)

theorem sendNak {code : Nat} : (s.sendNak code).ReachedFrom R c₀ :=
  ite h h.updSub.putPlain

theorem tellPeer {code : Nat} : (s.tellPeer code).ReachedFrom R c₀ := by
  unfold State.tellPeer
  exact ite (putPlain h.pump) h.pump

theorem receive {code vc : Nat} {bs : List Byte} : (s.receive code vc bs).ReachedFrom R c₀ :=
  ite h.badMessage h.updSub

theorem countFlit {code : Nat} {hd : FlitHdr} {crcOk : Bool} : (s.countFlit code hd crcOk).ReachedFrom R c₀ :=
  ite h.fec.portCount h.fec.portCount.portCount

theorem execDataFlit {code : PortCode} {f : Flit} : NextReached R c₀ (Machine.execDataFlit code f s) :=
  iteNext h.next (iteNext h.next (iteNext h.countFlit.sendNak.next
    (iteNext (next (tellPeer (ite h.countFlit.takeAck.sendNak h.countFlit.takeAck)))
    (next (tellPeer (ite h.countFlit.takeAck.setSub.receive h.countFlit.takeAck.setSub))))))

theorem execNakFlit {code : PortCode} {hd : FlitHdr} : NextReached R c₀ (Machine.execNakFlit code hd s) :=
  iteNext h.next (iteNext h.next (iteNext h.countFlit.takeAck.resend.pump.next h.countFlit.next))

theorem execIdleFlit {code : PortCode} {hd : FlitHdr} : NextReached R c₀ (Machine.execIdleFlit code hd s) :=
  iteNext h.next (iteNext h.next (iteNext h.countFlit.takeAck.pump.next h.countFlit.next))

theorem execAckTimeout {code : PortCode} : NextReached R c₀ (Machine.execAckTimeout code s) :=
  iteNext h.next (iteNext h.resend.next h.next)

theorem retireLane {code lane cause : Nat} : (s.retireLane code lane cause).ReachedFrom R c₀ :=
  ite h (ite h.setSub.portCount.linkRaise.portDown h.setSub.portCount.linkRaise.updSub.portCount)

theorem execLnkLaneRetired {code : PortCode} {uncorr : List (Fin 32 × Nat)} : NextReached R c₀ (Machine.execLnkLaneRetired code uncorr s) := by
  unfold Machine.execLnkLaneRetired
  refine iteNext h.next ?_
  dsimp only
  refine iteNext ?_ h.next
  split
  · exact h.retireLane.next
  · exact h.next

theorem execLaneMarginLimit {code : PortCode} {lane : Fin 32} : NextReached R c₀ (Machine.execLaneMarginLimit code lane s) :=
  iteNext h.next (iteNext h.retireLane.next h.next)

theorem takeMargin {n lane m : Nat} : (s.takeMargin n lane m).ReachedFrom R c₀ :=
  foldl (fun _ _ hu => ite hu.setSub hu) (upd h (by rfl))

theorem execLockLoss {code : PortCode} : NextReached R c₀ (Machine.execLockLoss code s) :=
  iteNext h.next (iteNext h.setSub.portCount.next h.next)

theorem execFastRetrainEnd {code : PortCode} {ok : Bool} : NextReached R c₀ (Machine.execFastRetrainEnd code ok s) :=
  iteNext h.next (iteNext h.next (iteNext h.setSub.putReplay.pump.next h.portDown.next))

theorem takeMsg {code kind : Nat} {m : List Byte} {t : State} (ht : s.takeMsg code kind = some (m, t)) : t.ReachedFrom R c₀ := by
  unfold State.takeMsg at ht
  dsimp only at ht
  split at ht <;> cases ht
  exact upd h (by rfl)

theorem execHeartbeat {code : PortCode} : NextReached R c₀ (Machine.execHeartbeat code s) := by
  unfold Machine.execHeartbeat
  refine iteNext h.next ?_
  split
  · exact h.next
  · exact iteNext (next (portCount (h.takeMsg ‹_›))) (next (updSub (h.takeMsg ‹_›)))

theorem execLnkPartition {code : PortCode} : NextReached R c₀ (Machine.execLnkPartition code s) :=
  iteNext h.next (iteNext h.setSub.linkRaise.next h.next)

theorem setCnd {k : Nat} {c : Conduit} : (s.setCnd k c).ReachedFrom R c₀ :=
  upd h (by rfl)

theorem sendFrom {code vc kind id src off : Nat} {bs : List Byte} {poison : Bool} :
    (s.sendFrom code vc kind id src off bs poison).ReachedFrom R c₀ :=
  foldl (fun _ _ hu => hu.sendMsg) h

theorem sendBytes {code vc kind id off : Nat} {bs : List Byte} {poison : Bool} : (s.sendBytes code vc kind id off bs poison).ReachedFrom R c₀ :=
  h.sendFrom

theorem cndStep {k : Nat} : (s.cndStep k).ReachedFrom R c₀ := by
  unfold State.cndStep
  dsimp only
  split
  · exact h
  · exact ite h h.loadFor.countPoison.setCnd.sendBytes

theorem cndPump {k : Nat} : (s.cndPump k).ReachedFrom R c₀ :=
  foldl (fun _ _ hu => hu.cndStep) h

theorem handToConduit {k : Nat} : (s.handToConduit k).ReachedFrom R c₀ :=
  h.setCnd.cndPump

theorem announceFree {k i : Nat} : (s.announceFree k i).ReachedFrom R c₀ :=
  sendMsg (upd h (by rfl))

theorem setFab {d : Nat} {f : FabDie} : (s.setFab d f).ReachedFrom R c₀ :=
  upd h (by rfl)

theorem updFab {d : Nat} {g : FabDie → FabDie} : (s.updFab d g).ReachedFrom R c₀ :=
  h.setFab

theorem setEng {d e : Nat} {x : Engine} : (s.setEng d e x).ReachedFrom R c₀ :=
  upd h (by rfl)

end State.ReachedFrom
end Sys2Proof.Machine
end

section
/-! The control side: the Chanters, the audits, the health monitors and the Bellows. -/

namespace Sys2Proof.Machine
namespace State.ReachedFrom
variable {R : Control → Control → Prop} {c₀ : Control} {s : State} (h : s.ReachedFrom R c₀)
include h

theorem setCh {d : Nat} {c : ChDie} : (s.setCh d c).ReachedFrom R c₀ :=
  upd h (by rfl)

theorem updCh {d : Nat} {g : ChDie → ChDie} : (s.updCh d g).ReachedFrom R c₀ :=
  h.setCh

theorem pipeRaise {d code : Nat} {u : Option (List Nat)} {layer cause extra : Nat} : (s.pipeRaise d code u layer cause extra).ReachedFrom R c₀ :=
  h.raise

theorem notify {kind : NoticeKind} {dest_ sender a b : Nat} : (s.notify kind dest_ sender a b).ReachedFrom R c₀ :=
  upd h (by rfl)

theorem notifyBoth {kind : NoticeKind} {d a b : Nat} : (s.notifyBoth kind d a b).ReachedFrom R c₀ :=
  h.notify.notify

theorem abandonStep {d cause : Nat} {stop : Bool} : (s.abandonStep d cause stop).ReachedFrom R c₀ :=
  ite h (pipeRaise (updCh (foldl (fun _ _ hu => ite hu hu.updCh.notifyBoth) h)))

theorem programFault {d cause : Nat} {u : Option (List Nat)} {layer : Nat} : (s.programFault d cause u layer).ReachedFrom R c₀ :=
  ite h h.updCh.pipeRaise.abandonStep

theorem zeroSlots {d mb : Nat} : (s.zeroSlots d mb).ReachedFrom R c₀ :=
  upd h (by rfl)

theorem dropMb {d mb cause : Nat} : (s.dropMb d mb cause).ReachedFrom R c₀ :=
  h.zeroSlots.setCh.count.pipeRaise

theorem disarm {d groups : Nat} : (s.disarm d groups).ReachedFrom R c₀ :=
  h.setRw

theorem holdMb {d : Nat} {u : List Nat} {cause : Nat} {back past : Bool} {layer : Nat} : (s.holdMb d u cause back past layer).ReachedFrom R c₀ :=
  ite h (ite h.setCh.disarm.count.pipeRaise.dropMb h.setCh.disarm.count.pipeRaise)

theorem damageStart {d eng seq cause layer : Nat} : (s.damageStart d eng seq cause layer).ReachedFrom R c₀ :=
  h.count.pipeRaise

theorem damageMb {d : Nat} {u : List Nat} {back : Bool} {tensors : List Nat} {eng seq cause layer : Nat} :
    (s.damageMb d u back tensors eng seq cause layer).ReachedFrom R c₀ :=
  ite (foldl (fun _ _ hu => hu.notifyBoth) h.count.pipeRaise) h.count.pipeRaise.dropMb

theorem issueAnswer {d e code : Nat} {seq : Option Nat} : (s.issueAnswer d e code seq).ReachedFrom R c₀ := by
  unfold State.issueAnswer
  split
  · exact h
  · exact ite h.setCh (ite h.setCh (ite h.setCh.holdMb h.setCh.programFault))

theorem execCreditAudit {d : Die} : NextReached R c₀ (Machine.execCreditAudit d s) := by
  unfold Machine.execCreditAudit
  refine iteNext h.next (iteNext h.next ?_)
  generalize s.creditAudit d (s.shadowOf d) = o
  exact iteNext h.count.updFab.next h.count.updFab.count.used.raise.next

theorem recomputeLife : s.recomputeLife.ReachedFrom R c₀ :=
  ite (raise (upd h (by rfl))) (upd h (by rfl))

theorem monSample {kind index : Nat} {v : ℚ} : (s.monSample kind index v).ReachedFrom R c₀ :=
  upd h (by rfl)

theorem execRingOscSample {samples : List (Pd × Fin 4 × Nat)} : NextReached R c₀ (Machine.execRingOscSample samples s) :=
  next (foldl (fun _ _ hu => hu.monSample) h)

theorem execRetentionCanary {crust : Fin 16} {windowMs : Nat} : NextReached R c₀ (Machine.execRetentionCanary crust windowMs s) :=
  iteNext (next (raise (count (bandEvent (upd h (by rfl)))))) (next (upd h (by rfl)))

theorem setTemp {key c : Nat} : (s.setTemp key c).ReachedFrom R c₀ :=
  upd h (by rfl)

theorem followBand {die : MemDie} {c : Nat} : (s.followBand die c).ReachedFrom R c₀ :=
  bandEvent (upd h (by rfl))

theorem readSensor {x : Sensor} {c : Nat} : (s.readSensor x c).ReachedFrom R c₀ := by
  unfold State.readSensor
  split
  · exact h.setTemp
  · exact h.setTemp.followBand

theorem execMemRefreshBand {die : MemDie} {c : Nat} : NextReached R c₀ (Machine.execMemRefreshBand die c s) :=
  h.readSensor.next

theorem execTempWarn {sensor : Sensor} {c : Nat} : NextReached R c₀ (Machine.execTempWarn sensor c s) :=
  iteNext (next (raise (count (upd h.readSensor (by rfl))))) h.readSensor.next

theorem setMode {e : Envelope} : (s.setMode e).ReachedFrom R c₀ :=
  recomputeLife (upd h (by rfl))

theorem raiseShed {cause : Nat} : (s.raiseShed cause).ReachedFrom R c₀ :=
  h.count.raise

theorem shed {cause : Nat} : (s.shed cause).ReachedFrom R c₀ := by
  unfold State.shed
  dsimp only
  split
  · exact upd h (by rfl)
  · exact ite h.raiseShed (upd h (by rfl))

theorem execSupplyAlert : NextReached R c₀ (Machine.execSupplyAlert s) :=
  iteNext (next (shed (upd h (by rfl)))) (next (upd h (by rfl)))

theorem execSupplyAlertRelease : NextReached R c₀ (Machine.execSupplyAlertRelease s) :=
  next (upd h (by rfl))

theorem execPllSwitch : NextReached R c₀ (Machine.execPllSwitch s) := by
  unfold Machine.execPllSwitch
  split
  · exact h.next
  · exact h.setMode.next
  · exact next (foldl (fun _ _ hu => hu.raiseShed) h.setMode)

theorem writeMode {v : Word} : (s.writeMode v).ReachedFrom R c₀ := by
  unfold State.writeMode
  dsimp only
  split
  · exact h.setRw
  · exact upd h.setRw (by rfl)

theorem execMode {v : Word} : NextReached R c₀ (Machine.execMode v s) :=
  h.writeMode.next

theorem startNarrow : s.startNarrow.ReachedFrom R c₀ := by
  unfold State.startNarrow
  split
  · exact upd h (by rfl)
  · exact upd h (by rfl)
  · exact h

theorem startWiden : s.startWiden.ReachedFrom R c₀ := by
  unfold State.startWiden
  split
  · exact ite (upd h (by rfl)) h
  · exact h

theorem execPwrRampRelaxed : NextReached R c₀ (Machine.execPwrRampRelaxed s) :=
  iteNext (next (raise (count (upd h (by rfl))))) h.next

theorem supplyEvent {cause value last : Nat} : (s.supplyEvent cause value last).ReachedFrom R c₀ :=
  h.raise

theorem setHold {n : Nat} : (s.setHold n).ReachedFrom R c₀ :=
  upd h (by rfl)

theorem supplyEffect {m : SupplyMsg} : (s.supplyEffect m).ReachedFrom R c₀ := by
  unfold State.supplyEffect
  split
  · exact h.setRw.supplyEvent
  · exact h.setHold.supplyEvent
  · exact h.shed.supplyEvent
  · dsimp only
    refine supplyEvent ?_
    split
    · exact h.count.setHold
    · exact h.count.shed
    · exact h.count

theorem supplyCommand {hd : Hdr} {tick : DWord} {ok : Bool} {m : SupplyMsg} : (s.supplyCommand hd tick ok m).ReachedFrom R c₀ :=
  h.command fun _ hu => ite hu.invalid (ite hu.supplyEffect.answer (answer (upd hu (by rfl))))

theorem execCap {hd : Hdr} {watts : Word} {tick : DWord} : NextReached R c₀ (Machine.execCap hd watts tick s) :=
  h.supplyCommand.next

theorem execSupplyHold {hd : Hdr} {ticks : Word} {tick : DWord} : NextReached R c₀ (Machine.execSupplyHold hd ticks tick s) :=
  h.supplyCommand.next

theorem execShed {hd : Hdr} {tick : DWord} : NextReached R c₀ (Machine.execShed hd tick s) :=
  h.supplyCommand.next

theorem execFreqDev {hd : Hdr} {mHz action : Word} {tick : DWord} : NextReached R c₀ (Machine.execFreqDev hd mHz action tick s) :=
  h.supplyCommand.next

theorem execSupplyMsgTick : NextReached R c₀ (Machine.execSupplyMsgTick s) := by
  unfold Machine.execSupplyMsgTick
  split
  · exact h.next
  · exact next (supplyEffect (upd h (by rfl)))

theorem execHoldExpiry : NextReached R c₀ (Machine.execHoldExpiry s) :=
  iteNext (next (upd h (by rfl))) h.next

theorem execDroop {pd : Pd} : NextReached R c₀ (Machine.execDroop pd s) :=
  iteNext (next (count (upd h (by rfl)))) h.next

theorem execDroopEnd {pd : Pd} {ac : Nat} : NextReached R c₀ (Machine.execDroopEnd pd ac s) :=
  iteNext (next (count (upd h (by rfl)))) h.next

theorem rampDone {n : Nat} : (s.rampDone n).ReachedFrom R c₀ :=
  ite (count (upd h (by rfl))) h

theorem trim {n : Nat} {t : Trim} : (s.trim n t).ReachedFrom R c₀ :=
  ite (upd h (by rfl)) h

theorem execTempLimit {pd : Pd} {c : Nat} : NextReached R c₀ (Machine.execTempLimit pd c s) :=
  iteNext (next (shed (raise (count (count (upd h (by rfl))))))) h.setTemp.next

end State.ReachedFrom
end Sys2Proof.Machine
end

section
/-! The control side: the engines. -/

namespace Sys2Proof.Machine
namespace State.ReachedFrom
variable {R : Control → Control → Prop} {c₀ : Control} {s : State} (h : s.ReachedFrom R c₀)
include h

theorem refuseMpd {d e code : Nat} {x : Engine} {pl : List Byte} : (s.refuseMpd d e code x pl).ReachedFrom R c₀ :=
  h.setEng.count.raise.issueAnswer

theorem execMpdAccept {d : Die} {r : EngRead} : NextReached R c₀ (Machine.execMpdAccept d r s) := by
  unfold Machine.execMpdAccept
  refine iteNext h.next ?_
  dsimp only
  refine iteNext h.next ?_
  refine iteNext h.refuseMpd.next ?_
  refine iteNext h.refuseMpd.next ?_
  refine iteNext h.refuseMpd.next ?_
  split
  · exact h.refuseMpd.next
  · exact h.setEng.count.count.issueAnswer.next

theorem execDescriptorRecord {d : Die} {e : Eng} : NextReached R c₀ (Machine.execDescriptorRecord d e s) :=
  iteNext h.next (iteNext h.next h.setEng.issueAnswer.next)

theorem putTile {addrs : List Nat} {t : STile} : (s.putTile addrs t).ReachedFrom R c₀ :=
  foldl (fun _ _ hu => ite hu.store.setPoisons hu.store) h

theorem stopLane {d e i lane code : Nat} : (s.stopLane d e i lane code).ReachedFrom R c₀ := by
  unfold State.stopLane
  dsimp only
  split
  · exact h
  · split
    · exact h
    · exact h.setEng

theorem mcFault {d e lst i code : Nat} {pl : List Byte} : (s.mcFault d e lst i code pl).ReachedFrom R c₀ :=
  raise (updFab (setEng (foldl (fun _ _ hu => hu.stopLane) h)))

theorem mcMismatch {d e lst i : Nat} {j : Job} {pos : Nat} : (s.mcMismatch d e lst i j pos).ReachedFrom R c₀ :=
  h.mcFault

theorem fetchTile {d : Die} {e : Eng} {m : Mpd} {lane : Nat} {p : PassIx} : (s.fetchTile d e m lane p).2.ReachedFrom R c₀ := by
  unfold State.fetchTile
  dsimp only
  split
  · exact h.countPoison.unmapped
  · exact h.countPoison

theorem fetchUnit {d : Die} {e : Eng} {i : Nat} {j : Job} {pos : Nat} : (s.fetchUnit d e i j pos).ReachedFrom R c₀ := by
  unfold State.fetchUnit
  dsimp only
  refine ite h (count (foldl (fun _ _ hu => hu.setEng) (setEng ?_)))
  exact foldlSnd (fun _ _ ha => ha.fetchTile) h

theorem fetchRing {d : Die} {e : Eng} {i : Nat} {j : Job} {l : LaneProg} {pos : Nat} : (s.fetchRing d e i j l pos).ReachedFrom R c₀ :=
  ite h h.fetchTile.putTile.setEng.count

theorem execTileFetch {d : Die} {e : Eng} {a : Arr} {hd : Half} : NextReached R c₀ (Machine.execTileFetch d e a hd s) := by
  unfold Machine.execTileFetch
  refine iteNext h.next ?_
  split
  · exact h.next
  · split
    · exact h.next
    · split
      · exact h.next
      · exact iteNext h.next (iteNext h.fetchUnit.next h.fetchRing.next)

theorem freeRings {d e : Nat} {m : Mpd} {keep : List Mpd} : (s.freeRings d e m keep).ReachedFrom R c₀ :=
  foldl (fun _ _ hu => hu.updFab) h

theorem reportInv {d : Nat} {m : Mpd} {lane n : Nat} : (s.reportInv d m lane n).ReachedFrom R c₀ :=
  h.levReport

theorem loadShadow {d e i lane : Nat} : (s.loadShadow d e i lane).ReachedFrom R c₀ := by
  unfold State.loadShadow
  obtain ⟨take, htake⟩ : ∃ take, take = State.takeTile := ⟨_, rfl⟩
  rw [← htake]
  clear htake
  extract_lets x
  split
  · exact h
  · split
    · exact h
    · split
      · exact h
      · split
        · exact h
        · exact h.setEng.reportInv

theorem noteLoads {d e a : Nat} : (s.noteLoads d e a).ReachedFrom R c₀ :=
  h.setEng

theorem reloadActive {d e i : Nat} {j : Job} {l : LaneProg} : (s.reloadActive d e i j l).ReachedFrom R c₀ :=
  h.setEng

theorem obCorrected {d e n : Nat} : (s.obCorrected d e n).ReachedFrom R c₀ :=
  h.count

theorem execShadowLoadDone {d : Die} {e : Eng} {a : Arr} {hd : HalfRead} : NextReached R c₀ (Machine.execShadowLoadDone d e a hd s) := by
  unfold Machine.execShadowLoadDone
  refine iteNext h.next ?_
  dsimp only
  split
  · exact h.next
  · exact iteNext h.next (next (ite h.noteLoads.obCorrected.reloadActive h.noteLoads.obCorrected.loadShadow))

theorem execPreload {d : Die} {e : Eng} {a : Arr} {hd : HalfRead} : NextReached R c₀ (Machine.execPreload d e a hd s) := by
  unfold Machine.execPreload
  refine iteNext h.next ?_
  dsimp only
  split
  · exact h.next
  · exact iteNext h.obCorrected.loadShadow.next h.next

theorem storeBits {plane off n v : Nat} : (s.storeBits plane off n v).ReachedFrom R c₀ :=
  h.storeNat

theorem storeBitsFor {u : MemUnit} {plane off n v : Nat} : (s.storeBitsFor u plane off n v).ReachedFrom R c₀ :=
  ite h h.storeBits

theorem rowFaults {u : MemUnit} {mb : Nat} {addrs : List Nat} : (s.rowFaults u mb addrs).ReachedFrom R c₀ := by
  unfold State.rowFaults
  refine foldl (fun _ _ hu => ?_) h
  split
  · exact hu.unmapped
  · exact hu

theorem putHeader {d e seq lane0 : Nat} : (s.putHeader d e seq lane0).ReachedFrom R c₀ := by
  unfold State.putHeader
  dsimp only
  split
  · exact h
  · refine ite h ?_
    split
    · exact h.setEng
    · exact h.setEng.storeFor

theorem countLane {d e : Nat} {m : Mpd} {lane off step n : Nat} : (s.countLane d e m lane off step n).ReachedFrom R c₀ :=
  foldl (fun _ _ hu => hu.count) h

theorem skipRest {d e : Nat} {j : Job} : (s.skipRest d e j).ReachedFrom R c₀ :=
  foldl (fun _ _ hu => ite hu.countLane hu) h

theorem chanterStatus {d e : Nat} {j : Job} : (s.chanterStatus d e j).ReachedFrom R c₀ := by
  unfold State.chanterStatus
  extract_lets c s1
  split
  · exact h
  · extract_lets u layer unit s2
    have h2 : s2.ReachedFrom R c₀ := by
      unfold s2
      split
      · exact ite h.setCh.holdMb h.setCh
      · exact h.setCh
    split
    · exact h2
    · exact ite h2.damageStart h2.damageMb

theorem completeJob {d e i : Nat} : (s.completeJob d e i).ReachedFrom R c₀ := by
  unfold State.completeJob
  split
  · exact h
  · exact chanterStatus (count (count (count (freeRings (setEng (ite h (foldl (fun _ _ hu => hu.putHeader) h.skipRest)))))))

theorem execMpdComplete {d : Die} {e : Eng} {a : Arr} : NextReached R c₀ (Machine.execMpdComplete d e a s) := by
  unfold Machine.execMpdComplete
  refine iteNext h.next ?_
  dsimp only
  split
  · exact h.next
  · exact iteNext h.completeJob.next h.next

theorem execEmptyMpd {d : Die} {e : Eng} {a : Arr} : NextReached R c₀ (Machine.execEmptyMpd d e a s) := by
  unfold Machine.execEmptyMpd
  refine iteNext h.next ?_
  dsimp only
  split
  · exact h.next
  · exact iteNext h.next (iteNext h.setEng.count.completeJob.next h.setEng.count.next)

theorem startLane {d e i lane : Nat} {r : Ready} : (s.startLane d e i lane r).ReachedFrom R c₀ := by
  unfold State.startLane
  dsimp only
  split
  · exact h
  · split
    · exact h
    · exact ite h.setEng.noteLoads.countLane h.setEng.noteLoads

theorem countBusy {d e : Nat} {j : Job} {rs : List (Nat × Ready)} : (s.countBusy d e j rs).ReachedFrom R c₀ :=
  foldl (fun _ _ hu => hu.count) h

theorem engWaits {d e : Nat} {offs : List Nat} : (s.engWaits d e offs).ReachedFrom R c₀ :=
  foldl (fun _ _ hu => hu.waited) h

theorem execPassStart {d : Die} {e : Eng} {a : Arr} {hd : HalfRead} : NextReached R c₀ (Machine.execPassStart d e a hd s) := by
  unfold Machine.execPassStart
  refine iteNext h.next ?_
  dsimp only
  split
  · exact h.next
  · split
    · exact h.next
    · exact next (engWaits (countBusy (foldl (fun _ _ hu => hu.startLane) h.obCorrected)))

theorem reportReplayed {d e : Nat} {m : Mpd} {lane no : Nat} {chk : Option (Nat × Nat × Nat)} :
    (s.reportReplayed d e m lane no chk).ReachedFrom R c₀ := by
  unfold State.reportReplayed
  split
  · exact h
  · exact h.count.raise

theorem execPassAccept {d : Die} {e : Eng} {a : Arr} {hd : Half} : NextReached R c₀ (Machine.execPassAccept d e a hd s) := by
  unfold Machine.execPassAccept
  refine iteNext h.next ?_
  extract_lets x lane ar
  split
  · exact h.next
  · extract_lets m lp p no last rows
    refine iteNext h.next ?_
    split
    · exact h.next
    · extract_lets t1 sp t2 x1 x2 s1 s2 s3 s4 s5
      have h1 : s1.ReachedFrom R c₀ := h.setEng.reportInv
      have h2 : s2.ReachedFrom R c₀ := ite h1.countLane h1
      have h3 : s3.ReachedFrom R c₀ := ite h2.count h2
      have h4 : s4.ReachedFrom R c₀ := ite h3.count h3
      exact next (ite h4.reportReplayed.raise h4.reportReplayed)

theorem idleCheck {d e ar : Nat} : (s.idleCheck d e ar).ReachedFrom R c₀ :=
  ite h.count h

theorem checkReplay {d e i : Nat} {j : Job} {l : LaneProg} {chk : Nat × Nat × Nat} : (s.checkReplay d e i j l chk).ReachedFrom R c₀ :=
  h.noteLoads.setEng

theorem execCheckFailure {d : Die} {e : Eng} {a : Arr} {hd : Half} {kind : CheckKind} {index : BitVec 16} :
    NextReached R c₀ (Machine.execCheckFailure d e a hd kind index s) := by
  unfold Machine.execCheckFailure
  refine iteNext h.next ?_
  dsimp only
  split
  · exact h.idleCheck.next
  · exact iteNext h.idleCheck.next (iteNext h.checkReplay.next h.stopLane.setEng.raise.next)

theorem execOverflow {d : Die} {e : Eng} {a : Arr} {hd : Half} : NextReached R c₀ (Machine.execOverflow d e a hd s) := by
  unfold Machine.execOverflow
  refine iteNext h.next ?_
  dsimp only
  split
  · exact h.next
  · exact iteNext h.next (next (ite h.setEng.count h.setEng))

theorem execRung3Move {d : Die} {e : Eng} {a : Arr} {hd : Half} : NextReached R c₀ (Machine.execRung3Move d e a hd s) := by
  unfold Machine.execRung3Move
  refine iteNext h.next ?_
  dsimp only
  split
  · exact h.next
  · exact iteNext h.next h.setEng.next

theorem execEngOperandUncorrectable {d : Die} {e : Eng} {a : Arr} {hd : Half} {shared : Bool} :
    NextReached R c₀ (Machine.execEngOperandUncorrectable d e a hd shared s) := by
  unfold Machine.execEngOperandUncorrectable
  refine iteNext h.next ?_
  dsimp only
  split
  · exact h.next
  · exact iteNext h.next (next (raise (foldl (fun _ _ hu => hu.stopLane) h)))

theorem execDrain {d : Die} {e : Eng} {a : Arr} : NextReached R c₀ (Machine.execDrain d e a s) := by
  unfold Machine.execDrain
  refine iteNext h.next ?_
  dsimp only
  split
  · exact h.next
  · exact iteNext h.next h.setEng.next

theorem writeRow {d mb : Nat} {t : List Nat} {v : LevView} {c0 : Coord} {bs : List (Nat × List Nat)} :
    (s.writeRow d mb t v c0 bs).ReachedFrom R c₀ := by
  unfold State.writeRow
  split
  · exact h
  · exact foldl (fun _ _ hu => ite (storeBitsFor (foldl (fun _ _ hv => hv.storeBitsFor) hu))
      (foldl (fun _ _ hw => hw.storeBitsFor) hu)) h.rowFaults

theorem execEpilogueRow {d : Die} {e : Eng} {a : ArrRead} : NextReached R c₀ (Machine.execEpilogueRow d e a s) := by
  unfold Machine.execEpilogueRow
  refine iteNext h.next ?_
  dsimp only
  split
  · exact h.next
  · refine iteNext h.next ?_
    split
    · exact next (setEng (writeRow (levReport (putHeader (ite h.obCorrected.engWaits h)))))
    · exact next (raise (count (setEng (writeRow (levReport (putHeader (ite h.obCorrected.engWaits h)))))))

theorem execBallastPass {d : Die} {e : Eng} {a : Arr} : NextReached R c₀ (Machine.execBallastPass d e a s) :=
  iteNext h.next (iteNext (next (upd h.setEng.count (by rfl))) h.next)

theorem holdUnit {d e lst i : Nat} {j : Job} {u : McUnit} : (s.holdUnit d e lst i j u).ReachedFrom R c₀ :=
  setEng (foldl (fun _ _ hu => hu.putTile) h)

theorem execMulticastUnit {d : Die} {e : Eng} {lst : Fin 64} : NextReached R c₀ (Machine.execMulticastUnit d e lst s) := by
  unfold Machine.execMulticastUnit
  refine iteNext h.next ?_
  dsimp only
  split
  · exact h.next
  · split
    · exact next (ite h.setEng.count h)
    · split
      · exact h.next
      · exact iteNext h.setEng.count.holdUnit.next h.setEng.count.mcMismatch.next

theorem execSeqMcastStall {d : Die} {e : Eng} {lst : Fin 64} : NextReached R c₀ (Machine.execSeqMcastStall d e lst s) := by
  unfold Machine.execSeqMcastStall
  refine iteNext h.next ?_
  split
  · exact h.next
  · refine iteNext h.next ?_
    split
    · exact h.next
    · exact h.mcFault.next

end State.ReachedFrom
end Sys2Proof.Machine
end

section
/-! The control side: the fabric, the phase programs, the swaps and the KV streams. -/

namespace Sys2Proof.Machine
namespace State.ReachedFrom
variable {R : Control → Control → Prop} {c₀ : Control} {s : State} (h : s.ReachedFrom R c₀)
include h

theorem setKv {d : Nat} {k : KvDie} : (s.setKv d k).ReachedFrom R c₀ :=
  upd h (by rfl)

theorem kvCount {d off n : Nat} : (s.kvCount d off n).ReachedFrom R c₀ :=
  h.count

theorem setKvEntry {q : KvSeq} {st j : Nat} {page : Option Nat} : (s.setKvEntry q st j page).ReachedFrom R c₀ :=
  h.storeNat

theorem kvRaise {d code q op page st n : Nat} : (s.kvRaise d code q op page st n).ReachedFrom R c₀ :=
  h.raise

theorem kvCodes {d page pos : Nat} {v : Bool} : (s.kvCodes d page pos v).2.2.ReachedFrom R c₀ :=
  h.consume

theorem kvRead {d : Nat} {x0 : SpRun} : (s.kvRead d x0).2.2.2.2.ReachedFrom R c₀ := by
  unfold State.kvRead
  dsimp only
  split
  · exact h
  · split
    · exact ite h.kvCount h
    · split
      · exact h.kvCodes.kvCodes
      · exact h.consume

theorem kvWrite {d : Nat} {x0 : SpRun} {bs : List Byte} : (s.kvWrite d x0 bs).2.ReachedFrom R c₀ := by
  unfold State.kvWrite
  dsimp only
  split
  · exact h
  · split
    · exact ite h.kvCount h
    · split
      · exact h.storeFor.storeFor
      · exact h.storeFor

theorem lsUncorrectable {d r : Nat} : (s.lsUncorrectable d r).ReachedFrom R c₀ :=
  h.setFab.raise.abandonStep

theorem joinQueue {d r : Nat} {rec0 : List Nat} {c k : Nat} {e : Entry} : (s.joinQueue d r rec0 c k e).ReachedFrom R c₀ :=
  ite h.setFab.storeNat h.setFab

theorem move {d : Nat} {rec0 : List Nat} {r src c : Nat} {t : State} (ht : s.move d rec0 r src c = some t) : t.ReachedFrom R c₀ := by
  unfold State.move at ht
  split at ht
  · obtain ⟨-, ht⟩ := Option.ite_none_right_eq_some.mp ht
    cases ht
    exact h.setFab.joinQueue
  · cases ht

theorem moveQueue {d : Nat} {rec0 : List Nat} {r src : Nat} : (s.moveQueue d rec0 r src).1.ReachedFrom R c₀ := by
  unfold State.moveQueue
  dsimp only
  split
  · exact h.setFab
  · split
    · exact h
    · split
      · exact h.lsUncorrectable
      · refine foldlFst (fun _ _ hu => ?_) h
        split
        · exact hu.move ‹_›
        · exact hu

theorem moveReeds {d : Nat} : (s.moveReeds d).1.ReachedFrom R c₀ := by
  delta State.moveReeds
  generalize List.filter _ _ = keys
  refine foldlFst (l := keys) (fun _ _ ha => ?_) h
  dsimp only
  exact ha.moveQueue

theorem inPort {d e i : Nat} {t : State} (ht : s.inPort d e i = some t) : t.ReachedFrom R c₀ := by
  unfold State.inPort at ht
  dsimp only at ht
  split at ht
  · cases ht
  · obtain ⟨-, ht⟩ := Option.ite_none_left_eq_some.mp ht
    cases ht
    exact store (setFab h)

theorem portPoison {d mb addr : Nat} : (s.portPoison d mb addr).ReachedFrom R c₀ := by
  unfold State.portPoison
  dsimp only
  split
  · exact h.raise
  · exact h.raise.damageMb

theorem portRead {d p : Nat} {t : State} (ht : s.portRead d p = some t) : t.ReachedFrom R c₀ := by
  unfold State.portRead at ht
  dsimp only at ht
  obtain ⟨-, ht⟩ := Option.ite_none_left_eq_some.mp ht
  split at ht
  · cases ht
    exact foldl (fun _ _ hu => hu.portPoison) h.kvRead.setFab
  · split at ht
    · cases ht
      refine ite (portPoison (setFab ?_)) (setFab ?_) <;>
      · split
        · exact h
        · exact h.consume
    · cases ht
      exact ite h.consume.setFab.portPoison h.consume.setFab

theorem portHeader {d p addr mb : Nat} {bs : List Byte} : (s.portHeader d p addr mb bs).ReachedFrom R c₀ := by
  unfold State.portHeader
  split
  · exact upd h (by rfl)
  · exact h.storeFor

theorem portStore {d p addr mb : Nat} {bs : List Byte} : (s.portStore d p addr mb bs).ReachedFrom R c₀ :=
  h.storeFor

theorem portWrite {d p : Nat} {t : State} (ht : s.portWrite d p = some t) : t.ReachedFrom R c₀ := by
  unfold State.portWrite at ht
  dsimp only at ht
  split at ht
  · cases ht
  · split at ht
    · cases ht
      exact h.setFab.setKv
    · split at ht
      · obtain ⟨-, ht⟩ := Option.ite_none_left_eq_some.mp ht
        cases ht
        exact h.kvWrite.setFab
      · obtain ⟨-, ht⟩ := Option.ite_none_left_eq_some.mp ht
        obtain ⟨-, ht⟩ := Option.ite_none_left_eq_some.mp ht
        cases ht
        exact h.setFab.portStore

theorem moveRound {d : Nat} {ports engines places : List Nat} : (s.moveRound d ports engines places).1.ReachedFrom R c₀ := by
  unfold State.moveRound
  dsimp only
  split
  · exact h.moveReeds
  · refine foldlFst (fun _ _ ha => ?_) (foldlFst (fun _ _ ha => foldlFst (fun _ _ hb => ?_) (ite ha (setEng (setFab ha)))) h.moveReeds)
    · exact tryMove (tryMove ha fun _ _ hu ht => hu.portRead ht) fun _ _ hu ht => hu.portWrite ht
    · refine tryMove (tryMove hb fun _ _ hu ht => ?_) fun _ _ hu ht => hu.inPort ht
      obtain ⟨f, -, rfl⟩ := Option.map_eq_some_iff.mp ht
      exact hu.setFab

theorem moveOnce {d : Nat} : (s.moveOnce d).1.ReachedFrom R c₀ :=
  h.moveRound

theorem settleN {d n : Nat} : (s.settleN d n).ReachedFrom R c₀ := by
  induction n generalizing s with
  | zero => exact h
  | succ n ih => exact ite (ih h.moveOnce) h.moveOnce

theorem settle {d : Nat} : (s.settle d).ReachedFrom R c₀ :=
  h.settleN

theorem tokenInvalid {d who port token : Nat} : (s.tokenInvalid d who port token).ReachedFrom R c₀ :=
  h.count.raise.programFault

theorem holdRun {d mb code : Nat} : (s.holdRun d mb code).ReachedFrom R c₀ := by
  unfold State.holdRun
  split
  · exact h.holdMb
  · exact h

theorem limitOver {d who port v mb : Nat} : (s.limitOver d who port v mb).ReachedFrom R c₀ :=
  h.count.raise.holdRun

theorem kvRunStart {d p run word : Nat} {f : FabDie} : (s.kvRunStart d p run word f).ReachedFrom R c₀ :=
  ite h.setFab.limitOver (ite h.setFab.setKv.kvRaise h.setFab.setKv)

theorem execStreamRun {d : Die} {p : Sp} : NextReached R c₀ (Machine.execStreamRun d p s) := by
  unfold Machine.execStreamRun
  refine iteNext h.next ?_
  dsimp only
  refine iteNext h.next ?_
  refine iteNext ?_ ?_
  · split
    · exact h.kvRunStart.settle.next
    · exact h.next
  · refine iteNext h.next ?_
    split
    · exact h.next
    · exact iteNext h.setFab.limitOver.next (next (settle (ite h.setFab.portHeader h.setFab)))

theorem boundEnd {d p : Nat} : (s.boundEnd d p).ReachedFrom R c₀ :=
  ite (upd (ite h h.setKv) (by rfl)) (ite h h.setKv)

theorem ringEntry {d p : Nat} : (s.ringEntry d p).ReachedFrom R c₀ := by
  unfold State.ringEntry
  dsimp only
  refine ite h ?_
  split
  · exact h.handToConduit
  · exact h

theorem execStreamRunEnd {d : Die} {p : Sp} : NextReached R c₀ (Machine.execStreamRunEnd d p s) :=
  iteNext h.next (iteNext h.next h.ringEntry.setFab.boundEnd.settle.next)

theorem popPort {d r p : Nat} : (s.popPort d r p).ReachedFrom R c₀ := by
  unfold State.popPort
  split
  · exact h
  · exact h.setFab

theorem pushOut {d r p : Nat} {e : Entry} : (s.pushOut d r p e).ReachedFrom R c₀ :=
  h.setFab

theorem instrValue {d r : Nat} {i : RInstr} : (s.instrValue d r i).2.ReachedFrom R c₀ := by
  unfold State.instrValue
  dsimp only
  split
  · exact h
  · exact h
  · exact h
  · exact h
  · exact h
  · exact h
  · exact h
  · exact h
  · exact h
  · exact h.levReport
  · exact h.levReport
  · exact h
  · exact h
  · exact h
  · exact h

theorem writeDst {d r : Nat} {i : RInstr} {v : Nat} : (s.writeDst d r i v).ReachedFrom R c₀ :=
  ite h.setFab (ite h.pushOut.used (ite h.setFab (ite h.pushOut (ite (ite h.storeNat h.storeNat) h))))

theorem instr {d r : Nat} {i : RInstr} : (s.instr d r i).ReachedFrom R c₀ := by
  unfold State.instr
  split
  · exact h
  · exact h.pushOut
  · exact writeDst (foldl (fun _ _ hu => hu.popPort) h.instrValue)

theorem body {d r : Nat} {b : List RInstr} : (s.body d r b).ReachedFrom R c₀ :=
  foldl (fun _ _ hu => hu.instr) h

theorem loadLimit {d r i : Nat} : (s.loadLimit d r i).ReachedFrom R c₀ := by
  unfold State.loadLimit
  dsimp only
  refine ite h ?_
  split
  · exact h
  · exact ite h.popPort.setFab.limitOver h.popPort.setFab

theorem loadLimits {d r : Nat} : (s.loadLimits d r).ReachedFrom R c₀ :=
  foldl (fun _ _ hu => hu.loadLimit) h

theorem noteIssue {d r : Nat} : (s.noteIssue d r).ReachedFrom R c₀ :=
  ite h.updFab h

theorem execReedFiring {d : Die} {r : Reed} : NextReached R c₀ (Machine.execReedFiring d r s) :=
  iteNext h.next (iteNext h.loadLimits.next (iteNext h.loadLimits.lsUncorrectable.next h.loadLimits.noteIssue.body.setFab.settle.next))

theorem execCounterWrap {d : Die} {r : Reed} {c : Fin 4} : NextReached R c₀ (Machine.execCounterWrap d r c s) := by
  unfold Machine.execCounterWrap
  refine iteNext h.next ?_
  extract_lets s0 rec0 x b x1 x2 s1 s2 s3 reed s5 s4
  have h0 : s0.ReachedFrom R c₀ := h.loadLimits
  have h2 : s2.ReachedFrom R c₀ := ite h0.setFab.pushOut h0.setFab
  have h3 : s3.ReachedFrom R c₀ := h2.noteIssue.body
  have h4 : s4.ReachedFrom R c₀ := ite (ite h3.setFab.pushOut h3.setFab) h3
  exact iteNext h0.next (iteNext h0.lsUncorrectable.next h4.settle.next)

theorem goAtReed {d r kind : Nat} : (s.goAtReed d r kind).ReachedFrom R c₀ := by
  unfold State.goAtReed
  split
  · exact h
  · exact ite h (ite h.popPort.tokenInvalid.settle (ite h h.popPort.setFab.settle))

theorem goAtPort {d p kind : Nat} : (s.goAtPort d p kind).ReachedFrom R c₀ := by
  unfold State.goAtPort
  dsimp only
  split
  · exact h
  · exact ite h (ite h.setFab.tokenInvalid.settle (ite h h.setFab.settle))

theorem tokenAtChanter {d c kind : Nat} : (s.tokenAtChanter d c kind).ReachedFrom R c₀ := by
  unfold State.tokenAtChanter
  dsimp only
  split
  · exact h
  · exact ite h (ite h.setFab.settle h.setFab.tokenInvalid.settle)

theorem wrongKind {d : Nat} {t : TokenTarget} {kind : Nat} : (s.wrongKind d t kind).ReachedFrom R c₀ := by
  unfold State.wrongKind
  split
  · split
    · exact h
    · exact ite h.popPort.tokenInvalid.settle h
  · dsimp only
    split
    · exact h
    · exact ite h.setFab.tokenInvalid.settle h
  · exact h.tokenAtChanter

theorem goToken {d : Nat} {t : TokenTarget} {kind : Nat} : (s.goToken d t kind).ReachedFrom R c₀ := by
  unfold State.goToken
  split
  · exact h.goAtReed
  · exact h.goAtPort
  · exact h.tokenAtChanter

theorem execGoToken {d : Die} {t : TokenTarget} : NextReached R c₀ (Machine.execGoToken d t s) :=
  iteNext h.next h.goToken.next

theorem execEndToken {d : Die} {t : TokenTarget} : NextReached R c₀ (Machine.execEndToken d t s) :=
  iteNext h.next h.goToken.next

theorem execDoneToken {d : Die} {t : TokenTarget} : NextReached R c₀ (Machine.execDoneToken d t s) :=
  iteNext h.next h.goToken.next

theorem execPhaseToken {d : Die} {t : TokenTarget} : NextReached R c₀ (Machine.execPhaseToken d t s) :=
  iteNext h.next h.wrongKind.next

theorem steered {d r n : Nat} : (s.steered d r n).ReachedFrom R c₀ :=
  ite h.noteIssue.setFab.popPort.settle h.noteIssue.setFab.settle

theorem execSel {d : Die} {t : TokenTarget} : NextReached R c₀ (Machine.execSel d t s) := by
  unfold Machine.execSel
  refine iteNext h.next ?_
  split
  · dsimp only
    split
    · exact h.loadLimits.next
    · refine iteNext h.loadLimits.next ?_
      refine iteNext h.loadLimits.wrongKind.next ?_
      split
      · exact h.loadLimits.next
      · exact iteNext h.loadLimits.next h.loadLimits.popPort.pushOut.steered.next
  · exact h.wrongKind.next

theorem execBr {d : Die} {t : TokenTarget} : NextReached R c₀ (Machine.execBr d t s) := by
  unfold Machine.execBr
  refine iteNext h.next ?_
  split
  · dsimp only
    split
    · exact h.loadLimits.next
    · refine iteNext h.loadLimits.next ?_
      refine iteNext h.loadLimits.wrongKind.next ?_
      split
      · exact h.loadLimits.next
      · exact iteNext h.loadLimits.next (next (steered (ite h.loadLimits.popPort.pushOut h.loadLimits.popPort)))
  · exact h.wrongKind.next

theorem execFabStarve {d : Die} {r : Reed} : NextReached R c₀ (Machine.execFabStarve d r s) :=
  iteNext h.next (iteNext h.next h.setFab.count.raise.abandonStep.next)

theorem execStepStart {d : Die} : NextReached R c₀ (Machine.execStepStart d s) :=
  iteNext h.next h.setCh.next

theorem takeIngest {d : Nat} : (s.takeIngest d).ReachedFrom R c₀ :=
  ite h (ite h.setCh (ite (ite h.setCh.pipeRaise.holdMb h.setCh.count.pipeRaise) (ite h.setCh h.setCh.count.pipeRaise)))

theorem noteSegments {d : Nat} {u : List Nat} : (s.noteSegments d u).ReachedFrom R c₀ :=
  ite h.setCh.notifyBoth h

theorem execForwardPhase {d : Die} : NextReached R c₀ (Machine.execForwardPhase d s) := by
  unfold Machine.execForwardPhase
  dsimp only
  refine iteNext h.next ?_
  split
  · exact next (ite h.takeIngest h)
  · exact iteNext (next (ite h.takeIngest h)) (next (noteSegments (setCh (ite h.takeIngest h))))

theorem execBackwardPhase {d : Die} : NextReached R c₀ (Machine.execBackwardPhase d s) := by
  unfold Machine.execBackwardPhase
  dsimp only
  refine iteNext h.next ?_
  split
  · exact h.next
  · exact iteNext h.next h.setCh.next

theorem chOp {d code : Nat} {p : Phase} {act : PhaseRun → List Nat → State} (hact : ∀ r w, (act r w).ReachedFrom R c₀) :
    (s.chOp d p code act).ReachedFrom R c₀ := by
  unfold State.chOp
  dsimp only
  split
  · exact h
  · exact ite h (hact _ _)

theorem pass {d : Nat} {p : Phase} {r : PhaseRun} : (s.pass d p r).ReachedFrom R c₀ :=
  h.updCh

theorem execIssue {d : Die} {p : Phase} : NextReached R c₀ (Machine.execIssue d p s) :=
  next (h.chOp fun _ _ => ite h (ite h.setEng.updCh.used h.setEng.updCh))

theorem execExtent {d : Die} {p : Phase} : NextReached R c₀ (Machine.execExtent d p s) :=
  next (h.chOp fun _ _ => h.setEng.updCh.pass)

theorem execGo {d : Die} {p : Phase} : NextReached R c₀ (Machine.execGo d p s) :=
  next (h.chOp fun _ _ => ite h h.setFab.pass.settle)

theorem execWord {d : Die} {p : Phase} : NextReached R c₀ (Machine.execWord d p s) :=
  next (h.chOp fun _ _ => ite h h.setFab.pass.settle.used)

theorem execWait {d : Die} {p : Phase} : NextReached R c₀ (Machine.execWait d p s) :=
  next (h.chOp fun _ _ => ite (ite h.setFab.pass h) (ite h h.pass))

theorem execArm {d : Die} {p : Phase} : NextReached R c₀ (Machine.execArm d p s) :=
  next (h.chOp fun _ _ => h.setRw.pass)

theorem execRecv {d : Die} {p : Phase} : NextReached R c₀ (Machine.execRecv d p s) :=
  next (h.chOp fun _ _ => ite h.pass h)

theorem trySwapLayer {d l : Nat} : (s.trySwapLayer d l).ReachedFrom R c₀ :=
  ite h.setCh.count h

theorem releaseLayer {d l : Nat} : (s.releaseLayer d l).ReachedFrom R c₀ :=
  trySwapLayer (foldl (fun _ _ hu => ite hu.notify hu) h)

theorem execDoneLayer {d : Die} {p : Phase} : NextReached R c₀ (Machine.execDoneLayer d p s) :=
  next (h.chOp fun _ _ => ite h (ite h.setCh.pass.releaseLayer h.setCh.pass))

theorem freeEntry {d : Nat} {back : Bool} {entry : Nat} : (s.freeEntry d back entry).ReachedFrom R c₀ := by
  unfold State.freeEntry
  refine ite h ?_
  dsimp only
  split
  · exact h.updCh
  · exact announceFree (upd h (by rfl))

theorem execEnd {d : Die} {p : Phase} : NextReached R c₀ (Machine.execEnd d p s) := by
  unfold Machine.execEnd
  refine next ?_
  refine h.chOp fun _ _ => ?_
  dsimp only
  split
  · exact h.setCh
  · exact h.setCh.freeEntry.count
  · exact h.setCh.freeEntry.count

theorem takeNotice {kind : NoticeKind} {dest_ : Nat} {n : Notice} {t : State} (ht : s.takeNotice kind dest_ = some (n, t)) :
    t.ReachedFrom R c₀ := by
  unfold State.takeNotice at ht
  split at ht
  · cases ht
  · obtain ⟨-, ht⟩ := Option.ite_none_left_eq_some.mp ht
    cases ht
    exact upd h (by rfl)

theorem execNextComplete {d : Die} : NextReached R c₀ (Machine.execNextComplete d s) := by
  unfold Machine.execNextComplete
  refine iteNext h.next ?_
  split
  · exact h.next
  · exact next (trySwapLayer (updCh (h.takeNotice ‹_›)))

theorem dispose {d action : Nat} : (s.dispose d action).ReachedFrom R c₀ := by
  unfold State.dispose
  dsimp only
  refine ite ?_ (ite h.updCh.abandonStep h)
  split
  · exact h
  · exact h.dropMb

theorem execDrop {d : Die} : NextReached R c₀ (Machine.execDrop d s) :=
  h.dispose.next

theorem execAbandon {d : Die} : NextReached R c₀ (Machine.execAbandon d s) :=
  h.dispose.next

theorem execHoldLimitExpiry {d : Die} : NextReached R c₀ (Machine.execHoldLimitExpiry d s) := by
  unfold Machine.execHoldLimitExpiry
  refine iteNext h.next ?_
  dsimp only
  split
  · exact h.next
  · exact iteNext h.next h.dropMb.next

theorem swapPoint {d : Nat} : (s.swapPoint d).ReachedFrom R c₀ :=
  ite h (ite h.setFab h.setFab.count.raise)

theorem activationPoint {d : Nat} : (s.activationPoint d).ReachedFrom R c₀ :=
  ite (setFab (upd h (by rfl))) (ite (setFab (upd h (by rfl))) (upd h (by rfl)))

theorem levTake {d count : Nat} {word : State → Nat → Nat → Nat} : (s.levTake d count word).ReachedFrom R c₀ := by
  unfold State.levTake
  extract_lets had s1
  have h1 : s1.ReachedFrom R c₀ := foldl (fun _ _ hu => hu.putLevEntry) h
  clear_value s1
  exact upd h1 (by rfl)

theorem levSwap {d count : Nat} : (s.levSwap d count).ReachedFrom R c₀ := by
  have h1 := h.levTake (d := d) (count := count) (word := fun t i => t.levShadow d i)
  exact upd h1 (by rfl)

theorem levReactivate {d : Nat} : (s.levReactivate d).ReachedFrom R c₀ := by
  have h1 := h.levTake (d := d) (count := s.leaven.count.get 0 d) (word := fun t i => t.levWritten d i)
  exact upd h1 (by rfl)

theorem clearRun {d : Nat} : (s.clearRun d).ReachedFrom R c₀ :=
  foldl (fun _ _ hu => foldl (fun _ _ hv => hv.pushOut) hu) h.setFab

theorem kvApply {d : Nat} : (s.kvApply d).ReachedFrom R c₀ :=
  ite h.applyShadow.setKv h.applyShadow

theorem kvSwap {d : Nat} : (s.kvSwap d).ReachedFrom R c₀ :=
  ite (kvApply (used (kvRaise (upd h (by rfl))))) h.kvApply

theorem restartPhases {d : Nat} : (s.restartPhases d).ReachedFrom R c₀ :=
  h.updCh

theorem freezeSlots {d : Nat} : (s.freezeSlots d).ReachedFrom R c₀ :=
  h.updCh

theorem doSwap {d : Nat} : (s.doSwap d).ReachedFrom R c₀ :=
  h.levSwap.setFab.freezeSlots.clearRun.kvSwap.count.restartPhases

theorem execSwap {d : Die} : NextReached R c₀ (Machine.execSwap d s) :=
  iteNext h.next (iteNext h.doSwap.settle.next h.next)

theorem execReactivation {d : Die} : NextReached R c₀ (Machine.execReactivation d s) :=
  iteNext h.next (iteNext h.levReactivate.updFab.clearRun.kvSwap.count.restartPhases.settle.next h.next)

theorem flush {d : Nat} : (s.flush d).ReachedFrom R c₀ :=
  foldl (fun _ _ hu => hu.setEng) (updFab (foldl (fun _ _ hv => hv.boundEnd) h))

theorem kvClearTable {q : KvSeq} : (s.kvClearTable q).ReachedFrom R c₀ :=
  foldl (fun _ _ hu => hu.setKvEntry) h

theorem kvCopyGranules {d src dst n : Nat} : (s.kvCopyGranules d src dst n).ReachedFrom R c₀ :=
  foldl (fun _ _ hu => ite hu.consume.storeFor.poisonFor hu.consume.storeFor) h

theorem kvCopy {d old new : Nat} : (s.kvCopy d old new).ReachedFrom R c₀ :=
  h.kvCopyGranules.kvCopyGranules

theorem kvAppendAt {d : Nat} {q : KvSeq} {p : Nat × Nat} : (s.kvAppendAt d q p).ReachedFrom R c₀ := by
  unfold State.kvAppendAt
  dsimp only
  split
  · split
    · exact h
    · exact h.setKv.setKvEntry.kvCount
  · refine ite h ?_
    split
    · exact h
    · exact h.kvCopy.setKv.setKvEntry.kvCount.kvCount

theorem kvReclaim {d : Nat} : (s.kvReclaim d).ReachedFrom R c₀ :=
  h.setKv.kvCount

theorem kvRespond {d src w : Nat} : (s.kvRespond d src w).ReachedFrom R c₀ :=
  ite h.setKv h.setFab.settle

theorem kvInvalid {d : Nat} {f : KvFields} {w : Option (Nat × Nat)} : (s.kvInvalid d f w).s.ReachedFrom R c₀ :=
  h.kvRaise.used

theorem kvOpen {d : Nat} {f : KvFields} : (s.kvOpen d f).s.ReachedFrom R c₀ := by
  unfold State.kvOpen
  dsimp only
  split
  · exact h.kvInvalid
  · exact h.kvClearTable.setKv

theorem kvFork {d : Nat} {f : KvFields} : (s.kvFork d f).s.ReachedFrom R c₀ := by
  unfold State.kvFork
  dsimp only
  split
  · exact h.kvInvalid
  · split
    · exact h.kvInvalid
    · split
      · exact h.kvRaise
      · exact setKv (foldl (fun _ _ hu => hu.setKvEntry) h.kvClearTable)

theorem kvAppend {d : Nat} {f : KvFields} : (s.kvAppend d f).s.ReachedFrom R c₀ := by
  unfold State.kvAppend
  dsimp only
  split
  · exact h.kvInvalid
  · split
    · exact h.kvInvalid
    · split
      · exact h
      · split
        · exact h.kvCount.kvRaise
        · exact setKv (foldl (fun _ _ hu => hu.kvAppendAt) h)

theorem kvFreeSeq {d : Nat} {f : KvFields} : (s.kvFreeSeq d f).s.ReachedFrom R c₀ := by
  unfold State.kvFreeSeq
  dsimp only
  split
  · exact h.kvInvalid
  · split
    · exact h.kvInvalid
    · exact setKv (foldl (fun _ _ hu => hu.setKvEntry) h)

theorem kvAdvance {d : Nat} {f : KvFields} : (s.kvAdvance d f).s.ReachedFrom R c₀ := by
  unfold State.kvAdvance
  dsimp only
  split
  · exact h.kvInvalid
  · split
    · exact h.kvCount.kvRaise
    · exact h.setKv.kvReclaim

theorem kvRun {d : Nat} {act : State → KvFields → KvDone} (hact : ∀ u f, u.ReachedFrom R c₀ → (act u f).s.ReachedFrom R c₀) :
    (s.kvRun d act).ReachedFrom R c₀ := by
  unfold State.kvRun
  split
  · exact h
  · exact ite h (hact _ _ h.setKv.kvCount).kvRespond

theorem kvDrain {d : Nat} : (s.kvDrain d).ReachedFrom R c₀ := by
  unfold State.kvDrain
  refine foldl (fun _ _ hu => ?_) h
  split
  · exact hu
  · exact ite (hu.kvRun fun _ _ hv => hv.kvInvalid) hu

theorem kvCommand {d op : Nat} {act : State → KvFields → KvDone} (hact : ∀ u f, u.ReachedFrom R c₀ → (act u f).s.ReachedFrom R c₀) :
    (s.kvCommand d op act).ReachedFrom R c₀ := by
  unfold State.kvCommand
  dsimp only
  split
  · exact h.kvDrain
  · exact ite (h.kvDrain.kvRun hact) h.kvDrain

theorem execOpen {d : Die} : NextReached R c₀ (Machine.execOpen d s) :=
  iteNext h.next (next (h.kvCommand fun _ _ hu => hu.kvOpen))

theorem execFork {d : Die} : NextReached R c₀ (Machine.execFork d s) :=
  iteNext h.next (next (h.kvCommand fun _ _ hu => hu.kvFork))

theorem execAppend {d : Die} : NextReached R c₀ (Machine.execAppend d s) :=
  iteNext h.next (next (h.kvCommand fun _ _ hu => hu.kvAppend))

theorem execFree {d : Die} : NextReached R c₀ (Machine.execFree d s) :=
  iteNext h.next (next (h.kvCommand fun _ _ hu => hu.kvFreeSeq))

theorem execAdvance {d : Die} : NextReached R c₀ (Machine.execAdvance d s) :=
  iteNext h.next (next (h.kvCommand fun _ _ hu => hu.kvAdvance))

theorem execReaderClose {d : Die} {p : Sp} : NextReached R c₀ (Machine.execReaderClose d p s) :=
  iteNext h.next (iteNext h.setKv.kvReclaim.next h.next)

end State.ReachedFrom
end Sys2Proof.Machine
end

section
/-! The control side: the Proofers and the collectives. -/

namespace Sys2Proof.Machine
namespace State.ReachedFrom
variable {R : Control → Control → Prop} {c₀ : Control} {s : State} (h : s.ReachedFrom R c₀)
include h

theorem setPrf {p : Nat} {x : Proofer} : (s.setPrf p x).ReachedFrom R c₀ :=
  upd h (by rfl)

theorem updPrf {p : Nat} {g : Proofer → Proofer} : (s.updPrf p g).ReachedFrom R c₀ :=
  h.setPrf

theorem prfRaise {p code i chunk mb cause n : Nat} : (s.prfRaise p code i chunk mb cause n).ReachedFrom R c₀ :=
  h.raise

theorem countSpans {l : List (Nat × Nat)} : (s.countSpans l).ReachedFrom R c₀ :=
  foldl (fun _ _ hu => hu.countPoison) h

theorem workingCopyTo {p i c slot : Nat} {ws : List Nat} : (s.workingCopyTo p i c slot ws).1.ReachedFrom R c₀ := by
  unfold State.workingCopyTo
  dsimp only
  refine ite ?_ ?_
  · refine storeFor ?_
    refine levReport ?_
    refine foldl (fun _ _ hu => ?_) h
    split
    · exact hu.storeFor
    · exact hu.storeFor.storeFor
  · refine levReport ?_
    refine foldl (fun _ _ hv => ?_) h
    split
    · exact hv.storeFor
    · exact hv.storeFor.storeFor

theorem finishChunk {p i c : Nat} {hd ws : List Nat} : (s.finishChunk p i c hd ws).ReachedFrom R c₀ := by
  unfold State.finishChunk
  dsimp only
  refine updPrf ?_
  refine storeFor ?_
  split
  · exact h
  · exact h.workingCopyTo

theorem copyRecs {p : Nat} {t : List Nat} {rb wb c : Nat} : (s.copyRecs p t rb wb c).ReachedFrom R c₀ :=
  foldl (fun _ _ hu => hu.setPoison) h.storeFor

theorem keepChunk {p i c : Nat} {hd : List Nat} : (s.keepChunk p i c hd).ReachedFrom R c₀ :=
  finishChunk (ite h h.copyRecs)

theorem noteSkipped {p i c : Nat} : (s.noteSkipped p i c).ReachedFrom R c₀ :=
  h.prfCount.updPrf

theorem stateLost {p i c : Nat} : (s.stateLost p i c).ReachedFrom R c₀ :=
  h.updPrf.prfRaise

theorem untouchedChunk {p i c : Nat} : (s.untouchedChunk p i c).ReachedFrom R c₀ :=
  ite h.countSpans.stateLost (keepChunk (ite h.noteSkipped h))

theorem applyChunk {p i c : Nat} {g : List Nat} {bad : Bool} : (s.applyChunk p i c g bad).ReachedFrom R c₀ :=
  ite h.countSpans.stateLost (ite h.prfCount.keepChunk (finishChunk
    (ite (noteSkipped (ite h.prfCount h.prfCount.storeFor)) (prfCount (prfCount (ite h.prfCount h.prfCount.storeFor))))))

theorem carryOver {p : Nat} : (s.carryOver p).ReachedFrom R c₀ :=
  ite h (foldl (fun _ _ hu => foldl (fun _ _ hv => ite hv.countSpans.stateLost hv.copyRecs.storeFor) hu) h)

theorem checkHdrs {p : Nat} : (s.checkHdrs p).ReachedFrom R c₀ :=
  foldl (fun _ _ hu => foldl (fun _ _ hv => ite hv.countSpans.stateLost hv) hu) h

theorem putCopy {p i c slot : Nat} {bs : List Byte} : (s.putCopy p i c slot bs).ReachedFrom R c₀ := by
  unfold State.putCopy
  dsimp only
  split
  · exact foldlFst (fun _ _ hu => hu.storeFor) h
  · exact foldlFst (fun _ _ hv => hv.storeFor) (foldlFst (fun _ _ hw => hw.storeFor) h)

theorem colCount {off n : Nat} : (s.colCount off n).ReachedFrom R c₀ :=
  h.count

theorem putOp {o : ColOp} : (s.putOp o).ReachedFrom R c₀ :=
  upd h (by rfl)

theorem grant {g num : Nat} {gather alongY : Bool} {n : Nat} : (s.grant g num gather alongY n).ReachedFrom R c₀ := by
  unfold State.grant
  dsimp only
  split
  · exact upd h (by rfl)
  · exact sendMsg (upd h (by rfl))

theorem startOp {num : Nat} {gather : Bool} : (s.startOp num gather).ReachedFrom R c₀ :=
  ite h (ite (grant (ite (grant (upd h (by rfl))) (upd h (by rfl)))) (ite (grant (upd h (by rfl))) (upd h (by rfl))))

theorem opSend {num : Nat} {gather : Bool} : (s.opSend num gather).ReachedFrom R c₀ := by
  unfold State.opSend
  split
  · exact h
  · dsimp only
    split
    · exact h
    · exact h.putOp.sendMsg

theorem opPump {num : Nat} {gather : Bool} : (s.opPump num gather).ReachedFrom R c₀ := by
  unfold State.opPump
  split
  · exact h
  · exact foldl (fun _ _ hu => hu.opSend) h

theorem opDeliver {o : ColOp} {c : Nat} {v : ColVal} : (s.opDeliver o c v).ReachedFrom R c₀ := by
  unfold State.opDeliver
  extract_lets p i s1 t slot s4 s2 s3
  have h4 : s4.ReachedFrom R c₀ := h.colCount.putCopy
  have h2 : s2.ReachedFrom R c₀ := ite (foldl (fun _ _ hu => hu.setPoisons) h4) h4
  have h3 : s3.ReachedFrom R c₀ := ite h2.storeFor h2
  exact ite h3.updPrf (upd h (by rfl))

theorem opClose {num : Nat} {gather : Bool} : (s.opClose num gather).ReachedFrom R c₀ := by
  unfold State.opClose
  split
  · exact h
  · exact ite (colCount (upd h (by rfl))) h

theorem opReduce {o : ColOp} {c : Nat} {k : ColChunk} : (s.opReduce o c k).ReachedFrom R c₀ := by
  unfold State.opReduce
  dsimp only
  split
  · exact h.putOp.opPump
  · exact h.putOp.colCount.opDeliver.opPump

theorem opFinished {o : ColOp} {c : Nat} {viaX : Bool} {v : ColVal} : (s.opFinished o c viaX v).ReachedFrom R c₀ :=
  h.putOp.opDeliver.opPump

theorem colExport {p i c : Nat} {v : ColVal} : (s.colExport p i c v).ReachedFrom R c₀ := by
  unfold State.colExport
  dsimp only
  split
  · exact h.startOp
  · exact h.startOp.opReduce.opClose

theorem colGather {p i c : Nat} {bytes : List Byte} {poison : Bool} : (s.colGather p i c bytes poison).ReachedFrom R c₀ := by
  unfold State.colGather
  dsimp only
  split
  · exact h.startOp
  · exact h.startOp.putOp.opPump.opClose

theorem gatherAfter {p i c : Nat} : (s.gatherAfter p i c).ReachedFrom R c₀ :=
  ite h.countSpans.colGather h

theorem execCollectiveData {code : PortCode} : NextReached R c₀ (Machine.execCollectiveData code s) := by
  unfold Machine.execCollectiveData
  refine iteNext h.next ?_
  dsimp only
  split
  · exact h.next
  · refine iteNext (next (h.takeMsg ‹_›)) ?_
    refine iteNext (next (badMessage (h.takeMsg ‹_›))) ?_
    split
    · exact next (startOp (h.takeMsg ‹_›))
    · exact next (opClose (ite (grant (startOp (h.takeMsg ‹_›)))
        (ite (opFinished (grant (startOp (h.takeMsg ‹_›)))) (opReduce (grant (startOp (h.takeMsg ‹_›)))))))

theorem takeCredit {num : Nat} {gather alongY : Bool} {n : Nat} : (s.takeCredit num gather alongY n).ReachedFrom R c₀ := by
  unfold State.takeCredit
  dsimp only
  split
  · exact h
  · exact h.updSub

theorem execWindowCredit {num : Fin 4096} {gather alongY : Bool} {n : Nat} :
    NextReached R c₀ (Machine.execWindowCredit num gather alongY n s) := by
  unfold Machine.execWindowCredit
  refine iteNext h.next ?_
  dsimp only
  refine iteNext h.takeCredit.next ?_
  split
  · exact h.takeCredit.startOp.next
  · exact h.takeCredit.startOp.putOp.opPump.opClose.next

theorem sendAbort {g : Nat} : (s.sendAbort g).ReachedFrom R c₀ :=
  ite h (foldl (fun _ _ hu => hu.sendMsg) (upd h (by rfl)))

theorem timeOut {code cause which since : Nat} : (s.timeOut code cause which since).ReachedFrom R c₀ :=
  foldl (fun _ _ hu => hu.dispose) (raise (colCount (upd h (by rfl))))

theorem endOps {g : Nat} : (s.endOps g).ReachedFrom R c₀ :=
  upd h.sendAbort (by rfl)

theorem endGroup {g code cause : Nat} : (s.endGroup g code cause).ReachedFrom R c₀ :=
  h.endOps.timeOut

theorem execCollectiveAbort {code : PortCode} : NextReached R c₀ (Machine.execCollectiveAbort code s) := by
  unfold Machine.execCollectiveAbort
  refine iteNext h.next ?_
  split
  · exact h.next
  · dsimp only
    split
    · exact next (colCount (h.takeMsg ‹_›))
    · exact next (timeOut (foldl (fun _ _ hu => hu.endOps) (colCount (h.takeMsg ‹_›))))

theorem execColTimeout {t : ColTarget} : NextReached R c₀ (Machine.execColTimeout t s) := by
  unfold Machine.execColTimeout
  refine iteNext h.next ?_
  split
  · dsimp only
    refine iteNext h.next ?_
    split
    · exact h.endGroup.next
    · exact iteNext h.endGroup.next h.next
  · dsimp only
    refine iteNext h.next ?_
    refine iteNext (next (timeOut (setCnd (upd h (by rfl))))) ?_
    refine iteNext h.next ?_
    split
    · exact h.next
    · exact iteNext (next (timeOut (setCnd (upd h (by rfl))))) h.next

theorem execConduitNotice {code : PortCode} : NextReached R c₀ (Machine.execConduitNotice code s) := by
  unfold Machine.execConduitNotice
  refine iteNext h.next ?_
  split
  · exact h.next
  · exact next (cndPump (setCnd (h.takeMsg ‹_›)))

theorem storeMsg {code : Nat} {m : List Byte} {a : Nat} : (s.storeMsg code m a).ReachedFrom R c₀ :=
  ite h.storeFor.poisonFor h.storeFor

theorem execConduitData {code : PortCode} {dest : BitVec 46} : NextReached R c₀ (Machine.execConduitData code dest s) := by
  unfold Machine.execConduitData
  refine iteNext h.next ?_
  split
  · exact h.next
  · dsimp only
    refine iteNext (next (badMessage (h.takeMsg ‹_›))) ?_
    refine iteNext (next (setCnd (storeMsg (h.takeMsg ‹_›)))) ?_
    split
    · exact next (setCnd (storeMsg (h.takeMsg ‹_›)))
    · next d back j _ =>
      refine next ?_
      generalize hu : State.updCh _ d _ = u
      have h3 : u.ReachedFrom R c₀ := hu ▸ updCh (setCnd (storeMsg (h.takeMsg ‹_›)))
      exact upd h3 (by rfl)

theorem askBulk {a n ask : Nat} : (s.askBulk a n ask).ReachedFrom R c₀ := by
  unfold State.askBulk
  split
  · exact h
  · exact h.sendMsg

theorem execBulkReadRequest {code : PortCode} {addr : BitVec 46} {len : Nat} : NextReached R c₀ (Machine.execBulkReadRequest code addr len s) := by
  unfold Machine.execBulkReadRequest
  refine iteNext h.next ?_
  split
  · exact h.next
  · have hm := h.takeMsg ‹_›
    refine iteNext hm.sendBytes.next ?_
    generalize State.mayLeave _ _ _ = leaves
    refine iteNext hm.portCount.next ?_
    refine next ?_
    refine sendBytes ?_
    refine countPoison ?_
    exact hm.loadFor

theorem execBulkData {code : PortCode} {addr : BitVec 46} : NextReached R c₀ (Machine.execBulkData code addr s) := by
  unfold Machine.execBulkData
  refine iteNext h.next ?_
  split
  · exact h.next
  · dsimp only
    refine iteNext (next (badMessage (h.takeMsg ‹_›))) ?_
    split
    · exact next (storeMsg (ite (upd (h.takeMsg ‹_›) (by rfl)) (h.takeMsg ‹_›)))
    · exact next (storeMsg (ite (upd (h.takeMsg ‹_›) (by rfl)) (h.takeMsg ‹_›)))
    · exact next (unmapped (ite (upd (h.takeMsg ‹_›) (by rfl)) (h.takeMsg ‹_›)))

theorem putRecord {d addr : Nat} {u : List Nat} : (s.putRecord d addr u).ReachedFrom R c₀ :=
  h.storeFor

theorem sendTo {d n : Nat} {p : Phase} {r : PhaseRun} {back : Bool} {u : List Nat} : (s.sendTo d n p r back u).ReachedFrom R c₀ :=
  ite h h.setCh.putRecord.pass

theorem sendOver {d k : Nat} {p : Phase} {r : PhaseRun} {u : List Nat} : (s.sendOver d k p r u).ReachedFrom R c₀ :=
  ite h.setCnd h.putRecord.handToConduit.used.pass

theorem execSend {d : Die} {p : Phase} : NextReached R c₀ (Machine.execSend d p s) := by
  unfold Machine.execSend
  refine iteNext h.next ?_
  refine next ?_
  refine h.chOp fun _ _ => ?_
  dsimp only
  split
  · exact h.pass
  · split
    · exact h.sendTo
    · split
      · exact h
      · exact h.sendOver

theorem fillSlots {p : Nat} : (s.fillSlots p).ReachedFrom R c₀ :=
  foldl (fun _ _ hu => ite hu hu.waited) h.setPrf

theorem withhold {p n : Nat} : (s.withhold p n).ReachedFrom R c₀ :=
  ite h.setPrf.waited h.setPrf.waited.prfRaise

theorem takeRow {p port i c byte : Nat} {bs : List Byte} : (s.takeRow p port i c byte bs).ReachedFrom R c₀ :=
  ite h (ite h.setPrf h.setPrf.used)

theorem takeDelivered {p port i c byte : Nat} {bs : List Byte} : (s.takeDelivered p port i c byte bs).ReachedFrom R c₀ := by
  unfold State.takeDelivered
  dsimp only
  refine ite h ?_
  split
  · exact h.setPrf
  · exact upd h (by rfl)

theorem execPartialRow {p : Prf} : NextReached R c₀ (Machine.execPartialRow p s) := by
  unfold Machine.execPartialRow
  refine iteNext h.next ?_
  split
  · exact h.next
  · exact iteNext h.withhold.next (iteNext (next (setPrf (setPrf (upd h (by rfl)))))
      (iteNext (next (takeDelivered (setPrf (upd h (by rfl))))) (next (takeRow (setPrf (upd h (by rfl)))))))

theorem countFold {t : List Nat} {c : Nat} : (s.countFold t c).ReachedFrom R c₀ :=
  h.countSpans

theorem keepFold {p i c : Nat} {f : Fold} : (s.keepFold p i c f).ReachedFrom R c₀ :=
  h.updPrf

theorem putFold {p i c : Nat} {f : Fold} : (s.putFold p i c f).ReachedFrom R c₀ :=
  h.keepFold.storeFor

theorem exportSum {p i c : Nat} {g : List Nat} {absent poison : Bool} : (s.exportSum p i c g absent poison).ReachedFrom R c₀ :=
  h.prfCount.colExport

theorem handOn {p i c : Nat} {g : List Nat} {bad : Bool} : (s.handOn p i c g bad).ReachedFrom R c₀ :=
  ite h.updPrf.exportSum (updPrf (ite h.updPrf h.updPrf.waited))

theorem countMismatch {p i c mb cause n : Nat} : (s.countMismatch p i c mb cause n).ReachedFrom R c₀ :=
  prfRaise (ite h.updPrf h)

theorem lateContribution {p : Nat} {k : Contribution} {fresh counted : Bool} {f : Fold} :
    (s.lateContribution p k fresh counted f).ReachedFrom R c₀ :=
  ite (countMismatch (ite h h.keepFold)) (ite h h.keepFold)

theorem contribute {p : Nat} {k : Contribution} : (s.contribute p k).ReachedFrom R c₀ := by
  unfold State.contribute
  extract_lets t key x f0 fresh none f1 ct counted got conflict marked sum src f s0 s1 s2 s3 s4
  have h0 : s0.ReachedFrom R c₀ := keepFold (ite h h.countFold)
  have h2 : s2.ReachedFrom R c₀ := ite h0.updPrf.prfCount h0.updPrf
  have h3 : s3.ReachedFrom R c₀ := ite h2 h2.prfCount
  have h4 : s4.ReachedFrom R c₀ := ite h3.updPrf.prfCount.prfRaise h3
  exact ite h.lateContribution (ite h4.handOn h4.storeFor.putFold)

theorem takeContribution {p : Nat} : (s.takeContribution p).ReachedFrom R c₀ := by
  unfold State.takeContribution
  split
  · exact h
  · exact h.updPrf.contribute.fillSlots

theorem execContributionComplete {p : Prf} : NextReached R c₀ (Machine.execContributionComplete p s) :=
  iteNext h.next h.takeContribution.next

theorem execDelivery {p : Prf} : NextReached R c₀ (Machine.execDelivery p s) := by
  unfold Machine.execDelivery
  refine iteNext h.next ?_
  split
  · exact h.next
  · exact iteNext (next (prfCount (upd h (by rfl)))) (iteNext (next (countMismatch (prfCount (upd h (by rfl)))))
      (iteNext h.withhold.next (iteNext (next (setPrf (prfCount (upd h (by rfl)))))
      (next (setPrf (ite (prfCount (upd h (by rfl))) (waited (prfCount (upd h (by rfl))))))))))

theorem execStatePrefetch {p : Prf} : NextReached R c₀ (Machine.execStatePrefetch p s) := by
  unfold Machine.execStatePrefetch
  refine iteNext h.next ?_
  dsimp only
  split
  · exact h.next
  · refine iteNext h.setPrf.next ?_
    split
    · exact iteNext h.setPrf.next h.setPrf.next
    · exact h.next

theorem execChunkApply {p : Prf} : NextReached R c₀ (Machine.execChunkApply p s) := by
  unfold Machine.execChunkApply
  refine iteNext h.next ?_
  dsimp only
  refine iteNext h.next ?_
  refine iteNext ?_ ?_
  · split
    · exact h.next
    · exact h.untouchedChunk.gatherAfter.next
  · split
    · exact next (fillSlots (gatherAfter (ite h.setPrf.untouchedChunk h.setPrf.applyChunk)))
    · split
      · exact h.next
      · exact iteNext h.setPrf.countFold.applyChunk.gatherAfter.next h.setPrf.untouchedChunk.gatherAfter.next

theorem execNextCompleteSend {p : Prf} : NextReached R c₀ (Machine.execNextCompleteSend p s) := by
  unfold Machine.execNextCompleteSend
  refine iteNext h.next ?_
  dsimp only
  split
  · exact h.next
  · exact iteNext h.next h.setPrf.notify.next

theorem execSegmentNotice {p : Prf} : NextReached R c₀ (Machine.execSegmentNotice p s) := by
  unfold Machine.execSegmentNotice
  refine iteNext h.next ?_
  split
  · exact h.next
  · exact iteNext (next (countMismatch (h.takeNotice ‹_›))) (next (setPrf (h.takeNotice ‹_›)))

theorem poisonChunk {p i c mb : Nat} : (s.poisonChunk p i c mb).ReachedFrom R c₀ :=
  ite h (updPrf (ite h.keepFold h.putFold))

theorem execPoison {p : Prf} : NextReached R c₀ (Machine.execPoison p s) := by
  unfold Machine.execPoison
  refine iteNext h.next ?_
  split
  · exact h.next
  · exact next (foldl (fun _ _ hu => foldl (fun _ _ hv => hv.poisonChunk) hu) (updPrf (h.takeNotice ‹_›)))

theorem releaseStream {p i c : Nat} : (s.releaseStream p i c).1.ReachedFrom R c₀ := by
  unfold State.releaseStream
  dsimp only
  split
  · exact foldl (fun _ _ hu => hu.countMismatch) h.setPrf
  · split
    · split
      · exact h.setPrf
      · exact h.setPrf.handOn
    · split
      · exact h.setPrf
      · exact h.setPrf.handOn

theorem releaseStaged {p i : Nat} : (s.releaseStaged p i).ReachedFrom R c₀ :=
  ite h.updPrf (foldl (fun _ _ hu => ite hu.countFold.exportSum hu.exportSum) h.updPrf)

theorem releaseEntry {p i : Nat} : (s.releaseEntry p i).ReachedFrom R c₀ := by
  unfold State.releaseEntry
  dsimp only
  refine ite h.releaseStaged ?_
  generalize hr : List.foldl _ _ _ = r
  have hreleased : r.1.ReachedFrom R c₀ := hr ▸ foldlFst (fun _ _ hu => hu.releaseStream) h
  split
  · exact hreleased
  · exact ite hreleased hreleased.countMismatch

theorem drainPark {p : Nat} : (s.drainPark p).ReachedFrom R c₀ :=
  foldl (fun _ _ hu => hu.takeContribution) h

theorem execRelease {p : Prf} : NextReached R c₀ (Machine.execRelease p s) := by
  unfold Machine.execRelease
  refine iteNext h.next ?_
  split
  · exact h.next
  · exact iteNext (next (updPrf (drainPark (h.takeNotice ‹_›))))
      (next (fillSlots (updPrf (foldl (fun _ _ hu => hu.releaseEntry) (drainPark (h.takeNotice ‹_›))))))

theorem execAbandonNotice {p : Prf} : NextReached R c₀ (Machine.execAbandonNotice p s) := by
  unfold Machine.execAbandonNotice
  refine iteNext h.next ?_
  split
  · exact h.next
  · exact next (updPrf (h.takeNotice ‹_›))

end State.ReachedFrom
end Sys2Proof.Machine
end

section
/-! The control side: the ledger, the seal, the checkpoints and the ingest. -/

namespace Sys2Proof.Machine
namespace State.ReachedFrom
variable {R : Control → Control → Prop} {c₀ : Control} {s : State} (h : s.ReachedFrom R c₀)
include h

theorem ledgerWrite {p : Nat} {lost : List Nat} {bs : List Byte} : (s.ledgerWrite p lost bs).1.ReachedFrom R c₀ := by
  unfold State.ledgerWrite
  dsimp only
  split
  · exact h
  · exact h.setPrf.storeFor

theorem ledgerSeal {recs : List (Nat × List (List Byte))} : (s.ledgerSeal recs).ReachedFrom R c₀ := by
  unfold State.ledgerSeal
  dsimp only
  split
  · exact upd (foldlFst (fun _ _ hu => foldlFst (fun _ _ hv => hv.ledgerWrite) hu) h) (by rfl)
  · exact raise (count (upd (foldlFst (fun _ _ hw => foldlFst (fun _ _ hx => hx.ledgerWrite) hw) h) (by rfl)))

theorem sealEdge : s.sealEdge.ReachedFrom R c₀ :=
  ite h (upd h (by rfl))

theorem formDigests : s.formDigests.ReachedFrom R c₀ :=
  foldl (fun _ _ hu => hu.updPrf) h

theorem reportSkipped : s.reportSkipped.ReachedFrom R c₀ :=
  foldl (fun _ _ hu => foldl (fun _ _ hv => ite hv hv.prfRaise) hu) h

theorem reportSlip : s.reportSlip.ReachedFrom R c₀ :=
  ite h h.count.count.raise

theorem sendSeal {src : Nat} {bs : List Byte} : (s.sendSeal src bs).ReachedFrom R c₀ := by
  unfold State.sendSeal
  dsimp only
  refine foldl (fun _ _ hu => ?_) h
  split
  · exact hu.sendFrom
  · exact hu

theorem askShard {p i : Nat} : (s.askShard p i).ReachedFrom R c₀ :=
  askBulk (askBulk (foldl (fun _ _ hu => hu.askBulk.askBulk) h))

theorem compareSeal : s.compareSeal.ReachedFrom R c₀ := by
  unfold State.compareSeal
  extract_lets _ s0 mine ref asked s1 diff lost s2 l
  have h1 : s1.ReachedFrom R c₀ := ite (sendSeal (upd h (by rfl))) (upd h (by rfl))
  have h2 : s2.ReachedFrom R c₀ := foldl (fun _ _ hu => hu.raise) h1
  clear_value s1 s2
  exact ite h1 (foldl (fun _ _ hu => hu.askShard) (upd h2 (by rfl)))

theorem commitPrf {commit : Bool} {p : Nat} : (s.commitPrf commit p).ReachedFrom R c₀ :=
  ite h.setPrf (ite h.notify.prfCount.prfRaise h)

theorem noteNorms {d : Nat} : (s.noteNorms d).ReachedFrom R c₀ :=
  foldl (fun _ _ hu => foldl (fun _ _ hv => hv.updPrf) hu) h

theorem decideSeal : s.decideSeal.ReachedFrom R c₀ := by
  unfold State.decideSeal
  extract_lets recs held s0 s1 s2 s3
  have h3 : s3.ReachedFrom R c₀ := ledgerSeal (foldl (fun _ _ hu => hu.levSeal) (foldl (fun _ _ hv => hv.commitPrf)
    (foldl (fun _ _ hw => hw.noteNorms) (ite h h.formDigests))))
  clear_value s3
  exact upd h3 (by rfl)

theorem prfApply {p : Nat} : (s.prfApply p).ReachedFrom R c₀ :=
  foldl (fun _ _ hu => hu.prfRaise) (ite h.applyShadow.updPrf.prfRaise h.applyShadow.updPrf)

theorem phaseSeal : s.phaseSeal.ReachedFrom R c₀ :=
  ite (upd h (by rfl)) (ite (count (upd h (by rfl))) h.applyShadow)

theorem beginStep : s.beginStep.ReachedFrom R c₀ := by
  unfold State.beginStep
  extract_lets s1 s2
  have h2 : s2.ReachedFrom R c₀ := foldl (fun _ _ hu => hu.updPrf) (foldl (fun _ _ hv => hv.updCh) h)
  clear_value s2
  exact upd h2 (by rfl)

theorem drawSeal : s.drawSeal.ReachedFrom R c₀ := by
  unfold State.drawSeal
  split
  · exact h
  · exact upd h (by rfl)

theorem endSeal {held : Nat} : (s.endSeal held).ReachedFrom R c₀ := by
  unfold State.endSeal
  extract_lets s1 s2 ctl bel spine s3 s4
  have h1 : s1.ReachedFrom R c₀ := foldl (fun _ _ hu => hu.prfApply) h.drawSeal.phaseSeal
  have h2 : s2.ReachedFrom R c₀ := foldl (fun _ _ hu => ite hu hu.swapPoint) h1
  have h3 : s3.ReachedFrom R c₀ := upd h2 (by rfl)
  exact ite h3.beginStep (enter (upd (foldl (fun _ _ hu => hu.updCh) h3) (by rfl)))

theorem settleSeal : s.settleSeal.ReachedFrom R c₀ := by
  unfold State.settleSeal
  split
  · exact h
  · exact ite h h.endSeal

theorem exportDelay {e : Export} : (s.exportDelay e).ReachedFrom R c₀ :=
  ite h (raise (upd h (by rfl)))

theorem sealProgress : s.sealProgress.ReachedFrom R c₀ := by
  unfold State.sealProgress
  refine ite h (ite h.settleSeal ?_)
  split
  · exact h.exportDelay
  · refine ite h.decideSeal.settleSeal ?_
    extract_lets own spine s1 s2
    have h1 : s1.ReachedFrom R c₀ := ite h (sendSeal (upd h (by rfl)))
    have h2 : s2.ReachedFrom R c₀ := ite h1 h1.compareSeal
    exact ite h1 (ite h2.decideSeal.settleSeal h2)

theorem execStepSeal : NextReached R c₀ (Machine.execStepSeal s) := by
  unfold Machine.execStepSeal
  extract_lets s1 s2
  have h1 : s1.ReachedFrom R c₀ := h.applyPage.startWiden.reportSlip.reportSkipped
  have h2 : s2.ReachedFrom R c₀ := ite h1 (formDigests (foldl (fun _ _ hu => hu.checkHdrs) (foldl (fun _ _ hv => hv.carryOver) h1)))
  clear_value s2
  exact iteNext h.sealProgress.next (iteNext (next (sealProgress (upd h2 (by rfl)))) h.next)

theorem execRevert {d : Die} : NextReached R c₀ (Machine.execRevert d s) := by
  unfold Machine.execRevert
  split
  · exact h.next
  · exact next (settleSeal (updCh (h.takeNotice ‹_›)))

theorem takeSeal : s.takeSeal.ReachedFrom R c₀ := by
  unfold State.takeSeal
  split
  · obtain ⟨c, -, hc⟩ := List.exists_of_findSome?_eq_some ‹_›
    exact h.takeMsg hc
  · exact h

theorem execSealExchange {m : SealMsg} : NextReached R c₀ (Machine.execSealExchange m s) :=
  iteNext h.takeSeal.next (next (sealProgress (upd h.takeSeal.sendSeal (by rfl))))

theorem substituteReport {d e : Nat} {r : LevCounts} : (s.substituteReport d e r).ReachedFrom R c₀ :=
  h.setLev.setLev.setLev.setLev.setLev.setLev

theorem execDivergenceRecovery {p : Prf} {entry : Fin 1024} {chunks : List ShardChunk} {rep : LevCounts} :
    NextReached R c₀ (Machine.execDivergenceRecovery p entry chunks rep s) := by
  unfold Machine.execDivergenceRecovery
  extract_lets t bank cur s1 s2 s3
  have h1 : s1.ReachedFrom R c₀ := foldl (fun _ _ hu => hu.storeFor.storeFor.putCopy) h
  have h3 : s3.ReachedFrom R c₀ := h1.substituteReport.prfCount.updPrf
  clear_value s3
  exact iteNext h.next (next (sealProgress (upd h3 (by rfl))))

theorem sendBulk {k off : Nat} {bs : List Byte} : (s.sendBulk k off bs).ReachedFrom R c₀ :=
  foldl (fun _ _ hu => hu.storeFor.sendBytes) h

theorem sendFrame {p : Nat} {e : Export} {bs : List Byte} {more : Bool} : (s.sendFrame p e bs more).ReachedFrom R c₀ := by
  unfold State.sendFrame
  refine ite h ?_
  extract_lets s0 _ _ s1
  have h0 : s0.ReachedFrom R c₀ := by
    unfold s0
    split
    · exact h
    · exact h.sendBulk
  have h1 : s1.ReachedFrom R c₀ := by
    refine prfCount (upd h0 ?_)
    cases e.conduit <;> rfl
  clear_value s1
  exact ite h1 h1.endLong.sealProgress

theorem countChunk {q : Nat × Nat × Nat} : (s.countChunk q).ReachedFrom R c₀ :=
  h.countSpans

theorem execExportFrame : NextReached R c₀ (Machine.execExportFrame s) := by
  unfold Machine.execExportFrame
  refine iteNext h.next ?_
  split
  · exact h.next
  · refine iteNext h.sendFrame.next ?_
    dsimp only
    split
    · exact h.countChunk.sendFrame.next
    · exact h.sendFrame.next

theorem importView : s.importView.ReachedFrom R c₀ :=
  ite h.applyShadow h

theorem inView {f : State → State} (hf : ∀ u, u.ReachedFrom R c₀ → (f u).ReachedFrom R c₀) : (s.inView f).ReachedFrom R c₀ :=
  upd (hf _ h.importView) (by rfl)

theorem rebuildLost {z : (Nat × Nat) × Nat} {spans : List (Nat × Nat)} : (s.rebuildLost z spans).ReachedFrom R c₀ :=
  h.countSpans.prfRaise

theorem rebuildTensor {d : Nat} {x : DieTensor} : (s.rebuildTensor d x).ReachedFrom R c₀ := by
  unfold State.rebuildTensor
  split
  · exact h
  · dsimp only
    refine foldl (fun _ _ hu => storeFor (upd hu.workingCopyTo (by rfl))) ?_
    refine ite ?_ (setLev (foldl (fun _ _ hv => hv.rebuildLost) h))
    split
    · exact setLev (setLev (setLev (foldl (fun _ _ hw => hw.rebuildLost) h)))
    · exact setLev (foldl (fun _ _ hx => hx.rebuildLost) h)

theorem restoreRun : s.restoreRun.ReachedFrom R c₀ := by
  unfold State.restoreRun
  refine ite h ?_
  dsimp only
  split
  · refine foldl (fun _ _ hu => hu.updPrf) ?_
    split
    · exact upd h (by rfl)
    · exact h
  · split
    · exact upd h (by rfl)
    · exact h

theorem endImport : s.endImport.ReachedFrom R c₀ := by
  unfold State.endImport
  extract_lets s1
  have h1 : s1.ReachedFrom R c₀ :=
    h.restoreRun.inView fun _ hu => foldl (fun _ _ hv => foldl (fun _ _ hw => hw.rebuildTensor) hv) hu
  clear_value s1
  exact endLong (upd h1 (by rfl))

theorem importBad {p i tensor chunk : Nat} : (s.importBad p i tensor chunk).ReachedFrom R c₀ :=
  prfRaise (upd h (by rfl))

theorem importChunk {tensor chunk rec recCrc : Nat} {body : List Byte} : (s.importChunk tensor chunk rec recCrc body).ReachedFrom R c₀ := by
  unfold State.importChunk
  split
  · exact h
  · exact ite h.importBad (prfCount (upd h.storeFor.storeFor (by rfl)))

theorem ckptCredit {n : Nat} : (s.ckptCredit n).ReachedFrom R c₀ :=
  ite h (upd h (by rfl))

theorem importFrame {bytes : List Byte} : (s.importFrame bytes).ReachedFrom R c₀ := by
  unfold State.importFrame
  dsimp only
  refine ite ?_ ?_
  · refine h.inView fun _ hu => ?_
    split <;> exact hu.importBad
  · split
    · exact inView (upd h (by rfl)) fun _ hv => hv.importChunk
    · exact prfCount (upd h (by rfl))
    · exact endImport (prfCount (upd h (by rfl)))

theorem execImportFrame {f : CkFrame} : NextReached R c₀ (Machine.execImportFrame f s) :=
  iteNext h.next (iteNext h.next (iteNext (next (upd (ite h.takeRx h) (by rfl)))
    (iteNext (next (ite h.takeRx h)) (next (importFrame (ckptCredit (upd (ite h.takeRx h) (by rfl))))))))

theorem execCkptExport {hd : Hdr} {a : CkptArgs} : NextReached R c₀ (Machine.execCkptExport hd a s) := by
  refine next (h.command fun u hu => ite hu.invalid ?_)
  have hy : (u.startLong hd 0x0040).ReachedFrom R c₀ := hu.startLong
  exact upd hy (by rfl)

theorem execCkptImport {hd : Hdr} {conduit : Option (Fin 32)} : NextReached R c₀ (Machine.execCkptImport hd conduit s) := by
  refine next (h.command fun u hu => ite hu.invalid ?_)
  have hy : (u.startLong hd 0x0041).ReachedFrom R c₀ := hu.startLong
  refine upd hy ?_
  cases conduit <;> rfl

theorem execCkptStop {hd : Hdr} : NextReached R c₀ (Machine.execCkptStop hd s) :=
  next (h.command fun _ hu => ite (endImport (ite (sealProgress (endLong (upd hu.answer (by rfl)))) hu.answer))
    (ite (sealProgress (endLong (upd hu.answer (by rfl)))) hu.answer))

theorem setDec {k : Nat} {x : Decoder} : (s.setDec k x).ReachedFrom R c₀ :=
  upd h (by rfl)

theorem updGen {g : Nat} {f : Generation → Generation} : (s.updGen g f).ReachedFrom R c₀ :=
  upd h (by rfl)

theorem setJob {g k : Nat} {j : SpanJob} : (s.setJob g k j).ReachedFrom R c₀ :=
  h.updGen

theorem execManifest {gen passes : Nat} {spans : List Span} : NextReached R c₀ (Machine.execManifest gen passes spans s) :=
  iteNext (next (upd h (by rfl))) h.next

theorem skipSource {x : Span} {gen : Nat} : (s.skipSource x gen).ReachedFrom R c₀ :=
  h.count.raise

theorem skipSpan {x : Span} {gen : Nat} : (s.skipSpan x gen).ReachedFrom R c₀ :=
  h.count.raise

theorem execContainerDemux {gen span : Nat} {r : DemuxResult} {place : Nat} :
    NextReached R c₀ (Machine.execContainerDemux gen span r place s) := by
  unfold Machine.execContainerDemux
  split
  · exact h.next
  · refine iteNext h.next ?_
    dsimp only
    split
    · exact h.setJob.skipSource.next
    · exact h.setJob.skipSpan.next
    · exact iteNext h.next h.countPoison.setJob.store.count.next

theorem unwait {gen span : Nat} : (s.unwait gen span).ReachedFrom R c₀ :=
  foldl (fun _ _ hu => ite hu.setDec hu) h

theorem dropClip {k gen : Nat} {x : Span} {cause n : Nat} : (s.dropClip k gen x cause n).ReachedFrom R c₀ :=
  h.count.raise

theorem execStreamContextOpen {dec : Dec} {gen span : Nat} {buffers : List Nat} :
    NextReached R c₀ (Machine.execStreamContextOpen dec gen span buffers s) := by
  unfold Machine.execStreamContextOpen
  dsimp only
  split
  · exact h.next
  · split
    · exact h.next
    · exact iteNext h.next (iteNext h.unwait.setJob.dropClip.next (iteNext (next (ite h h.setDec)) h.unwait.setJob.setDec.next))

theorem putPlane {dec : Dec} {e : EssenceInfo} {base k : Nat} {kind : PicKind} {q : Plane} : (s.putPlane dec e base k kind q).ReachedFrom R c₀ :=
  foldl (fun _ _ hu => hu.storeFor) h

theorem execPictureDecode {dec : Dec} {gen span : Nat} {pic : DecodedPicture} :
    NextReached R c₀ (Machine.execPictureDecode dec gen span pic s) := by
  unfold Machine.execPictureDecode
  dsimp only
  split
  · split
    · exact iteNext h.next h.countPoison.putPlane.putPlane.putPlane.setJob.setDec.count.count.count.next
    · exact h.next
  · exact h.next

theorem closeContext {k gen span : Nat} : (s.closeContext k gen span).ReachedFrom R c₀ :=
  h.setDec

theorem execFragment {gen span : Nat} {ended : Bool} {p : Prf} {slot : Nat} : NextReached R c₀ (Machine.execFragment gen span ended p slot s) := by
  unfold Machine.execFragment
  split
  · exact h.next
  · split
    · exact iteNext h.next (iteNext (next (dropClip (setJob (ite h.closeContext h.closeContext.count.raise))))
        (iteNext h.next (next (count (count (store (setJob (ite h.closeContext h.closeContext.count.raise))))))))
    · exact h.next

theorem execGenerationPublish {gen : Nat} : NextReached R c₀ (Machine.execGenerationPublish gen s) := by
  unfold Machine.execGenerationPublish
  split
  · exact h.next
  · exact iteNext h.next (next (count (upd h (by rfl))))

theorem execGenerationRetire {gen : Nat} : NextReached R c₀ (Machine.execGenerationRetire gen s) := by
  unfold Machine.execGenerationRetire
  split
  · exact h.next
  · exact iteNext (next (upd h (by rfl))) h.next

theorem writeEntry {d q mb frag : Nat} : (s.writeEntry d q mb frag).ReachedFrom R c₀ :=
  h.storeFor.storeFor

theorem execIngestQueueEntry : NextReached R c₀ (Machine.execIngestQueueEntry s) := by
  unfold Machine.execIngestQueueEntry
  refine iteNext h.next ?_
  split
  · exact h.next
  · dsimp only
    refine iteNext h.next ?_
    split
    · exact iteNext (next (upd h (by rfl))) (next (raise (upd h (by rfl))))
    · exact next (count (upd h.writeEntry (by rfl)))

theorem execIngestRun {d : Die} {p : Sp} : NextReached R c₀ (Machine.execIngestRun d p s) := by
  unfold Machine.execIngestRun
  refine iteNext h.next ?_
  dsimp only
  refine iteNext h.next ?_
  split
  · exact h.next
  · exact iteNext h.setFab.limitOver.next (next (settle (ite (holdRun (raise (upd h (by rfl)))) (upd h (by rfl)))))

theorem execSpanSubmit {edge : Fin 2} {x : Span} {r : DemuxResult} : NextReached R c₀ (Machine.execSpanSubmit edge x r s) := by
  unfold Machine.execSpanSubmit
  refine iteNext h.next ?_
  dsimp only
  split
  · exact next (skipSource (upd h (by rfl)))
  · exact next (skipSpan (upd h (by rfl)))
  · exact next (count (upd h (by rfl)))

theorem cipViolation {op : MemOp} : (s.cipViolation op).ReachedFrom R c₀ :=
  raise (count (upd h (by rfl)))

theorem execIngCipViolation {edge : Fin 2} {addr : Nat} {op : MemOp} : NextReached R c₀ (Machine.execIngCipViolation edge addr op s) :=
  iteNext h.next h.cipViolation.next

theorem ingestUs : s.ingestUs.ReachedFrom R c₀ :=
  foldl (fun _ _ hu => hu.count) h.count

end State.ReachedFrom
end Sys2Proof.Machine
end

section
/-! The control side: the registers of the pages, the accesses of the units and harts, the boot and the tick. -/

namespace Sys2Proof.Machine
namespace State.ReachedFrom
variable {R : Control → Control → Prop} {c₀ : Control} {s : State} (h : s.ReachedFrom R c₀)
include h

theorem startRamp {die : Nat} : (s.startRamp die).ReachedFrom R c₀ := by
  unfold State.startRamp
  split
  · exact h
  · exact upd h (by rfl)

theorem execDomainRampDone {pd : Pd} : NextReached R c₀ (Machine.execDomainRampDone pd s) :=
  iteNext h.rampDone.startRamp.next h.next

theorem writePortEn {n : Nat} {en : Bool} : (s.writePortEn n en).ReachedFrom R c₀ :=
  ite h.setRw.setRw (foldl (fun _ _ hu => hu.setSub) h.setRw.setRw)

theorem writeReqOn {n : Nat} {on : Bool} : (s.writeReqOn n on).ReachedFrom R c₀ :=
  ite h (ite h.count.raise (startRamp (ite (ite (foldl (fun _ _ hu => hu.writePortEn) h.setRw) h.setRw)
    (upd (ite (foldl (fun _ _ hv => hv.writePortEn) h.setRw) h.setRw) (by rfl)))))

theorem writePageCtrl {p : Nat} {v : Word} : (s.writePageCtrl p v).ReachedFrom R c₀ :=
  ite h.setRw (ite (foldl (fun _ _ hu => hu.pump) (ite h.setRw h.setRw.writePortEn)) (ite h.setRw h.setRw.writePortEn))

theorem writeMbxSel {p : Nat} {v : Word} : (s.writeMbxSel p v).ReachedFrom R c₀ :=
  upd h (by rfl)

theorem snapshot {p : Nat} : (s.snapshot p).ReachedFrom R c₀ :=
  ite h (upd h (by rfl))

theorem writeHeader {p off : Nat} {v : Word} : (s.writeHeader p off v).ReachedFrom R c₀ :=
  ite h.writePageCtrl (ite h.setRw (ite h.writeMbxSel h))

theorem writeMapped {p off : Nat} {v : Word} : (s.writeMapped p off v).ReachedFrom R c₀ := by
  unfold State.writeMapped
  split
  · exact h
  · exact ite (ite h h.setRw) (setShadow (ite h h.setRw))

theorem writePrf {p off : Nat} {v : Word} : (s.writePrf p off v).ReachedFrom R c₀ :=
  ite (ite h h.setShadow) (ite h.setShadow (ite h.setShadow h.writeMapped))

theorem writeColl {off : Nat} {v : Word} : (s.writeColl off v).ReachedFrom R c₀ :=
  ite h.setShadow (ite h.setShadow h.writeMapped)

theorem writeKv {off : Nat} {v : Word} : (s.writeKv off v).ReachedFrom R c₀ :=
  ite (ite h.setKv h.setKv) h.writeMapped

theorem writeBlock {p off : Nat} {v : Word} : (s.writeBlock p off v).ReachedFrom R c₀ := by
  unfold State.writeBlock
  dsimp only
  split
  · exact ite h.writeSrc (ite h h.writeMapped)
  · exact ite h.writeMode h.writeMapped
  · exact ite h.writeMapped.release (ite h h.writeMapped)
  · exact ite h.dispose h.writeMapped
  · exact ite h.writeMapped h.writeMapped
  · exact h.writePrf
  · exact ite h.writeMapped h.writeMapped
  · exact ite (ite h.writeMapped h.writeMapped.writePortEn) h.writeMapped
  · exact h.writeColl
  · exact ite h.writeLev h.writeMapped
  · exact h.writeKv
  · exact ite h.writeMapped h.writeMapped
  · exact ite h.writeReqOn h.writeMapped
  · exact h.writeMapped

theorem writeReg {a : Nat} {v : Word} : (s.writeReg a v).ReachedFrom R c₀ :=
  ite h (ite h.writeHeader h.writeBlock)

theorem execRegisterWrite {addr v : Word} : NextReached R c₀ (Machine.execRegisterWrite addr v s) :=
  h.writeReg.next

theorem execMbxSel {page : BitVec 16} {item : Word} : NextReached R c₀ (Machine.execMbxSel page item s) :=
  h.writeReg.next

theorem execMailboxSnapshot {page : BitVec 16} : NextReached R c₀ (Machine.execMailboxSnapshot page s) :=
  h.snapshot.next

theorem execQuiesceReq {page : BitVec 16} {v : Bool} : NextReached R c₀ (Machine.execQuiesceReq page v s) :=
  h.writeReg.next

theorem execEnable {page : BitVec 16} {v : Bool} : NextReached R c₀ (Machine.execEnable page v s) :=
  h.writeReg.next

theorem execReqOn {pd : Pd} {on : Bool} : NextReached R c₀ (Machine.execReqOn pd on s) :=
  h.writeReg.next

theorem correctedRead {addr : Nat} {die : Fin 16} : (s.correctedRead addr die).ReachedFrom R c₀ := by
  unfold State.correctedRead
  split
  · exact h.corrected
  · exact h.count
  · exact h.count
  · exact h

theorem uncorrectableRead {addr : Nat} {die : Fin 16} {mb : Nat} : (s.uncorrectableRead addr die mb).ReachedFrom R c₀ := by
  unfold State.uncorrectableRead
  split
  · exact h.uncorrectable
  · exact h.setPoison

theorem answerAccess {data : List Byte} {poison : Bool} {trap : MemTrap} : (s.answerAccess data poison trap).ReachedFrom R c₀ :=
  upd h (by rfl)

theorem meetErrors {addr : Nat} {ecc : Ecc} {die : Fin 16} {mb : Nat} : (s.meetErrors addr ecc die mb).ReachedFrom R c₀ := by
  unfold State.meetErrors
  dsimp only
  split
  · exact ite h.used h
  · exact correctedRead (ite h.used h)
  · exact uncorrectableRead (ite h.used h)

theorem readAccess {u : MemUnit} {addr n : Nat} {ecc : Ecc} {die : Fin 16} {mb : Nat} : (s.readAccess u addr n ecc die mb).ReachedFrom R c₀ :=
  answerAccess (countPoison (ite h.meetErrors.used h.meetErrors))

theorem writeAccess {u : MemUnit} {addr : Nat} {bs : List Byte} : (s.writeAccess u addr bs).ReachedFrom R c₀ :=
  h.putAt.answerAccess

theorem loadRegs {a n : Nat} : (s.loadRegs a n).ReachedFrom R c₀ :=
  ite h.answerAccess (ite h.answerAccess h.answerAccess.used)

theorem storeRegs {a : Nat} {bs : List Byte} : (s.storeRegs a bs).ReachedFrom R c₀ :=
  ite h.answerAccess (ite h.writeReg.answerAccess (ite h.writeReg.writeReg.answerAccess h.answerAccess))

theorem keepHart {u : MemUnit} {hd : Hart} : (s.keepHart u hd).ReachedFrom R c₀ := by
  unfold State.keepHart
  split
  · exact upd h (by rfl)
  · exact h

theorem turnAway {op : MemOp} {trap : MemTrap} : (s.turnAway op trap).ReachedFrom R c₀ :=
  h.answerAccess

theorem accessAt {u : MemUnit} {pa : Nat} {op : MemOp} {ecc : Ecc} {die : Fin 16} {mb : Nat} :
    (s.accessAt u pa op ecc die mb).ReachedFrom R c₀ := by
  unfold State.accessAt
  split
  · exact h.cipViolation
  · split
    · exact h.unmapped.turnAway
    · split
      · exact h.storeRegs
      · exact h.loadRegs
      · exact h.writeAccess
      · exact h.readAccess

theorem accessParts {u : MemUnit} {op : MemOp} {ecc : Ecc} {die : Fin 16} {mb : Nat} {l : List (Nat × Nat × Nat)} :
    (s.accessParts u op ecc die mb l).ReachedFrom R c₀ :=
  foldl (fun _ _ hu => upd hu.accessAt (by rfl)) h.answerAccess

theorem execMemoryAccess {unit : Requester} {addr : Nat} {op : MemOp} {ecc : Ecc} {die : Fin 16} {mb : Nat} :
    NextReached R c₀ (Machine.execMemoryAccess unit addr op ecc die mb s) := by
  unfold Machine.execMemoryAccess
  refine iteNext h.next ?_
  dsimp only
  split
  · exact h.keepHart.countPoison.turnAway.next
  · exact h.keepHart.countPoison.cipViolation.next
  · exact h.keepHart.countPoison.accessAt.next
  · exact h.keepHart.countPoison.accessParts.next

theorem lifeReset {old : Envelope} : (s.lifeReset old).ReachedFrom R c₀ :=
  ite h h.recomputeLife

theorem enterSafe {cause opcode tag : Nat} : (s.enterSafe cause opcode tag).ReachedFrom R c₀ := by
  have ht : (s.enter .safe cause opcode tag).ReachedFrom R c₀ := h.enter
  exact upd ht (by rfl)

theorem powerUp {n : Nat} : (s.powerUp n).ReachedFrom R c₀ :=
  ite h (count (upd h (by rfl)))

theorem trainPorts {trained : List (PortCode × TrainResult)} : (s.trainPorts trained).ReachedFrom R c₀ :=
  foldl (fun _ _ hu => ite hu.trained hu) (foldl (fun _ _ hv => ite hv.formPort hv) h)

theorem derive : s.derive.ReachedFrom R c₀ :=
  upd h (by rfl)

theorem takeStage {c : FwComp} {bytes : List Byte} : (s.takeStage c bytes).ReachedFrom R c₀ :=
  upd h (by rfl)

theorem vauxLost {k : Nat} : (s.vauxLost k).ReachedFrom R c₀ :=
  ite (upd h (by rfl)) h

theorem closeStep : s.closeStep.ReachedFrom R c₀ := by
  unfold State.closeStep
  extract_lets recs s1 s2 s3
  have h1 : s1.ReachedFrom R c₀ := foldl (fun _ _ hu => ite hu.prfCount.prfRaise hu) h
  have h3 : s3.ReachedFrom R c₀ := drawSeal (foldl (fun _ _ hu => hu.updCh) h1.ledgerSeal)
  clear_value s3
  exact upd h3 (by rfl)

theorem brownAbandon : s.brownAbandon.ReachedFrom R c₀ :=
  ite (foldl (fun _ _ hu => hu.updCh) h) (closeStep (foldl (fun _ _ hv => hv.abandonStep) (foldl (fun _ _ hw => hw.updCh) h)))

theorem execAttest {hd : Hdr} {nonce : List Byte} : NextReached R c₀ (Machine.execAttest hd nonce s) :=
  next (h.command fun _ hu => ite hu.invalid hu.count.answer)

theorem execReadReg {hd : Hdr} {addr : Word} {count : Nat} : NextReached R c₀ (Machine.execReadReg hd addr count s) :=
  next (h.command fun _ hu => ite hu.answer hu.invalid)

theorem execWriteReg {hd : Hdr} {addr : Word} {vals : List Word} : NextReached R c₀ (Machine.execWriteReg hd addr vals s) :=
  next (h.command fun _ hu => ite (answer (foldl (fun _ _ hv => hv.writeReg) hu)) hu.invalid)

theorem execLoadFw {hd : Hdr} {comp off : Nat} {bytes : List Byte} : NextReached R c₀ (Machine.execLoadFw hd comp off bytes s) :=
  next (h.command fun _ hu => ite hu.invalid (answer (upd hu (by rfl))))

theorem execFwComplete {hd : Hdr} : NextReached R c₀ (Machine.execFwComplete hd s) :=
  next (h.command fun _ hu => hu.startLong)

theorem execFwCompleteDone : NextReached R c₀ (Machine.execFwCompleteDone s) := by
  unfold Machine.execFwCompleteDone
  split
  · exact h.next
  · exact iteNext (next (enter (endLong (upd h (by rfl))))) (next (endLong (upd (foldl (fun _ _ hu => hu.sigFail) h) (by rfl))))

theorem execArrayRepair {hd : Hdr} {arrays : List Nat} : NextReached R c₀ (Machine.execArrayRepair hd arrays s) :=
  next (h.command fun _ hu => ite hu.startLong hu.invalid)

theorem execFabricFlush {hd : Hdr} {mask : Word} : NextReached R c₀ (Machine.execFabricFlush hd mask s) :=
  next (h.command fun _ hu => ite (answer (foldl (fun _ _ hv => hv.flush) hu)) hu.invalid)

theorem retrain {c : Nat} : (s.retrain c).ReachedFrom R c₀ :=
  ite h (ite h.formPort (ite h h.updSub))

theorem execPortRetrain {hd : Hdr} {codes : List Nat} : NextReached R c₀ (Machine.execPortRetrain hd codes s) :=
  next (h.command fun _ hu => ite (ite (foldl (fun _ _ hv => hv.retrain) hu.startLong)
    (endLong (foldl (fun _ _ hw => hw.retrain) hu.startLong))) hu.invalid)

theorem execCipEnable {hd : Hdr} : NextReached R c₀ (Machine.execCipEnable hd s) :=
  next (h.command fun _ hu => ite hu.invalid (answer (upd hu (by rfl))))

theorem cipClose : s.cipClose.ReachedFrom R c₀ :=
  upd h (by rfl)

theorem execCipDisable {hd : Hdr} : NextReached R c₀ (Machine.execCipDisable hd s) :=
  next (h.command fun _ hu => answer (ite hu.cipClose hu))

theorem discardSets : s.discardSets.ReachedFrom R c₀ := by
  unfold State.discardSets
  extract_lets s1
  have h1 : s1.ReachedFrom R c₀ := foldl (fun _ _ hu => hu.flush.updFab) h
  clear_value s1
  exact upd h1 (by rfl)

theorem execMaintExit {hd : Hdr} : NextReached R c₀ (Machine.execMaintExit hd s) :=
  next (h.command fun _ hu => answer (upd (ite hu.discardSets.enter hu.enter) (by rfl)))

theorem zeroise {all : Bool} : (s.zeroise all).ReachedFrom R c₀ :=
  foldl (fun _ _ hu => hu.updPrf) (upd h (by rfl))

theorem execRecoverLoad {hd : Hdr} {off : Word} {bytes : List Byte} {word3 : Word} :
    NextReached R c₀ (Machine.execRecoverLoad hd off bytes word3 s) :=
  next (h.command fun _ hu => ite hu.invalid (ite hu.invalid (ite hu.invalid (ite (startLong (upd hu (by rfl))) (answer (upd hu (by rfl)))))))

theorem imageInvalid {d reason : Nat} : (s.imageInvalid d reason).ReachedFrom R c₀ :=
  h.updFab.raise

theorem loadLeaven {d set : Nat} : (s.loadLeaven d set).ReachedFrom R c₀ :=
  upd h (by rfl)

theorem loadStores {d set : Nat} : (s.loadStores d set).ReachedFrom R c₀ :=
  foldl (fun _ _ hu => hu.store) h

theorem finishImage {d len : Nat} : (s.finishImage d len).ReachedFrom R c₀ :=
  ite h.imageInvalid.updFab (ite h.pipeRaise.updFab h.loadStores.loadLeaven.updFab)

theorem loadChunk {d off : Nat} {bytes : List Byte} {final : Bool} : (s.loadChunk d off bytes final).ReachedFrom R c₀ :=
  ite h.imageInvalid (ite h.imageInvalid.updFab (ite (finishImage (updFab (upd h (by rfl)))) (updFab (upd h (by rfl)))))

theorem execLoadImage {hd : Hdr} {mask : Word} {off : Nat} {bytes : List Byte} {final : Bool} :
    NextReached R c₀ (Machine.execLoadImage hd mask off bytes final s) :=
  next (h.command fun _ hu => ite hu.invalid (answer (foldl (fun _ _ hv => hv.loadChunk) hu)))

theorem execActivate {hd : Hdr} {mask : Word} : NextReached R c₀ (Machine.execActivate hd mask s) :=
  next (h.command fun _ hu => ite hu.invalid (ite hu.invalid (answer (upd hu (by rfl)))))

theorem execSwapRequest {hd : Hdr} {mask : Word} : NextReached R c₀ (Machine.execSwapRequest hd mask s) :=
  next (h.command fun _ hu => ite hu.invalid (ite hu.invalid (answer (foldl (fun _ _ hv => hv.updFab) hu))))

theorem execReactivate {hd : Hdr} {mask : Word} : NextReached R c₀ (Machine.execReactivate hd mask s) :=
  next (h.command fun _ hu => ite hu.invalid (ite hu.invalid (answer (upd hu (by rfl)))))

theorem entryPrf : s.entryPrf.ReachedFrom R c₀ :=
  h.applyShadow

theorem execCommitConfig {hd : Hdr} : NextReached R c₀ (Machine.execCommitConfig hd s) :=
  next (h.command fun _ hu => ite hu.invalid hu.enter.answer)

theorem raiseFaults {t : State} : (s.raiseFaults t).ReachedFrom R c₀ :=
  foldl (fun _ _ hu => hu.raise) (foldl (fun _ _ hv => ite hv hv.raise) h)

theorem raiseRunFaults : s.raiseRunFaults.ReachedFrom R c₀ :=
  h.raiseFaults

theorem entryCadence : s.entryCadence.ReachedFrom R c₀ :=
  upd h (by rfl)

theorem applyEntry : s.applyEntry.ReachedFrom R c₀ :=
  foldl (fun _ _ hu => hu.kvApply) h.entryPrf.applyShadow.applyPage.entryCadence

theorem execRun {hd : Hdr} : NextReached R c₀ (Machine.execRun hd s) := by
  refine next (h.command fun u hu => ite hu.raiseRunFaults.invalid ?_)
  have hy : u.applyEntry.ReachedFrom R c₀ := hu.applyEntry
  generalize u.applyEntry = y at hy ⊢
  exact answer (enter (upd hy (by rfl)))

theorem execResume {hd : Hdr} : NextReached R c₀ (Machine.execResume hd s) :=
  next (h.command fun _ hu => ite hu.raiseFaults.invalid (answer (enter (upd hu.applyPage (by rfl)))))

theorem discardFrame : s.discardFrame.ReachedFrom R c₀ :=
  h.count

theorem discardSegment : s.discardSegment.ReachedFrom R c₀ :=
  h.count

theorem setRx {ch : Nat} {p : RxPart} : (s.setRx ch p).ReachedFrom R c₀ :=
  upd h (by rfl)

theorem takeSegment {f : Frame} : (s.takeSegment f).ReachedFrom R c₀ := by
  unfold State.takeSegment
  extract_lets w ch seg len p s1 old q s2 m
  have h1 : s1.ReachedFrom R c₀ := ite h.discardSegment h
  clear_value s1
  exact ite h.discardSegment (ite h.setRx.discardSegment (ite h.setRx.discardSegment (ite (upd h1 (by rfl)) h1.setRx)))

theorem execSegment {f : Frame} : NextReached R c₀ (Machine.execSegment f s) :=
  iteNext h.next (iteNext h.discardFrame.next (iteNext h.next (iteNext h.discardFrame.next (iteNext h.next h.takeSegment.next))))

theorem execCredit {word0 : Word} {offset : DWord} {word3 : Word} : NextReached R c₀ (Machine.execCredit word0 offset word3 s) :=
  iteNext h.next (iteNext h.takeRx.discardSegment.next (iteNext (next (upd h (by rfl))) h.takeRx.next))

theorem execNak {word0 : Word} {offset : DWord} {word3 : Word} : NextReached R c₀ (Machine.execNak word0 offset word3 s) := by
  refine iteNext h.next (iteNext h.takeRx.discardSegment.next (iteNext (next (upd h ?_)) h.takeRx.next))
  unfold State.control
  rw [Ctl.put_stored]
  rfl

theorem execIngest {off : Nat} {bytes : List Byte} {dest consumed : Nat} : NextReached R c₀ (Machine.execIngest off bytes dest consumed s) := by
  refine iteNext h.next (iteNext (next (upd h (by rfl))) (iteNext h.takeRx.next (iteNext h.next (next (upd h ?_)))))
  unfold State.control
  dsimp only
  split <;> rfl

theorem execCtlRamtorFailover : NextReached R c₀ (Machine.execCtlRamtorFailover s) :=
  iteNext h.next (next (raise (count (upd h (by rfl)))))

theorem execLedgerSend : NextReached R c₀ (Machine.execLedgerSend s) := by
  unfold Machine.execLedgerSend
  split
  · exact h.next
  · exact iteNext (next (upd h (by rfl))) h.next

theorem takeMargins {margins : List (Fin 24 × Fin 32 × Nat)} : (s.takeMargins margins).ReachedFrom R c₀ :=
  foldl (fun _ _ hu => hu.takeMargin.monSample) h

theorem heartbeats : s.heartbeats.ReachedFrom R c₀ :=
  foldl (fun _ _ hu => hu.heartbeat) h

theorem tickSwaps : s.tickSwaps.ReachedFrom R c₀ :=
  foldl (fun _ _ hu => activationPoint (ite hu.swapPoint hu)) h

theorem startDue : s.startDue.ReachedFrom R c₀ := by
  unfold State.startDue
  refine ite h ?_
  split
  · exact h
  · exact beginStep (foldl (fun _ _ hu => hu.prfApply) h)
  · exact h.beginStep

theorem swapAtSeal {d : Nat} : (s.swapAtSeal d).ReachedFrom R c₀ := by
  unfold State.swapAtSeal
  exact h.setRw.updFab

theorem execRotation {images : List (Die × List Byte)} : NextReached R c₀ (Machine.execRotation images s) :=
  iteNext h.next (next (upd (foldl (fun _ _ hu => ite hu.loadChunk.swapAtSeal hu.loadChunk) h) (by rfl)))

end State.ReachedFrom
end Sys2Proof.Machine
end

section
/-! The control side: the commands that move more of it. -/

namespace Sys2Proof.Machine
namespace State.ReachedFrom
variable {c₀ : Control} {s : State} (h : s.ReachedFrom Control.Move c₀)
include h

theorem execKeysetRotate {hd : Hdr} {digest sigRsa sigSlh : List Byte} :
    NextReached Control.Move c₀ (Machine.execKeysetRotate hd digest sigRsa sigSlh s) :=
  next (h.command fun _ hu => ite hu.invalid (ite hu.invalid (ite (answer (hu.blow (.rotate digest))) hu.sigFail.answer)))

theorem execTamperClear {hd : Hdr} : NextReached Control.Move c₀ (Machine.execTamperClear hd s) :=
  next (h.command fun _ hu => answer (hu.blow .tamperClear))

theorem execFloorRaise {hd : Hdr} {floor : Word} : NextReached Control.Move c₀ (Machine.execFloorRaise hd floor s) := by
  refine next (h.command fun u hu => ?_)
  dsimp only
  split
  · next hfloor => exact answer (hu.blow (.floorRaise hfloor.1))
  · exact hu.invalid

theorem execSecTamper : NextReached Control.Move c₀ (Machine.execSecTamper s) :=
  iteNext (next (raise (count (h.blow .tamper)))) h.next

theorem takeIn {page : Nat} : State.ReachedFrom { s with evt := s.evt.takeIn page } Control.Move c₀ := by
  unfold EvtBlock.takeIn
  split
  · exact h
  · split
    · exact h
    · next hroom => exact h.step (.takeIn _ (Nat.lt_of_not_le hroom))

theorem takeInAll (order : List Nat) : State.ReachedFrom { s with evt := order.foldl EvtBlock.takeIn s.evt } Control.Move c₀ :=
  List.foldlRecOn (motive := fun e : EvtBlock => State.ReachedFrom { s with evt := e } Control.Move c₀) order _ h fun _ he _ _ => he.takeIn

theorem execEventAdmit {first : BitVec 16} : NextReached Control.Move c₀ (Machine.execEventAdmit first s) :=
  next (h.takeInAll _)

theorem execEventChannelSend {n : Nat} : NextReached Control.Move c₀ (Machine.execEventChannelSend n s) := by
  unfold Machine.execEventChannelSend
  extract_lets recs
  split
  · next hs =>
    have hsent : s.evt.portTaken + recs.length ≤ s.evt.ring.length := by
      have hpos : 0 < recs.length := List.length_pos_iff.mpr (by simpa using (Bool.and_eq_true_iff.mp hs).2)
      have hle : recs.length ≤ s.evt.ring.length - s.evt.portTaken := by simp [recs]
      omega
    exact next (release (h.step (.send hsent)))
  · exact h.next

theorem copied {wp wraps : Nat} (hleft : s.evt.hostTaken < s.evt.ring.length) :
    State.ReachedFrom { s with evt := { s.evt with hostTaken := s.evt.hostTaken + 1, hostWp := wp, hostWraps := wraps } } Control.Move c₀ :=
  h.step (.copy hleft)

theorem execEventHostCopy : NextReached Control.Move c₀ (Machine.execEventHostCopy s) := by
  unfold Machine.execEventHostCopy
  refine iteNext h.next ?_
  split
  · exact h.next
  · next r rest hrest =>
    have h1 := h.storeFor (u := .hostCore 0 0) (a := s.hostBase + 32 * s.evt.hostWp) (bs := r.bytes) (mb := 0xFFFF)
    have hleft := State.hostLeft_storeFor (.hostCore 0 0) (s.hostBase + 32 * s.evt.hostWp) r.bytes 0xFFFF (lt_length_of_drop_eq_cons hrest)
    dsimp only
    generalize s.storeFor (.hostCore 0 0) (s.hostBase + 32 * s.evt.hostWp) r.bytes 0xFFFF = s1 at h1 hleft ⊢
    exact iteNext (next (release (h1.copied hleft))) h.next

theorem hourEnds {hlt : Health} : State.ReachedFrom { s with hlt := hlt, fuse := { s.fuse with hours := s.fuse.hours + 1 } } Control.Move c₀ :=
  upd (h.blow .hour) (by rfl)

theorem execHourlyTrend : NextReached Control.Move c₀ (Machine.execHourlyTrend s) := by
  unfold Machine.execHourlyTrend
  dsimp only
  refine next (recomputeLife (hourEnds ?_))
  refine foldl (fun _ _ hu => ite (raise (count (upd hu (by rfl)))) (upd hu (by rfl))) (foldl (fun _ _ hu => ?_) h)
  split
  · exact hu
  · exact ite (raise (count (upd hu (by rfl)))) (upd hu (by rfl))

theorem bellowsPass {rails : List (Fin 9 × Nat × Nat)} {nElig : Nat} : (s.bellowsPass rails nElig).ReachedFrom Control.Move c₀ :=
  h.step (.levels (State.bellowsLevels_le s _ _).1 (State.bellowsLevels_le s _ _).2)

theorem microsecond : s.microsecond.ReachedFrom Control.Move c₀ :=
  h.step (.time _ _ _)

theorem bootReset : s.bootReset.ReachedFrom Control.Move c₀ :=
  h.step .boot

theorem enterBoot {cause opcode tag : Nat} : (s.enterBoot cause opcode tag).ReachedFrom Control.Move c₀ :=
  lifeReset (ite h.bootReset h.bootReset.raise)

theorem enterOff : s.enterOff.ReachedFrom Control.Move c₀ :=
  upd h.bootReset (by rfl)

theorem writeSoft {array map n : Nat} : (s.writeSoft array map n).ReachedFrom Control.Move c₀ :=
  foldl (fun _ _ hu => hu.count.raise) (h.blow (.softMaps _))

theorem initArray {array : Nat} {badRows badCols : List Nat} : (s.initArray array badRows badCols).ReachedFrom Control.Move c₀ :=
  ite (raise (setEng (ite h h.writeSoft))) (foldl (fun _ _ hu => hu.raise) (setEng (ite h h.writeSoft)))

theorem bringUp {trained : List (PortCode × TrainResult)} : (s.bringUp trained).ReachedFrom Control.Move c₀ := by
  unfold State.bringUp
  extract_lets s1 s2 s3
  have h3 : s3.ReachedFrom Control.Move c₀ := trainPorts (foldl (fun _ _ hu => hu.initArray) (foldl (fun _ _ hv => hv.powerUp) h))
  clear_value s3
  exact upd (h3.blow (.zeroPending false)) (by rfl)

theorem bootRun {b : BootInput} : (s.bootRun b).ReachedFrom Control.Move c₀ := by
  unfold State.bootRun
  extract_lets _ s1 s2 judge
  have h2 : s2.ReachedFrom Control.Move c₀ := derive (foldl (fun _ _ hu => hu.powerUp) (upd h (by rfl)))
  clear_value s2
  refine ite h ?_
  split
  · exact h2.takeStage.bringUp
  · exact h2.takeStage.bringUp
  · exact h2.sigFail.enterSafe

theorem execResetNDeassert {b : BootInput} : NextReached Control.Move c₀ (Machine.execResetNDeassert b s) := by
  unfold Machine.execResetNDeassert
  dsimp only
  split
  · exact next (bootRun (enterBoot (upd h (by rfl))))
  · exact iteNext (next (bootRun (upd h (by rfl)))) (next (upd h (by rfl)))
  · exact next (upd h (by rfl))

theorem execResetNAssert : NextReached Control.Move c₀ (Machine.execResetNAssert s) :=
  next (enterOff (upd h (by rfl)))

theorem execPwrGoodLoss : NextReached Control.Move c₀ (Machine.execPwrGoodLoss s) :=
  next (enterOff (upd h (by rfl)))

theorem brownBoot {k : Nat} : (s.brownBoot k).ReachedFrom Control.Move c₀ := by
  unfold State.brownBoot
  extract_lets t _ u
  have ht : t.ReachedFrom Control.Move c₀ := h.enterBoot.vauxLost
  have hu : u.ReachedFrom Control.Move c₀ := upd ht (by rfl)
  clear_value u
  exact ite hu (upd hu (by rfl))

theorem execPwrBrownout {rail : Fin 9} : NextReached Control.Move c₀ (Machine.execPwrBrownout rail s) := by
  unfold Machine.execPwrBrownout
  extract_lets k lost s1 s2 _ b s3 s4
  have h2 : s2.ReachedFrom Control.Move c₀ := raise (ite h h.count)
  have h3 : s3.ReachedFrom Control.Move c₀ := upd h2 (by rfl)
  have h4 : s4.ReachedFrom Control.Move c₀ := foldl (fun _ _ hu => hu.updCh) h3
  clear_value s4 s3 s2
  exact iteNext h.vauxLost.next (iteNext h2.brownBoot.next (iteNext (next (enter (upd h4 (by rfl)))) h3.next))

theorem execBrownoutRecovery {b : BootInput} : NextReached Control.Move c₀ (Machine.execBrownoutRecovery b s) := by
  unfold Machine.execBrownoutRecovery
  refine iteNext h.next ?_
  dsimp only
  split
  · exact iteNext (next (bootRun (upd h (by rfl)))) (next (upd h (by rfl)))
  · exact next (upd h (by rfl))
  · exact next (upd h (by rfl))
  · exact next (ite (brownAbandon (setMode (upd h (by rfl)))) (setMode (upd h (by rfl))))

theorem execHltThermtrip {sensor : Sensor} {c : Nat} : NextReached Control.Move c₀ (Machine.execHltThermtrip sensor c s) := by
  unfold Machine.execHltThermtrip
  extract_lets s1 _ _ _ s2 s3
  have h1 : s1.ReachedFrom Control.Move c₀ := h.readSensor
  have h2 : s2.ReachedFrom Control.Move c₀ := upd (h1.blow .thermtrip) (by rfl)
  have h3 : s3.ReachedFrom Control.Move c₀ := ite h2.raise h2
  clear_value s3
  exact iteNext (next (ite h3 h3.enterSafe)) h1.next

theorem execZeroise {hd : Hdr} {arg : Word} : NextReached Control.Move c₀ (Machine.execZeroise hd arg s) :=
  next (h.command fun _ hu => ite hu.invalid (startLong (upd (hu.blow (.zeroPending true)) (by rfl))))

theorem execZeroiseDone : NextReached Control.Move c₀ (Machine.execZeroiseDone s) := by
  unfold Machine.execZeroiseDone
  split
  · exact h.next
  · extract_lets s1
    have h1 : s1.ReachedFrom Control.Move c₀ := h.zeroise
    clear_value s1
    exact next (endLong (h1.blow (.zeroPending false)))

theorem execReset {hd : Hdr} {b : BootInput} : NextReached Control.Move c₀ (Machine.execReset hd b s) :=
  next (h.command fun _ hu => hu.answer.enterBoot.bootRun)

theorem execRecoverVerifyDone {trained : List (PortCode × TrainResult)} :
    NextReached Control.Move c₀ (Machine.execRecoverVerifyDone trained s) := by
  unfold Machine.execRecoverVerifyDone
  split
  · exact h.next
  · split
    · exact h.sigFail.endLong.next
    · extract_lets slot image t _ t1
      have ht : t.ReachedFrom Control.Move c₀ := h.enterBoot
      have h1 : t1.ReachedFrom Control.Move c₀ := endLong (upd ht (by rfl))
      clear_value t1
      exact next (bringUp (takeStage (derive (foldl (fun _ _ hu => hu.powerUp) h1))))

theorem execArrayRepairDone {results : List SelfTest} : NextReached Control.Move c₀ (Machine.execArrayRepairDone results s) := by
  unfold Machine.execArrayRepairDone
  split
  · exact h.next
  · exact next (endLong (foldl (fun _ _ hu => hu.initArray) h))

theorem toEdge : s.toEdge.ReachedFrom Control.Move c₀ :=
  h.step (.time _ _ _)

theorem countTick : s.countTick.ReachedFrom Control.Move c₀ :=
  h.step (.time _ _ _)

theorem execTick {trims : List (Pd × Trim)} {margins : List (Fin 24 × Fin 32 × Nat)} :
    NextReached Control.Move c₀ (Machine.execTick trims margins s) :=
  iteNext h.next (iteNext h.toEdge.countTick.next (next (startDue
    (sealEdge (tickSwaps (heartbeats (takeMargins (foldl (fun _ _ hu => hu.trim) h.toEdge.countTick.startNarrow))))))))

theorem execBellowsLoop {rails : List (Fin 9 × Nat × Nat)} : NextReached Control.Move c₀ (Machine.execBellowsLoop rails s) :=
  iteNext h.next (iteNext h.microsecond.next h.bellowsPass.microsecond.ingestUs.next)

end State.ReachedFrom
end Sys2Proof.Machine
end

section
/-! The control side: the table of the commands. -/

namespace Sys2Proof.Machine

/-- Every command leads to a control side that moves reach. -/
theorem State.ReachedFrom.exec {c₀ : Control} {s : State} (h : s.ReachedFrom Control.Move c₀) (i : Instr) :
    NextReached Control.Move c₀ (Machine.exec i s) := by
  unfold Machine.exec
  split
  · exact h.execAttest
  · exact h.execReadReg
  · exact h.execWriteReg
  · exact h.execLoadFw
  · exact h.execFwComplete
  · exact h.execFwCompleteDone
  · exact h.execLoadImage
  · exact h.execActivate
  · exact h.execSwapRequest
  · exact h.execCommitConfig
  · exact h.execReactivate
  · exact h.execRun
  · exact h.execHold
  · exact h.execResume
  · exact h.execStop
  · exact h.execArrayRepair
  · exact h.execArrayRepairDone
  · exact h.execFabricFlush
  · exact h.execPortRetrain
  · exact h.execCadReacquire
  · exact h.execCkptExport
  · exact h.execCkptImport
  · exact h.execCkptStop
  · exact h.execLedgerAck
  · exact h.execCap
  · exact h.execSupplyHold
  · exact h.execShed
  · exact h.execFreqDev
  · exact h.execSupplyMsgTick
  · exact h.execHoldExpiry
  · exact h.execCipEnable
  · exact h.execCipDisable
  · exact h.execMaintEnter
  · exact h.execMaintExit
  · exact h.execDebugUnlock
  · exact h.execKeysetRotate
  · exact h.execZeroise
  · exact h.execZeroiseDone
  · exact h.execTamperClear
  · exact h.execFloorRaise
  · exact h.execReset
  · exact h.execRecoverLoad
  · exact h.execRecoverVerifyDone
  · exact h.execCommandReservedOpcode
  · exact h.execSegment
  · exact h.execCredit
  · exact h.execNak
  · exact h.execIngest
  · exact h.execCtlRamtorFailover
  · exact h.execLedgerSend
  · exact h.execEventAdmit
  · exact h.execEventChannelSend
  · exact h.execEventHostCopy
  · exact h.execResetNDeassert
  · exact h.execResetNAssert
  · exact h.execPwrGoodLoss
  · exact h.execSupplyAlert
  · exact h.execPllSwitch
  · exact h.execSupplyAlertRelease
  · exact h.execPresenceNChange
  · exact h.execPresence
  · exact h.execSecTamper
  · exact h.execPwrBrownout
  · exact h.execBrownoutRecovery
  · exact h.execTempWarn
  · exact h.execTempLimit
  · exact h.execHltThermtrip
  · exact h.execMemRefreshBand
  · exact h.execDroop
  · exact h.execDroopEnd
  · exact h.execTick
  · exact h.execStepSeal
  · exact h.execSync
  · exact h.execFollowUp
  · exact h.execAnnounce
  · exact h.execDelayResp
  · exact h.execSyncTimeout
  · exact h.execCadenceEdge
  · exact h.execPulseInconsistent
  · exact h.execPulseConsistent
  · exact h.execPulseLoss
  · exact h.execLocked
  · exact h.execCadLost
  · exact h.execRelock
  · exact h.execBellowsLoop
  · exact h.execPwrRampRelaxed
  · exact h.execMode
  · exact h.execRotation
  · exact h.execReqOn
  · exact h.execDomainRampDone
  · exact h.execHourlyTrend
  · exact h.execRingOscSample
  · exact h.execRetentionCanary
  · exact h.execPatrolScrub
  · exact h.execMemoryAccess
  · exact h.execRegisterWrite
  · exact h.execMbxSel
  · exact h.execMailboxSnapshot
  · exact h.execQuiesceReq
  · exact h.execEnable
  · exact h.execLeavenW0Write
  · exact h.execDrop
  · exact h.execAbandon
  · exact h.execHoldLimitExpiry
  · exact h.execMpdAccept
  · exact h.execDescriptorRecord
  · exact h.execTileFetch
  · exact h.execPreload
  · exact h.execShadowLoadDone
  · exact h.execPassStart
  · exact h.execPassAccept
  · exact h.execCheckFailure
  · exact h.execOverflow
  · exact h.execRung3Move
  · exact h.execEngOperandUncorrectable
  · exact h.execDrain
  · exact h.execEpilogueRow
  · exact h.execMpdComplete
  · exact h.execEmptyMpd
  · exact h.execBallastPass
  · exact h.execMulticastUnit
  · exact h.execSeqMcastStall
  · exact h.execReedFiring
  · exact h.execCounterWrap
  · exact h.execGoToken
  · exact h.execSel
  · exact h.execBr
  · exact h.execEndToken
  · exact h.execPhaseToken
  · exact h.execDoneToken
  · exact h.execStreamRun
  · exact h.execStreamRunEnd
  · exact h.execFabStarve
  · exact h.execCreditAudit
  · exact h.execSwap
  · exact h.execReactivation
  · exact h.execStepStart
  · exact h.execForwardPhase
  · exact h.execBackwardPhase
  · exact h.execIssue
  · exact h.execExtent
  · exact h.execGo
  · exact h.execWord
  · exact h.execWait
  · exact h.execArm
  · exact h.execSend
  · exact h.execRecv
  · exact h.execDoneLayer
  · exact h.execEnd
  · exact h.execNextComplete
  · exact h.execRevert
  · exact h.execPartialRow
  · exact h.execContributionComplete
  · exact h.execDelivery
  · exact h.execStatePrefetch
  · exact h.execChunkApply
  · exact h.execNextCompleteSend
  · exact h.execSegmentNotice
  · exact h.execPoison
  · exact h.execRelease
  · exact h.execAbandonNotice
  · exact h.execSealExchange
  · exact h.execDivergenceRecovery
  · exact h.execExportFrame
  · exact h.execImportFrame
  · exact h.execDataFlit
  · exact h.execNakFlit
  · exact h.execAckTimeout
  · exact h.execLnkLaneRetired
  · exact h.execLaneMarginLimit
  · exact h.execLockLoss
  · exact h.execFastRetrainEnd
  · exact h.execTrainingEnd
  · exact h.execHeartbeat
  · exact h.execLnkPartition
  · exact h.execCollectiveData
  · exact h.execWindowCredit
  · exact h.execCollectiveAbort
  · exact h.execColTimeout
  · exact h.execConduitNotice
  · exact h.execConduitData
  · exact h.execBulkReadRequest
  · exact h.execBulkData
  · exact h.execOpen
  · exact h.execFork
  · exact h.execAppend
  · exact h.execFree
  · exact h.execAdvance
  · exact h.execReaderClose
  · exact h.execManifest
  · exact h.execContainerDemux
  · exact h.execStreamContextOpen
  · exact h.execPictureDecode
  · exact h.execFragment
  · exact h.execGenerationPublish
  · exact h.execGenerationRetire
  · exact h.execIngestQueueEntry
  · exact h.execIngestRun
  · exact h.execSpanSubmit
  · exact h.execIngCipViolation
  · exact h.execSealLoopChange
  · exact h.execSrc
  · exact h.execIdleFlit

/-- Every command answers a next state, and moves alone lead from the control side before it to the one after it. -/
theorem exec_reaches (c : Instr) (s : State) : NextReached Control.Move s.control (Machine.exec c s) :=
  State.ReachedFrom.exec ⟨.quiet, .refl⟩ c

end Sys2Proof.Machine
end

section
/-! The bounds of the control side (R354, R370, R421): each move keeps them, hence every command does, hence the step does. -/

namespace Sys2Proof.Machine

/-- The bounds of `State.boundsOk`, on the control side alone. -/
def Control.Bounded (c : Control) : Prop :=
  c.stored.length ≤ 64 ∧ c.ring.length ≤ 4096 ∧ c.portTaken ≤ c.ring.length ∧ c.hostTaken ≤ c.ring.length ∧
    c.throttle ≤ 15 ∧ c.ballast ≤ 15

theorem State.boundsOk_iff {s : State} : s.boundsOk ↔ s.control.Bounded := Iff.rfl

theorem Control.Move.bounded {c d : Control} (m : c.Move d) (h : c.Bounded) : d.Bounded := by
  obtain ⟨hstored, hring, hport, hhost, hthrottle, hballast⟩ := h
  cases m with
  | quiet hq =>
    cases hq with
    | answer r => exact ⟨List.length_take_le _ _, hring, hport, hhost, hthrottle, hballast⟩
    | amend g => exact ⟨by simpa using hstored, hring, hport, hhost, hthrottle, hballast⟩
    | release n =>
      have hlen : (c.ring.drop n).length = c.ring.length - n := List.length_drop
      refine ⟨hstored, ?_, ?_, ?_, hthrottle, hballast⟩ <;> dsimp only <;> rw [hlen] <;> omega
  | time no replicas us => exact ⟨hstored, hring, hport, hhost, hthrottle, hballast⟩
  | takeIn r hroom =>
    have hlen : (c.ring ++ [r]).length = c.ring.length + 1 := List.length_append
    have hlt : c.ring.length < 4096 := hroom
    refine ⟨hstored, ?_, ?_, ?_, hthrottle, hballast⟩ <;> dsimp only <;> rw [hlen] <;> omega
  | send hsent => exact ⟨hstored, hring, hsent, hhost, hthrottle, hballast⟩
  | copy hleft => exact ⟨hstored, hring, hport, hleft, hthrottle, hballast⟩
  | levels hk hb => exact ⟨hstored, hring, hport, hhost, hk.trans (max_le hthrottle le_rfl), hb.trans (max_le hballast le_rfl)⟩
  | boot => simp [Control.Bounded]
  | blow hf => exact ⟨hstored, hring, hport, hhost, hthrottle, hballast⟩

theorem Control.bounded_of_moves {c d : Control} (h : Relation.ReflTransGen Control.Move c d) (hc : c.Bounded) : d.Bounded := by
  induction h with
  | refl => exact hc
  | tail _ m ih => exact m.bounded ih

theorem exec_boundsOk {c : Instr} {s t : State} (hs : s.boundsOk) (ht : exec c s = .next t) : t.boundsOk := by
  have hnext : NextReached Control.Move s.control (exec c s) := exec_reaches c s
  rw [ht] at hnext
  exact State.boundsOk_iff.mpr (Control.bounded_of_moves hnext.path (State.boundsOk_iff.mp hs))

/-- Settles O6: a command moves the control side only as `Control.Move` says, and each move keeps the bounds. -/
theorem storesStayBounded : Obligations.StoresStayBounded := by
  unfold Obligations.StoresStayBounded
  intro s t hs ht
  unfold step at ht
  split at ht
  · cases ht
    exact hs
  · next rest _ => exact exec_boundsOk (s := { s with pending := rest }) hs ht

end Sys2Proof.Machine
end

section
/-! Reading rules that the cadence unit, the Bellows and the power domains share: what a table, a counter and a register word read as after a
write, whatever order the table's keys stand in. -/

namespace Sys2Proof

/-- A value other than that of the unlisted keys disturbs no other key, whatever the order of the table's keys. -/
theorem Tbl.lookup_insert_of_ne_default {α : Type} [DecidableEq α] {d v : α} (hv : v ≠ d) {j k : Nat} (hj : j ≠ k) :
    ∀ l : List (Nat × α), Tbl.lookup d j (Tbl.insert d k v l) = Tbl.lookup d j l
  | [] => by simp [Tbl.insert, Tbl.lookup, hv, hj.symm]
  | (a, u) :: rest => by
    have ih := Tbl.lookup_insert_of_ne_default hv hj rest
    rcases lt_trichotomy a k with h | rfl | h
    · simp [Tbl.insert, Tbl.lookup, h, ih]
    · simp [Tbl.insert, Tbl.lookup, hv, hj.symm]
    · simp only [Tbl.insert, Tbl.lookup, hv, Nat.lt_asymm h, Nat.ne_of_gt h, hj.symm, ↓reduceIte, ite_eq_left_iff, not_lt]
      intro hjk
      simp [show ¬ a < j by omega, show a ≠ j by omega]

theorem Tbl.get_set_of_ne_default {α : Type} [DecidableEq α] {d v : α} (hv : v ≠ d) {j k : Nat} (hj : j ≠ k) (t : Tbl α) :
    (t.set d k v).get d j = t.get d j :=
  Tbl.lookup_insert_of_ne_default hv hj t.cells

/-- A write disturbs no other key, whatever that key reads as where it is not listed. -/
theorem Tbl.lookup_insert_of_ne {α : Type} [DecidableEq α] {d d' v : α} {j k : Nat} (hj : j ≠ k) :
    ∀ l : List (Nat × α), Tbl.sorted none l = true → Tbl.lookup d' j (Tbl.insert d k v l) = Tbl.lookup d' j l
  | [], _ => by by_cases hv : v = d <;> simp [Tbl.insert, Tbl.lookup, hv, hj.symm]
  | (a, u) :: rest, h => by
    have hrest : Tbl.sorted (some a) rest = true := h
    have ih := Tbl.lookup_insert_of_ne (d := d) (d' := d') (v := v) hj rest (Tbl.sorted_none _ hrest)
    have hbelow : ∀ i, i ≤ a → Tbl.lookup d' i rest = d' := fun i hi => Tbl.lookup_below d' i a hi rest hrest
    simp only [Tbl.insert]
    rcases lt_trichotomy a k with hak | rfl | hak
    · simp only [hak, ↓reduceIte, Tbl.lookup, ih]
    · by_cases hv : v = d <;> simp only [lt_irrefl, hv, ↓reduceIte, Tbl.lookup] <;> grind
    · by_cases hv : v = d <;> simp only [Nat.lt_asymm hak, Nat.ne_of_gt hak, hv, ↓reduceIte, Tbl.lookup] <;> grind

theorem Tbl.get_set_of_ne {α : Type} [DecidableEq α] {d d' : α} {t : Tbl α} (h : t.ordered) {j k : Nat} (hj : j ≠ k) (v : α) :
    (t.set d k v).get d' j = t.get d' j :=
  Tbl.lookup_insert_of_ne hj t.cells h

/-- One value written at every key of a list. -/
theorem Tbl.get_foldl_set {α : Type} [DecidableEq α] (d v : α) (j : Nat) : ∀ (l : List Nat) (t : Tbl α), t.ordered →
    (l.foldl (fun t k => t.set d k v) t).get d j = if j ∈ l then v else t.get d j
  | [], _, _ => by simp
  | k :: l, t, ht => by
    have ih := Tbl.get_foldl_set d v j l (t.set d k v) (Tbl.ordered_set ht k v)
    rw [List.foldl_cons, ih, Tbl.get_set_ordered ht]
    by_cases hl : j ∈ l <;> by_cases hk : j = k <;> simp [hl, hk]

end Sys2Proof

namespace Sys2Proof.Machine

theorem State.cntAt_count_succ (s : State) (a n : Nat) : (s.count a (n + 1)).cntAt a = s.cntAt a + (n + 1) :=
  Tbl.get_set_self (Nat.succ_ne_zero _) s.cnt a

theorem State.cntAt_count_succ_other (s : State) {a b : Nat} (hb : b ≠ a) (n : Nat) : (s.count a (n + 1)).cntAt b = s.cntAt b :=
  Tbl.get_set_of_ne_default (Nat.succ_ne_zero _) hb s.cnt

/-- An event that is raised moves no counter but LOST and MASKED of the event page (R419, R420). -/
theorem State.cntAt_raise (s : State) (page code : Nat) (pl : List Byte) {b : Nat} (hmasked : b ≠ regAddr Page.event 0x48)
    (hlost : b ≠ regAddr Page.event 0x44) : (s.raise page code pl).cntAt b = s.cntAt b := by
  have hcnt : (s.raise page code pl).cnt = s.cnt ∨ ∃ a, b ≠ a ∧ (s.raise page code pl).cnt = (s.count a 1).cnt := by
    unfold State.raise
    dsimp only
    split
    · exact .inr ⟨_, hmasked, rfl⟩
    · split
      · exact .inr ⟨_, hlost, rfl⟩
      · exact .inl rfl
  rcases hcnt with h | ⟨a, hb, h⟩
  · rw [State.cntAt, h, State.cntAt]
  · rw [State.cntAt, h]
    exact State.cntAt_count_succ_other s hb 0

theorem State.rwAt_setRw {s : State} (h : s.rw.ordered) (a b : Nat) (w : Word) :
    (s.setRw a w).rwAt b = if b = a then w else s.rwAt b := by
  by_cases hb : b = a
  · subst hb
    exact Tbl.get_set_ordered h b b w
  · rw [if_neg hb]
    exact Tbl.get_set_of_ne h hb w

theorem State.rwAt_setRw_same {s : State} (h : s.rw.ordered) (a : Nat) (w : Word) : (s.setRw a w).rwAt a = w := by
  rw [State.rwAt_setRw h a a w, if_pos rfl]

end Sys2Proof.Machine
end

section
/-! A command that is legal in the device state but does not meet what R380 asks besides: RUN and RESUME without a LOCKED cadence unit (R348). -/

namespace Sys2Proof.Machine

/-- A command that would be accepted but is not fit is refused, and counts as one that its state refuses (R378, R380). -/
theorem State.command_unfit {s : State} {h : Hdr} {op : Nat} (isSealed : Bool) (act : State → State) (ha : s.accepts h op = true)
    (hl : legalIn op s.ctl.state = .yes) : s.command h op isSealed act false = (s.takeRx 0 h.tag.toNat).refuse h op := by
  simp only [State.accepts, Bool.and_eq_true, decide_eq_true_eq, Option.isNone_iff_eq_none] at ha
  obtain ⟨⟨⟨⟨⟨⟨htakes, htag⟩, hnew⟩, hresv⟩, hknown⟩, -⟩, -⟩ := ha
  simp only [State.command, htakes, if_neg htag, hnew, hresv, hknown, hl]
  rfl

theorem State.refuse_responded (s : State) (h : Hdr) (op : Nat) : (s.refuse h op).responded h op stRefused :=
  State.answer_responded _ h op stRefused 0 []

theorem State.refuse_onlyAnswered (s : State) (h : Hdr) (op : Nat) : s.onlyAnswered ((s.takeRx 0 h.tag.toNat).refuse h op) := rfl

/-- RUN and RESUME are legal or not by the device state alone (R379). -/
theorem legalIn_run_or_resume {op : Nat} (hop : op = 0x0020 ∨ op = 0x0022) (st : DevState) : legalIn op st = .no ∨ legalIn op st = .yes := by
  rcases hop with rfl | rfl <;> cases st <;> decide

theorem State.legalIn_ne_no {s : State} {h : Hdr} {op : Nat} (ha : s.accepts h op = true) : legalIn op s.ctl.state ≠ .no := by
  intro hno
  simp [State.accepts, hno] at ha

theorem State.command_unlocked {s : State} {h : Hdr} {op : Nat} (hop : op = 0x0020 ∨ op = 0x0022) (ha : s.accepts h op = true)
    (hcad : s.cad.state ≠ .locked) (isSealed : Bool) (act : State → State) :
    s.command h op isSealed act (decide (s.cad.state = .locked)) = (s.takeRx 0 h.tag.toNat).refuse h op := by
  rw [decide_eq_false hcad]
  exact State.command_unfit isSealed act ha ((legalIn_run_or_resume hop s.ctl.state).resolve_left (State.legalIn_ne_no ha))

/-- Settles O15: both commands are legal or not by the state alone, and without LOCKED an accepted one is not fit. -/
theorem runNeedsTheCadence : Obligations.RunNeedsTheCadence := by
  unfold Obligations.RunNeedsTheCadence
  refine ⟨fun h s ha hcad => ?_, fun h s ha hcad => ?_⟩
  · exact ⟨_, congrArg Host.Outcome.next (State.command_unlocked (.inl rfl) ha hcad _ _), State.refuse_responded _ h _,
      State.refuse_onlyAnswered s h _⟩
  · exact ⟨_, congrArg Host.Outcome.next (State.command_unlocked (.inr rfl) ha hcad _ _), State.refuse_responded _ h _,
      State.refuse_onlyAnswered s h _⟩

end Sys2Proof.Machine
end

section
/-! One pass of the Bellows loop, and the relaxation at THR_BUDGET (R354 to R356). -/

namespace Sys2Proof.Machine

/-- What ingest waits for is only counted (R296, R309). -/
theorem State.ingestUs_frame (s : State) : s.ingestUs = { s with cnt := s.ingestUs.cnt } :=
  List.foldlRecOn (motive := fun t : State => t = { s with cnt := t.cnt }) _ _ rfl fun t ht _ _ => by
    rw [ht]
    rfl

/-- The loop has moved each level by at most one (R354). -/
theorem State.bellowsLevels_near {s : State} (hk : s.bel.throttle ≤ 15) (p n : Nat) :
    (s.bellowsLevels p n).1 ≤ s.bel.throttle + 1 ∧ s.bel.throttle ≤ (s.bellowsLevels p n).1 + 1 ∧
      (s.bellowsLevels p n).2 ≤ s.bel.ballast + 1 ∧ s.bel.ballast ≤ (s.bellowsLevels p n).2 + 1 := by
  unfold State.bellowsLevels
  grind

theorem State.bellowsLoop_frame (s : State) (rails : List (Fin 9 × Nat × Nat)) (n : Nat) :
    let t := (s.bellowsPass rails n).microsecond.ingestUs
    t = { s with bel := t.bel, cnt := t.cnt, hlt := t.hlt, nowUs := s.nowUs + 1, inTick := s.inTick + 1 } ∧
      t.bel = (s.bellowsPass rails n).bel := by
  dsimp only
  rw [State.ingestUs_frame]
  exact ⟨rfl, rfl⟩

/-- Settles O33: the pass writes the Bellows and the counters, and its levels and its limit are those of one comparison. -/
theorem bellowsLoop : Obligations.BellowsLoop := by
  unfold Obligations.BellowsLoop
  refine ⟨fun s rails hoff hstop ⟨_, _, _, _, hthr, hbal⟩ => ?_, fun s hrel hbud hrun => ?_⟩
  · obtain ⟨hframe, hbel⟩ := State.bellowsLoop_frame s rails s.nElig
    obtain ⟨hk, hk', hb, hb'⟩ := State.bellowsLevels_near hthr (railSum rails) s.nElig
    obtain ⟨hk15, hb15⟩ := State.bellowsLevels_le s (railSum rails) s.nElig
    refine ⟨(s.bellowsPass rails s.nElig).microsecond.ingestUs, ?_, hframe, ?_⟩
    · simp [exec, execBellowsLoop, State.powered, hoff, hstop]
    · rw [hbel]
      refine ⟨rfl, hk, hk', hb, hb', hk15.trans (max_le hthr le_rfl), hb15.trans (max_le hbal le_rfl), min_le_right _ _, ?_⟩
      exact min_le_min_right _ (le_max_right _ _)
  · refine ⟨_, if_pos (by simp [hrel, hbud, hrun]), rfl, rfl, ?_⟩
    rw [State.cntAt_raise _ _ _ _ (by decide) (by decide)]
    exact State.cntAt_count_succ _ _ 0

end Sys2Proof.Machine
end

section
/-! A tick edge: what the cadence unit counts, and what the acts of the tick leave alone (R342, R343, R350). -/

namespace Sys2Proof.Machine

/-- A quiet move leaves the tick and the fuses alone. -/
theorem Control.Quiet.keeps_tick {c d : Control} (m : c.Quiet d) :
    d.tickNo = c.tickNo ∧ d.replicas = c.replicas ∧ d.inTick = c.inTick ∧ d.fuse = c.fuse := by
  cases m <;> exact ⟨rfl, rfl, rfl, rfl⟩

theorem Control.tick_of_quiet {c d : Control} (h : Relation.ReflTransGen Control.Quiet c d) :
    d.tickNo = c.tickNo ∧ d.replicas = c.replicas ∧ d.inTick = c.inTick ∧ d.fuse = c.fuse := by
  induction h with
  | refl => exact ⟨rfl, rfl, rfl, rfl⟩
  | tail _ m ih =>
    obtain ⟨hno, hrep, hus, hfuse⟩ := m.keeps_tick
    obtain ⟨ihno, ihrep, ihus, ihfuse⟩ := ih
    exact ⟨hno.trans ihno, hrep.trans ihrep, hus.trans ihus, hfuse.trans ihfuse⟩

/-- What a tick brings once the cadence unit has counted it. -/
def State.tickActs (s : State) (trims : List (Pd × Trim)) (margins : List (Fin 24 × Fin 32 × Nat)) : State :=
  ((trims.foldl (fun (t : State) x => t.trim x.1.val x.2) s.startNarrow).takeMargins margins).heartbeats.tickSwaps.sealEdge.startDue

theorem State.tickActs_quiet (s : State) (trims : List (Pd × Trim)) (margins : List (Fin 24 × Fin 32 × Nat)) :
    (s.tickActs trims margins).ReachedFrom Control.Quiet s.control :=
  have h : s.ReachedFrom Control.Quiet s.control := ⟨id, .refl⟩
  (.startDue (.sealEdge (.tickSwaps (.heartbeats (.takeMargins (.foldl (fun _ _ hu => hu.trim) h.startNarrow))))))

theorem execTick_eq {s : State} (hoff : s.ctl.state ≠ .off) (trims : List (Pd × Trim)) (margins : List (Fin 24 × Fin 32 × Nat)) :
    execTick trims margins s =
      .next (if s.bel.stopped then s.toEdge.countTick else s.toEdge.countTick.tickActs trims margins) := by
  simp only [execTick, State.powered, hoff, ne_eq, not_false_eq_true, decide_true, Bool.not_true, Bool.false_eq_true, ↓reduceIte,
    State.tickActs]
  split <;> rfl

theorem Cad.tick_tickNo {c : Cad} (homit : c.omitNext = false) (hnum : c.numNext = none) (src load nowUs : Nat) :
    (c.tick src load nowUs).tickNo = (c.tickNo + 1) % 2 ^ 48 := by
  simp [Cad.tick, homit, hnum]

theorem Cad.tick_replicas {c : Cad} (hrep : c.replicas.ordered) (src load nowUs : Nat) {k : Nat} (hk : k < 13) :
    (c.tick src load nowUs).replicas.get 0 k = (c.tick src load nowUs).tickNo := by
  refine (Tbl.get_foldl_set 0 _ k (List.range 13) c.replicas hrep).trans (if_pos (List.mem_range.mpr hk))

/-- Settles O34: the cadence unit counts first, and every act of the tick makes quiet moves at most. -/
theorem tickEdge : Obligations.TickEdge := by
  unfold Obligations.TickEdge
  intro s trims margins hoff homit hnum htab
  obtain ⟨-, -, -, -, -, -, -, -, -, -, -, -, -, -, -, -, -, -, hrep, -⟩ := htab
  refine ⟨_, execTick_eq hoff trims margins, ?_⟩
  have hkeeps := Control.tick_of_quiet (State.tickActs_quiet s.toEdge.countTick trims margins).path
  obtain ⟨hno, hreps, hus, hfuse⟩ :
      let t := if s.bel.stopped then s.toEdge.countTick else s.toEdge.countTick.tickActs trims margins
      t.cad.tickNo = s.toEdge.countTick.cad.tickNo ∧ t.cad.replicas = s.toEdge.countTick.cad.replicas ∧
        t.inTick = s.toEdge.countTick.inTick ∧ t.fuse = s.toEdge.countTick.fuse := by
    dsimp only
    split
    · exact ⟨rfl, rfl, rfl, rfl⟩
    · exact hkeeps
  rw [hno, hreps]
  refine ⟨Cad.tick_tickNo (c := s.toEdge.cad) homit hnum _ _ _, hus, fun k hk => ?_, hfuse⟩
  exact Cad.tick_replicas (c := s.toEdge.cad) hrep _ _ _ hk

end Sys2Proof.Machine
end

section
/-! The envelope: what a change of mode, a shed and a supply message leave behind (R353, R358, R359). -/

namespace Sys2Proof.Machine

/-- The forecast of remaining life is the health block's own; where it falls, it raises an event (R427). -/
theorem State.recomputeLife_frame (s : State) :
    s.recomputeLife = { s with hlt := s.recomputeLife.hlt, evt := s.recomputeLife.evt, cnt := s.recomputeLife.cnt } := by
  unfold State.recomputeLife
  dsimp only
  split <;> rfl

/-- The Bellows once an envelope is in force (R353). -/
def Bellows.inMode (b : Bellows) (e : Envelope) : Bellows := { b with modeAct := e, move := .idle, stretched := false }

theorem State.setMode_frame (s : State) (e : Envelope) :
    s.setMode e = { s with
      bel := s.bel.inMode e, dom := (s.setMode e).dom, hlt := (s.setMode e).hlt, evt := (s.setMode e).evt, cnt := (s.setMode e).cnt } := by
  unfold State.setMode
  rw [State.recomputeLife_frame]
  rfl

theorem State.raiseSheds_frame (s : State) (causes : List Nat) :
    causes.foldl State.raiseShed s =
      { s with evt := (causes.foldl State.raiseShed s).evt, cnt := (causes.foldl State.raiseShed s).cnt } :=
  List.foldlRecOn (motive := fun t : State => t = { s with evt := t.evt, cnt := t.cnt }) causes _ rfl fun t ht c _ => by
    rw [ht]
    rfl

/-- The PLL switches to an envelope, and PWR_SHED is raised for each cause of a shed (R353, R358). -/
theorem State.setMode_sheds {s t : State} {e : Envelope} {causes : List Nat} (ht : t = causes.foldl State.raiseShed (s.setMode e)) :
    t.bel = s.bel.inMode e ∧ t = { s with bel := t.bel, dom := t.dom, hlt := t.hlt, evt := t.evt, cnt := t.cnt } := by
  rw [State.raiseSheds_frame, State.setMode_frame] at ht
  rw [ht]
  exact ⟨rfl, rfl⟩

/-- The Bellows as a shed with a cause leaves it, from a mode other than Quiet and with no move under way (R358). -/
def Bellows.shedding (b : Bellows) (cause : Nat) : Bellows :=
  { b with narrow := none, widen := none, move := .falling .quiet [cause], stretched := true }

theorem State.shed_starts {s : State} (hmode : s.bel.modeAct ≠ .quiet) (hidle : s.bel.move = .idle) (cause : Nat) :
    s.shed cause = { s with bel := s.bel.shedding cause } := by
  simp [State.shed, hidle, hmode, Bellows.shedding]

theorem State.shed_in_quiet {s : State} (hmode : s.bel.modeAct = .quiet) (hmove : ∀ e cs, s.bel.move ≠ .falling e cs) (cause : Nat) :
    s.shed cause = s.raiseShed cause := by
  unfold State.shed
  dsimp only
  split
  · next e cs h => exact absurd h (hmove e cs)
  · rw [if_pos hmode]

/-- The state once SUPPLY_ALERT_N has fallen. -/
def State.alerted (s : State) : State := { s with pins := { s.pins with alertN := false } }

theorem execSupplyAlert_recognised {s : State} (hoff : s.ctl.state ≠ .off) (hen : s.alertEn = true) (hstop : s.bel.stopped = false) :
    execSupplyAlert s = .next (s.alerted.shed 1) := by
  simp [State.alerted, execSupplyAlert, State.powered, hoff, hen, hstop]

theorem State.writeMode_named {s : State} {v : Word} {e : Envelope} (he : Envelope.ofCode? (fld v 1 0) = some e) (hidle : s.bel.move = .idle) :
    s.writeMode v = { s.setRw (regAddr Page.bellows 0x100) (v &&& 7) with bel := { s.bel with
      narrow := if e.code < s.bel.modeAct.code then some e else none
      widen := if s.bel.modeAct.code < e.code then some e else none } } := by
  simp [State.writeMode, he, hidle]

/-- An accepted supply message whose tick has come takes effect at once (R359). -/
theorem State.supplyCommand_now {s : State} {h : Hdr} {tick : DWord} {ok : Bool} (ha : s.accepts h 0x0050 = true) (hok : ok = true)
    (hk : tick.toNat ≤ s.cad.tickNo) (m : SupplyMsg) :
    s.supplyCommand h tick ok m = ((s.begun h).supplyEffect m).answer h 0x0050 stOk 0 := by
  subst hok
  exact (State.command_accepted _ ha).trans (if_pos hk)

/-- The state in which a message waits for its tick (R359). -/
def State.messageWaits (s : State) (tick : Nat) (m : SupplyMsg) : State :=
  { s with bel := { s.bel with msgs := s.bel.msgs ++ [(tick, m)] } }

theorem State.supplyCommand_later {s : State} {h : Hdr} {tick : DWord} {ok : Bool} (ha : s.accepts h 0x0050 = true) (hok : ok = true)
    (hk : s.cad.tickNo < tick.toNat) (m : SupplyMsg) :
    s.supplyCommand h tick ok m = ((s.begun h).messageWaits tick.toNat m).answer h 0x0050 stOk 0 := by
  subst hok
  exact (State.command_accepted _ ha).trans (if_neg (Nat.not_le.mpr hk))

/-- A message that waits has been answered, and nothing else has changed. -/
theorem State.supplyCommand_waits {s t : State} {h : Hdr} {tick : DWord} {ok : Bool} {m : SupplyMsg} (ha : s.accepts h 0x0050 = true)
    (hok : ok = true) (hk : s.cad.tickNo < tick.toNat) (ht : t = s.supplyCommand h tick ok m) :
    t.responded h 0x0050 stOk ∧
      t = { s with ctl := t.ctl, cnt := t.cnt, bel := { s.bel with msgs := s.bel.msgs ++ [(tick.toNat, m)] } } := by
  rw [State.supplyCommand_later ha hok hk m] at ht
  rw [ht]
  exact ⟨State.answer_responded _ h _ _ _ _, rfl⟩

/-- The cap that a message has brought (R354, R359). -/
theorem State.capW_of_setRw {s t : State} (hrw : s.rw.ordered) {w : Nat} (hw : w < 8192)
    (ht : t.rw = (s.setRw (regAddr Page.bellows 0x10C) (BitVec.ofNat 32 w)).rw) : t.capW = w := by
  have hword : t.rwAt (regAddr Page.bellows 0x10C) = BitVec.ofNat 32 w := by
    rw [State.rwAt, ht]
    exact State.rwAt_setRw_same hrw _ _
  rw [State.capW, hword, fld, bitsOf, BitVec.toNat_ofNat]
  omega

/-- The Bellows as a FREQ_DEV of action 0 or 1 leaves it (R359). -/
def Bellows.freqHold (b : Bellows) (act : Nat) : Bellows :=
  { b with hold := b.hold || decide (act = 1), holdLeft := if act = 1 then 64 else b.holdLeft }

theorem Bellows.freqHold_one (b : Bellows) : b.freqHold 1 = { b with hold := true, holdLeft := 64 } := by
  simp [Bellows.freqHold]

theorem Bellows.freqHold_of_ne (b : Bellows) {act : Nat} (h : act ≠ 1) : b.freqHold act = b := by
  simp [Bellows.freqHold, h]

theorem State.supplyEffect_freqDev (s : State) (f : Nat) {act : Nat} (hact : act ≠ 2) :
    s.supplyEffect (.freqDev f act) = State.supplyEvent { s.count (regAddr Page.bellows 0x58) 1 with bel := s.bel.freqHold act } 3 f act := by
  match act, hact with
  | 0, _ =>
    rw [Bellows.freqHold_of_ne s.bel (by decide)]
    rfl
  | 1, _ =>
    rw [Bellows.freqHold_one]
    rfl
  | n + 3, _ =>
    rw [Bellows.freqHold_of_ne s.bel (by omega)]
    rfl

/-- The state in which a message waits no more. -/
def State.messageTaken (s : State) (m : Nat × SupplyMsg) : State := { s with bel := { s.bel with msgs := s.bel.msgs.erase m } }

/-- The oldest message whose tick has come takes effect and waits no more (R359). -/
theorem execSupplyMsgTick_due {s : State} {m : Nat × SupplyMsg} (hm : s.bel.msgs.find? (fun m => m.1 ≤ s.cad.tickNo) = some m) :
    execSupplyMsgTick s = .next ((s.messageTaken m).supplyEffect m.2) := by
  simp [execSupplyMsgTick, State.messageTaken, hm]

/-- Settles O32: each case of a shed, of a change of mode and of a supply message by the lemma that says what is left behind. -/
theorem supplyAndEnvelope : Obligations.SupplyAndEnvelope := by
  unfold Obligations.SupplyAndEnvelope
  refine ⟨?_, ?_, ?_, ?_, ?_, ?_, ?_, ?_, ?_, ?_, ?_, ?_, ?_, ?_, ?_, ?_, ?_, ?_, ?_⟩
  · intro s hoff hen hstop hmode hidle
    exact (execSupplyAlert_recognised hoff hen hstop).trans
      (congrArg Host.Outcome.next (State.shed_starts (s := s.alerted) hmode hidle 1))
  · exact fun s => rfl
  · intro s e hmove
    obtain ⟨hbel, hframe⟩ := State.setMode_sheds (s := s) (e := e) (causes := []) rfl
    exact ⟨_, by simp [exec, execPllSwitch, hmove], congrArg Bellows.modeAct hbel, congrArg Bellows.move hbel,
      congrArg Bellows.stretched hbel, hframe⟩
  · intro s e cs hmove
    obtain ⟨hbel, hframe⟩ := State.setMode_sheds (s := s) (e := e) (causes := cs) rfl
    exact ⟨_, by simp [exec, execPllSwitch, hmove], congrArg Bellows.modeAct hbel, congrArg Bellows.move hbel,
      congrArg Bellows.stretched hbel, hframe⟩
  · intro s v e he hidle
    exact ⟨_, congrArg Host.Outcome.next (State.writeMode_named he hidle), rfl, rfl, rfl, rfl⟩
  · exact fun h s w k ha hw hk => ⟨_, rfl, State.supplyCommand_waits ha (decide_eq_true hw) hk rfl⟩
  · intro h s w k ha htab hw hk
    obtain ⟨-, hrw, -⟩ := htab
    exact ⟨_, congrArg Host.Outcome.next (State.supplyCommand_now ha (decide_eq_true hw) hk _), State.answer_responded _ h _ _ _ _,
      State.capW_of_setRw (s := s.begun h) hrw hw rfl, rfl⟩
  · exact fun h s n k ha hk => ⟨_, congrArg Host.Outcome.next (State.supplyCommand_now ha rfl hk _), State.answer_responded _ h _ _ _ _, rfl⟩
  · intro h s k ha hk hmode hidle
    have hshed := State.shed_starts (s := s.begun h) hmode hidle 2
    refine ⟨_, congrArg Host.Outcome.next (State.supplyCommand_now ha rfl hk _), State.answer_responded _ h _ _ _ _, ?_⟩
    rw [State.supplyEffect, hshed]
    rfl
  · intro h s f a k ha ha1 hk
    subst ha1
    exact ⟨_, congrArg Host.Outcome.next (State.supplyCommand_now ha rfl hk _), State.answer_responded _ h _ _ _ _, rfl⟩
  · intro s hoff hen hstop hmode hmove
    exact ⟨_, (execSupplyAlert_recognised hoff hen hstop).trans
      (congrArg Host.Outcome.next (State.shed_in_quiet (s := s.alerted) hmode hmove 1)), rfl, rfl⟩
  · exact fun h s n k ha hk => ⟨_, rfl, State.supplyCommand_waits ha rfl hk rfl⟩
  · exact fun h s k ha hk => ⟨_, rfl, State.supplyCommand_waits ha rfl hk rfl⟩
  · exact fun h s f a k ha hact hk => ⟨_, rfl, State.supplyCommand_waits ha (decide_eq_true hact) hk rfl⟩
  · intro s w k htab hm hw
    obtain ⟨-, hrw, -⟩ := htab
    exact ⟨_, execSupplyMsgTick_due hm, State.capW_of_setRw hrw hw rfl, rfl⟩
  · intro s k hm hmode hidle
    refine ⟨_, execSupplyMsgTick_due hm, ?_⟩
    rw [State.supplyEffect, State.shed_starts (s := s.messageTaken (k, .shed)) hmode hidle]
    rfl
  · intro s f a k htab hm hact
    refine ⟨_, (execSupplyMsgTick_due hm).trans (congrArg Host.Outcome.next (State.supplyEffect_freqDev _ f hact)), rfl, ?_⟩
    rw [State.supplyEvent, State.cntAt_raise _ _ _ _ (by decide) (by decide)]
    exact State.cntAt_count_succ s _ 0
  · exact fun s n k hm => ⟨_, execSupplyMsgTick_due hm, rfl, rfl⟩
  · intro s hhold hleft
    exact if_pos (by simp [hhold, hleft])

end Sys2Proof.Machine
end

section
/-! The cadence unit: messages, the selected references, edges, loss, holdover and relock (R345 to R349). -/

namespace Sys2Proof.Machine

theorem execSync_twoStep {s : State} {snd : Nat} (hm : s.fromMaster snd = true) (seq : Nat) (rx : Int) :
    execSync s.ptpDomain snd seq true rx s = .next { s.count (regAddr Page.cadence 0x50) 1 with
      cad := { s.cad with sync := some ⟨snd, seq, rx⟩, lastSync := some s.nowUs } } := by
  simp [execSync, hm]

theorem execSync_oneStep (s : State) (snd seq : Nat) (rx : Int) :
    execSync s.ptpDomain snd seq false rx s = .next (s.count (regAddr Page.cadence 0x54) 1) := by
  simp [execSync]

/-- The cadence unit after a Follow_Up with a master-to-slave difference of `ms` ns (R345, R346). -/
def Cad.followed (c : Cad) (src : Nat) (ms : Int) : Cad :=
  let off := ms - c.delayNs - c.asymNs
  let f := if selPtp src then c.firstInput else c
  { f with
    sync := none, msNs := ms, offsetNs := off, ptpOk := true, todNs := f.todNs - off
    goodEdge := if f.ptpOk || !f.incons then f.goodEdge else 0
    goodSync := if decide (-1000 ≤ off ∧ off ≤ 1000) then f.goodSync + 1 else 0 }

theorem execFollowUp_completes {s : State} {y : PtpSync} (hy : s.cad.sync = some y) (org corr : Int) :
    execFollowUp s.ptpDomain y.sender y.seq org corr s =
      .next { s with cad := s.cad.followed s.src ((y.rxHalf - 2 * (org + corr)) / 2) } := by
  simp [execFollowUp, hy, Cad.followed]

theorem execAnnounce_taken {s : State} {m : AnnounceMsg} (hd : m.domain.toNat = s.ptpDomain)
    (hm : s.master = none ∨ ∃ b, s.master = some b ∧ (b.sender = m.sender ∨ annBetter m b = true)) :
    execAnnounce m s = .next { s with cad := { s.cad with best := some m, annUs := s.nowUs, gm := m.gmIdentity.toNat } } := by
  rcases hm with hnone | ⟨b, hb, hbetter⟩
  · simp [execAnnounce, hd, hnone]
  · simp [execAnnounce, hd, hb, hbetter]

theorem execDelayResp_taken {s : State} {snd : Nat} (hm : s.fromMaster snd = true) (req rx : Int) :
    execDelayResp s.ptpDomain snd req rx s =
      .next { s with cad := { s.cad with delayNs := (2 * (s.cad.msNs + rx) - req) / 4 } } := by
  simp [execDelayResp, hm]

theorem Cad.best?_zero (c : Cad) : c.best? 0 = if c.pulseOk then .pulse else if c.ptpOk then .ptp else .none := by
  simp [Cad.best?, selPulse, selPtp]

theorem Cad.best?_one (c : Cad) : c.best? 1 = if c.ptpOk then .ptp else .none := by
  simp [Cad.best?, selPulse, selPtp]

theorem Cad.best?_two (c : Cad) : c.best? 2 = if c.pulseOk then .pulse else .none := by
  simp [Cad.best?, selPulse, selPtp]

/-- The cadence unit as it enters HOLDOVER (R347). -/
def Cad.heldOver (c : Cad) : Cad := { c with state := .holdover, active := .osc, holdLeft := 64, goodSync := 0, goodEdge := 0 }

theorem State.keepLock_none {s : State} (hlock : s.cad.state = .locked) (hbest : s.cad.best? s.src = .none) :
    s.keepLock = State.count { s with cad := s.cad.heldOver } (regAddr Page.cadence 0x48) 1 := by
  simp [State.keepLock, hlock, hbest, Cad.heldOver]

theorem State.keepLock_on {s : State} {r : CadRef} (hlock : s.cad.state = .locked) (hbest : s.cad.best? s.src = r) (hr : r ≠ .none) :
    s.keepLock = { s with cad := { s.cad with active := r } } := by
  simp [State.keepLock, hlock, hbest, hr]

/-- With no reference left the unit is in HOLDOVER, and only events and counters show it beside (R347). -/
theorem State.cadLoss_none {s : State} {src : Nat} (hlock : s.cad.state = .locked) (hsrc : s.src = src) (hbest : s.cad.best? src = .none)
    (cause : Nat) :
    let t := s.cadLoss cause
    t.cad = s.cad.heldOver ∧ t = { s with cad := t.cad, evt := t.evt, cnt := t.cnt } := by
  subst hsrc
  have hloss : s.cadLoss cause = s.keepLock.raise Page.cadence Code.cadHoldover (cadPayload s 0 0xFFFF 0 0) := by
    simp [State.cadLoss, hlock, hbest]
  rw [hloss, State.keepLock_none hlock hbest]
  exact ⟨rfl, rfl⟩

/-- The loss of one of the two references of SRC = 0 is a change of reference (R346, R347). -/
theorem State.cadLoss_one {s : State} {r : CadRef} (hlock : s.cad.state = .locked) (hsrc : s.src = 0) (hbest : s.cad.best? 0 = r)
    (hr : r ≠ .none) (cause : Nat) :
    s.cadLoss cause = State.refChange { s with cad := { s.cad with active := r } } cause s.cad.offsetNs := by
  have hloss : s.cadLoss cause = s.keepLock.refChange cause s.cad.offsetNs := by
    simp [State.cadLoss, hlock, hsrc, hbest, hr]
  rw [hloss, State.keepLock_on hlock (hsrc ▸ hbest) hr]

/-- SRC as a write leaves it (R347). -/
theorem State.src_setRw {s : State} (hrw : s.rw.ordered) (v : Word) :
    (s.setRw (regAddr Page.cadence 0x100) (v &&& 0x1FF)).src = fld v 1 0 := by
  have hand : (v &&& 0x1FF).toNat = v.toNat % 2 ^ 9 := by
    rw [BitVec.toNat_and]
    exact Nat.and_two_pow_sub_one_eq_mod v.toNat 9
  rw [State.src, State.rwAt_setRw_same hrw, fld, fld, bitsOf, bitsOf, hand]
  omega

theorem State.writeSrc_osc {s : State} {v : Word} (hrw : s.rw.ordered) (hv : fld v 1 0 = 3) (hfree : s.cad.state = .free) :
    s.writeSrc v = { s.setRw (regAddr Page.cadence 0x100) (v &&& 0x1FF) with
      cad := { s.cad with state := .locked, active := .osc, holdLeft := 64 } } := by
  have hsrc := (State.src_setRw hrw v).trans hv
  exact if_pos (Bool.and_eq_true_iff.mpr ⟨decide_eq_true hsrc, decide_eq_true hfree⟩)

theorem State.writeSrc_held {s : State} {v : Word} (hrw : s.rw.ordered) (hv : fld v 1 0 = 1) (hlock : s.cad.state = .locked)
    (hptp : s.cad.ptpOk = false) :
    s.writeSrc v = State.count { s.setRw (regAddr Page.cadence 0x100) (v &&& 0x1FF) with cad := s.cad.heldOver }
      (regAddr Page.cadence 0x48) 1 := by
  have hsrc := (State.src_setRw hrw v).trans hv
  have hosc : ¬ (State.src (s.setRw (regAddr Page.cadence 0x100) (v &&& 0x1FF)) = 3) := by
    rw [hsrc]
    decide
  have hbest : s.cad.best? 1 = .none := (Cad.best?_one s.cad).trans (by simp [hptp])
  exact (if_neg fun h => hosc (of_decide_eq_true (Bool.and_eq_true_iff.mp h).1)).trans
    (State.keepLock_none (s := s.setRw _ _) hlock (hsrc ▸ hbest))

/-- Settles O35: each message and each write by the lemma that says what the cadence unit holds after it. -/
theorem cadenceReferences : Obligations.CadenceReferences := by
  unfold Obligations.CadenceReferences
  refine ⟨?_, ?_, ?_, ?_, ?_, ?_, ?_⟩
  · rintro s _ snd seq rx rfl hm
    exact ⟨_, execSync_twoStep hm seq rx, rfl, rfl, rfl⟩
  · rintro s _ snd seq rx rfl
    exact execSync_oneStep s snd seq rx
  · rintro s _ snd seq org corr rx rfl hsync
    have hms : (2 * rx - 2 * (org + corr)) / 2 = rx - org - corr := by omega
    refine ⟨_, execFollowUp_completes hsync org corr, rfl, rfl, ?_, rfl⟩
    show (2 * rx - 2 * (org + corr)) / 2 - s.cad.delayNs - s.cad.asymNs = _
    rw [hms]
  · exact fun s m hd hm => execAnnounce_taken hd hm
  · rintro s _ snd rq rx rfl hm
    have hdelay : (2 * (s.cad.msNs + rx) - 2 * rq) / 4 = (s.cad.msNs + (rx - rq)) / 2 := by omega
    rw [← hdelay]
    exact execDelayResp_taken hm (2 * rq) rx
  · intro s v htab hv hfree
    obtain ⟨-, hrw, -⟩ := htab
    exact ⟨_, congrArg Host.Outcome.next (State.writeSrc_osc hrw hv hfree), rfl, rfl, rfl⟩
  · intro s v htab hlock hv hptp
    obtain ⟨-, hrw, -⟩ := htab
    exact ⟨_, congrArg Host.Outcome.next (State.writeSrc_held hrw hv hlock hptp), rfl, rfl⟩

theorem execCadenceEdge_acquiring {s : State} {off : Int} (hsel : selPulse s.src = true) (hwin : s.edgeWindowed = false)
    (hnear : off.natAbs ≤ 200) (hacq : s.cad.state = .acquiring) :
    execCadenceEdge off s = .next { s with cad := { s.cad with
      lastEdge := some s.nowUs, badEdge := 0, pulseOk := if s.cad.incons then s.cad.pulseOk else true, goodEdge := s.cad.goodEdge + 1 } } := by
  simp [execCadenceEdge, hsel, hwin, hnear, hacq, Cad.firstInput]

theorem execSyncTimeout_elapsed {s : State} {u : Nat} (hlast : s.cad.lastSync = some u) (hptp : s.cad.ptpOk = true)
    (hu : u + s.syncTimeoutUs ≤ s.nowUs) :
    execSyncTimeout s = .next (State.cadLoss { s with cad := { s.cad with ptpOk := false, goodSync := 0 } } 1) := by
  simp [execSyncTimeout, hlast, hptp, hu]

theorem execPulseLoss_elapsed {s : State} {u : Nat} (hlast : s.cad.lastEdge = some u) (hpulse : s.cad.pulseOk = true)
    (hu : u + 2 * s.cad.tickLen ≤ s.nowUs) :
    execPulseLoss s = .next (State.cadLoss { s with cad := { s.cad with pulseOk := false, goodEdge := 0 } } 1) := by
  simp [execPulseLoss, hlast, hpulse, hu]

theorem execLocked_acquired {s : State} (hacq : s.cad.state = .acquiring) (hsrc : s.src = 1) (hgood : 16 ≤ s.cad.goodSync) :
    execLocked s = .next (State.endLong { s with cad := { s.cad with state := .locked, holdLeft := 64, active := s.cad.best? s.src } }
      0x0033 stOk 0) := by
  simp [execLocked, hacq, hsrc, hgood, selPtp]

theorem execPulseInconsistent_ptp {s : State} (hsrc : s.src = 0) (hinc : s.cad.incons = false) (hbad : 4 ≤ s.cad.badEdge)
    (hptp : s.cad.ptpOk = true) :
    execPulseInconsistent s = .next (State.refChange { s with cad := { s.cad with
      incons := true, pulseOk := false, goodEdge := 0, active := .ptp } } 2 s.cad.offsetNs) := by
  simp [execPulseInconsistent, hsrc, hinc, hbad, hptp, Cad.best?_zero]

theorem execPulseConsistent_pulse {s : State} (hsrc : s.src = 0) (hinc : s.cad.incons = true) (hgood : 16 ≤ s.cad.goodEdge)
    (hptp : s.cad.ptpOk = true) :
    execPulseConsistent s = .next (State.refChange { s with cad := { s.cad with
      incons := false, pulseOk := true, badEdge := 0, active := .pulse } } 4 s.cad.offsetNs) := by
  simp [execPulseConsistent, hsrc, hinc, hgood, hptp, Cad.best?_zero]

/-- Settles O36: each case names what is left of the references, and the lemma about that loss or return does the rest. -/
theorem cadenceLossAndRelock : Obligations.CadenceLossAndRelock := by
  unfold Obligations.CadenceLossAndRelock
  refine ⟨?_, ?_, ?_, ?_, ?_, ?_, ?_, ?_, ?_, ?_⟩
  · intro s off hsel hwin hnear hacq
    exact ⟨_, execCadenceEdge_acquiring hsel hwin hnear hacq, rfl, rfl, rfl, rfl, fun h => if_neg (by simp [h])⟩
  · intro s u hsrc hlock hlast hptp hu
    obtain ⟨hcad, hframe⟩ := State.cadLoss_none (s := { s with cad := { s.cad with ptpOk := false, goodSync := 0 } }) hlock hsrc
      (Cad.best?_one _) 1
    refine ⟨_, execSyncTimeout_elapsed hlast hptp hu, hframe, ?_⟩
    rw [hcad]
    exact ⟨rfl, rfl, rfl, rfl⟩
  · intro s u hsrc hlock hlast hpulse hu
    obtain ⟨hcad, hframe⟩ := State.cadLoss_none (s := { s with cad := { s.cad with pulseOk := false, goodEdge := 0 } }) hlock hsrc
      (Cad.best?_two _) 1
    refine ⟨_, execPulseLoss_elapsed hlast hpulse hu, hframe, ?_⟩
    rw [hcad]
    exact ⟨rfl, rfl, rfl⟩
  · intro s u hsrc hlock hlast hptp hpulse hu htab
    have hloss := State.cadLoss_one (s := { s with cad := { s.cad with ptpOk := false, goodSync := 0 } }) hlock hsrc
      ((Cad.best?_zero _).trans (if_pos hpulse)) (by decide) 1
    refine ⟨_, (execSyncTimeout_elapsed hlast hptp hu).trans (congrArg Host.Outcome.next hloss), rfl, rfl, hlock, rfl, ?_⟩
    rw [State.refChange, State.cntAt_raise _ _ _ _ (by decide) (by decide)]
    exact State.cntAt_count_succ _ _ 0
  · exact fun s hsrc hinc hbad hptp => ⟨_, execPulseInconsistent_ptp hsrc hinc hbad hptp, rfl, rfl, rfl, rfl⟩
  · exact fun s hinc hgood hptp hsrc => ⟨_, execPulseConsistent_pulse hsrc hinc hgood hptp, rfl, rfl, rfl⟩
  · intro s hacq hsrc hgood
    refine ⟨_, execLocked_acquired hacq hsrc hgood, ?_, ?_, State.endLong_longRuns _ _ _ _⟩
    · rw [State.endLong_frame]
    · rw [State.endLong_frame]
  · intro s off hhold hsrc hptp
    exact ⟨_, if_pos (by simp [hhold, hsrc, hptp, selPtp]), rfl, rfl, rfl, rfl, rfl⟩
  · intro s hhold hleft
    exact ⟨_, if_pos (by simp [hhold, hleft]), rfl, rfl⟩
  · intro s n hhold hsrc hptp hn
    exact ⟨_, if_pos (by simp [hhold, hsrc, hptp, hn, selPtp]), rfl, rfl⟩

end Sys2Proof.Machine
end

section
/-! A brown-out, its recovery and a thermal trip (R360, R376, R429). -/

namespace Sys2Proof.Machine

theorem execStatePrefetch_still {s : State} (hs : s.still = true) (p : Prf) : execStatePrefetch p s = .next s := by
  unfold execStatePrefetch
  rw [if_pos hs]

theorem execNextCompleteSend_still {s : State} (hs : s.still = true) (p : Prf) : execNextCompleteSend p s = .next s := by
  unfold execNextCompleteSend
  rw [if_pos hs]

/-- While the clocks stand, no act of a unit that needs them changes anything (R360; log entry 126). -/
theorem exec_still {c : Instr} {s : State} (hs : s.bel.stopped = true) (hc : Instr.needsClock c = true) : exec c s = .next s := by
  cases c with
  | eventHostCopy | patrolScrub | memoryAccess | holdLimitExpiry | mpdAccept | descriptorRecord | tileFetch | preload | shadowLoadDone
  | passStart | passAccept | checkFailure | overflow | rung3Move | engOperandUncorrectable | drain | epilogueRow | mpdComplete
  | emptyMpd | ballastPass | multicastUnit | seqMcastStall | reedFiring | counterWrap | goToken | sel | br | endToken | phaseToken
  | doneToken | streamRun | streamRunEnd | fabStarve | creditAudit | swap | reactivation | send | nextComplete | partialRow
  | contributionComplete | delivery | chunkApply | segmentNotice | poison | release
  | abandonNotice | exportFrame | importFrame | dataFlit | nakFlit | ackTimeout | lnkLaneRetired | laneMarginLimit | lockLoss
  | fastRetrainEnd | trainingEnd | heartbeat | lnkPartition | collectiveData | windowCredit | collectiveAbort | colTimeout
  | conduitNotice | conduitData | bulkReadRequest | bulkData | kvOpen | kvFork | kvAppend | kvFree | kvAdvance | readerClose
  | ingestQueueEntry | ingestRun | idleFlit => exact if_pos hs
  | statePrefetch p => exact execStatePrefetch_still hs p
  | nextCompleteSend p => exact execNextCompleteSend_still hs p
  | _ => exact absurd hc Bool.false_ne_true

/-- The first trip of a brown-out is counted and recorded (R360, R366). -/
def State.brownRecorded (s : State) (k : Nat) : State :=
  (s.count (regAddr Page.bellows 0x50) 1).raise Page.bellows Code.pwrBrownout (cadPayload s (if criticalRail k then 2 else 1) k 0 0)

/-- The state in which a brown-out has stopped the clocks (R360). -/
def State.brownStopped (s : State) (k : Nat) : State :=
  { s.brownRecorded k with bel := { s.bel with
    brown := true, stopped := true, wasRunning := decide (s.ctl.state = .running), move := .idle, narrow := none, widen := none } }

theorem State.stopChanters_frame (s : State) (g : ChDie → ChDie) :
    dies.foldl (fun t d => State.updCh t d g) s = { s with ch := (dies.foldl (fun t d => State.updCh t d g) s).ch } :=
  List.foldlRecOn (motive := fun t : State => t = { s with ch := t.ch }) dies _ rfl fun t ht d _ => by
    rw [ht]
    rfl

/-- A package that was RUNNING is HELD at once, with every Chanter silent (R360). -/
def State.brownHeld (s : State) : State :=
  let t := dies.foldl (fun u d => State.updCh u d fun c => { c with stopped := true }) s
  State.enter { t with ctl := { t.ctl with holdPending := false } } .held Code.pwrBrownout

theorem State.brownHeld_spec (s : State) :
    s.brownHeld.ctl.state = .held ∧ s.brownHeld.bel = s.bel ∧ s.brownHeld.mem = s.mem ∧ s.brownHeld.fuse = s.fuse := by
  unfold State.brownHeld
  rw [State.stopChanters_frame]
  exact ⟨rfl, rfl, rfl, rfl⟩

/-- A trip that is the first of a brown-out, in a package with power that no thermal trip has stopped, is not passed over (R360, R429). -/
theorem State.brownout_taken {s : State} (hoff : s.ctl.state ≠ .off) (hpin : s.ctl.state = .safe → s.pins.thermtripN = true)
    (hbrown : s.bel.brown = false) (k : Nat) :
    (!s.powered || (decide (s.ctl.state = .safe) && !s.pins.thermtripN) || (s.bel.brown && (!criticalRail k || s.bel.brownLost))) = false := by
  cases hs : decide (s.ctl.state = .safe)
  · simp [State.powered, hoff, hbrown]
  · simp [State.powered, hoff, hbrown, hpin (of_decide_eq_true hs)]

/-- The first trip of a brown-out that restarts the package at BOOT (R360). -/
theorem execPwrBrownout_restart {s : State} {k : Fin 9} (hoff : s.ctl.state ≠ .off)
    (hpin : s.ctl.state = .safe → s.pins.thermtripN = true) (hbrown : s.bel.brown = false)
    (hk : criticalRail k.val = true ∨ s.ctl.state = .boot) :
    execPwrBrownout k s = .next ((s.brownRecorded k.val).brownBoot k.val) := by
  have hboot : (criticalRail k.val || decide (s.ctl.state = .boot)) = true := by
    rcases hk with hk | hk <;> simp [hk]
  unfold execPwrBrownout
  dsimp only
  rw [State.brownout_taken hoff hpin hbrown, hbrown]
  exact if_pos hboot

/-- The first trip of a brown-out of a rail whose contents are kept, in a state other than BOOT (R360). -/
theorem execPwrBrownout_kept {s : State} {k : Fin 9} (hoff : s.ctl.state ≠ .off) (hboot : s.ctl.state ≠ .boot)
    (hpin : s.ctl.state = .safe → s.pins.thermtripN = true) (hbrown : s.bel.brown = false) (hk : criticalRail k.val = false) :
    execPwrBrownout k s = .next (if s.ctl.state = .running then (s.brownStopped k.val).brownHeld else s.brownStopped k.val) := by
  have hnot : ¬ (criticalRail k.val || decide (s.ctl.state = .boot)) = true := by
    simp [hk, hboot]
  unfold execPwrBrownout
  dsimp only
  rw [State.brownout_taken hoff hpin hbrown, hbrown]
  refine (if_neg hnot).trans ?_
  split <;> rfl

/-- Where the package is without power or stands in SAFE under a thermal trip, the trip of VAUX loses what VAUX holds (R429). -/
theorem execPwrBrownout_vaux {s : State} (h : s.ctl.state = .off ∨ (s.ctl.state = .safe ∧ s.pins.thermtripN = false)) :
    execPwrBrownout 8 s = .next (s.vauxLost 8) := by
  refine if_pos ?_
  rcases h with h | ⟨h, hpin⟩
  · simp [State.powered, h]
  · simp [h, hpin]

/-- BOOT is entered with what it resets, but for the health block and the records of the entry (R376, R421). -/
theorem State.enterBoot_frame (s : State) (cause opcode tag : Nat) :
    let t := s.enterBoot cause opcode tag
    t = { s.bootReset with hlt := t.hlt, evt := t.evt, cnt := t.cnt } := by
  unfold State.enterBoot State.lifeReset
  dsimp only
  split <;> split
  all_goals try rw [State.recomputeLife_frame]
  all_goals rfl

/-- A restart at BOOT with the clocks stopped; memory is kept where no rail of it tripped (R360). -/
theorem State.brownBoot_spec (s : State) {k : Nat} (hk : k ≠ 8) :
    let t := s.brownBoot k
    t.ctl.state = .boot ∧ t.bel.stopped = true ∧ t.fuse = s.fuse ∧ t.mem = (if criticalRail k then .empty else s.mem) ∧
      t.poison = (if criticalRail k then .empty else s.poison) := by
  unfold State.brownBoot
  rw [State.vauxLost, if_neg hk, State.enterBoot_frame]
  dsimp only
  split <;> exact ⟨rfl, rfl, rfl, rfl, rfl⟩

theorem State.readSensor_fuse (s : State) (x : Sensor) (c : Nat) : (s.readSensor x c).fuse = s.fuse := by
  have h : s.ReachedFrom Control.Quiet s.control := ⟨id, .refl⟩
  obtain ⟨-, -, -, hfuse⟩ := Control.tick_of_quiet (h.readSensor (x := x) (c := c)).path
  exact hfuse

/-- A sensor that has read 105 °C asserts THERMTRIP_N and takes the package to SAFE (R429). -/
theorem execHltThermtrip_safe {s : State} (x : Sensor) {c : Nat} (hoff : s.ctl.state ≠ .off) (hsafe : s.ctl.state ≠ .safe) (hc : 105 ≤ c) :
    ∃ u : State, execHltThermtrip x c s = .next (u.enterSafe Code.hltThermtrip 0xFFFF 0) ∧ u.pins.thermtripN = false ∧
      u.fuse = { s.fuse with thermtrips := s.fuse.thermtrips + 1 } := by
  have hgo : (s.powered && decide (105 ≤ c) && (s.pins.thermtripN || decide (s.ctl.state ≠ .safe))) = true := by
    simp [State.powered, hoff, hsafe, hc]
  refine ⟨_, (if_pos hgo).trans (congrArg Host.Outcome.next (if_neg hsafe)), ?_⟩
  rw [← State.readSensor_fuse s x c]
  split <;> exact ⟨rfl, rfl⟩

/-- The clocks restart in Quiet (R360). -/
theorem execBrownoutRecovery_quiet {s : State} (hbrown : s.bel.brown = true) (hready : s.ctl.state = .ready) (hwas : s.bel.wasRunning = false)
    (b : BootInput) :
    execBrownoutRecovery b s =
      .next (State.setMode { s with bel := { s.bel with brown := false, brownLost := false, wasRunning := false, stopped := false } } .quiet) := by
  simp [execBrownoutRecovery, hbrown, hready, hwas]

/-- Settles O37: the cases of a trip by what they lose, the recovery as a change to Quiet, and the acts that need a clock one by one. -/
theorem brownoutAndTrip : Obligations.BrownoutAndTrip := by
  unfold Obligations.BrownoutAndTrip
  refine ⟨?_, ?_, ?_, ?_, ?_, ?_, ?_, ?_⟩
  · intro s k hready hpin hbrown hk
    exact ⟨_, (execPwrBrownout_kept (by simp [hready]) (by simp [hready]) (fun _ => hpin) hbrown hk).trans
      (congrArg Host.Outcome.next (if_neg (by simp [hready]))), rfl, rfl, rfl⟩
  · intro s k hrun hpin hbrown hk
    obtain ⟨hstate, hbel, hmem, hfuse⟩ := State.brownHeld_spec (s.brownStopped k.val)
    exact ⟨_, (execPwrBrownout_kept (by simp [hrun]) (by simp [hrun]) (fun _ => hpin) hbrown hk).trans
      (congrArg Host.Outcome.next (if_pos hrun)), hstate, congrArg Bellows.stopped hbel, hmem, hfuse⟩
  · intro s hready hpin hbrown
    obtain ⟨hstate, hstop, hfuse, hmem, -⟩ := State.brownBoot_spec (s.brownRecorded 7) (k := 7) (by decide)
    exact ⟨_, execPwrBrownout_restart (by simp [hready]) (fun _ => hpin) hbrown (.inl rfl), hstate, hmem, hstop, hfuse⟩
  · exact fun c s hs hc => exec_still hs hc
  · intro s b hbrown hready hwas
    refine ⟨_, execBrownoutRecovery_quiet hbrown hready hwas b, ?_⟩
    rw [State.setMode_frame]
    exact ⟨rfl, rfl, rfl, hready, rfl⟩
  · intro s k hboot hbrown hk
    have hk8 : k.val ≠ 8 := fun h => by simp [h, criticalRail] at hk
    obtain ⟨hstate, hstop, -, hmem, hpoison⟩ := State.brownBoot_spec (s.brownRecorded k.val) hk8
    rw [if_neg (by simp [hk])] at hmem hpoison
    exact ⟨_, execPwrBrownout_restart (by simp [hboot]) (by simp [hboot]) hbrown (.inr hboot), hstate, hmem, hpoison, hstop⟩
  · intro s h
    exact ⟨_, execPwrBrownout_vaux h, rfl, rfl, rfl, rfl⟩
  · intro s x c hoff hsafe hc
    obtain ⟨u, hu, hpin, hfuse⟩ := execHltThermtrip_safe x hoff hsafe hc
    exact ⟨_, hu, rfl, hpin, hfuse⟩

end Sys2Proof.Machine
end

section
/-! The power domains: droop, the end of a ramp, and what a write of REQ_ON does (R361, R363, R364). -/

namespace Sys2Proof.Machine

theorem regAddr_page (p : Nat) {off : Nat} (h : off < 65536) : regAddr p off / 65536 = p := by
  unfold regAddr
  omega

theorem regAddr_offset (p : Nat) {off : Nat} (h : off < 65536) : regAddr p off % 65536 = off := by
  unfold regAddr
  omega

theorem Page.kind_dom : ∀ n : Pd, Page.kind (Page.dom n.val) = 0x12 ∧ Page.inst (Page.dom n.val) = n.val := by
  decide

/-- A domain's own page has no domain that it needs (R405). -/
theorem State.regPowered_dom (s : State) (n : Pd) : s.regPowered (regAddr (Page.dom n.val) 0x104) = true := by
  have hshared : ¬ (0x0710 + n.val = 0x0600 ∨ 0x0710 + n.val = 0x0610) := by omega
  have hpage : ¬ (Page.dom n.val = Page.leaven ∨ Page.dom n.val = Page.kv) := hshared
  have hnone : regDomain (regAddr (Page.dom n.val) 0x104) = none := by
    simp [regDomain, regAddr_page, regAddr_offset, hpage, pageDomain, Page.kind_dom]
  simp [State.regPowered, hnone]

/-- REQ_ON lies below the registers that a domain which is off hides (R364). -/
theorem State.pdHidden_reqOn (s : State) (p : Nat) : s.pdHidden p 0x104 = false := by
  simp [State.pdHidden]

/-- A write of the word that holds REQ_ON is a write of REQ_ON (R364). -/
theorem execReqOn_eq (pd : Pd) (on : Bool) (s : State) : execReqOn pd on s = .next (s.writeReqOn pd.val on) := by
  obtain ⟨hkind, hinst⟩ := Page.kind_dom pd
  have hbit : (if on then 1#32 else 0#32)[0] = on := by cases on <;> simp
  simp [execReqOn, State.writeReg, State.writeBlock, regAddr_page, regAddr_offset, hkind, hinst, State.regPowered_dom,
    State.pdHidden_reqOn, hbit]

theorem State.rampDone_eq {s : State} {n : Nat} (h : (s.dom.get Domain.off n).state = 1) :
    s.rampDone n = State.count { s with dom := s.dom.set Domain.off n { state := 2, setMv := pdNominal n s.bel.modeAct, droop := false } }
      (regAddr (Page.dom n) 0x48) 1 :=
  if_pos h

/-- A domain as its ramp starts (R363). -/
def Domain.ramping : Domain := { state := 1, setMv := 0, droop := false }

theorem Domain.ne_off {d : Domain} (h : d.state ≠ 0) : d ≠ Domain.off := fun hd => h (hd ▸ rfl)

/-- The domains of a die that are requested and off (R363). -/
def State.rampWaiting (s : State) (die : Nat) : List Nat :=
  ((List.range 72).filter fun n => pdDie n = die).filter fun n => s.reqOn n && decide ((s.dom.get Domain.off n).state = 0)

theorem State.mem_rampWaiting {s : State} {die n : Nat} :
    n ∈ s.rampWaiting die ↔ (n < 72 ∧ pdDie n = die) ∧ s.reqOn n = true ∧ (s.dom.get Domain.off n).state = 0 := by
  simp only [State.rampWaiting, List.mem_filter, List.mem_range, Bool.and_eq_true, decide_eq_true_eq]

theorem State.nextRamp_eq (s : State) (die : Nat) :
    s.nextRamp die = if ((List.range 72).filter fun n => pdDie n = die).any (fun n => (s.dom.get Domain.off n).state = 1) then none
      else (s.rampWaiting die).find? fun n => (s.rampWaiting die).all fun m => decide (pdOrder n ≤ pdOrder m) := rfl

/-- The domain that ramps next lies on the die, is requested and is off (R363). -/
theorem State.nextRamp_some {s : State} {die n : Nat} (h : s.nextRamp die = some n) :
    n < 72 ∧ pdDie n = die ∧ s.reqOn n = true ∧ (s.dom.get Domain.off n).state = 0 := by
  rw [State.nextRamp_eq] at h
  split at h
  · exact absurd h (by simp)
  · obtain ⟨⟨hn, hdie⟩, hreq, hoff⟩ := State.mem_rampWaiting.mp (List.mem_of_find?_eq_some h)
    exact ⟨hn, hdie, hreq, hoff⟩

/-- While no domain of the die ramps, one that is requested and off leaves a next one: the first in the order of R363. -/
theorem State.nextRamp_exists {s : State} {die n : Nat} (hn : n < 72) (hdie : pdDie n = die) (hreq : s.reqOn n = true)
    (hoff : (s.dom.get Domain.off n).state = 0) (hquiet : ∀ m, m < 72 → pdDie m = die → (s.dom.get Domain.off m).state ≠ 1) :
    ∃ m, s.nextRamp die = some m := by
  have hany : ¬ ((List.range 72).filter fun n => pdDie n = die).any (fun n => (s.dom.get Domain.off n).state = 1) = true := by
    simpa using hquiet
  rw [State.nextRamp_eq, if_neg hany, ← Option.isSome_iff_exists, List.find?_isSome]
  have hmem : n ∈ (s.rampWaiting die).toFinset := List.mem_toFinset.mpr (State.mem_rampWaiting.mpr ⟨⟨hn, hdie⟩, hreq, hoff⟩)
  obtain ⟨m, hm, hmin⟩ := Finset.exists_min_image _ pdOrder ⟨n, hmem⟩
  exact ⟨m, List.mem_toFinset.mp hm, List.all_eq_true.mpr fun q hq => decide_eq_true (hmin q (List.mem_toFinset.mpr hq))⟩

theorem State.startRamp_next {s : State} {die n : Nat} (h : s.nextRamp die = some n) :
    s.startRamp die = { s with dom := s.dom.set Domain.off n Domain.ramping } := by
  simp [State.startRamp, h, Domain.ramping]

theorem State.startRamp_none {s : State} {die : Nat} (h : s.nextRamp die = none) : s.startRamp die = s := by
  simp [State.startRamp, h]

theorem State.startRamp_frame (s : State) (die : Nat) : s.startRamp die = { s with dom := (s.startRamp die).dom } := by
  cases h : s.nextRamp die with
  | none => rw [State.startRamp_none h]
  | some n => rw [State.startRamp_next h]

/-- No domain starts to ramp but one of the die that is requested and off (R363). -/
theorem State.startRamp_keeps {s : State} {die q : Nat}
    (hq : ¬ (pdDie q = die ∧ s.reqOn q = true ∧ (s.dom.get Domain.off q).state = 0)) :
    (s.startRamp die).dom.get Domain.off q = s.dom.get Domain.off q := by
  cases h : s.nextRamp die with
  | none => rw [State.startRamp_none h]
  | some n =>
    obtain ⟨-, hdie, hreq, hoff⟩ := State.nextRamp_some h
    have hne : q ≠ n := by
      rintro rfl
      exact hq ⟨hdie, hreq, hoff⟩
    rw [State.startRamp_next h]
    exact Tbl.get_set_of_ne_default (Domain.ne_off (by decide)) hne _

/-- Where a domain of the die is requested and off, one of the die ramps (R363). -/
theorem State.startRamp_ramps {s : State} {die n : Nat} (hn : n < 72) (hdie : pdDie n = die) (hreq : s.reqOn n = true)
    (hoff : (s.dom.get Domain.off n).state = 0) :
    ∃ m, m < 72 ∧ pdDie m = die ∧ ((s.startRamp die).dom.get Domain.off m).state = 1 := by
  by_cases hquiet : ∀ m, m < 72 → pdDie m = die → (s.dom.get Domain.off m).state ≠ 1
  · obtain ⟨m, hm⟩ := State.nextRamp_exists hn hdie hreq hoff hquiet
    obtain ⟨hm72, hmdie, -, -⟩ := State.nextRamp_some hm
    refine ⟨m, hm72, hmdie, ?_⟩
    rw [State.startRamp_next hm]
    exact congrArg Domain.state (Tbl.get_set_self (Domain.ne_off (by decide)) s.dom m)
  · push Not at hquiet
    obtain ⟨m, hm72, hmdie, hm⟩ := hquiet
    refine ⟨m, hm72, hmdie, ?_⟩
    rw [State.startRamp_keeps fun h => by simp [hm] at h]
    exact hm

theorem State.setSubs_frame (s : State) (codes : List Nat) (g : Nat → Nat) (x : SubPort) :
    codes.foldl (fun t k => t.setSub (g k) x) s = { s with subs := (codes.foldl (fun t k => t.setSub (g k) x) s).subs } :=
  List.foldlRecOn (motive := fun t : State => t = { s with subs := t.subs }) codes _ rfl fun t ht k _ => by
    rw [ht]
    rfl

/-- A port that is switched off loses the two bits that are one (R410), and its sub-ports are DISABLED. -/
theorem State.writePortEn_off (s : State) (q : Nat) : ∃ w w' : Word,
    s.writePortEn q false = { (s.setRw (portReg q 0x104) w).setRw (portReg q 8) w' with subs := (s.writePortEn q false).subs } := by
  refine ⟨(s.rwAt (portReg q 0x104) &&& 0xFFFFFFFE) ||| 0, (s.rwAt (portReg q 8) &&& 0xFFFFFFFE) ||| 0, ?_⟩
  unfold State.writePortEn
  dsimp only
  rw [if_neg Bool.false_ne_true]
  exact State.setSubs_frame _ [0, 1, 2, 3] _ _

/-- A register that is none of the port's own keeps its word. -/
theorem State.writePortEn_keeps {s : State} (hrw : s.rw.ordered) {q : Nat} (hq : q < 0x310) :
    let t := s.writePortEn q false
    t.rw.ordered ∧ (∀ n, t.reqOn n = s.reqOn n) ∧ t = { s with rw := t.rw, subs := t.subs } := by
  obtain ⟨w, w', h⟩ := State.writePortEn_off s q
  have hord : (s.setRw (portReg q 0x104) w).rw.ordered := Tbl.ordered_set hrw _ _
  dsimp only
  rw [h]
  refine ⟨Tbl.ordered_set hord _ _, fun n => ?_, rfl⟩
  have hen : regAddr (Page.dom n) 0x104 ≠ portReg q 0x104 := by
    unfold portReg regAddr Page.dom Page.port
    omega
  have hctrl : regAddr (Page.dom n) 0x104 ≠ portReg q 8 := by
    unfold portReg regAddr
    omega
  have hword := State.rwAt_setRw hord (portReg q 8) (regAddr (Page.dom n) 0x104) w'
  rw [if_neg hctrl, State.rwAt_setRw hrw, if_neg hen] at hword
  exact congrArg (fun v : Word => v.getLsbD 0) hword

theorem halfPorts_lt {n q : Nat} (hn : n < 72) (hq : q ∈ halfPorts n) : q < 0x310 := by
  simp only [halfPorts, List.mem_map, List.mem_range] at hq
  obtain ⟨i, hi, rfl⟩ := hq
  omega

/-- The ports of a link half are DISABLED (R364). -/
def State.halfOff (s : State) (n : Nat) : State := (halfPorts n).foldl (fun t q => t.writePortEn q false) s

theorem State.halfOff_keeps {s : State} (hrw : s.rw.ordered) (n : Pd) :
    let t := s.halfOff n.val
    t.rw.ordered ∧ (∀ m, t.reqOn m = s.reqOn m) ∧ t = { s with rw := t.rw, subs := t.subs } := by
  refine List.foldlRecOn (motive := fun t : State => t.rw.ordered ∧ (∀ m, t.reqOn m = s.reqOn m) ∧ t = { s with rw := t.rw, subs := t.subs })
    _ _ ⟨hrw, fun _ => rfl, rfl⟩ fun t ht q hq => ?_
  obtain ⟨hord, hreqs, hframe⟩ := ht
  obtain ⟨hord', hreqs', hframe'⟩ := State.writePortEn_keeps hord (halfPorts_lt n.isLt hq)
  refine ⟨hord', fun m => (hreqs' m).trans (hreqs m), ?_⟩
  rw [hframe', hframe]

/-- REQ_ON of a domain holds the value written (R364). -/
def State.reqSet (s : State) (n : Nat) (on : Bool) : State := s.setRw (regAddr (Page.dom n) 0x104) (if on then 1 else 0)

theorem State.reqSet_reqOn {s : State} (hrw : s.rw.ordered) (n : Nat) (on : Bool) : (s.reqSet n on).reqOn n = on := by
  rw [State.reqOn, State.reqSet, State.rwAt_setRw_same hrw]
  cases on <;> rfl

/-- The state once REQ_ON holds the value written, and the ports of a link half that comes on are DISABLED (R364). -/
def State.requested (s : State) (n : Nat) (on : Bool) : State :=
  if on && pdOrder n = 6 then (s.reqSet n on).halfOff n else s.reqSet n on

theorem State.requested_spec {s : State} (hrw : s.rw.ordered) (n : Pd) (on : Bool) :
    let t := s.requested n.val on
    t.reqOn n.val = on ∧ t = { s with rw := t.rw, subs := t.subs } := by
  have hord : (s.reqSet n.val on).rw.ordered := Tbl.ordered_set hrw _ _
  obtain ⟨-, hreqs, hframe⟩ := State.halfOff_keeps hord n
  unfold State.requested
  dsimp only
  split
  · exact ⟨(hreqs n.val).trans (State.reqSet_reqOn hrw n.val on), hframe⟩
  · exact ⟨State.reqSet_reqOn hrw n.val on, rfl⟩

theorem State.writeReqOn_refused {s : State} {n : Nat} {on : Bool} (hnew : s.reqOn n ≠ on) (hno : s.reqAllowed n on = false) :
    s.writeReqOn n on =
      (s.count (regAddr (Page.dom n) 0x4C) 1).raise (Page.dom n) Code.pwrDomainRefused (cadPayload s 0 n 0 0) := by
  simp [State.writeReqOn, hnew, hno]

/-- The state once a write of REQ_ON has taken effect, and before a ramp starts: a domain switched off is off at once (R364). -/
def State.switched (s : State) (n : Nat) (on : Bool) : State :=
  if on then s.requested n on else { s.requested n on with dom := (s.requested n on).dom.set Domain.off n Domain.off }

theorem State.writeReqOn_allowed {s : State} {n : Nat} {on : Bool} (hnew : s.reqOn n ≠ on) (hok : s.reqAllowed n on = true) :
    s.writeReqOn n on = (s.switched n on).startRamp (pdDie n) := by
  simp [State.writeReqOn, hnew, hok, State.switched, State.requested, State.reqSet, State.halfOff]

theorem State.switched_spec {s : State} (hrw : s.rw.ordered) (n : Pd) (on : Bool) :
    let t := s.switched n.val on
    t.reqOn n.val = on ∧ t = { s with rw := t.rw, dom := t.dom, subs := t.subs } ∧
      t.dom = (if on then s.dom else s.dom.set Domain.off n.val Domain.off) := by
  obtain ⟨hreq, hframe⟩ := State.requested_spec hrw n on
  have hdom : (s.requested n.val on).dom = s.dom := by rw [hframe]
  unfold State.switched
  dsimp only
  split
  · exact ⟨hreq, by rw [hframe], hdom⟩
  · exact ⟨hreq, by rw [hframe], by rw [hdom]⟩

theorem State.startRamp_reqOn (s : State) (die n : Nat) : (s.startRamp die).reqOn n = s.reqOn n := by
  rw [State.startRamp_frame]
  rfl

/-- Settles O39: each act on a domain by what it writes, and the ramp that may follow by the domains that it cannot pick. -/
theorem droopAndDomains : Obligations.DroopAndDomains := by
  unfold Obligations.DroopAndDomains
  refine ⟨?_, ?_, ?_, ?_, ?_, ?_⟩
  · intro s pd htab hvcd hon hdroop
    have hne : ({ s.dom.get Domain.off pd.val with droop := true } : Domain) ≠ Domain.off := Domain.ne_off (by simp [hon])
    exact ⟨_, if_pos (by simp [hvcd, hon, hdroop]), rfl, Tbl.get_set_self hne _ _, fun q hq => Tbl.get_set_of_ne_default hne hq _,
      State.cntAt_count_succ _ _ 0⟩
  · intro s pd ac htab hdroop
    obtain ⟨hdom, -, -, -, hcnt, -⟩ := htab
    exact ⟨_, if_pos hdroop, rfl, (Tbl.get_set_ordered hdom _ _ _).trans (if_pos rfl), State.cntAt_count_same hcnt _ _⟩
  · intro s pd htab hramp
    have hdone : (s.rampDone pd.val).dom.get Domain.off pd.val = ⟨2, pdNominal pd.val s.bel.modeAct, false⟩ := by
      rw [State.rampDone_eq hramp]
      exact Tbl.get_set_self (Domain.ne_off two_ne_zero) _ _
    refine ⟨(s.rampDone pd.val).startRamp (pdDie pd.val), if_pos hramp, ?_, ?_⟩
    · rw [State.startRamp_frame, State.rampDone_eq hramp]
      rfl
    · rw [State.startRamp_keeps (by simp [hdone]), hdone]
      exact ⟨rfl, rfl⟩
  · intro s pd on hsame
    exact (execReqOn_eq pd on s).trans (congrArg Host.Outcome.next (if_pos hsame))
  · intro s pd on hnew hno _ _
    refine ⟨_, (execReqOn_eq pd on s).trans (congrArg Host.Outcome.next (State.writeReqOn_refused hnew hno)), rfl, rfl, ?_⟩
    rw [State.cntAt_raise _ _ _ _ (by unfold regAddr; omega) (by unfold regAddr; omega)]
    exact State.cntAt_count_succ _ _ 0
  · intro s pd on htab hnew hok
    obtain ⟨hdom, hrw, -⟩ := htab
    obtain ⟨hreq, hframe, hset⟩ := State.switched_spec hrw pd on
    refine ⟨_, (execReqOn_eq pd on s).trans (congrArg Host.Outcome.next (State.writeReqOn_allowed hnew hok)), ?_,
      (State.startRamp_reqOn _ _ _).trans hreq, fun q hq => ?_, fun hon => ?_, fun hon hoff => ?_⟩
    · rw [State.startRamp_frame, hframe]
    · have hne : q ≠ pd.val := by
        rintro rfl
        exact hq rfl
      rw [State.startRamp_keeps fun h => hq h.1, hset]
      split
      · rfl
      · exact Tbl.get_set_of_ne hdom hne _
    · subst hon
      rw [State.startRamp_keeps fun h => by simp [hreq] at h, hset, if_neg Bool.false_ne_true, Tbl.get_set_ordered hdom, if_pos rfl]
    · subst hon
      rw [if_pos rfl] at hset
      exact State.startRamp_ramps pd.isLt rfl hreq (by rw [hset]; exact hoff)

end Sys2Proof.Machine
end
